-- ==== Sys2Proof/Word.lean ====
section
/-! DEFINITION. The word types of the IZ9400 (R2, R3) and their plainest arithmetic. -/
namespace Sys2Proof

/-- R3: a byte, 8 bits. -/
abbrev Byte := BitVec 8
/-- R3: a dword, 64 bits, the width of a scalar register (R45). -/
abbrev Word := BitVec 64
/-- R3: a word, 32 bits, one vector lane (R45). -/
abbrev Lane := BitVec 32

/-- A finite map kept as plain data: keys strictly rising, no entry equal to what an unlisted key reads as. -/
abbrev SMap (α : Type) := List (Nat × α)

/-- Bits hi..lo of a natural number (R8, `v[hi:lo]`). -/
def bits (v hi lo : Nat) : Nat := v / 2 ^ lo % 2 ^ (hi + 1 - lo)

/-- Bit i of a natural number. -/
def bit (v i : Nat) : Bool := v / 2 ^ i % 2 == 1

/-- R9 `sext`: the low n bits read as two's complement. -/
def sext (v n : Nat) : Int :=
  let r := v % 2 ^ n
  if 2 * r < 2 ^ n then (r : Int) else (r : Int) - (2 ^ n : Nat)

/-- R9 `trunc` of an integer of any sign. -/
def truncI (v : Int) (n : Nat) : Nat := (v % (2 ^ n : Nat)).toNat

/-- A natural number as a dword. -/
def word (n : Nat) : Word := BitVec.ofNat 64 n

/-- R9 `trunc(v, 64)` of an integer. -/
def wordI (v : Int) : Word := BitVec.ofInt 64 v

end Sys2Proof
end

