-- ==== Sys2Proof/Machine/Sparse.lean ====
section
/-! DEFINITION. Sparse maps as canonical lists: finding, inserting, deleting, and the form they keep. -/
namespace Sys2Proof.Machine

/-- The entry of a key, if the map lists it. -/
def smFind {α : Type} : SMap α → Nat → Option α
  | [], _ => none
  | (k, a) :: t, n => if n = k then some a else smFind t n

/-- The map with a key's entry put in its place. -/
def smIns {α : Type} : SMap α → Nat → α → SMap α
  | [], n, a => [(n, a)]
  | (k, b) :: t, n, a =>
    if n < k then (n, a) :: (k, b) :: t else if n = k then (n, a) :: t else (k, b) :: smIns t n a

/-- The map without a key. -/
def smDel {α : Type} (m : SMap α) (n : Nat) : SMap α := m.filter fun e => e.1 != n

/-- What a key reads as, d when it is not listed. -/
def smGet {α : Type} (d : α) (m : SMap α) (n : Nat) : α := (smFind m n).getD d

/-- The map with a key reading as a: a key that reads as d is not listed. -/
def smSet {α : Type} [DecidableEq α] (d : α) (m : SMap α) (n : Nat) (a : α) : SMap α :=
  if a = d then smDel m n else smIns m n a

/-- The map with one key's value changed. -/
def smMod {α : Type} [DecidableEq α] (d : α) (m : SMap α) (n : Nat) (f : α → α) : SMap α :=
  smSet d m n (f (smGet d m n))

/-- Keys strictly rising, all above a bound. -/
def smSortedFrom {α : Type} : Nat → SMap α → Bool
  | _, [] => true
  | lo, (k, _) :: t => decide (lo ≤ k) && smSortedFrom (k + 1) t

/-- The canonical form: keys strictly rising, no entry equal to what an unlisted key reads as. -/
def smWf {α : Type} [DecidableEq α] (d : α) (m : SMap α) : Bool :=
  smSortedFrom 0 m && m.all fun e => decide (e.2 ≠ d)

/-- Consecutive keys from n reading as the values of a list. -/
def smSetList {α : Type} [DecidableEq α] (d : α) : SMap α → Nat → List α → SMap α
  | m, _, [] => m
  | m, n, a :: as => smSetList d (smSet d m n a) (n + 1) as

/-- What k consecutive keys from n read as. -/
def smGetList {α : Type} (d : α) (m : SMap α) : Nat → Nat → List α
  | _, 0 => []
  | n, k + 1 => smGet d m n :: smGetList d m (n + 1) k

end Sys2Proof.Machine
end

