-- ==== Sys2Proof/Config.lean ====
section
/-! DEFINITION. What an implementation fixes, and the free values: constants with no body, applied to a counter of the
state, where the spec leaves a value or a choice open (R7). -/
namespace Sys2Proof.Config

/-- A choice of two outcomes that the spec calls unpredictable (R7), by the state's counter. -/
opaque freeBit : Nat → Bool
/-- A choice of one of several outcomes, or a value of unstated size, by the state's counter. -/
opaque freeNat : Nat → Nat
/-- The byte that an access returns where the spec names no value, by the state's counter. -/
opaque freeByte : Nat → Byte
/-- R43, R115: a lane below VL that the vector of a q latch does not have, as a vector source reads it; by the context's turns
and the lane. -/
opaque latchLane : Nat → Nat → Lane
/-- R60: whether a byte that both a bundle's M operation and its engine command touch is as the one or as the other leaves it, by
the state's counter. -/
opaque mate : Nat → Bool
/-- R205, R417, R418: whether an access that failed when its link was lost was performed, by the state's counter. -/
opaque lost : Nat → Bool
/-- R192: the LLC slice at which a physical line's atomics of agent cores and other devices are ordered. -/
opaque lineSlice : Nat → Nat
/-- Which hardware move is made next when nothing is scheduled (log entry 3). -/
opaque pick : Nat → Nat
/-- How much device time passes in a step, in nanoseconds (R6: no figure in one unit implies another). -/
opaque elapsed : Nat → Nat
/-- R302: the 48-bit TAG that the Chuck draws at random when a future opens. -/
opaque futureTag : Nat → BitVec 48
/-- R368, R369: SHA3-512 of a byte string; the manual names the function by reference only. -/
opaque sha3 : List Byte → BitVec 512
/-- R368: whether an ML-DSA-87 signature verifies: key, message, signature. -/
opaque verify : List Byte → List Byte → List Byte → Bool
/-- R370, R371: the alias key's signature over a message, from the seed that the device secret and MEAS0 give. -/
opaque aliasSign : BitVec 512 → List Byte → List Byte
/-- R370: the alias public key, 2,592 bytes, from the same seed. -/
opaque aliasKey : BitVec 512 → List Byte
/-- R370: the identity public key, from the unique device secret. -/
opaque identityKey : BitVec 512 → List Byte
/-- R370: the identity key's signature over a message. -/
opaque identitySign : BitVec 512 → List Byte → List Byte
/-- R366, R371: the fused egress limits, as the fuse summary gives them. -/
opaque fusedEgress : List Nat
/-- R369, R371: the bytes of a partition's configuration record, or of the partition table, from its fields; the manual
gives no layout. -/
opaque confBytes : List Nat → List Byte
/-- R369: which of MEAS4 to MEAS7 the digest of the partition table (true) or of the fuse summary extends. -/
opaque measSlot : Bool → Nat
/-- R371: the fuse summary of 32 bytes. -/
opaque fuseSummary : List Nat → List Byte
/-- R432: whether the memories and ports of step 2, or the links of step 3, train, by the state's counter. -/
opaque trained : Nat → Bool
/-- R416: whether a spindle passes its self-test, by the state's counter. -/
opaque selfTest : Nat → Bool
/-- R366, R431: the fused power maximum in watts, 2,400 (R15). -/
def fusedWatts : Nat := 2400

/-- R372: the agent core, among those of its partition, and the identity in that core's interrupt file, that the supervisor
names for a class: the manual gives no register for it. Arguments: partition, class, the state's counter. -/
opaque msiCore : Nat → Nat → Nat → Nat
opaque msiIdentity : Nat → Nat → Nat → Nat
/-- R348: whether an agent core uses a translation, or an instruction line, that it holds, rather than the one in memory; by
the state's counter and the address. -/
opaque stale : Nat → Nat → Bool
/-- R348: whether a vector element that RISC-V calls agnostic is overwritten with ones; by the state's counter and the element. -/
opaque agnostic : Nat → Nat → Bool
/-- R309, R360: the 24-bit field NPF for a count of prefill tokens that does not fit it, by the count (log entry 102). -/
opaque fullNpf : Nat → BitVec 24

end Sys2Proof.Config
end

