-- ==== Sys2Proof/Syntax.lean ====
section
/-! DEFINITION. The instructions and events of the IZ9400: one constructor of Instr for every row of the opcode table
(spec/opcode_table.json), with the operand records of the slot-word formats (R36, R37) and of the events. -/
namespace Sys2Proof

/-- R36, R37: format RRR with its guard predicate and guard negate. -/
structure RRR where
  gp : BitVec 5
  gn : Bool
  d : BitVec 9
  a : BitVec 9
  b : BitVec 9
  c : BitVec 9
  ty : BitVec 6
  md : BitVec 8
  deriving DecidableEq, Repr

/-- R37: format RRI. -/
structure RRI where
  gp : BitVec 5
  gn : Bool
  d : BitVec 9
  a : BitVec 9
  imm : BitVec 32
  deriving DecidableEq, Repr

/-- R37: format RI. -/
structure RI where
  gp : BitVec 5
  gn : Bool
  d : BitVec 9
  imm : BitVec 41
  deriving DecidableEq, Repr

/-- R37: format BR. -/
structure BRF where
  gp : BitVec 5
  gn : Bool
  link : BitVec 9
  off : BitVec 41
  deriving DecidableEq, Repr

/-- R37: format MEM. -/
structure MEMF where
  gp : BitVec 5
  gn : Bool
  data : BitVec 9
  base : BitVec 9
  off : BitVec 24
  scope : BitVec 3
  order : BitVec 3
  policy : BitVec 2
  deriving DecidableEq, Repr

/-- R37: format ENG, with the produced token and the three consumed tokens. -/
structure ENGF where
  gp : BitVec 5
  gn : Bool
  prod : BitVec 5
  c1 : BitVec 5
  c2 : BitVec 5
  c3 : BitVec 5
  a : BitVec 9
  b : BitVec 9
  c : BitVec 9
  md : BitVec 3
  deriving DecidableEq, Repr

/-- R354: an R-type Xmerf instruction's register numbers. -/
structure RTy where
  rd : BitVec 5
  rs1 : BitVec 5
  rs2 : BitVec 5
  deriving DecidableEq, Repr

/-- R246: the command streams of a partition. -/
inductive Stream | H | A | D
  deriving DecidableEq, Repr

/-- R410: the units that send a heartbeat, and the parts whose death resets the device. -/
inductive UnitKind | agentCore | spindle | tile | slice | linkChuckHeadstockDmc
  deriving DecidableEq, Repr

/-- R191: the atomic operations. -/
inductive AmoOp | add | and | or | xor | minS | minZ | maxS | maxZ | swap | cas | addF32
  deriving DecidableEq, Repr

/-- R204: a host access over CXL.mem to device memory, by local address. -/
structure HostReq where
  write : Bool
  addr : Nat
  len : Nat
  data : List Byte
  deriving DecidableEq, Repr

/-- R345: what a remote Etfen request asks. -/
inductive RemoteKind
  | read | write | amo (op : AmoOp) (n : Nat)
  /-- R227: bytes of a `cp.rput` of `total` bytes to the stash of a tile from offset `base` on, the request's address being the
  offset of these bytes, and the offset of the barrier, if any -/
  | rput (tile base total : Nat) (bar : Option Nat)
  deriving DecidableEq, Repr

/-- R345: a request of another device, with the number of the issuing partition. -/
structure RemoteReq where
  dev : Nat
  part : Nat
  kind : RemoteKind
  addr : Nat
  len : Nat
  data : List Byte
  deriving DecidableEq, Repr

/-- R352: the kinds of an agent core's access. -/
inductive AgentKind | load | store | fetch | amo (op : AmoOp) | lr | sc
  deriving DecidableEq, Repr

/-- R203: an agent core's access, with its annotations. -/
structure AgentAcc where
  kind : AgentKind
  va : Word
  len : Nat
  data : List Byte
  rd : Nat
  aq : Bool
  rl : Bool
  deriving DecidableEq, Repr

/-- R4, R351, R414, R421: the register a write outside the slots names. -/
inductive RegTarget
  | csr (core num : Nat)
  | controlByHost (part offset : Nat)
  | controlByCore (core offset : Nat)
  deriving DecidableEq, Repr

/-- R368: a firmware image: class, version, the chain of keys with their certificates, payload and signature. -/
structure Image where
  cls : Nat
  version : Nat
  keys : List (List Byte × List Byte)
  body : List Byte
  sig : List Byte
  deriving DecidableEq, Repr

/-- R344: the configuration of a partition, the resources it owns. -/
structure PartConf where
  tiles : List Nat
  slices : List Nat
  hbm : List Nat
  lpddr : List Nat
  cores : List Nat
  uec : List Nat
  shares : List (Nat × Nat)
  seqLo : Nat
  seqN : Nat
  seqCached : Nat
  futLo : Nat
  futN : Nat
  adpLo : Nat
  adpN : Nat
  slotLo : Nat
  slotN : Nat
  supervisor : List Byte
  /-- R420: the local ranges, as first byte and length, over which the DMC sets the partition's HDM decoder -/
  hdm : List (Nat × Nat)
  deriving DecidableEq, Repr

/-- The rows of the opcode table: slot operations (R65, R66), Xmerf instructions (R354) and the device's events. -/
inductive Instr
  /-- R432. A device reset starts the boot order: the DMC ROM verifies firmware, memories and links train, DEVNUM is set and the partitions are configured. -/
  | deviceReset
  /-- R253. A spindle offers a cycle to the next context in rotation that meets the 4-cycle rule; the context issues its next bundle or, if that bundle is held, the cycle passes to the next such context. -/
  | turnOffer (spindle : Nat)
  /-- R61. A fetch of the lines at a branch target or of the next bundle arrives, and the waiting context may issue. -/
  | fetchComplete (ctx : Nat)
  /-- R54. A slot result lands in its destination register, its q latch, or as a channel push, and the flags it raised are ORed in. -/
  | resultLand (ctx index : Nat)
  /-- R255. At each cycle at which CYC is a multiple of 1,024, every context of the spindle gets BUD := REFILL, and a context parked on budget rejoins the rotation. -/
  | budgetRefill (spindle : Nat)
  /-- R262. SDL.COUNT reaches 0 with a service request pending, and entry is forced at the next bundle boundary. -/
  | serviceDeadline (ctx : Nat)
  /-- R381. A pending request is entered: results land, a pending reclaim is applied, the record is written, the service bank is exchanged, and fetch starts at offset 0x40 times KIND. -/
  | serviceEntry (ctx : Nat)
  /-- R208. A fill, a lease grant or a home slice's answer reaches a parked access, and its bundle passes or faults. -/
  | homeAnswer (ctx : Nat)
  /-- R328. A write that leaves a watched entry usable wakes every waiter on that entry and drops the cached entries read from its line. -/
  | monitorWake (slice entry : Nat)
  /-- R337. The KV walker completes a walk for a KVA and returns the page with its scales, or F_KVPAGE, F_KVHDR or F_ARG. -/
  | kvWalkAnswer (ctx : Nat)
  /-- R219. A lease grant arrives for a stash line waiting in state F; the line fills and the touching bundle passes. -/
  | leaseGrant (tile line : Nat)
  /-- R218. A stash or instruction-cache line reaches its lease expiry T; the line is dropped or its lease is returned. -/
  | leaseExpiry (tile line : Nat)
  /-- R218. A dirty line with a quarter of its lease class left starts its write-back to the home. -/
  | writebackStart (tile line : Nat)
  /-- R219. The home accepts a line's write-back data, and the line leaves state B. -/
  | writebackAccept (tile line : Nat)
  /-- R183. An SC announcement reaches every core 24 cycles of the SC network clock after it is sent, and the SC event takes effect. -/
  | scAnnounceArrive
  /-- R144. A queue's head command starts once every token it consumes has been signalled, and the start checks are made. -/
  | engineCmdStart (spindle q : Nat)
  /-- R144. An engine command completes when its writes are performed at tile scope and any ring pop is made, and it signals its produced token. -/
  | engineCmdComplete (spindle q : Nat)
  /-- R228. A copy channel delivers a byte of its head command, and WPn is updated. -/
  | copyDeliver (spindle channel : Nat)
  /-- R189. A copy completes when its writes are performed at its completion scope. -/
  | copyComplete (spindle channel : Nat)
  /-- R297. A sent message reaches its destination mailbox and is delivered or refused. -/
  | messageArrive (sender : Nat)
  /-- R298. The answer to an amsend returns to the sender; it frees the sender's count and, for a refusal, enters its refusal queue. -/
  | amsendAnswer (sender : Nat)
  /-- R294. The peer spindle answers a chbind or chunbind, and the held operation completes. -/
  | peerSpindleAnswer (ctx : Nat)
  /-- R271. The Chuck answers a held future, sequence or adapter operation, and the operation passes. -/
  | chuckAnswer (ctx : Nat)
  /-- R258. When the free lanes reach a waiting claim's floor and it is the oldest waiter, the claim is granted. -/
  | claimGrant (ctx : Nat)
  /-- R290. An idle helper, or a join, takes a task in the search order and starts it at ENTRY with x1-x4 set. -/
  | taskTake (ctx : Nat)
  /-- R281. TIME reaches the deadline of a sleep, and the context leaves its park. -/
  | sleepDeadline (ctx : Nat)
  /-- R306. A future's deadline event reaches its entry, and the future ends by timeout. -/
  | futureDeadline (index : Nat)
  /-- R332. The sweep of a retiring ASID completes; the ASID becomes free and held asid.ret operations return OK. -/
  | asidSweepDone (part asid : Nat)
  /-- R422. A host write to a Faceplate slot completes, and Headstock examines that slot for acceptance. -/
  | faceplateSlotWrite (part offset : Nat) (value : Word)
  /-- R422. A slot whose dword 7 equals FPNEXT is copied whole into stream H when the stream has room, and FPNEXT is incremented. -/
  | faceplateAccept (part : Nat)
  /-- R424. An agent core's write to a stream A slot completes, and acceptance is tried against APNEXT. -/
  | streamASlotWrite (core offset : Nat) (value : Word)
  /-- R423. Headstock takes a NOP command and reports OK. -/
  | hsNop (part : Nat) (stream : Stream)
  /-- R423. Headstock takes a LAUNCH command, copies its launch record and enters it in the command's stream. -/
  | hsLaunch (part : Nat) (stream : Stream)
  /-- R423. Headstock takes a MARK command and holds its stream until every earlier launch of the stream has ended. -/
  | hsMark (part : Nat) (stream : Stream)
  /-- R423. Headstock writes back the dirty copies of a range's lines, waits for their writes, and sets their publish bits as one release at .sys. -/
  | hsPublish (part : Nat) (stream : Stream)
  /-- R250. Headstock checks a launch record, occupies its tiles, reads the image, runs dload, sets the engine state and starts context 0 of each selected spindle. -/
  | launchStart (part : Nat) (stream : Stream)
  /-- R251. When every control context has ended and every command of the launch is done, Headstock writes the completion record and frees the tiles. -/
  | launchEnd (launch : Nat)
  /-- R346. The DMC configures a partition after checking that its resources are disjoint, and clearing begins. -/
  | partitionConfigure (part : Nat) (conf : PartConf)
  /-- R346. Clearing of a configuring or resetting partition completes; the partition runs and its agent firmware enters the supervisor. -/
  | partitionClearDone (part : Nat)
  /-- R346. A reset requested by the supervisor or the DMC ends the partition's launches, contexts, futures, sequences and ASIDs, and empties its loss list. -/
  | partitionReset (part : Nat)
  /-- R346. The DMC removes a partition; it is reset and its memory channels are zeroed before they pass on. -/
  | partitionRemove (part : Nat)
  /-- R410. A unit misses a third consecutive 10 us heartbeat window, is declared dead and is fenced. -/
  | heartbeatMiss (kind : UnitKind) (unit : Nat)
  /-- R412. The directory and lease walk for a dead unit ends, and its end is posted as class 6. -/
  | lossWalkEnd (part : Nat) (kind : UnitKind) (unit : Nat)
  /-- R406. The patrol scrub reads a memory block, repairs a corrected error in place, and counts an uncorrectable block in UECNT. -/
  | patrolScrub (block : Nat)
  /-- R417. An Etfen port gives up after 256 retried flits or 100 us without an accepted flit; routes are changed, and an unreachable device fails its outstanding operations. -/
  | etfenLinkDown (port : Nat) (unreachable : List Nat)
  /-- R417. A route to an unreachable device returns, and requests to it flow again. -/
  | etfenRouteReturn (device : Nat)
  /-- R345. A remote Etfen request arrives and is served only in memory of the partition with the same number, and is refused with F_ADDR otherwise. -/
  | etfenRequest (req : RemoteReq)
  /-- R418. The host link is lost: clean host lines are dropped, dirty ones are held, stream H stops, and host-range accesses fail. -/
  | hostLinkLoss
  /-- R418. The host link recovers within HLHOLD; held lines are written back and accesses succeed again. -/
  | hostLinkRecover
  /-- R418. HLHOLD passes without recovery; the held lines are discarded and logged. -/
  | hostHoldExpiry (part : Nat)
  /-- R204. A host read or write over CXL.mem reaches device memory and is performed in delivery order. -/
  | hostAccess (req : HostReq)
  /-- R367. The host writes the window registers in CXL configuration space; lines in a removed range are written back and invalidated first. -/
  | hostWindowWrite (part window : Nat) (base size : Nat) (r w : Bool)
  /-- R430. A die's supply sags below its threshold, and its clock period is stretched by up to 50 %. -/
  | supplySag (die : Nat)
  /-- R430. The supply recovers, and the die's clock is restored. -/
  | supplyRecover (die : Nat)
  /-- R431. A write to the power limit register sets WATTS, clamped to the fused range, or clears LIM. -/
  | powerLimitWrite (value : Word)
  /-- R431. The DMC lowers or raises FCLK to keep the measured power within WATTS, setting LIM and posting class 8 when the limit is reached. -/
  | powerClockAdjust (mhz : Nat)
  /-- R414. A write naming a listed line zeroes the line at its home and removes it from the loss list. -/
  | llclrWrite (part : Nat) (value : Word)
  /-- R414. A write of TAG and NBM re-encodes blocks from FMTA under the new code tag, skipping uncorrectable blocks. -/
  | fmtcWrite (part : Nat) (value : Word)
  /-- R4. A write to a register or field with no row of its own stores the value under its access code. -/
  | registerWrite (target : RegTarget) (value : Word)
  /-- R428. A future-completion message arriving at the partition's completion endpoint is processed as fut.done or fut.fail and answered with a status. -/
  | uecCompletion (endpoint : Nat) (payload : List Byte)
  /-- R371. The DMC answers a report request for a scope and nonce with a report signed by the alias key. -/
  | attestReport (requester : Option Nat) (scope : Nat) (nonce : List Byte)
  /-- R369. A measurement register is extended with a 64-byte digest. -/
  | measExtend (part : Nat) (digest : List Byte)
  /-- R203. An agent core performs an RVWMO access, checked by its capability entries and scoped by its target. -/
  | agentAccess (core : Nat) (acc : AgentAcc)
  /-- R401. The DMC raises a debugger halt on a context. -/
  | learoHalt (ctx : Nat)
  /-- R401. The DMC resumes a halted or parked context as rfs does, omitting the exchange after PARK. -/
  | learoResume (ctx : Nat)
  /-- R401. The DMC resumes a context for one bundle and halts it again. -/
  | learoStep (ctx : Nat)
  /-- R401. The DMC sets or clears a context's debug enable. -/
  | learoDbgen (ctx : Nat) (on : Bool)
  /-- R401. The DMC freezes a tile's queues after their running commands complete. -/
  | learoFreeze (tile : Nat)
  /-- R401. The DMC thaws a tile's frozen queues. -/
  | learoThaw (tile : Nat)
  /-- R401. The DMC reads a queue's stop record. -/
  | learoRdq (spindle q : Nat)
  /-- R386. The DMC restarts a stopped queue's head command. -/
  | learoRestart (spindle q : Nat)
  /-- R386. The DMC skips a stopped queue's head command and restarts the queue. -/
  | learoSkip (spindle q : Nat)
  /-- R401. The DMC reads an item of a context's state, as dbg.rd does. -/
  | learoRdctx (ctx : Nat) (sel : Word)
  /-- R401. The DMC writes an item of a context's state, as dbg.wr does. -/
  | learoWrctx (ctx : Nat) (sel value : Word)
  /-- R401. The DMC reads stash bytes by offset. -/
  | learoRdstash (tile offset len : Nat)
  /-- R401. The DMC writes stash bytes by offset. -/
  | learoWrstash (tile offset : Nat) (data : List Byte)
  /-- R401. The DMC kills a context as ctxkill does. -/
  | learoKill (ctx : Nat)
  /-- R380. A Learo request asks a context to move its mailboxes into a named save area. -/
  | learoMsg (ctx : Nat) (area : Word)
  /-- R380. A Learo pre-emption request carries a save-area address to a context. -/
  | learoSwap (ctx : Nat) (area : Word)
  /-- R416. The DMC kills every context of a dead spindle, then clears and self-tests it, returning it free or retiring it. -/
  | spreset (spindle : Nat)
  /-- R416. The DMC kills every context of a dead spindle and retires it. -/
  | spretire (spindle : Nat)
  /-- R368. In recovery boot the DMC accepts a firmware image through the management mailbox and verifies it against ROOTH, its signature and MINVER. -/
  | managementMailboxImage (image : Image)
  /-- R431. The fused per-rail current limiter stretches the clock of a die when a rail reaches its current limit, whatever WATTS holds. -/
  | railCurrentLimit (die : Nat)
  /-- R356. Takes a posted call from the tool queue and writes its descriptor. -/
  | futTake (f : RTy)
  /-- R357. Completes a future with reply tokens. -/
  | futDone (f : RTy)
  /-- R358. Ends a future with failure. -/
  | futFail (f : RTy)
  /-- R359. Extends a taken future's deadline up to OPENED + XMAX. -/
  | futExt (f : RTy)
  /-- R360. Writes a snapshot of a sequence entry. -/
  | sqPeek (f : RTy)
  /-- R361. Creates a sequence with its queues. -/
  | sqCtlCreate (f : RTy)
  /-- R361. Retires a sequence. -/
  | sqCtlRetire (f : RTy)
  /-- R361. Frees a retired sequence. -/
  | sqCtlFree (f : RTy)
  /-- R361. Marks an adapter resident and moves its adapter-absent sequences to the fill state. -/
  | sqCtlAdpres (f : RTy)
  /-- R361. Appends tokens to a sequence's prefill queue. -/
  | sqCtlPush (f : RTy)
  /-- R361. Removes acknowledged tokens from a sequence's output queue. -/
  | sqCtlOutack (f : RTy)
  /-- R362. Sets the partition's call-token range. -/
  | sqCfgCallTokenRange (f : RTy)
  /-- R362. Sets the call timeout. -/
  | sqCfgCto (f : RTy)
  /-- R362. Sets the timeout token string. -/
  | sqCfgTimeoutString (f : RTy)
  /-- R362. Sets the failure token string. -/
  | sqCfgFailureString (f : RTy)
  /-- R362. Sets the maximum deadline extension. -/
  | sqCfgXmax (f : RTy)
  /-- R362. Sets the partition's KV root table base. -/
  | sqCfgKvrt (f : RTy)
  /-- R362. Enables or disables the future-completion endpoint. -/
  | sqCfgUecen (f : RTy)
  /-- R363. Reports which capability entry would admit an access. -/
  | capProbe (f : RTy)
  /-- R100. Writes the wrapped 64-bit sum of two integer sources. -/
  | add (f : RRR)
  /-- R100. Writes the wrapped 64-bit difference. -/
  | sub (f : RRR)
  /-- R100. Adds a sign-extended 32-bit immediate. -/
  | addi (f : RRI)
  /-- R100. Writes the low 64 bits of the product. -/
  | mul (f : RRR)
  /-- R100. Writes the high 64 bits of the signed product. -/
  | mulhS (f : RRR)
  /-- R100. Writes the high 64 bits of the unsigned product. -/
  | mulhZ (f : RRR)
  /-- R102. Signed division rounded toward zero, with fixed results for a zero divisor and for overflow. -/
  | divS (f : RRR)
  /-- R102. Unsigned division, with all ones for a zero divisor. -/
  | divZ (f : RRR)
  /-- R102. Signed remainder, which takes the sign of the dividend. -/
  | remS (f : RRR)
  /-- R102. Unsigned remainder. -/
  | remZ (f : RRR)
  /-- R101. Signed saturating add, recording SATF.IS when clamped. -/
  | addsS (f : RRR)
  /-- R101. Unsigned saturating add. -/
  | addsZ (f : RRR)
  /-- R101. Signed saturating subtract. -/
  | subsS (f : RRR)
  /-- R101. Unsigned saturating subtract. -/
  | subsZ (f : RRR)
  /-- R101. Signed minimum. -/
  | minS (f : RRR)
  /-- R101. Unsigned minimum. -/
  | minZ (f : RRR)
  /-- R101. Signed maximum. -/
  | maxS (f : RRR)
  /-- R101. Unsigned maximum. -/
  | maxZ (f : RRR)
  /-- R103. Bitwise and. -/
  | and (f : RRR)
  /-- R103. Bitwise or. -/
  | or (f : RRR)
  /-- R103. Bitwise exclusive or. -/
  | xor (f : RRR)
  /-- R103. A and not B. -/
  | andn (f : RRR)
  /-- R103. And with a sign-extended immediate. -/
  | andi (f : RRI)
  /-- R103. Or with a sign-extended immediate. -/
  | ori (f : RRI)
  /-- R103. Exclusive or with a sign-extended immediate. -/
  | xori (f : RRI)
  /-- R103. Shift left by a register count. -/
  | shl (f : RRR)
  /-- R103. Logical shift right by a register count. -/
  | shrZ (f : RRR)
  /-- R103. Arithmetic shift right by a register count. -/
  | shrS (f : RRR)
  /-- R103. Shift left by an immediate count. -/
  | shli (f : RRI)
  /-- R103. Logical shift right by an immediate count. -/
  | shriZ (f : RRI)
  /-- R103. Arithmetic shift right by an immediate count. -/
  | shriS (f : RRI)
  /-- R103. Rotate right by a register count. -/
  | rot (f : RRR)
  /-- R100. Shifts A left by 1 to 4 and adds B. -/
  | shadd (f : RRR)
  /-- R104. Writes a sign-extended 41-bit immediate. -/
  | movi (f : RI)
  /-- R104. Replaces bits 63:41 of the destination with a 23-bit immediate. -/
  | movhi (f : RI)
  /-- R105. Extracts a bit field with sign extension. -/
  | bfxS (f : RRI)
  /-- R105. Extracts a bit field with zero extension. -/
  | bfxZ (f : RRI)
  /-- R105. Inserts the low bits of A into a field of the destination. -/
  | bfi (f : RRI)
  /-- R106. Counts leading zero bits. -/
  | clz (f : RRR)
  /-- R106. Counts trailing zero bits. -/
  | ctz (f : RRR)
  /-- R106. Counts one bits. -/
  | popc (f : RRR)
  /-- R106. Low 64 bits of the carry-less product. -/
  | clmul (f : RRR)
  /-- R106. High 64 bits of the carry-less product. -/
  | clmulh (f : RRR)
  /-- R106. Reverses the byte order. -/
  | bswap (f : RRR)
  /-- R106. Reverses the bit order. -/
  | brev (f : RRR)
  /-- R107. Writes a predicate from a condition on two registers. -/
  | cmp (f : RRR)
  /-- R107. Writes a predicate from a condition on a register and an immediate. -/
  | cmpi (f : RRI)
  /-- R108. Writes a predicate from a truth table over two predicates. -/
  | pbool (f : RRR)
  /-- R110. Reads a control register into a scalar register. -/
  | mfc (f : RRI)
  /-- R111. Writes a control register, with the effect of STOP. -/
  | mtc (f : RRI)
  /-- R109. Selects A or B by a predicate. -/
  | sel (f : RRR)
  /-- R274. Relative branch with an optional link. -/
  | br (f : BRF)
  /-- R275. Branch to a register target with an optional link. -/
  | bri (f : RRR)
  /-- R276. Counted loop branch on ITER. -/
  | loop (f : BRF)
  /-- R276. Modulo-loop step: advances SV and ROT and branches while a stage is valid. -/
  | loopRot (f : BRF)
  /-- R276. While-form modulo-loop step on a predicate condition. -/
  | loopW (f : BRF)
  /-- R100. 32-bit add, sign-extended to 64 bits. -/
  | addw (f : RRR)
  /-- R100. 32-bit subtract, sign-extended. -/
  | subw (f : RRR)
  /-- R100. 32-bit multiply, sign-extended. -/
  | mulw (f : RRR)
  /-- R103. 32-bit shift left, sign-extended. -/
  | shlw (f : RRR)
  /-- R103. 32-bit logical shift right, sign-extended. -/
  | shrwZ (f : RRR)
  /-- R103. 32-bit arithmetic shift right, sign-extended. -/
  | shrwS (f : RRR)
  /-- R100. 32-bit add of an immediate, sign-extended. -/
  | addiw (f : RRI)
  /-- R112. Has no effect. -/
  | nop (f : RRR)
  /-- R119. Element-wise 32-bit add, wrapping or saturating. -/
  | vaddS32 (f : RRR)
  /-- R119. Element-wise 16-bit add. -/
  | vaddS16 (f : RRR)
  /-- R119. Element-wise 8-bit add. -/
  | vaddS8 (f : RRR)
  /-- R119. Element-wise 32-bit subtract. -/
  | vsubS32 (f : RRR)
  /-- R119. Element-wise 16-bit subtract. -/
  | vsubS16 (f : RRR)
  /-- R119. Element-wise 8-bit subtract. -/
  | vsubS8 (f : RRR)
  /-- R119. Element-wise 32-bit multiply. -/
  | vmulS32 (f : RRR)
  /-- R119. Element-wise 16-bit multiply. -/
  | vmulS16 (f : RRR)
  /-- R120. Element-wise 32-bit minimum, signed or unsigned. -/
  | vminS32 (f : RRR)
  /-- R120. Element-wise 32-bit maximum. -/
  | vmaxS32 (f : RRR)
  /-- R120. Element-wise 16-bit minimum. -/
  | vminS16 (f : RRR)
  /-- R120. Element-wise 16-bit maximum. -/
  | vmaxS16 (f : RRR)
  /-- R121. Bitwise and of vectors or masks. -/
  | vand (f : RRR)
  /-- R121. Bitwise or of vectors or masks. -/
  | vor (f : RRR)
  /-- R121. Bitwise exclusive or of vectors or masks. -/
  | vxor (f : RRR)
  /-- R122. Element-wise 32-bit shift left. -/
  | vshlS32 (f : RRR)
  /-- R122. Element-wise 32-bit shift right, arithmetic or logical. -/
  | vshrS32 (f : RRR)
  /-- R122. Element-wise 16-bit shift left. -/
  | vshlS16 (f : RRR)
  /-- R122. Element-wise 16-bit shift right. -/
  | vshrS16 (f : RRR)
  /-- R123. Multiplies 16-bit elements into 32-bit accumulators. -/
  | vmacwS16 (f : RRR)
  /-- R124. Adds a dot product of four 8-bit elements per lane. -/
  | vdotS8 (f : RRR)
  /-- R124. Adds a dot product of two 16-bit elements per lane. -/
  | vdotS16 (f : RRR)
  /-- R125. Low half of the per-lane carry-less product. -/
  | vclmul (f : RRR)
  /-- R125. High half of the per-lane carry-less product. -/
  | vclmulh (f : RRR)
  /-- R126. 32-bit integer compare into a mask. -/
  | vcmpS32 (f : RRR)
  /-- R126. 16-bit integer compare into a mask. -/
  | vcmpS16 (f : RRR)
  /-- R127. Selects elements by a mask. -/
  | vsel (f : RRR)
  /-- R128. FP32 add, rounded once. -/
  | vaddF32 (f : RRR)
  /-- R128. FP32 subtract. -/
  | vsubF32 (f : RRR)
  /-- R128. FP32 multiply. -/
  | vmulF32 (f : RRR)
  /-- R128. FP32 fused multiply-add. -/
  | vfmaF32 (f : RRR)
  /-- R129. FP32 minimum. -/
  | vminF32 (f : RRR)
  /-- R129. FP32 maximum. -/
  | vmaxF32 (f : RRR)
  /-- R126. FP32 compare into a mask. -/
  | vcmpF32 (f : RRR)
  /-- R128. BF16 add. -/
  | vaddBf16 (f : RRR)
  /-- R128. BF16 multiply. -/
  | vmulBf16 (f : RRR)
  /-- R128. BF16 fused multiply-add. -/
  | vfmaBf16 (f : RRR)
  /-- R128. FP16 add. -/
  | vaddF16 (f : RRR)
  /-- R128. FP16 multiply. -/
  | vmulF16 (f : RRR)
  /-- R128. FP16 fused multiply-add. -/
  | vfmaF16 (f : RRR)
  /-- R130. Converts elements to FP32. -/
  | vcvtF32 (f : RRR)
  /-- R130. Converts elements to BF16. -/
  | vcvtBf16 (f : RRR)
  /-- R130. Converts elements to FP16. -/
  | vcvtF16 (f : RRR)
  /-- R130. Converts elements to E4M3. -/
  | vcvtF8e4 (f : RRR)
  /-- R130. Converts elements to E5M2. -/
  | vcvtF8e5 (f : RRR)
  /-- R130. Converts elements to 32-bit integers. -/
  | vcvtS32 (f : RRR)
  /-- R130. Converts elements to 16-bit integers. -/
  | vcvtS16 (f : RRR)
  /-- R130. Converts elements to 8-bit integers. -/
  | vcvtS8 (f : RRR)
  /-- R133. Correctly rounded 2^x per element. -/
  | vexp2 (f : RRR)
  /-- R133. Correctly rounded log2 per element. -/
  | vlog2 (f : RRR)
  /-- R133. Correctly rounded reciprocal per element. -/
  | vrcp (f : RRR)
  /-- R133. Correctly rounded reciprocal square root per element. -/
  | vrsqrt (f : RRR)
  /-- R133. Correctly rounded tanh per element. -/
  | vtanh (f : RRR)
  /-- R133. Correctly rounded e^x per element. -/
  | vexp (f : RRR)
  /-- R133. Correctly rounded natural logarithm per element. -/
  | vlog (f : RRR)
  /-- R134. FP32 tree reduction into element 0. -/
  | vredF32 (f : RRR)
  /-- R134. Integer tree reduction into element 0. -/
  | vredS32 (f : RRR)
  /-- R135. FP32 inclusive prefix sum. -/
  | vscanF32 (f : RRR)
  /-- R135. Integer inclusive prefix sum. -/
  | vscanS32 (f : RRR)
  /-- R136. Gathers elements by indices. -/
  | vperm (f : RRR)
  /-- R137. Writes an immediate to every lane. -/
  | vsplat (f : RRI)
  /-- R138. Slides elements by a signed offset. -/
  | vslide (f : RRI)
  /-- R139. Interleaves halves of two vectors. -/
  | vzip (f : RRR)
  /-- R139. Packs the even or odd elements of two vectors. -/
  | vpack (f : RRR)
  /-- R140. Extracts one element into element 0. -/
  | vext (f : RRI)
  /-- R152. Queues an E4M3 matrix product into an accumulator. -/
  | mmF8e4 (f : ENGF)
  /-- R152. Queues an E5M2 matrix product. -/
  | mmF8e5 (f : ENGF)
  /-- R152. Queues an E3M2 matrix product. -/
  | mmF6e3 (f : ENGF)
  /-- R152. Queues an E2M3 matrix product. -/
  | mmF6e2 (f : ENGF)
  /-- R152. Queues an FP4 matrix product. -/
  | mmF4 (f : ENGF)
  /-- R152. Queues a BF16 matrix product. -/
  | mmBf16 (f : ENGF)
  /-- R152. Queues an FP16 matrix product. -/
  | mmF16 (f : ENGF)
  /-- R152. Queues an 8-bit integer matrix product. -/
  | mmS8 (f : ENGF)
  /-- R152. Queues a 4-bit integer matrix product. -/
  | mmS4 (f : ENGF)
  /-- R152. Queues an MX block-scaled matrix product. -/
  | mmMx (f : ENGF)
  /-- R157. Queues a grouped low-rank adapter product, down or up. -/
  | mmGrp (f : ENGF)
  /-- R157. Queues a product with merged adapter weights for merged rows. -/
  | mmPriv (f : ENGF)
  /-- R153. Queues a load of a ring's head slot into an edge latch. -/
  | elLd (f : ENGF)
  /-- R149. Configures a ring and resets its head, tail and count. -/
  | rgCfg (f : RRR)
  /-- R150. Queues an advance of a ring's tail by n slots. -/
  | rgAdv (f : ENGF)
  /-- R154. Queues zeroing of an accumulator. -/
  | accZero (f : ENGF)
  /-- R154. Queues a converted store of accumulator rows to the stash. -/
  | accSt (f : ENGF)
  /-- R154. Queues a load of accumulator rows from the stash. -/
  | accLd (f : ENGF)
  /-- R154. Queues a copy or element-wise add between accumulators. -/
  | accMv (f : ENGF)
  /-- R159. Queues a conversion under the context's conversion descriptor. -/
  | cvRun (f : ENGF)
  /-- R158. Sets the context's conversion descriptor. -/
  | cvCfg (f : RRR)
  /-- R161. Loads 16 rows into a stage operand buffer. -/
  | saLd (f : RRR)
  /-- R161. BF16 stage array product into a stage accumulator. -/
  | saMmBf16 (f : RRR)
  /-- R161. FP8 stage array product into a stage accumulator. -/
  | saMmF8 (f : RRR)
  /-- R161. Stores a stage accumulator's rows, rounded. -/
  | saSt (f : RRR)
  /-- R161. Zeroes one or all stage accumulators. -/
  | saZero (f : RRR)
  /-- R161. Moves words between a stage accumulator and a vector register. -/
  | saMv (f : RRR)
  /-- R162. Latches an attention descriptor and initialises the softmax or output state. -/
  | attnInit (f : RRR)
  /-- R164. Forms attention scores over a range of positions, step by step. -/
  | attnQk (f : RRR)
  /-- R164. Updates the running maximum and sum and forms the weights. -/
  | attnSmx (f : RRR)
  /-- R164. Accumulates the weighted values into the output. -/
  | attnPv (f : RRR)
  /-- R155. Queues a check and load of the 128-row group table. -/
  | grpIdx (f : ENGF)
  /-- R212. Loads a sign-extended byte. -/
  | ldS8 (f : MEMF)
  /-- R212. Loads a zero-extended byte. -/
  | ldZ8 (f : MEMF)
  /-- R212. Loads a sign-extended half. -/
  | ldS16 (f : MEMF)
  /-- R212. Loads a zero-extended half. -/
  | ldZ16 (f : MEMF)
  /-- R212. Loads a sign-extended word. -/
  | ldS32 (f : MEMF)
  /-- R212. Loads a zero-extended word. -/
  | ldZ32 (f : MEMF)
  /-- R212. Loads a dword. -/
  | ldS64 (f : MEMF)
  /-- R212. Stores a byte. -/
  | stS8 (f : MEMF)
  /-- R212. Stores a half. -/
  | stS16 (f : MEMF)
  /-- R212. Stores a word. -/
  | stS32 (f : MEMF)
  /-- R212. Stores a dword. -/
  | stS64 (f : MEMF)
  /-- R214. Loads VL words into a vector register. -/
  | vldS32 (f : MEMF)
  /-- R214. Stores VL words from a vector register. -/
  | vstS32 (f : MEMF)
  /-- R214. Loads VL halves, sign-extended into lanes. -/
  | vldS16 (f : MEMF)
  /-- R214. Stores the low halves of VL lanes. -/
  | vstS16 (f : MEMF)
  /-- R215. Enters a stash mapping in the tile's table, or returns FULL. -/
  | smMap (f : RRR)
  /-- R222. Writes back, returns leases, drops pins and frees a stash mapping. -/
  | smUnmap (f : RRR)
  /-- R220. Brings a range's lines into the stash and keeps renewing their leases. -/
  | smPin (f : RRR)
  /-- R220. Removes a pinned range. -/
  | smUnpin (f : RRR)
  /-- R221. Writes back the dirty lines of a range. -/
  | smFlush (f : RRR)
  /-- R226. Queues a copy from memory into the stash. -/
  | cpGet (f : ENGF)
  /-- R226. Queues a copy from the stash to memory. -/
  | cpPut (f : ENGF)
  /-- R227. Queues a copy into another tile's stash by stash global address. -/
  | cpRput (f : ENGF)
  /-- R226. Queues a gather of indexed rows into the stash. -/
  | cpGth (f : ENGF)
  /-- R232. Initialises a barrier round. -/
  | barInit (f : RRR)
  /-- R233. Arrives at a barrier and announces pending bytes. -/
  | barArr (f : RRR)
  /-- R234. Waits for a barrier's DONE. -/
  | barWait (f : RRR)
  /-- R234. Reads a barrier's low dword without waiting. -/
  | barTest (f : RRR)
  /-- R236. Atomic integer add. -/
  | amoAdd (f : MEMF)
  /-- R236. Atomic and. -/
  | amoAnd (f : MEMF)
  /-- R236. Atomic or. -/
  | amoOr (f : MEMF)
  /-- R236. Atomic exclusive or. -/
  | amoXor (f : MEMF)
  /-- R236. Atomic signed minimum. -/
  | amoMinS (f : MEMF)
  /-- R236. Atomic unsigned minimum. -/
  | amoMinZ (f : MEMF)
  /-- R236. Atomic signed maximum. -/
  | amoMaxS (f : MEMF)
  /-- R236. Atomic unsigned maximum. -/
  | amoMaxZ (f : MEMF)
  /-- R236. Atomic swap. -/
  | amoSwap (f : MEMF)
  /-- R236. Atomic compare-and-swap. -/
  | amoCas (f : MEMF)
  /-- R236. Atomic FP32 add, rounded RNE. -/
  | amoAddF32 (f : MEMF)
  /-- R238. Orders the pairs of accesses that its order selects at its scope. -/
  | fence (f : MEMF)
  /-- R239. Waits for the context's stores to a range and then sets the publish bits of its lines. -/
  | cpub (f : MEMF)
  /-- R240. Empties the fetch buffer. -/
  | ifence (f : RRR)
  /-- R241. Holds until the named tokens' commands have completed. -/
  | tokWait (f : ENGF)
  /-- R242. Writes whether a token's command has completed. -/
  | tokTest (f : RRR)
  /-- R243. Loads K values of positions in one block into the stash. -/
  | kvLdk (f : RRR)
  /-- R243. Loads V values of positions in one block into the stash. -/
  | kvLdv (f : RRR)
  /-- R244. Appends the K and V rows of one position in storage form. -/
  | kvApp (f : RRR)
  /-- R223. Prefetches a line into the LLC or starts a stash fill. -/
  | pref (f : MEMF)
  /-- R278. Starts a free helper at an entry with an argument. -/
  | hstart (f : RRR)
  /-- R279. Frees a reaped helper, optionally waiting for it to end. -/
  | hreap (f : RRR)
  /-- R280. Reads a context's state and park reason. -/
  | hstat (f : RRR)
  /-- R283. Requests or changes a vector lane claim with a floor and a ceiling. -/
  | vclaim (f : RRI)
  /-- R285. Releases the vector claim. -/
  | vrel (f : RRR)
  /-- R284. Grows the claim toward its ceiling with free lanes. -/
  | vgrow (f : RRI)
  /-- R286. Reads VL and the tile's free lanes and live claims. -/
  | vstat (f : RRR)
  /-- R288. Pushes a task onto the spindle's deque and counts it, or reports FULL. -/
  | fork (f : RRR)
  /-- R289. Forks a task with ranges entered in the range table. -/
  | forkR (f : RRR)
  /-- R291. Passes when a join counter is 0, otherwise takes a task or parks. -/
  | join (f : RRR)
  /-- R291. Reads a join counter without waiting. -/
  | jtest (f : RRR)
  /-- R292. Ends the current task, decrementing its counter and freeing its ranges. -/
  | tend (f : RRR)
  /-- R282. Ends the issuing context. -/
  | hend (f : RRR)
  /-- R281. Parks until a mailbox in the mask holds a message or the deadline passes. -/
  | sleep (f : RRR)
  /-- R294. Binds a channel end to a peer end. -/
  | chbind (f : RRR)
  /-- R295. Unbinds a channel end and discards its received words. -/
  | chunbind (f : RRR)
  /-- R296. Reads a channel end's counts and state. -/
  | chstat (f : RRR)
  /-- R298. Sends an active message without waiting for its answer. -/
  | amsend (f : RRR)
  /-- R298. Sends an active message and waits for its answer. -/
  | amsendW (f : RRR)
  /-- R299. Dispatches the oldest refusal or message of the lowest mailbox in the mask to its handler. -/
  | amrecv (f : RRI)
  /-- R300. Returns from a message handler. -/
  | amret (f : RRR)
  /-- R301. Reads a mailbox's message and refusal counts. -/
  | mbstat (f : RRI)
  /-- R303. Posts a tool call and opens a future. -/
  | fcall (f : RRR)
  /-- R304. Waits for a future to end. -/
  | fwait (f : RRR)
  /-- R304. Reads whether a future has ended. -/
  | fpoll (f : RRR)
  /-- R304. Frees a future, ending it as a drop if it is open. -/
  | fdrop (f : RRR)
  /-- R309. Takes admitted sequences of the partition into a batch and writes their rows. -/
  | sqBatch (f : RRR)
  /-- R310. Records emitted tokens for batched sequences, opening futures for call tokens. -/
  | sqEmit (f : RRR)
  /-- R311. Pops tokens from a batched sequence's prefill queue. -/
  | sqPfq (f : RRR)
  /-- R313. Compare-and-set on the owner of a resident expert slot. -/
  | adpClaim (f : RRR)
  /-- R314. Installs expert slots from a table image. -/
  | adpBind (f : RRR)
  /-- R315. Appends a copy of a launch record to stream D. -/
  | launch (f : RRR)
  /-- R317. Dispatches to the schedule of the first bucket the shapes fit. -/
  | sdisp (f : RRI)
  /-- R316. Checks and installs a bucket table. -/
  | sdispTbl (f : RRR)
  /-- R397. Enters service with KIND 2 after the bundle takes effect. -/
  | trap (f : RI)
  /-- R383. Returns from service: reverses the exchange and resumes at FPC. -/
  | rfs (f : RRR)
  /-- R393. Saves a context into a save area. -/
  | csave (f : RRR)
  /-- R395. Restores a saved context. -/
  | cload (f : RRR)
  /-- R396. Kills a context of the spindle and reaps it. -/
  | ctxkill (f : RRR)
  /-- R387. Reads a dword of a queue's stop record. -/
  | pctlQrec (f : RRI)
  /-- R387. Skips the head command of an owned stopped queue. -/
  | pctlQskip (f : RRI)
  /-- R387. Posts an event of class 0 or 1. -/
  | pctlPost (f : RRI)
  /-- R387. Reverses the service exchange and parks the context until resumed. -/
  | pctlPark (f : RRI)
  /-- R340. Drops the cached translation of one page and waits out its accesses. -/
  | xinvPage (f : RRR)
  /-- R340. Drops every cached translation of an ASID. -/
  | xinvAsid (f : RRR)
  /-- R340. Reads a page's cached leaf and hotness counters, optionally clearing the counters. -/
  | xinvQ (f : RRR)
  /-- R341. Drops cached KV entries at block, head or sequence scope. -/
  | kvinv (f : RRR)
  /-- R342. Queries an ASID, or latches a descriptor and activates it. -/
  | asidSet (f : RRR)
  /-- R343. Retires an ASID and starts its sweep. -/
  | asidRet (f : RRR)
  /-- R399. Checks a dictionary entry and writes it into the tile's store. -/
  | dset (f : RRR)
  /-- R397. Raises F_BKPT, or halts the context under a debugger. -/
  | bkpt (f : RI)
  /-- R398. Sets a data watchpoint on a context. -/
  | wpset (f : RRR)
  /-- R400. Reads an item of a context's or tile's state. -/
  | dbgRd (f : RRR)
  /-- R400. Writes an item of a context's or tile's state. -/
  | dbgWr (f : RRR)
  /-- R66. Raises F_ILLOP in every slot. -/
  | ill (f : RRR)
  deriving DecidableEq, Repr

end Sys2Proof
end

