-- ==== Sys2Proof/WellFormed.lean ====
section
/-! DEFINITION. Which instructions are well formed: every condition that a slot word alone decides and that raises
F_ILLOP otherwise (R38, R39, R40, R41, R42 and the entries' own fields). -/
namespace Sys2Proof

/-- R41, R98, R115: the operand classes of the specifier fields. -/
inductive Cls
  | z | xd | xs | x | p | v | vs | m | rg | rge | acc | e | sa | xeven | xeven0 | tokn
  deriving DecidableEq, Repr

/-- R41, R42: the specifier values that a class admits. -/
def Cls.has (k : Cls) (s : BitVec 9) : Bool :=
  let n := s.toNat
  match k with
  | .z => n == 0
  | .xd => n < 64 || (96 ≤ n && n < 112)
  | .xs => n < 64 || (96 ≤ n && n < 117)
  | .x => n < 64
  | .p => 64 ≤ n && n < 96
  | .v => n < 384
  | .vs => n < 384 || (392 ≤ n && n < 397) || (400 ≤ n && n < 464)
  | .m => 384 ≤ n && n < 392
  | .rg => 128 ≤ n && n < 136
  | .rge => (128 ≤ n && n < 136) || (144 ≤ n && n < 148)
  | .acc => 136 ≤ n && n < 144
  | .e => 144 ≤ n && n < 148
  | .sa => 148 ≤ n && n < 152
  | .xeven => 2 ≤ n && n ≤ 62 && n % 2 == 0
  | .xeven0 => n ≤ 62 && n % 2 == 0
  | .tokn => n < 32

/-- The modifier bits that an entry defines. -/
def mdIn (md mask : BitVec 8) : Bool := md &&& ~~~mask == 0

/-- R113: OPM, bits 3:0 of the mod field. -/
def RRR.opm (f : RRR) : Nat := f.md.toNat % 16
/-- R113: ZM. -/
def RRR.zm (f : RRR) : Bool := bit f.md.toNat 4
/-- R113: MSK, the governing mask. -/
def RRR.msk (f : RRR) : Nat := f.md.toNat / 32

/-- R38: an RRR operation's fields lie in their classes, its type is listed, its other mod bits are zero. -/
def RRR.ok (f : RRR) (d a b c : Cls) (tys : List (BitVec 6)) (mask : BitVec 8) : Bool :=
  d.has f.d && a.has f.a && b.has f.b && c.has f.c && tys.contains f.ty && mdIn f.md mask

/-- The type field of an operation that names no second type (R38). -/
def noType : List (BitVec 6) := [0]
/-- R149: the element types of a ring. -/
def ringTypes : List (BitVec 6) :=
  [0x01, 0x09, 0x11, 0x12, 0x13, 0x14, 0x15, 0x16, 0x17, 0x33, 0x34, 0x35, 0x36, 0x37]
/-- R158: the destination types of the conversion engine. -/
def cvTypes : List (BitVec 6) :=
  [0x01, 0x03, 0x09, 0x10, 0x11, 0x12, 0x13, 0x14, 0x15, 0x16, 0x17, 0x33, 0x34, 0x35, 0x36, 0x37]

/-- R105: lsb and len of a bit-field operation. -/
def bfOk (imm : BitVec 32) : Bool :=
  let n := imm.toNat
  n < 2 ^ 14 && bits n 7 6 == 0 && bits n 5 0 + (bits n 13 8 + 1) ≤ 64

/-- R49: the control register numbers listed. -/
def cregOk (n : Nat) : Bool :=
  n ≤ 5 || (8 ≤ n && n ≤ 11) || (0x10 ≤ n && n ≤ 0x12) || (0x18 ≤ n && n ≤ 0x1B) ||
  (0x20 ≤ n && n ≤ 0x26) || (0x28 ≤ n && n ≤ 0x33)

/-- R283: floor and ceiling of vclaim. -/
def claimOk (imm : BitVec 32) : Bool :=
  let n := imm.toNat
  let fl := bits n 6 0
  let ce := bits n 14 8
  n < 2 ^ 15 && !bit n 7 && fl % 8 == 0 && ce % 8 == 0 && 8 ≤ fl && fl ≤ ce && ce ≤ 64

/-- R39, R181: a scope and an order that go together. -/
def scopeOrderOk (f : MEMF) : Bool :=
  f.scope.toNat ≤ 5 && f.order.toNat ≤ 4 && !(f.order.toNat == 4 && 4 ≤ f.scope.toNat)

/-- R206, R212, R214: the fields of a load or store with the data class k. -/
def memOk (k : Cls) (f : MEMF) : Bool := k.has f.data && Cls.xs.has f.base && scopeOrderOk f
/-- R235: the fields of an atomic; policy carries SZ, below szs. -/
def amoOk (k : Cls) (szs : Nat) (f : MEMF) : Bool := memOk k f && f.policy.toNat < szs
/-- R238: the fields of a fence. -/
def fenceOk (f : MEMF) : Bool :=
  f.data == 0 && f.base == 0 && f.off == 0 && f.policy == 0 && f.order != 0 && scopeOrderOk f
/-- R239: the fields of cpub. -/
def cpubOk (f : MEMF) : Bool :=
  Cls.xs.has f.data && Cls.xs.has f.base && f.scope.toNat ≤ 5 && f.order == 0 && f.policy == 0
/-- R223: the fields of pref. -/
def prefOk (f : MEMF) : Bool := f.data == 0 && Cls.xs.has f.base && f.scope == 0 && f.order == 0
/-- R241: the fields of tok.wait. -/
def tokWaitOk (f : ENGF) : Bool := f.prod == 0 && f.a == 0 && f.b == 0 && f.c == 0 && f.md == 0
/-- R157: the fields of mm.grp: the source of the up form is an accumulator. -/
def mmGrpOk (f : ENGF) : Bool :=
  f.md.toNat < 3 && (if bit f.md.toNat 0 then Cls.acc.has f.a else Cls.rge.has f.a) && Cls.x.has f.b && Cls.acc.has f.c
/-- R161: the fields of sa.mv, by its direction. -/
def saMvOk (f : RRR) : Bool :=
  (if bit f.md.toNat 0 then Cls.sa.has f.d && Cls.vs.has f.a else Cls.v.has f.d && Cls.sa.has f.a) &&
  f.b == 0 && f.c == 0 && f.ty == 0 && mdIn f.md 0x7F
/-- R121: the fields of a bitwise vector operation, on vectors or on masks alone. -/
def vlogOk (f : RRR) : Bool :=
  f.ok .v .vs .vs .z noType 0xF0 || f.ok .m .m .m .z noType 0x00

/-- R74, R130: the width in bits of a source type of vcvt, 0 for a code not admitted. -/
def cvtWidth (t : Nat) : Nat :=
  if t == 0x01 || t == 0x05 then 8 else if t == 0x02 || t == 0x06 then 16
  else if t == 0x03 || t == 0x07 then 32 else if t == 0x09 then 4
  else if t == 0x10 then 32 else if t == 0x11 || t == 0x12 then 16
  else if 0x13 ≤ t && t ≤ 0x16 then 8 else if t == 0x17 then 4 else 0

/-- R130, R131: the fields of a conversion to type dt (udt when UD selects an unsigned integer). -/
def vcvtOk (dt : Nat) (f : RRR) : Bool :=
  let st := f.ty.toNat
  let rs := f.opm % 8
  let hi := 8 ≤ f.opm
  let isInt := dt ≤ 0x03
  let d := if isInt && hi then dt + 4 else dt
  let ws := cvtWidth st
  let wd := cvtWidth d
  let part := f.c.toNat
  Cls.v.has f.d && Cls.vs.has f.a && f.b == 0 && part < 8 && rs != 6 && ws != 0 && st != d &&
  !(hi && 0x10 ≤ dt && dt ≤ 0x12) && !(isInt && st < 0x10 && rs != 0) &&
  part < Nat.max (Nat.max (wd / ws) (ws / wd)) 1

/-- R40: no condition of the slot word alone raises F_ILLOP. -/
def WellFormed (i : Instr) : Bool :=
  match i with
  | .deviceReset => true
  | .turnOffer _ => true
  | .fetchComplete _ => true
  | .resultLand _ _ => true
  | .budgetRefill _ => true
  | .serviceDeadline _ => true
  | .serviceEntry _ => true
  | .homeAnswer _ => true
  | .monitorWake _ _ => true
  | .kvWalkAnswer _ => true
  | .leaseGrant _ _ => true
  | .leaseExpiry _ _ => true
  | .writebackStart _ _ => true
  | .writebackAccept _ _ => true
  | .scAnnounceArrive => true
  | .engineCmdStart _ _ => true
  | .engineCmdComplete _ _ => true
  | .copyDeliver _ _ => true
  | .copyComplete _ _ => true
  | .messageArrive _ => true
  | .amsendAnswer _ => true
  | .peerSpindleAnswer _ => true
  | .chuckAnswer _ => true
  | .claimGrant _ => true
  | .taskTake _ => true
  | .sleepDeadline _ => true
  | .futureDeadline _ => true
  | .asidSweepDone _ _ => true
  | .faceplateSlotWrite _ _ _ => true
  | .faceplateAccept _ => true
  | .streamASlotWrite _ _ _ => true
  | .hsNop _ _ => true
  | .hsLaunch _ _ => true
  | .hsMark _ _ => true
  | .hsPublish _ _ => true
  | .launchStart _ _ => true
  | .launchEnd _ => true
  | .partitionConfigure _ _ => true
  | .partitionClearDone _ => true
  | .partitionReset _ => true
  | .partitionRemove _ => true
  | .heartbeatMiss _ _ => true
  | .lossWalkEnd _ _ _ => true
  | .patrolScrub _ => true
  | .etfenLinkDown _ _ => true
  | .etfenRouteReturn _ => true
  | .etfenRequest _ => true
  | .hostLinkLoss => true
  | .hostLinkRecover => true
  | .hostHoldExpiry _ => true
  | .hostAccess _ => true
  | .hostWindowWrite _ _ _ _ _ _ => true
  | .supplySag _ => true
  | .supplyRecover _ => true
  | .powerLimitWrite _ => true
  | .powerClockAdjust _ => true
  | .llclrWrite _ _ => true
  | .fmtcWrite _ _ => true
  | .registerWrite _ _ => true
  | .uecCompletion _ _ => true
  | .attestReport _ _ _ => true
  | .measExtend _ _ => true
  | .agentAccess _ _ => true
  | .learoHalt _ => true
  | .learoResume _ => true
  | .learoStep _ => true
  | .learoDbgen _ _ => true
  | .learoFreeze _ => true
  | .learoThaw _ => true
  | .learoRdq _ _ => true
  | .learoRestart _ _ => true
  | .learoSkip _ _ => true
  | .learoRdctx _ _ => true
  | .learoWrctx _ _ _ => true
  | .learoRdstash _ _ _ => true
  | .learoWrstash _ _ _ => true
  | .learoKill _ => true
  | .learoMsg _ _ => true
  | .learoSwap _ _ => true
  | .spreset _ => true
  | .spretire _ => true
  | .managementMailboxImage _ => true
  | .railCurrentLimit _ => true
  | .futTake _ => true
  | .futDone _ => true
  | .futFail _ => true
  | .futExt _ => true
  | .sqPeek _ => true
  | .sqCtlCreate _ => true
  | .sqCtlRetire _ => true
  | .sqCtlFree _ => true
  | .sqCtlAdpres _ => true
  | .sqCtlPush _ => true
  | .sqCtlOutack _ => true
  | .sqCfgCallTokenRange _ => true
  | .sqCfgCto _ => true
  | .sqCfgTimeoutString _ => true
  | .sqCfgFailureString _ => true
  | .sqCfgXmax _ => true
  | .sqCfgKvrt _ => true
  | .sqCfgUecen _ => true
  | .capProbe _ => true
  | .add f => f.ok .xd .xs .xs .z noType 0x00
  | .sub f => f.ok .xd .xs .xs .z noType 0x00
  | .addi f => Cls.has .xd f.d && Cls.has .xs f.a
  | .mul f => f.ok .xd .xs .xs .z noType 0x00
  | .mulhS f => f.ok .xd .xs .xs .z noType 0x00
  | .mulhZ f => f.ok .xd .xs .xs .z noType 0x00
  | .divS f => f.ok .xd .xs .xs .z noType 0x00
  | .divZ f => f.ok .xd .xs .xs .z noType 0x00
  | .remS f => f.ok .xd .xs .xs .z noType 0x00
  | .remZ f => f.ok .xd .xs .xs .z noType 0x00
  | .addsS f => f.ok .xd .xs .xs .z noType 0x00
  | .addsZ f => f.ok .xd .xs .xs .z noType 0x00
  | .subsS f => f.ok .xd .xs .xs .z noType 0x00
  | .subsZ f => f.ok .xd .xs .xs .z noType 0x00
  | .minS f => f.ok .xd .xs .xs .z noType 0x00
  | .minZ f => f.ok .xd .xs .xs .z noType 0x00
  | .maxS f => f.ok .xd .xs .xs .z noType 0x00
  | .maxZ f => f.ok .xd .xs .xs .z noType 0x00
  | .and f => f.ok .xd .xs .xs .z noType 0x00
  | .or f => f.ok .xd .xs .xs .z noType 0x00
  | .xor f => f.ok .xd .xs .xs .z noType 0x00
  | .andn f => f.ok .xd .xs .xs .z noType 0x00
  | .andi f => Cls.has .xd f.d && Cls.has .xs f.a
  | .ori f => Cls.has .xd f.d && Cls.has .xs f.a
  | .xori f => Cls.has .xd f.d && Cls.has .xs f.a
  | .shl f => f.ok .xd .xs .xs .z noType 0x00
  | .shrZ f => f.ok .xd .xs .xs .z noType 0x00
  | .shrS f => f.ok .xd .xs .xs .z noType 0x00
  | .shli f => Cls.has .xd f.d && Cls.has .xs f.a && decide (f.imm.toNat < 64)
  | .shriZ f => Cls.has .xd f.d && Cls.has .xs f.a && decide (f.imm.toNat < 64)
  | .shriS f => Cls.has .xd f.d && Cls.has .xs f.a && decide (f.imm.toNat < 64)
  | .rot f => f.ok .xd .xs .xs .z noType 0x00
  | .shadd f => f.ok .xd .xs .xs .z noType 0x03
  | .movi f => Cls.has .xd f.d
  | .movhi f => Cls.has .x f.d && decide (f.imm.toNat < 2 ^ 23)
  | .bfxS f => Cls.has .xd f.d && Cls.has .xs f.a && decide (bfOk f.imm)
  | .bfxZ f => Cls.has .xd f.d && Cls.has .xs f.a && decide (bfOk f.imm)
  | .bfi f => Cls.has .x f.d && Cls.has .xs f.a && decide (bfOk f.imm)
  | .clz f => f.ok .xd .xs .z .z noType 0x00
  | .ctz f => f.ok .xd .xs .z .z noType 0x00
  | .popc f => f.ok .xd .xs .z .z noType 0x00
  | .clmul f => f.ok .xd .xs .xs .z noType 0x00
  | .clmulh f => f.ok .xd .xs .xs .z noType 0x00
  | .bswap f => f.ok .xd .xs .z .z noType 0x00
  | .brev f => f.ok .xd .xs .z .z noType 0x00
  | .cmp f => f.ok .p .xs .xs .z noType 0x07
  | .cmpi f => Cls.has .p f.d && Cls.has .xs f.a && decide (f.imm.toNat < 2 ^ 31)
  | .pbool f => f.ok .p .p .p .z noType 0x0F
  | .mfc f => Cls.has .xd f.d && Cls.has .z f.a && decide (cregOk f.imm.toNat)
  | .mtc f => Cls.has .z f.d && Cls.has .xs f.a && decide (cregOk f.imm.toNat)
  | .sel f => f.ok .xd .xs .xs .p noType 0x00
  | .br f => Cls.has .x f.link
  | .bri f => f.ok .x .xs .z .z noType 0x00
  | .loop f => Cls.has .z f.link
  | .loopRot f => Cls.has .z f.link
  | .loopW f => Cls.has .p f.link
  | .addw f => f.ok .xd .xs .xs .z noType 0x00
  | .subw f => f.ok .xd .xs .xs .z noType 0x00
  | .mulw f => f.ok .xd .xs .xs .z noType 0x00
  | .shlw f => f.ok .xd .xs .xs .z noType 0x00
  | .shrwZ f => f.ok .xd .xs .xs .z noType 0x00
  | .shrwS f => f.ok .xd .xs .xs .z noType 0x00
  | .addiw f => Cls.has .xd f.d && Cls.has .xs f.a
  | .nop f => f.ok .z .z .z .z noType 0x00
  | .vaddS32 f => f.ok .v .vs .vs .z noType 0xF3 && decide (f.opm % 4 ≠ 2)
  | .vaddS16 f => f.ok .v .vs .vs .z noType 0xF3 && decide (f.opm % 4 ≠ 2)
  | .vaddS8 f => f.ok .v .vs .vs .z noType 0xF3 && decide (f.opm % 4 ≠ 2)
  | .vsubS32 f => f.ok .v .vs .vs .z noType 0xF3 && decide (f.opm % 4 ≠ 2)
  | .vsubS16 f => f.ok .v .vs .vs .z noType 0xF3 && decide (f.opm % 4 ≠ 2)
  | .vsubS8 f => f.ok .v .vs .vs .z noType 0xF3 && decide (f.opm % 4 ≠ 2)
  | .vmulS32 f => f.ok .v .vs .vs .z noType 0xF3 && decide (f.opm % 4 ≠ 2)
  | .vmulS16 f => f.ok .v .vs .vs .z noType 0xF3 && decide (f.opm % 4 ≠ 2)
  | .vminS32 f => f.ok .v .vs .vs .z noType 0xF2
  | .vmaxS32 f => f.ok .v .vs .vs .z noType 0xF2
  | .vminS16 f => f.ok .v .vs .vs .z noType 0xF2
  | .vmaxS16 f => f.ok .v .vs .vs .z noType 0xF2
  | .vand f => vlogOk f
  | .vor f => vlogOk f
  | .vxor f => vlogOk f
  | .vshlS32 f => f.ok .v .vs .vs .z noType 0xF0
  | .vshrS32 f => f.ok .v .vs .vs .z noType 0xF2
  | .vshlS16 f => f.ok .v .vs .vs .z noType 0xF0
  | .vshrS16 f => f.ok .v .vs .vs .z noType 0xF2
  | .vmacwS16 f => f.ok .v .vs .vs .vs noType 0xF7
  | .vdotS8 f => f.ok .v .vs .vs .vs noType 0xF3
  | .vdotS16 f => f.ok .v .vs .vs .vs noType 0xF3
  | .vclmul f => f.ok .v .vs .vs .z noType 0xF0
  | .vclmulh f => f.ok .v .vs .vs .z noType 0xF0
  | .vcmpS32 f => f.ok .m .vs .vs .z noType 0xFF && decide (f.opm < 6)
  | .vcmpS16 f => f.ok .m .vs .vs .z noType 0xFF && decide (f.opm < 6)
  | .vsel f => f.ok .v .vs .vs .m noType 0xF3 && decide (f.opm < 3)
  | .vaddF32 f => f.ok .v .vs .vs .z noType 0xFF && decide (f.opm % 8 ≠ 6)
  | .vsubF32 f => f.ok .v .vs .vs .z noType 0xFF && decide (f.opm % 8 ≠ 6)
  | .vmulF32 f => f.ok .v .vs .vs .z noType 0xFF && decide (f.opm % 8 ≠ 6)
  | .vfmaF32 f => f.ok .v .vs .vs .vs noType 0xFF && decide (f.opm % 8 ≠ 6)
  | .vminF32 f => f.ok .v .vs .vs .z noType 0xF0
  | .vmaxF32 f => f.ok .v .vs .vs .z noType 0xF0
  | .vcmpF32 f => f.ok .m .vs .vs .z noType 0xFF && decide (f.opm < 6)
  | .vaddBf16 f => f.ok .v .vs .vs .z noType 0xFF && decide (f.opm % 8 ≠ 6)
  | .vmulBf16 f => f.ok .v .vs .vs .z noType 0xFF && decide (f.opm % 8 ≠ 6)
  | .vfmaBf16 f => f.ok .v .vs .vs .vs noType 0xFF && decide (f.opm % 8 ≠ 6)
  | .vaddF16 f => f.ok .v .vs .vs .z noType 0xFF && decide (f.opm % 8 ≠ 6)
  | .vmulF16 f => f.ok .v .vs .vs .z noType 0xFF && decide (f.opm % 8 ≠ 6)
  | .vfmaF16 f => f.ok .v .vs .vs .vs noType 0xFF && decide (f.opm % 8 ≠ 6)
  | .vcvtF32 f => vcvtOk 0x10 f
  | .vcvtBf16 f => vcvtOk 0x12 f
  | .vcvtF16 f => vcvtOk 0x11 f
  | .vcvtF8e4 f => vcvtOk 0x13 f
  | .vcvtF8e5 f => vcvtOk 0x14 f
  | .vcvtS32 f => vcvtOk 0x03 f
  | .vcvtS16 f => vcvtOk 0x02 f
  | .vcvtS8 f => vcvtOk 0x01 f
  | .vexp2 f => f.ok .v .vs .z .z noType 0xF0
  | .vlog2 f => f.ok .v .vs .z .z noType 0xF0
  | .vrcp f => f.ok .v .vs .z .z noType 0xF0
  | .vrsqrt f => f.ok .v .vs .z .z noType 0xF0
  | .vtanh f => f.ok .v .vs .z .z noType 0xF0
  | .vexp f => f.ok .v .vs .z .z noType 0xF0
  | .vlog f => f.ok .v .vs .z .z noType 0xF0
  | .vredF32 f => f.ok .v .vs .z .z noType 0xF3 && decide (f.opm ≠ 3)
  | .vredS32 f => f.ok .v .vs .z .z noType 0xFF && decide ([0, 1, 2, 4, 9, 10, 12].contains f.opm)
  | .vscanF32 f => f.ok .v .vs .z .z noType 0xE0
  | .vscanS32 f => f.ok .v .vs .z .z noType 0xE3 && decide (f.opm ≠ 2)
  | .vperm f => f.ok .v .vs .vs .z noType 0xF3 && decide (f.opm < 3)
  | .vsplat f => Cls.has .v f.d && Cls.has .z f.a
  | .vslide f => Cls.has .v f.d && Cls.has .vs f.a && decide (f.imm.toNat < 3 * 2 ^ 16)
  | .vzip f => f.ok .v .vs .vs .z noType 0xF7 && decide (f.opm % 4 ≠ 3)
  | .vpack f => f.ok .v .vs .vs .z noType 0xFF && decide (f.opm % 4 ≠ 3 ∧ 8 ≤ f.opm)
  | .vext f => Cls.has .v f.d && Cls.has .vs f.a && decide (f.imm.toNat < 3 * 2 ^ 8)
  | .mmF8e4 f => Cls.has .rge f.a && Cls.has .rge f.b && Cls.has .acc f.c && f.md &&& 4 == 0
  | .mmF8e5 f => Cls.has .rge f.a && Cls.has .rge f.b && Cls.has .acc f.c && f.md &&& 4 == 0
  | .mmF6e3 f => Cls.has .rge f.a && Cls.has .rge f.b && Cls.has .acc f.c && f.md &&& 4 == 0
  | .mmF6e2 f => Cls.has .rge f.a && Cls.has .rge f.b && Cls.has .acc f.c && f.md &&& 4 == 0
  | .mmF4 f => Cls.has .rge f.a && Cls.has .rge f.b && Cls.has .acc f.c && f.md &&& 4 == 0
  | .mmBf16 f => Cls.has .rge f.a && Cls.has .rge f.b && Cls.has .acc f.c && f.md &&& 4 == 0
  | .mmF16 f => Cls.has .rge f.a && Cls.has .rge f.b && Cls.has .acc f.c && f.md &&& 4 == 0
  | .mmS8 f => Cls.has .rge f.a && Cls.has .rge f.b && Cls.has .acc f.c && f.md &&& 4 == 0
  | .mmS4 f => Cls.has .rge f.a && Cls.has .rge f.b && Cls.has .acc f.c && f.md &&& 4 == 0
  | .mmMx f => Cls.has .rge f.a && Cls.has .rge f.b && Cls.has .acc f.c && f.md &&& 4 == 0
  | .mmGrp f => mmGrpOk f
  | .mmPriv f => Cls.has .rge f.a && Cls.has .x f.b && Cls.has .acc f.c && f.md &&& 6 == 0
  | .elLd f => Cls.has .rg f.a && Cls.has .z f.b && Cls.has .e f.c && f.md &&& 7 == 0
  | .rgCfg f => f.ok .rg .x .x .z ringTypes 0x01
  | .rgAdv f => Cls.has .z f.a && Cls.has .z f.b && Cls.has .rg f.c
  | .accZero f => Cls.has .z f.a && Cls.has .z f.b && Cls.has .acc f.c && f.md &&& 7 == 0
  | .accSt f => Cls.has .x f.a && Cls.has .x f.b && Cls.has .acc f.c && f.md &&& 7 == 0
  | .accLd f => Cls.has .x f.a && Cls.has .x f.b && Cls.has .acc f.c && f.md &&& 7 == 0
  | .accMv f => Cls.has .acc f.a && Cls.has .z f.b && Cls.has .acc f.c && f.md &&& 4 == 0 && decide (f.md ≠ 3)
  | .cvRun f => Cls.has .x f.a && Cls.has .x f.b && Cls.has .x f.c && f.md &&& 7 == 0
  | .cvCfg f => f.ok .z .xs .xs .z cvTypes 0x00
  | .saLd f => f.ok .z .xs .xs .z [0x12, 0x13, 0x14] 0x01
  | .saMmBf16 f => f.ok .sa .z .z .z noType 0x07
  | .saMmF8 f => f.ok .sa .z .z .z noType 0x07
  | .saSt f => f.ok .z .xs .xs .sa [0x10, 0x11, 0x12] 0x00
  | .saZero f => f.ok .sa .z .z .z noType 0x01 && decide (f.md = 0 ∨ f.d = 148)
  | .saMv f => saMvOk f
  | .attnInit f => f.ok .z .xs .z .z noType 0x03
  | .attnQk f => f.ok .z .xs .xs .z noType 0x00
  | .attnSmx f => f.ok .z .xs .xs .z noType 0x00
  | .attnPv f => f.ok .z .xs .xs .z noType 0x00
  | .grpIdx f => Cls.has .x f.a && Cls.has .x f.b && Cls.has .z f.c && f.md &&& 7 == 0
  | .ldS8 f => memOk .xd f
  | .ldZ8 f => memOk .xd f
  | .ldS16 f => memOk .xd f
  | .ldZ16 f => memOk .xd f
  | .ldS32 f => memOk .xd f
  | .ldZ32 f => memOk .xd f
  | .ldS64 f => memOk .xd f
  | .stS8 f => memOk .xs f
  | .stS16 f => memOk .xs f
  | .stS32 f => memOk .xs f
  | .stS64 f => memOk .xs f
  | .vldS32 f => memOk .v f
  | .vstS32 f => memOk .v f
  | .vldS16 f => memOk .v f
  | .vstS16 f => memOk .v f
  | .smMap f => f.ok .x .xs .xs .z noType 0x00
  | .smUnmap f => f.ok .z .xs .z .z noType 0x00
  | .smPin f => f.ok .z .xs .xs .z noType 0x00
  | .smUnpin f => f.ok .z .xs .xs .z noType 0x00
  | .smFlush f => f.ok .z .xs .xs .z noType 0x00
  | .cpGet f => Cls.has .x f.a && Cls.has .x f.b && Cls.has .xeven f.c
  | .cpPut f => Cls.has .x f.a && Cls.has .x f.b && Cls.has .xeven f.c
  | .cpRput f => Cls.has .x f.a && Cls.has .x f.b && Cls.has .xeven f.c
  | .cpGth f => Cls.has .x f.a && Cls.has .x f.b && Cls.has .xeven f.c
  | .barInit f => f.ok .z .xs .xs .xs noType 0x00
  | .barArr f => f.ok .xd .xs .xs .z noType 0x00
  | .barWait f => f.ok .xd .xs .z .z noType 0x00
  | .barTest f => f.ok .xd .xs .z .z noType 0x00
  | .amoAdd f => amoOk .x 2 f
  | .amoAnd f => amoOk .x 2 f
  | .amoOr f => amoOk .x 2 f
  | .amoXor f => amoOk .x 2 f
  | .amoMinS f => amoOk .x 2 f
  | .amoMinZ f => amoOk .x 2 f
  | .amoMaxS f => amoOk .x 2 f
  | .amoMaxZ f => amoOk .x 2 f
  | .amoSwap f => amoOk .x 2 f
  | .amoCas f => amoOk .xeven0 2 f
  | .amoAddF32 f => amoOk .x 1 f
  | .fence f => fenceOk f
  | .cpub f => cpubOk f
  | .ifence f => f.ok .z .z .z .z noType 0x00
  | .tokWait f => tokWaitOk f
  | .tokTest f => f.ok .p .tokn .z .z noType 0x00
  | .kvLdk f => f.ok .z .xs .xs .xs [0x10, 0x12] 0x00
  | .kvLdv f => f.ok .z .xs .xs .xs [0x10, 0x12] 0x00
  | .kvApp f => f.ok .z .xs .xs .xs [0x10, 0x12] 0x00
  | .pref f => prefOk f
  | .hstart f => f.ok .x .xs .xs .xs noType 0x00
  | .hreap f => f.ok .x .xs .z .z noType 0x01
  | .hstat f => f.ok .x .xs .z .z noType 0x00
  | .vclaim f => Cls.has .x f.d && Cls.has .z f.a && decide (claimOk f.imm)
  | .vrel f => f.ok .z .z .z .z noType 0x00
  | .vgrow f => Cls.has .x f.d && Cls.has .z f.a && decide (f.imm = 0)
  | .vstat f => f.ok .x .z .z .z noType 0x00
  | .fork f => f.ok .x .xs .xs .xs noType 0x00
  | .forkR f => f.ok .x .xs .xs .xs noType 0x00
  | .join f => f.ok .z .xs .z .z noType 0x00
  | .jtest f => f.ok .x .xs .z .z noType 0x00
  | .tend f => f.ok .z .xs .xs .xs noType 0x01 && decide (f.md = 1)
  | .hend f => f.ok .z .z .z .z noType 0x02 && decide (f.md = 2)
  | .sleep f => f.ok .z .xs .z .z noType 0xF0
  | .chbind f => f.ok .x .xs .z .z noType 0x0F
  | .chunbind f => f.ok .x .z .z .z noType 0x0F
  | .chstat f => f.ok .x .z .z .z noType 0x0F
  | .amsend f => f.ok .x .xs .xs .xs noType 0x00
  | .amsendW f => f.ok .x .xs .xs .xs noType 0x00
  | .amrecv f => Cls.has .z f.d && Cls.has .z f.a && decide (f.imm.toNat < 32 ∧ f.imm.toNat % 16 ≠ 0)
  | .amret f => f.ok .z .xs .z .z noType 0x00
  | .mbstat f => Cls.has .x f.d && Cls.has .z f.a && decide (f.imm.toNat < 4)
  | .fcall f => f.ok .x .xs .xs .z noType 0x00
  | .fwait f => f.ok .x .xs .z .z noType 0x00
  | .fpoll f => f.ok .x .xs .z .z noType 0x00
  | .fdrop f => f.ok .x .xs .z .z noType 0x00
  | .sqBatch f => f.ok .x .xs .xs .xs noType 0x00
  | .sqEmit f => f.ok .x .xs .xs .z noType 0x00
  | .sqPfq f => f.ok .x .xs .xs .xs noType 0x00
  | .adpClaim f => f.ok .x .xs .xs .xs noType 0x00
  | .adpBind f => f.ok .x .xs .z .z noType 0x00
  | .launch f => f.ok .x .xs .z .z noType 0x00
  | .sdisp f => Cls.has .x f.d && Cls.has .z f.a && decide (f.imm.toNat < 4)
  | .sdispTbl f => f.ok .z .xs .z .z noType 0x03
  | .trap f => Cls.has .z f.d
  | .rfs f => f.ok .z .z .z .z noType 0x00
  | .csave f => f.ok .x .xs .xs .z noType 0x01
  | .cload f => f.ok .x .xs .xs .z noType 0x00
  | .ctxkill f => f.ok .x .xs .z .z noType 0x00
  | .pctlQrec f => Cls.has .x f.d && Cls.has .xs f.a && decide (f.imm.toNat % 256 = 0 ∧ f.imm.toNat < 11 * 256)
  | .pctlQskip f => Cls.has .x f.d && Cls.has .xs f.a && decide (f.imm.toNat % 256 = 1 ∧ f.imm.toNat < 11 * 256)
  | .pctlPost f => Cls.has .x f.d && Cls.has .xs f.a && decide (f.imm = 2)
  | .pctlPark f => Cls.has .x f.d && Cls.has .xs f.a && decide (f.imm = 3)
  | .xinvPage f => f.ok .x .xs .xs .z noType 0x00
  | .xinvAsid f => f.ok .x .z .xs .z noType 0x01 && decide (f.md = 1)
  | .xinvQ f => f.ok .xeven .xs .xs .z noType 0x06 && decide (f.md = 2 ∨ f.md = 6)
  | .kvinv f => f.ok .x .xs .z .z noType 0x03 && decide (f.md ≠ 3)
  | .asidSet f => f.ok .x .xs .xs .z noType 0x00
  | .asidRet f => f.ok .x .xs .z .z noType 0x01
  | .dset f => f.ok .x .xs .xs .z noType 0x00
  | .bkpt f => Cls.has .z f.d
  | .wpset f => f.ok .x .xs .xs .xs noType 0x00
  | .dbgRd f => f.ok .xeven .xs .z .z noType 0x00
  | .dbgWr f => f.ok .xeven .xs .xs .z noType 0x00
  | .ill _ => true

end Sys2Proof
end

