-- ==== Sys2Proof/Decode.lean ====
section
/-! DEFINITION. Decoding: slot words (R36, R37, R65, R66), Xmerf words (R354), bundles and parcels (R26, R31, R33),
and the encoder of the same tables. -/
namespace Sys2Proof

/-- Why a word is not an instruction. -/
inductive Reject
  /-- R281: mod[1:0] of opcode 0xEE is 3. -/
  | sleepForm
  /-- R387: the function of pctl is not listed. -/
  | pctlFn
  /-- R340: mod[1:0] of opcode 0xF6 is 3. -/
  | xinvMode
  /-- R40: a field of the slot word is not legal. -/
  | illFormed (opcode : BitVec 8)
  /-- R348: a word of the agent core's base instruction set, not of custom-0. -/
  | notCustom0
  /-- R354: custom-0 with a funct7 or funct3 that is not listed. -/
  | customFunct
  /-- The table's row is longer or shorter than a word. -/
  | length
  deriving DecidableEq, Repr

/-- R36: OP, bits 63:56. -/
def opField (w : Word) : BitVec 8 := w.extractLsb' 56 8

/-- R37: the RRR fields of a slot word. -/
def RRR.unpack (w : Word) : RRR :=
  { gp := w.extractLsb' 51 5, gn := w.getLsbD 50, d := w.extractLsb' 41 9, a := w.extractLsb' 32 9,
    b := w.extractLsb' 23 9, c := w.extractLsb' 14 9, ty := w.extractLsb' 8 6, md := w.extractLsb' 0 8 }
/-- R37: the RRI fields of a slot word. -/
def RRI.unpack (w : Word) : RRI :=
  { gp := w.extractLsb' 51 5, gn := w.getLsbD 50, d := w.extractLsb' 41 9, a := w.extractLsb' 32 9,
    imm := w.extractLsb' 0 32 }
/-- R37: the RI fields of a slot word. -/
def RI.unpack (w : Word) : RI :=
  { gp := w.extractLsb' 51 5, gn := w.getLsbD 50, d := w.extractLsb' 41 9, imm := w.extractLsb' 0 41 }
/-- R37: the BR fields of a slot word. -/
def BRF.unpack (w : Word) : BRF :=
  { gp := w.extractLsb' 51 5, gn := w.getLsbD 50, link := w.extractLsb' 41 9, off := w.extractLsb' 0 41 }
/-- R37: the MEM fields of a slot word. -/
def MEMF.unpack (w : Word) : MEMF :=
  { gp := w.extractLsb' 51 5, gn := w.getLsbD 50, data := w.extractLsb' 41 9, base := w.extractLsb' 32 9,
    off := w.extractLsb' 8 24, scope := w.extractLsb' 5 3, order := w.extractLsb' 2 3, policy := w.extractLsb' 0 2 }
/-- R37: the ENG fields of a slot word. -/
def ENGF.unpack (w : Word) : ENGF :=
  { gp := w.extractLsb' 51 5, gn := w.getLsbD 50, prod := w.extractLsb' 45 5, c1 := w.extractLsb' 40 5,
    c2 := w.extractLsb' 35 5, c3 := w.extractLsb' 30 5, a := w.extractLsb' 21 9, b := w.extractLsb' 12 9,
    c := w.extractLsb' 3 9, md := w.extractLsb' 0 3 }

/-- R36, R37: the slot word of an RRR operation. -/
def RRR.pack (op : BitVec 8) (f : RRR) : Word :=
  (op ++ f.gp ++ BitVec.ofBool f.gn ++ f.d ++ f.a ++ f.b ++ f.c ++ f.ty ++ f.md : BitVec (8 + 5 + 1 + 9 + 9 + 9 + 9 + 6 + 8))
/-- R36, R37: the slot word of an RRI operation (bits 63:50, d, a, imm32). -/
def RRI.pack (op : BitVec 8) (f : RRI) : Word :=
  (op ++ f.gp ++ BitVec.ofBool f.gn ++ f.d ++ f.a ++ f.imm : BitVec (8 + 5 + 1 + 9 + 9 + 32))
/-- R36, R37: the slot word of an RI operation. -/
def RI.pack (op : BitVec 8) (f : RI) : Word :=
  (op ++ f.gp ++ BitVec.ofBool f.gn ++ f.d ++ f.imm : BitVec (8 + 5 + 1 + 9 + 41))
/-- R36, R37: the slot word of a BR operation. -/
def BRF.pack (op : BitVec 8) (f : BRF) : Word :=
  (op ++ f.gp ++ BitVec.ofBool f.gn ++ f.link ++ f.off : BitVec (8 + 5 + 1 + 9 + 41))
/-- R36, R37: the slot word of a MEM operation. -/
def MEMF.pack (op : BitVec 8) (f : MEMF) : Word :=
  (op ++ f.gp ++ BitVec.ofBool f.gn ++ f.data ++ f.base ++ f.off ++ f.scope ++ f.order ++ f.policy :
    BitVec (8 + 5 + 1 + 9 + 9 + 24 + 3 + 3 + 2))
/-- R36, R37: the slot word of an ENG operation. -/
def ENGF.pack (op : BitVec 8) (f : ENGF) : Word :=
  (op ++ f.gp ++ BitVec.ofBool f.gn ++ f.prod ++ f.c1 ++ f.c2 ++ f.c3 ++ f.a ++ f.b ++ f.c ++ f.md :
    BitVec (8 + 5 + 1 + 5 + 5 + 5 + 5 + 9 + 9 + 9 + 3))

-- Lean's compiler numbers constructors in a byte, and the table has more rows than that: a slot operation built from its
-- word is evaluated by the kernel alone. The machine reads slot words by opcode (Machine/Slots.lean).
noncomputable section

/-- R65, R66: the operation that an opcode names for a slot word, its fields not yet checked. -/
def decodeOpAt (op : Nat) (w : Word) : Except Reject Instr :=
  match op with
  | 0x00 => .ok (.add (RRR.unpack w))
  | 0x01 => .ok (.sub (RRR.unpack w))
  | 0x02 => .ok (.addi (RRI.unpack w))
  | 0x03 => .ok (.mul (RRR.unpack w))
  | 0x04 => .ok (.mulhS (RRR.unpack w))
  | 0x05 => .ok (.mulhZ (RRR.unpack w))
  | 0x06 => .ok (.divS (RRR.unpack w))
  | 0x07 => .ok (.divZ (RRR.unpack w))
  | 0x08 => .ok (.remS (RRR.unpack w))
  | 0x09 => .ok (.remZ (RRR.unpack w))
  | 0x0A => .ok (.addsS (RRR.unpack w))
  | 0x0B => .ok (.addsZ (RRR.unpack w))
  | 0x0C => .ok (.subsS (RRR.unpack w))
  | 0x0D => .ok (.subsZ (RRR.unpack w))
  | 0x0E => .ok (.minS (RRR.unpack w))
  | 0x0F => .ok (.minZ (RRR.unpack w))
  | 0x10 => .ok (.maxS (RRR.unpack w))
  | 0x11 => .ok (.maxZ (RRR.unpack w))
  | 0x12 => .ok (.and (RRR.unpack w))
  | 0x13 => .ok (.or (RRR.unpack w))
  | 0x14 => .ok (.xor (RRR.unpack w))
  | 0x15 => .ok (.andn (RRR.unpack w))
  | 0x16 => .ok (.andi (RRI.unpack w))
  | 0x17 => .ok (.ori (RRI.unpack w))
  | 0x18 => .ok (.xori (RRI.unpack w))
  | 0x19 => .ok (.shl (RRR.unpack w))
  | 0x1A => .ok (.shrZ (RRR.unpack w))
  | 0x1B => .ok (.shrS (RRR.unpack w))
  | 0x1C => .ok (.shli (RRI.unpack w))
  | 0x1D => .ok (.shriZ (RRI.unpack w))
  | 0x1E => .ok (.shriS (RRI.unpack w))
  | 0x1F => .ok (.rot (RRR.unpack w))
  | 0x20 => .ok (.shadd (RRR.unpack w))
  | 0x21 => .ok (.movi (RI.unpack w))
  | 0x22 => .ok (.movhi (RI.unpack w))
  | 0x23 => .ok (.bfxS (RRI.unpack w))
  | 0x24 => .ok (.bfxZ (RRI.unpack w))
  | 0x25 => .ok (.bfi (RRI.unpack w))
  | 0x26 => .ok (.clz (RRR.unpack w))
  | 0x27 => .ok (.ctz (RRR.unpack w))
  | 0x28 => .ok (.popc (RRR.unpack w))
  | 0x29 => .ok (.clmul (RRR.unpack w))
  | 0x2A => .ok (.clmulh (RRR.unpack w))
  | 0x2B => .ok (.bswap (RRR.unpack w))
  | 0x2C => .ok (.cmp (RRR.unpack w))
  | 0x2D => .ok (.cmpi (RRI.unpack w))
  | 0x2E => .ok (.pbool (RRR.unpack w))
  | 0x2F => .ok (.mfc (RRI.unpack w))
  | 0x30 => .ok (.mtc (RRI.unpack w))
  | 0x31 => .ok (.sel (RRR.unpack w))
  | 0x32 => .ok (.br (BRF.unpack w))
  | 0x33 => .ok (.bri (RRR.unpack w))
  | 0x34 => .ok (.loop (BRF.unpack w))
  | 0x35 => .ok (.loopRot (BRF.unpack w))
  | 0x36 => .ok (.loopW (BRF.unpack w))
  | 0x37 => .ok (.brev (RRR.unpack w))
  | 0x38 => .ok (.addw (RRR.unpack w))
  | 0x39 => .ok (.subw (RRR.unpack w))
  | 0x3A => .ok (.mulw (RRR.unpack w))
  | 0x3B => .ok (.shlw (RRR.unpack w))
  | 0x3C => .ok (.shrwZ (RRR.unpack w))
  | 0x3D => .ok (.shrwS (RRR.unpack w))
  | 0x3E => .ok (.addiw (RRI.unpack w))
  | 0x3F => .ok (.nop (RRR.unpack w))
  | 0x40 => .ok (.vaddS32 (RRR.unpack w))
  | 0x41 => .ok (.vaddS16 (RRR.unpack w))
  | 0x42 => .ok (.vaddS8 (RRR.unpack w))
  | 0x43 => .ok (.vsubS32 (RRR.unpack w))
  | 0x44 => .ok (.vsubS16 (RRR.unpack w))
  | 0x45 => .ok (.vsubS8 (RRR.unpack w))
  | 0x46 => .ok (.vmulS32 (RRR.unpack w))
  | 0x47 => .ok (.vmulS16 (RRR.unpack w))
  | 0x48 => .ok (.vminS32 (RRR.unpack w))
  | 0x49 => .ok (.vmaxS32 (RRR.unpack w))
  | 0x4A => .ok (.vminS16 (RRR.unpack w))
  | 0x4B => .ok (.vmaxS16 (RRR.unpack w))
  | 0x4C => .ok (.vand (RRR.unpack w))
  | 0x4D => .ok (.vor (RRR.unpack w))
  | 0x4E => .ok (.vxor (RRR.unpack w))
  | 0x4F => .ok (.vshlS32 (RRR.unpack w))
  | 0x50 => .ok (.vshrS32 (RRR.unpack w))
  | 0x51 => .ok (.vshlS16 (RRR.unpack w))
  | 0x52 => .ok (.vshrS16 (RRR.unpack w))
  | 0x53 => .ok (.vmacwS16 (RRR.unpack w))
  | 0x54 => .ok (.vdotS8 (RRR.unpack w))
  | 0x55 => .ok (.vdotS16 (RRR.unpack w))
  | 0x56 => .ok (.vclmul (RRR.unpack w))
  | 0x57 => .ok (.vclmulh (RRR.unpack w))
  | 0x58 => .ok (.vcmpS32 (RRR.unpack w))
  | 0x59 => .ok (.vcmpS16 (RRR.unpack w))
  | 0x5A => .ok (.vsel (RRR.unpack w))
  | 0x5B => .ok (.vaddF32 (RRR.unpack w))
  | 0x5C => .ok (.vsubF32 (RRR.unpack w))
  | 0x5D => .ok (.vmulF32 (RRR.unpack w))
  | 0x5E => .ok (.vfmaF32 (RRR.unpack w))
  | 0x5F => .ok (.vminF32 (RRR.unpack w))
  | 0x60 => .ok (.vmaxF32 (RRR.unpack w))
  | 0x61 => .ok (.vcmpF32 (RRR.unpack w))
  | 0x62 => .ok (.vaddBf16 (RRR.unpack w))
  | 0x63 => .ok (.vmulBf16 (RRR.unpack w))
  | 0x64 => .ok (.vfmaBf16 (RRR.unpack w))
  | 0x65 => .ok (.vaddF16 (RRR.unpack w))
  | 0x66 => .ok (.vmulF16 (RRR.unpack w))
  | 0x67 => .ok (.vfmaF16 (RRR.unpack w))
  | 0x68 => .ok (.vcvtF32 (RRR.unpack w))
  | 0x69 => .ok (.vcvtBf16 (RRR.unpack w))
  | 0x6A => .ok (.vcvtF16 (RRR.unpack w))
  | 0x6B => .ok (.vcvtF8e4 (RRR.unpack w))
  | 0x6C => .ok (.vcvtF8e5 (RRR.unpack w))
  | 0x6D => .ok (.vcvtS32 (RRR.unpack w))
  | 0x6E => .ok (.vcvtS16 (RRR.unpack w))
  | 0x6F => .ok (.vcvtS8 (RRR.unpack w))
  | 0x70 => .ok (.vexp2 (RRR.unpack w))
  | 0x71 => .ok (.vlog2 (RRR.unpack w))
  | 0x72 => .ok (.vrcp (RRR.unpack w))
  | 0x73 => .ok (.vrsqrt (RRR.unpack w))
  | 0x74 => .ok (.vtanh (RRR.unpack w))
  | 0x75 => .ok (.vexp (RRR.unpack w))
  | 0x76 => .ok (.vlog (RRR.unpack w))
  | 0x77 => .ok (.vredF32 (RRR.unpack w))
  | 0x78 => .ok (.vredS32 (RRR.unpack w))
  | 0x79 => .ok (.vscanF32 (RRR.unpack w))
  | 0x7A => .ok (.vscanS32 (RRR.unpack w))
  | 0x7B => .ok (.vperm (RRR.unpack w))
  | 0x7C => .ok (.vsplat (RRI.unpack w))
  | 0x7D => .ok (.vslide (RRI.unpack w))
  | 0x7E => if bit (RRR.unpack w).opm 3 then .ok (.vpack (RRR.unpack w)) else .ok (.vzip (RRR.unpack w))
  | 0x7F => .ok (.vext (RRI.unpack w))
  | 0x80 => .ok (.mmF8e4 (ENGF.unpack w))
  | 0x81 => .ok (.mmF8e5 (ENGF.unpack w))
  | 0x82 => .ok (.mmF6e3 (ENGF.unpack w))
  | 0x83 => .ok (.mmF6e2 (ENGF.unpack w))
  | 0x84 => .ok (.mmF4 (ENGF.unpack w))
  | 0x85 => .ok (.mmBf16 (ENGF.unpack w))
  | 0x86 => .ok (.mmF16 (ENGF.unpack w))
  | 0x87 => .ok (.mmS8 (ENGF.unpack w))
  | 0x88 => .ok (.mmS4 (ENGF.unpack w))
  | 0x89 => .ok (.mmMx (ENGF.unpack w))
  | 0x8A => .ok (.mmGrp (ENGF.unpack w))
  | 0x8B => .ok (.mmPriv (ENGF.unpack w))
  | 0x8C => .ok (.elLd (ENGF.unpack w))
  | 0x8D => .ok (.rgCfg (RRR.unpack w))
  | 0x8E => .ok (.rgAdv (ENGF.unpack w))
  | 0x8F => .ok (.accZero (ENGF.unpack w))
  | 0x90 => .ok (.accSt (ENGF.unpack w))
  | 0x91 => .ok (.accLd (ENGF.unpack w))
  | 0x92 => .ok (.accMv (ENGF.unpack w))
  | 0x93 => .ok (.cvRun (ENGF.unpack w))
  | 0x94 => .ok (.cvCfg (RRR.unpack w))
  | 0x95 => .ok (.saLd (RRR.unpack w))
  | 0x96 => .ok (.saMmBf16 (RRR.unpack w))
  | 0x97 => .ok (.saMmF8 (RRR.unpack w))
  | 0x98 => .ok (.saSt (RRR.unpack w))
  | 0x99 => .ok (.saZero (RRR.unpack w))
  | 0x9A => .ok (.saMv (RRR.unpack w))
  | 0x9B => .ok (.attnInit (RRR.unpack w))
  | 0x9C => .ok (.attnQk (RRR.unpack w))
  | 0x9D => .ok (.attnSmx (RRR.unpack w))
  | 0x9E => .ok (.attnPv (RRR.unpack w))
  | 0x9F => .ok (.grpIdx (ENGF.unpack w))
  | 0xA0 => .ok (.ldS8 (MEMF.unpack w))
  | 0xA1 => .ok (.ldZ8 (MEMF.unpack w))
  | 0xA2 => .ok (.ldS16 (MEMF.unpack w))
  | 0xA3 => .ok (.ldZ16 (MEMF.unpack w))
  | 0xA4 => .ok (.ldS32 (MEMF.unpack w))
  | 0xA5 => .ok (.ldZ32 (MEMF.unpack w))
  | 0xA6 => .ok (.ldS64 (MEMF.unpack w))
  | 0xA7 => .ok (.stS8 (MEMF.unpack w))
  | 0xA8 => .ok (.stS16 (MEMF.unpack w))
  | 0xA9 => .ok (.stS32 (MEMF.unpack w))
  | 0xAA => .ok (.stS64 (MEMF.unpack w))
  | 0xAB => .ok (.vldS32 (MEMF.unpack w))
  | 0xAC => .ok (.vstS32 (MEMF.unpack w))
  | 0xAD => .ok (.vldS16 (MEMF.unpack w))
  | 0xAE => .ok (.vstS16 (MEMF.unpack w))
  | 0xAF => .ok (.smMap (RRR.unpack w))
  | 0xB0 => .ok (.smUnmap (RRR.unpack w))
  | 0xB1 => .ok (.smPin (RRR.unpack w))
  | 0xB2 => .ok (.smUnpin (RRR.unpack w))
  | 0xB3 => .ok (.cpGet (ENGF.unpack w))
  | 0xB4 => .ok (.cpPut (ENGF.unpack w))
  | 0xB5 => .ok (.cpRput (ENGF.unpack w))
  | 0xB6 => .ok (.cpGth (ENGF.unpack w))
  | 0xB7 => .ok (.barInit (RRR.unpack w))
  | 0xB8 => .ok (.barArr (RRR.unpack w))
  | 0xB9 => .ok (.barWait (RRR.unpack w))
  | 0xBA => .ok (.amoAdd (MEMF.unpack w))
  | 0xBB => .ok (.amoAnd (MEMF.unpack w))
  | 0xBC => .ok (.amoOr (MEMF.unpack w))
  | 0xBD => .ok (.amoXor (MEMF.unpack w))
  | 0xBE => .ok (.amoMinS (MEMF.unpack w))
  | 0xBF => .ok (.amoMinZ (MEMF.unpack w))
  | 0xC0 => .ok (.amoMaxS (MEMF.unpack w))
  | 0xC1 => .ok (.amoMaxZ (MEMF.unpack w))
  | 0xC2 => .ok (.amoSwap (MEMF.unpack w))
  | 0xC3 => .ok (.amoCas (MEMF.unpack w))
  | 0xC4 => .ok (.amoAddF32 (MEMF.unpack w))
  | 0xC5 => .ok (.fence (MEMF.unpack w))
  | 0xC6 => .ok (.cpub (MEMF.unpack w))
  | 0xC7 => .ok (.ifence (RRR.unpack w))
  | 0xC8 => .ok (.tokWait (ENGF.unpack w))
  | 0xC9 => .ok (.tokTest (RRR.unpack w))
  | 0xCA => .ok (.kvLdk (RRR.unpack w))
  | 0xCB => .ok (.kvLdv (RRR.unpack w))
  | 0xCC => .ok (.kvApp (RRR.unpack w))
  | 0xCD => .ok (.pref (MEMF.unpack w))
  | 0xCE => .ok (.barTest (RRR.unpack w))
  | 0xCF => .ok (.smFlush (RRR.unpack w))
  | 0xD0 => .ok (.hstart (RRR.unpack w))
  | 0xD1 => .ok (.hreap (RRR.unpack w))
  | 0xD2 => .ok (.hstat (RRR.unpack w))
  | 0xD3 => .ok (.vclaim (RRI.unpack w))
  | 0xD4 => .ok (.vrel (RRR.unpack w))
  | 0xD5 => .ok (.vgrow (RRI.unpack w))
  | 0xD6 => .ok (.fork (RRR.unpack w))
  | 0xD7 => .ok (.forkR (RRR.unpack w))
  | 0xD8 => .ok (.join (RRR.unpack w))
  | 0xD9 => .ok (.jtest (RRR.unpack w))
  | 0xDA => .ok (.chbind (RRR.unpack w))
  | 0xDB => .ok (.chunbind (RRR.unpack w))
  | 0xDC => .ok (.chstat (RRR.unpack w))
  | 0xDD => .ok (.amsend (RRR.unpack w))
  | 0xDE => .ok (.amsendW (RRR.unpack w))
  | 0xDF => .ok (.amrecv (RRI.unpack w))
  | 0xE0 => .ok (.amret (RRR.unpack w))
  | 0xE1 => .ok (.mbstat (RRI.unpack w))
  | 0xE2 => .ok (.fcall (RRR.unpack w))
  | 0xE3 => .ok (.fwait (RRR.unpack w))
  | 0xE4 => .ok (.fpoll (RRR.unpack w))
  | 0xE5 => .ok (.fdrop (RRR.unpack w))
  | 0xE6 => .ok (.sqBatch (RRR.unpack w))
  | 0xE7 => .ok (.sqEmit (RRR.unpack w))
  | 0xE8 => .ok (.sqPfq (RRR.unpack w))
  | 0xE9 => .ok (.adpClaim (RRR.unpack w))
  | 0xEA => .ok (.adpBind (RRR.unpack w))
  | 0xEB => .ok (.launch (RRR.unpack w))
  | 0xEC => .ok (.sdisp (RRI.unpack w))
  | 0xED => .ok (.sdispTbl (RRR.unpack w))
  | 0xEE => match (RRR.unpack w).md.toNat % 4 with
    | 0 => .ok (.sleep (RRR.unpack w)) | 1 => .ok (.tend (RRR.unpack w)) | 2 => .ok (.hend (RRR.unpack w)) | _ => .error .sleepForm
  | 0xEF => .ok (.vstat (RRR.unpack w))
  | 0xF0 => .ok (.trap (RI.unpack w))
  | 0xF1 => .ok (.rfs (RRR.unpack w))
  | 0xF2 => .ok (.csave (RRR.unpack w))
  | 0xF3 => .ok (.cload (RRR.unpack w))
  | 0xF4 => .ok (.ctxkill (RRR.unpack w))
  | 0xF5 => match (RRI.unpack w).imm.toNat % 256 with
    | 0 => .ok (.pctlQrec (RRI.unpack w)) | 1 => .ok (.pctlQskip (RRI.unpack w)) | 2 => .ok (.pctlPost (RRI.unpack w))
    | 3 => .ok (.pctlPark (RRI.unpack w)) | _ => .error .pctlFn
  | 0xF6 => match (RRR.unpack w).md.toNat % 4 with
    | 0 => .ok (.xinvPage (RRR.unpack w)) | 1 => .ok (.xinvAsid (RRR.unpack w)) | 2 => .ok (.xinvQ (RRR.unpack w)) | _ => .error .xinvMode
  | 0xF7 => .ok (.kvinv (RRR.unpack w))
  | 0xF8 => .ok (.asidSet (RRR.unpack w))
  | 0xF9 => .ok (.asidRet (RRR.unpack w))
  | 0xFA => .ok (.dset (RRR.unpack w))
  | 0xFB => .ok (.bkpt (RI.unpack w))
  | 0xFC => .ok (.wpset (RRR.unpack w))
  | 0xFD => .ok (.dbgRd (RRR.unpack w))
  | 0xFE => .ok (.dbgWr (RRR.unpack w))
  | _ => .ok (.ill (RRR.unpack w))
/-- The operation of a slot word by its own opcode. -/
def decodeOp (w : Word) : Except Reject Instr := decodeOpAt (opField w).toNat w

end

/-- R40: no condition of a slot word alone raises F_ILLOP; the fields are judged as the opcode names them. -/
def slotLegalAt (op : Nat) (w : Word) : Bool :=
  match op with
  | 0x00 => let f := RRR.unpack w; f.ok .xd .xs .xs .z noType 0x00
  | 0x01 => let f := RRR.unpack w; f.ok .xd .xs .xs .z noType 0x00
  | 0x02 => let f := RRI.unpack w; Cls.has .xd f.d && Cls.has .xs f.a
  | 0x03 => let f := RRR.unpack w; f.ok .xd .xs .xs .z noType 0x00
  | 0x04 => let f := RRR.unpack w; f.ok .xd .xs .xs .z noType 0x00
  | 0x05 => let f := RRR.unpack w; f.ok .xd .xs .xs .z noType 0x00
  | 0x06 => let f := RRR.unpack w; f.ok .xd .xs .xs .z noType 0x00
  | 0x07 => let f := RRR.unpack w; f.ok .xd .xs .xs .z noType 0x00
  | 0x08 => let f := RRR.unpack w; f.ok .xd .xs .xs .z noType 0x00
  | 0x09 => let f := RRR.unpack w; f.ok .xd .xs .xs .z noType 0x00
  | 0x0A => let f := RRR.unpack w; f.ok .xd .xs .xs .z noType 0x00
  | 0x0B => let f := RRR.unpack w; f.ok .xd .xs .xs .z noType 0x00
  | 0x0C => let f := RRR.unpack w; f.ok .xd .xs .xs .z noType 0x00
  | 0x0D => let f := RRR.unpack w; f.ok .xd .xs .xs .z noType 0x00
  | 0x0E => let f := RRR.unpack w; f.ok .xd .xs .xs .z noType 0x00
  | 0x0F => let f := RRR.unpack w; f.ok .xd .xs .xs .z noType 0x00
  | 0x10 => let f := RRR.unpack w; f.ok .xd .xs .xs .z noType 0x00
  | 0x11 => let f := RRR.unpack w; f.ok .xd .xs .xs .z noType 0x00
  | 0x12 => let f := RRR.unpack w; f.ok .xd .xs .xs .z noType 0x00
  | 0x13 => let f := RRR.unpack w; f.ok .xd .xs .xs .z noType 0x00
  | 0x14 => let f := RRR.unpack w; f.ok .xd .xs .xs .z noType 0x00
  | 0x15 => let f := RRR.unpack w; f.ok .xd .xs .xs .z noType 0x00
  | 0x16 => let f := RRI.unpack w; Cls.has .xd f.d && Cls.has .xs f.a
  | 0x17 => let f := RRI.unpack w; Cls.has .xd f.d && Cls.has .xs f.a
  | 0x18 => let f := RRI.unpack w; Cls.has .xd f.d && Cls.has .xs f.a
  | 0x19 => let f := RRR.unpack w; f.ok .xd .xs .xs .z noType 0x00
  | 0x1A => let f := RRR.unpack w; f.ok .xd .xs .xs .z noType 0x00
  | 0x1B => let f := RRR.unpack w; f.ok .xd .xs .xs .z noType 0x00
  | 0x1C => let f := RRI.unpack w; Cls.has .xd f.d && Cls.has .xs f.a && decide (f.imm.toNat < 64)
  | 0x1D => let f := RRI.unpack w; Cls.has .xd f.d && Cls.has .xs f.a && decide (f.imm.toNat < 64)
  | 0x1E => let f := RRI.unpack w; Cls.has .xd f.d && Cls.has .xs f.a && decide (f.imm.toNat < 64)
  | 0x1F => let f := RRR.unpack w; f.ok .xd .xs .xs .z noType 0x00
  | 0x20 => let f := RRR.unpack w; f.ok .xd .xs .xs .z noType 0x03
  | 0x21 => let f := RI.unpack w; Cls.has .xd f.d
  | 0x22 => let f := RI.unpack w; Cls.has .x f.d && decide (f.imm.toNat < 2 ^ 23)
  | 0x23 => let f := RRI.unpack w; Cls.has .xd f.d && Cls.has .xs f.a && decide (bfOk f.imm)
  | 0x24 => let f := RRI.unpack w; Cls.has .xd f.d && Cls.has .xs f.a && decide (bfOk f.imm)
  | 0x25 => let f := RRI.unpack w; Cls.has .x f.d && Cls.has .xs f.a && decide (bfOk f.imm)
  | 0x26 => let f := RRR.unpack w; f.ok .xd .xs .z .z noType 0x00
  | 0x27 => let f := RRR.unpack w; f.ok .xd .xs .z .z noType 0x00
  | 0x28 => let f := RRR.unpack w; f.ok .xd .xs .z .z noType 0x00
  | 0x29 => let f := RRR.unpack w; f.ok .xd .xs .xs .z noType 0x00
  | 0x2A => let f := RRR.unpack w; f.ok .xd .xs .xs .z noType 0x00
  | 0x2B => let f := RRR.unpack w; f.ok .xd .xs .z .z noType 0x00
  | 0x2C => let f := RRR.unpack w; f.ok .p .xs .xs .z noType 0x07
  | 0x2D => let f := RRI.unpack w; Cls.has .p f.d && Cls.has .xs f.a && decide (f.imm.toNat < 2 ^ 31)
  | 0x2E => let f := RRR.unpack w; f.ok .p .p .p .z noType 0x0F
  | 0x2F => let f := RRI.unpack w; Cls.has .xd f.d && Cls.has .z f.a && decide (cregOk f.imm.toNat)
  | 0x30 => let f := RRI.unpack w; Cls.has .z f.d && Cls.has .xs f.a && decide (cregOk f.imm.toNat)
  | 0x31 => let f := RRR.unpack w; f.ok .xd .xs .xs .p noType 0x00
  | 0x32 => let f := BRF.unpack w; Cls.has .x f.link
  | 0x33 => let f := RRR.unpack w; f.ok .x .xs .z .z noType 0x00
  | 0x34 => let f := BRF.unpack w; Cls.has .z f.link
  | 0x35 => let f := BRF.unpack w; Cls.has .z f.link
  | 0x36 => let f := BRF.unpack w; Cls.has .p f.link
  | 0x37 => let f := RRR.unpack w; f.ok .xd .xs .z .z noType 0x00
  | 0x38 => let f := RRR.unpack w; f.ok .xd .xs .xs .z noType 0x00
  | 0x39 => let f := RRR.unpack w; f.ok .xd .xs .xs .z noType 0x00
  | 0x3A => let f := RRR.unpack w; f.ok .xd .xs .xs .z noType 0x00
  | 0x3B => let f := RRR.unpack w; f.ok .xd .xs .xs .z noType 0x00
  | 0x3C => let f := RRR.unpack w; f.ok .xd .xs .xs .z noType 0x00
  | 0x3D => let f := RRR.unpack w; f.ok .xd .xs .xs .z noType 0x00
  | 0x3E => let f := RRI.unpack w; Cls.has .xd f.d && Cls.has .xs f.a
  | 0x3F => let f := RRR.unpack w; f.ok .z .z .z .z noType 0x00
  | 0x40 => let f := RRR.unpack w; f.ok .v .vs .vs .z noType 0xF3 && decide (f.opm % 4 ≠ 2)
  | 0x41 => let f := RRR.unpack w; f.ok .v .vs .vs .z noType 0xF3 && decide (f.opm % 4 ≠ 2)
  | 0x42 => let f := RRR.unpack w; f.ok .v .vs .vs .z noType 0xF3 && decide (f.opm % 4 ≠ 2)
  | 0x43 => let f := RRR.unpack w; f.ok .v .vs .vs .z noType 0xF3 && decide (f.opm % 4 ≠ 2)
  | 0x44 => let f := RRR.unpack w; f.ok .v .vs .vs .z noType 0xF3 && decide (f.opm % 4 ≠ 2)
  | 0x45 => let f := RRR.unpack w; f.ok .v .vs .vs .z noType 0xF3 && decide (f.opm % 4 ≠ 2)
  | 0x46 => let f := RRR.unpack w; f.ok .v .vs .vs .z noType 0xF3 && decide (f.opm % 4 ≠ 2)
  | 0x47 => let f := RRR.unpack w; f.ok .v .vs .vs .z noType 0xF3 && decide (f.opm % 4 ≠ 2)
  | 0x48 => let f := RRR.unpack w; f.ok .v .vs .vs .z noType 0xF2
  | 0x49 => let f := RRR.unpack w; f.ok .v .vs .vs .z noType 0xF2
  | 0x4A => let f := RRR.unpack w; f.ok .v .vs .vs .z noType 0xF2
  | 0x4B => let f := RRR.unpack w; f.ok .v .vs .vs .z noType 0xF2
  | 0x4C => let f := RRR.unpack w; vlogOk f
  | 0x4D => let f := RRR.unpack w; vlogOk f
  | 0x4E => let f := RRR.unpack w; vlogOk f
  | 0x4F => let f := RRR.unpack w; f.ok .v .vs .vs .z noType 0xF0
  | 0x50 => let f := RRR.unpack w; f.ok .v .vs .vs .z noType 0xF2
  | 0x51 => let f := RRR.unpack w; f.ok .v .vs .vs .z noType 0xF0
  | 0x52 => let f := RRR.unpack w; f.ok .v .vs .vs .z noType 0xF2
  | 0x53 => let f := RRR.unpack w; f.ok .v .vs .vs .vs noType 0xF7
  | 0x54 => let f := RRR.unpack w; f.ok .v .vs .vs .vs noType 0xF3
  | 0x55 => let f := RRR.unpack w; f.ok .v .vs .vs .vs noType 0xF3
  | 0x56 => let f := RRR.unpack w; f.ok .v .vs .vs .z noType 0xF0
  | 0x57 => let f := RRR.unpack w; f.ok .v .vs .vs .z noType 0xF0
  | 0x58 => let f := RRR.unpack w; f.ok .m .vs .vs .z noType 0xFF && decide (f.opm < 6)
  | 0x59 => let f := RRR.unpack w; f.ok .m .vs .vs .z noType 0xFF && decide (f.opm < 6)
  | 0x5A => let f := RRR.unpack w; f.ok .v .vs .vs .m noType 0xF3 && decide (f.opm < 3)
  | 0x5B => let f := RRR.unpack w; f.ok .v .vs .vs .z noType 0xFF && decide (f.opm % 8 ≠ 6)
  | 0x5C => let f := RRR.unpack w; f.ok .v .vs .vs .z noType 0xFF && decide (f.opm % 8 ≠ 6)
  | 0x5D => let f := RRR.unpack w; f.ok .v .vs .vs .z noType 0xFF && decide (f.opm % 8 ≠ 6)
  | 0x5E => let f := RRR.unpack w; f.ok .v .vs .vs .vs noType 0xFF && decide (f.opm % 8 ≠ 6)
  | 0x5F => let f := RRR.unpack w; f.ok .v .vs .vs .z noType 0xF0
  | 0x60 => let f := RRR.unpack w; f.ok .v .vs .vs .z noType 0xF0
  | 0x61 => let f := RRR.unpack w; f.ok .m .vs .vs .z noType 0xFF && decide (f.opm < 6)
  | 0x62 => let f := RRR.unpack w; f.ok .v .vs .vs .z noType 0xFF && decide (f.opm % 8 ≠ 6)
  | 0x63 => let f := RRR.unpack w; f.ok .v .vs .vs .z noType 0xFF && decide (f.opm % 8 ≠ 6)
  | 0x64 => let f := RRR.unpack w; f.ok .v .vs .vs .vs noType 0xFF && decide (f.opm % 8 ≠ 6)
  | 0x65 => let f := RRR.unpack w; f.ok .v .vs .vs .z noType 0xFF && decide (f.opm % 8 ≠ 6)
  | 0x66 => let f := RRR.unpack w; f.ok .v .vs .vs .z noType 0xFF && decide (f.opm % 8 ≠ 6)
  | 0x67 => let f := RRR.unpack w; f.ok .v .vs .vs .vs noType 0xFF && decide (f.opm % 8 ≠ 6)
  | 0x68 => let f := RRR.unpack w; vcvtOk 0x10 f
  | 0x69 => let f := RRR.unpack w; vcvtOk 0x12 f
  | 0x6A => let f := RRR.unpack w; vcvtOk 0x11 f
  | 0x6B => let f := RRR.unpack w; vcvtOk 0x13 f
  | 0x6C => let f := RRR.unpack w; vcvtOk 0x14 f
  | 0x6D => let f := RRR.unpack w; vcvtOk 0x03 f
  | 0x6E => let f := RRR.unpack w; vcvtOk 0x02 f
  | 0x6F => let f := RRR.unpack w; vcvtOk 0x01 f
  | 0x70 => let f := RRR.unpack w; f.ok .v .vs .z .z noType 0xF0
  | 0x71 => let f := RRR.unpack w; f.ok .v .vs .z .z noType 0xF0
  | 0x72 => let f := RRR.unpack w; f.ok .v .vs .z .z noType 0xF0
  | 0x73 => let f := RRR.unpack w; f.ok .v .vs .z .z noType 0xF0
  | 0x74 => let f := RRR.unpack w; f.ok .v .vs .z .z noType 0xF0
  | 0x75 => let f := RRR.unpack w; f.ok .v .vs .z .z noType 0xF0
  | 0x76 => let f := RRR.unpack w; f.ok .v .vs .z .z noType 0xF0
  | 0x77 => let f := RRR.unpack w; f.ok .v .vs .z .z noType 0xF3 && decide (f.opm ≠ 3)
  | 0x78 => let f := RRR.unpack w; f.ok .v .vs .z .z noType 0xFF && decide ([0, 1, 2, 4, 9, 10, 12].contains f.opm)
  | 0x79 => let f := RRR.unpack w; f.ok .v .vs .z .z noType 0xE0
  | 0x7A => let f := RRR.unpack w; f.ok .v .vs .z .z noType 0xE3 && decide (f.opm ≠ 2)
  | 0x7B => let f := RRR.unpack w; f.ok .v .vs .vs .z noType 0xF3 && decide (f.opm < 3)
  | 0x7C => let f := RRI.unpack w; Cls.has .v f.d && Cls.has .z f.a
  | 0x7D => let f := RRI.unpack w; Cls.has .v f.d && Cls.has .vs f.a && decide (f.imm.toNat < 3 * 2 ^ 16)
  | 0x7E => let f := RRR.unpack w; if bit f.opm 3 then f.ok .v .vs .vs .z noType 0xFF && decide (f.opm % 4 ≠ 3 ∧ 8 ≤ f.opm) else f.ok .v .vs .vs .z noType 0xF7 && decide (f.opm % 4 ≠ 3)
  | 0x7F => let f := RRI.unpack w; Cls.has .v f.d && Cls.has .vs f.a && decide (f.imm.toNat < 3 * 2 ^ 8)
  | 0x80 => let f := ENGF.unpack w; Cls.has .rge f.a && Cls.has .rge f.b && Cls.has .acc f.c && f.md &&& 4 == 0
  | 0x81 => let f := ENGF.unpack w; Cls.has .rge f.a && Cls.has .rge f.b && Cls.has .acc f.c && f.md &&& 4 == 0
  | 0x82 => let f := ENGF.unpack w; Cls.has .rge f.a && Cls.has .rge f.b && Cls.has .acc f.c && f.md &&& 4 == 0
  | 0x83 => let f := ENGF.unpack w; Cls.has .rge f.a && Cls.has .rge f.b && Cls.has .acc f.c && f.md &&& 4 == 0
  | 0x84 => let f := ENGF.unpack w; Cls.has .rge f.a && Cls.has .rge f.b && Cls.has .acc f.c && f.md &&& 4 == 0
  | 0x85 => let f := ENGF.unpack w; Cls.has .rge f.a && Cls.has .rge f.b && Cls.has .acc f.c && f.md &&& 4 == 0
  | 0x86 => let f := ENGF.unpack w; Cls.has .rge f.a && Cls.has .rge f.b && Cls.has .acc f.c && f.md &&& 4 == 0
  | 0x87 => let f := ENGF.unpack w; Cls.has .rge f.a && Cls.has .rge f.b && Cls.has .acc f.c && f.md &&& 4 == 0
  | 0x88 => let f := ENGF.unpack w; Cls.has .rge f.a && Cls.has .rge f.b && Cls.has .acc f.c && f.md &&& 4 == 0
  | 0x89 => let f := ENGF.unpack w; Cls.has .rge f.a && Cls.has .rge f.b && Cls.has .acc f.c && f.md &&& 4 == 0
  | 0x8A => let f := ENGF.unpack w; mmGrpOk f
  | 0x8B => let f := ENGF.unpack w; Cls.has .rge f.a && Cls.has .x f.b && Cls.has .acc f.c && f.md &&& 6 == 0
  | 0x8C => let f := ENGF.unpack w; Cls.has .rg f.a && Cls.has .z f.b && Cls.has .e f.c && f.md &&& 7 == 0
  | 0x8D => let f := RRR.unpack w; f.ok .rg .x .x .z ringTypes 0x01
  | 0x8E => let f := ENGF.unpack w; Cls.has .z f.a && Cls.has .z f.b && Cls.has .rg f.c
  | 0x8F => let f := ENGF.unpack w; Cls.has .z f.a && Cls.has .z f.b && Cls.has .acc f.c && f.md &&& 7 == 0
  | 0x90 => let f := ENGF.unpack w; Cls.has .x f.a && Cls.has .x f.b && Cls.has .acc f.c && f.md &&& 7 == 0
  | 0x91 => let f := ENGF.unpack w; Cls.has .x f.a && Cls.has .x f.b && Cls.has .acc f.c && f.md &&& 7 == 0
  | 0x92 => let f := ENGF.unpack w; Cls.has .acc f.a && Cls.has .z f.b && Cls.has .acc f.c && f.md &&& 4 == 0 && decide (f.md ≠ 3)
  | 0x93 => let f := ENGF.unpack w; Cls.has .x f.a && Cls.has .x f.b && Cls.has .x f.c && f.md &&& 7 == 0
  | 0x94 => let f := RRR.unpack w; f.ok .z .xs .xs .z cvTypes 0x00
  | 0x95 => let f := RRR.unpack w; f.ok .z .xs .xs .z [0x12, 0x13, 0x14] 0x01
  | 0x96 => let f := RRR.unpack w; f.ok .sa .z .z .z noType 0x07
  | 0x97 => let f := RRR.unpack w; f.ok .sa .z .z .z noType 0x07
  | 0x98 => let f := RRR.unpack w; f.ok .z .xs .xs .sa [0x10, 0x11, 0x12] 0x00
  | 0x99 => let f := RRR.unpack w; f.ok .sa .z .z .z noType 0x01 && decide (f.md = 0 ∨ f.d = 148)
  | 0x9A => let f := RRR.unpack w; saMvOk f
  | 0x9B => let f := RRR.unpack w; f.ok .z .xs .z .z noType 0x03
  | 0x9C => let f := RRR.unpack w; f.ok .z .xs .xs .z noType 0x00
  | 0x9D => let f := RRR.unpack w; f.ok .z .xs .xs .z noType 0x00
  | 0x9E => let f := RRR.unpack w; f.ok .z .xs .xs .z noType 0x00
  | 0x9F => let f := ENGF.unpack w; Cls.has .x f.a && Cls.has .x f.b && Cls.has .z f.c && f.md &&& 7 == 0
  | 0xA0 => let f := MEMF.unpack w; memOk .xd f
  | 0xA1 => let f := MEMF.unpack w; memOk .xd f
  | 0xA2 => let f := MEMF.unpack w; memOk .xd f
  | 0xA3 => let f := MEMF.unpack w; memOk .xd f
  | 0xA4 => let f := MEMF.unpack w; memOk .xd f
  | 0xA5 => let f := MEMF.unpack w; memOk .xd f
  | 0xA6 => let f := MEMF.unpack w; memOk .xd f
  | 0xA7 => let f := MEMF.unpack w; memOk .xs f
  | 0xA8 => let f := MEMF.unpack w; memOk .xs f
  | 0xA9 => let f := MEMF.unpack w; memOk .xs f
  | 0xAA => let f := MEMF.unpack w; memOk .xs f
  | 0xAB => let f := MEMF.unpack w; memOk .v f
  | 0xAC => let f := MEMF.unpack w; memOk .v f
  | 0xAD => let f := MEMF.unpack w; memOk .v f
  | 0xAE => let f := MEMF.unpack w; memOk .v f
  | 0xAF => let f := RRR.unpack w; f.ok .x .xs .xs .z noType 0x00
  | 0xB0 => let f := RRR.unpack w; f.ok .z .xs .z .z noType 0x00
  | 0xB1 => let f := RRR.unpack w; f.ok .z .xs .xs .z noType 0x00
  | 0xB2 => let f := RRR.unpack w; f.ok .z .xs .xs .z noType 0x00
  | 0xB3 => let f := ENGF.unpack w; Cls.has .x f.a && Cls.has .x f.b && Cls.has .xeven f.c
  | 0xB4 => let f := ENGF.unpack w; Cls.has .x f.a && Cls.has .x f.b && Cls.has .xeven f.c
  | 0xB5 => let f := ENGF.unpack w; Cls.has .x f.a && Cls.has .x f.b && Cls.has .xeven f.c
  | 0xB6 => let f := ENGF.unpack w; Cls.has .x f.a && Cls.has .x f.b && Cls.has .xeven f.c
  | 0xB7 => let f := RRR.unpack w; f.ok .z .xs .xs .xs noType 0x00
  | 0xB8 => let f := RRR.unpack w; f.ok .xd .xs .xs .z noType 0x00
  | 0xB9 => let f := RRR.unpack w; f.ok .xd .xs .z .z noType 0x00
  | 0xBA => let f := MEMF.unpack w; amoOk .x 2 f
  | 0xBB => let f := MEMF.unpack w; amoOk .x 2 f
  | 0xBC => let f := MEMF.unpack w; amoOk .x 2 f
  | 0xBD => let f := MEMF.unpack w; amoOk .x 2 f
  | 0xBE => let f := MEMF.unpack w; amoOk .x 2 f
  | 0xBF => let f := MEMF.unpack w; amoOk .x 2 f
  | 0xC0 => let f := MEMF.unpack w; amoOk .x 2 f
  | 0xC1 => let f := MEMF.unpack w; amoOk .x 2 f
  | 0xC2 => let f := MEMF.unpack w; amoOk .x 2 f
  | 0xC3 => let f := MEMF.unpack w; amoOk .xeven0 2 f
  | 0xC4 => let f := MEMF.unpack w; amoOk .x 1 f
  | 0xC5 => let f := MEMF.unpack w; fenceOk f
  | 0xC6 => let f := MEMF.unpack w; cpubOk f
  | 0xC7 => let f := RRR.unpack w; f.ok .z .z .z .z noType 0x00
  | 0xC8 => let f := ENGF.unpack w; tokWaitOk f
  | 0xC9 => let f := RRR.unpack w; f.ok .p .tokn .z .z noType 0x00
  | 0xCA => let f := RRR.unpack w; f.ok .z .xs .xs .xs [0x10, 0x12] 0x00
  | 0xCB => let f := RRR.unpack w; f.ok .z .xs .xs .xs [0x10, 0x12] 0x00
  | 0xCC => let f := RRR.unpack w; f.ok .z .xs .xs .xs [0x10, 0x12] 0x00
  | 0xCD => let f := MEMF.unpack w; prefOk f
  | 0xCE => let f := RRR.unpack w; f.ok .xd .xs .z .z noType 0x00
  | 0xCF => let f := RRR.unpack w; f.ok .z .xs .xs .z noType 0x00
  | 0xD0 => let f := RRR.unpack w; f.ok .x .xs .xs .xs noType 0x00
  | 0xD1 => let f := RRR.unpack w; f.ok .x .xs .z .z noType 0x01
  | 0xD2 => let f := RRR.unpack w; f.ok .x .xs .z .z noType 0x00
  | 0xD3 => let f := RRI.unpack w; Cls.has .x f.d && Cls.has .z f.a && decide (claimOk f.imm)
  | 0xD4 => let f := RRR.unpack w; f.ok .z .z .z .z noType 0x00
  | 0xD5 => let f := RRI.unpack w; Cls.has .x f.d && Cls.has .z f.a && decide (f.imm = 0)
  | 0xD6 => let f := RRR.unpack w; f.ok .x .xs .xs .xs noType 0x00
  | 0xD7 => let f := RRR.unpack w; f.ok .x .xs .xs .xs noType 0x00
  | 0xD8 => let f := RRR.unpack w; f.ok .z .xs .z .z noType 0x00
  | 0xD9 => let f := RRR.unpack w; f.ok .x .xs .z .z noType 0x00
  | 0xDA => let f := RRR.unpack w; f.ok .x .xs .z .z noType 0x0F
  | 0xDB => let f := RRR.unpack w; f.ok .x .z .z .z noType 0x0F
  | 0xDC => let f := RRR.unpack w; f.ok .x .z .z .z noType 0x0F
  | 0xDD => let f := RRR.unpack w; f.ok .x .xs .xs .xs noType 0x00
  | 0xDE => let f := RRR.unpack w; f.ok .x .xs .xs .xs noType 0x00
  | 0xDF => let f := RRI.unpack w; Cls.has .z f.d && Cls.has .z f.a && decide (f.imm.toNat < 32 ∧ f.imm.toNat % 16 ≠ 0)
  | 0xE0 => let f := RRR.unpack w; f.ok .z .xs .z .z noType 0x00
  | 0xE1 => let f := RRI.unpack w; Cls.has .x f.d && Cls.has .z f.a && decide (f.imm.toNat < 4)
  | 0xE2 => let f := RRR.unpack w; f.ok .x .xs .xs .z noType 0x00
  | 0xE3 => let f := RRR.unpack w; f.ok .x .xs .z .z noType 0x00
  | 0xE4 => let f := RRR.unpack w; f.ok .x .xs .z .z noType 0x00
  | 0xE5 => let f := RRR.unpack w; f.ok .x .xs .z .z noType 0x00
  | 0xE6 => let f := RRR.unpack w; f.ok .x .xs .xs .xs noType 0x00
  | 0xE7 => let f := RRR.unpack w; f.ok .x .xs .xs .z noType 0x00
  | 0xE8 => let f := RRR.unpack w; f.ok .x .xs .xs .xs noType 0x00
  | 0xE9 => let f := RRR.unpack w; f.ok .x .xs .xs .xs noType 0x00
  | 0xEA => let f := RRR.unpack w; f.ok .x .xs .z .z noType 0x00
  | 0xEB => let f := RRR.unpack w; f.ok .x .xs .z .z noType 0x00
  | 0xEC => let f := RRI.unpack w; Cls.has .x f.d && Cls.has .z f.a && decide (f.imm.toNat < 4)
  | 0xED => let f := RRR.unpack w; f.ok .z .xs .z .z noType 0x03
  | 0xEE => let f := RRR.unpack w; match f.md.toNat % 4 with | 0 => f.ok .z .xs .z .z noType 0xF0 | 1 => f.ok .z .xs .xs .xs noType 0x01 && decide (f.md = 1) | 2 => f.ok .z .z .z .z noType 0x02 && decide (f.md = 2) | _ => false
  | 0xEF => let f := RRR.unpack w; f.ok .x .z .z .z noType 0x00
  | 0xF0 => let f := RI.unpack w; Cls.has .z f.d
  | 0xF1 => let f := RRR.unpack w; f.ok .z .z .z .z noType 0x00
  | 0xF2 => let f := RRR.unpack w; f.ok .x .xs .xs .z noType 0x01
  | 0xF3 => let f := RRR.unpack w; f.ok .x .xs .xs .z noType 0x00
  | 0xF4 => let f := RRR.unpack w; f.ok .x .xs .z .z noType 0x00
  | 0xF5 => let f := RRI.unpack w; match f.imm.toNat % 256 with | 0 => Cls.has .x f.d && Cls.has .xs f.a && decide (f.imm.toNat % 256 = 0 ∧ f.imm.toNat < 11 * 256) | 1 => Cls.has .x f.d && Cls.has .xs f.a && decide (f.imm.toNat % 256 = 1 ∧ f.imm.toNat < 11 * 256) | 2 => Cls.has .x f.d && Cls.has .xs f.a && decide (f.imm = 2) | 3 => Cls.has .x f.d && Cls.has .xs f.a && decide (f.imm = 3) | _ => false
  | 0xF6 => let f := RRR.unpack w; match f.md.toNat % 4 with | 0 => f.ok .x .xs .xs .z noType 0x00 | 1 => f.ok .x .z .xs .z noType 0x01 && decide (f.md = 1) | 2 => f.ok .xeven .xs .xs .z noType 0x06 && decide (f.md = 2 ∨ f.md = 6) | _ => false
  | 0xF7 => let f := RRR.unpack w; f.ok .x .xs .z .z noType 0x03 && decide (f.md ≠ 3)
  | 0xF8 => let f := RRR.unpack w; f.ok .x .xs .xs .z noType 0x00
  | 0xF9 => let f := RRR.unpack w; f.ok .x .xs .z .z noType 0x01
  | 0xFA => let f := RRR.unpack w; f.ok .x .xs .xs .z noType 0x00
  | 0xFB => let f := RI.unpack w; Cls.has .z f.d
  | 0xFC => let f := RRR.unpack w; f.ok .x .xs .xs .xs noType 0x00
  | 0xFD => let f := RRR.unpack w; f.ok .xeven .xs .z .z noType 0x00
  | 0xFE => let f := RRR.unpack w; f.ok .xeven .xs .xs .z noType 0x00
  | _ => true
/-- The same, by the word's own opcode. -/
def slotLegal (w : Word) : Bool := slotLegalAt (opField w).toNat w

/-- A slot word decodes to its operation when no condition of the word alone refuses it (R40). -/
noncomputable def decodeSlot (w : Word) : Except Reject Instr :=
  match decodeOp w with
  | .ok i => if slotLegal w then .ok i else .error (.illFormed (opField w))
  | .error r => .error r

/-- What an instruction is stored as: a 64-bit slot word, a 32-bit agent-core word, or nothing (an event). -/
inductive Code
  | slot (w : Word)
  | riscv (w : BitVec 32)
  | event
  deriving DecidableEq, Repr

/-- R354: the word of an Xmerf instruction: funct7, rs2, rs1, funct3 0, rd, custom-0. -/
def RTy.pack (f7 : BitVec 7) (f : RTy) : BitVec 32 :=
  (f7 ++ f.rs2 ++ f.rs1 ++ (0 : BitVec 3) ++ f.rd ++ (0x0B : BitVec 7) : BitVec (7 + 5 + 5 + 3 + 5 + 7))
/-- R354: the register numbers of an R-type word. -/
def RTy.unpack (w : BitVec 32) : RTy :=
  { rd := w.extractLsb' 7 5, rs1 := w.extractLsb' 15 5, rs2 := w.extractLsb' 20 5 }

/-- R65, R66, R354: the words of an instruction. -/
def encode (i : Instr) : Code :=
  match i with
  | .deviceReset => .event
  | .turnOffer _ => .event
  | .fetchComplete _ => .event
  | .resultLand _ _ => .event
  | .budgetRefill _ => .event
  | .serviceDeadline _ => .event
  | .serviceEntry _ => .event
  | .homeAnswer _ => .event
  | .monitorWake _ _ => .event
  | .kvWalkAnswer _ => .event
  | .leaseGrant _ _ => .event
  | .leaseExpiry _ _ => .event
  | .writebackStart _ _ => .event
  | .writebackAccept _ _ => .event
  | .scAnnounceArrive => .event
  | .engineCmdStart _ _ => .event
  | .engineCmdComplete _ _ => .event
  | .copyDeliver _ _ => .event
  | .copyComplete _ _ => .event
  | .messageArrive _ => .event
  | .amsendAnswer _ => .event
  | .peerSpindleAnswer _ => .event
  | .chuckAnswer _ => .event
  | .claimGrant _ => .event
  | .taskTake _ => .event
  | .sleepDeadline _ => .event
  | .futureDeadline _ => .event
  | .asidSweepDone _ _ => .event
  | .faceplateSlotWrite _ _ _ => .event
  | .faceplateAccept _ => .event
  | .streamASlotWrite _ _ _ => .event
  | .hsNop _ _ => .event
  | .hsLaunch _ _ => .event
  | .hsMark _ _ => .event
  | .hsPublish _ _ => .event
  | .launchStart _ _ => .event
  | .launchEnd _ => .event
  | .partitionConfigure _ _ => .event
  | .partitionClearDone _ => .event
  | .partitionReset _ => .event
  | .partitionRemove _ => .event
  | .heartbeatMiss _ _ => .event
  | .lossWalkEnd _ _ _ => .event
  | .patrolScrub _ => .event
  | .etfenLinkDown _ _ => .event
  | .etfenRouteReturn _ => .event
  | .etfenRequest _ => .event
  | .hostLinkLoss => .event
  | .hostLinkRecover => .event
  | .hostHoldExpiry _ => .event
  | .hostAccess _ => .event
  | .hostWindowWrite _ _ _ _ _ _ => .event
  | .supplySag _ => .event
  | .supplyRecover _ => .event
  | .powerLimitWrite _ => .event
  | .powerClockAdjust _ => .event
  | .llclrWrite _ _ => .event
  | .fmtcWrite _ _ => .event
  | .registerWrite _ _ => .event
  | .uecCompletion _ _ => .event
  | .attestReport _ _ _ => .event
  | .measExtend _ _ => .event
  | .agentAccess _ _ => .event
  | .learoHalt _ => .event
  | .learoResume _ => .event
  | .learoStep _ => .event
  | .learoDbgen _ _ => .event
  | .learoFreeze _ => .event
  | .learoThaw _ => .event
  | .learoRdq _ _ => .event
  | .learoRestart _ _ => .event
  | .learoSkip _ _ => .event
  | .learoRdctx _ _ => .event
  | .learoWrctx _ _ _ => .event
  | .learoRdstash _ _ _ => .event
  | .learoWrstash _ _ _ => .event
  | .learoKill _ => .event
  | .learoMsg _ _ => .event
  | .learoSwap _ _ => .event
  | .spreset _ => .event
  | .spretire _ => .event
  | .managementMailboxImage _ => .event
  | .railCurrentLimit _ => .event
  | .futTake f => .riscv (f.pack 0)
  | .futDone f => .riscv (f.pack 1)
  | .futFail f => .riscv (f.pack 2)
  | .futExt f => .riscv (f.pack 3)
  | .sqPeek f => .riscv (f.pack 4)
  | .sqCtlCreate f => .riscv (f.pack 5)
  | .sqCtlRetire f => .riscv (f.pack 5)
  | .sqCtlFree f => .riscv (f.pack 5)
  | .sqCtlAdpres f => .riscv (f.pack 5)
  | .sqCtlPush f => .riscv (f.pack 5)
  | .sqCtlOutack f => .riscv (f.pack 5)
  | .sqCfgCallTokenRange f => .riscv (f.pack 6)
  | .sqCfgCto f => .riscv (f.pack 6)
  | .sqCfgTimeoutString f => .riscv (f.pack 6)
  | .sqCfgFailureString f => .riscv (f.pack 6)
  | .sqCfgXmax f => .riscv (f.pack 6)
  | .sqCfgKvrt f => .riscv (f.pack 6)
  | .sqCfgUecen f => .riscv (f.pack 6)
  | .capProbe f => .riscv (f.pack 7)
  | .add f => .slot (f.pack 0x00)
  | .sub f => .slot (f.pack 0x01)
  | .addi f => .slot (f.pack 0x02)
  | .mul f => .slot (f.pack 0x03)
  | .mulhS f => .slot (f.pack 0x04)
  | .mulhZ f => .slot (f.pack 0x05)
  | .divS f => .slot (f.pack 0x06)
  | .divZ f => .slot (f.pack 0x07)
  | .remS f => .slot (f.pack 0x08)
  | .remZ f => .slot (f.pack 0x09)
  | .addsS f => .slot (f.pack 0x0A)
  | .addsZ f => .slot (f.pack 0x0B)
  | .subsS f => .slot (f.pack 0x0C)
  | .subsZ f => .slot (f.pack 0x0D)
  | .minS f => .slot (f.pack 0x0E)
  | .minZ f => .slot (f.pack 0x0F)
  | .maxS f => .slot (f.pack 0x10)
  | .maxZ f => .slot (f.pack 0x11)
  | .and f => .slot (f.pack 0x12)
  | .or f => .slot (f.pack 0x13)
  | .xor f => .slot (f.pack 0x14)
  | .andn f => .slot (f.pack 0x15)
  | .andi f => .slot (f.pack 0x16)
  | .ori f => .slot (f.pack 0x17)
  | .xori f => .slot (f.pack 0x18)
  | .shl f => .slot (f.pack 0x19)
  | .shrZ f => .slot (f.pack 0x1A)
  | .shrS f => .slot (f.pack 0x1B)
  | .shli f => .slot (f.pack 0x1C)
  | .shriZ f => .slot (f.pack 0x1D)
  | .shriS f => .slot (f.pack 0x1E)
  | .rot f => .slot (f.pack 0x1F)
  | .shadd f => .slot (f.pack 0x20)
  | .movi f => .slot (f.pack 0x21)
  | .movhi f => .slot (f.pack 0x22)
  | .bfxS f => .slot (f.pack 0x23)
  | .bfxZ f => .slot (f.pack 0x24)
  | .bfi f => .slot (f.pack 0x25)
  | .clz f => .slot (f.pack 0x26)
  | .ctz f => .slot (f.pack 0x27)
  | .popc f => .slot (f.pack 0x28)
  | .clmul f => .slot (f.pack 0x29)
  | .clmulh f => .slot (f.pack 0x2A)
  | .bswap f => .slot (f.pack 0x2B)
  | .brev f => .slot (f.pack 0x37)
  | .cmp f => .slot (f.pack 0x2C)
  | .cmpi f => .slot (f.pack 0x2D)
  | .pbool f => .slot (f.pack 0x2E)
  | .mfc f => .slot (f.pack 0x2F)
  | .mtc f => .slot (f.pack 0x30)
  | .sel f => .slot (f.pack 0x31)
  | .br f => .slot (f.pack 0x32)
  | .bri f => .slot (f.pack 0x33)
  | .loop f => .slot (f.pack 0x34)
  | .loopRot f => .slot (f.pack 0x35)
  | .loopW f => .slot (f.pack 0x36)
  | .addw f => .slot (f.pack 0x38)
  | .subw f => .slot (f.pack 0x39)
  | .mulw f => .slot (f.pack 0x3A)
  | .shlw f => .slot (f.pack 0x3B)
  | .shrwZ f => .slot (f.pack 0x3C)
  | .shrwS f => .slot (f.pack 0x3D)
  | .addiw f => .slot (f.pack 0x3E)
  | .nop f => .slot (f.pack 0x3F)
  | .vaddS32 f => .slot (f.pack 0x40)
  | .vaddS16 f => .slot (f.pack 0x41)
  | .vaddS8 f => .slot (f.pack 0x42)
  | .vsubS32 f => .slot (f.pack 0x43)
  | .vsubS16 f => .slot (f.pack 0x44)
  | .vsubS8 f => .slot (f.pack 0x45)
  | .vmulS32 f => .slot (f.pack 0x46)
  | .vmulS16 f => .slot (f.pack 0x47)
  | .vminS32 f => .slot (f.pack 0x48)
  | .vmaxS32 f => .slot (f.pack 0x49)
  | .vminS16 f => .slot (f.pack 0x4A)
  | .vmaxS16 f => .slot (f.pack 0x4B)
  | .vand f => .slot (f.pack 0x4C)
  | .vor f => .slot (f.pack 0x4D)
  | .vxor f => .slot (f.pack 0x4E)
  | .vshlS32 f => .slot (f.pack 0x4F)
  | .vshrS32 f => .slot (f.pack 0x50)
  | .vshlS16 f => .slot (f.pack 0x51)
  | .vshrS16 f => .slot (f.pack 0x52)
  | .vmacwS16 f => .slot (f.pack 0x53)
  | .vdotS8 f => .slot (f.pack 0x54)
  | .vdotS16 f => .slot (f.pack 0x55)
  | .vclmul f => .slot (f.pack 0x56)
  | .vclmulh f => .slot (f.pack 0x57)
  | .vcmpS32 f => .slot (f.pack 0x58)
  | .vcmpS16 f => .slot (f.pack 0x59)
  | .vsel f => .slot (f.pack 0x5A)
  | .vaddF32 f => .slot (f.pack 0x5B)
  | .vsubF32 f => .slot (f.pack 0x5C)
  | .vmulF32 f => .slot (f.pack 0x5D)
  | .vfmaF32 f => .slot (f.pack 0x5E)
  | .vminF32 f => .slot (f.pack 0x5F)
  | .vmaxF32 f => .slot (f.pack 0x60)
  | .vcmpF32 f => .slot (f.pack 0x61)
  | .vaddBf16 f => .slot (f.pack 0x62)
  | .vmulBf16 f => .slot (f.pack 0x63)
  | .vfmaBf16 f => .slot (f.pack 0x64)
  | .vaddF16 f => .slot (f.pack 0x65)
  | .vmulF16 f => .slot (f.pack 0x66)
  | .vfmaF16 f => .slot (f.pack 0x67)
  | .vcvtF32 f => .slot (f.pack 0x68)
  | .vcvtBf16 f => .slot (f.pack 0x69)
  | .vcvtF16 f => .slot (f.pack 0x6A)
  | .vcvtF8e4 f => .slot (f.pack 0x6B)
  | .vcvtF8e5 f => .slot (f.pack 0x6C)
  | .vcvtS32 f => .slot (f.pack 0x6D)
  | .vcvtS16 f => .slot (f.pack 0x6E)
  | .vcvtS8 f => .slot (f.pack 0x6F)
  | .vexp2 f => .slot (f.pack 0x70)
  | .vlog2 f => .slot (f.pack 0x71)
  | .vrcp f => .slot (f.pack 0x72)
  | .vrsqrt f => .slot (f.pack 0x73)
  | .vtanh f => .slot (f.pack 0x74)
  | .vexp f => .slot (f.pack 0x75)
  | .vlog f => .slot (f.pack 0x76)
  | .vredF32 f => .slot (f.pack 0x77)
  | .vredS32 f => .slot (f.pack 0x78)
  | .vscanF32 f => .slot (f.pack 0x79)
  | .vscanS32 f => .slot (f.pack 0x7A)
  | .vperm f => .slot (f.pack 0x7B)
  | .vsplat f => .slot (f.pack 0x7C)
  | .vslide f => .slot (f.pack 0x7D)
  | .vzip f => .slot (f.pack 0x7E)
  | .vpack f => .slot (f.pack 0x7E)
  | .vext f => .slot (f.pack 0x7F)
  | .mmF8e4 f => .slot (f.pack 0x80)
  | .mmF8e5 f => .slot (f.pack 0x81)
  | .mmF6e3 f => .slot (f.pack 0x82)
  | .mmF6e2 f => .slot (f.pack 0x83)
  | .mmF4 f => .slot (f.pack 0x84)
  | .mmBf16 f => .slot (f.pack 0x85)
  | .mmF16 f => .slot (f.pack 0x86)
  | .mmS8 f => .slot (f.pack 0x87)
  | .mmS4 f => .slot (f.pack 0x88)
  | .mmMx f => .slot (f.pack 0x89)
  | .mmGrp f => .slot (f.pack 0x8A)
  | .mmPriv f => .slot (f.pack 0x8B)
  | .elLd f => .slot (f.pack 0x8C)
  | .rgCfg f => .slot (f.pack 0x8D)
  | .rgAdv f => .slot (f.pack 0x8E)
  | .accZero f => .slot (f.pack 0x8F)
  | .accSt f => .slot (f.pack 0x90)
  | .accLd f => .slot (f.pack 0x91)
  | .accMv f => .slot (f.pack 0x92)
  | .cvRun f => .slot (f.pack 0x93)
  | .cvCfg f => .slot (f.pack 0x94)
  | .saLd f => .slot (f.pack 0x95)
  | .saMmBf16 f => .slot (f.pack 0x96)
  | .saMmF8 f => .slot (f.pack 0x97)
  | .saSt f => .slot (f.pack 0x98)
  | .saZero f => .slot (f.pack 0x99)
  | .saMv f => .slot (f.pack 0x9A)
  | .attnInit f => .slot (f.pack 0x9B)
  | .attnQk f => .slot (f.pack 0x9C)
  | .attnSmx f => .slot (f.pack 0x9D)
  | .attnPv f => .slot (f.pack 0x9E)
  | .grpIdx f => .slot (f.pack 0x9F)
  | .ldS8 f => .slot (f.pack 0xA0)
  | .ldZ8 f => .slot (f.pack 0xA1)
  | .ldS16 f => .slot (f.pack 0xA2)
  | .ldZ16 f => .slot (f.pack 0xA3)
  | .ldS32 f => .slot (f.pack 0xA4)
  | .ldZ32 f => .slot (f.pack 0xA5)
  | .ldS64 f => .slot (f.pack 0xA6)
  | .stS8 f => .slot (f.pack 0xA7)
  | .stS16 f => .slot (f.pack 0xA8)
  | .stS32 f => .slot (f.pack 0xA9)
  | .stS64 f => .slot (f.pack 0xAA)
  | .vldS32 f => .slot (f.pack 0xAB)
  | .vstS32 f => .slot (f.pack 0xAC)
  | .vldS16 f => .slot (f.pack 0xAD)
  | .vstS16 f => .slot (f.pack 0xAE)
  | .smMap f => .slot (f.pack 0xAF)
  | .smUnmap f => .slot (f.pack 0xB0)
  | .smPin f => .slot (f.pack 0xB1)
  | .smUnpin f => .slot (f.pack 0xB2)
  | .smFlush f => .slot (f.pack 0xCF)
  | .cpGet f => .slot (f.pack 0xB3)
  | .cpPut f => .slot (f.pack 0xB4)
  | .cpRput f => .slot (f.pack 0xB5)
  | .cpGth f => .slot (f.pack 0xB6)
  | .barInit f => .slot (f.pack 0xB7)
  | .barArr f => .slot (f.pack 0xB8)
  | .barWait f => .slot (f.pack 0xB9)
  | .barTest f => .slot (f.pack 0xCE)
  | .amoAdd f => .slot (f.pack 0xBA)
  | .amoAnd f => .slot (f.pack 0xBB)
  | .amoOr f => .slot (f.pack 0xBC)
  | .amoXor f => .slot (f.pack 0xBD)
  | .amoMinS f => .slot (f.pack 0xBE)
  | .amoMinZ f => .slot (f.pack 0xBF)
  | .amoMaxS f => .slot (f.pack 0xC0)
  | .amoMaxZ f => .slot (f.pack 0xC1)
  | .amoSwap f => .slot (f.pack 0xC2)
  | .amoCas f => .slot (f.pack 0xC3)
  | .amoAddF32 f => .slot (f.pack 0xC4)
  | .fence f => .slot (f.pack 0xC5)
  | .cpub f => .slot (f.pack 0xC6)
  | .ifence f => .slot (f.pack 0xC7)
  | .tokWait f => .slot (f.pack 0xC8)
  | .tokTest f => .slot (f.pack 0xC9)
  | .kvLdk f => .slot (f.pack 0xCA)
  | .kvLdv f => .slot (f.pack 0xCB)
  | .kvApp f => .slot (f.pack 0xCC)
  | .pref f => .slot (f.pack 0xCD)
  | .hstart f => .slot (f.pack 0xD0)
  | .hreap f => .slot (f.pack 0xD1)
  | .hstat f => .slot (f.pack 0xD2)
  | .vclaim f => .slot (f.pack 0xD3)
  | .vrel f => .slot (f.pack 0xD4)
  | .vgrow f => .slot (f.pack 0xD5)
  | .vstat f => .slot (f.pack 0xEF)
  | .fork f => .slot (f.pack 0xD6)
  | .forkR f => .slot (f.pack 0xD7)
  | .join f => .slot (f.pack 0xD8)
  | .jtest f => .slot (f.pack 0xD9)
  | .tend f => .slot (f.pack 0xEE)
  | .hend f => .slot (f.pack 0xEE)
  | .sleep f => .slot (f.pack 0xEE)
  | .chbind f => .slot (f.pack 0xDA)
  | .chunbind f => .slot (f.pack 0xDB)
  | .chstat f => .slot (f.pack 0xDC)
  | .amsend f => .slot (f.pack 0xDD)
  | .amsendW f => .slot (f.pack 0xDE)
  | .amrecv f => .slot (f.pack 0xDF)
  | .amret f => .slot (f.pack 0xE0)
  | .mbstat f => .slot (f.pack 0xE1)
  | .fcall f => .slot (f.pack 0xE2)
  | .fwait f => .slot (f.pack 0xE3)
  | .fpoll f => .slot (f.pack 0xE4)
  | .fdrop f => .slot (f.pack 0xE5)
  | .sqBatch f => .slot (f.pack 0xE6)
  | .sqEmit f => .slot (f.pack 0xE7)
  | .sqPfq f => .slot (f.pack 0xE8)
  | .adpClaim f => .slot (f.pack 0xE9)
  | .adpBind f => .slot (f.pack 0xEA)
  | .launch f => .slot (f.pack 0xEB)
  | .sdisp f => .slot (f.pack 0xEC)
  | .sdispTbl f => .slot (f.pack 0xED)
  | .trap f => .slot (f.pack 0xF0)
  | .rfs f => .slot (f.pack 0xF1)
  | .csave f => .slot (f.pack 0xF2)
  | .cload f => .slot (f.pack 0xF3)
  | .ctxkill f => .slot (f.pack 0xF4)
  | .pctlQrec f => .slot (f.pack 0xF5)
  | .pctlQskip f => .slot (f.pack 0xF5)
  | .pctlPost f => .slot (f.pack 0xF5)
  | .pctlPark f => .slot (f.pack 0xF5)
  | .xinvPage f => .slot (f.pack 0xF6)
  | .xinvAsid f => .slot (f.pack 0xF6)
  | .xinvQ f => .slot (f.pack 0xF6)
  | .kvinv f => .slot (f.pack 0xF7)
  | .asidSet f => .slot (f.pack 0xF8)
  | .asidRet f => .slot (f.pack 0xF9)
  | .dset f => .slot (f.pack 0xFA)
  | .bkpt f => .slot (f.pack 0xFB)
  | .wpset f => .slot (f.pack 0xFC)
  | .dbgRd f => .slot (f.pack 0xFD)
  | .dbgWr f => .slot (f.pack 0xFE)
  | .ill f => .slot (f.pack 0xFF)

/-- R65, R66: the opcode of a slot operation. -/
def opcodeOf (i : Instr) : BitVec 8 :=
  match encode i with
  | .slot w => opField w
  | _ => 0

/-- R354: the Xmerf instruction of an agent core's word. The functions of sq.ctl and the items of sq.cfg share a word;
the first of each is given here and `Instr.refine` tells them apart by x[rs1] (R361, R362). -/
def decodeXmerf (w : BitVec 32) : Except Reject Instr :=
  let f := RTy.unpack w
  if w.extractLsb' 0 7 ≠ (0x0B : BitVec 7) then .error .notCustom0
  else if w.extractLsb' 12 3 ≠ (0 : BitVec 3) then .error .customFunct
  else match (w.extractLsb' 25 7).toNat with
    | 0 => .ok (.futTake f) | 1 => .ok (.futDone f) | 2 => .ok (.futFail f) | 3 => .ok (.futExt f)
    | 4 => .ok (.sqPeek f) | 5 => .ok (.sqCtlCreate f) | 6 => .ok (.sqCfgCallTokenRange f) | 7 => .ok (.capProbe f)
    | _ => .error .customFunct

/-- R361, R362: the row of the table that an sq.ctl or sq.cfg word names when x[rs1] holds v. -/
def Instr.refine (i : Instr) (v : Word) : Instr :=
  match i with
  | .sqCtlCreate f =>
    match bits v.toNat 3 0 with
    | 1 => .sqCtlRetire f | 2 => .sqCtlFree f | 3 => .sqCtlAdpres f | 4 => .sqCtlPush f | 5 => .sqCtlOutack f
    | _ => .sqCtlCreate f
  | .sqCfgCallTokenRange f =>
    match bits v.toNat 3 0 with
    | 1 => .sqCfgCto f | 2 => .sqCfgTimeoutString f | 3 => .sqCfgFailureString f | 4 => .sqCfgXmax f
    | 5 => .sqCfgKvrt f | 6 => .sqCfgUecen f | _ => .sqCfgCallTokenRange f
  | i => i

/-- R31: the slots of a bundle, in their order. -/
inductive Slot | s0 | s1 | m | v | x
  deriving DecidableEq, Repr

/-- R375: the number of a slot in FCAUSE. -/
def Slot.num : Slot → Nat
  | .s0 => 0 | .s1 => 1 | .m => 2 | .v => 3 | .x => 4

/-- R64: whether an opcode belongs to a slot. -/
def slotAdmits (s : Slot) (op : BitVec 8) : Bool :=
  let n := op.toNat
  match s with
  | .s0 => n < 0x40 || 0xD0 ≤ n
  | .s1 => n < 0x40
  | .v => 0x40 ≤ n && n < 0x80
  | .x => 0x80 ≤ n && n < 0xA0
  | .m => 0xA0 ≤ n && n < 0xD0

/-- R64: the slot an operation stands in when it is alone in its bundle. -/
def homeSlot (op : BitVec 8) : Slot :=
  let n := op.toNat
  if n < 0x40 then .s0 else if n < 0x80 then .v else if n < 0xA0 then .x else if n < 0xD0 then .m else .s0

/-- A bundle: its address, how many bytes of code it takes, its header (R31) and its slot words in slot order. -/
structure Bundle where
  addr : Word
  len : Nat
  hdr : BitVec 16
  dict : Option Nat
  ops : List (Slot × Word)
  deriving DecidableEq, Repr

/-- R31: STOP. -/
def Bundle.stop (b : Bundle) : Bool := b.hdr.getLsbD 10
/-- R31: YIELD. -/
def Bundle.yields (b : Bundle) : Bool := b.hdr.getLsbD 9
/-- R31: MA. -/
def Bundle.ma (b : Bundle) : Bool := b.hdr.getLsbD 8

/-- R31: the slots that a header marks present, in order. -/
def hdrSlots (h : BitVec 16) : List Slot :=
  [(15, Slot.s0), (14, .s1), (13, .m), (12, .v), (11, .x)].filterMap fun p => if h.getLsbD p.1 then some p.2 else none

/-- R31: a header parcel that raises no F_ILLOP. -/
def hdrOk (h : BitVec 16) : Bool := h.extractLsb' 0 8 == (0 : BitVec 8) && !(h.getLsbD 8 && !h.getLsbD 13)

/-- R2: little-endian value of a byte list. -/
def leNat : List Byte → Nat
  | [] => 0
  | b :: bs => b.toNat + 256 * leNat bs

/-- R2: the n bytes of a value, least significant first. -/
def leBytes : Nat → Nat → List Byte
  | 0, _ => []
  | n + 1, v => BitVec.ofNat 8 v :: leBytes n (v / 256)

/-- R31: the bytes of a literal bundle with a header: 4 and 8 for each slot. -/
def literalLen (h : BitVec 16) : Nat := 4 + 8 * (hdrSlots h).length

/-- The slot words of a literal bundle after its header, 8 bytes each. -/
def slotWords : List Slot → List Byte → List (Slot × Word)
  | [], _ => []
  | s :: ss, bs => (s, word (leNat (bs.take 8))) :: slotWords ss (bs.drop 8)

/-- R31: the literal bundle whose bytes, escape parcel included, begin the list. -/
def literalBundle (addr : Word) (bs : List Byte) : Bundle :=
  let h := BitVec.ofNat 16 (leNat ((bs.drop 2).take 2))
  { addr := addr, len := literalLen h, hdr := h, dict := none, ops := slotWords (hdrSlots h) (bs.drop 4) }

/-- R33: the bundle of dictionary entry n, six dwords. -/
def dictBundle (addr : Word) (n : Nat) (e : List Word) : Bundle :=
  let h := (e.headD 0).extractLsb' 0 16
  { addr := addr, len := 2, hdr := h, dict := some n,
    ops := (hdrSlots h).map fun s => (s, e.getD (s.num + 1) 0) }

/-- A literal bundle of one slot word with STOP set, at an address. -/
def Bundle.single (addr : Word) (w : Word) : Bundle :=
  let s := homeSlot (opField w)
  { addr := addr, len := 12, hdr := BitVec.ofNat 16 (2 ^ (15 - s.num) + 2 ^ 10), dict := none, ops := [(s, w)] }

/-- The instruction the decoder reads from bits: a 64-bit slot word, or a 32-bit word of an agent core. The rows of the table
state no bits, and an event has none. -/
noncomputable def decodeTableWord (nbits w : Nat) : Option Instr :=
  if nbits = 64 then
    match decodeSlot (BitVec.ofNat 64 w) with
    | .ok i => some i
    | .error _ => none
  else if nbits = 32 then
    match decodeXmerf (BitVec.ofNat 32 w) with
    | .ok i => some i
    | .error _ => none
  else none

end Sys2Proof
end

