-- ==== Sys2Proof/Machine/State.lean ====
section
/-! DEFINITION. The state of the IZ9400 as plain data: every piece of state the spec gives the machine, and the machine
right after reset. A sparse map lists no entry that equals what an unlisted key reads as. -/
namespace Sys2Proof.Machine

/-- R24, R252: the states of a context. -/
inductive Phase | free | live | parked | inService | saved | reaped
  deriving DecidableEq, Repr

/-- R280: why a context is parked. -/
inductive Why | none | channel | mailbox | token | future | join | fault | budget
  deriving DecidableEq, Repr

/-- R194, R319: a line that an instruction cache holds: its home line, the partition, ASID and virtual line it was fetched
under, and the end of its lease. -/
structure ILine where
  home : Nat
  part : Nat
  asid : Nat
  vline : Nat
  expiry : Nat
  /-- R340: when it was fetched, by the state's counter -/
  born : Nat
  /-- R245: the device time of its fetch -/
  got : Nat
  deriving DecidableEq, Repr

/-- R194: a write that the device makes by itself: mirror records (R373), discard-log entries (R418), and the zeroing of a line by
LLCLR, which then leaves the loss list (R414). -/
structure DevWrite where
  part : Nat
  pa : Nat
  bytes : List Byte
  clears : Bool
  deriving DecidableEq, Repr

/-- R418: a write to host memory held while the link is lost: its partition, place and bytes, and whether it is the
write-back of a stash line, whose stores have cleared its publish bit already (R196). -/
structure HeldWrite where
  part : Nat
  pa : Nat
  bytes : List Byte
  back : Bool
  deriving DecidableEq, Repr

/-- What a parked context awaits (R24, R392). -/
inductive Wait
  | nothing
  /-- R44: words or room on a channel -/
  | channel (n : Nat)
  /-- R281, R299: a message or refusal in a mailbox of the mask, or device time reaching the deadline -/
  | mailbox (mask : Nat) (deadline : Option Nat)
  /-- R298: an answer to an amsend -/
  | answer
  /-- R241: the commands of tokens -/
  | tokens (cmds : List Nat)
  /-- R143, R149, R222, R224: a place in a queue, or the end of commands of the tile -/
  | engine (q : Nat)
  /-- R234: DONE of the barrier at a stash offset -/
  | barrier (offset : Nat)
  /-- R304: the end of a future -/
  | future (handle : Word)
  /-- R271: an answer of the Chuck -/
  | chuck
  /-- R291: a counter reaching zero, or a task -/
  | counter (addr : Word)
  /-- R279, R282: helpers reaching reaped -/
  | helpers
  /-- R208: a fill, a lease or the home slice's answer; the virtual lines of the stash that it touches -/
  | home (lines : List Nat)
  /-- R337: the KV walker's answer -/
  | kv
  /-- R294, R295: the peer spindle's answer -/
  | peer
  /-- R328: a watched entry becoming usable -/
  | monitor (slice entry : Nat)
  /-- R378, R387: only a RESUME or a kill -/
  | service (exchanged : Bool)
  /-- R283: a waiting claim -/
  | claim
  /-- R340: the end of every lease of an ASID's pages in a range that was granted before, by the state's counter -/
  | leases (asid lo hi before : Nat)
  /-- R343: the sweep of an ASID -/
  | sweep (asid : Nat)
  /-- R255: the refill of the budget -/
  | budget
  deriving DecidableEq, Repr

/-- R156: a resident expert slot as installed. -/
structure Expert where
  layer : Nat
  kind : Nat
  rank : Nat
  owner : Nat
  kf : Nat
  nf : Nat
  ttag : Nat
  tmask : Nat
  abase : Word
  bbase : Word
  deriving DecidableEq, Repr

/-- The answers that a held bundle has received (R208, R271). -/
inductive Answer
  | home | kv | peer | chuck | message (status : Nat) | released (low : Word) | sweep | claim
  /-- R314: an `adp.bind` of some records has been checked and installs the slots that are left as their pins drop -/
  | bind (nrec : Nat) (left : List (Nat × Expert))
  deriving DecidableEq, Repr

/-- R43: a slot result, scalar or vector. -/
inductive QVal
  | scalar (w : Word)
  | vector (lanes : List Lane)
  deriving DecidableEq, Repr

/-- A write that a result makes when it lands (R42, R44). Register numbers are physical. -/
inductive RegWrite
  | x (n : Nat) (w : Word)
  | p (n : Nat) (b : Bool)
  | v (reg lane : Nat) (w : Lane)
  | mask (n : Nat) (w : BitVec 256)
  /-- a word to a channel, with the peer and its end as they were at issue -/
  | push (ch : Nat) (w : Word) (peer pch : Nat)
  | sa (reg word : Nat) (w : Lane)
  /-- word of a stage operand buffer, B side or A side -/
  | buf (b : Bool) (word : Nat) (w : Lane)
  /-- the element type that a stage operand buffer records -/
  | bufTy (b : Bool) (ty : Nat)
  /-- R162: the attention descriptor latched, KVPROG 0 -/
  | attn (desc : List Word)
  deriving DecidableEq, Repr

/-- R60: how a result follows from the bytes that it has read: a scalar of n bytes, lanes of k bytes, or an atomic on n bytes with
its operands. -/
inductive MateForm
  | scalar (signed : Bool) (n : Nat)
  | lanes (k : Nat)
  | amo (op : AmoOp) (n x y : Nat)
  deriving DecidableEq, Repr

/-- R60: what a result has read of bytes that the engine command of its bundle writes: the command, the places, the bytes read,
those that the command has written since, by index, and the form of the result. -/
structure MateRead where
  cmd : Nat
  keys : List Nat
  bytes : List Byte
  hit : SMap Byte
  form : MateForm
  deriving DecidableEq, Repr

/-- R54: a result issued and not yet landed: the turn it is due by, its writes, its latch and its flags. -/
structure Pending where
  due : Nat
  slot : Nat
  seq : Nat
  writes : List RegWrite
  q : Option QVal
  ff : BitVec 5
  sf : BitVec 2
  /-- the width of its elements, which an early read sees old or new one by one -/
  ew : Nat
  /-- R270: it lands exactly when it is due -/
  exact : Bool
  mate : Option MateRead
  deriving DecidableEq, Repr

/-- R258: the phase of a claim. -/
inductive ClaimPhase | waiting | held | saved
  deriving DecidableEq, Repr

/-- R257: a live claim: floor, ceiling, lanes, whether a reclaim is pending, its age among the tile's requests; of a restored claim
that waits (R258), the lanes that it was saved with. -/
structure Claim where
  phase : ClaimPhase
  floor : Nat
  ceil : Nat
  lanes : Nat
  reclaim : Bool
  age : Nat
  kept : Nat
  deriving DecidableEq, Repr
/-- R258: the lanes of a claim that have contents. -/
def Claim.filled (k : Claim) : Nat := Nat.max k.lanes k.kept

/-- R160: a stage operand buffer: the element type it holds (0 when empty) and its 1,024 bytes. -/
structure StageBuf where
  ty : Nat
  bytes : SMap Byte
  deriving DecidableEq, Repr

/-- R158: the conversion descriptor. -/
structure ConvDesc where
  ty : Nat
  layout : Word
  strides : Word
  deriving DecidableEq, Repr

/-- R293: the states of one end of a channel. -/
inductive ChState | unbound | waiting | established | gone
  deriving DecidableEq, Repr

/-- R293: one end of a channel: its state, the peer's context and channel, the words received. -/
structure Channel where
  st : ChState
  peer : Nat
  pch : Nat
  queue : List Word
  deriving DecidableEq, Repr

/-- R297: a message received. -/
structure Msg where
  p0 : Word
  p1 : Word
  sender : Nat
  deriving DecidableEq, Repr

/-- R298: a refusal queued at the sender. -/
structure Refusal16 where
  p0 : Word
  p1 : Word
  dest : Nat
  status : Nat
  deriving DecidableEq, Repr

/-- R297: a mailbox: messages and refusals, oldest first. -/
structure Mailbox where
  msgs : List Msg
  refs : List Refusal16
  deriving DecidableEq, Repr

/-- R185, R400: the binding of a token: the command, its queue, the bundle that issued it, whether it has completed. -/
structure TokBind where
  cmd : Nat
  q : Nat
  bpc : Word
  done : Bool
  deriving DecidableEq, Repr

/-- R398: a watchpoint. -/
structure Watch where
  base : Nat
  len : Nat
  rd : Bool
  wr : Bool
  deriving DecidableEq, Repr

/-- R381: the service bank: x1 to x8, p1 to p4, and the q latches held aside. -/
structure Bank where
  x : List Word
  p : BitVec 4
  q : SMap QVal
  deriving DecidableEq, Repr

/-- R261, R380: a pending service request. -/
inductive Req | halt | swap (area : Word) | msg (area : Word)
  deriving DecidableEq, Repr

/-- R28: a fetched 64-byte line of the fetch buffer: its virtual address and its bytes, or the fault that the fetch met as
code, FADDR and FINFO; whether its publish bit was clear; its bad dwords by number, with FINFO (R407). -/
structure FetchLine where
  va : Nat
  bytes : List Byte
  fault : Option (Nat × Nat × Nat)
  unpub : Bool
  bad : List (Nat × Nat)
  deriving DecidableEq, Repr

/-- R265: whether a context has no bundle to issue and waits for a task, parked on join. -/
inductive Idle | no | idle
  deriving DecidableEq, Repr

/-- One context: the registers of R45 and R49 and everything R272 lists. -/
structure Ctx where
  phase : Phase := .free
  why : Why := .none
  wait : Wait := .nothing
  /-- address of the next bundle -/
  pc : Word := 0
  x : SMap Word := []
  /-- p0 to p23; p0 reads 1 and p24 to p31 are SPAN.SV -/
  p : BitVec 24 := 0
  /-- lane l of register n at 64n + l -/
  v : SMap Lane := []
  m : SMap (BitVec 256) := []
  q : SMap QVal := []
  qseq : SMap Nat := []
  pend : List Pending := []
  seq : Nat := 0
  lfsr : SMap Lane := []
  rot : Word := 0
  iter : Word := 0
  span : Word := 0
  ebud : Word := 0
  sdl : Word := 0
  rmode : Word := 0
  seed : Word := 0
  fflags : Word := 0
  satf : Word := 0
  asid : BitVec 16 := 0
  fcause : Word := 0
  fpc : Word := 0
  faddr : Word := 0
  finfo : Word := 0
  kvprog : Word := 0
  kverrpol : Word := 0
  shape : SMap Word := []
  claim : Option Claim := none
  /-- word w of stage accumulator n at 1024n + w -/
  sa : SMap Lane := []
  saA : StageBuf := ⟨0, []⟩
  saB : StageBuf := ⟨0, []⟩
  conv : Option ConvDesc := none
  attn : Option (List Word) := none
  ch : SMap Channel := []
  mb : SMap Mailbox := []
  sends : Nat := 0
  tok : SMap TokBind := []
  taskn : Word := BitVec.allOnes 64
  tbl : SMap Word := []
  pins : List (Nat × Nat) := []
  handler : Bool := false
  bank : Bank := ⟨[], 0, []⟩
  watch : SMap Watch := []
  dbg : Bool := false
  halted : Bool := false
  step : Bool := false
  /-- R381: the service bank is in place: the context runs service code, or is parked within it -/
  svc : Bool := false
  reqs : List Req := []
  /-- R262: a request is entered at the next bundle boundary -/
  enterNow : Bool := false
  fbuf : List FetchLine := []
  /-- R61: the fetch of the next bundle is under way -/
  fetching : Bool := false
  held : Option Bundle := none
  answered : List Answer := []
  /-- R215: how many mappings had been entered when the held bundle's access began -/
  heldAt : Nat := 0
  /-- R220: pinned lines whose leases have expired are brought back before the next bundle issues -/
  refetch : Bool := false
  /-- R164: an attention instruction is under way in the held bundle -/
  attnRun : Bool := false
  /-- R53, R164: the end offset that it read at issue -/
  attnEnd : Nat := 0
  /-- R57: the next bundle waits until every result has landed -/
  stopWait : Bool := false
  turn : Nat := 0
  /-- R253: the first cycle at which it may be offered again -/
  mayOffer : Nat := 0
  /-- R253: the cycle from which it is in rotation -/
  joins : Nat := 0
  /-- R183: `.sc` events of the context not yet announced everywhere -/
  scOut : Nat := 0
  idle : Idle := .no
  /-- R390: the save area of a saved context, and the ASID it was translated under -/
  area : Option Word := none
  areaAsid : Nat := 0
  rst : Nat := 0
  auto : Bool := false
  deriving DecidableEq, Repr

/-- R24: a context that is free, before any start. -/
def Ctx.empty : Ctx := {}

/-- R145: an engine command with the operands it read at issue. -/
structure Cmd where
  id : Nat
  ctx : Nat
  word : Word
  a : Word
  b : Word
  c : Word
  aux : Word
  nullified : Bool
  /-- the commands it waits for -/
  waits : List Nat
  bpc : Word
  asid : Nat
  conv : Option ConvDesc
  /-- R228: a copy's count -/
  cseq : Nat
  /-- bytes of a copy delivered -/
  done : Nat
  /-- R226: what bytes that the copy wrote held before, by place -/
  saved : SMap Byte
  /-- R60: what bytes that the M operation of its bundle wrote held before, by place -/
  mate : SMap Byte
  deriving DecidableEq, Repr

/-- R385: the stop record of a queue. -/
structure StopRec where
  code : Nat
  faddr : Word
  finfo : Word
  deriving DecidableEq, Repr

/-- R144: a queue: its commands, head first, whether the head runs, its stop record, whether it is frozen. -/
structure Queue where
  cmds : List Cmd := []
  running : Bool := false
  stop : Option StopRec := none
  frozen : Bool := false
  deriving DecidableEq, Repr

/-- R224, R228: a copy channel: its queue, the count it gives next, what WPn shows. -/
structure CopyChan where
  q : Queue := {}
  count : Nat := 0
  cseq : Nat := 0
  addr : Nat := 0
  deriving DecidableEq, Repr

/-- R264, R287: a task: entry, argument, counter, tag. -/
structure Task where
  entry : Word
  arg : Word
  cnt : Word
  tag : Word
  deriving DecidableEq, Repr

/-- One spindle. -/
structure Spindle where
  /-- R253: the local index last offered, and the first cycle not yet offered -/
  last : Nat := 15
  nextCycle : Nat := 0
  /-- R255: the windows of 1,024 cycles refilled -/
  window : Nat := 0
  chans : SMap CopyChan := []
  /-- R264: the hardware deque, top first -/
  deque : List Task := []
  /-- memory deque: index of its bottom entry, and how many entries it holds -/
  memBot : Nat := 0
  memCount : Nat := 0
  dead : Bool := false
  retired : Bool := false
  deriving DecidableEq, Repr

/-- R215, R216: a stash mapping. -/
structure Mapping where
  base : Nat
  len : Nat
  stoff : Nat
  mode : Nat
  rp : Bool
  rpart : Nat
  /-- R215: its place among the mappings entered -/
  born : Nat
  deriving DecidableEq, Repr

/-- R219: the states of a stash line. -/
inductive LineSt | F | S | W | D | B
  deriving DecidableEq, Repr

/-- R218, R219: a line of a backed or zero mapping that is not invalid: its state, expiry, lease class, home line,
whether its write-back ends in W (sm.flush), whether in F it waits for a write lease, when its lease was granted, by the state's
counter (R340), whether in F it is to be written whole (R226), the code tags of its two 64-byte blocks, as tag + 4 * tag (R404),
and the device time of its lease's grant or last renewal (R245). -/
structure Line where
  st : LineSt
  expiry : Nat
  lease : Nat
  home : Nat
  flush : Bool
  wr : Bool
  born : Nat
  whole : Bool
  tags : Nat
  got : Nat
  deriving DecidableEq, Repr

/-- R148, R149: a ring's configuration, head, count. -/
structure Ring where
  base : Nat
  slots : Nat
  ty : Nat
  roleB : Bool
  k : Nat
  head : Nat
  tail : Nat
  count : Nat
  deriving DecidableEq, Repr

/-- R141: an edge latch's operand tile. -/
structure Latch where
  ty : Nat
  roleB : Bool
  k : Nat
  bytes : List Byte
  deriving DecidableEq, Repr

/-- R155: one row of the group table with the slot fields of R156. -/
structure GroupRow where
  kind : Nat
  seq : Nat
  slot : Nat
  ex : Expert
  deriving DecidableEq, Repr

/-- R266: a range of a task. -/
structure Range where
  fnum : Nat
  lo : Nat
  hi : Nat
  write : Bool
  deriving DecidableEq, Repr

/-- One tile. -/
structure Tile where
  launch : Option Nat := none
  maps : SMap Mapping := []
  stash : SMap Byte := []
  /-- by virtual line number under the launch's ASID -/
  lines : SMap Line := []
  dict : SMap (List Word) := []
  dsize : Nat := 0
  /-- element (r, c) of accumulator n at 8192n + 64r + c -/
  acc : SMap Lane := []
  accOwner : SMap Nat := []
  latches : SMap Latch := []
  rings : SMap Ring := []
  group : SMap GroupRow := []
  groupLayer : Nat := 0
  tensor : Queue := {}
  conv : Queue := {}
  ringq : Queue := {}
  ranges : List Range := []
  fnum : Nat := 0
  svc : SMap Byte := []
  dead : Bool := false
  deriving DecidableEq, Repr

/-- R326, R333: a cached leaf with its page, memory type, lease class and counters. -/
structure TEntry where
  asid : Nat
  va : Nat
  size : Nat
  leaf : Nat
  level : Nat
  tableLine : Nat
  counts : List Nat
  deriving DecidableEq, Repr

/-- R338: a cached root entry with its descriptor, or a block entry, its two dwords, with its header, and the home lines that
they were read from. -/
inductive KEntry
  | root (seq : Nat) (desc : List Nat) (lines : List Nat)
  | block (seq layer head blk : Nat) (entry : List Nat) (header : List Byte) (lines : List Nat)
  deriving DecidableEq, Repr
/-- R328: the home lines that a cached entry was read from. -/
def KEntry.lines : KEntry → List Nat
  | .root _ _ ls => ls
  | .block _ _ _ _ _ _ ls => ls

/-- R328: a monitor: the entry it watches, its kind (page table, KV root, KV block, KV block for an append), waiters. -/
structure Monitor where
  ea : Nat
  kind : Nat
  waiters : List Nat
  deriving DecidableEq, Repr

/-- One LLC slice. -/
structure Slice where
  tcache : List TEntry := []
  kcache : List KEntry := []
  monitors : List Monitor := []
  /-- R192: the agent whose far atomic was served last -/
  lastFar : Nat := 0
  dead : Bool := false
  deriving DecidableEq, Repr

/-- R404: what is wrong with a 64-bit word that its code cannot correct: whether the high or the low plane of a tag-2 word is
bad, where (true: in the LLC), and the code tag that a stash word is kept under. -/
structure ErrMark where
  high : Bool
  low : Bool
  llc : Bool
  tag : Nat
  deriving DecidableEq, Repr

/-- R404: what an error strikes: a dword of memory, in its DRAM or in the LLC; a dword of a tile's stash; a dword of an agent
core's L2; an entry of a slice's tags, directory or caches; a word of a spindle's registers, accumulators or stage state. -/
inductive Struck
  | mem (dword : Nat) (llc : Bool)
  | stash (tile dword : Nat)
  | l2 (core dword : Nat)
  | entry (slice : Nat)
  | reg (spindle : Nat)
  deriving DecidableEq, Repr
/-- R404: stored bits that have flipped since they were written, as numbers within the word: an input from outside the machine. -/
structure Strike where
  place : Struck
  flips : List Nat
  deriving DecidableEq, Repr

/-- R331: the states of an ASID. -/
inductive AsidSt | active | retiring
  deriving DecidableEq, Repr

/-- R322: an ASID's state and latched descriptor: root and granule codes; R332: the device time at which its sweep started. -/
structure Asid where
  st : AsidSt
  root : Nat
  gmap : List Nat
  since : Nat
  deriving DecidableEq, Repr

/-- R346: the states of a partition. -/
inductive PartSt | configuring | running | resetting
  deriving DecidableEq, Repr

/-- R367: a host window. -/
structure Window where
  base : Nat
  size : Nat
  r : Bool
  w : Bool
  deriving DecidableEq, Repr

/-- R246, R423: a record of a stream: a command not yet taken, or a launch record copied. -/
inductive StreamRec
  | cmd (dwords : List Word)
  | launch (recd : List Word)
  deriving DecidableEq, Repr

/-- R423: a PUBLISH that a stream has accepted and not yet taken, by its sequence number, with the lines that have been stored to
since: they stay unpublished. -/
structure PubMark where
  part : Nat
  stream : Stream
  seq : Nat
  stored : List Nat
  deriving DecidableEq, Repr

/-- R305, R356: a call of the tool queue. -/
structure Call where
  future : Nat
  tool : Nat
  deriving DecidableEq, Repr

/-- R418: where a host link loss stands. -/
inductive LinkPhase | up | held | discarded
  deriving DecidableEq, Repr

/-- One partition that is not absent. -/
structure Part where
  st : PartSt
  conf : PartConf
  windows : SMap Window := []
  asids : SMap Asid := []
  streamH : List StreamRec := []
  streamA : List StreamRec := []
  streamD : List StreamRec := []
  /-- R246: the stream whose record Headstock took last -/
  lastStream : Stream := .D
  fp : SMap Byte := []
  ap : SMap Byte := []
  /-- R422, R424: slots examined whose acceptance waits for room in the stream -/
  fpHeld : List Nat := []
  apHeld : List Nat := []
  fpnext : Word := 1
  apnext : Word := 1
  evroute : BitVec 18 := 0x2AAAA
  mrbase : Word := 0
  mrsize : Nat := 0
  mrhead : Word := 0
  mrtail : Nat := 0
  mirdrop : Nat := 0
  llidx : Nat := 0
  /-- R4, R414: LLCLR and FMTC as last written -/
  llclr : Word := 0
  fmtc : Word := 0
  fmta : Word := 0
  cecnt : Nat := 0
  uecnt : Nat := 0
  kvhcnt : Nat := 0
  hlhold : Nat := 100
  hllogb : Word := 0
  hllogn : Nat := 0
  hllogc : Nat := 0
  loss : List Nat := []
  ctlo : Nat := 1
  cthi : Nat := 0
  cto : Nat := 1000000000
  tstring : List Lane := []
  fstring : List Lane := []
  xmax : Nat := 0
  kvrt : Nat := 0
  uecen : Bool := false
  tools : List Call := []
  linkPhase : LinkPhase := .up
  deriving DecidableEq, Repr

/-- R308, R360: the states of a sequence that is not free. -/
inductive SeqSt | ready | prefill | calling | absent | retired
  deriving DecidableEq, Repr

/-- R361: a token queue in memory. -/
structure TokQueue where
  base : Nat
  cap : Nat
  head : Nat
  count : Nat
  deriving DecidableEq, Repr

/-- R307: a sequence entry. -/
structure Seq where
  st : SeqSt
  part : Nat
  adapter : Option Nat
  tenant : Nat
  pf : TokQueue
  out : TokQueue
  fut : Option Nat
  holder : Option Nat
  trunc : Bool
  pos : Nat
  /-- order of its last transition -/
  age : Nat
  /-- R308: to be retired when the batch releases it -/
  retiring : Bool
  deriving DecidableEq, Repr

/-- R305: the states of a future that is not free. -/
inductive FutSt | opened | taken (core : Nat) | ended (status : Nat)
  deriving DecidableEq, Repr

/-- R302, R303: a future entry with its call record. -/
structure Fut where
  st : FutSt
  part : Nat
  tag : BitVec 48
  deadline : Nat
  openedAt : Nat
  creator : Option Nat
  seq : Option Nat
  tool : Nat
  arga : Word
  argl : Word
  rpla : Word
  rplc : Word
  deriving DecidableEq, Repr

/-- R247, R250: a launch that occupies its tiles: its record, its image's entry, handlers and dictionary, whether it was killed. -/
structure Launch where
  part : Nat
  stream : Stream
  recd : List Word
  tiles : List Nat
  entry : Word
  handlers : List Word
  ndict : Nat
  killed : Bool
  deriving DecidableEq, Repr

/-- R297, R298: a message or its answer under way. -/
structure Flight where
  src : Nat
  dst : Nat
  mb : Nat
  rmb : Nat
  p0 : Word
  p1 : Word
  /-- sent by amsend.w -/
  waiting : Bool
  /-- the sender has ended: it takes no answer -/
  orphan : Bool
  /-- none while under way, the answer afterwards -/
  answer : Option Nat
  deriving DecidableEq, Repr

/-- R182, R183: an `.sc` event announced: its window, core, order within the core, context and device time. -/
structure ScEvent where
  window : Nat
  core : Nat
  idx : Nat
  ctx : Option Nat
  /-- R183: the device time at which it was sent -/
  sent : Nat
  deriving DecidableEq, Repr

/-- R348: the privilege modes of an agent core. -/
inductive Mode | M | HS | U | VS | VU
  deriving DecidableEq, Repr

/-- R351: a capability entry. -/
structure Cap where
  base : Nat
  len : Nat
  tag : Nat
  rights : Nat
  deriving DecidableEq, Repr

/-- R348: a leaf that an agent core's translation holds until a fence of RISC-V drops it: the stage (0 `satp`, 1 `vsatp`, 2
`hgatp`), its ASID, its VMID, the first address and the size of its page, and the table entry (log entry 88). -/
structure TlbEntry where
  stage : Nat
  asid : Nat
  vmid : Nat
  base : Nat
  size : Nat
  pte : Nat
  deriving DecidableEq, Repr

/-- R348, R372: an IMSIC interrupt file (Smaia, Ssaia): eidelivery, eithreshold, and the identities pending and enabled, rising. -/
structure IntFile where
  delivery : Nat := 0
  threshold : Nat := 0
  pending : List Nat := []
  enabled : List Nat := []
  deriving DecidableEq, Repr

/-- One agent core (R348): the registers of RV64 with F, D and V, the CSRs, the interrupt files, and what it holds of memory. -/
structure Agent where
  x : SMap Word := []
  /-- f0 to f31 -/
  f : SMap Word := []
  /-- v0 to v31, VLEN 512 -/
  v : SMap (BitVec 512) := []
  /-- the CSRs that have no field of their own, by number; `vtype` has vill set (PRESUMED, log entry 8) -/
  csr : SMap Word := [(0xC21, 0x8000000000000000)]
  /-- the interrupt files of M-mode and of HS-mode -/
  mfile : IntFile := {}
  sfile : IntFile := {}
  pc : Word := 0
  mode : Mode := .M
  mstatus : Word := 0
  mtvec : Word := 0
  mepc : Word := 0
  mcause : Word := 0
  mtval : Word := 0
  medeleg : Word := 0
  stvec : Word := 0
  sepc : Word := 0
  scause : Word := 0
  stval : Word := 0
  hedeleg : Word := 0
  vstvec : Word := 0
  vsepc : Word := 0
  vscause : Word := 0
  vstval : Word := 0
  vsstatus : Word := 0
  hstatus : Word := 0
  xcapctl : Word := 0
  xcapsel : Word := 0
  caps : SMap Cap := []
  xcapfa : Word := 0
  xfuten : Word := 0
  xfscope : Word := 0
  xdomhi : Word := 0
  /-- the translations held, the newest first -/
  tlb : List TlbEntry := []
  /-- R202: the lines of 128 bytes held for fetches until `FENCE.I` -/
  icode : SMap (List Byte) := []
  /-- lines held: 0 S or E, 1 M or O -/
  l2 : SMap Bool := []
  /-- R418: what lines of host memory held before the L2 wrote them -/
  l2Old : SMap (List Byte) := []
  /-- R404: dwords of the L2 with an uncorrectable error -/
  l2Errs : List Nat := []
  /-- R405: dwords of the L2 with an error that their code corrects -/
  l2Fixed : List Nat := []
  /-- the reservation of a load-reserve -/
  resv : Option (Nat × Nat) := none
  scSeq : Nat := 0
  dead : Bool := false
  deriving DecidableEq, Repr

/-- R372: an event posted: class, partition, time, the two INFO dwords, and where it was delivered. -/
structure Posted where
  cls : Nat
  part : Nat
  time : Nat
  info0 : Word
  info1 : Word
  toSup : Bool
  toHost : Bool
  deriving DecidableEq, Repr

/-- Answers that leave the device to whoever asked (Learo, host, network): plain records. -/
inductive Reply
  | words (status : Nat) (ws : List Word)
  | bytes (bs : List Byte)
  | status (n : Nat)
  /-- R405: data under the CXL poison indication -/
  | poison
  | refused
  deriving DecidableEq, Repr

/-- What the model does next: an event of the table, or an agent core's next instruction. -/
inductive Due
  | ev (i : Instr)
  | core (n : Nat)
  deriving DecidableEq, Repr

/-- R251, R346: a completion record of a killed launch whose writing waits for leases: its partition, place, bytes and INFO. -/
structure LateRecord where
  part : Nat
  pa : Nat
  bytes : List Byte
  info0 : Word
  info1 : Word
  deriving DecidableEq, Repr

/-- R368, R432: what survives a reset and how far the boot has come. -/
structure Boot where
  step : Nat := 0
  recovery : Bool := false
  images : List Image := []
  rooth : BitVec 512 := 0
  minver : List Nat := [0, 0, 0, 0]
  secret : BitVec 512 := 0
  table : List (Nat × PartConf) := []
  fabricNum : Nat := 0
  /-- R370: the identity public key, the alias public key of this boot, and its signature by the identity key -/
  identity : List Byte := []
  aliasKey : List Byte := []
  aliasCert : List Byte := []
  deriving DecidableEq, Repr

/-- R425, R20: this device's number, the domain table and the state of the links. -/
structure Domain where
  devnum : Option Nat := none
  /-- devices present in the table -/
  present : List Nat := []
  /-- devices with no route -/
  unreachable : List Nat := []
  downPorts : List Nat := []
  fenced : List Nat := []
  /-- who owns which memory of other devices: device, partition, base, size -/
  owners : List (Nat × Nat × Nat × Nat) := []
  /-- stash windows of other devices that accept cp.rput: device, tile, partition, base, size -/
  rput : List (Nat × Nat × Nat × Nat × Nat) := []
  deriving DecidableEq, Repr

/-- R430: a die's clock. -/
structure Die where
  cyc : Nat := 0
  events : Nat := 0
  scyc : Nat := 0
  stretched : Bool := false
  deriving DecidableEq, Repr

/-- The state of the machine. -/
structure State where
  time : Nat := 0
  dies : SMap Die := []
  watts : Nat := Config.fusedWatts
  fclk : Nat := 2400
  lim : Bool := false
  mem : List Host.Cell := []
  /-- R196: publish bits by 128-byte line -/
  pub : SMap Bool := []
  /-- R404: code tags by 64-byte block -/
  ctag : SMap Nat := []
  /-- uncorrectable words of memory by dword number -/
  errs : SMap ErrMark := []
  /-- uncorrectable words of the stash by tile and dword, at tile * 2^19 + dword -/
  serrs : SMap ErrMark := []
  /-- R406: correctable errors found by the scrub, by dword number -/
  cerrs : SMap Bool := []
  ctxs : SMap Ctx := []
  spindles : SMap Spindle := []
  tiles : SMap Tile := []
  slices : SMap Slice := []
  agents : SMap Agent := []
  parts : SMap Part := []
  seqs : SMap Seq := []
  futs : SMap Fut := []
  seqAge : Nat := 0
  /-- R194, R308: sequences in calling whose future has ended, with the tokens that the Chuck appends when leases on their lines
  end -/
  feeds : List (Nat × List Lane) := []
  resident : List Nat := []
  experts : SMap Expert := []
  owners : SMap Nat := []
  /-- R346: the partition that holds, or was the last to hold, a memory channel, plus 1 -/
  chanOwner : SMap Nat := []
  launches : SMap Launch := []
  flights : List Flight := []
  scOut : List ScEvent := []
  scOrder : List ScEvent := []
  cmdNext : Nat := 1
  claimAge : Nat := 0
  launchNext : Nat := 1
  /-- R412: the walks for dead units, each with the device time of its fence -/
  lossWalks : List (Nat × UnitKind × Nat × Nat) := []
  posted : List Posted := []
  replies : List Reply := []
  /-- R194, R319: the lines that instruction caches hold -/
  ilines : List ILine := []
  /-- R194, R218: the home lines for which requests wait that have met another's lease, by requester: context n at n, the
  fetch of context n at 30000 + n, queue q of spindle p at 60000 + 11 p + q, agent core k at 80000 + k, the Chuck at 90000,
  the host at 90002, another device at 90003, Headstock for stream i of partition p at 90100 + 3 p + i, its late records at 90200, the device's own writes at 90202 -/
  wants : SMap (List Nat) := []
  /-- R245: of those requesters, the device time by which each is served: 4 µs after the last conflicting lease was granted -/
  wantBy : SMap Nat := []
  /-- R192: the agent cores whose atomic waits at a home slice, with its line -/
  farCores : SMap Nat := []
  /-- R194: writes of Headstock, the event logic and the error block that wait for leases, oldest first -/
  devWrites : List DevWrite := []
  /-- R423: the PUBLISH commands accepted and not yet taken -/
  publishing : List PubMark := []
  /-- R420, R422: the Faceplate bytes written before a partition is configured -/
  preFp : SMap (SMap Byte) := []
  /-- R394: bytes of the save areas of saved contexts, by context and offset, whose writing waits for leases -/
  lag : SMap (SMap Byte) := []
  /-- R204: host accesses delivered and not yet performed, oldest first -/
  hostQueue : List HostReq := []
  /-- R205: requests of other devices that wait for leases, oldest first -/
  remoteQueue : List RemoteReq := []
  lateRecords : List LateRecord := []
  /-- R367: the host windows of partitions that are not configured -/
  preWindows : SMap (SMap Window) := []
  /-- R404: errors that have struck and are not yet classified, oldest first -/
  strikes : List Strike := []
  /-- R405: dwords of the stash with an error that their code corrects, at tile * 2^19 + dword -/
  scerrs : List Nat := []
  /-- R215: mappings entered so far -/
  mapCount : Nat := 0
  /-- R246, R345: the cycle of Headstock and of the Chuck, whose service slots go by it -/
  svcCycle : Nat := 0
  meas : SMap (BitVec 512) := []
  boot : Boot := {}
  dom : Domain := {}
  hostUp : Bool := true
  /-- R418: when the host link was lost -/
  hostLost : Nat := 0
  /-- R418: dirty host-homed lines held while the link is lost: cell writes in order -/
  hostHeld : List HeldWrite := []
  /-- the model's own: what acts next, the context and the agent core that act, the next free value -/
  agenda : List Due := []
  cur : Nat := 0
  curCore : Nat := 0
  freeCount : Nat := 0
  deriving DecidableEq, Repr

/-- Why the machine stops. Raised by `needLive` and `needUnit` in Machine/Ops.lean. -/
inductive Fault
  /-- An instruction is given to a context that is not in rotation or in service. Safe: no bundle of such a context
  issues on the hardware (R252). -/
  | notIssuing
  /-- An instruction is given to an agent core that is dead, or to a core that belongs to no partition. Safe: such a
  core runs nothing (R411, R344). -/
  | noCore
  deriving DecidableEq, Repr

/-- Why the model gives no meaning. -/
inductive Refusal
  /-- An instruction with no meaning in the model yet, by its mnemonic. Safe. -/
  | notModelled (mnemonic : String)
  deriving DecidableEq, Repr

/-- The machine right after reset: nothing booted, memory lists nothing, every context free. -/
def State.reset : State := {}

end Sys2Proof.Machine
end

