-- ==== Sys2Proof/Machine/Ops.lean ====
section
/-! DEFINITION. The named operations over the machine: the units and their numbers (R14), a context's registers and
specifiers (R41 to R49), landing and channel pushes (R43, R44, R54), parking and waking (R252), posting of events (R372),
and taking a fault or a service entry (R376 to R382) with the return from it (R383). -/
namespace Sys2Proof.Machine

/-! ## Numbering (R14) -/

/-- R14: the spindle of a context. -/
def spindleOf (n : Nat) : Nat := n / 16
/-- R14: the tile of a context. -/
def tileOf (n : Nat) : Nat := n / 128
/-- R14: the compute die of a context. -/
def dieOf (n : Nat) : Nat := n / (128 * 48)
/-- R14: the local index of a context in its spindle. -/
def localOf (n : Nat) : Nat := n % 16
/-- R14: the number of contexts of the device. -/
def numContexts : Nat := 24576

/-! ## Reading and changing the units -/

def ctxOf (s : State) (n : Nat) : Ctx := smGet Ctx.empty s.ctxs n
def setCtx (s : State) (n : Nat) (c : Ctx) : State := { s with ctxs := smSet Ctx.empty s.ctxs n c }
def modCtx (s : State) (n : Nat) (f : Ctx → Ctx) : State := setCtx s n (f (ctxOf s n))
def tileAt (s : State) (t : Nat) : Tile := smGet {} s.tiles t
def setTile (s : State) (t : Nat) (x : Tile) : State := { s with tiles := smSet {} s.tiles t x }
def modTile (s : State) (t : Nat) (f : Tile → Tile) : State := setTile s t (f (tileAt s t))
def spinAt (s : State) (n : Nat) : Spindle := smGet {} s.spindles n
def setSpin (s : State) (n : Nat) (x : Spindle) : State := { s with spindles := smSet {} s.spindles n x }
def modSpin (s : State) (n : Nat) (f : Spindle → Spindle) : State := setSpin s n (f (spinAt s n))
def sliceAt (s : State) (n : Nat) : Slice := smGet {} s.slices n
def setSlice (s : State) (n : Nat) (x : Slice) : State := { s with slices := smSet {} s.slices n x }
def modSlice (s : State) (n : Nat) (f : Slice → Slice) : State := setSlice s n (f (sliceAt s n))
def agentAt (s : State) (n : Nat) : Agent := smGet {} s.agents n
def setAgent (s : State) (n : Nat) (x : Agent) : State := { s with agents := smSet {} s.agents n x }
def modAgent (s : State) (n : Nat) (f : Agent → Agent) : State := setAgent s n (f (agentAt s n))
def partAt (s : State) (p : Nat) : Option Part := smFind s.parts p
/-- R432: the boot has come as far as a step. -/
def booted (s : State) (k : Nat) : Bool := decide (k ≤ s.boot.step) && !s.boot.recovery
/-- A partition that runs. -/
def running (s : State) (pnum : Nat) : Option Part := (partAt s pnum).filter fun p => p.st == .running
def setPart (s : State) (p : Nat) (x : Part) : State := { s with parts := smIns s.parts p x }
def modPart (s : State) (p : Nat) (f : Part → Part) : State :=
  match partAt s p with
  | some x => setPart s p (f x)
  | none => s
def dieAt (s : State) (d : Nat) : Die := smGet {} s.dies d
def setDie (s : State) (d : Nat) (x : Die) : State := { s with dies := smSet {} s.dies d x }

/-- R344: the partition that owns a tile. -/
def partOfTile (s : State) (t : Nat) : Option Nat := (s.parts.find? fun e => e.2.conf.tiles.contains t).map (·.1)
/-- R344: the partition that owns an agent core, by its local index. -/
def partOfCore (s : State) (k : Nat) : Option Nat := (s.parts.find? fun e => e.2.conf.cores.contains k).map (·.1)
/-- R347: the partition of a context; a tile of no partition reads as partition 0. -/
def partOfCtx (s : State) (n : Nat) : Nat := (partOfTile s (tileOf n)).getD 0
/-- The launch that occupies a context's tile. -/
def launchOf (s : State) (n : Nat) : Option Launch :=
  match (tileAt s (tileOf n)).launch with
  | some l => smFind s.launches l
  | none => none

/-- A dword of a launch record (R247). -/
def recWord (r : List Word) (off : Nat) : Nat := (r.getD (off / 8) 0).toNat
/-- R247: SEALED. -/
def Launch.sealed (l : Launch) : Bool := bit (recWord l.recd 0x48) 32
/-- R247: NOSTEAL. -/
def Launch.nosteal (l : Launch) : Bool := bit (recWord l.recd 0x48) 33
/-- R247: LASID. -/
def Launch.lasid (l : Launch) : Nat := bits (recWord l.recd 0x28) 23 8
/-- R247: DQMAX. -/
def Launch.dqmax (l : Launch) : Nat := bits (recWord l.recd 0x40) 23 0
/-- R247: DQBASE. -/
def Launch.dqbase (l : Launch) : Nat := recWord l.recd 0x38
/-- R270: whether a context belongs to a sealed launch. -/
def isSealed (s : State) (n : Nat) : Bool :=
  match launchOf s n with
  | some l => l.sealed
  | none => false

/-- The next free choice of two outcomes (R7). -/
def flip (s : State) : Bool × State := (Config.freeBit s.freeCount, { s with freeCount := s.freeCount + 1 })
/-- R326: one of several held forms, or none of them; which is unpredictable. -/
def pickHeld {α : Type} (k : Nat) (held : List α) : Option α :=
  match held with
  | [] => none
  | x :: xs => if Config.freeBit k then (x :: xs)[Config.freeNat k % (xs.length + 1)]? else none
/-- The next free natural number. -/
def draw (s : State) : Nat × State := (Config.freeNat s.freeCount, { s with freeCount := s.freeCount + 1 })

/-! ## Registers (R45 to R48) -/

/-- R48: ROT.XO. -/
def Ctx.xo (c : Ctx) : Nat := bits c.rot.toNat 20 16
/-- R48: ROT.VO. -/
def Ctx.vo (c : Ctx) : Nat := bits c.rot.toNat 7 0
/-- R47: the physical scalar register of a name. -/
def physX (c : Ctx) (n : Nat) : Nat := if n < 32 then n else 32 + (n + 32 - c.xo) % 32
/-- R47: the physical vector register of a name. -/
def physV (c : Ctx) (n : Nat) : Nat := if n < 128 then n else 128 + (n + 128 - c.vo) % 256
/-- R277: SPAN.DEPTHM + 1. -/
def Ctx.depth (c : Ctx) : Nat := bits c.span.toNat 10 8 + 1
/-- R277: SPAN.SV. -/
def Ctx.sv (c : Ctx) : Nat := bits c.span.toNat 7 0
/-- R260: granted lanes, at most the 64 of a vector register (R45); a saved claim has given its lanes up (R258). -/
def Ctx.lanes (c : Ctx) : Nat :=
  match c.claim with
  | some k => if k.phase = .saved then 0 else Nat.min k.lanes 64
  | none => 0
/-- R42: whether the context holds a claim. -/
def Ctx.hasClaim (c : Ctx) : Bool := 0 < c.lanes

/-- R45: a physical scalar register; x0 reads 0. -/
def getX (c : Ctx) (n : Nat) : Word := if n = 0 then 0 else smGet 0 c.x n
/-- R45, R42: a write to a physical scalar register; to x0 it is discarded. -/
def putX (c : Ctx) (n : Nat) (w : Word) : Ctx := if n = 0 then c else { c with x := smSet 0 c.x n w }
/-- R45: a predicate: p0 reads 1, p24 to p31 are the stage predicates below SPAN's depth. -/
def getP (c : Ctx) (n : Nat) : Bool :=
  if n = 0 then true
  else if n < 24 then c.p.getLsbD n
  else decide (n - 24 < c.depth) && bit c.sv (n - 24)
/-- R277: SPAN with the stage-valid bits given, those at or above the depth 0. -/
def spanWith (c : Ctx) (sv : Nat) : Word := word ((c.depth - 1) * 256 + sv % 2 ^ c.depth)
/-- R42, R45: a write to a predicate. -/
def putP (c : Ctx) (n : Nat) (b : Bool) : Ctx :=
  if n = 0 then c
  else if n < 24 then { c with p := (c.p &&& ~~~(BitVec.ofNat 24 (2 ^ n))) ||| (if b then BitVec.ofNat 24 (2 ^ n) else 0) }
  else
    let i := n - 24
    let sv := c.sv
    let sv' := if b then (if bit sv i then sv else sv + 2 ^ i) else (if bit sv i then sv - 2 ^ i else sv)
    { c with span := spanWith c sv' }
/-- A lane of a physical vector register; at or above VL it reads 0. -/
def getV (c : Ctx) (n lane : Nat) : Lane := if lane < c.lanes then smGet 0 c.v (64 * n + lane) else 0
/-- A write to a lane of a physical vector register, discarded at or above VL. -/
def putV (c : Ctx) (n lane : Nat) (w : Lane) : Ctx :=
  if lane < c.lanes then { c with v := smSet 0 c.v (64 * n + lane) w } else c
/-- R45: the mask bits that a claim of c.lanes lanes governs. -/
def maskLimit (lanes : Nat) : BitVec 256 := BitVec.ofNat 256 (2 ^ (4 * lanes) - 1)
/-- R45: a mask; m0 reads all ones, the others 0 at or above 4 VL. -/
def getM (c : Ctx) (n : Nat) : BitVec 256 :=
  if n = 0 then BitVec.allOnes 256 else smGet 0 c.m n &&& maskLimit c.lanes
/-- R42, R45: a write to a mask. -/
def putM (c : Ctx) (n : Nat) (w : BitVec 256) : Ctx :=
  if n = 0 then c else { c with m := smSet 0 c.m n (w &&& maskLimit c.lanes) }
/-- R43: a slot result latch. -/
def getQ (c : Ctx) (n : Nat) : QVal := smGet (.scalar 0) c.q n
/-- R43: a latch read in scalar space. -/
def QVal.toWord : QVal → Word
  | .scalar w => w
  | .vector ls => word (ls.headD 0).toNat
/-- A word of a stage accumulator (R160). -/
def getSa (c : Ctx) (n w : Nat) : Lane := smGet 0 c.sa (1024 * n + w)
def putSa (c : Ctx) (n w : Nat) (v : Lane) : Ctx := { c with sa := smSet 0 c.sa (1024 * n + w) v }

/-- R160: a stage operand buffer changed. -/
def putBuf (c : Ctx) (b : Bool) (f : StageBuf → StageBuf) : Ctx :=
  if b then { c with saB := f c.saB } else { c with saA := f c.saA }

/-- R293: one end of a channel; an end never bound is unbound and empty. -/
def Channel.none : Channel := ⟨.unbound, 0, 0, []⟩
def getCh (c : Ctx) (n : Nat) : Channel := smGet Channel.none c.ch n
def putCh (c : Ctx) (n : Nat) (x : Channel) : Ctx := { c with ch := smSet Channel.none c.ch n x }
/-- R297: a mailbox. -/
def Mailbox.none : Mailbox := ⟨[], []⟩
def getMb (c : Ctx) (n : Nat) : Mailbox := smGet Mailbox.none c.mb n
def putMb (c : Ctx) (n : Nat) (x : Mailbox) : Ctx := { c with mb := smSet Mailbox.none c.mb n x }

/-! ## Parking and waking (R252) -/

/-- R252: a context leaves rotation, with what it waits for. -/
def park (c : Ctx) (why : Why) (w : Wait) : Ctx := { c with phase := .parked, why := why, wait := w }
/-- R258: a restored claim that waits for its floor holds its context. -/
def Ctx.awaitsClaim (c : Ctx) : Bool := (c.claim.any fun k => k.phase == .waiting) && c.wait != .claim
/-- R252: what a context awaits arrives: it rejoins rotation; a saved one records it in RST (R394), and one halted where it
is (R401) awaits nothing more. -/
def wake (c : Ctx) : Ctx :=
  match c.phase with
  | .parked =>
    if c.awaitsClaim then { c with why := .token, wait := .claim }
    else { c with phase := if c.svc then .inService else .live, why := .none, wait := .nothing }
  | .saved => { c with rst := 1, why := .none, wait := .nothing }
  | .inService => if c.halted then { c with why := .none, wait := .nothing } else c
  | _ => c
/-- Every context for which the test holds of what it awaits is woken. -/
def wakeWhere (s : State) (test : Nat → Ctx → Bool) : State :=
  (s.ctxs.map (·.1)).foldl
    (fun t n => if test n (ctxOf t n) then modCtx t n wake else t) s

/-! ## Landing (R43, R44, R54, R86) -/

/-- R44, R293: a channel word lands at the receiving end that its channel had at issue, although its own end may have been
unbound since; the peer's parked context wakes. -/
def pushWord (s : State) (n ch : Nat) (w : Word) (peer pch : Nat) : State :=
  let c := ctxOf s peer
  let pe := getCh c pch
  if (pe.st = .established ∨ pe.st = .gone) ∧ pe.peer = n ∧ pe.pch = ch then
    let c := putCh c pch { pe with queue := pe.queue ++ [w] }
    setCtx s peer (if c.wait = .channel pch then wake c else c)
  else s

/-- One write of a result, applied to the context. A push goes to the peer (`landWrites`). -/
def putWrite (c : Ctx) : RegWrite → Ctx
  | .x n w => putX c n w
  | .p n b => putP c n b
  | .v r l w => putV c r l w
  | .mask n w => putM c n w
  | .push .. => c
  | .sa r w v => putSa c r w v
  | .buf b w v => putBuf c b fun x => { x with bytes := smSetList 0 x.bytes (4 * w) (leBytes 4 v.toNat) }
  | .bufTy b ty => putBuf c b fun x => { x with ty := ty }
  | .attn d => { c with attn := some d, kvprog := 0 }

/-- The writes of a result, in order. -/
def landWrites (s : State) (n : Nat) : List RegWrite → State
  | [] => s
  | .push ch w peer pch :: ws => landWrites (pushWord s n ch w peer pch) n ws
  | w :: ws => landWrites (modCtx s n fun c => putWrite c w) n ws

/-- R43: a result enters its slot's latch, unless one issued after it is there. -/
def putQ (c : Ctx) (p : Pending) : Ctx :=
  match p.q with
  | none => c
  | some q =>
    if smGet 0 c.qseq p.slot ≤ p.seq then
      { c with q := smSet (.scalar 0) c.q p.slot q, qseq := smSet 0 c.qseq p.slot p.seq }
    else c

/-- R54, R86: a result lands: its writes, its latch, its flags ORed in. -/
def landOne (s : State) (n : Nat) (p : Pending) : State :=
  let s := landWrites s n p.writes
  modCtx s n fun c =>
    let c := putQ c p
    { c with fflags := c.fflags ||| p.ff.setWidth 64, satf := c.satf ||| p.sf.setWidth 64 }

/-- The results of a list land in issue order. -/
def landList (s : State) (n : Nat) : List Pending → State
  | [] => s
  | p :: ps => landList (landOne s n p) n ps

/-- R54: every outstanding result of a context lands. -/
def landEvery (s : State) (n : Nat) : State :=
  match (ctxOf s n).pend with
  | [] => s
  | ps => landList (modCtx s n fun c => { c with pend := [] }) n ps

/-- R44: the channels that a result pushes to. -/
def Pending.pushes (p : Pending) : List Nat :=
  p.writes.filterMap fun w => match w with | .push ch .. => some ch | _ => none
/-- R270: results that land at once, and those left: one that lands exactly when it is due stays, with later pushes on its channels. -/
def splitExact (chs : List Nat) : List Pending → List Pending × List Pending
  | [] => ([], [])
  | p :: ps =>
    if p.exact || p.pushes.any chs.contains then
      let r := splitExact (chs ++ p.pushes) ps
      (r.1, p :: r.2)
    else
      let r := splitExact chs ps
      (p :: r.1, r.2)
/-- R57, R270: every outstanding result lands that need not wait until it is due. -/
def landLoose (s : State) (n : Nat) : State :=
  match (ctxOf s n).pend with
  | [] => s
  | ps =>
    let r := splitExact [] ps
    landList (modCtx s n fun c => { c with pend := r.2 }) n r.1
/-- R44, R54: the results due by a turn, and those left: a result issued before one that is due and pushes to the same
channel lands with it, since pushes to one channel land in issue order. -/
def splitDue (turn : Nat) : List Pending → List Pending × List Pending
  | [] => ([], [])
  | p :: ps =>
    let r := splitDue turn ps
    if p.due ≤ turn ∨ p.pushes.any (fun ch => r.1.any fun q => q.pushes.contains ch) then (p :: r.1, r.2) else (r.1, p :: r.2)
/-- R54: the results due by a turn land. -/
def landDue (s : State) (n turn : Nat) : State :=
  match (ctxOf s n).pend with
  | [] => s
  | ps =>
    let r := splitDue turn ps
    landList (modCtx s n fun c => { c with pend := r.2 }) n r.1

/-! ## Memory as bytes, with publish bits (R196) and error marks (R405) -/

/-- The canonical form of memory: addresses strictly rising, no byte equal to what an unlisted address reads as. -/
def Memory.wf (m : List Host.Cell) : Bool := smWf 0 m
/-- The byte at a global physical address. -/
def memByte (s : State) (a : Nat) : Byte := smGet 0 s.mem a
/-- R348: a store to a line ends the agent cores' reservations on it, whatever it stores. -/
def endResv (as : SMap Agent) (line : Nat) : SMap Agent :=
  if as.any fun e => e.2.resv.any fun r => r.1 == line then
    as.map fun e => (e.1, { e.2 with resv := e.2.resv.filter fun r => r.1 != line })
  else as
/-- An identity put into a rising list. -/
def putId (n : Nat) : List Nat → List Nat
  | [] => [n]
  | m :: ms => if n < m then n :: m :: ms else if n = m then m :: ms else m :: putId n ms
/-- R423: a line is stored to while PUBLISH commands are accepted and not yet taken. -/
def storedTo (ms : List PubMark) (line : Nat) : List PubMark := ms.map fun m => { m with stored := putId line m.stored }
/-- A byte is written at its home: its line's publish bit is cleared (R196, R423), and reservations on the line end. -/
def putByte (s : State) (a : Nat) (b : Byte) : State :=
  { s with mem := smSet 0 s.mem a b, pub := smSet false s.pub (a / 128) false, agents := endResv s.agents (a / 128)
           publishing := storedTo s.publishing (a / 128) }
/-- Bytes from an address. -/
def memBytes (s : State) (a n : Nat) : List Byte := smGetList 0 s.mem a n
/-- Bytes are written from an address on. -/
def putBytes (s : State) (a : Nat) : List Byte → State
  | [] => s
  | b :: bs => putBytes (putByte s a b) (a + 1) bs
/-- R405: a write that covers a whole 64-bit word ends its error. -/
def clearErrs (s : State) (a n : Nat) : State :=
  { s with errs := s.errs.filter fun e => !(decide (a ≤ 8 * e.1) && decide (8 * e.1 + 8 ≤ a + n))
           cerrs := s.cerrs.filter fun e => !(decide (a ≤ 8 * e.1) && decide (8 * e.1 + 8 ≤ a + n)) }
/-- The dword at a global physical address. -/
def memDword (s : State) (a : Nat) : Nat := leNat (memBytes s a 8)

/-- R18: the global physical address of a local address of this device. -/
def localPa (s : State) (l : Nat) : Nat := s.dom.devnum.getD 0 * 2 ^ 44 + l
/-- R18: dev. -/
def paDev (a : Nat) : Nat := a / 2 ^ 44
/-- R18: local. -/
def paLocal (a : Nat) : Nat := a % 2 ^ 44
/-- R19: whether a local address lies in HBM4E or LPDDR-6. -/
def isDram (l : Nat) : Bool := decide (l < 2 ^ 39) || (decide (2 ^ 40 ≤ l) && decide (l < 2 ^ 40 + 768 * 2 ^ 30))
/-- R19: whether a local address lies in the host range. -/
def isHost (l : Nat) : Bool := decide (2 ^ 43 ≤ l) && decide (l < 2 ^ 44)
/-- R19: whether a local address lies in the device control space. -/
def isControl (l : Nat) : Bool := decide (2 ^ 42 ≤ l) && decide (l < 2 ^ 42 + 2 ^ 32)
/-- R344: the channel of a local address: HBM4E channels 0 to 255, LPDDR-6 channels as 256 and above. -/
def channelOf (l : Nat) : Nat := if l < 2 ^ 39 then l / 2 ^ 31 else 256 + (l - 2 ^ 40) / (12 * 2 ^ 30)
/-- R344: whether a partition owns the memory at a local address. -/
def ownsLocal (p : Part) (l : Nat) : Bool :=
  isDram l && (if l < 2 ^ 39 then p.conf.hbm.contains (channelOf l) else p.conf.lpddr.contains (channelOf l - 256))
/-- R334, R345: whether an address lies in memory of the partition on this device. -/
def ownsPa (s : State) (p : Part) (a : Nat) : Bool :=
  decide (a < 2 ^ 57) && decide (paDev a = s.dom.devnum.getD 0) && ownsLocal p (paLocal a)

/-! ## Writes at their home, and leases (R194) -/

/-- R194: whether a stash line holds its home line against an access: a write lease against any access, a read lease against a
write; a clean lease that has expired holds nothing. -/
def Line.holds (l : Line) (time : Nat) (wr : Bool) : Bool :=
  match l.st with
  | .D | .B => true
  | .W => decide (time < l.expiry)
  | .S => wr && decide (time < l.expiry)
  | .F => false

/-- R194: whether a stash line, or for a write an instruction cache, holds a home line against an access; the stash lines of
the access itself apart. -/
def lineConflict (s : State) (mine : Nat → Nat → Bool) (pline : Nat) (wr : Bool) : Bool :=
  (s.tiles.any fun e => e.2.lines.any fun l => l.2.home == pline && !mine e.1 l.1 && l.2.holds s.time wr) ||
  (wr && s.ilines.any fun i => i.home == pline && decide (s.time < i.expiry))
/-- R404, R406: whether a line is held, with an uncorrectable dword, by the L2 of an agent core other than one given: another
agent waits until it has been written back or dropped. -/
def l2Bad (s : State) (own : Option Nat) (pline : Nat) : Bool :=
  s.agents.any fun e => own != some e.1 && e.2.l2Errs.any fun d => d / 16 == pline
/-- R194: the same for an access made at the home. -/
def homeConflict (s : State) (pline : Nat) (wr : Bool) : Bool := lineConflict s (fun _ _ => false) pline wr || l2Bad s none pline

/-- R418: bytes written to memory; a line homed in host memory is held while the link is lost. A write-back leaves the
publish bits to the stores that it carries (R196). -/
def putHomeAs (back : Bool) (s : State) (pnum pa : Nat) (bs : List Byte) : State :=
  if isHost (paLocal pa) && !s.hostUp then { s with hostHeld := s.hostHeld ++ [⟨pnum, pa, bs, back⟩] }
  else
    let t := clearErrs (putBytes s pa bs) pa bs.length
    if back then { t with pub := s.pub, publishing := s.publishing } else t
/-- A write performed at its home. -/
def putHome (s : State) (pnum pa : Nat) (bs : List Byte) : State := putHomeAs false s pnum pa bs

/-- R194: the home lines of a write by the device itself that leases stand against. -/
def devHolds (s : State) (w : DevWrite) : List Nat :=
  ((List.range w.bytes.length).map fun i => (w.pa + i) / 128).eraseDups.filter fun l => homeConflict s l true
/-- A write by the device itself is performed. R414: LLCLR's line leaves the loss list. -/
def devPut (s : State) (w : DevWrite) : State :=
  let s := if w.clears then modPart s w.part fun p => { p with loss := p.loss.erase (w.pa / 128) } else s
  putHome s w.part w.pa w.bytes
/-- R194: a write by the device itself, after those that wait before it and once no lease stands against it. -/
def devWrite (s : State) (w : DevWrite) : State :=
  if s.devWrites = [] ∧ devHolds s w = [] then devPut s w else { s with devWrites := s.devWrites ++ [w] }

/-! ## Events posted (R372, R373) -/

/-- R372: whether class c is claimed by the supervisor, and by the host. -/
def claims (p : Part) (c : Nat) : Bool × Bool :=
  (p.evroute.getLsbD (2 * c + 1), p.evroute.getLsbD (2 * c))

/-- R373: the mirror record as 32 bytes. -/
def mirrorBytes (cls part time : Nat) (i0 i1 : Word) : List Byte :=
  leBytes 8 (cls % 256 + 256 * (part % 8)) ++ leBytes 8 time ++ leBytes 8 i0.toNat ++ leBytes 8 i1.toNat

/-- R373: a mirror record is written at the tail, or dropped and counted when the ring is full. -/
def mirror (s : State) (part : Nat) (p : Part) (cls : Nat) (i0 i1 : Word) : State :=
  let size := 4096 * 2 ^ p.mrsize
  let next := (p.mrtail + 32) % size
  if next = p.mrhead.toNat % size then
    setPart s part { p with mirdrop := Nat.min (p.mirdrop + 1) (2 ^ 32 - 1) }
  else
    let bs := mirrorBytes cls part s.time i0 i1
    let a := localPa s (2 ^ 43 + p.mrbase.toNat + p.mrtail)
    devWrite (setPart s part { p with mrtail := next }) ⟨part, a, bs, false⟩

/-- R372: the agent core whose interrupt file the supervisor names for a class, one of its partition's (log entry 88). -/
def msiTarget (s : State) (part cls : Nat) (p : Part) : Option Nat :=
  p.conf.cores[Config.msiCore part cls s.freeCount % Nat.max p.conf.cores.length 1]?
/-- R372: the MSI of a class becomes pending in the interrupt file of HS-mode that the supervisor names; an interrupt file holds the
identities 1 to 255 (log entry 88). -/
def sendMsi (s : State) (part cls : Nat) (p : Part) : State :=
  { s with agents :=
      match msiTarget s part cls p with
      | none => s.agents
      | some k =>
        let id := 1 + Config.msiIdentity part cls s.freeCount % 255
        smMod {} s.agents k fun a => { a with sfile := { a.sfile with pending := putId id a.sfile.pending } } }

/-- R372: an event of a class is posted for a partition and delivered by its routing. -/
def post (s : State) (part cls : Nat) (i0 i1 : Word) : State :=
  match partAt s part with
  | none => s
  | some p =>
    let (sup, host) := claims p cls
    let sup' := sup || !host
    -- R411: events routed to a dead agent core go to the host, with a mirror record
    let lost := sup' && (msiTarget s part cls p).all fun k => (agentAt s k).dead
    let s := { s with posted := s.posted ++ [⟨cls, part, s.time, i0, i1, sup' && !lost, (host && !sup) || lost⟩] }
    let s := if sup' && !lost then sendMsi s part cls p else s
    if (sup && host) || lost then mirror s part p cls i0 i1 else s

/-! ## Corrected errors (R405) -/

/-- A byte's place: in the stash of a tile at an offset, with the memory byte behind it for a backed or zero mapping, or at
its home by global physical address. -/
inductive Loc
  | stash (tile off : Nat) (home : Option Nat)
  | mem (pa : Nat)
  deriving DecidableEq, Repr

/-- The key of a stash dword's error mark. -/
def stashWordKey (tile off : Nat) : Nat := tile * 2 ^ 19 + off / 8
/-- R414: a count of 32 bits that saturates. -/
def sat32 (n : Nat) : Nat := Nat.min n 0xFFFFFFFF
/-- R404: the dwords of a 64-byte block. -/
def blockWords (b : Nat) : List Nat := (List.range 8).map fun i => 8 * b + i
/-- R405: the corrected errors of a block are repaired and counted. -/
def repairBlock (s : State) (pnum b : Nat) : State :=
  let n := ((blockWords b).filter fun w => (smFind s.cerrs w).isSome).length
  let s := { s with cerrs := s.cerrs.filter fun e => e.1 / 8 != b }
  modPart s pnum fun p => { p with cecnt := sat32 (p.cecnt + n) }
/-- R344: the partition that owns the memory of an address. -/
def ownerOf (s : State) (a : Nat) : Option Nat := (s.parts.find? fun e => ownsPa s e.2 a).map (·.1)
/-- R405: the block of an address is read: its corrected errors are repaired and counted for the partition that owns it. -/
def correctAt (s : State) (a : Nat) : State :=
  if (blockWords (a / 64)).any fun w => (smFind s.cerrs w).isSome then
    match ownerOf s a with
    | some pnum => repairBlock s pnum (a / 64)
    | none => s
  else s
/-- R405: a dword of a stash is read: a corrected error is repaired and counted. -/
def correctStash (s : State) (tile off : Nat) : State :=
  let k := stashWordKey tile off
  if s.scerrs.contains k then
    let t := { s with scerrs := s.scerrs.filter (· != k) }
    match partOfTile s tile with
    | some pnum => modPart t pnum fun p => { p with cecnt := sat32 (p.cecnt + 1) }
    | none => t
  else s
/-- R405: places are read. -/
def correct (s : State) (ls : List Loc) : State :=
  if s.cerrs = [] ∧ s.scerrs = [] then s
  else ls.foldl (fun s l => match l with | .mem a => correctAt s a | .stash t o _ => correctStash s t o) s

/-! ## Faults and service entry -/

/-- A fault as an operation raises it (R9 `fault`): the code (R374), FADDR, FINFO, and the monitor armed, if any
(its slice, the entry watched, the entry's kind). `reads` are places read on the way to the fault, whose corrected errors are
repaired all the same (R405). -/
structure FaultInfo where
  code : Nat
  addr : Word
  info : Word
  mon : Option (Nat × Nat × Nat)
  reads : List Loc
  deriving DecidableEq, Repr

/-- R405: a fault met after places had been read. -/
def FaultInfo.after (f : FaultInfo) (ls : List Loc) : FaultInfo := { f with reads := ls ++ f.reads }

/-- R375: the FCAUSE word. -/
def fcauseWord (op : Nat) (nest : Bool) (slot kind code : Nat) : Word :=
  word (op * 2 ^ 24 + (if nest then 2 ^ 23 else 0) + slot * 2 ^ 20 + kind * 2 ^ 16 + code)

/-- R381 step 4, R383: the exchange of x1 to x8, p1 to p4 and the q latches with the service bank. -/
def exchange (c : Ctx) : Ctx :=
  let xs := (List.range 8).map fun i => getX c (i + 1)
  let ps := c.p.extractLsb' 1 4
  let c' := (List.range 8).foldl (fun c i => putX c (i + 1) (c.bank.x.getD i 0)) c
  { c' with
    p := (c.p &&& ~~~(BitVec.ofNat 24 0x1E)) ||| (c.bank.p.setWidth 24 <<< 1)
    q := c.bank.q
    bank := ⟨if xs = List.replicate 8 0 then [] else xs, ps, c.q⟩ }

/-- R116, R270: an outstanding vector result, which the next bundle waits for, keeps what it gives the lanes below a count. -/
def Pending.clip (lanes : Nat) (p : Pending) : Pending :=
  { p with writes := (p.writes.filter fun w => match w with | .v _ l _ => decide (l < lanes) | _ => true).map fun w =>
      match w with | .mask n w => .mask n (w &&& maskLimit lanes) | w => w }

/-- R259: a claim shrinks: lanes at or above the new count are lost, and the reclaim is discharged. -/
def shrinkTo (c : Ctx) (lanes : Nat) : Ctx :=
  match c.claim with
  | none => c
  | some k =>
    { c with claim := some { k with lanes := lanes, reclaim := false, kept := 0 }
             v := c.v.filter fun e => decide (e.1 % 64 < lanes)
             m := (c.m.map fun e => (e.1, e.2 &&& maskLimit lanes)).filter fun e => decide (e.2 ≠ 0)
             lfsr := c.lfsr.filter fun e => decide (e.1 < lanes), pend := c.pend.map (Pending.clip lanes) }

/-- R257: the contexts of a tile that hold or await a claim. -/
def tileClaims (s : State) (t : Nat) : List (Nat × Claim) :=
  s.ctxs.filterMap fun e =>
    if tileOf e.1 = t then (match e.2.claim with | some k => some (e.1, k) | none => none) else none

/-- R257: lanes of a tile held by no claim. -/
def freeLanes (s : State) (t : Nat) : Nat :=
  128 - ((tileClaims s t).map fun e => if e.2.phase = .saved then 0 else e.2.lanes).sum

/-- R259: the lanes that the waiters of a tile still need. -/
def lanesNeeded (s : State) (t : Nat) : Nat :=
  ((tileClaims s t).map fun e =>
    if e.2.phase = .waiting then e.2.floor - e.2.lanes else 0).sum - freeLanes s t

/-- R258: the oldest waiting claim of a tile. -/
def oldestWaiter (s : State) (t : Nat) : Option (Nat × Claim) :=
  ((tileClaims s t).filter fun e => e.2.phase == .waiting).foldl
    (fun b e => match b with
      | some a => if e.2.age < a.2.age then some e else b
      | none => some e) none

/-- R259: the oldest waiter is granted as soon as the free lanes reach its floor: the grant is the next event. -/
def claimReady (s : State) (t : Nat) : State :=
  match oldestWaiter s t with
  | some (n, k) => if k.floor ≤ k.lanes + freeLanes s t then { s with agenda := .ev (.claimGrant n) :: s.agenda } else s
  | none => s

/-- R259: the lanes left to a holder that reaches a re-negotiation point: it gives up groups from the top, down to F, as
many as the waiters need. -/
def reclaimedLanes (s : State) (n : Nat) (k : Claim) : Nat :=
  k.lanes - Nat.min ((lanesNeeded s (tileOf n) + 7) / 8 * 8) (k.lanes - k.floor)

/-- R259: a re-negotiation point of a context with a reclaim pending. -/
def applyReclaim (s : State) (n : Nat) : State :=
  let c := ctxOf s n
  match c.claim with
  | some k => if k.reclaim then claimReady (setCtx s n (shrinkTo c (reclaimedLanes s n k))) (tileOf n) else s
  | none => s

/-- R263: SDL.RELOAD. -/
def Ctx.reload (c : Ctx) : Nat := bits c.sdl.toNat 31 16
/-- R262: SDL.COUNT := RELOAD. -/
def reloadSdl (c : Ctx) : Ctx := { c with sdl := word (c.reload * 65536 + c.reload) }

/-- R381: the entry of kind K into service: the record is written, the bank exchanged (every q latch reads 0), the
fetch buffer emptied, the next bundle at 0x40 K. Results have landed and a reclaim has been applied before. -/
def enterCtx (c : Ctx) (kind : Nat) (cause fpc faddr finfo : Word) : Ctx :=
  let c := { c with fcause := cause, fpc := fpc, faddr := faddr, finfo := finfo }
  let c := { exchange c with q := [] }
  -- a context halted where it is (R401) keeps what it awaits and what its held bundle has been answered
  let here := kind == 6 && cause.toNat % 256 == 0
  { c with phase := .inService, why := (if here then c.why else .none), wait := (if here then c.wait else .nothing)
           fbuf := [], fetching := false, held := if here then c.held else none
           answered := (if here then c.answered else []), attnRun := false, enterNow := false, svc := true
           halted := kind == 6
           pc := if kind = 6 then fpc else word (0x40 * kind) }

/-- R165: an attention instruction under way stops at its step boundary: KVPROG holds ACT and its opcode. -/
def yieldStop (c : Ctx) : Ctx :=
  match c.attnRun, c.held.bind (fun b => b.ops.find? fun o => o.1 == .x) with
  | true, some o => { c with kvprog := word (2 ^ 32 + (opField o.2).toNat * 2 ^ 24 + c.kvprog.toNat % 2 ^ 24), attnRun := false }
  | _, _ => c

/-- R381: a service entry of a context. -/
def enterService (s : State) (n kind : Nat) (cause fpc faddr finfo : Word) : State :=
  let s := applyReclaim (landEvery s n) n
  modCtx s n fun c => enterCtx (yieldStop c) kind cause fpc faddr finfo

/-- R378: a fault raised in service: the record overwrites the old one with NEST, the context parks on fault with its
bank in place, a re-negotiation point (R259), and the fault is posted. -/
def nestedFault (s : State) (n : Nat) (op slot kind : Nat) (f : FaultInfo) (fpc : Word) : State :=
  let s := applyReclaim (landEvery s n) n
  let cause := fcauseWord op true slot kind f.code
  let s := modCtx s n fun c =>
    park { c with fcause := cause, fpc := fpc, faddr := f.addr, finfo := f.info, held := none, answered := [] }
      .fault (.service false)
  post s (partOfCtx s n) 0 (word n) cause

/-- R328, R329: a context becomes a waiter of a slice's monitor on an entry. -/
def armMonitor (s : State) (sl ea kind n : Nat) : State :=
  modSlice s sl fun x =>
    if x.monitors.any (fun m => m.ea == ea && m.kind == kind) then
      { x with monitors := x.monitors.map fun m => if m.ea == ea && m.kind == kind then { m with waiters := n :: m.waiters } else m }
    else { x with monitors := x.monitors ++ [⟨ea, kind, [n]⟩] }

/-- R328: a context stops waiting on monitors; a monitor with no waiter ends. -/
def dropWaiter (s : State) (n : Nat) : State :=
  match (ctxOf s n).wait with
  | .monitor sl _ =>
    modSlice s sl fun x =>
      { x with monitors := (x.monitors.map fun m => { m with waiters := m.waiters.filter (· != n) }).filter fun m => !m.waiters.isEmpty }
  | _ => s

/-- R63, R376, R377: a precise fault of a context's bundle is taken: parked on its monitor, or nested in service, or a
service entry of kind FAULT (of kind HALT for F_BKPT under a debugger, R397). -/
def takeFault (s : State) (n : Nat) (op slot : Nat) (f : FaultInfo) (fpc : Word) : State :=
  let s := correct s f.reads
  let c := ctxOf s n
  match f.mon with
  | some (sl, ea, kind) =>
    let s := applyReclaim (landEvery s n) n
    let cause := fcauseWord op c.svc slot 1 f.code
    let s := modCtx (armMonitor s sl ea kind n) n fun c =>
      park { c with fcause := cause, fpc := fpc, faddr := f.addr, finfo := f.info, held := none, answered := [],
                    attnRun := false } .fault (.monitor sl ea)
    post s (partOfCtx s n) 0 (word n) cause
  | none =>
    if c.svc then nestedFault s n op slot 1 f fpc
    else if f.code = 0x02 ∧ c.dbg then enterService s n 6 (fcauseWord op false slot 6 f.code) fpc f.addr f.info
    else enterService s n 1 (fcauseWord op false slot 1 f.code) fpc f.addr f.info

/-- R383: the return from service, `exch` false after PARK (R387). A context that was idle (R265), or that was halted where
it was parked and still awaits something, is parked again. -/
def returnCtx (c : Ctx) (exch : Bool) : Ctx :=
  let c := if exch then exchange c else c
  let c := reloadSdl c
  let keep := c.held.any fun b => b.addr == c.fpc
  let awaits := c.wait != .nothing && c.halted && c.pc == c.fpc
  { c with phase := (if c.idle = .idle ∨ awaits then .parked else .live)
           why := (if c.idle = .idle then .join else if awaits then c.why else .none)
           wait := (if awaits then c.wait else .nothing), fbuf := [], fetching := false, halted := false, svc := false
           held := if keep then c.held else none, answered := if keep then c.answered else [], pc := c.fpc }

/-- R328, R383: a return from service; a monitor that the context no longer awaits has one waiter less. -/
def returnFrom (s : State) (n : Nat) (exch : Bool) : State :=
  let c := returnCtx (ctxOf s n) exch
  setCtx (if c.wait = .nothing then dropWaiter s n else s) n c

/-- R382: the entry of a context's first pending request, in the order HALT, SWAP, MSG, RECLAIM. -/
def enterPending (s : State) (n : Nat) : State :=
  let c := ctxOf s n
  let next := c.pc
  let drop (r : Req) : State := modCtx s n fun c => { c with reqs := c.reqs.erase r }
  match c.reqs.find? (fun r => r matches .halt) with
  | some r => enterService (drop r) n 6 (fcauseWord 0 false 7 6 0) next 0 0
  | none =>
    match c.reqs.find? (fun r => r matches .swap _) with
    | some (.swap a) => enterService (drop (.swap a)) n 4 (fcauseWord 0 false 7 4 0) next a 0
    | _ =>
      match c.reqs.find? (fun r => r matches .msg _) with
      | some (.msg a) => enterService (drop (.msg a)) n 3 (fcauseWord 0 false 7 3 0) next a 0
      | _ =>
        if (c.claim.map (·.reclaim)).getD false then enterService s n 5 (fcauseWord 0 false 7 5 0) next 0 0 else s

/-- R261: whether a context has a request pending. -/
def hasRequest (c : Ctx) : Bool := !c.reqs.isEmpty || (c.claim.map (·.reclaim)).getD false

/-! ## Answers to an instruction -/

/-- R252: whether a context may issue as far as its own state goes: live, or in service and not halted. -/
def mayIssue (c : Ctx) : Bool :=
  decide (c.phase = .live) || (decide (c.phase = .inService) && !c.halted)
/-- R252, R415: whether a context issues: it is in rotation, on a spindle that is not dead. -/
def issues (s : State) (n : Nat) : Bool := mayIssue (ctxOf s n) && !(spinAt s (spindleOf n)).dead

/-- R252, R415: only a context in rotation or in service issues. -/
def needLive (s : State) (n : Nat) (k : Host.Outcome State Fault Refusal) : Host.Outcome State Fault Refusal :=
  if issues s n then k else .fault .notIssuing

/-- R344, R411: only an agent core of a partition that is not dead runs. -/
def needUnit (s : State) (k : Nat) (o : Host.Outcome State Fault Refusal) : Host.Outcome State Fault Refusal :=
  if (agentAt s k).dead ∨ partOfCore s k = none then .fault .noCore else o

end Sys2Proof.Machine
end

