-- ==== Sys2Proof/Machine/Translate.lean ====
section
/-! DEFINITION. Virtual addresses (R16), page tables (R318 to R321), the home slice (R323), the walk (R324) with its
cache and counters (R326, R333), and what an access to a global physical address meets (R20, R345, R405, R412, R417, R418). -/
namespace Sys2Proof.Machine

/-- What an access needs of a page (R321). -/
inductive Need | load | store | amo | fetch | cpub | fillR | fillW
  deriving DecidableEq, Repr

/-- Whether an access reads, and whether it writes. -/
def Need.reads : Need → Bool
  | .store => false
  | _ => true
def Need.writes : Need → Bool
  | .store | .amo | .fillW => true
  | _ => false
/-- Whether it fills a stash line. -/
def Need.fills : Need → Bool
  | .fillR | .fillW => true
  | _ => false

/-- R16: the canonical addresses, as the rule lists them (log entry 15). -/
def canonical (a : Nat) : Bool := decide (a < 2 ^ 57) || (decide (2 ^ 64 - 2 ^ 57 ≤ a) && decide (a < 2 ^ 64))

/-- R16: what an access that leaves the canonical addresses at a reports as FADDR: a itself when the access starts
there, else the end of the range it crossed. -/
def nonCanonical (a : Nat) : FaultInfo := ⟨0x10, word a, 0, none, []⟩

/-- R16: the address of byte i of an access that starts at ea: it wraps at 2^64. -/
def byteVa (ea i : Nat) : Nat := (ea + i) % 2 ^ 64

/-- R16: the first byte of an access of n bytes that is not canonical, or that lies past 2^64. -/
def canonFault (ea n : Nat) : Option FaultInfo :=
  if !canonical ea then some (nonCanonical ea)
  else if ea < 2 ^ 57 ∧ 2 ^ 57 < ea + n then some ⟨0x10, word (2 ^ 57), 0, none, []⟩
  else if 2 ^ 64 < ea + n then some ⟨0x10, 0, 0, none, []⟩
  else none

/-- R322: the granule bit of a code. -/
def granuleBit (code : Nat) : Nat :=
  match code with
  | 0 => 12 | 1 => 16 | 2 => 21 | 3 => 30 | _ => 36

/-- R323: the mixing of the home hash. -/
def hashMix (x : Nat) : Nat :=
  let x := x * 0xBF58476D1CE4E5B9 % 2 ^ 64
  Nat.xor x (x / 2 ^ 31)

/-- A list in ascending order. -/
def ascending : List Nat → List Nat
  | [] => []
  | x :: xs => (ascending xs).takeWhile (· < x) ++ x :: (ascending xs).dropWhile (· < x)
/-- R323: the slice that a mixed hash chooses of a partition's slices, in ascending order. -/
def pickSlice (slices : List Nat) (x : Nat) : Nat := (ascending slices).getD (bits x 63 32 * slices.length / 2 ^ 32) 0

/-- R323: the home slice of a virtual address. An ASID with no descriptor homes with granule bit 12 (DESIGN CHOICE, log
entry 14). -/
def homeSlice (p : Part) (va asid : Nat) : Nat :=
  let code := match smFind p.asids asid with
    | some d => d.gmap.getD (bits va 56 51) 0
    | none => 0
  let g := granuleBit code
  pickSlice p.conf.slices (hashMix (Nat.xor (bits va 56 g) (asid * 0x9E3779B97F4A7C15 % 2 ^ 64) % 2 ^ 64))

/-- R337: the slice whose KV walker serves a sequence, layer and head. -/
def kvSlice (p : Part) (seq layer head : Nat) : Nat :=
  pickSlice p.conf.slices (hashMix (Nat.xor (seq * 2 ^ 20 + layer * 2 ^ 10 + head) 0xD6E8FEB86659FD93))

/-- R320: the size of the page of a leaf, 0 for a combination that the table does not list. -/
def pageSize (lvl : Nat) (cg : Bool) : Nat :=
  match lvl, cg with
  | 0, false => 2 ^ 12 | 0, true => 2 ^ 16 | 1, false => 2 ^ 21 | 2, false => 2 ^ 30 | 2, true => 2 ^ 36 | _, _ => 0

/-- R319, R320: a valid entry that is malformed at a level. -/
def malformed (s : State) (e lvl : Nat) : Bool :=
  let ppn := bits e 56 12 * 4096
  decide (2 ^ 57 ≤ e) || bits e 11 10 != 0 || bit e 4 || bits e 6 5 == 3 ||
  (if bits e 3 1 == 0 then
     lvl == 0 || bits e 9 4 != 0 || !(paDev ppn == s.dom.devnum.getD 0 && isDram (paLocal ppn))
   else
     let size := pageSize lvl (bit e 9)
     size == 0 || (bit e 2 && bit e 3) || (bit e 2 && !bit e 1) || (bit e 3 && bits e 6 5 != 0) || ppn % (Nat.max size 1) != 0)

/-- R321, R324: the reason a leaf refuses an access: 5 permission, 6 memory type. -/
def refuses (e : Nat) (need : Need) : Option Nat :=
  let r := bit e 1
  let w := bit e 2
  let x := bit e 3
  let mt := bits e 6 5
  let perm : Bool :=
    match need with
    | .load | .fillR => r
    | .store => w
    | .amo | .fillW => r && w
    | .fetch => x
    | .cpub => w || x
  let ty : Bool :=
    match need with
    | .amo => mt != 2
    | .fillR | .fillW => mt == 0
    | _ => true
  if !perm then some 5 else if !ty then some 6 else none

/-- What a walk gives: a leaf with its level and the address of its entry, or a fault: code, reason, level and the entry
that was unusable. -/
inductive WalkRes
  | leaf (e lvl ea : Nat)
  | page (reason lvl : Nat) (watch : Option Nat)
  | perm (reason lvl : Nat)
  | other (f : FaultInfo)
  deriving DecidableEq, Repr

/-- R407: FINFO of F_MEMERR for memory of a local address. -/
def memErrInfo (m : ErrMark) (l : Nat) (tag : Nat) : Nat :=
  let src := if tag = 2 then (if m.high then 5 else 6) else if m.llc then 1 else if l < 2 ^ 39 then 2 else if isHost l then 7 else 3
  if src = 1 ∨ src = 7 then src else src + 256 * (channelOf l % 256)

/-- R404: the code tag of the block of an address. -/
def tagOf (s : State) (a : Nat) : Nat := smGet 0 s.ctag (a / 64)

/-- R405: the report of a bad word of memory at an address, for a reader that is no KV read. -/
def wordError (s : State) (a : Nat) : Option Nat :=
  match smFind s.errs (a / 8) with
  | some m => some (memErrInfo m (paLocal a) (tagOf s a))
  | none => none

/-- R324: the walk from a table at a level. `code` is the region's granule code. -/
def walkFrom (s : State) (p : Part) (va code : Nat) (need : Need) : Nat → Nat → WalkRes
  | 0, _ => .page 3 0 none
  | lvl + 1, t =>
    let ea := t + 8 * bits va (12 + 9 * lvl + 8) (12 + 9 * lvl)
    if !ownsPa s p ea then .other ⟨0x10, word va, 4, none, []⟩
    else
      -- R405, R412: a bad word, or a listed line
      match (if p.loss.contains (ea / 128) then some 4 else wordError s ea) with
      | some i => .other ⟨0x30, word va, word i, none, []⟩
      | none =>
        let e := memDword s ea
        if !bit e 0 then .page 2 lvl (some ea)
        else if malformed s e lvl then .page 3 lvl none
        else if bits e 3 1 = 0 then walkFrom s p va code need lvl (bits e 56 12 * 4096)
        else if 2 ^ granuleBit code < pageSize lvl (bit e 9) then .page 4 lvl none
        else
          match refuses e need with
          | some r => .perm r lvl
          | none => .leaf e lvl ea

/-- R324: the entries that a walk reads. -/
def walkReads (s : State) (p : Part) (va : Nat) : Nat → Nat → List Nat
  | 0, _ => []
  | lvl + 1, t =>
    let ea := t + 8 * bits va (12 + 9 * lvl + 8) (12 + 9 * lvl)
    let e := memDword s ea
    if !ownsPa s p ea then []
    else if bit e 0 && bits e 3 1 == 0 && !malformed s e lvl then ea :: walkReads s p va lvl (bits e 56 12 * 4096)
    else [ea]

/-- R324: the walk of a virtual address under an ASID. -/
def walk (s : State) (p : Part) (asid va : Nat) (need : Need) : WalkRes :=
  match smFind p.asids asid with
  | some d => if d.st = .active then walkFrom s p va (d.gmap.getD (bits va 56 51) 0) need 5 d.root else .page 1 4 none
  | none => .page 1 4 none

/-- R326: the cached leaves that cover an address, the latest first: an entry that has changed is held in its old forms too. -/
def cachedLeaves (sl : Slice) (asid va : Nat) : List TEntry :=
  sl.tcache.filter fun e => e.asid == asid && e.va ≤ va % 2 ^ 57 && va % 2 ^ 57 < e.va + e.size
/-- R326: the latest of them. -/
def cachedLeaf (sl : Slice) (asid va : Nat) : Option TEntry := (cachedLeaves sl asid va).head?

/-- R326: the translation an access uses: the entry as memory holds it, or, until an xinv covers it, a form that it had before;
which of them is unpredictable, for each access anew. -/
def lookup (s : State) (p : Part) (asid va : Nat) (need : Need) : WalkRes :=
  let fresh := walk s p asid va need
  let active := (smFind p.asids asid).map (·.st) == some .active
  match (if active then pickHeld s.freeCount (cachedLeaves (sliceAt s (homeSlice p va asid)) asid va) else none) with
  | some e =>
    match refuses e.leaf need with
    | some r => .perm r e.level
    | none => .leaf e.leaf e.level (e.tableLine * 128)
  | none => fresh

/-- R324, R405: the entries that the walk of an address reads, unless a leaf that covers it is held. -/
def entryReads (s : State) (p : Part) (asid va : Nat) : List Loc :=
  if s.cerrs = [] ∨ (cachedLeaf (sliceAt s (homeSlice p va asid)) asid va).isSome then []
  else
    match smFind p.asids asid with
    | some d => if d.st = .active then (walkReads s p va 5 d.root).map .mem else []
    | none => []

/-- R324: the global physical address of a virtual address under a leaf. -/
def leafPa (e lvl va : Nat) : Nat := bits e 56 12 * 4096 + va % pageSize lvl (bit e 9)

/-- R325: FINFO of a walk's fault. -/
def walkInfo (reason lvl : Nat) (mon : Bool) : Word := word (reason + (if mon then 256 else 0) + lvl * 512)

/-- R328, R329: the slice of an address has a monitor for an entry: one free, or one that watches it already. -/
def monitorFor (s : State) (sl ea kind : Nat) : Option (Nat × Nat × Nat) :=
  let x := sliceAt s sl
  if x.monitors.any (fun m => m.ea == ea && m.kind == kind) || decide (x.monitors.length < 64) then some (sl, ea, kind) else none

/-- R324, R328: the fault of a walk, with the monitor that it arms when the access is one whose walk arms monitors. -/
def walkFault (s : State) (p : Part) (asid va : Nat) (arms : Bool) : WalkRes → Option FaultInfo
  | .leaf .. => none
  | .other f => some (f.after (entryReads s p asid va))
  | .perm r lvl => some ⟨0x14, word va, walkInfo r lvl false, none, entryReads s p asid va⟩
  | .page r lvl w =>
    let mon := match w with
      | some ea => if arms then monitorFor s (homeSlice p va asid) ea 0 else none
      | none => none
    some ⟨0x13, word va, walkInfo r lvl mon.isSome, mon, entryReads s p asid va⟩

/-- R333: the counter of a quadrant goes up; at 4,096 all five are halved first. -/
def bumpCount (cs : List Nat) (quad : Nat) : List Nat :=
  let cs := if cs.length = 5 then cs else [0, 0, 0, 0, 0]
  let cs := if cs.getD quad 0 + 1 = 4096 then cs.map (· / 2) else cs
  cs.set quad (cs.getD quad 0 + 1)

/-- R333: several requests of one quadrant. -/
def bumpCounts (cs : List Nat) (quad times : Nat) : List Nat := (List.range times).foldl (fun cs _ => bumpCount cs quad) cs

/-- R326, R333: the cache entry after requests for so many lines of a page under a leaf; a sealed launch does not count (R365). Other
forms of the entry stay until an `xinv`, and the first of those held shows the page's counters. -/
def noteLines (s : State) (p : Part) (asid va e lvl ea quad : Nat) (sealed : Bool) (times : Nat) : State :=
  let size := pageSize lvl (bit e 9)
  let base := va % 2 ^ 57 / size * size
  modSlice s (homeSlice p va asid) fun x =>
    match (cachedLeaves x asid va).find? fun t => t.leaf == e with
    | some old =>
      let new : TEntry := ⟨asid, base, size, e, lvl, ea / 128, if sealed then old.counts else bumpCounts old.counts quad times⟩
      { x with tcache := new :: x.tcache.filter (· != old) }
    | none =>
      { x with tcache := (⟨asid, base, size, e, lvl, ea / 128, if sealed then [] else bumpCounts [] quad times⟩ :: x.tcache).take 8192 }
/-- The same for one line. -/
def noteLine (s : State) (p : Part) (asid va e lvl ea quad : Nat) (sealed : Bool) : State := noteLines s p asid va e lvl ea quad sealed 1

/-! ## What an access meets at its target -/

/-- R20, R345, R412, R417, R418: what an access of a partition to a global physical address meets before its data:
a code with FINFO, or nothing. `rd` and `wr` tell which rights of a host window it needs (R367). -/
def targetFault (s : State) (p : Part) (pnum a : Nat) (rd wr : Bool) : Option (Nat × Nat) :=
  let l := paLocal a
  if 2 ^ 57 ≤ a then some (0x10, 1)
  else if paDev a ≠ s.dom.devnum.getD 0 then
    if s.dom.devnum = none then some (0x31, 3 * 65536 + paDev a)
    else if !s.dom.present.contains (paDev a) then some (0x10, 2)
    else if s.dom.unreachable.contains (paDev a) || s.dom.fenced.contains (paDev a) then some (0x31, 3 * 65536 + paDev a)
    else if s.dom.owners.any (fun o => o.1 == paDev a && o.2.1 == pnum && o.2.2.1 ≤ l && l < o.2.2.1 + o.2.2.2) then none
    else some (0x10, 5)
  else if isDram l then
    if !ownsLocal p l then some (0x10, 4)
    else if p.loss.contains (a / 128) then some (0x30, 4)
    else none
  else if isHost l then
    if p.linkPhase ≠ .up ∨ !s.hostUp then some (0x32, if p.linkPhase = .discarded then 2 else 1)
    else
      let admits (right : Window → Bool) : Bool := p.windows.any fun w =>
        decide (w.2.base ≤ l - 2 ^ 43) && decide (l - 2 ^ 43 < w.2.base + w.2.size) && right w.2
      if !((!rd || admits (·.r)) && (!wr || admits (·.w))) then some (0x10, 3)
      else if p.loss.contains (a / 128) then some (0x30, 4) else none
  else if isControl l then some (0x10, 6)
  else some (0x10, 1)

end Sys2Proof.Machine
end

