-- ==== Sys2Proof/Machine/Memory.lean ====
section
/-! DEFINITION. Where an access is performed (R207, R208), stash mappings and lines under leases (R215 to R219), the order
of an access's faults (R209), and reading and writing bytes where they lie (R196, R405). -/
namespace Sys2Proof.Machine

/-- R207: the mapping of a tile that holds a virtual address, with its number. -/
def mapAt (t : Tile) (va : Nat) : Option (Nat × Mapping) :=
  t.maps.find? fun e => e.2.base ≤ va && va < e.2.base + e.2.len

/-- R330: whether a tile's mappings serve an ASID: that of the launch's LASID. -/
def mapsServe (s : State) (tile asid : Nat) : Bool :=
  match (tileAt s tile).launch with
  | some l =>
    match smFind s.launches l with
    | some x => x.lasid == asid
    | none => false
  | none => false

/-- R211: the stash offset of an address in a mapping. -/
def stashOff (m : Mapping) (va : Nat) : Nat := m.stoff + (va - m.base)

/-- R217: the line of a virtual address. -/
def lineOf (va : Nat) : Nat := va / 128

/-- R318, R218: the lease class of a page in nanoseconds. -/
def leaseNs (lcl : Nat) : Nat :=
  match lcl with
  | 0 => 64 | 1 => 256 | 2 => 1000 | _ => 4000

/-- A stash byte. -/
def stashByte (s : State) (tile off : Nat) : Byte := smGet 0 (tileAt s tile).stash off
def putStash (s : State) (tile off : Nat) (b : Byte) : State :=
  modTile s tile fun t => { t with stash := smSet 0 t.stash off b }
/-- Stash bytes from an offset. -/
def stashBytes (s : State) (tile off n : Nat) : List Byte := smGetList 0 (tileAt s tile).stash off n
def putStashBytes (s : State) (tile off : Nat) (bs : List Byte) : State :=
  modTile s tile fun t => { t with stash := smSetList 0 t.stash off bs }

/-- R196: a write to a byte behind a stash line clears its line's publish bit. -/
def clearPub (s : State) (pa : Nat) : State :=
  { s with pub := smSet false s.pub (pa / 128) false, publishing := storedTo s.publishing (pa / 128) }

/-- A byte where it lies. -/
def readLoc (s : State) : Loc → Byte
  | .stash t o _ => stashByte s t o
  | .mem a => memByte s a
def writeLoc (s : State) (l : Loc) (b : Byte) : State :=
  match l with
  | .stash t o none => putStash s t o b
  | .stash t o (some a) => clearPub (putStash s t o b) a
  | .mem a => putByte s a b
def readLocs (s : State) (ls : List Loc) : List Byte := ls.map (readLoc s)
def writeLocs (s : State) : List Loc → List Byte → State
  | l :: ls, b :: bs => writeLocs (writeLoc s l b) ls bs
  | _, _ => s

/-- R405: the dwords of memory, and of stashes, that a list of places covers whole. -/
def wholeWords (ls : List Loc) : List Loc :=
  ls.filter fun l =>
    match l with
    | .mem a => a % 8 == 0 && (List.range 8).all fun i => ls.contains (.mem (a + i))
    | .stash t o h => o % 8 == 0 && (List.range 8).all fun i => ls.contains (.stash t (o + i) (h.map (· + i)))
/-- R405: a write that covers a whole word ends its error. -/
def clearWordErrs (s : State) (ls : List Loc) : State :=
  if s.errs = [] ∧ s.serrs = [] ∧ s.cerrs = [] ∧ s.scerrs = [] then s
  else
    (wholeWords ls).foldl (fun s l =>
      match l with
      | .mem a => { s with errs := smDel s.errs (a / 8), cerrs := smDel s.cerrs (a / 8) }
      | .stash t o _ =>
        { s with serrs := smDel s.serrs (stashWordKey t o), scerrs := s.scerrs.filter (· != stashWordKey t o) }) s

/-- R405: home lines are read whole. -/
def correctLines (s : State) (ls : List Nat) : State :=
  if s.cerrs = [] then s else ls.foldl (fun s l => correctAt (correctAt s (128 * l)) (128 * l + 64)) s
/-- R324, R405: a walk that finds no cached leaf reads its entries: their corrected errors are repaired and counted. -/
def correctWalk (s : State) (p : Part) (asid va : Nat) : State :=
  correct s (entryReads s p asid va)
/-- R405: the first bad word of a read, or of a write that covers only part of it, with FINFO. -/
def locError (s : State) (ls : List Loc) (wr : Bool) : Option (Nat × Nat) :=
  if s.errs = [] ∧ s.serrs = [] then none
  else
    let whole := wholeWords ls
    let bad (i : Nat) (l : Loc) : Option (Nat × Nat) :=
      match l with
      | .mem a =>
        match wordError s a with
        | some f => if wr && whole.contains (.mem (a / 8 * 8)) then none else some (i, f)
        | none => none
      | .stash t o h =>
        match smFind s.serrs (stashWordKey t o) with
        | some m =>
          let d := o % 8
          if wr && whole.contains (.stash t (o - d) (h.map (· - d))) then none
          else
            some (i, if m.tag = 2 then (if m.high then 5 else 6) + 256 * ((h.map fun a => channelOf (paLocal a) % 256).getD 0) else 0)
        | none => none
    (ls.zipIdx.findSome? fun e => bad e.2 e.1)

/-! ## Leases (R218, R219, R245) -/

/-- R197: whether a stash holds stores to a home line that have not reached it. -/
def lineDirty (s : State) (pline : Nat) : Bool :=
  s.tiles.any fun e => e.2.lines.any fun l => l.2.home == pline && (l.2.st == .D || l.2.st == .B)

/-- R218, R245: the device times by which the leases on home lines, of stashes and of instruction caches, are over: 4 µs after the
grant, and no earlier than the expiry, which a renewal puts up to a quarter of the class later than that. -/
def leaseEnds (s : State) (ls : List Nat) : List Nat :=
  (s.tiles.flatMap fun e => (e.2.lines.filter fun l => ls.contains l.2.home && l.2.st != .F).map fun l => Nat.max (l.2.got + 4000) l.2.expiry) ++
  (s.ilines.filter fun i => ls.contains i.home).map fun i => Nat.max (i.got + 4000) i.expiry
/-- R194, R218: a requester waits for home lines, or for none; it is served when the last conflicting lease is over (R245). -/
def setWants (s : State) (who : Nat) (ls : List Nat) : State :=
  { s with wants := smSet [] s.wants who ls
           wantBy := match (if ls = [] then [] else leaseEnds s ls) with
             | [] => smDel s.wantBy who
             | t :: ts => smIns s.wantBy who (ts.foldl Nat.max t) }
/-- R218: whether a request waits on a home line. -/
def requestWaits (s : State) (pline : Nat) : Bool :=
  s.wants.any (fun e => e.2.contains pline) ||
  s.tiles.any fun e => e.2.lines.any fun l => l.2.st == .F && l.2.home == pline
/-- R332, R340: whether the leases of a virtual line of a tile are to end: its ASID retires, or an `xinv` waits for them. -/
def leaseEnding (s : State) (tile vline : Nat) : Bool :=
  match (tileAt s tile).launch.bind (smFind s.launches) with
  | none => false
  | some x =>
    ((partAt s x.part).any fun p => (smFind p.asids x.lasid).any fun a => a.st == .retiring) ||
    s.ctxs.any fun e =>
      partOfCtx s e.1 == x.part &&
      (match e.2.wait with
       | .leases a lo hi _ => a == x.lasid && decide (lo ≤ vline * 128 % 2 ^ 57) && decide (vline * 128 % 2 ^ 57 < hi)
       | _ => false)
/-- R332, R340: whether a stash or an instruction cache of a partition holds a lease, granted before a time of the state's counter,
on a line of an ASID in a range of virtual addresses. -/
def leasesOut (s : State) (pnum asid lo hi before : Nat) : Bool :=
  let inside (vline : Nat) : Bool := decide (lo ≤ vline * 128 % 2 ^ 57) && decide (vline * 128 % 2 ^ 57 < hi)
  (s.tiles.any fun e =>
    partOfTile s e.1 == some pnum && mapsServe s e.1 asid &&
    e.2.lines.any fun l => inside l.1 && decide (l.2.born < before) && l.2.holds s.time true) ||
  s.ilines.any fun i => i.part == pnum && i.asid == asid && inside i.vline && decide (i.born < before) && decide (s.time < i.expiry)
/-- R218: whether the home renews the lease of a stash line: unless a request waits on it. -/
def renews (s : State) (tile vline : Nat) (l : Line) : Bool := !requestWaits s l.home && !leaseEnding s tile vline

/-- R219: whether a line's lease permits an access. -/
def linePermits (st : LineSt) (wr : Bool) : Bool :=
  match st with
  | .S => !wr
  | .W | .D => true
  | .F | .B => false

/-- R412: a line enters the loss list of a partition and is posted; a 4,097th entry resets the partition. -/
def addLoss (s : State) (pnum pline : Nat) : State :=
  match partAt s pnum with
  | none => s
  | some p =>
    if p.loss.contains pline then s
    else if 4096 ≤ p.loss.length then { s with agenda := .ev (.partitionReset pnum) :: s.agenda }
    else post (setPart s pnum { p with loss := p.loss ++ [pline] }) pnum 5 (word (pline * 128)) 0

/-- The dwords of a stash line with an error. -/
def lineErrs (s : State) (tile off : Nat) : SMap ErrMark :=
  let k := stashWordKey tile off
  s.serrs.filter fun e => decide (k ≤ e.1) && decide (e.1 < k + 16)
/-- A stash line's errors end with its data. -/
def dropLineErrs (s : State) (tile off : Nat) : State :=
  let k := stashWordKey tile off
  { s with serrs := s.serrs.filter fun e => !(decide (k ≤ e.1) && decide (e.1 < k + 16))
           scerrs := s.scerrs.filter fun e => !(decide (k ≤ e) && decide (e < k + 16)) }

/-- R219, R406: a dirty line's 128 bytes go to its home as one write; with an uncorrectable word the line enters the
loss list instead. -/
def writeBackData (s : State) (tile off pline : Nat) : State :=
  let pnum := (partOfTile s tile).getD 0
  if lineErrs s tile off = [] then putHomeAs true s pnum (pline * 128) (stashBytes s tile off 128)
  else dropLineErrs (addLoss s pnum pline) tile off

/-- R412: whether a line's write-back enters its home into the loss list: the line then leaves the stash. -/
def backLost (s : State) (tile off : Nat) : Bool := lineErrs s tile off != []

/-- R217, R219: a line filled from its home, or with zeros in a zero mapping. -/
def fillData (s : State) (tile off pline mode : Nat) : State :=
  let s := dropLineErrs s tile off
  if mode = 1 then clearPub (putStashBytes s tile off (List.replicate 128 0)) (pline * 128)
  else
    let s := correctAt (correctAt s (128 * pline)) (128 * pline + 64)
    putStashBytes s tile off (memBytes s (pline * 128) 128)
/-- R404: the code tags of a line's two blocks. -/
def lineTags (s : State) (pline : Nat) : Nat := tagOf s (128 * pline) + 4 * tagOf s (128 * pline + 64)
/-- R408: the first dword of a line with an uncorrectable error, with FINFO: a fill takes the report. -/
def fillError (s : State) (pline : Nat) : Option (Nat × Nat) :=
  if s.errs = [] then none else (List.range 16).findSome? fun i => (wordError s (128 * pline + 8 * i)).map fun f => (i, f)
/-- R226: a line that a copy writes whole is not filled: no word is read, corrected or found bad. A byte not yet delivered
reads as before (R229). -/
def wholeData (s : State) (tile off pline : Nat) : State :=
  putStashBytes (dropLineErrs s tile off) tile off (memBytes s (pline * 128) 128)

def setLine (s : State) (tile vline : Nat) (l : Line) : State :=
  modTile s tile fun t => { t with lines := smIns t.lines vline l }
def dropLine (s : State) (tile vline : Nat) : State :=
  modTile s tile fun t => { t with lines := smDel t.lines vline }

/-- How an access is made: by which context, under which ASID and policy, and whether the home has answered. -/
structure Req6 where
  ctx : Nat
  asid : Nat
  need : Need
  nc : Bool
  answered : Bool
  /-- R398: a load, store or atomic, which watchpoints see -/
  watch : Bool
  /-- R215: how many mappings had been entered when the access began, if it is one in flight -/
  maps : Option Nat
  deriving DecidableEq, Repr

/-- What an access comes to. -/
inductive AccRes
  | ok (s : State) (locs : List Loc)
  /-- it waits for lines, or for other agents' leases on the home lines named -/
  | hold (s : State) (homes : List Nat)
  | fault (f : FaultInfo)
  deriving DecidableEq, Repr

/-- R209 step 5 for one byte: its global physical address, or its fault. A stash line of memory on another device is refused
(R210). -/
def resolveByte (s : State) (p : Part) (asid : Nat) (arms : Bool) (va : Nat) (need : Need) : Except FaultInfo Nat :=
  match lookup s p asid va need with
  | .leaf e lvl _ =>
    let a := leafPa e lvl va
    if need.fills && paDev a != s.dom.devnum.getD 0 then .error ⟨0x14, word va, walkInfo 6 lvl false, none, []⟩ else .ok a
  | w => .error ((walkFault s p asid va arms w).getD ⟨0x13, word va, 0, none, []⟩)

/-- R209 step 5 for bytes in address order, each with what it needs: their places, or the first fault. The last page walked is
kept for the next byte. -/
def resolveAll (s : State) (p : Part) (asid : Nat) (arms : Bool) :
    List (Nat × Need) → Option (Nat × Need × Nat) → List (Nat × Nat × Need) → Except FaultInfo (List (Nat × Nat × Need))
  | [], _, acc => .ok acc.reverse
  | (va, need) :: vas, last, acc =>
    match last.filter fun l => l.1 == va / 4096 && l.2.1 == need with
    | some l => resolveAll s p asid arms vas last ((va, l.2.2 + va % 4096, need) :: acc)
    | none =>
      match resolveByte s p asid arms va need with
      | .ok a => resolveAll s p asid arms vas (some (va / 4096, need, a - va % 4096)) ((va, a, need) :: acc)
      | .error f => .error (f.after (acc.flatMap fun e => entryReads s p asid e.1))

/-- R209 step 5 for bytes that need the same. -/
def resolveHome (s : State) (p : Part) (asid : Nat) (need : Need) (arms : Bool) (vas : List Nat) : Except FaultInfo (List (Nat × Nat)) :=
  match resolveAll s p asid arms (vas.map fun va => (va, need)) none [] with
  | .error f => .error f
  | .ok l => .ok (l.map fun e => (e.1, e.2.1))

/-- R209 step 6: the first byte of a list that meets a fault at its target. -/
def targetFirst (s : State) (p : Part) (pnum : Nat) (l : List (Nat × Nat × Need)) : Option FaultInfo :=
  l.findSome? fun e =>
    (targetFault s p pnum e.2.1 e.2.2.reads e.2.2.writes).map fun f => (⟨f.1, word e.1, word f.2, none, []⟩ : FaultInfo)
/-- R209 step 6 for bytes that need the same. -/
def targetCheck (s : State) (p : Part) (pnum : Nat) (need : Need) (vps : List (Nat × Nat)) : Option FaultInfo :=
  targetFirst s p pnum (vps.map fun e => (e.1, e.2, need))

/-- R209 steps 4 to 6 for a range served at its home: virtual and physical addresses of its bytes. -/
def resolveRange (s : State) (p : Part) (pnum asid : Nat) (need : Need) (arms : Bool) (ea n : Nat) :
    Except FaultInfo (List (Nat × Nat)) :=
  match canonFault ea n with
  | some f => .error f
  | none =>
    match resolveHome s p asid need arms ((List.range n).map (byteVa ea)) with
    | .error f => .error f
    | .ok vps =>
      match targetCheck s p pnum need vps with
      | some f => .error (f.after (vps.flatMap fun e => entryReads s p asid e.1))
      | none => .ok vps

/-- R333: the request is counted once for each line that it touches. -/
def noteRange (s : State) (p : Part) (asid : Nat) (need : Need) (quad : Nat) (sealed : Bool) (vas : List Nat) : State :=
  (vas.zipIdx.filter fun e => e.2 == 0 || e.1 % 128 == 0).foldl (fun s e =>
    match lookup s p asid e.1 need with
    | .leaf l lvl ea => noteLine (correctWalk s p asid e.1) p asid e.1 l lvl ea quad sealed
    | _ => s) s

/-- R398: the watched byte that an access of a context meets, with its watchpoint. -/
def watchHit (c : Ctx) (ea n : Nat) (rd wr : Bool) : Option FaultInfo :=
  if c.svc then none
  else
    (c.watch.filterMap fun w =>
      if ((rd && w.2.rd) || (wr && w.2.wr)) && decide (0 < w.2.len) && decide (ea < w.2.base + w.2.len) && decide (w.2.base < ea + n)
      then some (Nat.max ea w.2.base, w.1) else none).foldl
      (fun best e =>
        match best with
        | some (f : FaultInfo) => if e.1 < f.addr.toNat then some ⟨0x03, word e.1, word (e.2 + if wr then 4 else 0), none, []⟩ else best
        | none => some ⟨0x03, word e.1, word (e.2 + if wr then 4 else 0), none, []⟩) none

/-- R218, R219: the lines of backed and zero mappings that a range touches, by virtual line. -/
def touchedLines (t : Tile) (ea n : Nat) : List (Nat × Mapping) :=
  let first := lineOf ea
  let last := lineOf (ea + n - 1)
  (List.range (last + 1 - first)).filterMap fun i =>
    match mapAt t (Nat.max ea ((first + i) * 128)) with
    | some (_, m) => if m.mode = 2 then none else some (first + i, m)
    | none => none

/-- R219: whether a line is held under a lease that permits an access: a dirty line until its data is accepted, a clean one
until T. -/
def lineServes (l : Line) (time : Nat) (wr : Bool) : Bool :=
  linePermits l.st wr && (l.st == .D || decide (time < l.expiry))
/-- The same for a virtual line of a tile. -/
def lineHeld (s : State) (t : Tile) (vline : Nat) (wr : Bool) : Bool :=
  (smFind t.lines vline).any fun l => lineServes l s.time wr

/-- R218: the home line of a line whose home is not known yet: no request waits on it. -/
def noHome : Nat := 2 ^ 64
/-- R219: a line that waits for its lease. -/
def Line.asked (home : Nat) (wr whole : Bool) : Line := ⟨.F, 0, 0, home, false, wr, 0, whole, 0, 0⟩

/-- R219: a line that an access finds without a lease that permits it asks for one: it goes to F; one in B stays. -/
def requestLine (s : State) (tile vline : Nat) (wr : Bool) : State :=
  match smFind (tileAt s tile).lines vline with
  | none => setLine s tile vline (.asked noHome wr false)
  | some l =>
    if l.st = .F then setLine s tile vline { l with wr := l.wr || wr, whole := false }
    else if l.st = .B ∨ lineServes l s.time wr then s
    else setLine s tile vline (.asked noHome wr false)

/-- What a fill needs (R321): a zero mapping's is a write (R217). -/
def fillNeed (m : Mapping) (wr : Bool) : Need := if wr || m.mode == 1 then .fillW else .fillR

/-- How lines are acquired: by a tile under an ASID, for an access that starts at an address and touches the lines `mine`;
`whole` are those that it writes whole, without a fill (R226). -/
structure Acq where
  pnum : Nat
  tile : Nat
  asid : Nat
  ea : Nat
  wr : Bool
  mine : List Nat
  whole : List Nat
  deriving DecidableEq, Repr

/-- R217, R219, R321: a line's grant: the fill's walk, its checks, its data. The result is D for a write and for a zero
mapping, S for a read. FADDR is the lowest byte of the line that the access touches (R209). -/
def acquireLine (s : State) (p : Part) (q : Acq) (vline : Nat) (m : Mapping) : AccRes :=
  let va := Nat.max q.ea (vline * 128)
  let need := fillNeed m q.wr
  match resolveByte s p q.asid true va need with
  | .error f => .fault f
  | .ok a =>
    match targetFault s p q.pnum a need.reads need.writes with
    | some (c, i) => .fault ⟨c, word va, word i, none, entryReads s p q.asid va⟩
    | none =>
      let pline := a / 128
      let whole := q.whole.contains vline && m.mode == 0
      if lineConflict s (fun t v => t == q.tile && q.mine.contains v) pline need.writes || l2Bad s none pline then
        .hold (setLine s q.tile vline (.asked pline q.wr whole)) [pline]
      else
        match (if whole || m.mode == 1 then none else fillError s pline), lookup s p q.asid va need with
        | some (i, f), _ =>
          .fault ⟨0x30, word (Nat.max va (vline * 128 + 8 * i)), word f, none, entryReads s p q.asid va ++ (List.range i).map fun j => .mem (128 * pline + 8 * j)⟩
        | none, .leaf e lvl ea =>
          let lease := leaseNs (bits e 8 7)
          let off := stashOff m (vline * 128)
          let s := if whole then wholeData s q.tile off pline else fillData s q.tile off pline m.mode
          let s := noteLine (correctWalk s p q.asid va) p q.asid va e lvl ea (q.tile / 48) (isSealed s (128 * q.tile))
          .ok (setLine s q.tile vline ⟨if need.writes then .D else .S, s.time + lease, lease, pline, false, false, s.freeCount, false, lineTags s pline, s.time⟩) []
        | none, _ => .hold s []

/-- R218: a touch of a held line: a write makes it D, and a touch that finds less than a quarter of the class left renews
the lease, if the home grants it. -/
def touchLine (s : State) (tile vline : Nat) (wr : Bool) : State :=
  match smFind (tileAt s tile).lines vline with
  | none => s
  | some l =>
    let l := if wr && l.st == .W then { l with st := .D } else l
    let l := if (l.expiry - s.time) * 4 < l.lease ∧ renews s tile vline l then { l with expiry := l.expiry + l.lease, got := s.time } else l
    setLine s tile vline l

/-- Every line of a list is acquired, in order; the first that holds or faults ends it. -/
def acquireLines (s : State) (p : Part) (q : Acq) : List (Nat × Mapping) → AccRes
  | [] => .ok s []
  | (v, m) :: ls =>
    if lineHeld s (tileAt s q.tile) v q.wr then acquireLines (touchLine s q.tile v q.wr) p q ls
    else if (smFind (tileAt s q.tile).lines v).any fun l => l.st == .B then .hold s []
    else
      match acquireLine s p q v m with
      | .ok s _ => acquireLines s p q ls
      | r => r

/-- R210: a `.nc` access writes back the dirty lines that it touches and drops them. -/
def ncDrop (s : State) (tile : Nat) (ls : List (Nat × Mapping)) : State :=
  ls.foldl (fun s e =>
    match smFind (tileAt s tile).lines e.1 with
    | some l =>
      let s := if l.st = .D ∨ l.st = .B then writeBackData s tile (stashOff e.2 (e.1 * 128)) l.home else s
      dropLine s tile e.1
    | none => s) s

/-- R215: the tile as an access sees it that began when a number of mappings had been entered. -/
def tileView (s : State) (tile : Nat) (maps : Option Nat) : Tile :=
  let t := tileAt s tile
  match maps with
  | none => t
  | some k => { t with maps := t.maps.filter fun e => decide (e.2.born < k) }

/-- R208: whether a range is a stash hit: every byte in a scratch mapping or in a line held under a lease that permits the
access. -/
def stashHit (s : State) (t : Tile) (ea n : Nat) (wr : Bool) : Bool :=
  (List.range n).all fun i =>
    match mapAt t (byteVa ea i) with
    | some (_, m) => m.mode == 2 || lineHeld s t (lineOf (byteVa ea i)) wr
    | none => false

/-- The place of a byte in the stash, if its mapping holds it. -/
def stashLoc (s : State) (tile : Nat) (t : Tile) (va : Nat) : Option Loc :=
  match mapAt t va with
  | some (_, m) =>
    if m.mode = 2 then some (.stash tile (stashOff m va) none)
    else
      match smFind (tileAt s tile).lines (lineOf va) with
      | some l => some (.stash tile (stashOff m va) (some (l.home * 128 + va % 128)))
      | none => some (.stash tile (stashOff m va) none)
  | none => none

/-- R207, R210: what a byte of an access is walked for: nothing in scratch and in a line that serves it, its line's fill, or
the access itself at its home. -/
def byteNeed (s : State) (t : Tile) (serve nc : Bool) (need : Need) (va : Nat) : Option Need :=
  match (if serve then mapAt t va else none) with
  | some (_, m) =>
    if m.mode = 2 then none
    else if nc then some need
    else if lineHeld s t (lineOf va) need.writes then none else some (fillNeed m need.writes)
  | none => some need

/-- R209 step 6: of bytes in address order, the lowest that meets a fault at its target or an uncorrectable word before
that one. -/
def targetStep (s : State) (p : Part) (r : Req6) (t : Tile) (vas : List Nat) (items : List (Nat × Nat × Need)) : Option FaultInfo :=
  match targetFirst s p (partOfCtx s r.ctx) items with
  | none => none
  | some f =>
    let before := vas.takeWhile fun va => word va != f.addr
    let locs := before.filterMap fun va =>
      match items.find? fun e => e.1 == va with
      | some e => some (Loc.mem e.2.1)
      | none => stashLoc s (tileOf r.ctx) t va
    match locError s locs (r.need == .store) with
    | some (i, g) => some ⟨0x30, word (before.getD i 0), word g, none, []⟩
    | none => some f

/-- R207 to R209: a data access of a context to n bytes at ea. It is a stash hit, or is held until the home has answered,
or is then performed or faults. -/
def access (s : State) (r : Req6) (ea n : Nat) : AccRes :=
  let tile := tileOf r.ctx
  let wr := r.need.writes
  let serve := mapsServe s tile r.asid
  let t := tileView s tile r.maps
  let vas := (List.range n).map (byteVa ea)
  let scratch (va : Nat) : Bool := serve && (match mapAt t va with | some (_, m) => m.mode == 2 | none => false)
  match (if vas.all scratch then none else canonFault ea n) with
  | some f => .fault f
  | none =>
    match (if r.watch then watchHit (ctxOf s r.ctx) ea n (r.need != .store) wr else none) with
    | some f => .fault f
    | none =>
      let touched := if serve && n != 0 then touchedLines t ea n else []
      let lines := if r.nc then [] else touched
      if n == 0 || (serve && (!r.nc || touched == []) && stashHit s t ea n wr) then
        let s := lines.foldl (fun s e => touchLine s tile e.1 wr) s
        let locs := vas.filterMap (stashLoc s tile t)
        match locError s locs (wr && r.need != .amo) with
        | some (i, f) => .fault ⟨0x30, word (byteVa ea i), word f, none, locs.take i⟩
        | none => .ok (correct s locs) locs
      else if !r.answered then .hold (lines.foldl (fun s e => requestLine s tile e.1 wr) s) []
      else
        let pnum := partOfCtx s r.ctx
        match partAt s pnum with
        | none => .fault ⟨0x13, word ea, walkInfo 1 4 false, none, []⟩
        | some p =>
          match resolveAll s p r.asid true (vas.filterMap fun va => (byteNeed s t serve r.nc r.need va).map fun nd => (va, nd)) none [] with
          | .error f => .fault f
          | .ok items =>
            let walked := items.flatMap fun e => entryReads s p r.asid e.1
            match targetStep s p r t vas items with
            | some f => .fault (f.after walked)
            | none =>
              let homes := items.filter fun e => !e.2.2.fills
              let s := ncDrop s tile (if r.nc then touched else [])
              match (homes.map fun e => e.2.1 / 128).filter fun l => homeConflict s l wr with
              | h :: hs => .hold s (h :: hs)
              | [] =>
                match acquireLines s p ⟨pnum, tile, r.asid, ea, wr, lines.map (·.1), []⟩ lines with
                | .ok s _ =>
                  let locs := vas.filterMap fun va =>
                    match homes.find? fun e => e.1 == va with
                    | some e => some (Loc.mem e.2.1)
                    | none => stashLoc s tile t va
                  match locError s locs (wr && r.need != .amo) with
                  | some (i, f) => .fault ⟨0x30, word (byteVa ea i), word f, none, walked ++ locs.take i⟩
                  | none => .ok (noteRange (correct s locs) p r.asid r.need (dieOf r.ctx) (isSealed s r.ctx) (homes.map (·.1))) locs
                | r => r

/-- The bytes at places are written, ending the errors of the words covered whole. -/
def storeLocs (s : State) (ls : List Loc) (bs : List Byte) : State := clearWordErrs (writeLocs s ls bs) ls

/-- The first address of a range that no mapping of a tile holds; a tile has at most 64 mappings (R215). -/
def firstGap (t : Tile) : Nat → Nat → Nat → Option Nat
  | 0, va, stop => if va < stop then some va else none
  | k + 1, va, stop =>
    if stop ≤ va then none
    else
      match mapAt t va with
      | some (_, m) => firstGap t k (m.base + m.len) stop
      | none => some va

/-- R161, R231: an access that must lie in stash mappings: the first byte outside every mapping, if any. -/
def unmapped (s : State) (tile asid ea n : Nat) : Option Nat :=
  if n = 0 then none
  else if mapsServe s tile asid then (firstGap (tileAt s tile) 65 ea (ea + n)).map (· % 2 ^ 64)
  else some ea

end Sys2Proof.Machine
end

