-- ==== Sys2Proof/Machine/Num.lean ====
section
/-! DEFINITION. Number formats (R73 to R76), rounding (R78 to R82), special values and overflow (R83 to R85), special
functions (R97). An exact value is a sign and a ratio of naturals; every rounding is one call of `roundTo`. -/
namespace Sys2Proof.Machine

/-- An exact real or special value. A finite value is n/d in magnitude, with n and d above 0. -/
inductive FV
  | nan
  | inf (neg : Bool)
  | zero (neg : Bool)
  | fin (neg : Bool) (n d : Nat)
  deriving DecidableEq, Repr

/-- How a format treats infinities and NaN (R73, R84). -/
inductive FKind | ieee | e4m3 | e5m2 | small
  deriving DecidableEq, Repr

/-- R73: a floating-point format. -/
structure Fmt where
  kind : FKind
  eb : Nat
  mb : Nat
  bias : Nat
  deriving DecidableEq, Repr

def f32 : Fmt := ⟨.ieee, 8, 23, 127⟩
def f16 : Fmt := ⟨.ieee, 5, 10, 15⟩
def bf16 : Fmt := ⟨.ieee, 8, 7, 127⟩
def f8e4 : Fmt := ⟨.e4m3, 4, 3, 7⟩
def f8e5 : Fmt := ⟨.e5m2, 5, 2, 15⟩
def f6e3 : Fmt := ⟨.small, 3, 2, 3⟩
def f6e2 : Fmt := ⟨.small, 2, 3, 1⟩
def f4 : Fmt := ⟨.small, 2, 1, 1⟩

/-- R39: the format of a floating-point type code, block-scaled codes included. -/
def fmtOf (t : Nat) : Option Fmt :=
  match t with
  | 0x10 => some f32 | 0x11 => some f16 | 0x12 => some bf16
  | 0x13 => some f8e4 | 0x14 => some f8e5 | 0x15 => some f6e3 | 0x16 => some f6e2 | 0x17 => some f4
  | 0x33 => some f8e4 | 0x34 => some f8e5 | 0x35 => some f6e3 | 0x36 => some f6e2 | 0x37 => some f4
  | _ => none

/-- R39: whether a type code is block-scaled. -/
def isMx (t : Nat) : Bool := 0x33 ≤ t && t ≤ 0x37

/-- The width of a format's code. -/
def Fmt.width (f : Fmt) : Nat := 1 + f.eb + f.mb

/-- R73: the largest finite magnitude, as a code without sign. -/
def Fmt.maxCode (f : Fmt) : Nat :=
  match f.kind with
  | .ieee | .e5m2 => (2 ^ f.eb - 1) * 2 ^ f.mb - 1
  | .e4m3 => 0x7E
  | .small => 2 ^ (f.eb + f.mb) - 1

/-- R73: the code of infinity without sign. -/
def Fmt.infCode (f : Fmt) : Nat := (2 ^ f.eb - 1) * 2 ^ f.mb

/-- R83: the canonical NaN. -/
def Fmt.nanCode (f : Fmt) : Nat :=
  match f.kind with
  | .ieee | .e5m2 => f.infCode + 2 ^ (f.mb - 1)
  | .e4m3 => 0x7F
  | .small => 0

/-- n × 2^k as a ratio, for an integer k. -/
def scale2 (n : Nat) (k : Int) : Nat × Nat := if 0 ≤ k then (n * 2 ^ k.toNat, 1) else (n, 2 ^ (-k).toNat)

/-- A finite value from a sign and a ratio. -/
def mkFin (neg : Bool) (n d : Nat) : FV := if n = 0 then .zero neg else .fin neg n d

/-- R73: the value of a code. -/
def decodeF (f : Fmt) (c : Nat) : FV :=
  let neg := bit c (f.eb + f.mb)
  let e := c / 2 ^ f.mb % 2 ^ f.eb
  let m := c % 2 ^ f.mb
  let fin (_ : Unit) : FV :=
    let (n, d) := if e = 0 then scale2 m (1 - (f.bias : Int) - f.mb) else scale2 (2 ^ f.mb + m) ((e : Int) - f.bias - f.mb)
    mkFin neg n d
  match f.kind with
  | .ieee | .e5m2 => if e = 2 ^ f.eb - 1 then (if m = 0 then .inf neg else .nan) else fin ()
  | .e4m3 => if c % 128 = 0x7F then .nan else fin ()
  | .small => fin ()

/-- The sign of a value; NaN counts as positive. -/
def FV.neg : FV → Bool
  | .nan => false
  | .inf s => s
  | .zero s => s
  | .fin s _ _ => s

/-- The value with its sign flipped. -/
def FV.flip : FV → FV
  | .nan => .nan
  | .inf s => .inf !s
  | .zero s => .zero !s
  | .fin s n d => .fin (!s) n d

/-- A finite value as an integer numerator over a denominator. -/
def FV.ratio : FV → Int × Nat
  | .fin s n d => (if s then -(n : Int) else n, d)
  | _ => (0, 1)

/-- The finite value of an integer numerator over a denominator, the zero with the sign given. -/
def ofRatio (n : Int) (d : Nat) (zneg : Bool) : FV :=
  if n = 0 then .zero zneg else .fin (decide (n < 0)) n.natAbs d

/-! ## Rounding -/

/-- R89: flag bits. -/
def fNV : BitVec 5 := 16
def fDZ : BitVec 5 := 8
def fOF : BitVec 5 := 4
def fUF : BitVec 5 := 2
def fNX : BitVec 5 := 1
/-- R90: saturation bits. -/
def sFS : BitVec 2 := 2
def sIS : BitVec 2 := 1

/-- A rounded result: its code, the flags and the saturation bits it raises. -/
structure RR where
  code : Nat
  ff : BitVec 5 := 0
  sf : BitVec 2 := 0
  deriving DecidableEq, Repr

/-- R78: the rounding modes. -/
inductive RM | rne | rtz | rdn | rup | rna | sr
  deriving DecidableEq, Repr

/-- R78: the mode of a code; 7 is RMODE.RM, given. -/
def rmOf (code dyn : Nat) : RM :=
  match (if code = 7 then dyn else code) with
  | 1 => .rtz | 2 => .rdn | 3 => .rup | 4 => .rna | 5 => .sr | _ => .rne

/-- floor(log2(n / d)), n and d above 0. -/
def log2Ratio (n d : Nat) : Int :=
  let k : Int := (n.log2 : Int) - d.log2
  -- 2^(k-1) < n/d < 2^(k+1)
  let (a, b) := scale2 1 k
  if n * b < a * d then k - 1 else k

/-- R78, R81: whether a magnitude k + r/q, 0 ≤ r < q, rounds away from k. s is the LFSR state, for SR. -/
def roundsUp (m : RM) (neg : Bool) (k r q s : Nat) : Bool :=
  match m with
  | .rne => decide (q < 2 * r) || (decide (2 * r = q) && k % 2 == 1)
  | .rtz => false
  | .rdn => neg && decide (0 < r)
  | .rup => !neg && decide (0 < r)
  | .rna => decide (q ≤ 2 * r)
  | .sr => decide (0 < r) && decide (q * 2 ^ 32 ≤ r * 2 ^ 32 + s * q)

/-- The magnitude n/d rounded to a multiple of 2^qe: the multiple, and whether it is exact. -/
def roundGrid (m : RM) (neg : Bool) (n d : Nat) (qe : Int) (s : Nat) : Nat × Bool :=
  let (a, b) := scale2 1 qe
  let num := n * b
  let den := d * a
  let k := num / den
  let r := num % den
  (if roundsUp m neg k r den s then k + 1 else k, r == 0)

/-- The code, sign apart, of k × 2^qe where qe is a quantum of the format. -/
def gridCode (f : Fmt) (k : Nat) (qe : Int) : Nat :=
  -- k < 2^(mb+1) + 1; a carry to 2^(mb+1) moves one binade up
  let e := (qe + f.mb + f.bias).toNat      -- the biased exponent of a normal with this quantum
  if k < 2 ^ f.mb then k else (e - 1) * 2 ^ f.mb + k

/-- R79, R84, R85: an exact value rounded once to a format in a mode; `ovf` is the overflow selector, `fz` RMODE.FZ. -/
def roundTo (f : Fmt) (m : RM) (ovf fz : Bool) (s : Nat) (x : FV) : RR :=
  let sg (neg : Bool) (c : Nat) : Nat := if neg then c + 2 ^ (f.eb + f.mb) else c
  match x with
  | .nan => if f.kind = .small then ⟨0, fNV, 0⟩ else ⟨f.nanCode, 0, 0⟩
  | .zero neg => ⟨sg neg 0, 0, 0⟩
  | .inf neg =>
    match f.kind with
    | .ieee => ⟨sg neg f.infCode, 0, 0⟩
    | .e4m3 => if ovf then ⟨0x7F, fOF, 0⟩ else ⟨sg neg f.maxCode, fOF, sFS⟩
    | .e5m2 => if ovf then ⟨sg neg f.infCode, 0, 0⟩ else ⟨sg neg f.maxCode, fOF, sFS⟩
    | .small => ⟨sg neg f.maxCode, fOF, sFS⟩
  | .fin neg n d =>
    let e := log2Ratio n d
    let emin : Int := 1 - f.bias
    let qe := (if e < emin then emin else e) - f.mb
    let (k, exact) := roundGrid m neg n d qe s
    -- tininess: rounded with the exponent range unbounded
    let (ku, _) := roundGrid m neg n d (e - f.mb) s
    let tiny := decide (e < emin) && !(decide (e = emin - 1) && decide (ku = 2 ^ (f.mb + 1)))
    let code := gridCode f k qe
    if tiny && fz then ⟨sg neg 0, fUF ||| fNX, 0⟩
    else if f.maxCode < code then
      match f.kind with
      | .e4m3 => if ovf then ⟨0x7F, fOF ||| fNX, 0⟩ else ⟨sg neg f.maxCode, fOF ||| fNX, sFS⟩
      | .small => ⟨sg neg f.maxCode, fOF ||| fNX, sFS⟩
      | .e5m2 | .ieee =>
        if f.kind = .e5m2 && !ovf then ⟨sg neg f.maxCode, fOF ||| fNX, sFS⟩
        else
          let away : Bool :=
            match m with
            | .rne | .rna => true
            | .rtz => false
            | .rdn => neg
            | .rup => !neg
            | .sr => decide ((roundGrid .rtz neg n d qe s).1 < k)
          ⟨sg neg (if away then f.infCode else f.maxCode), fOF ||| fNX, 0⟩
    else
      ⟨sg neg code, (if exact then 0 else fNX) ||| (if tiny && !exact then fUF else 0), 0⟩

/-- R80: a rounding away from the context's state: RNE, subnormals kept, no selector, no flag. -/
def rne (f : Fmt) (x : FV) : Nat := (roundTo f .rne false false 0 x).code

/-- R81: one step of a lane's LFSR. -/
def lfsrStep (s : Nat) : Nat := if s % 2 = 1 then Nat.xor (s / 2) 0x80200003 else s / 2

/-- R81: the state a lane is given from SEED. -/
def seedLane (seed l : Nat) : Nat :=
  let s := Nat.xor (seed % 2 ^ 32) ((l + 1) * 0x9E3779B9 % 2 ^ 32)
  if s = 0 then 1 else s

/-! ## Exact arithmetic (R83) -/

/-- R83: the sign of an exact zero sum in a mode. -/
def zeroSign (m : RM) : Bool := m == .rdn

/-- R83: an exact sum, with the flags of an invalid one. -/
def addF (m : RM) (x y : FV) : FV × BitVec 5 :=
  match x, y with
  | .nan, _ => (.nan, 0)
  | _, .nan => (.nan, 0)
  | .inf a, .inf b => if a = b then (.inf a, 0) else (.nan, fNV)
  | .inf a, _ => (.inf a, 0)
  | _, .inf b => (.inf b, 0)
  | .zero a, .zero b => (.zero (if a = b then a else zeroSign m), 0)
  | .zero _, y => (y, 0)
  | x, .zero _ => (x, 0)
  | x, y =>
    let (n1, d1) := x.ratio
    let (n2, d2) := y.ratio
    (ofRatio (n1 * d2 + n2 * d1) (d1 * d2) (zeroSign m), 0)

/-- R83: an exact product, with the flags of an invalid one. -/
def mulF (x y : FV) : FV × BitVec 5 :=
  match x, y with
  | .nan, _ => (.nan, 0)
  | _, .nan => (.nan, 0)
  | .inf _, .zero _ => (.nan, fNV)
  | .zero _, .inf _ => (.nan, fNV)
  | .inf a, y => (.inf (xor a y.neg), 0)
  | x, .inf b => (.inf (xor x.neg b), 0)
  | .zero a, y => (.zero (xor a y.neg), 0)
  | x, .zero b => (.zero (xor x.neg b), 0)
  | .fin a n1 d1, .fin b n2 d2 => (.fin (xor a b) (n1 * n2) (d1 * d2), 0)

/-- R83: a × b + c, exact. An invalid product raises NV also when c is NaN (DEDUCED: the rule names both conditions
and neither excludes the other, log entry 13). -/
def fmaF (m : RM) (a b c : FV) : FV × BitVec 5 :=
  let (p, f1) := mulF a b
  let (r, f2) := addF m p c
  (r, f1 ||| f2)

/-- R85: a subnormal source read as zero of its sign when FZ is set. -/
def flushSrc (f : Fmt) (fz : Bool) (x : FV) : FV :=
  match x with
  | .fin neg n d => if fz && decide (log2Ratio n d < 1 - (f.bias : Int)) then .zero neg else x
  | _ => x

/-- Whether x < y, for values that are not NaN; −0 lies below +0 when `signed` is true. -/
def ltF (signed : Bool) (x y : FV) : Bool :=
  match x, y with
  | .nan, _ => false
  | _, .nan => false
  | .inf a, .inf b => a && !b
  | .inf a, _ => a
  | _, .inf b => !b
  | .zero a, .zero b => signed && a && !b
  | x, y =>
    let (n1, d1) := x.ratio
    let (n2, d2) := y.ratio
    decide (n1 * d2 < n2 * d1)

/-- Whether x = y as numbers; −0 equals +0, NaN equals nothing. -/
def eqF (x y : FV) : Bool :=
  match x, y with
  | .nan, _ => false
  | _, .nan => false
  | x, y => !ltF false x y && !ltF false y x

/-- R83, R129: the smaller, or the larger, of two values. -/
def minF (x y : FV) : FV :=
  match x, y with
  | .nan, y => y
  | x, .nan => x
  | x, y => if ltF true y x then y else x
def maxF (x y : FV) : FV :=
  match x, y with
  | .nan, y => y
  | x, .nan => x
  | x, y => if ltF true x y then y else x

/-- The code of an exact value that a format holds. -/
def codeOf (f : Fmt) (x : FV) : Nat := rne f x

/-! ## Integers and floats (R84, R132) -/

/-- The range of an integer type code: signed .s8 to .s64, .s4; unsigned .z8 to .z64. -/
def intRange (t : Nat) : Option (Int × Int) :=
  match t with
  | 0x01 => some (-128, 127) | 0x02 => some (-32768, 32767) | 0x03 => some (-2147483648, 2147483647)
  | 0x04 => some (-9223372036854775808, 9223372036854775807)
  | 0x05 => some (0, 255) | 0x06 => some (0, 65535) | 0x07 => some (0, 4294967295)
  | 0x08 => some (0, 18446744073709551615)
  | 0x09 => some (-8, 7)
  | _ => none

/-- R9 `sat_to`: the clamped value and whether the clamp changed it. -/
def satTo (v lo hi : Int) : Int × Bool := if v < lo then (lo, true) else if hi < v then (hi, true) else (v, false)

/-- R132: a float rounded to an integer type in a mode, clamped. -/
def floatToInt (m : RM) (s : Nat) (lo hi : Int) (x : FV) : Int × BitVec 5 × BitVec 2 :=
  match x with
  | .nan => (0, fNV, sIS)
  | .inf neg => (if neg then lo else hi, fNV, sIS)
  | .zero _ => (0, 0, 0)
  | .fin neg n d =>
    let (k, exact) := roundGrid m neg n d 0 s
    let v : Int := if neg then -(k : Int) else k
    let (r, clamped) := satTo v lo hi
    if clamped then (r, fNV, sIS) else (r, if exact then 0 else fNX, 0)

/-- An integer as an exact value. -/
def ofInt (v : Int) : FV := ofRatio v 1 false

/-! ## Special functions (R97) -/

/-- The largest r with r² ≤ n, found bit by bit below 2^k. -/
def isqrt : Nat → Nat → Nat → Nat
  | 0, _, r => r
  | k + 1, n, r =>
    let t := r + 2 ^ k
    isqrt k n (if t * t ≤ n then t else r)

/-- Σ t_i with t_0 given and t_(i+1) = t_i × r / (2^p (i+1)): the exponential series in fixed point. -/
def expSeries : Nat → Nat → Nat → Nat → Nat → Nat → Nat
  | 0, _, _, _, _, acc => acc
  | fuel + 1, i, p, r, t, acc => expSeries fuel (i + 1) p r (t * r / 2 ^ p / (i + 1)) (acc + t)

/-- Σ y^(2i+1)/(2i+1) in fixed point, y2 = y². -/
def atanhSeries : Nat → Nat → Nat → Nat → Nat → Nat → Nat
  | 0, _, _, _, _, acc => acc
  | fuel + 1, i, p, y2, t, acc => atanhSeries fuel (i + 1) p y2 (t * y2 / 2 ^ p) (acc + t / (2 * i + 1))

/-- ln 2 × 2^p from below, within p units. -/
def ln2Fix (p : Nat) : Nat := 2 * atanhSeries p 0 p (2 ^ p / 9) (2 ^ p / 3) 0

/-- e^r in fixed point for 0 ≤ r < 2^p units (below 1), from below within 3p units. -/
def expFix (p r : Nat) : Nat := expSeries p 0 p r (2 ^ p) 0

/-- An interval [lo, hi] × 2^sh of a positive value. -/
structure Ival where
  lo : Nat
  hi : Nat
  sh : Int
  deriving DecidableEq, Repr

/-- 2^x for an exact x = n/d with a sign: an interval of precision p. -/
def exp2Ival (p : Nat) (neg : Bool) (n d : Nat) : Ival :=
  -- x = k + f, 0 ≤ f < 1
  let q := n / d
  let r := n % d
  let (k, fn) : Int × Nat := if neg then (if r = 0 then (-(q : Int), 0) else (-(q : Int) - 1, d - r)) else (q, r)
  let f := fn * 2 ^ p / d
  let arg := f * ln2Fix p / 2 ^ p
  ⟨expFix p arg, expFix p (arg + p + 3) + 4 * p, k - p⟩

/-- e^x for an exact x: 2^(x / ln 2), by reducing with ln 2. -/
def expIval (p : Nat) (neg : Bool) (n d : Nat) : Ival :=
  let l := ln2Fix p
  -- x in fixed point, from below and from above in magnitude
  let xm := n * 2 ^ p / d
  if neg then
    -- x = -m; k = -(m / ln2 + 1); r = (m / ln2 + 1) ln2 - m, above 0
    let k := (xm + 1) / l + 1
    let base := k * l
    let r := base - (xm + 1)
    let r' := base + k * (p + 3) + 1 - xm
    ⟨expFix p r, expFix p r' + 4 * p, -(k : Int) - p⟩
  else
    let k := xm / (l + p + 3)
    let r := xm - k * (l + p + 3)
    let r' := xm + 1 - k * l
    ⟨expFix p r, expFix p r' + 4 * p, (k : Int) - p⟩

/-- ln(m) × 2^p for m = n/d in [1, 2): from below, within 4p units. -/
def lnFix (p n d : Nat) : Nat :=
  let y := (n - d) * 2 ^ p / (n + d)
  2 * atanhSeries p 0 p (y * y / 2 ^ p) y 0

/-- Intervals rounded until both ends agree, the precision doubled each time; the lower end when the fuel runs out. -/
def roundIval (f : Nat → Ival) (rnd : Nat → Nat → RR) : Nat → Nat → RR
  | 0, p => let i := f p; let (n, d) := scale2 i.lo i.sh; rnd n d
  | fuel + 1, p =>
    let i := f p
    let (n1, d1) := scale2 i.lo i.sh
    let (n2, d2) := scale2 i.hi i.sh
    let a := rnd n1 d1
    let b := rnd n2 d2
    if a.code = b.code then b else roundIval f rnd fuel (2 * p)

/-- A result known not to be exact: RNE to FP32, NX, and UF when tiny. -/
def inexact (fz neg : Bool) (n d : Nat) : RR :=
  let r := roundTo f32 .rne false fz 0 (mkFin neg n d)
  if n = 0 then ⟨if neg then 0x80000000 else 0, fUF ||| fNX, 0⟩
  else
    let tiny := decide (log2Ratio n d < -126) && decide (r.code % 2 ^ 31 < 0x00800000)
    { r with ff := r.ff ||| fNX ||| (if tiny then fUF else 0) }

/-- Whether n/d is a power of two, and which. -/
def powerOfTwo (n d : Nat) : Option Int :=
  let e := log2Ratio n d
  let (a, b) := scale2 1 e
  if n * b = a * d then some e else none

/-- R97: vexp2. -/
def vexp2F (fz : Bool) (x : FV) : RR :=
  match flushSrc f32 fz x with
  | .nan => ⟨f32.nanCode, 0, 0⟩
  | .inf neg => ⟨if neg then 0 else f32.infCode, 0, 0⟩
  | .zero _ => ⟨0x3F800000, 0, 0⟩
  | .fin neg n d =>
    if n % d = 0 then
      let k := Nat.min (n / d) 400
      let (a, b) := scale2 1 (if neg then -(k : Int) else k)
      roundTo f32 .rne false fz 0 (.fin false a b)
    else if 200 * d < n then inexact fz false (if neg then 1 else 2 ^ 400) (if neg then 2 ^ 400 else 1)
    else roundIval (fun p => exp2Ival p neg n d) (inexact fz false) 5 96

/-- R97: vexp. -/
def vexpF (fz : Bool) (x : FV) : RR :=
  match flushSrc f32 fz x with
  | .nan => ⟨f32.nanCode, 0, 0⟩
  | .inf neg => ⟨if neg then 0 else f32.infCode, 0, 0⟩
  | .zero _ => ⟨0x3F800000, 0, 0⟩
  | .fin neg n d =>
    if 200 * d < n then inexact fz false (if neg then 1 else 2 ^ 400) (if neg then 2 ^ 400 else 1)
    else roundIval (fun p => expIval p neg n d) (inexact fz false) 5 256

/-- The logarithm of n/d in units of `unit` (ln 2 for vlog2, 1 for vlog): ln(n/d) = e ln2 + ln(m). -/
def logIval (two : Bool) (n d : Nat) (p : Nat) : Bool × Ival :=
  let e := log2Ratio n d
  let (a, b) := scale2 1 e
  let lm := lnFix p (n * b) (a * d)
  let l := ln2Fix p
  let err := 4 * p + 8
  if two then
    -- e + ln(m)/ln2
    let q := lm * 2 ^ p / l
    if 0 ≤ e then (false, ⟨e.toNat * 2 ^ p + q - 2 * err, e.toNat * 2 ^ p + q + 2 * err, -(p : Int)⟩)
    else
      let mag := (-e).toNat * 2 ^ p - q
      (true, ⟨mag - 2 * err, mag + 2 * err, -(p : Int)⟩)
  else if 0 ≤ e then
    let v := e.toNat * l + lm
    (false, ⟨v - err, v + err * (e.toNat + 2), -(p : Int)⟩)
  else
    let v := (-e).toNat * l - lm
    (true, ⟨v - err, v + err * ((-e).toNat + 2), -(p : Int)⟩)

/-- R97: vlog2 and vlog. -/
def vlogF (two fz : Bool) (x : FV) : RR :=
  match flushSrc f32 fz x with
  | .nan => ⟨f32.nanCode, 0, 0⟩
  | .inf neg => if neg then ⟨f32.nanCode, fNV, 0⟩ else ⟨f32.infCode, 0, 0⟩
  | .zero _ => ⟨0xFF800000, fDZ, 0⟩
  | .fin neg n d =>
    if neg then ⟨f32.nanCode, fNV, 0⟩
    else if n = d then ⟨0, 0, 0⟩
    else
      match (if two then powerOfTwo n d else none) with
      | some e => roundTo f32 .rne false fz 0 (ofInt e)
      | none =>
        let sign := (logIval two n d 128).1
        roundIval (fun p => (logIval two n d p).2) (inexact fz sign) 5 128

/-- R97: vrcp. -/
def vrcpF (fz : Bool) (x : FV) : RR :=
  match flushSrc f32 fz x with
  | .nan => ⟨f32.nanCode, 0, 0⟩
  | .inf neg => ⟨if neg then 0x80000000 else 0, 0, 0⟩
  | .zero neg => ⟨(if neg then 0x80000000 else 0) + f32.infCode, fDZ, 0⟩
  | .fin neg n d => roundTo f32 .rne false fz 0 (.fin neg d n)

/-- R97: vrsqrt. -/
def vrsqrtF (fz : Bool) (x : FV) : RR :=
  match flushSrc f32 fz x with
  | .nan => ⟨f32.nanCode, 0, 0⟩
  | .inf neg => if neg then ⟨f32.nanCode, fNV, 0⟩ else ⟨0, 0, 0⟩
  | .zero neg => ⟨(if neg then 0x80000000 else 0) + f32.infCode, fDZ, 0⟩
  | .fin neg n d =>
    if neg then ⟨f32.nanCode, fNV, 0⟩
    else
      -- sqrt(d/n) × 2^200, below 2^300
      let v := d * 2 ^ 400 / n
      let r := isqrt 300 v 0
      if r * r * n = d * 2 ^ 400 then roundTo f32 .rne false fz 0 (.fin false r (2 ^ 200))
      else inexact fz false (2 * r + 1) (2 ^ 201)

/-- tanh(n/d) as an interval: (e^2x − 1)/(e^2x + 1). -/
def tanhIval (n d p : Nat) : Ival :=
  let i := expIval p false (2 * n) d
  let (a, _) := scale2 i.lo (i.sh + p)
  let (b, _) := scale2 i.hi (i.sh + p)
  let one := 2 ^ p
  ⟨(a - one) * one / (a + one), (b - one) * one / (b + one) + 1, -(p : Int)⟩

/-- R97: vtanh. -/
def vtanhF (fz : Bool) (x : FV) : RR :=
  match flushSrc f32 fz x with
  | .nan => ⟨f32.nanCode, 0, 0⟩
  | .inf neg => ⟨if neg then 0xBF800000 else 0x3F800000, 0, 0⟩
  | .zero neg => ⟨if neg then 0x80000000 else 0, 0, 0⟩
  | .fin neg n d =>
    if 20 * d < n then ⟨if neg then 0xBF800000 else 0x3F800000, fNX, 0⟩
    else if log2Ratio n d < -40 then
      -- x − x³/3 < tanh x < x, with x³/3 far below half a unit of x
      inexact fz neg (n * 2 ^ 70 - 1) (d * 2 ^ 70)
    else roundIval (fun p => tanhIval n d p) (inexact fz neg) 5 256

end Sys2Proof.Machine
end

