-- ==== Sys2Proof/Machine/Flags.lean ====
section
/-! DEFINITION. Conditions, flags and rounding: the predicate conditions (R107, R126), carry-less products (R106), the
saturating forms (R101, R119), and RMODE, SEED, FFLAGS and SATF (R81, R87 to R91). -/
namespace Sys2Proof.Machine

/-- R107: the condition cc on two 64-bit values. -/
def cond (cc : Nat) (a b : Word) : Bool :=
  match cc with
  | 0 => a == b
  | 1 => a != b
  | 2 => a.slt b
  | 3 => !a.slt b
  | 4 => a.ult b
  | 5 => !a.ult b
  | 6 => a &&& b != 0
  | _ => a &&& b == 0

/-- R126: the integer condition cc on two elements of width w. -/
def condInt (cc w a b : Nat) : Bool :=
  match cc with
  | 0 => a == b
  | 1 => a != b
  | 2 => decide (sext a w < sext b w)
  | 3 => decide (sext b w ≤ sext a w)
  | 4 => decide (a < b)
  | _ => decide (b ≤ a)

/-- R126: the FP32 condition cc. -/
def condF (cc : Nat) (x y : FV) : Bool :=
  match cc with
  | 0 => eqF x y
  | 1 => !eqF x y
  | 2 => ltF false x y
  | 3 => ltF false x y || eqF x y
  | 4 => x == .nan || y == .nan
  | _ => x != .nan && y != .nan

/-- R106, R125: the carry-less product of a and the low n bits of b. -/
def clmulN (a b : Nat) : Nat → Nat
  | 0 => 0
  | n + 1 => if bit b n then Nat.xor (clmulN a b n) (a * 2 ^ n) else clmulN a b n

/-- R119, R123: an exact result wrapped to w bits (form 0), clamped signed (1) or clamped unsigned (3), with SATF.IS. -/
def intForm (form w : Nat) (x : Int) : RR :=
  match form with
  | 0 => ⟨truncI x w, 0, 0⟩
  | 1 =>
    let (v, c) := satTo x (-(2 ^ (w - 1) : Nat)) ((2 ^ (w - 1) : Nat) - 1)
    ⟨truncI v w, 0, if c then sIS else 0⟩
  | _ =>
    let (v, c) := satTo x 0 ((2 ^ w : Nat) - 1)
    ⟨truncI v w, 0, if c then sIS else 0⟩

/-- R119: an element read as signed, or as unsigned for form 3. -/
def intElem (form w v : Nat) : Int := if form = 3 then (v : Int) else sext v w

/-- R87: RMODE.RM. -/
def Ctx.rm (c : Ctx) : Nat := bits c.rmode.toNat 2 0
/-- R87: RMODE.FZ. -/
def Ctx.fz (c : Ctx) : Bool := bit c.rmode.toNat 3
/-- R87: what a write of RMODE stores. -/
def rmodeOf (w : Word) : Word :=
  let m := bits w.toNat 2 0
  word (bits w.toNat 3 3 * 8 + if 6 ≤ m then 0 else m)
/-- R81: every lane of a claim given its state from SEED, from lane lo on. -/
def seedLanes (c : Ctx) (lo hi : Nat) : Ctx :=
  { c with lfsr := (List.range (hi - lo)).foldl (fun m i =>
      smSet 0 m (lo + i) (BitVec.ofNat 32 (seedLane c.seed.toNat (lo + i)))) c.lfsr }
/-- R88: a write of SEED. -/
def writeSeed (c : Ctx) (w : Word) : Ctx :=
  let c := { c with seed := word (bits w.toNat 31 0) }
  seedLanes c 0 c.lanes
/-- R81: the LFSR state of a lane. -/
def lfsrOf (m : SMap Lane) (l : Nat) : Nat := (smGet 0 m l).toNat
/-- R81: a lane's state after one step. -/
def lfsrNext (m : SMap Lane) (l : Nat) : SMap Lane := smSet 0 m l (BitVec.ofNat 32 (lfsrStep (lfsrOf m l)))

end Sys2Proof.Machine
end

