-- ==== Sys2Proof/Machine/Operands.lean ====
section
/-! DEFINITION. Operand forms: the three operand spaces (R41), what an operation reads at issue (R53), what it leaves to
land (R42 to R44), and what an operation is to the bundle that issues it. -/
namespace Sys2Proof.Machine

/-- What an operation reads at issue: the context's number and its registers as read (R53, R54), the values of its scalar
source fields in field order, channel words popped among them (R44), its bundle, the answers that its bundle has
received, and its slot. -/
structure View where
  n : Nat
  c : Ctx
  args : List Word
  b : Bundle
  answered : List Answer
  slot : Slot
  /-- R60: the ranges of virtual addresses that the bundle's engine command writes, for its M operation -/
  mate : List (Nat × Nat)
  /-- R60: what bytes that the bundle's M operation has written held before, by place, for its engine command -/
  wrote : SMap Byte
  deriving DecidableEq, Repr

/-- The value of the i-th scalar source field. -/
def View.arg (v : View) (i : Nat) : Word := v.args.getD i 0
/-- R274: the address of the bundle after this one. -/
def View.next (v : View) : Word := v.b.addr + word v.b.len

/-- R45, R49: a register as R56 names it. -/
inductive Dst
  | x (n : Nat) | p (n : Nat) | ch (n : Nat) | v (n : Nat) | m (n : Nat) | creg (n : Nat) | span
  deriving DecidableEq, Repr

/-- R56: two destinations clash; a stage predicate is part of SPAN. -/
def Dst.clash (a b : Dst) : Bool :=
  decide (a = b) ||
  (match a, b with
   | .span, .p n => decide (24 ≤ n)
   | .p n, .span => decide (24 ≤ n)
   | _, _ => false)

/-- R41: the register of a scalar-space specifier used as a destination. -/
def dstS (s : BitVec 9) : List Dst :=
  let n := s.toNat
  if n < 64 then [.x n] else if n < 96 then [.p (n - 64)] else if 96 ≤ n ∧ n < 112 then [.ch (n - 96)] else []
/-- R41: the register of a vector-space specifier used as a destination. -/
def dstV (s : BitVec 9) : List Dst :=
  let n := s.toNat
  if n < 384 then [.v n] else if n < 392 then [.m (n - 384)] else []

/-- What an operation leaves when it passes: the writes that land within its bound (R54), its latch, its flags, the
target of a taken branch, and what follows once every result has landed. -/
structure Eff where
  writes : List RegWrite := []
  q : Option QVal := none
  bound : Nat := 1
  ff : BitVec 5 := 0
  sf : BitVec 2 := 0
  /-- the width of the result's elements -/
  ew : Nat := 32
  /-- R270: a division, a remainder or a special function, whose result lands exactly at its bound in a sealed launch -/
  exact : Bool := false
  jump : Option Word := none
  /-- R273: control is transferred with no target: the context starts no further bundle -/
  taken : Bool := false
  /-- R397: the fault that is taken unless another operation of the bundle faults -/
  last : Option FaultInfo := none
  /-- R111: the next bundle waits for every result -/
  stop : Bool := false
  /-- R60: what the bytes that an M operation wrote held before, by place -/
  wrote : SMap Byte := []
  /-- R60: what the result has read of bytes that the bundle's engine command writes -/
  mate : Option MateRead := none
  /-- R55: the places that the late change writes -/
  sets : List (Nat × Nat × Nat) := []
  /-- a change to the context made when the bundle's operations have all run -/
  late : Option (State → State) := none
  /-- what the context does after the bundle, every result landed -/
  after : Option (State → State) := none

/-- What an operation comes to at issue. -/
inductive Res
  | ok (s : State) (e : Eff)
  /-- the context parks with its bundle held, and a request is made -/
  | hold (why : Why) (w : Wait) (req : State → State)
  /-- the bundle is held and the context stays in rotation, what is done so far kept -/
  | stay (req : State → State)
  /-- an attention stop (R165): the steps done remain, and the fault is taken -/
  | stop (done : State → State) (f : FaultInfo)
  | fault (f : FaultInfo)

/-- An operation of a bundle: its scalar source fields in field order, the registers it names as destinations, whether it
needs the service level (R66), a control context (R278) or a claim (R42), whether it is a branch that is taken whenever it
executes (R62), what it does when nullified (R40), and what it does. -/
structure Op where
  srcs : List (BitVec 9) := []
  dests : List Dst := []
  service : Bool := false
  control : Bool := false
  claim : Bool := false
  branch : Bool := false
  /-- R91: the operation waits until every earlier result has landed -/
  drain : Bool := false
  /-- R55: it writes the attention progress, and waits for the descriptor's latching, which does too -/
  progress : Bool := false
  /-- R60: the ranges of virtual addresses that its engine command writes -/
  marks : View → State → List (Nat × Nat) := fun _ _ => []
  null : View → State → Res := fun _ s => .ok s {}
  run : View → State → Res

/-- R41: the value of a scalar-space source that is no channel. -/
def readS (c : Ctx) (s : BitVec 9) : Word :=
  let n := s.toNat
  if n < 64 then getX c (physX c n)
  else if n < 96 then (if getP c (n - 64) then 1 else 0)
  else if 112 ≤ n ∧ n < 117 then (getQ c (n - 112)).toWord
  else 0
/-- R41: the predicate of a specifier. -/
def readP (c : Ctx) (s : BitVec 9) : Bool := getP c (s.toNat - 64)
/-- An x register by name, as the engine space reads it. -/
def readX (c : Ctx) (n : Nat) : Word := getX c (physX c n)

/-- R42, R44: a scalar result to its destination, with its latch. Divisions and remainders, and no others, have the bound 8 (R102,
R270). -/
def landS (c : Ctx) (d : BitVec 9) (w : Word) (bound : Nat) : Eff :=
  let n := d.toNat
  { writes :=
      if n < 64 then [.x (physX c n) w]
      else if 96 ≤ n ∧ n < 112 then [.push (n - 96) w (getCh c (n - 96)).peer (getCh c (n - 96)).pch] else []
    q := some (.scalar w), bound := bound, exact := bound == 8 }
/-- R107: a predicate result. -/
def landP (d : BitVec 9) (b : Bool) (bound : Nat) : Eff :=
  { writes := [.p (d.toNat - 64) b], q := some (.scalar (if b then 1 else 0)), bound := bound }

/-! ## Vectors (R42, R113 to R115) -/

/-- A vector source: lanes of a register or of a latch, or a scalar broadcast. -/
inductive VSrc
  | lanes (l : List Lane)
  | bcast (w : Word)
  deriving DecidableEq, Repr

/-- R41, R115: a vector-space source. Lanes below VL that a latched vector does not have are free values (log entry 92). -/
def readV (c : Ctx) (s : BitVec 9) : VSrc :=
  let n := s.toNat
  if n < 384 then .lanes ((List.range c.lanes).map fun l => getV c (physV c n) l)
  else if 392 ≤ n ∧ n < 397 then
    (match getQ c (n - 392) with
     | .scalar w => .bcast w
     | .vector ls => .lanes (ls ++ (List.range (c.lanes - ls.length)).map fun k => Config.latchLane c.turn (ls.length + k)))
  else .bcast (readX c (n - 400))
/-- R42, R114: element i of width w. -/
def VSrc.elem (x : VSrc) (w i : Nat) : Nat :=
  match x with
  | .bcast v => v.toNat % 2 ^ w
  | .lanes ls => (ls.getD (i * w / 32) 0).toNat / 2 ^ (i * w % 32) % 2 ^ w

/-- The lanes of a list of elements of width w. -/
def packLanes (w : Nat) (es : List Nat) (lanes : Nat) : List Lane :=
  (List.range lanes).map fun l =>
    BitVec.ofNat 32 ((List.range (32 / w)).foldl (fun a k => a + es.getD (l * (32 / w) + k) 0 % 2 ^ w * 2 ^ (k * w)) 0)

/-- R42, R43: a vector result to its register, every lane below VL. The special functions, and no others, have the bound 6 (R133,
R270). -/
def landV (c : Ctx) (d : BitVec 9) (ls : List Lane) (bound : Nat) : Eff :=
  { writes := ls.zipIdx.map fun e => .v (physV c d.toNat) e.2 e.1, q := some (.vector ls), bound := bound, exact := bound == 6 }
/-- R126: a mask result; its latch is its bits as lanes. -/
def landM (d : BitVec 9) (m : BitVec 256) (bound : Nat) : Eff :=
  { writes := [.mask (d.toNat - 384) m]
    q := some (.vector ((List.range 8).map fun l => m.extractLsb' (32 * l) 32)), bound := bound }

/-- R113: the governing mask of a vector operation. -/
def governOf (f : RRR) (c : Ctx) : BitVec 256 := getM c f.msk

/-- R114: the element-wise effect of width w: each element below N from its index and its lane's LFSR state; `sr` tells
whether every element takes a step (R82). -/
def mapElems (c : Ctx) (f : RRR) (w : Nat) (sr : Bool) (g : Nat → Nat → RR) : List Nat × BitVec 5 × BitVec 2 × SMap Lane :=
  let old := readV c f.d
  let m := governOf f c
  (List.range (c.lanes * 32 / w)).foldl (fun a i =>
    let (es, ff, sf, st) := a
    let l := i * w / 32
    let st' := if sr then lfsrNext st l else st
    if m.getLsbD i then
      let r := g i (lfsrOf st l)
      (es ++ [r.code], ff ||| r.ff, sf ||| r.sf, st')
    else (es ++ [if f.zm then 0 else old.elem w i], ff, sf, st')) ([], 0, 0, c.lfsr)

/-- R81, R82: the lane states of a context after an operation. -/
def setLfsr (s : State) (n : Nat) (sr : Bool) (st : SMap Lane) : State :=
  if sr then modCtx s n fun c => { c with lfsr := st } else s

/-- R113, R114: an element-wise vector operation. -/
def vecOp (f : RRR) (w bound : Nat) (sr : View → Bool) (g : View → Nat → Nat → RR) : Op :=
  { dests := dstV f.d, claim := true
    run := fun v s =>
      let (es, ff, sf, st) := mapElems v.c f w (sr v) (g v)
      .ok (setLfsr s v.n (sr v) st) { landV v.c f.d (packLanes w es v.c.lanes) bound with ff := ff, sf := sf, ew := w } }

/-- An operation that computes a scalar from its scalar sources. -/
def scalarOp (d : BitVec 9) (srcs : List (BitVec 9)) (bound : Nat) (g : View → Word) : Op :=
  { srcs := srcs, dests := dstS d, run := fun v s => .ok s (landS v.c d (g v) bound) }
/-- An operation of two integer sources. -/
def binOp (f : RRR) (bound : Nat) (g : Word → Word → Word) : Op :=
  scalarOp f.d [f.a, f.b] bound fun v => g (v.arg 0) (v.arg 1)
/-- An operation of one integer source. -/
def unOp (f : RRR) (g : Word → Word) : Op := scalarOp f.d [f.a] 1 fun v => g (v.arg 0)
/-- An operation of a source and an immediate. -/
def immOp (f : RRI) (g : Word → Word) : Op := scalarOp f.d [f.a] 1 fun v => g (v.arg 0)
/-- R37: the immediate of an RRI operation, sign-extended. -/
def simmOf (f : RRI) : Word := f.imm.signExtend 64
/-- R101: a saturating operation of two integer sources. -/
def satOp (f : RRR) (form : Nat) (g : Int → Int → Int) : Op :=
  { srcs := [f.a, f.b], dests := dstS f.d
    run := fun v s =>
      let r := intForm form 64 (g (intElem form 64 (v.arg 0).toNat) (intElem form 64 (v.arg 1).toNat))
      .ok s { landS v.c f.d (word r.code) 1 with sf := r.sf } }

end Sys2Proof.Machine
end

