-- ==== Sys2Proof/Machine/Issue.lean ====
section
/-! DEFINITION. How a bundle issues (R40, R44, R53 to R63): what its operations read, in what order they are checked and
run, and what becomes of the context when it passes, is held, or faults. -/
namespace Sys2Proof.Machine

/-! ## Reads between issue and landing (R54) -/

/-- Bits of a free number choosing, element by element of width ew, the new value of a lane or the old one. -/
def mixLane (old new : Lane) (ew r : Nat) : Lane :=
  BitVec.ofNat 32 ((List.range (32 / ew)).foldl (fun a k =>
    a + (if bit r k then new.toNat else old.toNat) / 2 ^ (k * ew) % 2 ^ ew * 2 ^ (k * ew)) 0)

/-- A write of an outstanding result as an early read may see it. -/
def earlyWrite (c : Ctx) (ew r : Nat) : RegWrite → Ctx
  | .v reg l w => putV c reg l (mixLane (getV c reg l) w ew r)
  | .mask n w =>
    let k := BitVec.ofNat 256 r
    putM c n ((w &&& k) ||| (getM c n &&& ~~~k))
  | .buf b w v =>
    let old := BitVec.ofNat 32 (leNat (smGetList 0 (if b then c.saB else c.saA).bytes (4 * w) 4))
    putWrite c (.buf b w (mixLane old v ew r))
  | w => if bit r 0 then putWrite c w else c

/-- A result's writes as early reads may see them; each has free bits of its own. -/
def earlyWrites (c : Ctx) (ew r : Nat) : List RegWrite → Ctx
  | [] => c
  | w :: ws => earlyWrites (earlyWrite c ew (r % 16) w) ew (r / 16) ws

/-- A latch as an early read may see it. -/
def earlyLatch (c : Ctx) (p : Pending) (r : Nat) : Ctx :=
  match p.q, getQ c p.slot with
  | some (.vector new), .vector old =>
    putQ c { p with q := some (.vector (new.zipIdx.map fun e =>
      mixLane (old.getD e.2 0) e.1 p.ew (r / 2 ^ (32 * e.2) % 2 ^ 32))) }
  | some _, _ => if bit r 0 then putQ c p else c
  | none, _ => c

/-- R54: the registers as a bundle issued now may read them: each outstanding result old or new, but old for one that lands
exactly when it is due (R270). A mask result takes 256 free bits. -/
def earlyAll (c : Ctx) (k : Nat) : List Pending → Ctx
  | [] => c
  | p :: ps =>
    let r := Config.freeNat k
    let c0 := c
    let c :=
      match p.writes with
      | [.mask n w] => earlyWrite c p.ew r (.mask n w)
      | ws => earlyWrites c p.ew r ws
    if p.exact then earlyAll c0 (k + 2) ps else earlyAll (earlyLatch c p (Config.freeNat (k + 1))) (k + 2) ps

/-- The registers that a bundle of a context reads. -/
def readView (s : State) (n : Nat) : Ctx × State :=
  let c := ctxOf s n
  match c.pend with
  | [] => (c, s)
  | ps => (earlyAll c s.freeCount ps, { s with freeCount := s.freeCount + 2 * ps.length })

/-- The place a write names, its value apart. -/
def RegWrite.place : RegWrite → Nat × Nat × Nat
  | .x n _ => (0, n, 0)
  | .p n _ => (1, n, 0)
  | .v r _ _ => (2, r, 0)
  | .mask n _ => (3, n, 0)
  | .push ch .. => (4, ch, 0)
  | .sa r _ _ => (5, r, 0)
  | .buf b _ _ => (6, if b then 1 else 0, 0)
  | .bufTy b _ => (6, if b then 1 else 0, 0)
  | .attn _ => (7, 0, 0)

/-- R55: whether places name a register with an earlier write not yet landed; pushes of one context to one channel land in
order by themselves. -/
def overlaps (ps : List Pending) (ws : List (Nat × Nat × Nat)) : Bool :=
  ps.any fun p => p.writes.any fun a => ws.any fun b => a.place == b && a.place.1 != 4
/-- R55: the registers that what an operation leaves writes. -/
def Eff.places (e : Eff) : List (Nat × Nat × Nat) := e.writes.map RegWrite.place ++ e.sets

/-! ## Channels named as operands (R44, R293) -/

/-- What naming a channel comes to. -/
inductive ChRes
  | word (w : Word)
  | wait
  | chan
  deriving DecidableEq, Repr

/-- R293: the pop after k words already popped by the bundle. -/
def chanPop (c : Ctx) (ch k : Nat) : ChRes :=
  let e := getCh c ch
  match e.st, e.queue[k]? with
  | .unbound, _ => .chan
  | .waiting, _ => .wait
  | _, some w => .word w
  | .established, none => .wait
  | .gone, none => .chan

/-- Pushes of a context to a channel that have not landed. -/
def pendingPushes (c : Ctx) (ch : Nat) : Nat :=
  (c.pend.map fun p => (p.writes.filter fun w => w.place == (4, ch, 0)).length).sum

/-- R293, R296: free words at the peer of a channel. -/
def chanRoom (s : State) (c : Ctx) (ch : Nat) : Nat :=
  let e := getCh c ch
  8 - (getCh (ctxOf s e.peer) e.pch).queue.length - pendingPushes c ch

/-- R293: the push after k pushes of the bundle. -/
def chanPush (s : State) (c : Ctx) (ch k : Nat) : ChRes :=
  match (getCh c ch).st with
  | .unbound | .gone => .chan
  | .waiting => .wait
  | .established => if k < chanRoom s c ch then .word 0 else .wait

/-- R293: a channel access refused. -/
def chanFault (ch : Nat) : FaultInfo := ⟨0x1B, 0, word ch, none, []⟩

/-! ## A bundle's operations -/

/-- One slot operation of a bundle: its slot, its word, its meaning. -/
structure SlotOp where
  slot : Slot
  word : Word
  op : Op

/-- R36, R40: the guard of a slot word. -/
def guardOf (c : Ctx) (w : Word) : Bool := xor (getP c (w.extractLsb' 51 5).toNat) (w.getLsbD 50)

/-- What issuing a bundle has come to so far: the state, what each operation leaves, the channel words popped and pushed,
whether the S0 branch is taken. -/
structure Acc where
  s : State
  effs : List (Slot × Eff)
  pops : List Nat
  pushes : List Nat
  taken : Bool

/-- How far an operation gets. -/
inductive OpRes
  | ok (a : Acc)
  | hold (why : Why) (w : Wait) (req : State → State)
  | stay (req : State → State)
  | stop (done : State → State) (f : FaultInfo)
  | fault (f : FaultInfo)

/-- What an operation came to, its effects added to the bundle's. -/
def OpRes.ofRes (a : Acc) (slot : Slot) (pops pushes : List Nat) : Res → OpRes
  | .ok s e =>
    -- R62: the S1 branch is nullified when the S0 branch is taken
    if slot = .s1 ∧ a.taken ∧ e.jump.isSome then .ok a
    else .ok ⟨s, a.effs ++ [(slot, e)], pops, pushes, a.taken || (decide (slot = .s0) && (e.jump.isSome || e.taken))⟩
  | .hold why w req => .hold why w req
  | .stay req => .stay req
  | .stop d f => .stop d f
  | .fault f => .fault f

/-- R44: the scalar sources of an operation, channel words popped in field order. -/
def readArgs (c : Ctx) (pops : List Nat) : List (BitVec 9) → List Word → Except ChRes (List Word × List Nat) × Nat
  | [], acc => (.ok (acc.reverse, pops), 0)
  | f :: fs, acc =>
    let n := f.toNat
    if 96 ≤ n ∧ n < 112 then
      match chanPop c (n - 96) (pops.count (n - 96)) with
      | .word w => readArgs c (pops ++ [n - 96]) fs (w :: acc)
      | r => (.error r, n - 96)
    else readArgs c pops fs (readS c f :: acc)

/-- R44: the channel that an operation pushes to. -/
def pushOf (op : Op) : Option Nat :=
  op.dests.findSome? fun d => match d with | .ch n => some n | _ => none

/-- R60: what the M operation of a bundle has overwritten. -/
def Acc.wrote (a : Acc) : SMap Byte := a.effs.flatMap fun e => e.2.wrote
/-- R60: the ranges of virtual addresses that the engine command of a bundle writes. -/
def mates (n : Nat) (c : Ctx) (b : Bundle) (all : List SlotOp) (a : Acc) : List (Nat × Nat) :=
  (all.filter fun o => o.slot == .x && guardOf c o.word).flatMap fun o => o.op.marks ⟨n, c, [], b, c.answered, o.slot, [], []⟩ a.s

/-- R42, R44, R66: an operation whose guard reads 1. -/
def runOp (n : Nat) (c : Ctx) (b : Bundle) (mate : List (Nat × Nat)) (a : Acc) (o : SlotOp) : OpRes :=
  if (o.op.service && !c.svc) || (o.op.control && localOf n != 0) then .fault ⟨0x0A, 0, 0, none, []⟩
  else if o.op.claim && !c.hasClaim then .fault ⟨0x0C, 0, 0, none, []⟩
  else
    match readArgs c a.pops o.op.srcs [] with
    | (.error .chan, ch) => .fault (chanFault ch)
    | (.error _, ch) => .hold .channel (.channel ch) id
    | (.ok (args, pops), _) =>
      match (match pushOf o.op with | some ch => (chanPush a.s c ch (a.pushes.count ch), ch) | none => (.word 0, 0)) with
      | (.chan, ch) => .fault (chanFault ch)
      | (.wait, ch) => .hold .channel (.channel ch) id
      | (.word _, _) =>
        OpRes.ofRes a o.slot pops (a.pushes ++ (pushOf o.op).toList) (o.op.run ⟨n, c, args, b, c.answered, o.slot, mate, a.wrote⟩ a.s)

/-- R56, R62: whether an operation clashes with another of its bundle. -/
def clashes (o : SlotOp) (os : List SlotOp) : Bool :=
  os.any fun p => p.slot != o.slot && !(p.op.branch && o.op.branch) &&
    p.op.dests.any fun x => o.op.dests.any fun y => x.clash y

/-- R397: an attention instruction whose bundle breaks takes no step: it is held no more. -/
def breaks (a : Acc) (o : SlotOp) (r : OpRes) : OpRes :=
  match r with
  | .stay req => if o.op.progress && a.effs.any (fun e => e.2.last.isSome) then .ok a else .stay req
  | r => r
/-- R40, R53: whether an operation executes: its guard reads 1, or read 1 when an attention instruction under way was issued. -/
def executes (c : Ctx) (o : SlotOp) : Bool := guardOf c o.word || (c.attnRun && o.op.progress)

/-- R63 step 6: the operations in slot order; the first that does not pass ends the issue, be it by a fault or by parking on
a channel (DEDUCED, log entry 80). So the M operation of a bundle comes before its X operation, also where both access one stash
byte, which R60 leaves independent (DEDUCED, log entry 19). -/
def runOps (n : Nat) (c : Ctx) (b : Bundle) (all : List SlotOp) : List SlotOp → Acc → OpRes × SlotOp
  | [], a => (.ok a, ⟨.s0, 0, { run := fun _ s => .ok s {} }⟩)
  | o :: os, a =>
    let opc := opField o.word
    if opc ≠ 0xFF ∧ !slotAdmits o.slot opc then (.fault ⟨0x09, 0, 0, none, []⟩, o)
    else if opc = 0xFF ∨ !slotLegal o.word ∨ clashes o all then (.fault ⟨0x08, 0, 0, none, []⟩, o)
    -- R62: a branch that would be taken is nullified after the taken branch of S0
    else if o.slot = .s1 ∧ a.taken ∧ o.op.branch then runOps n c b all os a
    else
      -- R40: an operation whose guard reads 0 is nullified
      match (if executes c o then breaks a o (runOp n c b (if o.slot = .m then mates n c b all a else []) a o)
        else OpRes.ofRes a o.slot a.pops a.pushes
          (o.op.null ⟨n, c, o.op.srcs.map (readS c), b, c.answered, o.slot, [], a.wrote⟩ a.s)) with
      | .ok a => runOps n c b all os a
      | r => (r, o)

/-! ## Issue -/

/-- What an offer of issue comes to. -/
inductive Issued
  | passed (s : State)
  | parked (s : State)
  | stayed (s : State)
  | faulted (s : State)

/-- R44, R293: words popped leave the receive queue, and a peer that waits for room wakes. -/
def popChannels (s : State) (n : Nat) : List Nat → State
  | [] => s
  | ch :: chs =>
    let c := ctxOf s n
    let e := getCh c ch
    let s := setCtx s n (putCh c ch { e with queue := e.queue.drop 1 })
    let s := modCtx s e.peer fun p => if p.wait = .channel e.pch then wake p else p
    popChannels s n chs

/-- R43: the place in issue order of a context's next result, after every result issued so far. -/
def nextSeq (c : Ctx) : Nat := c.qseq.foldl (fun k e => max k e.2) c.seq + 1

/-- R54: what an operation leaves becomes an outstanding result. -/
def queueEff (s : State) (n : Nat) (e : Slot × Eff) : State :=
  if e.2.writes = [] ∧ e.2.q = none ∧ e.2.ff = 0 ∧ e.2.sf = 0 then s
  else
    modCtx s n fun c =>
      { c with seq := nextSeq c
               pend := c.pend ++ [⟨c.turn + e.2.bound, e.1.num, nextSeq c, e.2.writes, e.2.q, e.2.ff, e.2.sf, e.2.ew, e.2.exact && isSealed s n, e.2.mate⟩] }

/-- The changes that an operation makes when the operations of its bundle have all run. -/
def applyLate (s : State) (e : Slot × Eff) : State :=
  match e.2.late with
  | some f => f s
  | none => s
/-- What a context does after its bundle. -/
def applyAfter (s : State) (e : Slot × Eff) : State :=
  match e.2.after with
  | some f => f s
  | none => s

/-- R28: a code target; bit 0 is ignored. -/
def codeTarget (w : Word) : Word := w &&& ~~~1

/-- R57, R270: the context's next bundle waits for every result: all land, but for those that land exactly when they are due. -/
def stopCtx (s : State) (n : Nat) : State :=
  let s := landLoose s n
  if (ctxOf s n).pend = [] then s else modCtx s n fun c => { c with stopWait := true }

/-- R57, R61: a bundle that passes: pops, results queued, the next bundle's address, STOP. A taken branch empties the
fetch buffer, and the fetch of its target may begin (R199). An `mtc` to SEED takes effect after the step of an SR operation of
its bundle (DESIGN CHOICE, log entry 86). -/
def passBundle (n : Nat) (b : Bundle) (a : Acc) : State :=
  let s := popChannels a.s n a.pops
  let s := a.effs.foldl applyLate s
  let s := a.effs.foldl (fun s e => queueEff s n e) s
  let target := a.effs.findSome? fun e => e.2.jump
  let s := modCtx s n fun c =>
    { c with pc := (match target with | some t => codeTarget t | none => b.addr + word b.len)
             fbuf := (match target with | some _ => [] | none => c.fbuf), fetching := target.isSome && !c.svc
             held := none, answered := [], attnRun := false, stopWait := false }
  let s := if b.stop || a.effs.any (fun e => e.2.stop || e.2.after.isSome) then stopCtx s n else s
  a.effs.foldl applyAfter s

/-- R252, R259: a context parks with its bundle held; its results land first. -/
def parkHeld (s : State) (n : Nat) (b : Bundle) (why : Why) (w : Wait) : State :=
  let s := landEvery s n
  let s := modCtx s n fun c =>
    -- R215: an access in flight keeps the mappings of when it began
    let begins : Bool := match w with | .home _ => !c.answered.contains .home | _ => false
    park { c with held := some b, pc := b.addr, heldAt := if begins then s.mapCount else c.heldAt } why w
  applyReclaim s n

/-- One try at a bundle, its results due by this turn landed. -/
def tryBundle (s : State) (n : Nat) (b : Bundle) (ops : List SlotOp) : OpRes × SlotOp :=
  let (c, s) := readView s n
  runOps n c b ops ops ⟨s, [], [], [], false⟩

/-- R162: whether a result latches an attention descriptor. -/
def Pending.attends (p : Pending) : Bool := p.writes.any fun w => w.place == (7, 0, 0)
/-- The outstanding results of a context that a test picks land. -/
def landThose (s : State) (n : Nat) (test : Pending → Bool) : State :=
  let ps := (ctxOf s n).pend
  if ps.any test then landList (modCtx s n fun c => { c with pend := ps.filter fun p => !test p }) n (ps.filter test) else s

/-- R53 to R63: a context issues a bundle. -/
def runBundle (s : State) (n : Nat) (b : Bundle) (ops : List SlotOp) : Issued :=
  let s := landDue s n (ctxOf s n).turn
  let waits (s : State) : Issued := .stayed (modCtx s n fun c => { c with held := some b })
  let drains : Bool := ops.any fun o => o.op.drain
  let s := if drains then landLoose s n else s
  let s := if ops.any (fun o => o.op.progress) then landThose s n Pending.attends else s
  -- R55, R57, R270: results that land exactly when they are due hold a bundle that waits for them
  if (drains || (ctxOf s n).stopWait) && (ctxOf s n).pend != [] then waits s
  else if b.dict = none ∧ !hdrOk b.hdr then .faulted (takeFault s n 0 7 ⟨0x08, 0, 0, none, []⟩ b.addr)
  else
    let first := tryBundle s n b ops
    -- R55: a write of a register with an earlier write outstanding waits for it
    let late : Bool :=
      match first.1 with
      | .ok a => overlaps (ctxOf s n).pend (a.effs.flatMap fun e => e.2.places)
      | _ => false
    let s := if late then landLoose s n else s
    let r := if late then tryBundle s n b ops else first
    let still : Bool :=
      match r.1 with
      | .ok a => late && overlaps (ctxOf s n).pend (a.effs.flatMap fun e => e.2.places)
      | _ => false
    if still then waits s
    else
    match r with
    | (.ok a, _) =>
      -- R397: F_BKPT stands last among the bundle's faults
      match a.effs.findSome? fun e => e.2.last with
      | some f => .faulted (takeFault s n 0xFB 0 f b.addr)
      | none => .passed (passBundle n b a)
    | (.hold why w req, _) => .parked (parkHeld (req s) n b why w)
    | (.stay req, _) => .stayed (modCtx (req s) n fun c => { c with held := some b })
    | (.stop done f, o) => .faulted (takeFault (done s) n (opField o.word).toNat o.slot.num f b.addr)
    | (.fault f, o) =>
      .faulted (takeFault s n (opField o.word).toNat o.slot.num f b.addr)

/-- The state after an offer. -/
def Issued.state : Issued → State
  | .passed s | .parked s | .stayed s | .faulted s => s

/-- The current context issues one slot operation, alone in a literal bundle with STOP set at its pc. -/
def issueOne (w : Word) (op : Op) (s : State) : Host.Outcome State Fault Refusal :=
  let c := ctxOf s s.cur
  let b := Bundle.single c.pc w
  needLive s s.cur (.next (runBundle s s.cur b [⟨homeSlot (opField w), w, op⟩]).state)

end Sys2Proof.Machine
end

