-- ==== Sys2Proof/Machine/Queues.lean ====
section
/-! DEFINITION. The command queues of a tile and of its spindles: their entry (R143, R224), the signalling of tokens (R144,
R185), stops with their records, restart and skip (R384 to R386), and the write positions of copy channels (R228). -/
namespace Sys2Proof.Machine

/-- R14: the tile of a spindle. -/
def tileOfSpindle (sp : Nat) : Nat := sp / 8

def copyChanAt (s : State) (sp ch : Nat) : CopyChan := smGet {} (spinAt s sp).chans ch
def setCopyChan (s : State) (sp ch : Nat) (x : CopyChan) : State :=
  modSpin s sp fun p => { p with chans := smSet {} p.chans ch x }

/-- R384: queue q as a context of a spindle sees it: 0 tensor, 1 conversion, 2 ring, 3 to 10 copy channels. -/
def queueAt (s : State) (sp q : Nat) : Queue :=
  match q with
  | 0 => (tileAt s (tileOfSpindle sp)).tensor
  | 1 => (tileAt s (tileOfSpindle sp)).conv
  | 2 => (tileAt s (tileOfSpindle sp)).ringq
  | _ => (copyChanAt s sp (q - 3)).q
def setQueue (s : State) (sp q : Nat) (x : Queue) : State :=
  match q with
  | 0 => modTile s (tileOfSpindle sp) fun t => { t with tensor := x }
  | 1 => modTile s (tileOfSpindle sp) fun t => { t with conv := x }
  | 2 => modTile s (tileOfSpindle sp) fun t => { t with ringq := x }
  | _ => setCopyChan s sp (q - 3) { copyChanAt s sp (q - 3) with q := x }

/-- R143, R224: how many commands a queue holds. -/
def queueDepth (q : Nat) : Nat := if q = 0 then 64 else 32

/-- The tokens that a command names: produced, then consumed. -/
structure Toks where
  prod : Nat
  cons : List Nat
  deriving DecidableEq, Repr

def toksOf (f : ENGF) : Toks := ⟨f.prod.toNat, [f.c1.toNat, f.c2.toNat, f.c3.toNat]⟩

/-- R185: the commands that consumed tokens bind to and that have not completed. -/
def boundCmds (c : Ctx) (ks : List Nat) : List Nat :=
  (ks.filterMap fun k =>
    if k = 0 then none
    else
      match smFind c.tok k with
      | some b => if b.done then none else some b.cmd
      | none => none).eraseDups

/-- R185: the produced token binds to the command. -/
def bindToken (c : Ctx) (k : Nat) (b : TokBind) : Ctx := if k = 0 then c else { c with tok := smIns c.tok k b }

/-- A command as it enters its queue: operands, tokens and conversion descriptor as read at issue (R143). -/
def mkCmd (v : View) (id : Nat) (w a b c aux : Word) (null : Bool) (waits : List Nat) (cseq : Nat) : Cmd :=
  { id := id, ctx := v.n, word := w, a := a, b := b, c := c, aux := aux, nullified := null, waits := waits
    bpc := v.b.addr, asid := v.c.asid.toNat, conv := v.c.conv, cseq := cseq, done := 0, saved := [], mate := v.wrote }

/-- R143, R224: a command enters its queue: operands, tokens and conversion descriptor as read at issue. -/
def enqueue (s : State) (v : View) (q : Nat) (w a b c aux : Word) (null : Bool) (t : Toks) : State :=
  let sp := spindleOf v.n
  let id := s.cmdNext
  let cx := ctxOf s v.n
  let waits := boundCmds cx t.cons
  let seq := if 3 ≤ q then (copyChanAt s sp (q - 3)).count % 127 + 1 else 0
  let cmd := mkCmd v id w a b c aux null waits seq
  let s := { s with cmdNext := id + 1 }
  let s := if 3 ≤ q then setCopyChan s sp (q - 3) { copyChanAt s sp (q - 3) with count := seq } else s
  let x := queueAt s sp q
  let s := setQueue s sp q { x with cmds := x.cmds ++ [cmd] }
  modCtx s v.n fun c => bindToken c t.prod ⟨id, q, v.b.addr, false⟩

/-- R143, R224: whether a queue has room for another command. -/
def hasRoom (s : State) (n q : Nat) : Bool := decide ((queueAt s (spindleOf n) q).cmds.length < queueDepth q)

/-- A completed command leaves the list of a waiting one. -/
def dropWait (id : Nat) (q : Queue) : Queue := { q with cmds := q.cmds.map fun c => { c with waits := c.waits.filter (· != id) } }

/-- R144, R185: a command's token is signalled: bindings, waiting commands, contexts parked on token. -/
def signalCmd (s : State) (n id : Nat) : State :=
  let s := modTile s (tileOf n) fun t =>
    { t with tensor := dropWait id t.tensor, conv := dropWait id t.conv, ringq := dropWait id t.ringq }
  let s := modSpin s (spindleOf n) fun p =>
    { p with chans := p.chans.map fun e => (e.1, { e.2 with q := dropWait id e.2.q }) }
  modCtx s n fun c =>
    let c := { c with tok := c.tok.map fun (e : Nat × TokBind) => if e.2.cmd = id then (e.1, { e.2 with done := true }) else e }
    match c.wait with
    | .tokens ids =>
      let rest := ids.filter (· != id)
      if rest = [] then wake c else { c with wait := .tokens rest }
    | _ => c

/-- A context of a tile that waits for a place in a queue, or for commands to end, looks again. -/
def wakeEngineWaiters (s : State) (tile : Nat) : State :=
  wakeWhere s fun n c => tileOf n == tile && (match c.wait with | .engine _ => true | _ => false)

/-- R144: the head command leaves its queue and its token is signalled. -/
def finishHead (s : State) (sp q : Nat) : State :=
  let x := queueAt s sp q
  match x.cmds with
  | [] => s
  | c :: cs =>
    let s := setQueue s sp q { x with cmds := cs, running := false, stop := none }
    wakeEngineWaiters (signalCmd s c.ctx c.id) (tileOfSpindle sp)

/-- R384: STOPVEC as context n reads it. -/
def stopvec (s : State) (n : Nat) : Word :=
  word ((List.range 11).foldl (fun a q =>
    let x := queueAt s (spindleOf n) q
    let own := (x.stop.isSome || x.frozen) && (match x.cmds with | c :: _ => c.ctx == n | [] => false)
    a + (if own then 2 ^ (32 + q) else 0) + (if x.frozen then 2 ^ (16 + q) else 0) + (if x.stop.isSome then 2 ^ q else 0)) 0)

/-- R386: a stopped queue runs its head command again; a frozen one stays frozen. -/
def restartQueue (s : State) (sp q : Nat) : State :=
  let x := queueAt s sp q
  if x.stop.isSome then setQueue s sp q { x with stop := none, running := false } else s
/-- R386: the head command of a stopped queue is discarded, its token signalled. -/
def skipQueue (s : State) (sp q : Nat) : State :=
  if (queueAt s sp q).stop.isSome then finishHead s sp q else s

/-- R145, R384: the head command takes an engine fault: its queue stops with the record, and the stop is posted. -/
def stopQueue (s : State) (sp q : Nat) (f : FaultInfo) : State :=
  let x := queueAt s sp q
  match x.cmds with
  | [] => s
  | c :: _ =>
    let s := correct s f.reads
    let s := setQueue s sp q { x with running := false, stop := some ⟨f.code, f.addr, f.info⟩ }
    -- R373: INFO of a stop is the tile and STOPVEC, as the issuing context reads it (DEDUCED, log entry 27)
    post s (partOfCtx s c.ctx) 1 (word (tileOfSpindle sp)) (stopvec s c.ctx)

/-- R385: a dword of a queue's stop record. -/
def stopDword (s : State) (sp q i : Nat) : Word :=
  let x := queueAt s sp q
  match x.stop, x.cmds with
  | some r, c :: _ =>
    match i with
    | 0 => word (r.code + (opField c.word).toNat * 2 ^ 8 + (if 3 ≤ q then c.cseq * 2 ^ 16 else 0) + c.ctx * 2 ^ 32)
    | 1 => r.faddr
    | 2 => r.finfo
    | 3 => c.bpc
    | 4 => word (if 3 ≤ q then c.done else 0)
    | _ => 0
  | _, _ => 0

/-- R228: WPn: the count of the command last delivered for, and one past its last byte. -/
def wpRead (s : State) (n ch : Nat) : Word :=
  let x := copyChanAt s (spindleOf n) ch
  word (x.cseq * 2 ^ 57 + bits x.addr 56 0)

end Sys2Proof.Machine
end

