-- ==== Sys2Proof/Machine/Vector.lean ====
section
/-! DEFINITION. Integer, logic, compare and permute vector operations (R119 to R127, R136 to R140), with reductions and
scans of integers (R94, R95, R134, R135). Latency bounds from R118. -/
namespace Sys2Proof.Machine

/-- A vector operation that takes no LFSR step, from its element function. -/
def intVec (f : RRR) (w bound : Nat) (g : View → Nat → RR) : Op := vecOp f w bound (fun _ => false) fun v i _ => g v i
/-- An element-wise operation of two elements. -/
def binVec (f : RRR) (w bound : Nat) (g : Nat → Nat → RR) : Op :=
  intVec f w bound fun v i => g ((readV v.c f.a).elem w i) ((readV v.c f.b).elem w i)

/-! ## Arithmetic (R119, R120) -/

/-- R119: the form that OPM[1:0] selects, on exact results. -/
def arithVec (f : RRR) (w bound : Nat) (g : Int → Int → Int) : Op :=
  let form := bits f.md.toNat 1 0
  binVec f w bound fun a b => intForm form w (g (intElem form w a) (intElem form w b))
def opVaddS32 (f : RRR) : Op := arithVec f 32 2 fun a b => a + b
def opVaddS16 (f : RRR) : Op := arithVec f 16 2 fun a b => a + b
def opVaddS8 (f : RRR) : Op := arithVec f 8 2 fun a b => a + b
def opVsubS32 (f : RRR) : Op := arithVec f 32 2 fun a b => a - b
def opVsubS16 (f : RRR) : Op := arithVec f 16 2 fun a b => a - b
def opVsubS8 (f : RRR) : Op := arithVec f 8 2 fun a b => a - b
def opVmulS32 (f : RRR) : Op := arithVec f 32 3 fun a b => a * b
def opVmulS16 (f : RRR) : Op := arithVec f 16 3 fun a b => a * b

/-- R120: compared signed, or unsigned when OPM[1] = 1. -/
def elemLess (f : RRR) (w a b : Nat) : Bool := if bit f.md.toNat 1 then decide (a < b) else decide (sext a w < sext b w)
def minVec (f : RRR) (w : Nat) : Op := binVec f w 2 fun a b => ⟨if elemLess f w b a then b else a, 0, 0⟩
def maxVec (f : RRR) (w : Nat) : Op := binVec f w 2 fun a b => ⟨if elemLess f w a b then b else a, 0, 0⟩
def opVminS32 (f : RRR) : Op := minVec f 32
def opVmaxS32 (f : RRR) : Op := maxVec f 32
def opVminS16 (f : RRR) : Op := minVec f 16
def opVmaxS16 (f : RRR) : Op := maxVec f 16

/-! ## Logic and shifts (R121, R122) -/

/-- R121: bitwise, on vectors, or on all 256 bits of masks when d names a mask. -/
def logicVec (f : RRR) (g : Nat → Nat → Nat) (gm : BitVec 256 → BitVec 256 → BitVec 256) : Op :=
  if 384 ≤ f.d.toNat then
    { dests := dstV f.d, claim := true
      run := fun v s =>
        .ok s { landM f.d (gm (getM v.c (f.a.toNat - 384)) (getM v.c (f.b.toNat - 384))) 2 with ew := 1 } }
  else binVec f 32 2 fun a b => ⟨g a b, 0, 0⟩
def opVand (f : RRR) : Op := logicVec f Nat.land (· &&& ·)
def opVor (f : RRR) : Op := logicVec f Nat.lor (· ||| ·)
def opVxor (f : RRR) : Op := logicVec f Nat.xor (· ^^^ ·)

/-- R122: the count is the low bits of b_i. -/
def shlVec (f : RRR) (w : Nat) : Op := binVec f w 2 fun a b => ⟨a * 2 ^ (b % w) % 2 ^ w, 0, 0⟩
def shrVec (f : RRR) (w : Nat) : Op :=
  binVec f w 2 fun a b =>
    ⟨if bit f.md.toNat 1 then a / 2 ^ (b % w) else truncI (sext a w / (2 ^ (b % w) : Nat)) w, 0, 0⟩
def opVshlS32 (f : RRR) : Op := shlVec f 32
def opVshlS16 (f : RRR) : Op := shlVec f 16
def opVshrS32 (f : RRR) : Op := shrVec f 32
def opVshrS16 (f : RRR) : Op := shrVec f 16

/-! ## Multiply-accumulate and dot products (R123 to R125) -/

/-- R123: SAT is OPM[0], UNS OPM[1]. -/
def macForm (f : RRR) : Nat := if !bit f.md.toNat 0 then 0 else if bit f.md.toNat 1 then 3 else 1
/-- R123: an element read signed, or unsigned when UNS = 1. -/
def macElem (f : RRR) (w v : Nat) : Int := if bit f.md.toNat 1 then (v : Int) else sext v w
def opVmacwS16 (f : RRR) : Op :=
  intVec f 32 3 fun v i =>
    let j := 2 * i + bits f.md.toNat 2 2
    intForm (macForm f) 32 (macElem f 32 ((readV v.c f.c).elem 32 i) +
      macElem f 16 ((readV v.c f.a).elem 16 j) * macElem f 16 ((readV v.c f.b).elem 16 j))
/-- R124: the dot product of the elements of a lane, added to c. -/
def dotVec (f : RRR) (w : Nat) : Op :=
  intVec f 32 3 fun v i =>
    let k := 32 / w
    intForm (macForm f) 32 ((List.range k).foldl (fun x j =>
      x + macElem f w ((readV v.c f.a).elem w (k * i + j)) * macElem f w ((readV v.c f.b).elem w (k * i + j)))
      (macElem f 32 ((readV v.c f.c).elem 32 i)))
def opVdotS8 (f : RRR) : Op := dotVec f 8
def opVdotS16 (f : RRR) : Op := dotVec f 16
def opVclmul (f : RRR) : Op := binVec f 32 3 fun a b => ⟨clmulN a b 32 % 2 ^ 32, 0, 0⟩
def opVclmulh (f : RRR) : Op := binVec f 32 3 fun a b => ⟨clmulN a b 32 / 2 ^ 32, 0, 0⟩

/-! ## Compare and select (R126, R127) -/

/-- R126: a mask from a condition per element; bits at and above N are 0, inactive bits follow ZM. -/
def cmpVec (f : RRR) (w bound : Nat) (g : View → Nat → Bool) : Op :=
  { dests := dstV f.d, claim := true
    run := fun v s =>
      let old := getM v.c (f.d.toNat - 384)
      let m := governOf f v.c
      let r := (List.range (v.c.lanes * 32 / w)).foldl (fun a i =>
        let b := if m.getLsbD i then g v i else if f.zm then false else old.getLsbD i
        a + if b then 2 ^ i else 0) 0
      .ok s { landM f.d (BitVec.ofNat 256 r) bound with ew := 1 } }
/-- R126: an integer compare. -/
def cmpInt (f : RRR) (w : Nat) : Op :=
  cmpVec f w 2 fun v i => condInt f.opm w ((readV v.c f.a).elem w i) ((readV v.c f.b).elem w i)
def opVcmpS32 (f : RRR) : Op := cmpInt f 32
def opVcmpS16 (f : RRR) : Op := cmpInt f 16

/-- R127, R136: the element width of a width code. -/
def widthCode (k : Nat) : Nat :=
  match k with
  | 0 => 32 | 1 => 16 | _ => 8
def opVsel (f : RRR) : Op :=
  let w := widthCode (bits f.md.toNat 1 0)
  intVec f w 2 fun v i =>
    ⟨if (getM v.c (f.c.toNat - 384)).getLsbD i then (readV v.c f.a).elem w i else (readV v.c f.b).elem w i, 0, 0⟩

/-! ## Permutes and element moves (R136 to R140) -/

/-- R136: f(i) = a_j with j = b_i, 0 when j ≥ N. -/
def opVperm (f : RRR) : Op :=
  let w := widthCode (bits f.md.toNat 1 0)
  intVec f w 3 fun v i =>
    let j := (readV v.c f.b).elem w i
    ⟨if j < v.c.lanes * 32 / w then (readV v.c f.a).elem w j else 0, 0, 0⟩
/-- An unmasked operation that writes every element below N (R113). -/
def plainVec (d : BitVec 9) (w bound : Nat) (g : View → Nat → Nat) : Op :=
  { dests := dstV d, claim := true
    run := fun v s =>
      .ok s { landV v.c d (packLanes w ((List.range (v.c.lanes * 32 / w)).map (g v)) v.c.lanes) bound with ew := w } }
def opVsplat (f : RRI) : Op := plainVec f.d 32 2 fun _ _ => f.imm.toNat
def opVslide (f : RRI) : Op :=
  let w := widthCode (bits f.imm.toNat 17 16)
  let k := sext f.imm.toNat 16
  plainVec f.d w 3 fun v i =>
    let j := (i : Int) + k
    if 0 ≤ j ∧ j < (v.c.lanes * 32 / w : Nat) then (readV v.c f.a).elem w j.toNat else 0
/-- R139: the element formed at index e of d. -/
def zipElem (f : RRR) (w : Nat) (v : View) (e : Nat) : Nat :=
  let h := v.c.lanes * 32 / w / 2
  let k := bits f.md.toNat 2 2
  if bit f.md.toNat 3 then
    if e < h then (readV v.c f.a).elem w (2 * e + k) else (readV v.c f.b).elem w (2 * (e - h) + k)
  else if e % 2 = 0 then (readV v.c f.a).elem w (k * h + e / 2) else (readV v.c f.b).elem w (k * h + e / 2)
def opVzip (f : RRR) : Op :=
  let w := widthCode (bits f.md.toNat 1 0)
  intVec f w 3 fun v i => ⟨zipElem f w v i, 0, 0⟩
def opVpack (f : RRR) : Op :=
  let w := widthCode (bits f.md.toNat 1 0)
  intVec f w 3 fun v i => ⟨zipElem f w v i, 0, 0⟩
def opVext (f : RRI) : Op :=
  let w := widthCode (bits f.imm.toNat 9 8)
  let j := bits f.imm.toNat 7 0
  plainVec f.d w 3 fun v i =>
    if i = 0 ∧ j < v.c.lanes * 32 / w then (readV v.c f.a).elem w j else 0

/-! ## Integer reductions and scans (R94, R95, R134, R135) -/

/-- R94: one level of the pairwise tree, flags of its nodes ORed. -/
def treeLevel (g : Nat → Nat → Nat → RR) : Nat → List Nat → List Nat × BitVec 5 × BitVec 2
  | i, a :: b :: t =>
    let r := g i a b
    let (l, ff, sf) := treeLevel g (i + 1) t
    (r.code :: l, r.ff ||| ff, r.sf ||| sf)
  | _, l => (l, 0, 0)

/-- R94: the tree over 2^k elements. -/
def tree (g : Nat → Nat → Nat → RR) : Nat → List Nat → Nat × BitVec 5 × BitVec 2
  | 0, l => (l.headD 0, 0, 0)
  | k + 1, l =>
    let (l, ff, sf) := treeLevel g 0 l
    let (x, ff', sf') := tree g k l
    (x, ff ||| ff', sf ||| sf')

/-- The least k with n ≤ 2^k, for n up to 64. -/
def logCeil (n : Nat) : Nat := ((List.range 7).find? fun k => decide (n ≤ 2 ^ k)).getD 7

/-- R94, R134: the elements of a reduction, the identity where masked or padded. -/
def redElems (f : RRR) (v : View) (identity : Nat) : List Nat :=
  let m := governOf f v.c
  (List.range (2 ^ logCeil v.c.lanes)).map fun i =>
    if i < v.c.lanes ∧ m.getLsbD i then (readV v.c f.a).elem 32 i else identity

/-- R134: the result goes to element 0; the others keep their values or are written 0. -/
def redLanes (f : RRR) (v : View) (r : Nat) : List Lane :=
  let old := readV v.c f.d
  (List.range v.c.lanes).map fun i =>
    if i = 0 then BitVec.ofNat 32 r else if f.zm then 0 else BitVec.ofNat 32 (old.elem 32 i)

def opVredS32 (f : RRR) : Op :=
  let kind := bits f.md.toNat 1 0
  let sat := bit f.md.toNat 2
  let uns := bit f.md.toNat 3
  let form := if !sat then 0 else if uns then 3 else 1
  let identity := match kind with
    | 0 => 0 | 1 => (if uns then 0xFFFFFFFF else 0x7FFFFFFF) | _ => (if uns then 0 else 0x80000000)
  let less (a b : Nat) : Bool := if uns then decide (a < b) else decide (sext a 32 < sext b 32)
  let node (_ a b : Nat) : RR :=
    match kind with
    | 0 => intForm form 32 (intElem form 32 a + intElem form 32 b)
    | 1 => ⟨if less b a then b else a, 0, 0⟩
    | _ => ⟨if less a b then b else a, 0, 0⟩
  { dests := dstV f.d, claim := true
    run := fun v s =>
      let (r, ff, sf) := tree node (logCeil v.c.lanes) (redElems f v identity)
      .ok s { landV v.c f.d (redLanes f v r) 8 with ff := ff, sf := sf } }

/-- R95: the running values of a scan over the elements from index i on. -/
def scanList (g : Nat → Nat → Nat → RR) : Nat → Nat → List Nat → List Nat × BitVec 5 × BitVec 2
  | _, _, [] => ([], 0, 0)
  | i, y, x :: xs =>
    let r := g i y x
    let (l, ff, sf) := scanList g (i + 1) r.code xs
    (r.code :: l, r.ff ||| ff, r.sf ||| sf)

/-- R95, R135: the elements of a scan, the identity where masked. -/
def scanElems (f : RRR) (v : View) (identity : Nat) : List Nat :=
  let m := governOf f v.c
  (List.range v.c.lanes).map fun i => if m.getLsbD i then (readV v.c f.a).elem 32 i else identity

def opVscanS32 (f : RRR) : Op :=
  let form := if !bit f.md.toNat 0 then 0 else if bit f.md.toNat 1 then 3 else 1
  { dests := dstV f.d, claim := true
    run := fun v s =>
      let (l, ff, sf) := scanList (fun _ y x => intForm form 32 (intElem form 32 y + intElem form 32 x)) 0 0 (scanElems f v 0)
      .ok s { landV v.c f.d (packLanes 32 l v.c.lanes) 8 with ff := ff, sf := sf } }

/-! ## The instructions, each issued by the current context alone in its bundle -/
def execVaddS32 (f : RRR) (s : State) : Host.Outcome State Fault Refusal := issueOne (f.pack 0x40) (opVaddS32 f) s
def execVaddS16 (f : RRR) (s : State) : Host.Outcome State Fault Refusal := issueOne (f.pack 0x41) (opVaddS16 f) s
def execVaddS8 (f : RRR) (s : State) : Host.Outcome State Fault Refusal := issueOne (f.pack 0x42) (opVaddS8 f) s
def execVsubS32 (f : RRR) (s : State) : Host.Outcome State Fault Refusal := issueOne (f.pack 0x43) (opVsubS32 f) s
def execVsubS16 (f : RRR) (s : State) : Host.Outcome State Fault Refusal := issueOne (f.pack 0x44) (opVsubS16 f) s
def execVsubS8 (f : RRR) (s : State) : Host.Outcome State Fault Refusal := issueOne (f.pack 0x45) (opVsubS8 f) s
def execVmulS32 (f : RRR) (s : State) : Host.Outcome State Fault Refusal := issueOne (f.pack 0x46) (opVmulS32 f) s
def execVmulS16 (f : RRR) (s : State) : Host.Outcome State Fault Refusal := issueOne (f.pack 0x47) (opVmulS16 f) s
def execVminS32 (f : RRR) (s : State) : Host.Outcome State Fault Refusal := issueOne (f.pack 0x48) (opVminS32 f) s
def execVmaxS32 (f : RRR) (s : State) : Host.Outcome State Fault Refusal := issueOne (f.pack 0x49) (opVmaxS32 f) s
def execVminS16 (f : RRR) (s : State) : Host.Outcome State Fault Refusal := issueOne (f.pack 0x4A) (opVminS16 f) s
def execVmaxS16 (f : RRR) (s : State) : Host.Outcome State Fault Refusal := issueOne (f.pack 0x4B) (opVmaxS16 f) s
def execVand (f : RRR) (s : State) : Host.Outcome State Fault Refusal := issueOne (f.pack 0x4C) (opVand f) s
def execVor (f : RRR) (s : State) : Host.Outcome State Fault Refusal := issueOne (f.pack 0x4D) (opVor f) s
def execVxor (f : RRR) (s : State) : Host.Outcome State Fault Refusal := issueOne (f.pack 0x4E) (opVxor f) s
def execVshlS32 (f : RRR) (s : State) : Host.Outcome State Fault Refusal := issueOne (f.pack 0x4F) (opVshlS32 f) s
def execVshrS32 (f : RRR) (s : State) : Host.Outcome State Fault Refusal := issueOne (f.pack 0x50) (opVshrS32 f) s
def execVshlS16 (f : RRR) (s : State) : Host.Outcome State Fault Refusal := issueOne (f.pack 0x51) (opVshlS16 f) s
def execVshrS16 (f : RRR) (s : State) : Host.Outcome State Fault Refusal := issueOne (f.pack 0x52) (opVshrS16 f) s
def execVmacwS16 (f : RRR) (s : State) : Host.Outcome State Fault Refusal := issueOne (f.pack 0x53) (opVmacwS16 f) s
def execVdotS8 (f : RRR) (s : State) : Host.Outcome State Fault Refusal := issueOne (f.pack 0x54) (opVdotS8 f) s
def execVdotS16 (f : RRR) (s : State) : Host.Outcome State Fault Refusal := issueOne (f.pack 0x55) (opVdotS16 f) s
def execVclmul (f : RRR) (s : State) : Host.Outcome State Fault Refusal := issueOne (f.pack 0x56) (opVclmul f) s
def execVclmulh (f : RRR) (s : State) : Host.Outcome State Fault Refusal := issueOne (f.pack 0x57) (opVclmulh f) s
def execVcmpS32 (f : RRR) (s : State) : Host.Outcome State Fault Refusal := issueOne (f.pack 0x58) (opVcmpS32 f) s
def execVcmpS16 (f : RRR) (s : State) : Host.Outcome State Fault Refusal := issueOne (f.pack 0x59) (opVcmpS16 f) s
def execVsel (f : RRR) (s : State) : Host.Outcome State Fault Refusal := issueOne (f.pack 0x5A) (opVsel f) s
def execVredS32 (f : RRR) (s : State) : Host.Outcome State Fault Refusal := issueOne (f.pack 0x78) (opVredS32 f) s
def execVscanS32 (f : RRR) (s : State) : Host.Outcome State Fault Refusal := issueOne (f.pack 0x7A) (opVscanS32 f) s
def execVperm (f : RRR) (s : State) : Host.Outcome State Fault Refusal := issueOne (f.pack 0x7B) (opVperm f) s
def execVsplat (f : RRI) (s : State) : Host.Outcome State Fault Refusal := issueOne (f.pack 0x7C) (opVsplat f) s
def execVslide (f : RRI) (s : State) : Host.Outcome State Fault Refusal := issueOne (f.pack 0x7D) (opVslide f) s
def execVzip (f : RRR) (s : State) : Host.Outcome State Fault Refusal := issueOne (f.pack 0x7E) (opVzip f) s
def execVpack (f : RRR) (s : State) : Host.Outcome State Fault Refusal := issueOne (f.pack 0x7E) (opVpack f) s
def execVext (f : RRI) (s : State) : Host.Outcome State Fault Refusal := issueOne (f.pack 0x7F) (opVext f) s

end Sys2Proof.Machine
end

