-- ==== Sys2Proof/Machine/VecFloat.lean ====
section
/-! DEFINITION. Floating-point vector operations: arithmetic (R128), minimum and maximum (R129), compares (R126), conversions
(R130 to R132), special functions (R133), and the FP32 reduction and scan (R94, R95, R134, R135). -/
namespace Sys2Proof.Machine

/-- R128: the effective mode of an operation whose OPM[2:0] is RS. -/
def modeOf (f : RRR) (c : Ctx) : RM := rmOf (bits f.md.toNat 2 0) c.rm
/-- R85: an element as a floating-point source. -/
def srcF (c : Ctx) (fm : Fmt) (code : Nat) : FV := flushSrc fm c.fz (decodeF fm code)
/-- R79, R84, R85: an exact result rounded in the context's state, with the flags of forming it. -/
def finF (c : Ctx) (fm : Fmt) (m : RM) (s : Nat) (x : FV × BitVec 5) : RR :=
  let r := roundTo fm m false c.fz s x.1
  { r with ff := r.ff ||| x.2 }

/-- R128: an arithmetic operation of two elements in a format. -/
def arithF (f : RRR) (fm : Fmt) (g : RM → FV → FV → FV × BitVec 5) : Op :=
  vecOp f fm.width 4 (fun v => modeOf f v.c == .sr) fun v i s =>
    let m := modeOf f v.c
    finF v.c fm m s (g m (srcF v.c fm ((readV v.c f.a).elem fm.width i)) (srcF v.c fm ((readV v.c f.b).elem fm.width i)))
/-- R128: NEG, OPM[3]. -/
def negF (f : RRR) (x : FV) : FV := if bit f.md.toNat 3 then x.flip else x
def addVec (f : RRR) (fm : Fmt) : Op := arithF f fm fun m a b => addF m a (negF f b)
def mulVec (f : RRR) (fm : Fmt) : Op := arithF f fm fun _ a b => let (p, fl) := mulF a b; (negF f p, fl)
/-- R128: a × b + c, or a × b − c, rounded once. -/
def fmaVec (f : RRR) (fm : Fmt) : Op :=
  vecOp f fm.width 4 (fun v => modeOf f v.c == .sr) fun v i s =>
    let m := modeOf f v.c
    let e (x : BitVec 9) : FV := srcF v.c fm ((readV v.c x).elem fm.width i)
    finF v.c fm m s (fmaF m (e f.a) (e f.b) (negF f (e f.c)))
def opVaddF32 (f : RRR) : Op := addVec f f32
def opVsubF32 (f : RRR) : Op := arithF f f32 fun m a b => addF m a (negF f b.flip)
def opVmulF32 (f : RRR) : Op := mulVec f f32
def opVfmaF32 (f : RRR) : Op := fmaVec f f32
def opVaddBf16 (f : RRR) : Op := addVec f bf16
def opVmulBf16 (f : RRR) : Op := mulVec f bf16
def opVfmaBf16 (f : RRR) : Op := fmaVec f bf16
def opVaddF16 (f : RRR) : Op := addVec f f16
def opVmulF16 (f : RRR) : Op := mulVec f f16
def opVfmaF16 (f : RRR) : Op := fmaVec f f16

/-- R129: an exact operation of two FP32 elements: no flag, no step. -/
def exactF (f : RRR) (g : FV → FV → FV) : Op :=
  intVec f 32 4 fun v i =>
    ⟨codeOf f32 (g (srcF v.c f32 ((readV v.c f.a).elem 32 i)) (srcF v.c f32 ((readV v.c f.b).elem 32 i))), 0, 0⟩
def opVminF32 (f : RRR) : Op := exactF f minF
def opVmaxF32 (f : RRR) : Op := exactF f maxF
def opVcmpF32 (f : RRR) : Op :=
  cmpVec f 32 4 fun v i =>
    condF f.opm (srcF v.c f32 ((readV v.c f.a).elem 32 i)) (srcF v.c f32 ((readV v.c f.b).elem 32 i))

/-! ## Conversions (R130 to R132) -/

/-- R132: one element converted from type st to type dt, whose width is wd. -/
def convert (c : Ctx) (st dt wd : Nat) (m : RM) (ovf : Bool) (s code : Nat) : RR :=
  let flushed (fm : Fmt) : Bool := c.fz && (fm.kind == .ieee)
  match fmtOf st, fmtOf dt with
  | some sf, some df => roundTo df m ovf (flushed df) s (flushSrc sf (flushed sf) (decodeF sf code))
  | some sf, none =>
    let (lo, hi) := (intRange dt).getD (0, 0)
    let (v, ff, sat) := floatToInt m s lo hi (flushSrc sf (flushed sf) (decodeF sf code))
    ⟨truncI v wd, ff, sat⟩
  | none, df =>
    let (lo, _) := (intRange st).getD (0, 0)
    let x : Int := if lo = 0 then (code : Int) else sext code (cvtWidth st)
    match df with
    | some df => roundTo df m ovf (flushed df) s (ofInt x)
    | none =>
      let (lo, hi) := (intRange dt).getD (0, 0)
      let (v, cl) := satTo x lo hi
      ⟨truncI v wd, 0, if cl then sIS else 0⟩

/-- R131: the source element that destination element j takes, if PART names j. -/
def cvtSource (ws wd part lanes j : Nat) : Option Nat :=
  let nd := lanes * 32 / wd
  let ns := lanes * 32 / ws
  if ws ≤ wd then some (part * nd + j)
  else if part * ns ≤ j ∧ j < part * ns + ns then some (j - part * ns) else none

/-- R130, R131: a conversion to type dt. -/
def vcvtOp (f : RRR) (dt : Nat) : Op :=
  let st := f.ty.toNat
  let hi := bit f.md.toNat 3
  let d := if dt ≤ 0x03 ∧ hi then dt + 4 else dt
  let ws := cvtWidth st
  let wd := cvtWidth d
  { dests := dstV f.d, claim := true
    run := fun v s =>
      let m := modeOf f v.c
      let sr := m == .sr
      let old := readV v.c f.d
      let a := readV v.c f.a
      let mask := governOf f v.c
      let (es, ff, sf, lf) := (List.range (v.c.lanes * 32 / wd)).foldl (fun (x : List Nat × BitVec 5 × BitVec 2 × SMap Lane) j =>
        let (es, ff, sf, lf) := x
        match cvtSource ws wd f.c.toNat v.c.lanes j with
        | none => (es ++ [old.elem wd j], ff, sf, lf)
        | some i =>
          let l := j * wd / 32
          let lf' := if sr then lfsrNext lf l else lf
          if mask.getLsbD j then
            let r := convert v.c st d wd m hi (lfsrOf lf l) (a.elem ws i)
            (es ++ [r.code], ff ||| r.ff, sf ||| r.sf, lf')
          else (es ++ [if f.zm then 0 else old.elem wd j], ff, sf, lf')) ([], 0, 0, v.c.lfsr)
      .ok (setLfsr s v.n sr lf)
        { landV v.c f.d (packLanes wd es v.c.lanes) 3 with ff := ff, sf := sf, ew := wd } }
def opVcvtF32 (f : RRR) : Op := vcvtOp f 0x10
def opVcvtBf16 (f : RRR) : Op := vcvtOp f 0x12
def opVcvtF16 (f : RRR) : Op := vcvtOp f 0x11
def opVcvtF8e4 (f : RRR) : Op := vcvtOp f 0x13
def opVcvtF8e5 (f : RRR) : Op := vcvtOp f 0x14
def opVcvtS32 (f : RRR) : Op := vcvtOp f 0x03
def opVcvtS16 (f : RRR) : Op := vcvtOp f 0x02
def opVcvtS8 (f : RRR) : Op := vcvtOp f 0x01

/-! ## Special functions (R97, R133) -/

/-- R133: a function of R97 applied to each FP32 element. -/
def specVec (f : RRR) (g : Bool → FV → RR) : Op :=
  intVec f 32 6 fun v i => g v.c.fz (srcF v.c f32 ((readV v.c f.a).elem 32 i))
def opVexp2 (f : RRR) : Op := specVec f vexp2F
def opVlog2 (f : RRR) : Op := specVec f (vlogF true)
def opVrcp (f : RRR) : Op := specVec f vrcpF
def opVrsqrt (f : RRR) : Op := specVec f vrsqrtF
def opVtanh (f : RRR) : Op := specVec f vtanhF
def opVexp (f : RRR) : Op := specVec f vexpF
def opVlog (f : RRR) : Op := specVec f (vlogF false)

/-! ## Reduction and scan (R94, R95) -/

/-- R94: one level of a floating-point add tree, node i taking a step of lane i under SR. -/
def levelF (c : Ctx) (m : RM) : Nat → SMap Lane → List Nat → List Nat × BitVec 5 × SMap Lane
  | i, lf, a :: b :: t =>
    let r := finF c f32 m (lfsrOf lf i) (addF m (srcF c f32 a) (srcF c f32 b))
    let (l, ff, lf) := levelF c m (i + 1) (if m == .sr then lfsrNext lf i else lf) t
    (r.code :: l, r.ff ||| ff, lf)
  | _, lf, l => (l, 0, lf)
/-- R94: the add tree over 2^k elements. -/
def treeF (c : Ctx) (m : RM) : Nat → SMap Lane → List Nat → Nat × BitVec 5 × SMap Lane
  | 0, lf, l => (l.headD 0, 0, lf)
  | k + 1, lf, l =>
    let (l, ff, lf) := levelF c m 0 lf l
    let (x, ff', lf) := treeF c m k lf l
    (x, ff ||| ff', lf)

def opVredF32 (f : RRR) : Op :=
  let kind := bits f.md.toNat 1 0
  { dests := dstV f.d, claim := true
    run := fun v s =>
      let k := logCeil v.c.lanes
      if kind = 0 then
        let m := rmOf 7 v.c.rm
        let (r, ff, lf) := treeF v.c m k v.c.lfsr (redElems f v 0x80000000)
        .ok (setLfsr s v.n (m == .sr) lf) { landV v.c f.d (redLanes f v r) 8 with ff := ff }
      else
        let node (_ a b : Nat) : RR :=
          ⟨codeOf f32 ((if kind = 1 then minF else maxF) (srcF v.c f32 a) (srcF v.c f32 b)), 0, 0⟩
        let (r, _, _) := tree node k (redElems f v (if kind = 1 then 0x7F800000 else 0xFF800000))
        .ok s { landV v.c f.d (redLanes f v r) 8 with } }

/-- R95: the running sums from element i on; the running value is y, or none before element 0. -/
def scanF (c : Ctx) (m : RM) : Nat → Option Nat → SMap Lane → List Nat → List Nat × BitVec 5 × SMap Lane
  | _, _, lf, [] => ([], 0, lf)
  | i, y, lf, x :: xs =>
    let e := match y with
      | none => (srcF c f32 x, 0)
      | some y => addF m (srcF c f32 y) (srcF c f32 x)
    let r := finF c f32 m (lfsrOf lf i) e
    let (l, ff, lf) := scanF c m (i + 1) (some r.code) (if m == .sr then lfsrNext lf i else lf) xs
    (r.code :: l, r.ff ||| ff, lf)

def opVscanF32 (f : RRR) : Op :=
  { dests := dstV f.d, claim := true
    run := fun v s =>
      let m := rmOf 7 v.c.rm
      let (l, ff, lf) := scanF v.c m 0 none v.c.lfsr (scanElems f v 0x80000000)
      .ok (setLfsr s v.n (m == .sr) lf) { landV v.c f.d (packLanes 32 l v.c.lanes) 8 with ff := ff } }

/-! ## The instructions, each issued by the current context alone in its bundle -/
def execVaddF32 (f : RRR) (s : State) : Host.Outcome State Fault Refusal := issueOne (f.pack 0x5B) (opVaddF32 f) s
def execVsubF32 (f : RRR) (s : State) : Host.Outcome State Fault Refusal := issueOne (f.pack 0x5C) (opVsubF32 f) s
def execVmulF32 (f : RRR) (s : State) : Host.Outcome State Fault Refusal := issueOne (f.pack 0x5D) (opVmulF32 f) s
def execVfmaF32 (f : RRR) (s : State) : Host.Outcome State Fault Refusal := issueOne (f.pack 0x5E) (opVfmaF32 f) s
def execVminF32 (f : RRR) (s : State) : Host.Outcome State Fault Refusal := issueOne (f.pack 0x5F) (opVminF32 f) s
def execVmaxF32 (f : RRR) (s : State) : Host.Outcome State Fault Refusal := issueOne (f.pack 0x60) (opVmaxF32 f) s
def execVcmpF32 (f : RRR) (s : State) : Host.Outcome State Fault Refusal := issueOne (f.pack 0x61) (opVcmpF32 f) s
def execVaddBf16 (f : RRR) (s : State) : Host.Outcome State Fault Refusal := issueOne (f.pack 0x62) (opVaddBf16 f) s
def execVmulBf16 (f : RRR) (s : State) : Host.Outcome State Fault Refusal := issueOne (f.pack 0x63) (opVmulBf16 f) s
def execVfmaBf16 (f : RRR) (s : State) : Host.Outcome State Fault Refusal := issueOne (f.pack 0x64) (opVfmaBf16 f) s
def execVaddF16 (f : RRR) (s : State) : Host.Outcome State Fault Refusal := issueOne (f.pack 0x65) (opVaddF16 f) s
def execVmulF16 (f : RRR) (s : State) : Host.Outcome State Fault Refusal := issueOne (f.pack 0x66) (opVmulF16 f) s
def execVfmaF16 (f : RRR) (s : State) : Host.Outcome State Fault Refusal := issueOne (f.pack 0x67) (opVfmaF16 f) s
def execVcvtF32 (f : RRR) (s : State) : Host.Outcome State Fault Refusal := issueOne (f.pack 0x68) (opVcvtF32 f) s
def execVcvtBf16 (f : RRR) (s : State) : Host.Outcome State Fault Refusal := issueOne (f.pack 0x69) (opVcvtBf16 f) s
def execVcvtF16 (f : RRR) (s : State) : Host.Outcome State Fault Refusal := issueOne (f.pack 0x6A) (opVcvtF16 f) s
def execVcvtF8e4 (f : RRR) (s : State) : Host.Outcome State Fault Refusal := issueOne (f.pack 0x6B) (opVcvtF8e4 f) s
def execVcvtF8e5 (f : RRR) (s : State) : Host.Outcome State Fault Refusal := issueOne (f.pack 0x6C) (opVcvtF8e5 f) s
def execVcvtS32 (f : RRR) (s : State) : Host.Outcome State Fault Refusal := issueOne (f.pack 0x6D) (opVcvtS32 f) s
def execVcvtS16 (f : RRR) (s : State) : Host.Outcome State Fault Refusal := issueOne (f.pack 0x6E) (opVcvtS16 f) s
def execVcvtS8 (f : RRR) (s : State) : Host.Outcome State Fault Refusal := issueOne (f.pack 0x6F) (opVcvtS8 f) s
def execVexp2 (f : RRR) (s : State) : Host.Outcome State Fault Refusal := issueOne (f.pack 0x70) (opVexp2 f) s
def execVlog2 (f : RRR) (s : State) : Host.Outcome State Fault Refusal := issueOne (f.pack 0x71) (opVlog2 f) s
def execVrcp (f : RRR) (s : State) : Host.Outcome State Fault Refusal := issueOne (f.pack 0x72) (opVrcp f) s
def execVrsqrt (f : RRR) (s : State) : Host.Outcome State Fault Refusal := issueOne (f.pack 0x73) (opVrsqrt f) s
def execVtanh (f : RRR) (s : State) : Host.Outcome State Fault Refusal := issueOne (f.pack 0x74) (opVtanh f) s
def execVexp (f : RRR) (s : State) : Host.Outcome State Fault Refusal := issueOne (f.pack 0x75) (opVexp f) s
def execVlog (f : RRR) (s : State) : Host.Outcome State Fault Refusal := issueOne (f.pack 0x76) (opVlog f) s
def execVredF32 (f : RRR) (s : State) : Host.Outcome State Fault Refusal := issueOne (f.pack 0x77) (opVredF32 f) s
def execVscanF32 (f : RRR) (s : State) : Host.Outcome State Fault Refusal := issueOne (f.pack 0x79) (opVscanF32 f) s

end Sys2Proof.Machine
end

