-- ==== Sys2Proof/Machine/Commands.lean ====
section
/-! DEFINITION. The operands of a queued command: the fields of its words (R148, R154, R158, R225 to R227) and the ranges of
the stash that it reads and writes (R59, R60, R222). -/
namespace Sys2Proof.Machine

/-! ## Elements and operand tiles -/

/-- R74, R148: the width in bits of an element in the stash. -/
def elemBits (ty : Nat) : Nat := if ty = 0x37 then 4 else if isMx ty then 8 else cvtWidth ty
/-- Bytes of n elements. -/
def elemBytes (ty n : Nat) : Nat := (n * elemBits ty + 7) / 8

/-- A list cut into k pieces of n. -/
def chunks {α : Type} (n : Nat) : Nat → List α → List (List α)
  | 0, _ => []
  | k + 1, l => l.take n :: chunks n k (l.drop n)

/-- R148: rows of an operand tile. -/
def tileRows (roleB : Bool) : Nat := if roleB then 64 else 128
/-- R148: payload bytes and scale bytes of an operand tile. -/
def payloadBytes (ty : Nat) (roleB : Bool) (k : Nat) : Nat := tileRows roleB * k * elemBits ty / 8
def scaleBytes (ty : Nat) (roleB : Bool) (k : Nat) : Nat := if isMx ty then tileRows roleB * (k / 32) else 0
/-- R148: the slot size S. -/
def slotSize (ty : Nat) (roleB : Bool) (k : Nat) : Nat := (payloadBytes ty roleB k + scaleBytes ty roleB k + 127) / 128 * 128
def Ring.slotSize (r : Ring) : Nat := Machine.slotSize r.ty r.roleB r.k
/-- R148: the address of the slot at the head. -/
def Ring.headAddr (r : Ring) : Nat := r.base + r.head * r.slotSize

/-! ## Accumulator rows -/

/-- R154: the fields of the descriptor of acc.st and acc.ld. -/
def accFirst (d : Word) : Nat := bits d.toNat 38 32
def accCount (d : Word) : Nat := bits d.toNat 46 40 + 1
def accStride (d : Word) : Nat := bits d.toNat 31 16 * 64
def accInt (d : Word) : Bool := bit d.toNat 7
def accType (d : Word) : Nat := bits d.toNat 5 0
/-- The addresses of the rows. -/
def accAddrs (base d : Word) : List Nat := (List.range (accCount d)).map fun i => base.toNat + i * accStride d
/-- R154: the bytes of a row. -/
def accRowBytes (d : Word) : Nat := elemBytes (accType d) 64

/-! ## Conversions -/

/-- R158: the fields of the layout word. -/
def ConvDesc.cols (d : ConvDesc) : Nat := bits d.layout.toNat 47 32 + 1
def ConvDesc.rows (d : ConvDesc) : Nat := bits d.layout.toNat 27 16 + 1
def ConvDesc.rs (d : ConvDesc) : Nat := bits d.layout.toNat 10 8
def ConvDesc.tr (d : ConvDesc) : Bool := bit d.layout.toNat 7
def ConvDesc.ovf (d : ConvDesc) : Bool := bit d.layout.toNat 6
def ConvDesc.st (d : ConvDesc) : Nat := bits d.layout.toNat 5 0
def ConvDesc.srcStride (d : ConvDesc) : Nat := bits d.strides.toNat 31 0
def ConvDesc.dstStride (d : ConvDesc) : Nat := bits d.strides.toNat 63 32
/-- R159: rows of the destination and their length. -/
def ConvDesc.dstRows (d : ConvDesc) : Nat := if d.tr then d.cols else d.rows
def ConvDesc.dstCols (d : ConvDesc) : Nat := if d.tr then d.rows else d.cols

/-- Row addresses. -/
def rowAddrs (base : Word) (n stride : Nat) : List Nat := (List.range n).map fun i => base.toNat + i * stride

/-- R159: what the command reads and writes: source rows, scales, destination rows, as address lists with a length. -/
def convSrc (c : Cmd) (d : ConvDesc) : Nat × List Nat := (elemBytes d.st d.cols, rowAddrs c.a d.rows d.srcStride)
def convDst (c : Cmd) (d : ConvDesc) : Nat × List Nat := (elemBytes d.ty d.dstCols, rowAddrs c.b d.dstRows d.dstStride)
def convScale (c : Cmd) (d : ConvDesc) : Nat × List Nat :=
  if isMx d.st then (d.rows * (d.cols / 32), [c.c.toNat])
  else if isMx d.ty then (d.dstRows * (d.dstCols / 32), [c.c.toNat]) else (0, [])

/-! ## Copies -/

/-- The opcode of a command. -/
def Cmd.op (c : Cmd) : Nat := (opField c.word).toNat
/-- R225: BAR. -/
def Cmd.bar (c : Cmd) : Bool := c.op != 0xB6 && bit c.c.toNat 48
/-- R225: the bytes that a copy moves. -/
def Cmd.total (c : Cmd) : Nat :=
  if c.op = 0xB6 then bits c.c.toNat 39 16 * bits c.c.toNat 15 0 else bits c.c.toNat 39 0
/-- R225: ROWB. -/
def Cmd.rowBytes (c : Cmd) : Nat := bits c.c.toNat 15 0
/-- R226: the bytes of the index list. -/
def Cmd.indexBytes (c : Cmd) : Nat := 4 * bits c.c.toNat 39 16

/-- R227: the fields of a stash global address. -/
def sgDev (a : Nat) : Nat := bits a 56 44
def sgTile (a : Nat) : Nat := bits a 43 36
def sgOff (a : Nat) : Nat := bits a 21 0

/-- The mapping of a tile that holds a stash offset. -/
def mapByOff (t : Tile) (off : Nat) : Option Mapping :=
  (t.maps.find? fun e => decide (e.2.stoff ≤ off) && decide (off < e.2.stoff + e.2.len)).map (·.2)

/-! ## What a command accesses of the stash -/

/-- The ring that a specifier names, whole. -/
def ringRange (t : Tile) (x : BitVec 9) : List (Nat × Nat) :=
  if 128 ≤ x.toNat ∧ x.toNat < 136 then
    match smFind t.rings (x.toNat - 128) with
    | some r => [(r.base, r.slots * r.slotSize)]
    | none => []
  else []
/-- The slot at the head of the ring that a specifier names. -/
def headRange (t : Tile) (x : BitVec 9) : List (Nat × Nat) :=
  if 128 ≤ x.toNat ∧ x.toNat < 136 then
    match smFind t.rings (x.toNat - 128) with
    | some r => [(r.headAddr, r.slotSize)]
    | none => []
  else []
/-- Rows of one length. -/
def rowRanges (r : Nat × List Nat) : List (Nat × Nat) := r.2.map fun a => (a, r.1)
/-- R227: the destination of a cp.rput, and its barrier, in the issuing tile's own mappings. -/
def ownRput (s : State) (c : Cmd) : List (Nat × Nat) :=
  let tile := tileOf c.ctx
  if sgDev c.a.toNat = s.dom.devnum.getD 0 ∧ sgTile c.a.toNat = tile then
    match mapByOff (tileAt s tile) (sgOff c.a.toNat) with
    | some m => (m.base + (sgOff c.a.toNat - m.stoff), c.total) ::
        (if c.bar && decide (m.stoff ≤ c.aux.toNat) then [(m.base + (c.aux.toNat - m.stoff), 16)] else [])
    | none => []
  else []
/-- The barrier of a copy. -/
def Cmd.barRange (c : Cmd) : List (Nat × Nat) := if c.bar && c.op != 0xB5 then [(c.aux.toNat, 16)] else []

/-- The ranges of the stash that a command writes. -/
def cmdWrites (s : State) (c : Cmd) : List (Nat × Nat) :=
  if c.nullified then []
  else
    match c.op with
    | 0x90 => (accAddrs c.a c.b).map fun a => (a, accRowBytes c.b)
    | 0x93 => match c.conv with
      | some d => rowRanges (convDst c d) ++ (if isMx d.ty then rowRanges (convScale c d) else [])
      | none => []
    | 0xB3 => (c.a.toNat, c.total) :: c.barRange
    | 0xB4 => c.barRange
    | 0xB5 => ownRput s c
    | 0xB6 => [(c.a.toNat, c.total)]
    | _ => []
/-- The ranges of the stash that a command reads; of a ring, the slot at its head. -/
def cmdReads (s : State) (c : Cmd) : List (Nat × Nat) :=
  let f := ENGF.unpack c.word
  let t := tileAt s (tileOf c.ctx)
  if c.nullified then []
  else
    match c.op with
    | 0x8A => if bit f.md.toNat 0 then [] else headRange t f.a
    | 0x8B | 0x8C => headRange t f.a
    | 0x8E | 0x8F | 0x90 | 0x92 | 0xB3 => []
    | 0x91 => (accAddrs c.a c.b).map fun a => (a, accRowBytes c.b)
    | 0x93 => match c.conv with
      | some d => rowRanges (convSrc c d) ++ (if isMx d.st then rowRanges (convScale c d) else [])
      | none => []
    | 0x9F => [(c.a.toNat, 1024)]
    | 0xB4 | 0xB5 => [(c.b.toNat, c.total)]
    | 0xB6 => [(c.aux.toNat, c.indexBytes)]
    | _ => headRange t f.a ++ headRange t f.b
/-- The rings that a command names. -/
def cmdRings (s : State) (c : Cmd) : List (Nat × Nat) :=
  let f := ENGF.unpack c.word
  let t := tileAt s (tileOf c.ctx)
  if c.nullified then []
  else
    match c.op with
    | 0x8A | 0x8B | 0x8C => ringRange t f.a
    | 0x8F | 0x90 | 0x91 | 0x92 | 0x93 | 0x9F | 0xB3 | 0xB4 | 0xB5 | 0xB6 => []
    | 0x8E => ringRange t f.c
    | _ => ringRange t f.a ++ ringRange t f.b
/-- R222: the stash operands of a command, as ranges of virtual addresses. -/
def cmdRanges (s : State) (c : Cmd) : List (Nat × Nat) := cmdRings s c ++ cmdReads s c ++ cmdWrites s c
/-- R59: what a queued command may still access of the stash; a ring's counters are not of it. -/
def stashUses (s : State) (c : Cmd) : List (Nat × Nat) := if c.op = 0x8E then [] else cmdRanges s c

/-- R60: the ranges of virtual addresses that an operation's command writes. -/
def cmdMarks (w a b c aux : Word) (v : View) (s : State) : List (Nat × Nat) :=
  let k := mkCmd v 0 w a b c aux false [] 0
  cmdWrites s k ++ (if k.op = 0xB4 then [(k.a.toNat, k.total)] else [])

/-- The commands of a tile, queued or running. -/
def tileCmds (s : State) (tile : Nat) : List Cmd :=
  (((List.range 3).map fun q => (queueAt s (8 * tile) q).cmds).flatten) ++
  ((List.range 8).flatMap fun i => (spinAt s (8 * tile + i)).chans.flatMap fun e => e.2.q.cmds)

end Sys2Proof.Machine
end

