-- ==== Sys2Proof/Machine/MemOps.lean ====
section
/-! DEFINITION. Loads, stores and atomics (R206, R208, R212 to R214, R235 to R237), fences, publication, prefetch and tokens
(R223, R238 to R242), and the announcement of `.sc` events (R182, R183). -/
namespace Sys2Proof.Machine

/-! ## `.sc` events -/

/-- R182: the window of a device time: windows last 40/3 ns. -/
def windowOf (t : Nat) : Nat := t * 3 / 40
/-- R183: the last nanosecond at which an `.sc` event of a window takes effect: 24 cycles, 10 ns, after the window's end. -/
def scBound (w : Nat) : Nat := (w + 1) * 40 / 3 + 10

/-- R182: whether an `.sc` event of a core may issue in the current window: S orders the events of a window by core number, so one
that follows an event of a higher core issues in the next window (DESIGN CHOICE, log entry 16). -/
def scReady (s : State) (core : Nat) : Bool :=
  !(s.scOut ++ s.scOrder).any fun e => e.window == windowOf s.time && decide (core < e.core)
/-- R182, R183: an `.sc` event of a core is announced in the window in which it issues. -/
def announceCore (s : State) (core : Nat) (ctx : Option Nat) : State :=
  let idx := ((s.scOut ++ s.scOrder).filter fun e => e.core == core).length
  { s with scOut := s.scOut ++ [⟨windowOf s.time, core, idx, ctx, s.time⟩] }
/-- R183: the context's next bundle waits until the event takes effect. -/
def announce (s : State) (n : Nat) : State :=
  modCtx (announceCore s (spindleOf n) (some n)) n fun c => { c with scOut := c.scOut + 1 }
/-- R182: whether an access or fence of a context, of order `.sc`, is held until the next window. -/
def scHeld (s : State) (n : Nat) (order : BitVec 3) : Bool := order.toNat == 4 && !scReady s (spindleOf n)
/-- An access or fence of order `.sc` is announced. -/
def announceIf (s : State) (n : Nat) (order : BitVec 3) : State := if order.toNat = 4 then announce s n else s

/-! ## Performing an access -/

/-- R206: the effective address. -/
def eaOf (f : MEMF) (base : Word) : Nat := (base + f.off.signExtend 64).toNat

/-- The key of a place among those that an operation has overwritten. -/
def placeKey : Loc → Nat
  | .stash t o _ => 2 * (t * 2 ^ 22 + o) + 1
  | .mem a => 2 * a
/-- R60: a bundle's M operation has written places; what they held is kept for an engine command of the bundle. -/
def wroteAt (v : View) (s : State) (locs : List Loc) : SMap Byte :=
  if v.slot = .m ∧ v.b.ops.any (fun o => o.1 == .x) then
    locs.foldl (fun m l => if (smFind m (placeKey l)).isSome then m else smIns m (placeKey l) (readLoc s l)) []
  else []
/-- R60: whether a byte of an access lies in what the bundle's engine command writes. -/
def mated (v : View) (a : Nat) : Bool := v.mate.any fun r => decide (r.1 ≤ a) && decide (a < r.1 + r.2)
/-- R60: what a load or an atomic has read of bytes that the bundle's engine command, the next to be queued, writes. -/
def mateRead (v : View) (s : State) (ea : Nat) (locs : List Loc) (form : MateForm) : Option MateRead :=
  if (List.range locs.length).any fun i => mated v (ea + i) then some ⟨s.cmdNext, locs.map placeKey, readLocs s locs, [], form⟩ else none
/-- R60: the bytes at places as a barrier operation or an append reads them: one that the bundle's engine command writes reads as
before or as that command writes it; the model leaves it open (log entry 19). -/
def readMate (v : View) (s : State) (ea : Nat) (locs : List Loc) : List Byte :=
  if v.mate = [] then readLocs s locs
  else
    locs.zipIdx.map fun e =>
      if mated v (ea + e.2) then Config.freeByte (s.freeCount + e.2)
      else readLoc s e.1
/-- The free values that such a read has taken. -/
def tookMate (v : View) (s : State) (n : Nat) : State := if v.mate = [] then s else { s with freeCount := s.freeCount + n }

/-- The commands of a context that have not completed. -/
def ownCmds (s : State) (n : Nat) : List Cmd :=
  ((List.range 11).flatMap fun q => (queueAt s (spindleOf n) q).cmds).filter fun c => c.ctx == n

/-- R211: the stash banks of n bytes at an offset. -/
def banksOf (off n : Nat) : List Nat :=
  if 1024 ≤ n then List.range 16 else ((List.range n).map fun i => bits (off + i) 9 6).eraseDups
/-- R211: the banks of a range of virtual addresses of a tile. -/
def rangeBanks (t : Tile) (va n : Nat) : List Nat :=
  match mapAt t va with
  | some (_, m) => banksOf (stashOff m va) n
  | none => ((List.range n).flatMap fun i =>
      match mapAt t (va + i) with
      | some (_, m) => [bits (stashOff m (va + i)) 9 6]
      | none => []).eraseDups

/-- R59: with MA set, an M operation waits for the context's earlier engine commands that access a stash bank of those that it
touches. -/
def maBanks (s : State) (v : View) (mine : List Nat) : Bool :=
  let t := tileAt s (tileOf v.n)
  v.b.ma && v.slot == .m && mapsServe s (tileOf v.n) v.c.asid.toNat && mine != [] &&
  (ownCmds s v.n).any fun c => (stashUses s c).any fun r => (rangeBanks t r.1 r.2).any mine.contains
/-- R59: the same for the n bytes of an access at ea. -/
def maWaits (s : State) (v : View) (ea n : Nat) : Bool :=
  let t := tileAt s (tileOf v.n)
  v.b.ma && maBanks s v
    ((List.range n).filterMap fun i => (mapAt t (byteVa ea i)).map fun m => bits (stashOff m.2 (byteVa ea i)) 9 6).eraseDups
/-- R59: the same for ranges of virtual addresses. -/
def maHeld (s : State) (v : View) (rs : List (Nat × Nat)) : Bool :=
  v.b.ma && maBanks s v (rs.flatMap fun r => rangeBanks (tileAt s (tileOf v.n)) r.1 r.2).eraseDups

/-- The stash lines that an access of an operation touches. -/
def touchedBy (s : State) (v : View) (ea n : Nat) : List Nat :=
  if mapsServe s (tileOf v.n) v.c.asid.toNat then (touchedLines (tileAt s (tileOf v.n)) ea n).map (·.1) else []

/-- R205, R417: the places of a write that its link's loss made fail, when all of it was on its way to the same failure. -/
def lostPlaces (s : State) (r : Req6) (ea n : Nat) : Option (List Loc) :=
  match partAt s (partOfCtx s r.ctx) with
  | none => none
  | some p =>
    match resolveHome s p r.asid r.need true ((List.range n).map (byteVa ea)) with
    | .ok vps => if vps.all fun e => paDev e.2 != s.dom.devnum.getD 0 || isHost (paLocal e.2) then some (vps.map fun e => .mem e.2) else none
    | .error _ => none
/-- R205, R417, R418: whether a fault leaves it open if the write that met it was performed: a peer lost while it was in
flight, or the host, for an atomic of scope `.sys`; then Config.lost chooses (log entry 5). -/
def maybeDone (r : Req6) (sys : Bool) (f : FaultInfo) : Bool :=
  r.answered && r.need.writes && (f.code == 0x31 || (sys && r.need == .amo && f.code == 0x32))

/-- R207 to R209: an access of an operation to n bytes at ea: it goes on with the places of its bytes, or is held until the
home answers, or faults. -/
def withPlaces (watch sys : Bool) (v : View) (s : State) (need : Need) (nc : Bool) (ea n : Nat) (k : State → List Loc → Res) : Res :=
  let r : Req6 := ⟨v.n, v.c.asid.toNat, need, nc, v.answered.contains .home, watch, if v.answered.contains .home then some v.c.heldAt else none⟩
  if maWaits s v ea n then .stay id
  else
    match access s r ea n with
    | .ok s locs => k s locs
    | .hold _ _ => .hold .fault (.home (touchedBy s v ea n)) fun s0 =>
        match access s0 r ea n with
        | .hold s' hs => setWants s' v.n hs
        | _ => s0
    | .fault f =>
      if maybeDone r sys f && Config.lost s.freeCount then
        match (lostPlaces s r ea n).map (k s) with
        | some (.ok t _) => .stop (fun s0 => { s0 with mem := t.mem, pub := t.pub }) f
        | _ => .fault f
      else .fault f

/-- A load, store or atomic, which watchpoints see (R398). -/
def withAccess : View → State → Need → Bool → Nat → Nat → (State → List Loc → Res) → Res := withPlaces true false

/-- R208: what a bundle that was held leaves has landed before the next one issues. -/
def heldStop (v : View) (e : Eff) : Eff := { e with stop := e.stop || !v.answered.isEmpty }

/-! ## Loads and stores (R212 to R214) -/

/-- R212: n bytes, extended. -/
def extLoad (signed : Bool) (n : Nat) (bs : List Byte) : Word :=
  if signed then wordI (sext (leNat bs) (8 * n)) else word (leNat bs)

def loadOp (f : MEMF) (n : Nat) (signed : Bool) : Op :=
  { srcs := [f.base], dests := dstS f.data
    run := fun v s =>
      if scHeld s v.n f.order then .stay id
      else withAccess v s .load (f.policy == 3) (eaOf f (v.arg 0)) n fun s locs =>
        .ok (announceIf s v.n f.order)
          { heldStop v (landS v.c f.data (extLoad signed n (readLocs s locs)) 3) with mate := mateRead v s (eaOf f (v.arg 0)) locs (.scalar signed n) } }
def storeOp (f : MEMF) (n : Nat) : Op :=
  { srcs := [f.data, f.base]
    run := fun v s =>
      if scHeld s v.n f.order then .stay id
      else withAccess v s .store (f.policy == 3) (eaOf f (v.arg 1)) n fun s locs =>
        .ok (announceIf (storeLocs s locs (leBytes n (v.arg 0).toNat)) v.n f.order) (heldStop v { wrote := wroteAt v s locs }) }
def opLdS8 (f : MEMF) : Op := loadOp f 1 true
def opLdZ8 (f : MEMF) : Op := loadOp f 1 false
def opLdS16 (f : MEMF) : Op := loadOp f 2 true
def opLdZ16 (f : MEMF) : Op := loadOp f 2 false
def opLdS32 (f : MEMF) : Op := loadOp f 4 true
def opLdZ32 (f : MEMF) : Op := loadOp f 4 false
def opLdS64 (f : MEMF) : Op := loadOp f 8 false
def opStS8 (f : MEMF) : Op := storeOp f 1
def opStS16 (f : MEMF) : Op := storeOp f 2
def opStS32 (f : MEMF) : Op := storeOp f 4
def opStS64 (f : MEMF) : Op := storeOp f 8

/-- R214: element l of a byte list, k bytes each. -/
def elemAt (k l : Nat) (bs : List Byte) : Nat := leNat ((bs.drop (k * l)).take k)
/-- R214: n lanes of k bytes each, sign-extended. -/
def vloadLanes (k n : Nat) (bs : List Byte) : List Lane :=
  (List.range n).map fun l => BitVec.ofNat 32 (truncI (sext (elemAt k l bs) (8 * k)) 32)
/-- R214: a vector load of k bytes a lane, sign-extended into the lane. -/
def vloadOp (f : MEMF) (k : Nat) : Op :=
  { srcs := [f.base], dests := dstV f.data, claim := true
    run := fun v s =>
      if scHeld s v.n f.order then .stay id
      else withAccess v s .load (f.policy == 3) (eaOf f (v.arg 0)) (k * v.c.lanes) fun s locs =>
        .ok (announceIf s v.n f.order)
          { heldStop v (landV v.c f.data (vloadLanes k v.c.lanes (readLocs s locs)) 4) with
            mate := mateRead v s (eaOf f (v.arg 0)) locs (.lanes k) } }
/-- R214: a vector store of the low k bytes of each lane. -/
def vstoreOp (f : MEMF) (k : Nat) : Op :=
  { srcs := [f.base], claim := true
    run := fun v s =>
      if scHeld s v.n f.order then .stay id
      else withAccess v s .store (f.policy == 3) (eaOf f (v.arg 0)) (k * v.c.lanes) fun s locs =>
        let bs := (List.range v.c.lanes).flatMap fun l => leBytes k (getV v.c (physV v.c f.data.toNat) l).toNat
        .ok (announceIf (storeLocs s locs bs) v.n f.order) (heldStop v { wrote := wroteAt v s locs }) }
def opVldS32 (f : MEMF) : Op := vloadOp f 4
def opVstS32 (f : MEMF) : Op := vstoreOp f 4
def opVldS16 (f : MEMF) : Op := vloadOp f 2
def opVstS16 (f : MEMF) : Op := vstoreOp f 2

/-! ## Atomics (R191, R235 to R237) -/

/-- R236: the new value of an integer atomic of w bits, or of an FP32 add; none for a compare-and-swap that fails. -/
def amoNew (op : AmoOp) (w old x y : Nat) : Option Nat :=
  match op with
  | .add => some ((old + x) % 2 ^ w)
  | .and => some (Nat.land old x)
  | .or => some (Nat.lor old x)
  | .xor => some (Nat.xor old x)
  | .minS => some (if sext x w < sext old w then x else old)
  | .minZ => some (if x < old then x else old)
  | .maxS => some (if sext old w < sext x w then x else old)
  | .maxZ => some (if old < x then x else old)
  | .swap => some x
  | .cas => if old = x then some y else none
  | .addF32 => some (rne f32 (addF .rne (decodeF f32 old) (decodeF f32 x)).1)

/-- R236: the value returned for n bytes. -/
def amoResult (op : AmoOp) (n old : Nat) : Word :=
  if n = 8 then word old
  else
    match op with
    | .minZ | .maxZ | .addF32 => word old
    | _ => wordI (sext old 32)

/-- R193: the operations a host performs as PCIe AtomicOps. -/
def hostAmo (op : AmoOp) : Bool :=
  match op with
  | .add | .swap | .cas => true
  | _ => false

/-- R193: a `.sys` atomic on a host-homed line that the host has no operation for. -/
def amoHostRefused (op : AmoOp) (scope : Nat) (locs : List Loc) : Bool :=
  scope == 5 && !hostAmo op && locs.any fun l => match l with | .mem a => isHost (paLocal a) | .stash .. => false

/-- R235 to R237: an atomic. At `.die` and wider it is performed at its home, the stash copy of its line written back and
dropped (R192), but for a scratch byte. -/
def amoOpOf (f : MEMF) (op : AmoOp) : Op :=
  let n := if f.policy = 1 ∨ op = .addF32 then 4 else 8
  { srcs := [f.base], dests := dstS f.data
    run := fun v s =>
      let ea := eaOf f (v.arg 0)
      if ea % n ≠ 0 then .fault ⟨0x15, word ea, 0, none, []⟩
      else if scHeld s v.n f.order then .stay id
      else
        withPlaces true (f.scope == 5) v s .amo (2 ≤ f.scope.toNat) ea n fun s locs =>
          if amoHostRefused op f.scope.toNat locs then .fault ⟨0x33, word ea, 0, none, []⟩
          else
            let old := leNat (readLocs s locs)
            let was := wroteAt v s locs
            let x := (readX v.c f.data.toNat).toNat % 2 ^ (8 * n)
            let y := (readX v.c (f.data.toNat + 1)).toNat % 2 ^ (8 * n)
            let mate := mateRead v s ea locs (.amo op n x y)
            let s := match amoNew op (8 * n) old x y with
              | some new => storeLocs s locs (leBytes n new)
              | none => s
            .ok (announceIf s v.n f.order) { heldStop v (landS v.c f.data (amoResult op n old) 4) with wrote := was, mate := mate } }
/-! ## Bytes that a bundle's engine command writes beside its M operation (R60) -/

/-- The place of a key. -/
def placeOf (k : Nat) : Loc := if k % 2 = 1 then .stash (k / 2 / 2 ^ 22) (k / 2 % 2 ^ 22) none else .mem (k / 2)
/-- A scalar result written over that of a pending one. -/
def Pending.putScalar (p : Pending) (w : Word) : Pending :=
  { p with q := some (.scalar w)
           writes := p.writes.map fun x => match x with | .x n _ => .x n w | .push ch _ a b => .push ch w a b | x => x }
/-- Lanes written over those of a pending result. -/
def Pending.putLanes (p : Pending) (ls : List Lane) : Pending :=
  { p with q := some (.vector ls), writes := p.writes.map fun x => match x with | .v r l _ => .v r l (ls.getD l 0) | x => x }
/-- R60: a pending result as it follows from the bytes read; n is the number of its lanes. -/
def Pending.reread (p : Pending) (m : MateRead) : Pending :=
  let p := { p with mate := some m }
  match m.form with
  | .scalar sg n => p.putScalar (extLoad sg n m.bytes)
  | .lanes k => p.putLanes (vloadLanes k (m.bytes.length / k) m.bytes)
  | .amo op n _ _ => p.putScalar (amoResult op n (leNat m.bytes))
/-- R60: what a command has written of the bytes that a result of its bundle has read; each is then read as it was, or as it is. -/
def MateRead.see (m : MateRead) (was s : State) : MateRead :=
  (m.keys.zipIdx).foldl (fun m e =>
    let b := readLoc s (placeOf e.1)
    if b = readLoc was (placeOf e.1) then m
    else { m with hit := smIns m.hit e.2 b, bytes := if Config.mate (s.freeCount + e.2) then m.bytes.set e.2 b else m.bytes }) m
/-- R60: an atomic that has read again stores again: a byte that the command has written holds the one value or the other. -/
def MateRead.restore (m : MateRead) (s : State) : State :=
  match m.form with
  | .amo op n x y =>
    match amoNew op (8 * n) (leNat m.bytes) x y with
    | some new =>
      ((m.keys.zip (leBytes n new)).zipIdx).foldl (fun s e =>
        match smFind m.hit e.2 with
        | some b => writeLoc s (placeOf e.1.1) (if Config.mate (s.freeCount + n + e.2) then b else e.1.2)
        | none => writeLoc s (placeOf e.1.1) e.1.2) s
    | none => (m.keys.zipIdx).foldl (fun s e => match smFind m.hit e.2 with | some b => writeLoc s (placeOf e.1) b | none => s) s
  | _ => s
/-- R60: a command has changed bytes that results of its own bundle have read: they follow. -/
def noteMates (was s : State) (c : Cmd) : State :=
  (ctxOf s c.ctx).pend.zipIdx.foldl (fun s e =>
    match e.1.mate with
    | some m =>
      let m' := m.see was s
      if m.cmd = c.id ∧ m' ≠ m then
        let s := m'.restore s
        modCtx { s with freeCount := s.freeCount + 2 * m.keys.length } c.ctx fun x => { x with pend := x.pend.set e.2 (e.1.reread m') }
      else s
    | none => s) s

def opAmoAdd (f : MEMF) : Op := amoOpOf f .add
def opAmoAnd (f : MEMF) : Op := amoOpOf f .and
def opAmoOr (f : MEMF) : Op := amoOpOf f .or
def opAmoXor (f : MEMF) : Op := amoOpOf f .xor
def opAmoMinS (f : MEMF) : Op := amoOpOf f .minS
def opAmoMinZ (f : MEMF) : Op := amoOpOf f .minZ
def opAmoMaxS (f : MEMF) : Op := amoOpOf f .maxS
def opAmoMaxZ (f : MEMF) : Op := amoOpOf f .maxZ
def opAmoSwap (f : MEMF) : Op := amoOpOf f .swap
def opAmoCas (f : MEMF) : Op := amoOpOf f .cas
def opAmoAddF32 (f : MEMF) : Op := amoOpOf f .addF32

/-! ## Fences and publication (R238 to R240) -/

/-- R238: a fence; every earlier access of this model is performed when it issues (log entry 6). -/
def opFence (f : MEMF) : Op :=
  { run := fun v s => if scHeld s v.n f.order then .stay id else .ok (announceIf s v.n f.order) { stop := true } }

/-- The first address of every line that a range touches, the first one being the range's own. -/
def lineStarts (ea n : Nat) : List Nat :=
  if n = 0 then []
  else ea :: ((List.range ((ea + n - 1) / 128 - ea / 128)).map fun i => (ea / 128 + 1 + i) * 128)

/-- R16, R239: steps 4 to 6 of R209 for lines of a range, one after the other: their global physical addresses, or the first
fault. -/
def publishable (s : State) (p : Part) (pnum asid : Nat) : List Nat → Except FaultInfo (List Nat)
  | [] => .ok []
  | va :: vas =>
    match canonFault va 1 with
    | some f => .error f
    | none =>
      match resolveByte s p asid true va .cpub with
      | .error f => .error f
      | .ok a =>
        match targetCheck s p pnum .cpub [(va, a)] with
        | some f => .error f
        | none =>
          match publishable s p pnum asid vas with
          | .error f => .error f
          | .ok as => .ok (a :: as)

/-- R197, R239: the dirty lines of a tile that hold stores to home lines, under whichever alias, are written back; their
leases stay, clean (DESIGN CHOICE, log entry 82). -/
def writeBackHomes (s : State) (tile : Nat) (homes : List Nat) : State :=
  (tileAt s tile).lines.foldl (fun s e =>
    if (e.2.st = .D ∨ e.2.st = .B) ∧ homes.contains e.2.home then
      match mapAt (tileAt s tile) (e.1 * 128) with
      | some (_, m) =>
        let t := writeBackData s tile (stashOff m (e.1 * 128)) e.2.home
        if backLost s tile (stashOff m (e.1 * 128)) then dropLine t tile e.1 else setLine t tile e.1 { e.2 with st := .W }
      | none => s
    else s) s

/-- R59, R239: the dirty lines of a tile that hold stores to home lines, as ranges of virtual addresses. -/
def homeLines (s : State) (tile : Nat) (homes : List Nat) : List (Nat × Nat) :=
  ((tileAt s tile).lines.filter fun e => (e.2.st == .D || e.2.st == .B) && homes.contains e.2.home).map fun e => (e.1 * 128, 128)

/-- R196: publish bits set. -/
def publishLines (s : State) (pas : List Nat) : State :=
  { s with pub := pas.foldl (fun m a => smSet false m (a / 128) true) s.pub }

/-- R239: publication of a range. It waits while another tile's stash holds stores to a line of it, which have their place
before the setting of the bits (R197). -/
def opCpub (f : MEMF) : Op :=
  { srcs := [f.data, f.base]
    run := fun v s =>
      let ea := eaOf f (v.arg 1)
      let n := (v.arg 0).toNat
      if 2 ^ 24 < n then .fault ⟨0x18, 0, 0, none, []⟩
      else if n = 0 then .ok s { stop := true }
      else if !v.answered.contains .home then .hold .fault (.home []) id
      else
        let pnum := partOfCtx s v.n
        match partAt s pnum with
        | none => .fault ⟨0x13, word ea, walkInfo 1 4 false, none, []⟩
        | some p =>
          match publishable s p pnum v.c.asid.toNat (lineStarts ea n) with
          | .error e => .fault e
          | .ok pas =>
            let s1 := writeBackHomes s (tileOf v.n) (pas.map (· / 128))
            if maHeld s v (homeLines s (tileOf v.n) (pas.map (· / 128))) then .stay id
            else
            match (pas.map (· / 128)).filter (lineDirty s1) with
            | [] => .ok (publishLines s1 pas) { stop := true }
            | hs => .hold .fault (.home []) fun s0 => setWants (writeBackHomes s0 (tileOf v.n) (pas.map (· / 128))) v.n hs }

/-- R240: the fetch buffer is emptied. -/
def opIfence (_ : RRR) : Op := { run := fun v s => .ok (modCtx s v.n fun c => { c with fbuf := [] }) {} }

/-- R223: a prefetch starts a fill of an invalid line of a backed mapping that can be translated; else it has no effect that
a program can see. -/
def opPref (f : MEMF) : Op :=
  { srcs := [f.base]
    run := fun v s =>
      let ea := eaOf f (v.arg 0)
      let tile := tileOf v.n
      let t := tileAt s tile
      match mapAt t ea, partAt s (partOfCtx s v.n) with
      | some (_, m), some p =>
        if mapsServe s tile v.c.asid.toNat && m.mode == 0 && (smFind t.lines (lineOf ea)).isNone && canonical ea then
          (match lookup s p v.c.asid.toNat ea .fillR with
           | .leaf .. => if maHeld s v [(lineOf ea * 128, 128)] then .stay id else .ok (requestLine s tile (lineOf ea) false) {}
           | _ => .ok s {})
        else .ok s {}
      | _, _ => .ok s {} }

/-! ## Tokens (R241, R242) -/

/-- R241: the bundle is held until the commands that the tokens bind to have completed. -/
def opTokWait (f : ENGF) : Op :=
  { run := fun v s =>
      match boundCmds (ctxOf s v.n) (toksOf f).cons with
      | [] => .ok s { stop := true }
      | ids => .hold .token (.tokens ids) id }
/-- R242: whether a token's command has completed. -/
def opTokTest (f : RRR) : Op :=
  { dests := dstS f.d
    run := fun v s => .ok s (landP f.d (boundCmds v.c [f.a.toNat] == []) 1) }

/-! ## The instructions, each issued by the current context alone in its bundle -/
def execLdS8 (f : MEMF) (s : State) : Host.Outcome State Fault Refusal := issueOne (f.pack 0xA0) (opLdS8 f) s
def execLdZ8 (f : MEMF) (s : State) : Host.Outcome State Fault Refusal := issueOne (f.pack 0xA1) (opLdZ8 f) s
def execLdS16 (f : MEMF) (s : State) : Host.Outcome State Fault Refusal := issueOne (f.pack 0xA2) (opLdS16 f) s
def execLdZ16 (f : MEMF) (s : State) : Host.Outcome State Fault Refusal := issueOne (f.pack 0xA3) (opLdZ16 f) s
def execLdS32 (f : MEMF) (s : State) : Host.Outcome State Fault Refusal := issueOne (f.pack 0xA4) (opLdS32 f) s
def execLdZ32 (f : MEMF) (s : State) : Host.Outcome State Fault Refusal := issueOne (f.pack 0xA5) (opLdZ32 f) s
def execLdS64 (f : MEMF) (s : State) : Host.Outcome State Fault Refusal := issueOne (f.pack 0xA6) (opLdS64 f) s
def execStS8 (f : MEMF) (s : State) : Host.Outcome State Fault Refusal := issueOne (f.pack 0xA7) (opStS8 f) s
def execStS16 (f : MEMF) (s : State) : Host.Outcome State Fault Refusal := issueOne (f.pack 0xA8) (opStS16 f) s
def execStS32 (f : MEMF) (s : State) : Host.Outcome State Fault Refusal := issueOne (f.pack 0xA9) (opStS32 f) s
def execStS64 (f : MEMF) (s : State) : Host.Outcome State Fault Refusal := issueOne (f.pack 0xAA) (opStS64 f) s
def execVldS32 (f : MEMF) (s : State) : Host.Outcome State Fault Refusal := issueOne (f.pack 0xAB) (opVldS32 f) s
def execVstS32 (f : MEMF) (s : State) : Host.Outcome State Fault Refusal := issueOne (f.pack 0xAC) (opVstS32 f) s
def execVldS16 (f : MEMF) (s : State) : Host.Outcome State Fault Refusal := issueOne (f.pack 0xAD) (opVldS16 f) s
def execVstS16 (f : MEMF) (s : State) : Host.Outcome State Fault Refusal := issueOne (f.pack 0xAE) (opVstS16 f) s
def execAmoAdd (f : MEMF) (s : State) : Host.Outcome State Fault Refusal := issueOne (f.pack 0xBA) (opAmoAdd f) s
def execAmoAnd (f : MEMF) (s : State) : Host.Outcome State Fault Refusal := issueOne (f.pack 0xBB) (opAmoAnd f) s
def execAmoOr (f : MEMF) (s : State) : Host.Outcome State Fault Refusal := issueOne (f.pack 0xBC) (opAmoOr f) s
def execAmoXor (f : MEMF) (s : State) : Host.Outcome State Fault Refusal := issueOne (f.pack 0xBD) (opAmoXor f) s
def execAmoMinS (f : MEMF) (s : State) : Host.Outcome State Fault Refusal := issueOne (f.pack 0xBE) (opAmoMinS f) s
def execAmoMinZ (f : MEMF) (s : State) : Host.Outcome State Fault Refusal := issueOne (f.pack 0xBF) (opAmoMinZ f) s
def execAmoMaxS (f : MEMF) (s : State) : Host.Outcome State Fault Refusal := issueOne (f.pack 0xC0) (opAmoMaxS f) s
def execAmoMaxZ (f : MEMF) (s : State) : Host.Outcome State Fault Refusal := issueOne (f.pack 0xC1) (opAmoMaxZ f) s
def execAmoSwap (f : MEMF) (s : State) : Host.Outcome State Fault Refusal := issueOne (f.pack 0xC2) (opAmoSwap f) s
def execAmoCas (f : MEMF) (s : State) : Host.Outcome State Fault Refusal := issueOne (f.pack 0xC3) (opAmoCas f) s
def execAmoAddF32 (f : MEMF) (s : State) : Host.Outcome State Fault Refusal := issueOne (f.pack 0xC4) (opAmoAddF32 f) s
def execFence (f : MEMF) (s : State) : Host.Outcome State Fault Refusal := issueOne (f.pack 0xC5) (opFence f) s
def execCpub (f : MEMF) (s : State) : Host.Outcome State Fault Refusal := issueOne (f.pack 0xC6) (opCpub f) s
def execIfence (f : RRR) (s : State) : Host.Outcome State Fault Refusal := issueOne (f.pack 0xC7) (opIfence f) s
def execTokWait (f : ENGF) (s : State) : Host.Outcome State Fault Refusal := issueOne (f.pack 0xC8) (opTokWait f) s
def execTokTest (f : RRR) (s : State) : Host.Outcome State Fault Refusal := issueOne (f.pack 0xC9) (opTokTest f) s
def execPref (f : MEMF) (s : State) : Host.Outcome State Fault Refusal := issueOne (f.pack 0xCD) (opPref f) s

end Sys2Proof.Machine
end

