-- ==== Sys2Proof/Machine/Far.lean ====
section
/-! DEFINITION. Atomics performed at a home slice (R192): those that wait at one slice are served in round-robin order among the
requesting agents: contexts, agent cores and other devices. -/
namespace Sys2Proof.Machine

/-! ## Requests of other devices (R205, R345) -/

/-- The global physical addresses of n bytes from a local address. -/
def localBytes (s : State) (l n : Nat) : List Nat := (List.range n).map fun i => localPa s (l + i)
/-- R205: what a remote request reads and writes. -/
def remoteSize (r : RemoteReq) : Nat :=
  match r.kind with
  | .read => r.len
  | .write | .rput .. => r.data.length
  | .amo _ n => n
def remoteNeed (r : RemoteReq) : Need :=
  match r.kind with
  | .read => .load
  | .write | .rput .. => .store
  | .amo .. => .amo
/-- R194: the home lines of a remote request that leases stand against. -/
def remoteWaits (s : State) (r : RemoteReq) : List Nat :=
  match r.kind with
  | .rput .. => []
  | _ => ((localBytes s r.addr (remoteSize r)).map (· / 128)).eraseDups.filter fun l => homeConflict s l (remoteNeed r).writes

/-! ## The order of service -/

/-- The agents as a slice orders them: contexts by number, then agent cores, then other devices. -/
def farCore (k : Nat) : Nat := numContexts + k
def farDev (d : Nat) : Nat := numContexts + 96 + d
def farAgents : Nat := numContexts + 96 + 8192

/-- R192: the slice at which a request for a physical line, of an agent core or another device, waits: the spec names the home slice
of a virtual address (R17) alone (DESIGN CHOICE, log entry 97). -/
def lineSlice (line : Nat) : Nat := Config.lineSlice line
/-- R192, R350: whether an atomic on an address is performed at a slice of this device: not on another device's memory, and not
at the host. -/
def farHere (s : State) (a : Nat) : Bool := paDev a == s.dom.devnum.getD 0 && !isHost (paLocal a)

/-- R192: the home slice at which a context's atomic of scope `.die` or wider waits: its guard holds, and its bundle is parked until
the home answers. -/
def farAtomic (s : State) (n : Nat) : Option Nat :=
  let c := ctxOf s n
  match (if c.wait matches .home _ then c.held else none).bind fun b =>
      b.ops.find? fun o => o.1 == .m && decide (0xBA ≤ (opField o.2).toNat) && decide ((opField o.2).toNat ≤ 0xC4) with
  | none => none
  | some o =>
    let f := MEMF.unpack o.2
    match readArgs c [] [f.base] [], partAt s (partOfCtx s n) with
    | (.ok (base :: _, _), _), some p =>
      if 2 ≤ f.scope.toNat ∧ guardOf c o.2 then some (homeSlice p (eaOf f base) c.asid.toNat) else none
    | _, _ => none
/-- R192: the slice at which an atomic of another device waits, one whose line no lease holds. -/
def farRemote (s : State) (r : RemoteReq) : Option Nat :=
  match r.kind with
  | .amo .. => if remoteWaits s r = [] then some (lineSlice (localPa s r.addr / 128)) else none
  | _ => none
/-- R192: the agents whose far atomics wait at a slice. -/
def farWaiting (s : State) (sl : Nat) : List Nat :=
  ((s.ctxs.map (·.1)).filter fun n => farAtomic s n == some sl) ++
  ((s.farCores.filter fun e => !(agentAt s e.1).dead && (running s ((partOfCore s e.1).getD 8)).isSome && lineSlice e.2 == sl).map fun e => farCore e.1) ++
  ((s.remoteQueue.filter fun r => farRemote s r == some sl).map fun r => farDev r.dev)
/-- R192: whether an agent is the next that a slice serves: the first in cyclic order, after the one served last, of those that wait. -/
def farTurn (s : State) (sl who : Nat) : Bool :=
  let after (k : Nat) : Nat := (k + farAgents - (sliceAt s sl).lastFar - 1) % farAgents
  (farWaiting s sl).all fun m => decide (after who ≤ after m)
/-- R192: a slice serves an agent. -/
def farServed (s : State) (sl who : Nat) : State := modSlice s sl fun x => { x with lastFar := who }

/-- R192: whether a context that awaits its home is not kept waiting by another's far atomic. -/
def farReady (s : State) (n : Nat) : Bool :=
  match farAtomic s n with
  | none => true
  | some sl => farTurn s sl n
/-- R192: a slice serves a context's far atomic. -/
def serveFar (s : State) (n : Nat) : State :=
  match farAtomic s n with
  | some sl => farServed s sl n
  | none => s
/-- R192: core k's atomic waits at the slice of a line; a turn that it cannot use passes on. -/
def farQueue (s : State) (k line : Nat) : State :=
  let s := if farTurn s (lineSlice line) (farCore k) then farServed s (lineSlice line) (farCore k) else s
  { s with farCores := smIns s.farCores k line }
/-- R192: core k has no atomic waiting. -/
def farGone (s : State) (k : Nat) : State := { s with farCores := smDel s.farCores k }

end Sys2Proof.Machine
end

