-- ==== Sys2Proof/Machine/Barrier.lean ====
section
/-! DEFINITION. Barriers (R231 to R234): the fields, one update at a time, the release of the waiters. -/
namespace Sys2Proof.Machine

/-- R231: a barrier's fields. -/
structure Bar where
  exp : Nat
  arr : Nat
  done : Bool
  ovr : Bool
  init : Bool
  pend : Nat
  /-- a reserved bit is 1 -/
  bad : Bool
  deriving DecidableEq, Repr

/-- R231: the fields of the 16 bytes. -/
def Bar.unpack (n : Nat) : Bar :=
  ⟨bits n 15 0, bits n 31 16, bit n 32, bit n 33, bit n 34, bits n 103 64, bits n 63 35 != 0 || bits n 127 104 != 0⟩
/-- R231: the low dword of the fields. -/
def Bar.low (b : Bar) : Nat :=
  b.exp + b.arr * 2 ^ 16 + (if b.done then 2 ^ 32 else 0) + (if b.ovr then 2 ^ 33 else 0) + (if b.init then 2 ^ 34 else 0)
/-- R231: the 16 bytes of the fields, reserved bits 0. -/
def Bar.pack (b : Bar) : Nat := b.low + b.pend * 2 ^ 64

/-- R233: check: the barrier becomes complete. -/
def Bar.check (b : Bar) : Bar × Bool :=
  if !b.done && b.arr == b.exp && b.pend == 0 then ({ b with done := true }, true) else (b, false)

/-- R233: one arrival announcing k bytes. -/
def Bar.arrive (b : Bar) (k : Nat) : Bar × Bool :=
  let b := if b.arr = b.exp then { b with ovr := true } else { b with arr := b.arr + 1 }
  let b := if 2 ^ 40 - 1 < b.pend + k then { b with pend := 2 ^ 40 - 1, ovr := true } else { b with pend := b.pend + k }
  b.check

/-- R233: the decrement of a completed copy of k bytes. -/
def Bar.decrement (b : Bar) (k : Nat) : Bar × Bool :=
  if !b.init then ({ b with ovr := true }, false)
  else (if b.pend < k then { b with pend := 0, ovr := true } else { b with pend := b.pend - k }).check

/-- R233, R234: every context of a tile parked on the barrier at a stash offset is released with the low dword. -/
def releaseBarrier (s : State) (tile off : Nat) (low : Word) : State :=
  (s.ctxs.map (·.1)).foldl (fun s n =>
    let c := ctxOf s n
    if tileOf n = tile ∧ c.wait = .barrier off then
      setCtx s n (wake { c with answered := .released low :: c.answered })
    else s) s

/-- The stash offset of a place. -/
def locOff : List Loc → Nat
  | .stash _ o _ :: _ => o
  | _ => 0

/-- R231: a barrier instruction: its address aligned and mapped, its 16 bytes accessed, no reserved bit 1. -/
def withBarrier (v : View) (s : State) (a : Word) (need : Need) (k : State → List Loc → Bar → Res) : Res :=
  let ea := a.toNat
  if ea % 64 ≠ 0 then .fault ⟨0x18, 0, 0, none, []⟩
  else
    match unmapped s (tileOf v.n) v.c.asid.toNat ea 16 with
    | some _ => .fault ⟨0x16, a, 0, none, []⟩
    | none =>
      withPlaces false false v s need false ea 16 fun s locs =>
        let b := Bar.unpack (leNat (readMate v s ea locs))
        let s := tookMate v s 16
        if b.bad then .fault ⟨0x18, 0, 0, none, []⟩ else k s locs b

/-- A barrier's new fields are written, and its waiters released when it became complete. -/
def putBarrier (s : State) (tile : Nat) (locs : List Loc) (b : Bar × Bool) : State :=
  let s := storeLocs s locs (leBytes 16 b.1.pack)
  if b.2 then releaseBarrier s tile (locOff locs) (word b.1.low) else s

/-- R232: bar.init. -/
def opBarInit (f : RRR) : Op :=
  { srcs := [f.a, f.b, f.c]
    run := fun v s =>
      let e := (v.arg 1).toNat
      let p := (v.arg 2).toNat
      if e = 0 ∨ 2 ^ 16 ≤ e ∨ 2 ^ 40 ≤ p then .fault ⟨0x18, 0, 0, none, []⟩
      else
        withBarrier v s (v.arg 0) .amo fun s locs _ =>
          .ok (putBarrier s (tileOf v.n) locs (⟨e, 0, false, false, true, p, false⟩, false)) { stop := true, wrote := wroteAt v s locs } }
/-- R233: bar.arr. -/
def opBarArr (f : RRR) : Op :=
  { srcs := [f.a, f.b], dests := dstS f.d
    run := fun v s =>
      let k := (v.arg 1).toNat
      if 2 ^ 40 ≤ k then .fault ⟨0x18, 0, 0, none, []⟩
      else
        withBarrier v s (v.arg 0) .amo fun s locs b =>
          if !b.init then .fault ⟨0x18, 0, 0, none, []⟩
          else
            let r := b.arrive k
            .ok (putBarrier s (tileOf v.n) locs r) { heldStop v (landS v.c f.d (word r.1.low) 4) with wrote := wroteAt v s locs } }
/-- R234: the low dword that a release left for a waiter. -/
def releasedLow (as : List Answer) : Option Word := as.findSome? fun a => match a with | .released w => some w | _ => none
/-- R234: bar.wait. -/
def opBarWait (f : RRR) : Op :=
  { srcs := [f.a], dests := dstS f.d
    run := fun v s =>
      match releasedLow v.answered with
      | some w => .ok s { landS v.c f.d w 1 with stop := true }
      | none =>
        withBarrier v s (v.arg 0) .load fun s locs b =>
          if !b.init then .fault ⟨0x18, 0, 0, none, []⟩
          else if b.done then .ok s { landS v.c f.d (word b.low) 1 with stop := true }
          else .hold .token (.barrier (locOff locs)) id }
/-- R234: bar.test. -/
def opBarTest (f : RRR) : Op :=
  { srcs := [f.a], dests := dstS f.d
    run := fun v s =>
      withBarrier v s (v.arg 0) .load fun s _ b => .ok s (heldStop v (landS v.c f.d (word b.low) 3)) }

/-! ## The instructions, each issued by the current context alone in its bundle -/
def execBarInit (f : RRR) (s : State) : Host.Outcome State Fault Refusal := issueOne (f.pack 0xB7) (opBarInit f) s
def execBarArr (f : RRR) (s : State) : Host.Outcome State Fault Refusal := issueOne (f.pack 0xB8) (opBarArr f) s
def execBarWait (f : RRR) (s : State) : Host.Outcome State Fault Refusal := issueOne (f.pack 0xB9) (opBarWait f) s
def execBarTest (f : RRR) (s : State) : Host.Outcome State Fault Refusal := issueOne (f.pack 0xCE) (opBarTest f) s

end Sys2Proof.Machine
end

