-- ==== Sys2Proof/Machine/Engine.lean ====
section
/-! DEFINITION. The tensor array, rings, edge latches, accumulators, grouped adaptation and the conversion engine (R141 to
R159): what a command checks at issue, checks when it starts, and does. -/
namespace Sys2Proof.Machine

/-! ## What a command of the tile accesses -/

/-- Where a command runs: its tile, partition, context and address space. -/
structure Eng where
  tile : Nat
  pnum : Nat
  ctx : Nat
  asid : Nat
  /-- whether its walks arm monitors (R328) -/
  arms : Bool
  deriving DecidableEq, Repr

def engOf (s : State) (c : Cmd) : Eng := ⟨tileOf c.ctx, partOfCtx s c.ctx, c.ctx, c.asid, false⟩

/-- A fault whose walk arms no monitor (R328): MON reads 0. -/
def FaultInfo.plain (f : FaultInfo) : FaultInfo :=
  if f.mon.isSome then { f with info := f.info &&& ~~~256, mon := none } else f

/-- R147: a fault of an address outside every mapping. -/
def noMap (a : Nat) : FaultInfo := ⟨0x16, word a, 0, none, []⟩
/-- R374: an operand value outside its limits. -/
def argFault : FaultInfo := ⟨0x18, 0, 0, none, []⟩
/-- R152: a role, type, K or capacity that does not fit. -/
def shapeFault : FaultInfo := ⟨0x21, 0, 0, none, []⟩

/-- R147: n stash bytes at ea: their places, in lines held under leases that permit the access; `whole` are the lines that the
command writes whole. -/
def stashPlaces (s : State) (e : Eng) (wr : Bool) (whole : List Nat) (ea n : Nat) : AccRes :=
  match unmapped s e.tile e.asid ea n with
  | some a => .fault (noMap a)
  | none =>
    match partAt s e.pnum with
    | none => .fault (noMap ea)
    | some p =>
      let t := tileAt s e.tile
      let ls := if n = 0 then [] else touchedLines t ea n
      match acquireLines s p ⟨e.pnum, e.tile, e.asid, ea, wr, ls.map (·.1), whole⟩ ls with
      | .ok s _ => .ok s (((List.range n).map (byteVa ea)).filterMap (stashLoc s e.tile t))
      | .fault f => .fault (if e.arms then f else f.plain)
      | r => r

/-- R405: the same, a bad word among them refused. -/
def engPlaces (s : State) (e : Eng) (wr : Bool) (ea n : Nat) : AccRes :=
  match stashPlaces s e wr [] ea n with
  | .ok s locs =>
    match locError s locs wr with
    | some (i, f) => .fault ⟨0x30, word (byteVa ea i), word f, none, locs.take i⟩
    | none => .ok s locs
  | r => r

/-- The places of several ranges of one length, one after the other. -/
def engRows (s : State) (e : Eng) (wr : Bool) (n : Nat) : List Nat → AccRes
  | [] => .ok s []
  | ea :: eas =>
    match engPlaces s e wr ea n with
    | .ok s locs =>
      match engRows s e wr n eas with
      | .ok s more => .ok s (locs ++ more)
      | .fault f => .fault (f.after locs)
      | r => r
    | r => r

/-- The stash bytes of several ranges read. -/
def withRows (s : State) (e : Eng) (n : Nat) (eas : List Nat) (k : State → List Byte → AccRes) : AccRes :=
  match engRows s e false n eas with
  | .ok s locs => k (correct s locs) (readLocs s locs)
  | r => r
/-- The places of several ranges to be written. -/
def withDest (s : State) (e : Eng) (n : Nat) (eas : List Nat) (k : State → List Loc → AccRes) : AccRes :=
  match engRows s e true n eas with
  | .ok s locs => k s locs
  | r => r

/-- R156: n bytes of memory at va, read through the LLC; their lines count in their pages' entries (R333). -/
def withHome (s : State) (e : Eng) (va n : Nat) (k : State → List Byte → AccRes) : AccRes :=
  match partAt s e.pnum with
  | none => .fault ⟨0x13, word va, walkInfo 1 4 false, none, []⟩
  | some p =>
    match resolveRange s p e.pnum e.asid .load false va n with
    | .error f => .fault f
    | .ok vps =>
      match (vps.map fun x => x.2 / 128).filter fun l => homeConflict s l false with
      | l :: ls => .hold s (l :: ls)
      | [] =>
        let locs := vps.map fun x => Loc.mem x.2
        match locError s locs false with
        | some (i, f) => .fault ⟨0x30, word (byteVa va i), word f, none, entryReads s p e.asid va ++ locs.take i⟩
        | none =>
          let t := noteRange (correct s locs) p e.asid .load (dieOf e.ctx) (isSealed s e.ctx) ((List.range n).map (byteVa va))
          match k t (readLocs s locs) with
          | .fault f => .fault (f.after (entryReads s p e.asid va ++ locs))
          | r => r

/-- The first address of a list of ranges outside every mapping (R145: a start check). -/
def rowsGap (s : State) (e : Eng) (n : Nat) (eas : List Nat) : Option FaultInfo :=
  (eas.findSome? fun ea => unmapped s e.tile e.asid ea n).map noMap

/-! ## Elements -/

/-- R74: the elements of a byte string. -/
def elemsOf (ty : Nat) (bs : List Byte) : List Nat :=
  match elemBits ty with
  | 4 => bs.flatMap fun b => [b.toNat % 16, b.toNat / 16]
  | 8 => bs.map (·.toNat)
  | 16 => (chunks 2 (bs.length / 2) bs).map leNat
  | _ => (chunks 4 (bs.length / 4) bs).map leNat

/-- R74: the bytes of elements; of an odd number of 4-bit elements the last high half comes from `old`. -/
def bytesOf (ty : Nat) (es : List Nat) (old : List Byte) : List Byte :=
  match elemBits ty with
  | 4 =>
    let hi := (old.getLastD 0).toNat / 16
    let es := if es.length % 2 = 1 then es ++ [hi] else es
    (chunks 2 (es.length / 2) es).map fun p => BitVec.ofNat 8 (p.getD 0 0 % 16 + p.getD 1 0 % 16 * 16)
  | w => es.flatMap (leBytes (w / 8))

/-- The value of an element of a type: an integer type's as an exact value. -/
def elemVal (ty code : Nat) : FV :=
  match fmtOf ty with
  | some f => decodeF f code
  | none =>
    let w := cvtWidth ty
    ofInt (if (intRange ty).any (fun r => r.1 == 0) then ((code % 2 ^ w : Nat) : Int) else sext code w)

/-- R75: the value of an E8M0 scale. -/
def scaleVal (e : Nat) : FV :=
  if e = 255 then .nan
  else
    let (n, d) := scale2 1 ((e : Int) - 127)
    .fin false n d

/-- R75: a row of block-scaled elements as values. -/
def mxVals (ty : Nat) : List Nat → List Nat → List FV
  | es, sc :: scs => (es.take 32).map (fun c => (mulF (elemVal ty c) (scaleVal sc)).1) ++ mxVals ty (es.drop 32) scs
  | _, [] => []

/-- R92: the exact sum of a group: R83's rules for special values, no rounding. -/
def exactSum (xs : List FV) : FV :=
  match xs with
  | [] => .zero false
  | x :: xs => xs.foldl (fun a y => (addF .rne a y).1) x

/-- R92: one group of products rounded to FP32 and added to the accumulator, rounded. -/
def addGroup (acc : Nat) (ps : List (FV × FV)) : Nat :=
  let t := rne f32 (exactSum (ps.map fun p => (mulF p.1 p.2).1))
  rne f32 (addF .rne (decodeF f32 acc) (decodeF f32 t)).1

/-- R92, R93: the groups of g products of a row and a column, ascending, into an FP32 accumulator. -/
def dotGroups (g acc : Nat) (a b : List FV) : Nat :=
  let ps := a.zip b
  (chunks g ((ps.length + g - 1) / g) ps).foldl addGroup acc

/-- R92: the integer product of a row and a column into an s32 accumulator, wrapping. -/
def dotInt (acc : Nat) (a b : List Int) : Nat :=
  truncI ((acc : Int) + ((a.zip b).map fun p => p.1 * p.2).sum) 32

/-! ## Accumulators (R141, R142) -/

def accRow (t : Tile) (k i : Nat) : List Nat := (smGetList 0 t.acc (8192 * k + 64 * i) 64).map (·.toNat)
def putAccRow (s : State) (tile k i : Nat) (es : List Nat) : State :=
  modTile s tile fun t => { t with acc := smSetList 0 t.acc (8192 * k + 64 * i) (es.map (BitVec.ofNat 32)) }
/-- Rows from i on. -/
def putAccRows (s : State) (tile k : Nat) : Nat → List (List Nat) → State
  | _, [] => s
  | i, r :: rs => putAccRows (putAccRow s tile k i r) tile k (i + 1) rs

/-- R142: whether the accumulator of a specifier is assigned to a context. -/
def ownsAcc (s : State) (n : Nat) (spec : BitVec 9) : Bool :=
  smFind (tileAt s (tileOf n)).accOwner (spec.toNat - 136) == some n
/-- R142: the fault of an accumulator that is not assigned to the issuing context. -/
def accFault : FaultInfo := ⟨0x19, 0, 0, none, []⟩

/-! ## Rings and latches (R148 to R153) -/

/-- R151: the ring fault. -/
def ringFault (n : Nat) : FaultInfo := ⟨0x20, 0, word (n % 8), none, []⟩

/-- R151, R152: the shape of a ring or latch operand as a command starts. -/
def operandShape (s : State) (e : Eng) (spec : BitVec 9) : Except FaultInfo (Nat × Bool × Nat) :=
  let t := tileAt s e.tile
  if spec.toNat < 144 then
    match smFind t.rings (spec.toNat - 128) with
    | some r => if r.count = 0 then .error (ringFault (spec.toNat - 128)) else .ok (r.ty, r.roleB, r.k)
    | none => .error (ringFault (spec.toNat - 128))
  else
    match smFind t.latches (spec.toNat - 144) with
    | some l => .ok (l.ty, l.roleB, l.k)
    | none => .error shapeFault

/-- R145: a ring operand's slot lies in the tile's mappings. -/
def slotMapped (s : State) (e : Eng) (spec : BitVec 9) : Option FaultInfo :=
  (headRange (tileAt s e.tile) spec).findSome? fun r => (unmapped s e.tile e.asid r.1 r.2).map noMap

/-- R151, R152: the operand tile that a command reads. -/
def withOperand (s : State) (e : Eng) (spec : BitVec 9) (k : State → Latch → AccRes) : AccRes :=
  let t := tileAt s e.tile
  if spec.toNat < 144 then
    match smFind t.rings (spec.toNat - 128) with
    | some r =>
      if r.count = 0 then .fault (ringFault (spec.toNat - 128))
      else withRows s e r.slotSize [r.headAddr] fun s bs => k s ⟨r.ty, r.roleB, r.k, bs⟩
    | none => .fault (ringFault (spec.toNat - 128))
  else
    match smFind t.latches (spec.toNat - 144) with
    | some l => k s l
    | none => .fault shapeFault

/-- R151: a ring operand's slot is popped. -/
def popRing (s : State) (e : Eng) (spec : BitVec 9) : State :=
  if spec.toNat < 144 then
    modTile s e.tile fun t =>
      match smFind t.rings (spec.toNat - 128) with
      | some r => { t with rings := smIns t.rings (spec.toNat - 128) { r with head := (r.head + 1) % r.slots, count := r.count - 1 } }
      | none => t
  else s

/-- R148: the rows of an operand tile as codes. -/
def latchCodes (l : Latch) : List (List Nat) :=
  chunks l.k (tileRows l.roleB) (elemsOf l.ty (l.bytes.take (payloadBytes l.ty l.roleB l.k)))
/-- R75, R148: the rows of an operand tile as values. -/
def latchVals (l : Latch) : List (List FV) :=
  if isMx l.ty then
    let scs := chunks (l.k / 32) (tileRows l.roleB) ((l.bytes.drop (payloadBytes l.ty l.roleB l.k)).map (·.toNat))
    List.zipWith (mxVals l.ty) (latchCodes l) scs
  else (latchCodes l).map fun r => r.map (elemVal l.ty)
/-- The rows of an integer operand tile. -/
def latchInts (l : Latch) : List (List Int) := (latchCodes l).map fun r => r.map fun c => sext c (elemBits l.ty)

/-! ## Matrix products (R152) -/

/-- R152: the operand types of a matrix product's opcode. -/
def mmTypes (op ta tb : Nat) : Bool :=
  match op with
  | 0x80 => ta == 0x13 && (tb == 0x13 || tb == 0x14)
  | 0x81 => ta == 0x14 && (tb == 0x13 || tb == 0x14)
  | 0x82 => ta == 0x15 && tb == 0x15
  | 0x83 => ta == 0x16 && tb == 0x16
  | 0x84 => ta == 0x17 && tb == 0x17
  | 0x85 => ta == 0x12 && tb == 0x12
  | 0x86 => ta == 0x11 && tb == 0x11
  | 0x87 => ta == 0x01 && tb == 0x01
  | 0x88 => ta == 0x09 && tb == 0x09
  | _ => isMx ta && isMx tb

/-- R152: the shapes of A and B, roles and K as the product needs them. -/
def mmShape (op : Nat) (a b : Nat × Bool × Nat) : Bool :=
  !a.2.1 && b.2.1 && mmTypes op a.1 b.1 && a.2.2 == b.2.2

/-- R155: the kind of a row of the group table. -/
def groupKind (t : Tile) (i : Nat) : Nat := ((smFind t.group i).map (·.kind)).getD 0

/-- R152: one row of the product. -/
def mmRow (s : State) (e : Eng) (acc : Nat) (z xm : Bool) (i : Nat) (cell : Nat → Nat → Nat) : State :=
  if xm && groupKind (tileAt s e.tile) i == 2 then s
  else
    let old := accRow (tileAt s e.tile) acc i
    putAccRow s e.tile acc i ((List.range 64).map fun j => cell j (if z then 0 else old.getD j 0))

/-- R152: the product of two operand tiles into an accumulator. -/
def mmAll (s : State) (e : Eng) (op acc : Nat) (z xm : Bool) (a b : Latch) : State :=
  if op = 0x87 ∨ op = 0x88 then
    let bs := latchInts b
    ((latchInts a).zipIdx).foldl (fun s r =>
      mmRow s e acc z xm r.2 fun j x => dotInt x r.1 (bs.getD j [])) s
  else
    let g := if elemBits a.ty = 16 ∨ elemBits b.ty = 16 then 16 else 32
    let bs := latchVals b
    ((latchVals a).zipIdx).foldl (fun s r =>
      mmRow s e acc z xm r.2 fun j x => dotGroups g x r.1 (bs.getD j [])) s

def mmRun (s : State) (e : Eng) (c : Cmd) (f : ENGF) : AccRes :=
  let op := (opField c.word).toNat
  withOperand s e f.a fun s a => withOperand s e f.b fun s b =>
    if mmShape op (a.ty, a.roleB, a.k) (b.ty, b.roleB, b.k) then
      let s := mmAll s e op (f.c.toNat - 136) (bit f.md.toNat 0) (bit f.md.toNat 1) a b
      .ok (popRing (popRing s e f.a) e f.b) []
    else .fault shapeFault
def mmCheck (s : State) (e : Eng) (op : Nat) (f : ENGF) : Option FaultInfo :=
  match operandShape s e f.a, operandShape s e f.b with
  | .error x, _ => some x
  | _, .error x => some x
  | .ok a, .ok b => if mmShape op a b then (slotMapped s e f.a).orElse fun _ => slotMapped s e f.b else some shapeFault

/-! ## Edge latches and rings as commands (R150, R153) -/

/-- R141, R153: whether a slot fits an edge latch. -/
def fitsLatch (ty : Nat) (roleB : Bool) (k : Nat) : Bool :=
  decide (payloadBytes ty roleB k ≤ 65536) && decide (scaleBytes ty roleB k ≤ 2048)
def elLdCheck (s : State) (e : Eng) (f : ENGF) : Option FaultInfo :=
  match operandShape s e f.a with
  | .error x => some x
  | .ok (ty, roleB, k) => if fitsLatch ty roleB k then slotMapped s e f.a else some shapeFault
def elLdRun (s : State) (e : Eng) (f : ENGF) : AccRes :=
  match elLdCheck s e f with
  | some x => .fault x
  | none =>
    withOperand s e f.a fun s l =>
      .ok (popRing (modTile s e.tile fun t => { t with latches := smIns t.latches (f.c.toNat - 144) l }) e f.a) []

/-- R150: the tail advances by n slots. -/
def rgAdvCheck (s : State) (e : Eng) (f : ENGF) : Option FaultInfo :=
  match smFind (tileAt s e.tile).rings (f.c.toNat - 128) with
  | some r => if r.slots < r.count + (f.md.toNat + 1) then some (ringFault (f.c.toNat - 128)) else none
  | none => some (ringFault (f.c.toNat - 128))
def rgAdvRun (s : State) (e : Eng) (f : ENGF) : AccRes :=
  match rgAdvCheck s e f, smFind (tileAt s e.tile).rings (f.c.toNat - 128) with
  | some x, _ => .fault x
  | none, some r =>
    let n := f.md.toNat + 1
    .ok (modTile s e.tile fun t =>
      { t with rings := smIns t.rings (f.c.toNat - 128) { r with tail := (r.tail + n) % r.slots, count := r.count + n } }) []
  | none, none => .ok s []

/-! ## Accumulator commands (R154) -/

/-- R154: the checks of acc.st and acc.ld. -/
def accDescBad (store : Bool) (base d : Word) : Bool :=
  let n := d.toNat
  let ty := accType d
  let tyOk := if accInt d then (if store then ty == 0x01 || ty == 0x03 else ty == 0x03)
    else 0x10 ≤ ty && ty ≤ (if store then 0x14 else 0x12)
  bits n 63 47 != 0 || bit n 39 || bits n 15 8 != 0 || decide (128 < accFirst d + accCount d) ||
  !tyOk || decide (accStride d < accRowBytes d) || base.toNat % 64 != 0 ||
  (bit n 6 && (accInt d || (ty != 0x13 && ty != 0x14)))

/-- R154: an element stored: a float rounded RNE, an s32 copied or saturated to s8. -/
def accStoreElem (d : Word) (x : Nat) : Nat :=
  if accInt d then
    if accType d = 0x01 then truncI (satTo (sext x 32) (-128) 127).1 8 else x
  else
    match fmtOf (accType d) with
    | some f => (roundTo f .rne (bit d.toNat 6) false 0 (decodeF f32 x)).code
    | none => x
/-- R154: an element loaded, widened exactly. -/
def accLoadElem (d : Word) (x : Nat) : Nat :=
  if accInt d then x
  else
    match fmtOf (accType d) with
    | some f => rne f32 (decodeF f x)
    | none => x

def accStRun (s : State) (e : Eng) (c : Cmd) (f : ENGF) : AccRes :=
  let t := tileAt s e.tile
  withDest s e (accRowBytes c.b) (accAddrs c.a c.b) fun s locs =>
    let rows := (List.range (accCount c.b)).flatMap fun i =>
      bytesOf (accType c.b) ((accRow t (f.c.toNat - 136) (accFirst c.b + i)).map (accStoreElem c.b)) []
    .ok (storeLocs s locs rows) []
def accLdRun (s : State) (e : Eng) (c : Cmd) (f : ENGF) : AccRes :=
  withRows s e (accRowBytes c.b) (accAddrs c.a c.b) fun s bs =>
    let rows := (chunks (accRowBytes c.b) (accCount c.b) bs).map fun r => (elemsOf (accType c.b) r).map (accLoadElem c.b)
    .ok (putAccRows s e.tile (f.c.toNat - 136) (accFirst c.b) rows) []
/-- R154: acc.zero. -/
def accZeroRun (s : State) (e : Eng) (f : ENGF) : AccRes :=
  let k := f.c.toNat - 136
  .ok (modTile s e.tile fun t => { t with acc := t.acc.filter fun x => !(8192 * k ≤ x.1 && x.1 < 8192 * k + 8192) }) []
/-- R154: acc.mv in its three forms. -/
def accMvRun (s : State) (e : Eng) (f : ENGF) : AccRes :=
  let t := tileAt s e.tile
  let rows := (List.range 128).map fun i =>
    let src := accRow t (f.a.toNat - 136) i
    let dst := accRow t (f.c.toNat - 136) i
    match f.md.toNat with
    | 0 => src
    | 1 => List.zipWith (fun x y => rne f32 (addF .rne (decodeF f32 x) (decodeF f32 y)).1) dst src
    | _ => List.zipWith (fun x y => (x + y) % 2 ^ 32) dst src
  .ok (putAccRows s e.tile (f.c.toNat - 136) 0 rows) []

/-! ## Grouped adaptation (R155 to R157) -/

/-- R155, R364: the check of one row entry, in ascending order; the first failure is the fault. -/
def grpRow (s : State) (e : Eng) (layer i d : Nat) : Except FaultInfo GroupRow :=
  let seq := bits d 19 0
  let slot := bits d 41 32
  let kind := bits d 31 30
  let at_ (code : Nat) : FaultInfo := ⟨code, 0, word i, none, []⟩
  let none_ : Expert := ⟨0, 0, 0, 0, 0, 0, 0, 0, 0, 0⟩
  if bits d 63 42 ≠ 0 ∨ bits d 29 20 ≠ 0 ∨ kind = 3 then .error (at_ 0x18)
  else if kind = 0 then .ok ⟨0, seq, slot, none_⟩
  else
    match smFind s.seqs seq with
    | none => .error (at_ 0x22)
    | some q =>
      if q.part ≠ e.pnum ∨ q.adapter = none ∨ q.holder = none then .error (at_ 0x22)
      else
        match smFind s.experts slot with
        | none => .error (at_ 0x23)
        | some x =>
          -- a slot whose owner has changed since it was installed is not valid (DEDUCED, log entry 28)
          if x.layer ≠ layer ∨ x.kind ≠ kind ∨ x.owner ≠ smGet 0 s.owners slot then .error (at_ 0x23)
          else if Nat.land (Nat.xor q.tenant x.ttag) (x.tmask % 65536) ≠ 0 then .error (at_ 0x22)
          else .ok ⟨kind, seq, slot, x⟩

/-- R155: all rows. -/
def grpRows (s : State) (e : Eng) (layer : Nat) : Nat → List Nat → Except FaultInfo (List GroupRow)
  | _, [] => .ok []
  | i, d :: ds =>
    match grpRow s e layer i d with
    | .error f => .error f
    | .ok r =>
      match grpRows s e layer (i + 1) ds with
      | .error f => .error f
      | .ok rs => .ok (r :: rs)

def grpIdxRun (s : State) (e : Eng) (c : Cmd) : AccRes :=
  withRows s e 1024 [c.a.toNat] fun s bs =>
    let layer := bits c.b.toNat 9 0
    match grpRows s e layer 0 ((chunks 8 128 bs).map leNat) with
    | .error f => .fault f
    | .ok rows =>
      .ok (modTile s e.tile fun t =>
        { t with groupLayer := layer, group := (rows.zipIdx.filter fun r => r.1.kind != 0).map fun r => (r.2, r.1) }) []

/-- R157: the fields of the placement. -/
def grpLayer (b : Word) : Nat := bits b.toNat 9 0
def grpK0 (b : Word) : Nat := bits b.toNat 31 16 * 32
def grpN0 (b : Word) : Nat := bits b.toNat 47 32 * 64
def grpPlaceBad (b : Word) : Bool := bits b.toNat 63 48 != 0 || bits b.toNat 15 10 != 0

/-- R156: the BF16 values at an address. -/
def withWeights (s : State) (e : Eng) (va n : Nat) (k : State → List FV → AccRes) : AccRes :=
  withHome s e (va % 2 ^ 64) (2 * n) fun s bs => k s ((elemsOf 0x12 bs).map (elemVal 0x12))

/-- R157: columns of a row, one after the other: the weights of column j lie at `addr j`. -/
def grpCols (s : State) (e : Eng) (x : List FV) (addr : Nat → Nat) : List (Nat × Nat) → List Nat →
    (State → List Nat → AccRes) → AccRes
  | [], done, k => k s done.reverse
  | (j, acc) :: js, done, k =>
    withWeights s e (addr j) x.length fun s w => grpCols s e x addr js (dotGroups 16 acc x w :: done) k

/-- The columns of a row below n with their old values. -/
def oldCols (old : List Nat) (n : Nat) (z : Bool) : List (Nat × Nat) :=
  (List.range n).map fun j => (j, if z then 0 else old.getD j 0)

/-- R157: whether a row's slot takes a command of K columns of its source, none for `up`. -/
def grpFits (x : Expert) (b : Word) (k : Option Nat) : Bool :=
  decide (grpN0 b + 64 ≤ x.nf) && (match k with | some k => decide (grpK0 b + k ≤ x.kf) | none => true)
/-- R157: the rows of the group table that a command affects. -/
def grpAffected (t : Tile) (op : Nat) : List (Nat × GroupRow) := t.group.filter fun r => r.2.kind == if op = 0x8B then 2 else 1

/-- R157: one affected row: its new first columns, after which the other rows follow. -/
def grpRowRun (s : State) (e : Eng) (c : Cmd) (op : Nat) (up z : Bool) (acc i : Nat) (x : Expert) (row h : List FV)
    (k : State → AccRes) : AccRes :=
  let old := accRow (tileAt s e.tile) acc i
  let put (s : State) (es : List Nat) : AccRes := k (putAccRow s e.tile acc i (es ++ old.drop es.length))
  if !grpFits x c.b (if up then none else some row.length) then .fault shapeFault
  else if op = 0x8B then
    grpCols s e row (fun j => x.abase.toNat + ((grpN0 c.b + j) / 64 * (x.kf * 64) + (grpN0 c.b + j) % 64 * x.kf + grpK0 c.b) * 2)
      (oldCols old 64 z) [] put
  else if up then
    grpCols s e (h.take x.rank) (fun j => x.bbase.toNat + (grpN0 c.b + j) * x.rank * 2) (oldCols old 64 false) [] put
  else
    grpCols s e row (fun j => x.abase.toNat + (j * x.kf + grpK0 c.b) * 2) (oldCols old x.rank false) [] put

/-- R157: the rows of the group table of the kind affected. -/
def grpAll (s : State) (e : Eng) (c : Cmd) (op : Nat) (up z : Bool) (acc : Nat) (src : Nat → List FV) (hs : Nat → List FV) :
    List (Nat × GroupRow) → AccRes
  | [] => .ok s []
  | (i, r) :: rs =>
    grpRowRun s e c op up z acc i r.ex (src i) (hs i) fun s => grpAll s e c op up z acc src hs rs

/-- R157: the BF16 values of a row of h. -/
def hRow (t : Tile) (k i : Nat) : List FV := (accRow t k i).map fun x => decodeF bf16 (rne bf16 (decodeF f32 x))

/-- R157: mm.grp down and up, mm.priv. -/
def grpRun (s : State) (e : Eng) (c : Cmd) (f : ENGF) : AccRes :=
  let op := (opField c.word).toNat
  let up := op == 0x8A && bit f.md.toNat 0
  let z := if op = 0x8A then bit f.md.toNat 1 else bit f.md.toNat 0
  let acc := f.c.toNat - 136
  let t := tileAt s e.tile
  if grpLayer c.b ≠ t.groupLayer then .fault argFault
  else if up then
    grpAll s e c op true false acc (fun _ => []) (fun i => hRow t (f.a.toNat - 136) i) (grpAffected t op)
  else
    withOperand s e f.a fun s l =>
      if l.roleB ∨ l.ty ≠ 0x12 then .fault shapeFault
      else
        let rows := latchVals l
        -- R157: Z in down zeroes every row of acc
        let s0 := if op = 0x8A ∧ z then (List.range 128).foldl (fun s i => putAccRow s e.tile acc i (List.replicate 64 0)) s else s
        match grpAll s0 e c op false z acc (fun i => rows.getD i []) (fun _ => []) (grpAffected t op) with
        | .ok s _ => .ok (popRing s e f.a) []
        | r => r
def grpCheck (s : State) (e : Eng) (c : Cmd) (f : ENGF) : Option FaultInfo :=
  let fits (k : Option Nat) : Bool := (grpAffected (tileAt s e.tile) c.op).all fun r => grpFits r.2.ex c.b k
  if grpLayer c.b ≠ (tileAt s e.tile).groupLayer then some argFault
  else if c.op = 0x8A ∧ bit f.md.toNat 0 then if fits none then none else some shapeFault
  else
    match operandShape s e f.a with
    | .error x => some x
    | .ok (ty, roleB, k) => if roleB ∨ ty ≠ 0x12 ∨ !fits (some k) then some shapeFault else slotMapped s e f.a

/-! ## Conversion engine (R158, R159) -/

/-- R158: the types that the engine converts. -/
def cvTypeOk (t : Nat) : Bool := t == 0x01 || t == 0x03 || t == 0x09 || (0x10 ≤ t && t ≤ 0x17) || (0x33 ≤ t && t ≤ 0x37)

/-- R159: what raises F_ARG when cv.run issues. -/
def convBad (d : ConvDesc) (scale : BitVec 9) : Bool :=
  let n := d.layout.toNat
  bits n 63 48 != 0 || bits n 31 28 != 0 || bits n 15 11 != 0 || decide (4 < d.rs) || !cvTypeOk d.st ||
  (isMx d.st && isMx d.ty) || d.st == d.ty || (d.ovf && d.ty != 0x13 && d.ty != 0x14) ||
  (isMx d.st && (d.cols % 32 != 0 || scale == 0)) || (isMx d.ty && (d.dstCols % 32 != 0 || scale == 0))

/-- R132, R159: a value converted to a type in a mode, with no flag. -/
def convElem (d : ConvDesc) (x : FV) : Nat :=
  match fmtOf d.ty with
  | some f => (roundTo f (rmOf d.rs 0) d.ovf false 0 x).code
  | none =>
    let (lo, hi) := (intRange d.ty).getD (0, 0)
    truncI (floatToInt (rmOf d.rs 0) 0 lo hi x).1 (cvtWidth d.ty)

/-- R159: emax of a block-scaled type. -/
def emaxOf (ty : Nat) : Int :=
  match ty with
  | 0x33 => 8 | 0x34 => 15 | 0x35 => 4 | _ => 2

/-- The larger of two finite magnitudes, as a ratio. -/
def maxMag (a b : Nat × Nat) : Nat × Nat := if a.1 * b.2 < b.1 * a.2 then b else a
/-- The magnitude of a finite value. -/
def FV.mag : FV → Nat × Nat
  | .fin _ n d => (n, d)
  | _ => (0, 1)
/-- Whether a value is NaN or infinite. -/
def FV.special : FV → Bool
  | .nan | .inf _ => true
  | _ => false
/-- v / 2^e. -/
def FV.shift (e : Int) : FV → FV
  | .fin s n d =>
    let (a, b) := scale2 1 (-e)
    .fin s (n * a) (d * b)
  | x => x

/-- R159: a block of 32 values as a scale and elements. -/
def convBlock (d : ConvDesc) (vs : List FV) : Nat × List Nat :=
  if vs.any FV.special then (0xFF, vs.map fun _ => 0)
  else
    let (n, q) := vs.foldl (fun m v => maxMag m v.mag) (0, 1)
    if n = 0 then (0, vs.map fun _ => 0)
    else
      let e := log2Ratio n q - emaxOf d.ty
      let e := if e < -127 then -127 else if 127 < e then 127 else e
      ((e + 127).toNat, vs.map fun v => convElem { d with layout := d.layout &&& ~~~64 } (v.shift e))

/-- R159: a destination row: its elements and its scales. -/
def convRow (d : ConvDesc) (vs : List FV) : List Nat × List Nat :=
  if isMx d.ty then
    let bl := (chunks 32 (vs.length / 32) vs).map (convBlock d)
    (bl.flatMap (·.2), bl.map (·.1))
  else (vs.map (convElem d), [])

/-- Rows and columns exchanged. -/
def transposed (cols : Nat) (rows : List (List FV)) : List (List FV) :=
  (List.range cols).map fun j => rows.map fun r => r.getD j .nan

def cvRun (s : State) (e : Eng) (c : Cmd) : AccRes :=
  match c.conv with
  | none => .ok s []
  | some d =>
    let (sn, sa) := convSrc c d
    let (dn, da) := convDst c d
    let (kn, ka) := convScale c d
    withRows s e sn sa fun s src =>
      withRows s e kn (if isMx d.st then ka else []) fun s sc =>
        let codes := (chunks sn d.rows src).map fun r => (elemsOf d.st r).take d.cols
        let rows := if isMx d.st then
            List.zipWith (mxVals d.st) codes (chunks (d.cols / 32) d.rows (sc.map (·.toNat)))
          else codes.map fun r => r.map (elemVal d.st)
        let out := (if d.tr then transposed d.cols rows else rows).map (convRow d)
        withDest s e dn da fun s locs =>
          let old := chunks dn d.dstRows (readLocs s locs)
          let bs := (List.zipWith (fun r o => bytesOf d.ty r.1 o) out old).flatten
          let s := storeLocs s locs bs
          if isMx d.ty then
            withDest s e kn ka fun s locs => .ok (storeLocs s locs (out.flatMap fun r => r.2.map (BitVec.ofNat 8))) []
          else .ok s []
def cvCheck (s : State) (e : Eng) (c : Cmd) : Option FaultInfo :=
  match c.conv with
  | none => none
  | some d =>
    (rowsGap s e (convSrc c d).1 (convSrc c d).2).orElse fun _ =>
      (rowsGap s e (convDst c d).1 (convDst c d).2).orElse fun _ => rowsGap s e (convScale c d).1 (convScale c d).2

/-! ## Start and completion (R144, R145) -/

/-- R145: the checks that are made when a command starts. -/
def engCheck (s : State) (c : Cmd) : Option FaultInfo :=
  let f := ENGF.unpack c.word
  let e := engOf s c
  match (opField c.word).toNat with
  | 0x8A | 0x8B => grpCheck s e c f
  | 0x8C => elLdCheck s e f
  | 0x8E => rgAdvCheck s e f
  | 0x8F | 0x92 => none
  | 0x90 | 0x91 => rowsGap s e (accRowBytes c.b) (accAddrs c.a c.b)
  | 0x93 => cvCheck s e c
  | 0x9F => rowsGap s e 1024 [c.a.toNat]
  | op => mmCheck s e op f

/-- What a command does. -/
def engRun (s : State) (c : Cmd) : AccRes :=
  let f := ENGF.unpack c.word
  let e := engOf s c
  match (opField c.word).toNat with
  | 0x8A | 0x8B => grpRun s e c f
  | 0x8C => elLdRun s e f
  | 0x8E => rgAdvRun s e f
  | 0x8F => accZeroRun s e f
  | 0x90 => accStRun s e c f
  | 0x91 => accLdRun s e c f
  | 0x92 => accMvRun s e f
  | 0x93 => cvRun s e c
  | 0x9F => grpIdxRun s e c
  | _ => mmRun s e c f

/-- R144: whether the head of a queue may start: its consumed tokens signalled, the queue neither stopped nor frozen. -/
def headReady (q : Queue) : Option Cmd :=
  match q.cmds with
  | c :: _ => if q.running ∨ q.stop.isSome ∨ q.frozen ∨ c.waits ≠ [] then none else some c
  | [] => none

/-- R144, R145: the head command of an engine queue starts, or takes a start check's fault. -/
def engStart (s : State) (sp q : Nat) : State :=
  match headReady (queueAt s sp q) with
  | none => s
  | some c =>
    match (if c.nullified then none else engCheck s c) with
    | some f => stopQueue s sp q f
    | none => setQueue s sp q { queueAt s sp q with running := true }

/-- The lines of ranges are acquired, one range after the other. -/
def acquireRanges (s : State) (e : Eng) (wr : Bool) : List (Nat × Nat) → AccRes
  | [] => .ok s []
  | r :: rs =>
    match stashPlaces s e wr [] r.1 r.2 with
    | .ok s _ => acquireRanges s e wr rs
    | x => x

/-- R145: a command with every line that it needs acquired first. One that has to wait has had no effect but on the lines. -/
def engTry (s : State) (c : Cmd) : AccRes :=
  match acquireRanges s (engOf s c) false (cmdReads s c) with
  | .ok s _ =>
    match acquireRanges s (engOf s c) true (cmdWrites s c) with
    | .ok s _ => match engRun s c with | .hold _ hs => .hold s hs | r => r
    | r => r
  | r => r

/-- A byte put at a place by its key. -/
def putKey (s : State) (k : Nat) (b : Byte) : State :=
  if k % 2 = 1 then putStash s (k / 2 / 2 ^ 22) (k / 2 % 2 ^ 22) b else { s with mem := smSet 0 s.mem (k / 2) b }
def keyByte (s : State) (k : Nat) : Byte :=
  if k % 2 = 1 then stashByte s (k / 2 / 2 ^ 22) (k / 2 % 2 ^ 22) else memByte s (k / 2)
/-- R60: a command as it may read the bytes that the M operation of its bundle wrote: each old or new. -/
def mateBefore (s : State) (c : Cmd) : State :=
  c.mate.zipIdx.foldl (fun t e => if Config.mate (s.freeCount + 2 * e.2) then putKey t e.1.1 e.1.2 else t) s
/-- R60: whether a command writes a stash place. -/
def writesKey (s : State) (c : Cmd) (k : Nat) : Bool :=
  let t := tileAt s (tileOf c.ctx)
  decide (k % 2 = 1) && (cmdWrites s c).any fun r =>
    match mapAt t r.1 with
    | some (_, m) => decide (stashOff m r.1 ≤ k / 2 % 2 ^ 22) && decide (k / 2 % 2 ^ 22 < stashOff m r.1 + r.2)
    | none => false
/-- R60: what such a command leaves: a byte that both wrote holds one of the two values, one that it did not write is as the M
operation left it. -/
def mateAfter (s t : State) (c : Cmd) : State :=
  if c.mate = [] then t
  else
    let u := c.mate.zipIdx.foldl (fun u e =>
      if writesKey s c e.1.1 && Config.mate (s.freeCount + 2 * e.2 + 1) then u else putKey u e.1.1 (keyByte s e.1.1)) t
    { u with freeCount := u.freeCount + 2 * c.mate.length }

/-- The requester of a queue's head (`State.wants`). -/
def queueKey (sp q : Nat) : Nat := 60000 + 11 * sp + q

/-- R144, R145, R146: the running command of an engine queue completes, goes on waiting for a line, or faults. -/
def engComplete (s : State) (sp q : Nat) : State :=
  let x := queueAt s sp q
  match x.running, x.cmds with
  | true, c :: _ =>
    if c.nullified then finishHead s sp q
    else
      match engTry (mateBefore s c) c with
      | .ok t _ => finishHead (setWants (mateAfter s t c) (queueKey sp q) []) sp q
      | .hold t hs => setWants (c.mate.foldl (fun t e => putKey t e.1 (keyByte s e.1)) t) (queueKey sp q) hs
      | .fault f => stopQueue (setWants s (queueKey sp q) []) sp q f
  | _, _ => s

/-! ## Issue (R143, R145) -/

/-- R143, R145: an engine command at issue: its checks, then its entry into its queue, or the wait for a place there. -/
def engOp (q : Nat) (w : Word) (f : ENGF) (srcs : View → Word × Word × Word) (check : View → State → Option FaultInfo) : Op :=
  { null := fun v s =>
      if hasRoom s v.n q then .ok (enqueue s v q w 0 0 0 0 true (toksOf f)) {} else .hold .token (.engine q) id
    run := fun v s =>
      match check v s with
      | some x => .fault x
      | none =>
        if hasRoom s v.n q then
          .ok (enqueue s v q w (srcs v).1 (srcs v).2.1 (srcs v).2.2 0 false (toksOf f)) {}
        else .hold .token (.engine q) id
    marks := fun v s => cmdMarks w (srcs v).1 (srcs v).2.1 (srcs v).2.2 0 v s }

/-- No register operand. -/
def noSrcs (_ : View) : Word × Word × Word := (0, 0, 0)
/-- The x registers of fields a and b. -/
def srcsAB (f : ENGF) (v : View) : Word × Word × Word := (readX v.c f.a.toNat, readX v.c f.b.toNat, 0)
/-- R142: the accumulators named must be assigned to the context. -/
def needAcc (specs : List (BitVec 9)) (v : View) (s : State) : Option FaultInfo :=
  if specs.all (ownsAcc s v.n) then none else some accFault
/-- R146, R270: refused in a sealed launch. -/
def needUnsealed (v : View) (s : State) : Option FaultInfo := if isSealed s v.n then some ⟨0x1A, 0, 0, none, []⟩ else none

def mmOp (opc : BitVec 8) (f : ENGF) : Op := engOp 0 (f.pack opc) f noSrcs (needAcc [f.c])
def opMmF8e4 (f : ENGF) : Op := mmOp 0x80 f
def opMmF8e5 (f : ENGF) : Op := mmOp 0x81 f
def opMmF6e3 (f : ENGF) : Op := mmOp 0x82 f
def opMmF6e2 (f : ENGF) : Op := mmOp 0x83 f
def opMmF4 (f : ENGF) : Op := mmOp 0x84 f
def opMmBf16 (f : ENGF) : Op := mmOp 0x85 f
def opMmF16 (f : ENGF) : Op := mmOp 0x86 f
def opMmS8 (f : ENGF) : Op := mmOp 0x87 f
def opMmS4 (f : ENGF) : Op := mmOp 0x88 f
def opMmMx (f : ENGF) : Op := mmOp 0x89 f

/-- R157: the issue checks of mm.grp and mm.priv. -/
def grpIssue (f : ENGF) (accs : List (BitVec 9)) (v : View) (s : State) : Option FaultInfo :=
  (needUnsealed v s).orElse fun _ => (needAcc accs v s).orElse fun _ =>
    if grpPlaceBad (readX v.c f.b.toNat) then some argFault else none
def opMmGrp (f : ENGF) : Op :=
  engOp 0 (f.pack 0x8A) f (fun v => (0, readX v.c f.b.toNat, 0)) (grpIssue f (if bit f.md.toNat 0 then [f.a, f.c] else [f.c]))
def opMmPriv (f : ENGF) : Op := engOp 0 (f.pack 0x8B) f (fun v => (0, readX v.c f.b.toNat, 0)) (grpIssue f [f.c])
def opElLd (f : ENGF) : Op := engOp 0 (f.pack 0x8C) f noSrcs fun _ _ => none
def opRgAdv (f : ENGF) : Op := engOp 2 (f.pack 0x8E) f noSrcs fun _ _ => none
def opAccZero (f : ENGF) : Op := engOp 0 (f.pack 0x8F) f noSrcs (needAcc [f.c])
/-- R154: the issue checks of acc.st and acc.ld. -/
def accIssue (store : Bool) (f : ENGF) (v : View) (s : State) : Option FaultInfo :=
  (needAcc [f.c] v s).orElse fun _ =>
    if accDescBad store (readX v.c f.a.toNat) (readX v.c f.b.toNat) then some argFault else none
def opAccSt (f : ENGF) : Op := engOp 0 (f.pack 0x90) f (srcsAB f) (accIssue true f)
def opAccLd (f : ENGF) : Op := engOp 0 (f.pack 0x91) f (srcsAB f) (accIssue false f)
def opAccMv (f : ENGF) : Op := engOp 0 (f.pack 0x92) f noSrcs (needAcc [f.a, f.c])
def opGrpIdx (f : ENGF) : Op :=
  engOp 0 (f.pack 0x9F) f (srcsAB f) fun v s =>
    (needUnsealed v s).orElse fun _ =>
      if (readX v.c f.a.toNat).toNat % 64 ≠ 0 ∨ 2 ^ 10 ≤ (readX v.c f.b.toNat).toNat then some argFault else none
def opCvRun (f : ENGF) : Op :=
  engOp 1 (f.pack 0x93) f (fun v => (readX v.c f.a.toNat, readX v.c f.b.toNat, readX v.c f.c.toNat)) fun v _ =>
    match v.c.conv with
    | none => some argFault
    | some d => if convBad d f.c then some argFault else none
/-- R158: the conversion descriptor is set; it is checked when cv.run issues. -/
def opCvCfg (f : RRR) : Op :=
  { srcs := [f.a, f.b]
    run := fun v s => .ok (modCtx s v.n fun c => { c with conv := some ⟨f.ty.toNat, v.arg 0, v.arg 1⟩ }) {} }

/-- R149: whether a queued command names a ring. -/
def namesRing (n : Nat) (c : Cmd) : Bool :=
  let f := ENGF.unpack c.word
  let op := (opField c.word).toNat
  let hit (x : BitVec 9) : Bool := x.toNat == 128 + n
  if 0x80 ≤ op ∧ op ≤ 0x89 then hit f.a || hit f.b
  else if 0x8A ≤ op ∧ op ≤ 0x8C then hit f.a
  else op == 0x8E && hit f.c

/-- R149: the configuration of a ring. -/
def opRgCfg (f : RRR) : Op :=
  { run := fun v s =>
      let base := (readX v.c f.a.toNat).toNat
      let sh := (readX v.c f.b.toNat).toNat
      let n := f.d.toNat - 128
      let k := 32 * (bits sh 13 8 + 1)
      let slots := bits sh 4 0 + 1
      let roleB := bit f.md.toNat 0
      let tile := tileOf v.n
      let size := slots * slotSize f.ty.toNat roleB k
      if 2 ^ 14 ≤ sh ∨ bits sh 7 5 ≠ 0 ∨ base % 128 ≠ 0 then .fault argFault
      else
        match (if mapsServe s tile v.c.asid.toNat then mapAt (tileAt s tile) base else none) with
        | none => .fault (noMap base)
        | some (_, m) =>
          if m.base + m.len < base + size then .fault (noMap base)
          else
            let t := tileAt s tile
            if (t.tensor.cmds ++ t.ringq.cmds).any (namesRing n) then .hold .token (.engine 0) id
            else .ok (modTile s tile fun t => { t with rings := smIns t.rings n ⟨base, slots, f.ty.toNat, roleB, k, 0, 0, 0⟩ }) {} }

/-! ## The instructions, each issued by the current context alone in its bundle -/
def execMmF8e4 (f : ENGF) (s : State) : Host.Outcome State Fault Refusal := issueOne (f.pack 0x80) (opMmF8e4 f) s
def execMmF8e5 (f : ENGF) (s : State) : Host.Outcome State Fault Refusal := issueOne (f.pack 0x81) (opMmF8e5 f) s
def execMmF6e3 (f : ENGF) (s : State) : Host.Outcome State Fault Refusal := issueOne (f.pack 0x82) (opMmF6e3 f) s
def execMmF6e2 (f : ENGF) (s : State) : Host.Outcome State Fault Refusal := issueOne (f.pack 0x83) (opMmF6e2 f) s
def execMmF4 (f : ENGF) (s : State) : Host.Outcome State Fault Refusal := issueOne (f.pack 0x84) (opMmF4 f) s
def execMmBf16 (f : ENGF) (s : State) : Host.Outcome State Fault Refusal := issueOne (f.pack 0x85) (opMmBf16 f) s
def execMmF16 (f : ENGF) (s : State) : Host.Outcome State Fault Refusal := issueOne (f.pack 0x86) (opMmF16 f) s
def execMmS8 (f : ENGF) (s : State) : Host.Outcome State Fault Refusal := issueOne (f.pack 0x87) (opMmS8 f) s
def execMmS4 (f : ENGF) (s : State) : Host.Outcome State Fault Refusal := issueOne (f.pack 0x88) (opMmS4 f) s
def execMmMx (f : ENGF) (s : State) : Host.Outcome State Fault Refusal := issueOne (f.pack 0x89) (opMmMx f) s
def execMmGrp (f : ENGF) (s : State) : Host.Outcome State Fault Refusal := issueOne (f.pack 0x8A) (opMmGrp f) s
def execMmPriv (f : ENGF) (s : State) : Host.Outcome State Fault Refusal := issueOne (f.pack 0x8B) (opMmPriv f) s
def execElLd (f : ENGF) (s : State) : Host.Outcome State Fault Refusal := issueOne (f.pack 0x8C) (opElLd f) s
def execRgCfg (f : RRR) (s : State) : Host.Outcome State Fault Refusal := issueOne (f.pack 0x8D) (opRgCfg f) s
def execRgAdv (f : ENGF) (s : State) : Host.Outcome State Fault Refusal := issueOne (f.pack 0x8E) (opRgAdv f) s
def execAccZero (f : ENGF) (s : State) : Host.Outcome State Fault Refusal := issueOne (f.pack 0x8F) (opAccZero f) s
def execAccSt (f : ENGF) (s : State) : Host.Outcome State Fault Refusal := issueOne (f.pack 0x90) (opAccSt f) s
def execAccLd (f : ENGF) (s : State) : Host.Outcome State Fault Refusal := issueOne (f.pack 0x91) (opAccLd f) s
def execAccMv (f : ENGF) (s : State) : Host.Outcome State Fault Refusal := issueOne (f.pack 0x92) (opAccMv f) s
def execCvRun (f : ENGF) (s : State) : Host.Outcome State Fault Refusal := issueOne (f.pack 0x93) (opCvRun f) s
def execCvCfg (f : RRR) (s : State) : Host.Outcome State Fault Refusal := issueOne (f.pack 0x94) (opCvCfg f) s
def execGrpIdx (f : ENGF) (s : State) : Host.Outcome State Fault Refusal := issueOne (f.pack 0x9F) (opGrpIdx f) s

end Sys2Proof.Machine
end

