-- ==== Sys2Proof/Machine/Copy.lean ====
section
/-! DEFINITION. Copy channels (R224 to R230): the checks at issue and at start, the delivery of a byte, completion with its
barrier decrement (R189, R233), and the two events that engine queues and copy channels share (R144). -/
namespace Sys2Proof.Machine

/-! ## A copy's operands -/

/-- R225, R227, R231: the checks of a copy at issue. -/
def copyArgBad (op : Nat) (a d aux : Word) : Bool :=
  let n := d.toNat
  if op = 0xB6 then decide (2 ^ 40 ≤ n) || bits n 39 16 == 0 || bits n 15 0 == 0 || aux.toNat % 4 != 0
  else
    bits n 63 49 != 0 || bits n 47 40 != 0 || bits n 39 0 == 0 ||
    (op != 0xB5 && bit n 48 && aux.toNat % 64 != 0) ||
    (op == 0xB5 && (bits a.toNat 63 57 != 0 || bits a.toNat 35 22 != 0))

/-- R16: the endpoints of a copy that virtual addresses name. -/
def copyEnds (op : Nat) (a b : Word) : List Nat := if op = 0xB5 then [b.toNat] else [a.toNat, b.toNat]

/-- R16, R224: a copy command at issue. An endpoint that is not canonical is precise at the bundle (R16); the other checks of
R209 step 4 fall in the delivery (R230; DEDUCED, log entry 83). -/
def copyOp (opc : BitVec 8) (f : ENGF) : Op :=
  let q := 3 + f.md.toNat
  let w := f.pack opc
  { null := fun v s =>
      if hasRoom s v.n q then .ok (enqueue s v q w 0 0 0 0 true (toksOf f)) {} else .hold .token (.engine q) id
    run := fun v s =>
      let a := readX v.c f.a.toNat
      let b := readX v.c f.b.toNat
      let d := readX v.c f.c.toNat
      let aux := readX v.c (f.c.toNat + 1)
      if copyArgBad opc.toNat a d aux then .fault argFault
      else
        match (copyEnds opc.toNat a b).find? fun x => !canonical x with
        | some x => .fault (nonCanonical x)
        | none =>
          if maHeld s v (stashUses s (mkCmd v 0 w a b d aux false [] 0)) then .stay id
          else if hasRoom s v.n q then .ok (enqueue s v q w a b d aux false (toksOf f)) {}
          else .hold .token (.engine q) id
    marks := fun v s => cmdMarks w (readX v.c f.a.toNat) (readX v.c f.b.toNat) (readX v.c f.c.toNat) (readX v.c (f.c.toNat + 1)) v s }
def opCpGet (f : ENGF) : Op := copyOp 0xB3 f
def opCpPut (f : ENGF) : Op := copyOp 0xB4 f
def opCpRput (f : ENGF) : Op := copyOp 0xB5 f
def opCpGth (f : ENGF) : Op := copyOp 0xB6 f

/-! ## The start of a copy (R227, R230) -/

/-- R226: a stash side of n bytes that lies in one mapping. -/
def sideFault (s : State) (e : Eng) (ea n : Nat) : Option FaultInfo :=
  match (if mapsServe s e.tile e.asid then mapAt (tileAt s e.tile) ea else none) with
  | some (_, m) => if ea + n ≤ m.base + m.len then none else some (noMap ea)
  | none => some (noMap ea)

/-- R413: a unit of this device, or a device, that is dead. -/
def peerDead (a kind id : Nat) : FaultInfo := ⟨0x31, word a, word (kind * 2 ^ 16 + id), none, []⟩

/-- R227: what a cp.rput of a partition meets at offsets of a tile of this device: `off` and `n` are its destination, `bar` its
barrier. -/
def rputHere (s : State) (a tile off n pnum : Nat) (bar : Option Nat) : Option FaultInfo :=
  if 191 < tile then some (noMap a)
  else if (tileAt s tile).dead then some (peerDead a 2 tile)
  else
    match mapByOff (tileAt s tile) off with
    | some m =>
      let fits := decide (off + n ≤ m.stoff + m.len) && m.mode == 2 && m.rp && m.rpart == pnum
      let barFits := bar.all fun b => b % 64 == 0 && decide (m.stoff ≤ b) && decide (b + 16 ≤ m.stoff + m.len)
      if fits && barFits then none else some (noMap a)
    | none => some (noMap a)

/-- R227: what a cp.rput meets at its destination. -/
def rputFault (s : State) (e : Eng) (c : Cmd) : Option FaultInfo :=
  let a := c.a.toNat
  if 191 < sgTile a then some (noMap a)
  else if sgDev a = s.dom.devnum.getD 0 then rputHere s a (sgTile a) (sgOff a) c.total e.pnum (if c.bar then some c.aux.toNat else none)
  else if s.dom.devnum = none ∨ s.dom.unreachable.contains (sgDev a) ∨ s.dom.fenced.contains (sgDev a) then
    some (peerDead a 3 (sgDev a))
  else if !s.dom.present.contains (sgDev a) then some ⟨0x10, c.a, 2, none, []⟩
  else
    let ok := s.dom.rput.any fun o =>
      o.1 == sgDev a && o.2.1 == sgTile a && o.2.2.1 == e.pnum && decide (o.2.2.2.1 ≤ sgOff a) &&
      decide (sgOff a + c.total ≤ o.2.2.2.1 + o.2.2.2.2) &&
      (!c.bar || (c.aux.toNat % 64 == 0 && decide (o.2.2.2.1 ≤ c.aux.toNat) && decide (c.aux.toNat + 16 ≤ o.2.2.2.1 + o.2.2.2.2)))
    if ok then none else some (noMap a)

/-- R226, R230: the checks of a copy when it starts. -/
def copyCheck (s : State) (c : Cmd) : Option FaultInfo :=
  let e := engOf s c
  let barrier (_ : Unit) : Option FaultInfo :=
    if c.bar then (unmapped s e.tile e.asid c.aux.toNat 16).map fun _ => noMap c.aux.toNat else none
  match c.op with
  | 0xB3 => (sideFault s e c.a.toNat c.total).orElse barrier
  | 0xB4 => (sideFault s e c.b.toNat c.total).orElse barrier
  | 0xB5 => (sideFault s e c.b.toNat c.total).orElse fun _ => rputFault s e c
  | _ => (sideFault s e c.a.toNat c.total).orElse fun _ => (unmapped s e.tile e.asid c.aux.toNat c.indexBytes).map noMap

/-! ## The delivery of a byte (R226, R228, R230) -/

/-- R230: one byte of memory at va, served at its home (R226). An address of 2^64 or more crosses the canonical limit
(R16). R333: a line is counted with its first byte. -/
def homePlace (s : State) (e : Eng) (wr first : Bool) (va : Nat) : AccRes :=
  let need : Need := if wr then .store else .load
  match partAt s e.pnum with
  | none => .fault ⟨0x13, word va, walkInfo 1 4 false, none, []⟩
  | some p =>
    match resolveRange s p e.pnum e.asid need false va 1 with
    | .error f => .fault f.plain
    | .ok vps =>
      match (vps.map fun x => x.2 / 128).filter fun l => homeConflict s l wr with
      | l :: ls => .hold s (l :: ls)
      | [] =>
        .ok (if first || va % 128 == 0 then noteRange s p e.asid need (dieOf e.ctx) (isSealed s e.ctx) [va] else s)
          (vps.map fun x => .mem x.2)

/-- R405: a place read, a bad word refused. -/
def readChecked (s : State) (va : Nat) (locs : List Loc) (k : State → Byte → AccRes) : AccRes :=
  match locError s locs false with
  | some (_, f) => .fault ⟨0x30, word va, word f, none, []⟩
  | none => k (correct s locs) ((readLocs s locs).headD 0)

/-- R226: the source byte of index i. -/
def withSource (s : State) (e : Eng) (c : Cmd) (i : Nat) (k : State → Nat → AccRes → AccRes) : AccRes :=
  match c.op with
  | 0xB3 => k s (c.b.toNat + i) (homePlace s e false (i == 0) (c.b.toNat + i))
  | 0xB6 =>
    withRows s e 4 [c.aux.toNat + 4 * (i / c.rowBytes)] fun s bs =>
      let va := c.b.toNat + leNat bs * c.rowBytes + i % c.rowBytes
      k s va (homePlace s e false (i % c.rowBytes == 0) va)
  | _ => k s (c.b.toNat + i) (stashPlaces s e false [] (c.b.toNat + i) 1)

/-- R226: the line that a copy is about to write whole, at its first byte. -/
def Cmd.wholeLine (c : Cmd) (i : Nat) : List Nat :=
  if (c.a.toNat + i) % 128 = 0 ∧ i + 128 ≤ c.total then [(c.a.toNat + i) / 128] else []
/-- R226: the place of destination byte i; none when it lies on another device. -/
def destPlace (s : State) (e : Eng) (c : Cmd) (i : Nat) : AccRes :=
  match c.op with
  | 0xB4 => homePlace s e true (i == 0) (c.a.toNat + i)
  | 0xB5 =>
    match rputFault s e c with
    | some f => .fault f
    | none =>
      if sgDev c.a.toNat = s.dom.devnum.getD 0 then .ok s [.stash (sgTile c.a.toNat) (sgOff c.a.toNat + i) none]
      else .ok s []
  | _ => stashPlaces s e true (c.wholeLine i) (c.a.toNat + i) 1

/-- R226: a source byte that the command itself has overwritten reads as it was before or as it is, unpredictably; so does one
that the M operation of its bundle has written (R60). -/
def sourceByte (s : State) (c : Cmd) (locs : List Loc) (b : Byte) : Byte :=
  match locs with
  | l :: _ =>
    match smFind c.saved (placeKey l), smFind c.mate (placeKey l) with
    | some old, _ => if Config.freeBit s.freeCount then old else b
    | none, some old => if Config.mate s.freeCount then old else b
    | none, none => b
  | [] => b
/-- R60: a destination byte that the M operation of the command's bundle has written keeps that value, or takes the source's. -/
def destByte (s : State) (c : Cmd) (locs : List Loc) (b : Byte) : Byte :=
  match locs with
  | l :: _ => if (smFind c.mate (placeKey l)).isSome && Config.mate (s.freeCount + 1) then readLoc s l else b
  | [] => b

/-- R405: whether the command's destination covers the 64-bit word of destination byte i whole. -/
def coversWord (c : Cmd) (i : Nat) : Bool :=
  let r := (c.a.toNat + i) % 8
  decide (r ≤ i) && decide (i - r + 8 ≤ c.total)

/-- R405: the word of a place loses its error. -/
def endError (s : State) : Loc → State
  | .mem a => { s with errs := smDel s.errs (a / 8) }
  | .stash t o _ => { s with serrs := smDel s.serrs (stashWordKey t o) }

/-- R226, R228, R405: byte i is written to its place. -/
def putCopyByte (s : State) (c : Cmd) (i va : Nat) (locs : List Loc) (b : Byte) : AccRes :=
  match (if coversWord c i then none else locError s locs true) with
  | some (_, f) => .fault ⟨0x30, word va, word f, none, []⟩
  | none =>
    let s := writeLocs s locs [b]
    .ok (if coversWord c i && (c.a.toNat + i) % 8 == 7 then locs.foldl endError s else s) locs

/-- R228: the channel's head command has delivered byte i. -/
def advanceCopy (s : State) (sp ch : Nat) (c : Cmd) (locs : List Loc) (old : List Byte) : State :=
  let x := copyChanAt s sp ch
  let saved := (locs.zip old).foldl (fun m e => if (smFind m (placeKey e.1)).isSome then m else smIns m (placeKey e.1) e.2) c.saved
  let c' := { c with done := c.done + 1, saved := saved }
  setCopyChan { s with freeCount := s.freeCount + 2 } sp ch
    { x with q := { x.q with cmds := c' :: x.q.cmds.drop 1 }, cseq := c.cseq, addr := bits (c.a.toNat + c.done + 1) 56 0 }

/-- R205, R417: the byte that was on its way to another device when its link was lost may have been written. -/
def copyLost (s : State) (e : Eng) (c : Cmd) (f : FaultInfo) : State :=
  if c.op = 0xB4 ∧ f.code = 0x31 ∧ Config.lost s.freeCount then
    match partAt s e.pnum, stashPlaces s e false [] (c.b.toNat + c.done) 1 with
    | some p, .ok t locs =>
      match resolveHome s p e.asid .store false [c.a.toNat + c.done] with
      | .ok [(_, pa)] => putByte s pa ((readLocs t locs).headD 0)
      | _ => s
    | _, _ => s
  else s

/-- R228: a copy channel delivers a byte of its head command. -/
def copyDeliver (s : State) (sp ch : Nat) : State :=
  let x := (copyChanAt s sp ch).q
  match x.running, x.cmds with
  | true, c :: _ =>
    if c.nullified ∨ c.total ≤ c.done then s
    -- R401: a frozen copy stops after its current 128-byte line
    else if x.frozen && (c.a.toNat + c.done) % 128 == 0 then setQueue s sp (3 + ch) { x with running := false }
    else
      let e := engOf s c
      let r := withSource s e c c.done fun _ va src =>
        match src with
        | .ok s locs =>
          readChecked s va locs fun s b =>
            let b := sourceByte s c locs b
            match destPlace s e c c.done with
            | .ok s dst =>
              let old := readLocs s dst
              match putCopyByte s c c.done (c.a.toNat + c.done) dst (destByte s c dst b) with
              | .ok s dst => .ok (advanceCopy s sp ch c dst old) []
              | r => r
            | r => r
        | r => r
      match r with
      | .ok s _ => setWants s (queueKey sp (3 + ch)) []
      | .hold s hs => setWants s (queueKey sp (3 + ch)) hs
      | .fault f => stopQueue (setWants (copyLost s e c f) (queueKey sp (3 + ch)) []) sp (3 + ch) f
  | _, _ => s

/-! ## Completion (R189, R233) -/

/-- R233: the decrement of the barrier at places of a tile; bits that a barrier does not define keep their value. -/
def decrementAt (s : State) (tile : Nat) (locs : List Loc) (n : Nat) : State :=
  let old := leNat (readLocs s locs)
  let b := Bar.unpack old
  let r := b.decrement n
  let s := storeLocs s locs (leBytes 16 (r.1.pack + (old - b.pack)))
  if r.2 then releaseBarrier s tile (locOff locs) (word (r.1.low + bits old 63 35 * 2 ^ 35)) else s

/-- R226, R227: the barrier of a completed copy. -/
def copyBarrier (s : State) (c : Cmd) : AccRes :=
  let e := engOf s c
  if !c.bar then .ok s []
  else if c.op = 0xB5 then
    if sgDev c.a.toNat = s.dom.devnum.getD 0 then
      let locs := (List.range 16).map fun i => Loc.stash (sgTile c.a.toNat) (c.aux.toNat + i) none
      match rputFault s e c with
      | some f => .fault f
      | none => .ok (decrementAt s (sgTile c.a.toNat) locs c.total) []
    else .ok s []
  else
    match engPlaces s e true c.aux.toNat 16 with
    | .ok s locs =>
      match locError s locs false with
      | some (i, f) => .fault ⟨0x30, word (byteVa c.aux.toNat i), word f, none, []⟩
      | none => .ok (decrementAt s e.tile locs c.total) []
    | r => r

/-- R189: a copy whose bytes are all delivered completes. -/
def copyComplete (s : State) (sp ch : Nat) : State :=
  let x := (copyChanAt s sp ch).q
  match x.running, x.cmds with
  | true, c :: _ =>
    if c.nullified then finishHead s sp (3 + ch)
    else if c.done < c.total then s
    else
      match copyBarrier s c with
      | .ok s _ => finishHead s sp (3 + ch)
      | .hold s hs => setWants s (queueKey sp (3 + ch)) hs
      | .fault f => stopQueue s sp (3 + ch) f
  | _, _ => s

/-- R230: the head command of a copy channel starts, or takes a start check's fault. -/
def copyStart (s : State) (sp ch : Nat) : State :=
  let q := 3 + ch
  match headReady (queueAt s sp q) with
  | none => s
  | some c =>
    match (if c.nullified then none else copyCheck s c) with
    | some f => stopQueue s sp q f
    | none => setQueue s sp q { queueAt s sp q with running := true }

/-! ## The events -/

/-- ENGINE_CMD_START. -/
def execEngineCmdStart (sp q : Nat) (s : State) : Host.Outcome State Fault Refusal :=
  .next (if q < 3 then engStart s sp q else copyStart s sp (q - 3))
/-- R60: what the head command of a queue has done, seen by the results of its own bundle. -/
def seenBy (was s : State) (sp q : Nat) : State :=
  match (queueAt was sp q).cmds with
  | c :: _ => noteMates was s c
  | [] => s
/-- ENGINE_CMD_COMPLETE; a copy completes by COPY_COMPLETE. -/
def execEngineCmdComplete (sp q : Nat) (s : State) : Host.Outcome State Fault Refusal :=
  .next (if q < 3 then seenBy s (engComplete s sp q) sp q else s)
/-- COPY_DELIVER. -/
def execCopyDeliver (sp ch : Nat) (s : State) : Host.Outcome State Fault Refusal :=
  .next (seenBy s (copyDeliver s sp ch) sp (3 + ch))
/-- COPY_COMPLETE. -/
def execCopyComplete (sp ch : Nat) (s : State) : Host.Outcome State Fault Refusal := .next (copyComplete s sp ch)

/-! ## The instructions, each issued by the current context alone in its bundle -/
def execCpGet (f : ENGF) (s : State) : Host.Outcome State Fault Refusal := issueOne (f.pack 0xB3) (opCpGet f) s
def execCpPut (f : ENGF) (s : State) : Host.Outcome State Fault Refusal := issueOne (f.pack 0xB4) (opCpPut f) s
def execCpRput (f : ENGF) (s : State) : Host.Outcome State Fault Refusal := issueOne (f.pack 0xB5) (opCpRput f) s
def execCpGth (f : ENGF) (s : State) : Host.Outcome State Fault Refusal := issueOne (f.pack 0xB6) (opCpGth f) s

end Sys2Proof.Machine
end

