-- ==== Sys2Proof/Machine/Stash.lean ====
section
/-! DEFINITION. Stash mappings: `sm.map`, `sm.unmap`, `sm.pin`, `sm.unpin`, `sm.flush` (R215 to R222), and the events of a
line under its lease (R218, R219). -/
namespace Sys2Proof.Machine

/-! ## Mappings (R215, R216) -/

/-- R216: the mapping that a descriptor describes. -/
def mapOf (base : Nat) (d : Word) : Mapping :=
  let n := d.toNat
  { base := base, len := (bits n 46 32 + 1) * 128, stoff := bits n 21 0, mode := bits n 49 48, rp := bit n 50
    rpart := bits n 53 51, born := 0 }

/-- Whether two ranges overlap. -/
def rangesMeet (a n b m : Nat) : Bool := decide (a < b + m) && decide (b < a + n)

/-- R216: what raises F_ARG. -/
def mapBad (t : Tile) (d : Word) (m : Mapping) : Bool :=
  let n := d.toNat
  bits n 63 54 != 0 || (!m.rp && m.rpart != 0) || (m.rp && m.mode != 2) || m.mode == 3 || bit n 47 || bits n 31 22 != 0 ||
  m.stoff % 128 != 0 || m.base % 128 != 0 || decide (2 ^ 22 < m.stoff + m.len) ||
  t.maps.any fun e => rangesMeet e.2.base e.2.len m.base m.len || rangesMeet e.2.stoff e.2.len m.stoff m.len

/-- R215: an entry number that is not in use. R436 and R438 give the numbers that the operations of a launch get on every device as
long as no entry has been freed, 0, 1 and so on (DEDUCED, log entry 18); otherwise which of them is open (R7). -/
def freeEntry (t : Tile) (k : Nat) : Option Nat :=
  let free := (List.range 64).filter fun n => (smFind t.maps n).isNone
  if free.head? = some t.maps.length then some t.maps.length
  else if free = [] then none else free[Config.freeNat k % free.length]?

/-- R215, R217: a mapping entered; scratch bytes are zero. -/
def enterMap (s : State) (tile n : Nat) (m : Mapping) : State :=
  let s := modTile { s with mapCount := s.mapCount + 1 } tile fun t =>
    { t with maps := smIns t.maps n { m with born := s.mapCount }
             stash := if m.mode = 2 then t.stash.filter fun e => !(decide (m.stoff ≤ e.1) && decide (e.1 < m.stoff + m.len)) else t.stash }
  if m.mode = 2 then
    { s with serrs := s.serrs.filter fun e =>
        !(decide (stashWordKey tile m.stoff ≤ e.1) && decide (e.1 < stashWordKey tile m.stoff + m.len / 8))
             scerrs := s.scerrs.filter fun e =>
        !(decide (stashWordKey tile m.stoff ≤ e) && decide (e < stashWordKey tile m.stoff + m.len / 8)) }
  else s

def opSmMap (f : RRR) : Op :=
  { srcs := [f.a, f.b], dests := dstS f.d
    run := fun v s =>
      let tile := tileOf v.n
      let t := tileAt s tile
      let m := mapOf (v.arg 0).toNat (v.arg 1)
      if mapBad t (v.arg 1) m then .fault argFault
      else
        match canonFault m.base m.len with
        | some x => .fault x
        | none =>
          match freeEntry t s.freeCount with
          | none => .ok s (landS v.c f.d (BitVec.allOnes 64) 2)
          | some n => .ok { s with freeCount := s.freeCount + 1 } { landS v.c f.d (word n) 2 with late := some fun s => enterMap s tile n m } }

/-! ## Lines of a range -/

/-- The virtual lines of a mapping. -/
def mapLines (m : Mapping) : List Nat := (List.range (m.len / 128)).map fun i => m.base / 128 + i

/-- R219: the dirty lines of a list go to B; `flush` tells whether they end in W. -/
def startBack (s : State) (tile : Nat) (flush : Bool) (ls : List Nat) : State :=
  ls.foldl (fun s v =>
    match smFind (tileAt s tile).lines v with
    | some l => if l.st = .D then setLine s tile v { l with st := .B, flush := flush } else s
    | none => s) s

/-- Whether a line of a list is in a state. -/
def anyLine (s : State) (tile : Nat) (st : LineSt) (ls : List Nat) : Bool :=
  ls.any fun v => (smFind (tileAt s tile).lines v).any fun l => l.st == st

/-- R219: the data of a line in B or D is accepted by its home; the line is then W or invalid. -/
def acceptBack (s : State) (tile v : Nat) : State :=
  let t := tileAt s tile
  match smFind t.lines v, mapAt t (v * 128) with
  | some l, some (_, m) =>
    let lost := backLost s tile (stashOff m (v * 128))
    let s := writeBackData s tile (stashOff m (v * 128)) l.home
    if l.flush && !lost then setLine s tile v { l with st := .W, flush := false } else dropLine s tile v
  | _, _ => dropLine s tile v

/-- R222 steps 1 and 2: every line of a list is written back if dirty, and its lease returned. -/
def returnLines (s : State) (tile : Nat) (ls : List Nat) : State :=
  ls.foldl (fun s v =>
    match smFind (tileAt s tile).lines v with
    | some l =>
      if l.st = .D ∨ l.st = .B then acceptBack (setLine s tile v { l with flush := false }) tile v else dropLine s tile v
    | none => s) s

/-- R222 step 3: every pin that meets a range is dropped, whichever context of the tile holds it. -/
def dropPins (s : State) (tile base len : Nat) : State :=
  { s with ctxs := s.ctxs.map fun e =>
      if tileOf e.1 = tile then (e.1, { e.2 with pins := e.2.pins.filter fun p => !rangesMeet p.1 p.2 base len }) else e }

/-- R222: whether a command of the tile has a stash operand in a mapping. -/
def mapBusy (s : State) (tile : Nat) (m : Mapping) : Bool :=
  (tileCmds s tile).any fun c =>
    mapsServe s tile c.asid && (cmdRanges s c).any fun r => rangesMeet r.1 r.2 m.base m.len

/-- R222: sm.unmap. -/
def opSmUnmap (f : RRR) : Op :=
  { srcs := [f.a]
    run := fun v s =>
      let tile := tileOf v.n
      let n := (v.arg 0).toNat
      match (if n < 64 then smFind (tileAt s tile).maps n else none) with
      | none => .fault argFault
      | some m =>
        let ls := if m.mode = 2 then [] else mapLines m
        if maHeld s v [(m.base, m.len)] then .stay id
        else if mapBusy s tile m then .hold .token (.engine 0) id
        else if v.answered.contains .home = false ∧ anyLine s tile .D ls then
          .hold .fault (.home []) fun s => startBack s tile false ls
        else if anyLine s tile .B ls then .hold .fault (.home []) id
        else
          let s := dropPins (returnLines s tile ls) tile m.base m.len
          .ok (modTile s tile fun t => { t with maps := smDel t.maps n }) (heldStop v {}) }

/-! ## Pins and flushes (R220, R221) -/

/-- R220: the first byte of a range that lies in no backed or zero mapping. -/
def pinGap (t : Tile) : Nat → Nat → Nat → Option Nat
  | 0, va, stop => if va < stop then some va else none
  | k + 1, va, stop =>
    if stop ≤ va then none
    else
      match mapAt t va with
      | some (_, m) => if m.mode = 2 then some va else pinGap t k (m.base + m.len) stop
      | none => some va

/-- R220: the checks that sm.pin and sm.unpin share. -/
def pinFault (s : State) (v : View) : Option FaultInfo :=
  let tile := tileOf v.n
  let ea := (v.arg 0).toNat
  let n := (v.arg 1).toNat
  if n = 0 ∨ 2 ^ 22 < n then some argFault
  else if mapsServe s tile v.c.asid.toNat then (pinGap (tileAt s tile) 65 ea (ea + n)).map noMap
  else some (noMap ea)

/-- R220: `sm.pin`. F_NOMAP comes before the F_ARG of a ninth pin (DEDUCED, log entry 94). -/
def opSmPin (f : RRR) : Op :=
  { srcs := [f.a, f.b]
    run := fun v s =>
      let tile := tileOf v.n
      let ea := (v.arg 0).toNat
      let n := (v.arg 1).toNat
      let pnum := partOfCtx s v.n
      match pinFault s v, partAt s pnum with
      | some x, _ => .fault x
      | none, none => .fault (noMap ea)
      | none, some p =>
        if 8 ≤ v.c.pins.length then .fault argFault
        else if maHeld s v [(ea, n)] then .stay id
        else
          let ls := touchedLines (tileAt s tile) ea n
          let pinned (s : State) : Res :=
            .ok (modCtx s v.n fun c => { c with pins := c.pins ++ [(ea, n)] }) (heldStop v {})
          let present := ls.all fun l => lineHeld s (tileAt s tile) l.1 false
          if present then pinned s
          else if !v.answered.contains .home then
            .hold .fault (.home (ls.map (·.1))) fun s => ls.foldl (fun s l => requestLine s tile l.1 (l.2.mode == 1)) s
          else
            let q : Acq := ⟨pnum, tile, v.c.asid.toNat, ea, false, ls.map (·.1), []⟩
            match acquireLines s p q ls with
            | .ok s _ => pinned s
            | .hold _ hs => .hold .fault (.home (ls.map (·.1))) fun s0 =>
                setWants (match acquireLines s0 p q ls with | .hold t _ => t | _ => s0) v.n hs
            | .fault x => .fault x }

/-- R220: `sm.unpin`. F_NOMAP comes before the F_ARG of a range that is not pinned (DEDUCED, log entry 94). -/
def opSmUnpin (f : RRR) : Op :=
  { srcs := [f.a, f.b]
    run := fun v s =>
      match pinFault s v with
      | some x => .fault x
      | none =>
        let pin := ((v.arg 0).toNat, (v.arg 1).toNat)
        if v.c.pins.contains pin then .ok (modCtx s v.n fun c => { c with pins := c.pins.erase pin }) {}
        else .fault argFault }

/-- R221: sm.flush. -/
def opSmFlush (f : RRR) : Op :=
  { srcs := [f.a, f.b]
    run := fun v s =>
      let tile := tileOf v.n
      let ea := (v.arg 0).toNat
      let n := (v.arg 1).toNat
      if 2 ^ 22 < n then .fault argFault
      else
        let ls := if n ≠ 0 ∧ mapsServe s tile v.c.asid.toNat then (touchedLines (tileAt s tile) ea n).map (·.1) else []
        if maHeld s v (ls.map fun l => (l * 128, 128)) then .stay id
        else if v.answered.contains .home = false ∧ anyLine s tile .D ls then
          .hold .fault (.home []) fun s => startBack s tile true ls
        else if anyLine s tile .B ls then .hold .fault (.home []) id
        else .ok s (heldStop v {}) }

/-! ## The events of a line (R218, R219) -/

/-- R220: whether a context of the tile that is not saved pins a line. -/
def isPinned (s : State) (tile v : Nat) : Bool :=
  s.ctxs.any fun e => tileOf e.1 == tile && e.2.phase != .saved && e.2.pins.any fun p => rangesMeet p.1 p.2 (v * 128) 128

/-- R218, R220: a pinned line's renewal, if the home grants it. -/
def renewPinned (s : State) (tile v : Nat) (l : Line) : Option State :=
  if isPinned s tile v && renews s tile v l then some (setLine s tile v { l with expiry := l.expiry + l.lease, got := s.time }) else none

/-- The contexts of a tile that wait for a line look again, the home having answered. -/
def wakeLine (s : State) (tile v : Nat) : State :=
  (s.ctxs.map (·.1)).foldl (fun s n =>
    if tileOf n == tile && (match (ctxOf s n).wait with | .home ls => ls.contains v | _ => false) then
      modCtx s n fun c => wake { c with answered := .home :: c.answered.filter (· != .home) }
    else s) s

/-- LEASE_GRANT: a line in F is granted, filled, and the bundles that touch it look again; a refusal leaves it invalid. -/
def execLeaseGrant (tile v : Nat) (s : State) : Host.Outcome State Fault Refusal :=
  .next <|
    let t := tileAt s tile
    let pnum := (partOfTile s tile).getD 0
    match smFind t.lines v, mapAt t (v * 128), partAt s pnum, t.launch.bind (smFind s.launches) with
    | some l, some (_, m), some p, some la =>
      if l.st = .F then
        match acquireLine s p ⟨pnum, tile, la.lasid, 0, l.wr, [v], if l.whole then [v] else []⟩ v m with
        | .ok s _ => wakeLine s tile v
        | .hold s _ => s
        | .fault _ => wakeLine (dropLine s tile v) tile v
      else s
    | _, _, _, _ => s

/-- LEASE_EXPIRY: a clean line whose T is reached is dropped, unless a pin renews it. -/
def execLeaseExpiry (tile v : Nat) (s : State) : Host.Outcome State Fault Refusal :=
  .next <|
    match smFind (tileAt s tile).lines v with
    | some l =>
      if l.expiry ≤ s.time ∧ (l.st = .S ∨ l.st = .W) then (renewPinned s tile v l).getD (dropLine s tile v) else s
    | none => s

/-- WRITEBACK_START: a dirty line with a quarter of its lease class left goes to B, unless a pin renews it. -/
def execWritebackStart (tile v : Nat) (s : State) : Host.Outcome State Fault Refusal :=
  .next <|
    match smFind (tileAt s tile).lines v with
    | some l =>
      if l.st = .D ∧ l.expiry ≤ s.time + l.lease / 4 then
        (renewPinned s tile v l).getD (setLine s tile v { l with st := .B, flush := false })
      else s
    | none => s

/-- WRITEBACK_ACCEPT: the home accepts the data of a line in B. -/
def execWritebackAccept (tile v : Nat) (s : State) : Host.Outcome State Fault Refusal :=
  .next (if anyLine s tile .B [v] then wakeLine (acceptBack s tile v) tile v else s)

/-! ## The instructions, each issued by the current context alone in its bundle -/
def execSmMap (f : RRR) (s : State) : Host.Outcome State Fault Refusal := issueOne (f.pack 0xAF) (opSmMap f) s
def execSmUnmap (f : RRR) (s : State) : Host.Outcome State Fault Refusal := issueOne (f.pack 0xB0) (opSmUnmap f) s
def execSmPin (f : RRR) (s : State) : Host.Outcome State Fault Refusal := issueOne (f.pack 0xB1) (opSmPin f) s
def execSmUnpin (f : RRR) (s : State) : Host.Outcome State Fault Refusal := issueOne (f.pack 0xB2) (opSmUnpin f) s
def execSmFlush (f : RRR) (s : State) : Host.Outcome State Fault Refusal := issueOne (f.pack 0xCF) (opSmFlush f) s

end Sys2Proof.Machine
end

