-- ==== Sys2Proof/Machine/Kv.lean ====
section
/-! DEFINITION. KV space: the walk of the root table, sequence descriptor, block entry and page header (R334 to R338), the
payload with its planes (R408), and `kv.ldk`, `kv.ldv`, `kv.app` (R243, R244). -/
namespace Sys2Proof.Machine

/-! ## CRC-32C (R336) -/

/-- Eight steps of the reflected Castagnoli polynomial. -/
def crcBits : Nat → Nat → Nat
  | 0, c => c
  | k + 1, c => crcBits k (if c % 2 = 1 then Nat.xor (c / 2) 0x82F63B78 else c / 2)
def crcBytes : Nat → List Byte → Nat
  | c, [] => c
  | c, b :: bs => crcBytes (crcBits 8 (Nat.xor c b.toNat)) bs
/-- CRC-32C of a byte string. -/
def crc32c (bs : List Byte) : Nat := Nat.xor (crcBytes 0xFFFFFFFF bs) 0xFFFFFFFF

/-! ## KV addresses (R21) -/

def kvSeqOf (a : Nat) : Nat := bits a 63 44
def kvLayerOf (a : Nat) : Nat := bits a 43 34
def kvHeadOf (a : Nat) : Nat := bits a 33 24
def kvPosOf (a : Nat) : Nat := bits a 23 0

/-- R325: a fault of the KV walk. -/
def kvFault (code reason lvl kva : Nat) (mon : Option (Nat × Nat × Nat)) : FaultInfo :=
  ⟨code, word kva, walkInfo reason lvl mon.isSome, mon, []⟩
/-- R337: F_ARG with the KVA. -/
def kvArg (kva : Nat) : FaultInfo := ⟨0x18, word kva, 0, none, []⟩

/-! ## The tables (R334, R335) -/

/-- R335: a sequence descriptor. -/
structure KvDesc where
  blk : Nat
  dh : Nat
  nlayer : Nat
  nhead : Nat
  bt : Nat
  maxblk : Nat
  deriving DecidableEq, Repr

/-- An address of this device's HBM4E or LPDDR-6. -/
def inDram (s : State) (a : Nat) : Bool := decide (a < 2 ^ 57) && decide (paDev a = s.dom.devnum.getD 0) && isDram (paLocal a)

/-- R335: a descriptor of eight dwords, none when malformed. -/
def kvDescOf (s : State) (d : List Nat) : Option KvDesc :=
  let d0 := d.getD 0 0
  let d1 := d.getD 1 0
  let d2 := d.getD 2 0
  let bad := decide (5 < bits d0 2 0) || bit d0 3 || bits d0 7 6 != 0 || bits d0 63 28 != 0 || bits d1 63 57 != 0 ||
    bits d1 5 0 != 0 || bits d2 63 20 != 0 || (d.drop 3).any (· != 0) || !inDram s d1
  if bad then none
  else some ⟨16 * 2 ^ bits d0 2 0, 64 * (bits d0 5 4 + 1), bits d0 17 8 + 1, bits d0 27 18 + 1, d1, bits d2 19 0 + 1⟩

/-- R335: the address of a block entry. -/
def KvDesc.entryAddr (d : KvDesc) (layer head pos : Nat) : Nat :=
  d.bt + 16 * ((layer * d.nhead + head) * d.maxblk + pos / d.blk)

/-- R335, R408: a block entry that is present but malformed. -/
def entryBad (s : State) (e0 e1 : Nat) : Bool :=
  bits e0 63 57 != 0 || bits e0 5 2 != 0 || bits e1 63 57 != 0 || bits e1 5 0 != 0 ||
  !inDram s (bits e0 56 6 * 64) || !inDram s e1 ||
  channelOf (paLocal (bits e0 56 6 * 64)) == channelOf (paLocal e1)

/-- R336: a page header that is valid for a position. -/
def headerOk (d : KvDesc) (layer head blkno : Nat) (h : List Byte) : Bool :=
  let dw (i : Nat) : Nat := leNat ((h.drop (8 * i)).take 8)
  let sc (i : Nat) : Nat := leNat ((h.drop (4 * i)).take 4)
  let m := dw 4
  let check := bits (dw 7) 31 0
  let groups := d.dh / 64
  check == crc32c (h.take 56) && bits (dw 7) 63 32 == 2 ^ 32 - 1 - check &&
  bit m 3 == false && bits m 7 6 == 0 && bits m 9 8 == 0 && bits m 63 50 == 0 && dw 5 == 0 && dw 6 == 0 &&
  16 * 2 ^ bits m 2 0 == d.blk && 64 * (bits m 5 4 + 1) == d.dh &&
  bits m 19 10 == layer && bits m 29 20 == head && bits m 49 30 == blkno &&
  (List.range 8).all fun i =>
    if i % 4 < groups then !bit (sc i) 31 && bits (sc i) 30 23 != 0 && bits (sc i) 30 23 != 255 else sc i == 0

/-- The page that a walk returns: its address, entry number and head dimension, the K and V scales. -/
structure KvPage where
  pga : Nat
  blk : Nat
  dh : Nat
  ks : List Nat
  vs : List Nat
  deriving DecidableEq, Repr

/-- R336: the scales of a header. -/
def pageOf (d : KvDesc) (pga : Nat) (h : List Byte) : KvPage :=
  let sc (i : Nat) : Nat := leNat ((h.drop (4 * i)).take 4)
  ⟨pga, d.blk, d.dh, (List.range 4).map sc, (List.range 4).map fun i => sc (4 + i)⟩

/-- R337, R405: n bytes of a KV structure; memory of another partition refuses them (R345). -/
def kvRead (s : State) (p : Part) (pnum kva a n : Nat) : Except FaultInfo (List Byte) :=
  match targetFault s p pnum a true false with
  | some (c, i) => .error ⟨c, word kva, word i, none, []⟩
  | none =>
    match (List.range ((n + 7) / 8)).findSome? fun i => wordError s (a + 8 * i) with
    | some i => .error ⟨0x30, word kva, word i, none, []⟩
    | none => .ok (memBytes s a n)
def kvDwords (s : State) (p : Part) (pnum kva a n : Nat) : Except FaultInfo (List Nat) :=
  match kvRead s p pnum kva a (8 * n) with
  | .ok bs => .ok ((chunks 8 n bs).map leNat)
  | .error f => .error f

/-- What a KV read wants: the head dimension it expects, how many positions, whether it appends. -/
structure KvWant where
  dh : Nat
  npos : Nat
  app : Bool
  deriving DecidableEq, Repr

/-- R326, R338: the descriptors held for a sequence, in every form that they have had since a `kvinv`. -/
def cachedRoots (s : State) (sl seq : Nat) : List (List Nat) :=
  (sliceAt s sl).kcache.filterMap fun e =>
    match e with
    | .root q d _ => if q = seq then some d else none
    | _ => none
/-- R338: the latest of them. -/
def cachedRoot (s : State) (sl seq : Nat) : Option (List Nat) := (cachedRoots s sl seq).head?
/-- R326, R338: the block entries held for a block, each with its header. -/
def cachedBlocks (s : State) (sl seq layer head blk : Nat) : List (List Nat × List Byte) :=
  (sliceAt s sl).kcache.filterMap fun e =>
    match e with
    | .block q l h b x hd _ => if q = seq ∧ l = layer ∧ h = head ∧ b = blk then some (x, hd) else none
    | _ => none

/-- R338: the walker keeps 256 roots and 4,096 blocks. -/
def keepCache (l : List KEntry) : List KEntry :=
  ((l.filter fun e => match e with | .root .. => true | _ => false).take 256) ++
  ((l.filter fun e => match e with | .root .. => false | _ => true).take 4096)
def addCache (s : State) (sl : Nat) (e : KEntry) : State :=
  modSlice s sl fun x => { x with kcache := keepCache (e :: x.kcache.filter (· != e)) }

/-- R337: the first steps of the walk: the home lines of the root entry and of the sequence descriptor, and the descriptor. -/
def kvRoot (s : State) (p : Part) (pnum kva sl : Nat) : Except FaultInfo (List Nat × List Nat) :=
  let seq := kvSeqOf kva
  let ra := p.kvrt + 8 * seq
  if p.kvrt = 0 then .error (kvFault 0x28 8 0 kva none)
  else
    match kvDwords s p pnum kva ra 1 with
    | .error f => .error f
    | .ok r =>
      let r := r.getD 0 0
      if !bit r 0 then .error (kvFault 0x28 8 0 kva (monitorFor s sl ra 1))
      else if bits r 63 57 ≠ 0 ∨ bits r 5 1 ≠ 0 ∨ !ownsPa s p (bits r 56 6 * 64) then .error (kvFault 0x29 13 0 kva none)
      else
        match kvDwords s p pnum kva (bits r 56 6 * 64) 8 with
        | .error f => .error f
        | .ok d => .ok ([ra / 128, bits r 56 6 * 64 / 128], d)

/-- R408: whether a 64-byte header block has an uncorrectable word. -/
def headerLost (s : State) (a : Nat) : Bool := (List.range 8).any fun i => (wordError s (a + 8 * i)).isSome

/-- R337, R408: the header used and its home line, with the state after counting a rejected copy. -/
def kvHeader (s : State) (p : Part) (pnum kva : Nat) (d : KvDesc) (layer head blkno pga hda : Nat) :
    Except FaultInfo (State × List Byte × Nat) :=
  match targetFault s p pnum pga true false with
  | some (c, i) => .error ⟨c, word kva, word i, none, []⟩
  | none =>
    let h := memBytes s pga 64
    if !headerLost s pga && headerOk d layer head blkno h then .ok (s, h, pga / 128)
    else
      match targetFault s p pnum hda true false with
      | some (c, i) => .error ⟨c, word kva, word i, none, []⟩
      | none =>
        let h2 := memBytes s hda 64
        if !headerLost s hda && headerOk d layer head blkno h2 then
          .ok (if headerLost s pga then modPart s pnum fun p => { p with kvhcnt := Nat.min (p.kvhcnt + 1) (2 ^ 32 - 1) } else s, h2, hda / 128)
        else .error (kvFault 0x29 12 3 kva none)

/-- R337: the last steps: the block entry and the header. -/
def kvBlock (s : State) (p : Part) (pnum kva sl : Nat) (w : KvWant) (d : KvDesc) : Except FaultInfo (State × KvPage) :=
  let layer := kvLayerOf kva
  let head := kvHeadOf kva
  let blkno := kvPosOf kva / d.blk
  let ea := d.entryAddr layer head (kvPosOf kva)
  match kvDwords s p pnum kva ea 2 with
  | .error f => .error f
  | .ok e =>
    let e0 := e.getD 0 0
    let e1 := e.getD 1 0
    if !bit e0 0 then .error (kvFault 0x28 10 2 kva (monitorFor s sl ea (if w.app then 3 else 2)))
    else if w.app && bit e0 1 then .error (kvFault 0x28 11 2 kva (monitorFor s sl ea 3))
    else if entryBad s e0 e1 then .error (kvFault 0x29 13 2 kva none)
    else
      match kvHeader s p pnum kva d layer head blkno (bits e0 56 6 * 64) (bits e1 56 6 * 64) with
      | .error f => .error f
      | .ok (s, h, hl) =>
        .ok (addCache (correctLines s [ea / 128, bits e0 56 6 * 64 / 128, hl]) sl (.block (kvSeqOf kva) layer head blkno [e0, e1] h [ea / 128, hl]), pageOf d (bits e0 56 6 * 64) h)

/-- R337: the descriptor that a walk uses, with the state after it has been read: a form that is held, or that of memory. -/
def kvRootUsed (s : State) (p : Part) (pnum kva sl : Nat) : Except FaultInfo (State × List Nat) :=
  match pickHeld s.freeCount (cachedRoots s sl (kvSeqOf kva)) with
  | some d => .ok (s, d)
  | none =>
    match kvRoot s p pnum kva sl with
    | .error f => .error f
    | .ok (ls, d) => .ok (if (kvDescOf s d).isSome then addCache (correctLines s ls) sl (.root (kvSeqOf kva) d ls) else correctLines s ls, d)

/-- R405: what a walk that faults reads, in the order of R337: root entry, descriptor, block entry, the header's copies. -/
def kvReads (s : State) (p : Part) (pnum kva : Nat) : List Loc :=
  let sl := kvSlice p (kvSeqOf kva) (kvLayerOf kva) (kvHeadOf kva)
  if s.cerrs = [] ∨ p.kvrt = 0 then []
  else
    let ra := p.kvrt + 8 * kvSeqOf kva
    let root := if (pickHeld s.freeCount (cachedRoots s sl (kvSeqOf kva))).isSome then [] else [Loc.mem ra]
    match kvRootUsed s p pnum kva sl with
    | .error _ => root ++ (if bit (memDword s ra) 0 then [.mem (bits (memDword s ra) 56 6 * 64)] else [])
    | .ok (_, d) =>
      let root := if root = [] then [] else root ++ [.mem (bits (memDword s ra) 56 6 * 64)]
      match kvDescOf s d with
      | none => root
      | some d =>
        if d.nlayer ≤ kvLayerOf kva ∨ d.nhead ≤ kvHeadOf kva ∨ d.maxblk ≤ kvPosOf kva / d.blk then root
        else
          let ea := d.entryAddr (kvLayerOf kva) (kvHeadOf kva) (kvPosOf kva)
          let e0 := memDword s ea
          root ++ [.mem ea] ++ if bit e0 0 && !entryBad s e0 (memDword s (ea + 8)) then [.mem (bits e0 56 6 * 64), .mem (memDword s (ea + 8))] else []

/-- R337: the walk of a KVA. R338: an entry that has changed is used in its old form or its new one until a kvinv. -/
def kvWalk (s : State) (p : Part) (pnum kva : Nat) (w : KvWant) : Except FaultInfo (State × KvPage) :=
  let seq := kvSeqOf kva
  let layer := kvLayerOf kva
  let head := kvHeadOf kva
  let pos := kvPosOf kva
  let sl := kvSlice p seq layer head
  match kvRootUsed s p pnum kva sl with
  | .error f => .error f
  | .ok (s, words) =>
    match kvDescOf s words with
    | none => .error (kvFault 0x29 13 1 kva none)
    | some d =>
      if d.nlayer ≤ layer ∨ d.nhead ≤ head ∨ w.dh ≠ d.dh ∨ d.blk < pos % d.blk + w.npos then .error (kvArg kva)
      else if d.maxblk ≤ pos / d.blk then .error (kvFault 0x28 9 2 kva none)
      else
        match pickHeld (s.freeCount + 1) (cachedBlocks s sl seq layer head (pos / d.blk)) with
        | some (e, h) =>
          if w.app && bit (e.getD 0 0) 1 then kvBlock s p pnum kva sl w d
          else .ok (s, pageOf d (bits (e.getD 0 0) 56 6 * 64) h)
        | none => kvBlock s p pnum kva sl w d

/-! ## The payload (R336, R408) -/

/-- R336: the address of the K or V bytes of an entry. -/
def KvPage.addr (g : KvPage) (v : Bool) (pos : Nat) : Nat :=
  g.pga + 64 + (if v then g.blk * g.dh else 0) + pos % g.blk * g.dh

/-- R408: the bytes of words of a payload, the low planes that are lost read as 0; how many of them; or F_MEMERR. -/
def planeWords (s : State) (lfault : Bool) (kva : Nat) : List Nat → List Byte × Nat → Except FaultInfo (List Byte × Nat)
  | [], acc => .ok acc
  | a :: as, (bs, n) =>
    let ws := memBytes s a 8
    match smFind s.errs (a / 8) with
    | none => planeWords s lfault kva as (bs ++ ws, n)
    | some m =>
      if tagOf s a = 2 ∧ !m.high ∧ !lfault then
        planeWords s lfault kva as (bs ++ ws.map fun b => b &&& 0xFC, n + 1)
      else .error ⟨0x30, word kva, word (memErrInfo m (paLocal a) (tagOf s a)), none, []⟩

/-- The lines of a payload. -/
def payloadLines (a n : Nat) : List Nat := (List.range ((a + n - 1) / 128 - a / 128 + 1)).map fun i => a / 128 + i

/-- R408, R409: n payload bytes at an address, read by a context under its KVERRPOL. -/
def kvBytes (s : State) (p : Part) (pnum n kva a len : Nat) : Except FaultInfo (State × List Byte) :=
  let c := ctxOf s n
  match (List.range ((len + 127) / 128 + 1)).findSome? fun i => targetFault s p pnum (Nat.min (a + 128 * i) (a + len - 1)) true false with
  | some (code, i) => .error ⟨code, word kva, word i, none, []⟩
  | none =>
    match planeWords s (bit c.kverrpol.toNat 32) kva ((List.range (len / 8)).map fun i => a + 8 * i) ([], 0) with
    | .error f => .error (f.after ((((List.range (len / 8)).map fun i => a + 8 * i).takeWhile fun x => (smFind s.errs (x / 8)).isNone).map .mem))
    | .ok (bs, k) =>
      let s := correctLines s (payloadLines a len)
      .ok (if k = 0 then s else modCtx s n fun c =>
        { c with kverrpol := (c.kverrpol &&& ~~~0xFFFFFFFF) ||| word (Nat.min (bits c.kverrpol.toNat 31 0 + k) 0xFFFFFFFF) }, bs)

/-- R77: the stored values of a row: payload × scale of the group. -/
def kvVals (scales : List Nat) (bs : List Byte) : List FV :=
  bs.zipIdx.map fun e => (mulF (decodeF f8e4 e.1.toNat) (decodeF f32 (scales.getD (e.2 / 64) 0))).1

/-- R194: the lines of a payload for which another agent's lease delays an access. -/
def kvBusy (s : State) (a n : Nat) (wr : Bool) : List Nat := (payloadLines a n).filter fun l => homeConflict s l wr
/-- R345, R412: the first line of a payload whose target refuses a write. -/
def payloadFault (s : State) (p : Part) (pnum a n : Nat) : Option (Nat × Nat) :=
  (payloadLines a n).findSome? fun l => targetFault s p pnum (Nat.max a (128 * l)) false true

/-! ## The instructions (R243, R244) -/

/-- The stash rows of a bundle's access, one after the other: their places, or the wait for their lines. -/
def withStashRows (v : View) (s : State) (need : Need) (n : Nat) : List Nat → List Loc → (State → List Loc → Res) → Res
  | [], acc, k => k s acc
  | ea :: eas, acc, k => withPlaces false false v s need false ea n fun s locs => withStashRows v s need n eas (acc ++ locs) k

/-- R243: the first byte of rows outside every mapping. -/
def rowsUnmapped (s : State) (v : View) (n : Nat) (rows : List Nat) : Option FaultInfo :=
  (rows.findSome? fun ea => unmapped s (tileOf v.n) v.c.asid.toNat ea n).map noMap

/-- R243: the head dimension of a descriptor. -/
def kvDh (c : Nat) : Nat := 64 * (bits c 13 12 + 1)
/-- R243: a descriptor's issue check; F_ARG also for a destination that is not aligned (DEDUCED, log entry 93). -/
def kvLdBad (ty a c : Nat) : Bool :=
  bits c 63 48 != 0 || bits c 31 14 != 0 || bits c 11 10 != 0 || a % 64 != 0 ||
  decide (bits c 47 32 * 64 < kvDh c * (elemBits ty / 8))

/-- The rows of an append or a load once the walker has answered. -/
def withKv (v : View) (s : State) (kva : Nat) (w : KvWant) (k : State → Part → KvPage → Res) : Res :=
  if !v.answered.contains .kv then .hold .fault .kv id
  else
    let pnum := partOfCtx s v.n
    match partAt s pnum with
    | none => .fault (kvFault 0x28 8 0 kva none)
    | some p =>
      match kvWalk s p pnum kva w with
      | .error f => .fault (f.after (kvReads s p pnum kva))
      | .ok (t, g) =>
        match k { t with freeCount := t.freeCount + 2 } p g with
        | .fault f => .fault (f.after (kvReads s p pnum kva))
        | r => r

/-- The payload rows of consecutive positions. -/
def kvRows (s : State) (p : Part) (pnum n : Nat) (g : KvPage) (vside : Bool) : List Nat → List (List FV) →
    Except FaultInfo (State × List (List FV))
  | [], acc => .ok (s, acc.reverse)
  | kva :: ks, acc =>
    match kvBytes s p pnum n kva (g.addr vside (kvPosOf kva)) g.dh with
    | .error f => .error (f.after ((List.range (acc.length * (g.dh / 8))).map fun i => .mem (g.addr vside (kvPosOf kva - acc.length) + 8 * i)))
    | .ok (s, bs) => kvRows s p pnum n g vside ks (kvVals (if vside then g.vs else g.ks) bs :: acc)

/-- R243: kv.ldk and kv.ldv. -/
def kvLdOp (vside : Bool) (f : RRR) : Op :=
  { srcs := [f.a, f.b, f.c]
    run := fun v s =>
      let a := (v.arg 0).toNat
      let kva := (v.arg 1).toNat
      let c := (v.arg 2).toNat
      let ty := f.ty.toNat
      let dh := kvDh c
      let npos := bits c 9 0 + 1
      let n := dh * (elemBits ty / 8)
      let rows := (List.range npos).map fun p => byteVa a (p * bits c 47 32 * 64)
      if kvLdBad ty a c then .fault argFault
      else
        match rowsUnmapped s v n rows with
        | some x => .fault x
        | none =>
          withKv v s kva ⟨dh, npos, false⟩ fun s p g =>
            if kvBusy s (g.addr vside (kvPosOf kva)) (npos * dh) false ≠ [] then
              .hold .fault .kv fun t => setWants t v.n (kvBusy s (g.addr vside (kvPosOf kva)) (npos * dh) false)
            else
              match kvRows s p (partOfCtx s v.n) v.n g vside ((List.range npos).map (kva + ·)) [] with
              | .error x => .fault x
              | .ok (s, vals) =>
                withStashRows v s .store n rows [] fun s locs =>
                  let bs := vals.flatMap fun r => bytesOf ty (r.map fun x =>
                    match fmtOf ty with | some fm => rne fm x | none => 0) []
                  .ok (storeLocs s locs bs) (heldStop v { wrote := wroteAt v s locs }) }
def opKvLdk (f : RRR) : Op := kvLdOp false f
def opKvLdv (f : RRR) : Op := kvLdOp true f

/-- R77: a value divided exactly by a scale and rounded to the payload format. -/
def kvEncode (scale : Nat) (x : FV) : Byte :=
  let q : FV := match x, decodeF f32 scale with
    | .fin sg n d, .fin _ n2 d2 => .fin sg (n * d2) (d * n2)
    | x, _ => x
  BitVec.ofNat 8 (rne f8e4 q)

/-- R244: kv.app. A source that is not aligned raises F_ARG (DEDUCED, log entry 93). -/
def opKvApp (f : RRR) : Op :=
  { srcs := [f.a, f.b, f.c]
    run := fun v s =>
      let a := (v.arg 0).toNat
      let kva := (v.arg 1).toNat
      let c := (v.arg 2).toNat
      let ty := f.ty.toNat
      let dh := kvDh c
      let n := dh * (elemBits ty / 8)
      if c ≠ bits c 13 12 * 2 ^ 12 ∨ a % 64 ≠ 0 then .fault argFault
      else
        match rowsUnmapped s v (2 * n) [a] with
        | some x => .fault x
        | none =>
          withKv v s kva ⟨dh, 1, true⟩ fun s p g =>
            let ka := g.addr false (kvPosOf kva)
            let va := g.addr true (kvPosOf kva)
            let pnum := partOfCtx s v.n
            let locs (x : Nat) : List Loc := (List.range dh).map fun i => .mem (x + i)
            match (payloadFault s p pnum ka dh).orElse fun _ => payloadFault s p pnum va dh with
            | some (code, i) => .fault ⟨code, word kva, word i, none, []⟩
            | none =>
              if kvBusy s ka dh true ++ kvBusy s va dh true ≠ [] then
                .hold .fault .kv fun t => setWants t v.n (kvBusy s ka dh true ++ kvBusy s va dh true)
              else
                withStashRows v s .load (2 * n) [a] [] fun s src =>
                  let vals := (elemsOf ty (readMate v s a src)).map (elemVal ty)
                  let s := tookMate v s (2 * n)
                  let enc (sc : List Nat) (xs : List FV) : List Byte :=
                    xs.zipIdx.map fun e => kvEncode (sc.getD (e.2 / 64) 0) e.1
                  let s := storeLocs s (locs ka) (enc g.ks (vals.take dh))
                  .ok (storeLocs s (locs va) (enc g.vs (vals.drop dh))) (heldStop v {}) }

/-! ## The instructions, each issued by the current context alone in its bundle -/
def execKvLdk (f : RRR) (s : State) : Host.Outcome State Fault Refusal := issueOne (f.pack 0xCA) (opKvLdk f) s
def execKvLdv (f : RRR) (s : State) : Host.Outcome State Fault Refusal := issueOne (f.pack 0xCB) (opKvLdv f) s
def execKvApp (f : RRR) (s : State) : Host.Outcome State Fault Refusal := issueOne (f.pack 0xCC) (opKvApp f) s

end Sys2Proof.Machine
end

