-- ==== Sys2Proof/Machine/Stage.lean ====
section
/-! DEFINITION. Stage arrays (R160, R161) and attention (R162 to R166). -/
namespace Sys2Proof.Machine

/-! ## Stage operations (R161) -/

/-- R161: the stage accumulator of a specifier. -/
def saIndex (d : BitVec 9) : Nat := d.toNat - 148
/-- The addresses of the 16 rows. -/
def saRows (base stride : Word) : List Nat := (List.range 16).map fun r => (base.toNat + r * stride.toNat) % 2 ^ 64
/-- R161: the checks of sa.ld and sa.st. -/
def saFault (s : State) (v : View) (n : Nat) (base stride : Word) : Option FaultInfo :=
  if base.toNat % 64 ≠ 0 ∨ stride.toNat % 64 ≠ 0 then some argFault else rowsUnmapped s v n (saRows base stride)

def opSaLd (f : RRR) : Op :=
  { srcs := [f.a, f.b]
    run := fun v s =>
      match saFault s v 64 (v.arg 0) (v.arg 1) with
      | some x => .fault x
      | none =>
        withStashRows v s .load 64 (saRows (v.arg 0) (v.arg 1)) [] fun s locs =>
          let side := bit f.md.toNat 0
          let ws := (chunks 4 256 (readLocs s locs)).map fun b => BitVec.ofNat 32 (leNat b)
          .ok s { heldStop v {} with
                    writes := .bufTy side f.ty.toNat :: ws.zipIdx.map fun e => .buf side e.2 e.1
                    bound := 4, ew := elemBits f.ty.toNat } }

/-- R161: the 16 rows of a buffer as values. -/
def bufVals (b : StageBuf) : List (List FV) :=
  (chunks 64 16 (smGetList 0 b.bytes 0 1024)).map fun r => (elemsOf b.ty r).map (elemVal b.ty)
/-- R93: a stage product with groups of g. -/
def saMmOp (f : RRR) (g : Nat) (tyOk : Nat → Bool) : Op :=
  { claim := true
    run := fun v s =>
      if !tyOk v.c.saA.ty ∨ !tyOk v.c.saB.ty then .fault argFault
      else
        let a := bufVals v.c.saA
        let b := bufVals v.c.saB
        let k := saIndex f.d
        let q := bits f.md.toNat 2 1
        let z := bit f.md.toNat 0
        .ok s { writes := a.zipIdx.flatMap fun r => b.zipIdx.map fun n =>
                  let w := r.2 * 64 + 16 * q + n.2
                  .sa k w (BitVec.ofNat 32 (dotGroups g (if z then 0 else (getSa v.c k w).toNat) r.1 n.1))
                bound := 8 } }
def opSaMmBf16 (f : RRR) : Op := saMmOp f 16 fun t => t == 0x12
def opSaMmF8 (f : RRR) : Op := saMmOp f 32 fun t => t == 0x13 || t == 0x14

def opSaSt (f : RRR) : Op :=
  { srcs := [f.a, f.b], claim := true
    run := fun v s =>
      let ty := f.ty.toNat
      let n := elemBytes ty 64
      match saFault s v n (v.arg 0) (v.arg 1) with
      | some x => .fault x
      | none =>
        withStashRows v s .store n (saRows (v.arg 0) (v.arg 1)) [] fun s locs =>
          let bs := (List.range 16).flatMap fun r =>
            bytesOf ty ((List.range 64).map fun j =>
              match fmtOf ty with
              | some fm => rne fm (decodeF f32 (getSa v.c (saIndex f.c) (r * 64 + j)).toNat)
              | none => 0) []
          .ok (storeLocs s locs bs) (heldStop v {}) }

/-- +0 to every word of a stage accumulator. -/
def saZeros (k : Nat) : List RegWrite := (List.range 1024).map fun w => .sa k w 0
def opSaZero (f : RRR) : Op :=
  { claim := true
    run := fun _ s =>
      .ok s { writes := if bit f.md.toNat 0 then (List.range 4).flatMap saZeros else saZeros (saIndex f.d), bound := 2 } }

/-- R161: lanes and words of a stage accumulator. -/
def opSaMv (f : RRR) : Op :=
  let toSa := bit f.md.toNat 0
  let part := bits f.md.toNat 6 1
  { dests := if toSa then [] else dstV f.d, claim := true
    run := fun v s =>
      let n := v.c.lanes
      let at_ (l : Nat) : Nat := part * n + l
      if toSa then
        let x := readV v.c f.a
        .ok s { writes := ((List.range n).filter fun l => at_ l < 1024).map fun l =>
                  .sa (saIndex f.d) (at_ l) (BitVec.ofNat 32 (x.elem 32 l))
                bound := 3 }
      else
        .ok s (landV v.c f.d ((List.range n).map fun l =>
          if at_ l < 1024 then getSa v.c (saIndex f.a) (at_ l) else 0) 3) }

/-! ## The attention descriptor (R162) -/

/-- R162: the fields of the descriptor's dwords. -/
structure AttnDesc where
  kvb : Nat
  scale : Nat
  dh : Nat
  nq : Nat
  npos : Nat
  q : Nat
  sc : Nat
  p : Nat
  al : Nat
  lf : Nat
  deriving DecidableEq, Repr

def attnOf (d : List Word) : AttnDesc :=
  let w (i : Nat) : Nat := (d.getD i 0).toNat
  ⟨w 0, bits (w 1) 63 32, 64 * (bits (w 1) 29 28 + 1), bits (w 1) 27 24 + 1, bits (w 1) 23 0, w 2, w 3, w 4, w 5, bits (w 6) 31 0⟩

/-- R162: what raises F_ARG. -/
def attnBad (d : List Word) : Bool :=
  let w (i : Nat) : Nat := (d.getD i 0).toNat
  let x := attnOf d
  bits (w 1) 31 30 != 0 || bits (w 6) 63 32 != 0 || w 7 != 0 || x.npos == 0 || decide (2 ^ 24 < kvPosOf x.kvb + x.npos) ||
  decide (3072 < x.nq * x.dh) || x.q % 64 != 0 || x.sc % 64 != 0 || x.p % 64 != 0 || x.al % 64 != 0

/-- R162: the extents of the four buffers. -/
def AttnDesc.extents (x : AttnDesc) : List (Nat × Nat) :=
  [(x.q, x.nq * x.dh * 2), (x.sc, x.npos * 64), (x.p, x.npos * 32), (x.al, x.npos * 64)]

/-- R162: what attn.init leaves in the stage accumulators. -/
def attnStart (x : AttnDesc) (smx pv : Bool) : List RegWrite :=
  (if smx then (List.range x.nq).flatMap fun r => [.sa 0 (64 * r) 0xFF800000, .sa 0 (64 * r + 1) 0] else []) ++
  (if pv then (List.range (x.nq * x.dh)).map fun w => .sa (1 + w / 1024) (w % 1024) 0 else [])

def opAttnInit (f : RRR) : Op :=
  let smx := bit f.md.toNat 0
  let pv := bit f.md.toNat 1
  { srcs := [f.a], claim := smx || pv
    run := fun v s =>
      match rowsUnmapped s v 64 [(v.arg 0).toNat] with
      | some x => .fault x
      | none =>
        withStashRows v s .load 64 [(v.arg 0).toNat] [] fun s locs =>
          let d := (chunks 8 8 (readLocs s locs)).map fun b => word (leNat b)
          let x := attnOf d
          if attnBad d then .fault argFault
          else
            match x.extents.findSome? fun e => unmapped s (tileOf v.n) v.c.asid.toNat e.1 e.2 with
            | some a => .fault (noMap a)
            | none => .ok s { heldStop v {} with writes := .attn d :: attnStart x smx pv, bound := 4 } }

/-! ## Steps (R163, R164) -/

/-- R166: the fields of KVPROG. -/
def Ctx.kvAct (c : Ctx) : Bool := bit c.kvprog.toNat 32
def Ctx.kvOp (c : Ctx) : Nat := bits c.kvprog.toNat 31 24
def Ctx.kvPosn (c : Ctx) : Nat := bits c.kvprog.toNat 23 0
/-- R166: KVPROG with its fields given. -/
def kvprogOf (act : Bool) (op pos : Nat) : Word := word ((if act then 2 ^ 32 else 0) + op * 2 ^ 24 + pos % 2 ^ 24)

/-- R164: the end of the step that starts at u. -/
def stepEnd (x : AttnDesc) (u stop : Nat) : Nat :=
  Nat.min stop ((kvPosOf x.kvb + u) / 16 * 16 + 16 - kvPosOf x.kvb)

/-- FP32 codes and values: an exact value rounded, a sum, a product. -/
def r32 (x : FV) : Nat := rne f32 x
def v32 (x : Nat) : FV := decodeF f32 x
def add32 (x y : Nat) : Nat := r32 (addF .rne (v32 x) (v32 y)).1
def sub32 (x y : Nat) : Nat := r32 (addF .rne (v32 x) (v32 y).flip).1
def mul32 (x y : Nat) : Nat := r32 (mulF (v32 x) (v32 y)).1
/-- R97: vexp2 of an FP32 code. -/
def exp32 (x : Nat) : Nat := (vexp2F false (v32 x)).code
/-- R96: the exact larger of two FP32 values. -/
def max32 (x y : Nat) : Nat := codeOf f32 (maxF (v32 x) (v32 y))

/-- What a step comes to. -/
inductive StepRes
  | done (s : State)
  /-- it waits for lines, or for the leases of the home lines named -/
  | wait (s : State) (homes : List Nat)
  | fault (f : FaultInfo)

/-- Stash bytes of a step, read. -/
def stepRead (s : State) (e : Eng) (ea n : Nat) (k : State → List Byte → StepRes) : StepRes :=
  match engPlaces s e false ea n with
  | .ok s locs => k s (readLocs s locs)
  | .hold s hs => .wait s hs
  | .fault f => .fault f
/-- The places of several items to be written, every one found before any is written (R165). -/
def stepPlaces (s : State) (e : Eng) : List (Nat × List Byte) → List (List Loc × List Byte) → (State → List (List Loc × List Byte) → StepRes) → StepRes
  | [], acc, k => k s acc.reverse
  | (ea, bs) :: ws, acc, k =>
    match engPlaces s e true ea bs.length with
    | .ok s locs => stepPlaces s e ws ((locs, bs) :: acc) k
    | .hold s hs => .wait s hs
    | .fault f => .fault f
/-- Stash bytes of a step, written at the places of several items. -/
def stepWrite (s : State) (e : Eng) (ws : List (Nat × List Byte)) (k : State → StepRes) : StepRes :=
  stepPlaces s e ws [] fun s ps => k (ps.foldl (fun s p => storeLocs s p.1 p.2) s)

/-- R163: the stored K or V rows of the positions of a step. -/
def stepKv (s : State) (n : Nat) (x : AttnDesc) (vside : Bool) (u w : Nat) (k : State → List (List FV) → StepRes) : StepRes :=
  let pnum := partOfCtx s n
  match partAt s pnum with
  | none => .fault (kvFault 0x28 8 0 (x.kvb + u) none)
  | some p =>
    match kvWalk s p pnum (x.kvb + u) ⟨x.dh, w - u, false⟩ with
    | .error f => .fault (f.after (kvReads s p pnum (x.kvb + u)))
    | .ok (t, g) =>
      let seen (f : FaultInfo) : FaultInfo := f.after (kvReads s p pnum (x.kvb + u))
      let s := t
      match kvBusy s (g.addr vside (kvPosOf (x.kvb + u))) ((w - u) * x.dh) false with
      | l :: ls => .wait s (l :: ls)
      | [] =>
        match kvRows s p pnum n g vside ((List.range (w - u)).map fun t => x.kvb + u + t) [] with
        | .error f => .fault (seen { f with addr := word (x.kvb + u) })
        | .ok (s, rows) =>
          match k s rows with
          | .fault f => .fault (seen f)
          | r => r

/-- R164: one step of attn.qk. -/
def qkStep (s : State) (e : Eng) (x : AttnDesc) (u w : Nat) : StepRes :=
  stepKv s e.ctx x false u w fun s keys =>
    stepRead s e x.q (x.nq * x.dh * 2) fun s bs =>
      let qs := chunks x.dh x.nq ((elemsOf 0x12 bs).map (elemVal 0x12))
      let score (q key : List FV) : Nat :=
        let gs := (chunks 32 (x.dh / 32) (q.zip key)).map fun g => r32 (exactSum (g.map fun p => (mulF p.1 p.2).1))
        mul32 (gs.tail.foldl add32 (gs.headD 0)) x.scale
      stepWrite s e (keys.zipIdx.map fun k =>
        (x.sc + (u + k.2) * 64, qs.flatMap fun q => leBytes 4 (score q k.1))) .done

/-- R164: one row of a step of attn.smx: the weights, α, the new maximum and the new sum. -/
def smxRow (lf mx l : Nat) (ss : List Nat) : List Nat × Nat × Nat × Nat :=
  let mx' := ss.foldl max32 mx
  let ninf := mx' == 0xFF800000
  let al := if ninf then 0x3F800000 else exp32 (mul32 (sub32 mx mx') lf)
  let ps := ss.map fun x => if ninf then 0 else rne bf16 (v32 (exp32 (mul32 (sub32 x mx') lf)))
  let l' := add32 (mul32 al l) (r32 (exactSum (ps.map (decodeF bf16))))
  (ps, al, mx', l')

/-- R164: one step of attn.smx. -/
def smxStep (s : State) (e : Eng) (x : AttnDesc) (u w : Nat) : StepRes :=
  stepRead s e (x.sc + u * 64) ((w - u) * 64) fun s bs =>
    let sc := chunks 16 (w - u) (elemsOf 0x10 bs)
    let c := ctxOf s e.ctx
    let rows := (List.range x.nq).map fun r =>
      smxRow x.lf (getSa c 0 (64 * r)).toNat (getSa c 0 (64 * r + 1)).toNat (sc.map fun t => t.getD r 0)
    let ps := (List.range (w - u)).map fun t => (x.p + (u + t) * 32, rows.flatMap fun r => leBytes 2 (r.1.getD t 0))
    stepWrite s e (ps ++ [(x.al + u * 64, rows.flatMap fun r => leBytes 4 r.2.1)]) fun s =>
      .done (modCtx s e.ctx fun c => rows.zipIdx.foldl (fun c r =>
        putSa (putSa c 0 (64 * r.2) (BitVec.ofNat 32 r.1.2.2.1)) 0 (64 * r.2 + 1) (BitVec.ofNat 32 r.1.2.2.2)) c)

/-- R164: one step of attn.pv. -/
def pvStep (s : State) (e : Eng) (x : AttnDesc) (u w : Nat) : StepRes :=
  stepKv s e.ctx x true u w fun s vals =>
    stepRead s e (x.p + u * 32) ((w - u) * 32) fun s pb =>
      stepRead s e (x.al + u * 64) (4 * x.nq) fun s ab =>
        let ps := chunks 16 (w - u) ((elemsOf 0x12 pb).map (elemVal 0x12))
        let als := elemsOf 0x10 ab
        .done (modCtx s e.ctx fun c => (List.range (x.nq * x.dh)).foldl (fun c i =>
          let r := i / x.dh
          let ch := i % x.dh
          let sum := exactSum ((ps.zip vals).map fun t => (mulF (t.1.getD r .nan) (t.2.getD ch .nan)).1)
          let o := (getSa c (1 + i / 1024) (i % 1024)).toNat
          putSa c (1 + i / 1024) (i % 1024) (BitVec.ofNat 32 (add32 (mul32 (als.getD r 0) o) (r32 sum)))) c)

/-- R165: KVPROG after a stop before the step at u. -/
def stopAt (n op u : Nat) (s : State) : State := modCtx s n fun c => { c with kvprog := kvprogOf true op u, attnRun := false }

/-- R53, R164, R165: an attention instruction: its end is read at issue; it is held from step to step until its range is done or it
stops, and it completes, with the rest of its bundle, at the try that finds the range done. A step that reads KV
space waits for the walker's answer. An empty range completes at once, ACT and OP 0, POS unchanged (DESIGN CHOICE, log entry
85). -/
def attnOp (f : RRR) (op : Nat) (kv : Bool) (step : State → Eng → AttnDesc → Nat → Nat → StepRes) : Op :=
  { srcs := [f.a, f.b], claim := op != 0x9C, drain := op != 0x9C, progress := true
    run := fun v s =>
      match v.c.attn with
      | none => .fault argFault
      | some d =>
        let x := attnOf d
        let running := v.c.attnRun
        let u := if running || (v.c.kvAct && v.c.kvOp == op) then v.c.kvPosn else (v.arg 0).toNat
        let stop := if running then v.c.attnEnd else (v.arg 1).toNat
        if stop < u ∨ x.npos < stop then .fault argFault
        else if u = stop then
          .ok (modCtx s v.n fun c => { c with kvprog := kvprogOf false 0 c.kvPosn }) {}
        else if !running then
          .stay fun s => modCtx s v.n fun c => { c with attnRun := true, attnEnd := stop, kvprog := kvprogOf c.kvAct c.kvOp u }
        else if kv && !v.answered.contains .kv then .stay id
        else
          let e : Eng := ⟨tileOf v.n, partOfCtx s v.n, v.n, v.c.asid.toNat, true⟩
          let w := stepEnd x u stop
          let take (s : State) : StepRes := step { s with freeCount := s.freeCount + 2 } e x u w
          let note (s : State) : State := modCtx s v.n fun c =>
            { c with answered := c.answered.filter (· != .kv), kvprog := kvprogOf c.kvAct c.kvOp w }
          match take s with
          | .fault x => .stop (stopAt v.n op u) x
          | .wait .. => .stay fun s => match take s with | .wait t hs => setWants t v.n hs | _ => s
          | .done _ => .stay fun s => match take s with | .done s => note (setWants s v.n []) | _ => s }
def opAttnQk (f : RRR) : Op := attnOp f 0x9C true qkStep
def opAttnSmx (f : RRR) : Op := attnOp f 0x9D false smxStep
def opAttnPv (f : RRR) : Op := attnOp f 0x9E true pvStep

/-! ## The instructions, each issued by the current context alone in its bundle -/
def execSaLd (f : RRR) (s : State) : Host.Outcome State Fault Refusal := issueOne (f.pack 0x95) (opSaLd f) s
def execSaMmBf16 (f : RRR) (s : State) : Host.Outcome State Fault Refusal := issueOne (f.pack 0x96) (opSaMmBf16 f) s
def execSaMmF8 (f : RRR) (s : State) : Host.Outcome State Fault Refusal := issueOne (f.pack 0x97) (opSaMmF8 f) s
def execSaSt (f : RRR) (s : State) : Host.Outcome State Fault Refusal := issueOne (f.pack 0x98) (opSaSt f) s
def execSaZero (f : RRR) (s : State) : Host.Outcome State Fault Refusal := issueOne (f.pack 0x99) (opSaZero f) s
def execSaMv (f : RRR) (s : State) : Host.Outcome State Fault Refusal := issueOne (f.pack 0x9A) (opSaMv f) s
def execAttnInit (f : RRR) (s : State) : Host.Outcome State Fault Refusal := issueOne (f.pack 0x9B) (opAttnInit f) s
def execAttnQk (f : RRR) (s : State) : Host.Outcome State Fault Refusal := issueOne (f.pack 0x9C) (opAttnQk f) s
def execAttnSmx (f : RRR) (s : State) : Host.Outcome State Fault Refusal := issueOne (f.pack 0x9D) (opAttnSmx f) s
def execAttnPv (f : RRR) (s : State) : Host.Outcome State Fault Refusal := issueOne (f.pack 0x9E) (opAttnPv f) s

end Sys2Proof.Machine
end

