-- ==== Sys2Proof/Machine/Chuck.lean ====
section
/-! DEFINITION. The Chuck: token queues in memory (R361), futures (R302, R305, R306), the transitions of a sequence (R308),
and the adapters' pins (R313). -/
namespace Sys2Proof.Machine

/-! ## Queues in memory (R308, R361) -/

/-- R308: a write of the Chuck to memory of a partition; none when it cannot be performed. The base of a token queue is a
global physical address (DEDUCED, log entry 31). -/
def chuckWrite (s : State) (pnum pa : Nat) (bs : List Byte) : Option State :=
  match partAt s pnum with
  | none => none
  | some p =>
    if isHost (paLocal pa) && p.linkPhase != .up then some (putHome s pnum pa bs)
    else
      match targetFault s p pnum pa false true with
      | some _ => none
      | none =>
        let locs := (List.range bs.length).map fun i => Loc.mem (pa + i)
        match locError s locs true with
        | some _ => none
        | none => some (storeLocs s locs bs)

/-- R361: where a queue's next token goes. -/
def TokQueue.tail (q : TokQueue) : Nat := (q.head + q.count) % Nat.max q.cap 1

/-- R308, R361: tokens appended as far as the room and the writes allow: the queue, and how many were appended. -/
def appendTokens (s : State) (pnum : Nat) (q : TokQueue) : List Lane → State × TokQueue × Nat
  | [] => (s, q, 0)
  | t :: ts =>
    if q.cap ≤ q.count then (s, q, 0)
    else
      match chuckWrite s pnum (q.base + 4 * q.tail) (leBytes 4 t.toNat) with
      | none => (s, q, 0)
      | some s =>
        let (s, q, n) := appendTokens s pnum { q with count := q.count + 1 } ts
        (s, q, n + 1)

/-- R194: the home lines of the next k tokens of a queue against whose writing leases are held. -/
def TokQueue.waits (s : State) (q : TokQueue) (k : Nat) : List Nat :=
  (((List.range (Nat.min k (q.cap - q.count))).map fun i => (q.base + 4 * ((q.tail + i) % Nat.max q.cap 1)) / 128).eraseDups).filter
    fun l => homeConflict s l true
/-- The Chuck as a requester of home lines (R218). -/
def chuckKey : Nat := 90000

/-! ## Sequences (R308) -/

def seqAt (s : State) (n : Nat) : Option Seq := smFind s.seqs n
def setSeq (s : State) (n : Nat) (q : Seq) : State := { s with seqs := smIns s.seqs n q }
/-- R309: a transition of R308: the sequence goes behind every sequence that has waited longer. -/
def moveSeq (s : State) (n : Nat) (q : Seq) (st : SeqSt) : State :=
  setSeq { s with seqAge := s.seqAge + 1 } n { q with st := st, age := s.seqAge + 1 }
/-- R308: the fill state. -/
def Seq.fill (q : Seq) : SeqSt := if q.pf.count = 0 then .ready else .prefill
/-- R308: tokens appended to the prefill queue, TRUNC set when some are discarded. -/
def feedSeq (s : State) (n : Nat) (q : Seq) (ts : List Lane) : State × Seq :=
  let (s, pf, k) := appendTokens s q.part q.pf ts
  let q := { q with pf := pf, trunc := q.trunc || decide (k < ts.length) }
  (setSeq s n q, q)
/-- R308: a batched sequence is released: to the fill state, or retired when it was to be. -/
def releaseSeq (s : State) (n : Nat) (q : Seq) : State :=
  let q := { q with holder := none }
  if q.retiring then moveSeq s n { q with retiring := false } .retired else moveSeq s n q q.fill
/-- R312: every sequence that a context holds batched is released. -/
def releaseBatches (s : State) (ctx : Nat) : State :=
  s.seqs.foldl (fun s e => if e.2.holder = some ctx then releaseSeq s e.1 e.2 else s) s

/-! ## Futures (R302, R305) -/

def futAt (s : State) (i : Nat) : Option Fut := smFind s.futs i
/-- R302: the handle of a future. -/
def futHandle (part i : Nat) : Word := word (i + part * 2 ^ 17)
/-- R302: the future that a handle names: partition and index. -/
def handleIndex (h : Word) : Nat := bits h.toNat 16 0
def handlePart (h : Word) : Nat := bits h.toNat 19 17
/-- R302: a dword that is a handle. -/
def handleOk (h : Word) : Bool := decide (h.toNat < 2 ^ 20)

/-- R305: a call leaves the tool queue. -/
def dropCall (s : State) (part i : Nat) : State :=
  modPart s part fun p => { p with tools := p.tools.filter fun c => c.future != i }
/-- R305: a future becomes free; a context in `fwait` on it looks again. -/
def freeFut (s : State) (i : Nat) : State :=
  match futAt s i with
  | none => s
  | some f =>
    let s := { dropCall s f.part i with futs := smDel s.futs i }
    wakeWhere s fun _ c => c.wait == .future (futHandle f.part i)

/-- R344: a free future of a partition's share; which of them is open (R7). -/
def pickFuture (s : State) (p : Part) : Option Nat :=
  let free := ((List.range p.conf.futN).map (p.conf.futLo + ·)).filter fun i => (futAt s i).isNone
  if free = [] then none else free[Config.freeNat s.freeCount % free.length]?

/-- R372: a call enters the tool queue; a queue that was empty posts class 3. -/
def postCall (s : State) (part : Nat) (c : Call) : State :=
  match partAt s part with
  | none => s
  | some p =>
    let s' := setPart s part { p with tools := p.tools ++ [c] }
    if p.tools = [] then post s' part 3 (word c.future) 0 else s'

/-- R302, R305: a future opens with its call. -/
def openFut (s : State) (i : Nat) (f : Fut) : State :=
  let s := { s with futs := smIns s.futs i { f with tag := Config.futureTag s.freeCount }, freeCount := s.freeCount + 1 }
  postCall s f.part ⟨i, f.tool⟩

/-- R194, R308: the tokens of an ended future are appended and its sequence goes to prefill-pending, now or once the leases on the
queue's lines have ended; until then it stays in calling. -/
def landFeed (s : State) (n : Nat) (q : Seq) (toks : List Lane) : State :=
  match q.pf.waits s toks.length with
  | [] =>
    let (s, q) := feedSeq s n q toks
    moveSeq s n q .prefill
  | ls => { setWants s chuckKey ls with feeds := s.feeds ++ [(n, toks)] }
/-- The appends that wait are tried again, those of sequences that have left calling dropped. -/
def settleFeeds (s : State) : State :=
  if s.feeds = [] then s
  else
    s.feeds.foldl (fun s e =>
      match seqAt s e.1 with
      | some q => if q.st = .calling ∧ q.fut = none then landFeed s e.1 q e.2 else s
      | none => s) (setWants { s with feeds := [] } chuckKey [])

/-- R305, R308: an open or taken future ends: 0 OK, 9 FAIL, 8 TIMEOUT. A sequence's tokens are appended and it goes to
prefill-pending; a context in `fwait` looks again. -/
def endFut (s : State) (i : Nat) (f : Fut) (status : Nat) (toks : List Lane) : State :=
  let s := dropCall s f.part i
  match f.seq with
  | some n =>
    let s := { s with futs := smDel s.futs i }
    match seqAt s n with
    | some q => landFeed (setSeq s n { q with fut := none }) n { q with fut := none } toks
    | none => s
  | none =>
    let s := { s with futs := smIns s.futs i { f with st := .ended status } }
    wakeWhere s fun _ c => c.wait == .future (futHandle f.part i)

/-- Whether a future has not ended. -/
def Fut.alive (f : Fut) : Bool :=
  match f.st with
  | .ended _ => false
  | _ => true

/-- R305: every future that a context created is dropped. -/
def dropFutures (s : State) (ctx : Nat) : State :=
  s.futs.foldl (fun s e => if e.2.creator = some ctx then freeFut s e.1 else s) s

/-- R305, R308: a sequence is retired; a batched one when its batch releases it. -/
def retireSeq (s : State) (n : Nat) (q : Seq) : State :=
  if q.holder.isSome then setSeq s n { q with retiring := true }
  else
    let s := match q.fut with
      | some i => freeFut s i
      | none => s
    moveSeq s n { q with fut := none } .retired

/-- R305, R306: the deadline event reaches a future's entry: the timeout string, or the end of an `fcall`. -/
def timeoutFut (s : State) (i : Nat) : State :=
  match futAt s i with
  | some f => if f.alive then endFut s i f 8 (((partAt s f.part).map (·.tstring)).getD []) else s
  | none => s

/-- FUTURE_DEADLINE: the event may reach the entry from the deadline on (R306). -/
def execFutureDeadline (i : Nat) (s : State) : Host.Outcome State Fault Refusal :=
  .next (if (futAt s i).any (fun f => decide (f.deadline ≤ s.time)) then timeoutFut s i else s)

/-! ## Partition ranges (R344, R345) -/

/-- Whether a sequence number is in a partition's range. -/
def ownsSeq (p : Part) (n : Nat) : Bool := decide (p.conf.seqLo ≤ n) && decide (n < p.conf.seqLo + p.conf.seqN)
def ownsAdapter (p : Part) (n : Nat) : Bool := decide (p.conf.adpLo ≤ n) && decide (n < p.conf.adpLo + p.conf.adpN)
def ownsSlot (p : Part) (n : Nat) : Bool := decide (p.conf.slotLo ≤ n) && decide (n < p.conf.slotLo + p.conf.slotN)

/-- R313: whether a batch pins an adapter. -/
def adapterPinned (s : State) (pnum adapter : Nat) : Bool :=
  s.seqs.any fun e => e.2.part == pnum && e.2.adapter == some adapter && e.2.holder.isSome

/-! ## Access by an operation held for the Chuck (R271) -/

/-- R271: an operation that the Chuck answers: held, parked on future, until then. -/
def withChuck (v : View) (k : Unit → Res) : Res := if v.answered.contains .chuck then k () else .hold .future .chuck id

/-- R271: n bytes that must lie in a stash mapping, accessed for a Chuck operation. -/
def withMapped (v : View) (s : State) (need : Need) (ea n : Nat) (k : State → List Loc → Res) : Res :=
  match unmapped s (tileOf v.n) v.c.asid.toNat ea n with
  | some a => .fault (noMap a)
  | none => withPlaces false false v s need false ea n k

end Sys2Proof.Machine
end

