-- ==== Sys2Proof/Machine/Creg.lean ====
section
/-! DEFINITION. Control registers (R49 to R52) as `mfc` and `mtc` read and write them (R110, R111), with the fields of
R48, R87 to R91, R166, R228, R256, R260, R263, R268, R277, R330, R347, R375, R376, R384, R409 and R430. -/
namespace Sys2Proof.Machine

/-- R51: CTXID. -/
def ctxid (n : Nat) : Word :=
  word ((if localOf n = 0 then 2 ^ 27 else 0) + dieOf n * 2 ^ 24 + tileOf n * 2 ^ 16 + n)
/-- R260: VL. -/
def vlRead (c : Ctx) : Word :=
  match c.claim with
  | some k => word ((if k.reclaim then 2 ^ 24 else 0) + k.ceil * 2 ^ 16 + k.floor * 2 ^ 8 + c.lanes)
  | none => 0
/-- R347: PART. -/
def partRead (s : State) (n : Nat) : Word := word ((if isSealed s n then 8 else 0) + partOfCtx s n)
/-- R430: STRETCH of a die. -/
def stretchRead (d : Die) : Word := word (d.events * 2 ^ 32 + d.scyc % 2 ^ 32)

/-- R325, R374, R407, R413, R419: the bits of FINFO that a fault code names; the others read 0. A code that the spec does not list
names them all (DEDUCED, log entry 101). -/
def finfoMask (code : Nat) : Word :=
  match code with
  | 0x01 | 0x02 => 0x1FFFFFFFFFF
  | 0x03 | 0x08 | 0x10 | 0x20 => 7
  | 0x0B => 0xFFFF
  | 0x11 | 0x13 | 0x14 | 0x28 | 0x29 => 0xFFF
  | 0x18 | 0x22 | 0x23 => 0x7F
  | 0x1B => 0xF
  | 0x24 => 0x3F
  | 0x30 => 0xFF0F
  | 0x31 => 0x31FFF
  | 0x32 => 3
  | 0x09 | 0x0A | 0x0C | 0x12 | 0x15 | 0x16 | 0x19 | 0x1A | 0x21 | 0x33 => 0
  | _ => BitVec.allOnes 64
/-- R375: FCAUSE.CODE. -/
def Ctx.faultCode (c : Ctx) : Nat := bits c.fcause.toNat 7 0
/-- R374: FINFO as it reads under the code that FCAUSE holds. -/
def Ctx.finfoRead (c : Ctx) : Word := c.finfo &&& finfoMask c.faultCode

/-- R49, R110: the value of a control register of context n, whose own registers read as in c. -/
def cregRead (s : State) (n : Nat) (c : Ctx) (r : Nat) : Word :=
  match r with
  | 0x000 => vlRead c
  | 0x001 => c.rot
  | 0x002 => c.iter
  | 0x003 => c.span
  | 0x004 => c.ebud
  | 0x005 => c.sdl
  | 0x008 => c.rmode
  | 0x009 => c.seed
  | 0x00A => c.fflags
  | 0x00B => c.satf
  | 0x010 => word s.time
  | 0x011 => word (dieAt s (dieOf n)).cyc
  | 0x012 => stretchRead (dieAt s (dieOf n))
  | 0x018 => ctxid n
  | 0x019 => c.asid.setWidth 64
  | 0x01A => partRead s n
  | 0x01B => word (tileAt s (tileOf n)).dsize
  | 0x020 => c.fcause
  | 0x021 => c.fpc
  | 0x022 => c.faddr
  | 0x023 => c.finfoRead
  | 0x024 => c.kvprog
  | 0x025 => stopvec s n
  | 0x026 => c.kverrpol
  | 0x030 | 0x031 | 0x032 | 0x033 => smGet 0 c.shape (r - 0x030)
  | _ => if 0x028 ≤ r ∧ r ≤ 0x02F then wpRead s n (r - 0x028) else 0

/-- R48: what a write of ROT stores. -/
def rotOf (w : Word) : Word := word (bits w.toNat 20 16 * 2 ^ 16 + bits w.toNat 7 0)
/-- R277: what a write of SPAN stores. -/
def spanOf (w : Word) : Word :=
  let d := bits w.toNat 10 8
  word (d * 256 + bits w.toNat 7 0 % 2 ^ (d + 1))
/-- R256: what a write of EBUD stores. -/
def ebudOf (w : Word) : Word := word (Nat.max (bits w.toNat 31 16) 96 * 2 ^ 16 + bits w.toNat 15 0)
/-- R263: what a write of SDL stores. -/
def sdlOf (w : Word) : Word := word (Nat.max (bits w.toNat 31 16) 16 * 2 ^ 16 + bits w.toNat 15 0)

/-- R384: a write of STOPVEC restarts the stopped queues named whose head this context issued. -/
def writeStopvec (s : State) (n : Nat) (w : Word) : State :=
  let v := (stopvec s n).toNat
  (List.range 11).foldl (fun s q =>
    if bit w.toNat q && bit v q && bit v (32 + q) then restartQueue s (spindleOf n) q else s) s

/-- R4, R49: a control register of a context as a value is stored in it: a reserved bit keeps nothing. -/
def cregPut (c : Ctx) (r : Nat) (w : Word) : Ctx :=
  match r with
  | 0x001 => { c with rot := rotOf w }
  | 0x002 => { c with iter := w }
  | 0x003 => { c with span := spanOf w }
  | 0x004 => { c with ebud := ebudOf w }
  | 0x005 => { c with sdl := sdlOf w }
  | 0x008 => { c with rmode := rmodeOf w }
  | 0x009 => writeSeed c w
  | 0x00A => { c with fflags := word (bits w.toNat 4 0) }
  | 0x00B => { c with satf := word (bits w.toNat 1 0) }
  | 0x019 => { c with asid := w.setWidth 16 }
  | 0x020 => { c with fcause := w &&& 0xFFFF00FF }
  | 0x021 => { c with fpc := w }
  | 0x022 => { c with faddr := w }
  | 0x023 => { c with finfo := w &&& finfoMask c.faultCode }
  | 0x024 => { c with kvprog := w &&& 0x1FFFFFFFF }
  | 0x026 => { c with kverrpol := w &&& 0x1FFFFFFFF }
  | 0x030 | 0x031 | 0x032 | 0x033 => { c with shape := smSet 0 c.shape (r - 0x030) (word (bits w.toNat 31 0)) }
  | _ => c

/-- R49, R111: a write of a control register that the level admits; one that is RO stores nothing (R50). -/
def cregWrite (s : State) (n r : Nat) (w : Word) : State :=
  if r = 0x025 then writeStopvec s n w else modCtx s n fun c => cregPut c r w

/-- R49, R50: the registers that are RO outside service and RW in service. -/
def cregService (r : Nat) : Bool :=
  r == 0x004 || r == 0x005 || r == 0x019 || (0x020 ≤ r && r ≤ 0x023) || r == 0x025 || r == 0x026

/-- R110: mfc; of FFLAGS or SATF it waits for every earlier result (R91). -/
def opMfc (f : RRI) : Op :=
  let r := bits f.imm.toNat 11 0
  { dests := dstS f.d, drain := r == 0x00A || r == 0x00B
    run := fun v s => .ok s (landS v.c f.d (cregRead s v.n v.c r) 1) }

/-- R56, R111: the register that an mtc writes; SPAN holds the stage predicates. -/
def cregDst (r : Nat) : Dst := if r = 0x003 then .span else .creg r

/-- R45, R55: the places of outstanding writes that a write of a control register names: SPAN holds the stage predicates, and KVPROG is
written by `attn.init`. -/
def cregPlaces (r : Nat) : List (Nat × Nat × Nat) :=
  if r = 0x003 then (List.range 8).map fun i => (1, 24 + i, 0) else if r = 0x024 then [(7, 0, 0)] else []

/-- R111: mtc, at the end of its bundle and with the effect of STOP. A write of FFLAGS or SATF comes after every earlier
result and before the flags of its own bundle (R91). -/
def opMtc (f : RRI) : Op :=
  let r := bits f.imm.toNat 11 0
  { srcs := [f.a], dests := [cregDst r], service := cregService r, drain := r == 0x00A || r == 0x00B
    run := fun v s => .ok s { stop := true, sets := cregPlaces r, late := some fun s => cregWrite s v.n r (v.arg 0) } }

/-! ## The instructions, each issued by the current context alone in its bundle -/
def execMfc (f : RRI) (s : State) : Host.Outcome State Fault Refusal := issueOne (f.pack 0x2F) (opMfc f) s
def execMtc (f : RRI) (s : State) : Host.Outcome State Fault Refusal := issueOne (f.pack 0x30) (opMtc f) s

end Sys2Proof.Machine
end

