-- ==== Sys2Proof/Machine/Control.lean ====
section
/-! DEFINITION. Branches and loops (R273 to R277). -/
namespace Sys2Proof.Machine

/-- R274: the target of a relative branch: the bundle's address + 2 × offset. -/
def brTarget (v : View) (f : BRF) : Word := v.b.addr + (f.off.signExtend 64 <<< 1)

/-- R273: a taken branch with its link, x0 for none. -/
def branchEff (v : View) (link : BitVec 9) (target : Word) : Eff :=
  if link.toNat = 0 then { jump := some target }
  else { landS v.c link v.next 1 with jump := some target }
/-- R273: the link register named as a destination. -/
def linkDst (link : BitVec 9) : List Dst := if link.toNat = 0 then [] else dstS link

def opBr (f : BRF) : Op :=
  { dests := linkDst f.link, branch := true
    run := fun v s => .ok s (branchEff v f.link (brTarget v f)) }
def opBri (f : RRR) : Op :=
  { srcs := [f.a], dests := linkDst f.d, branch := true
    run := fun v s => .ok s (branchEff v f.d (v.arg 0)) }

/-- R276: step(s): the stage-valid bits after a step, ROT advanced. -/
def loopStep (c : Ctx) (start : Bool) : Nat × Word :=
  ((c.sv * 2 + if start then 1 else 0) % 2 ^ c.depth, word ((c.xo + 1) % 32 * 2 ^ 16 + (c.vo + 1) % 256))

/-- R276: what a modulo-loop step does: SV, ROT, ITER, and the branch while a stage is valid. -/
def loopEff (v : View) (s : State) (f : BRF) (start : Bool) (iter : Word) : Res :=
  let (sv, rot) := loopStep v.c start
  .ok (modCtx s v.n fun c => { c with span := spanWith v.c sv, rot := rot, iter := iter })
    { jump := if sv = 0 then none else some (brTarget v f) }

/-- R56, R276: the registers that a loop writes. -/
def loopDests : List Dst := [.creg 0x002, .span, .creg 0x001]

def opLoop (f : BRF) : Op :=
  { dests := loopDests
    run := fun v s =>
      if v.c.iter = 0 then .ok s {}
      else .ok (modCtx s v.n fun c => { c with iter := v.c.iter - 1 }) { jump := some (brTarget v f) } }
def opLoopRot (f : BRF) : Op :=
  { dests := loopDests
    run := fun v s =>
      let start := bit v.c.sv 0 && v.c.iter != 0
      loopEff v s f start (if start then v.c.iter - 1 else v.c.iter) }
def opLoopW (f : BRF) : Op :=
  { dests := loopDests
    run := fun v s => loopEff v s f (bit v.c.sv 0 && readP v.c f.link) v.c.iter }

/-! ## The instructions, each issued by the current context alone in its bundle -/
def execBr (f : BRF) (s : State) : Host.Outcome State Fault Refusal := issueOne (f.pack 0x32) (opBr f) s
def execBri (f : RRR) (s : State) : Host.Outcome State Fault Refusal := issueOne (f.pack 0x33) (opBri f) s
def execLoop (f : BRF) (s : State) : Host.Outcome State Fault Refusal := issueOne (f.pack 0x34) (opLoop f) s
def execLoopRot (f : BRF) (s : State) : Host.Outcome State Fault Refusal := issueOne (f.pack 0x35) (opLoopRot f) s
def execLoopW (f : BRF) (s : State) : Host.Outcome State Fault Refusal := issueOne (f.pack 0x36) (opLoopW f) s

end Sys2Proof.Machine
end

