-- ==== Sys2Proof/Machine/Claims.lean ====
section
/-! DEFINITION. Vector claims (R257 to R260): `vclaim`, `vgrow`, `vrel`, `vstat` (R283 to R286) and the event CLAIM_GRANT. -/
namespace Sys2Proof.Machine

/-- R257: whether a claim of a tile, that of context n apart, waits. -/
def claimWaits (s : State) (n : Nat) : Bool :=
  (tileClaims s (tileOf n)).any fun e => e.1 != n && e.2.phase == .waiting

/-- R81, R258, R259: a claim gets a number of lanes: those that have contents keep them, added ones are seeded and read 0. -/
def setLanes (c : Ctx) (k : Claim) (lanes : Nat) : Ctx :=
  let old := k.filled
  -- R160: a context that held no claim has its stage state cleared
  let c := if old = 0 then { c with sa := [], saA := ⟨0, []⟩, saB := ⟨0, []⟩ } else c
  let c := if lanes < old then shrinkTo c lanes else seedLanes c old lanes
  { c with claim := some { k with phase := .held, lanes := lanes, kept := 0 } }

/-- R258: the lanes of a claim that grows with the free lanes of its tile. -/
def grownLanes (s : State) (n : Nat) (k : Claim) : Nat :=
  Nat.max k.lanes (Nat.min k.ceil ((k.lanes + freeLanes s (tileOf n)) / 8 * 8))

/-- R258: the lanes that a waiting claim is granted: a restored one has at most those that it was saved with, unless they are
fewer than the floor, which its `vclaim` had raised. -/
def grantLanes (s : State) (n : Nat) (k : Claim) : Nat :=
  let most := if k.lanes = 0 ∧ k.kept ≠ 0 ∧ k.floor ≤ k.kept then k.kept else k.ceil
  Nat.min most ((k.lanes + freeLanes s (tileOf n)) / 8 * 8)

/-- R259, R261, R270: the reclaim reaches a holder above its floor; one that is not in rotation is at a re-negotiation
point. -/
def reclaimFrom (s : State) (n : Nat) : State :=
  let c := ctxOf s n
  match c.claim with
  | some k =>
    if k.phase = .held ∧ k.floor < k.lanes ∧ !k.reclaim ∧ !isSealed s n ∧ 0 < lanesNeeded s (tileOf n) then
      let s := setCtx s n { c with claim := some { k with reclaim := true } }
      if c.phase = .live ∨ c.phase = .inService then s else applyReclaim s n
    else s
  | none => s

/-- R258, R259: after a change of a tile's claims: the oldest waiter is granted, or a reclaim is raised. -/
def settleClaims (s : State) (t : Nat) : State :=
  claimReady ((tileClaims s t).foldl (fun s e => reclaimFrom s e.1) s) t

/-- R258, R285: a claim is released, its lanes freed and their contents lost, with the stage state. -/
def releaseClaim (s : State) (n : Nat) : State :=
  if (ctxOf s n).claim.isSome then
    settleClaims (modCtx s n fun c =>
      { c with claim := none, v := [], m := [], lfsr := [], sa := [], saA := ⟨0, []⟩, saB := ⟨0, []⟩
               pend := c.pend.map (Pending.clip 0) }) (tileOf n)
  else s

/-- R257, R283: the floor and the ceiling of `vclaim`. -/
def claimFloor (f : RRI) : Nat := bits f.imm.toNat 6 0
def claimCeil (f : RRI) : Nat := bits f.imm.toNat 14 8

/-- R257, R283: whether a request of context n is refused: a claim that it holds counts among the 16, with the new floor for
its own in the sum (DEDUCED, log entry 84). -/
def claimRefused (s : State) (n floor : Nat) : Bool :=
  let live := tileClaims s (tileOf n)
  decide (16 ≤ live.length) || decide (128 < ((live.filter fun e => e.1 != n).map fun e => e.2.floor).sum + floor)

/-- R283: the claim of a context under a new floor and ceiling. -/
def newClaim (c : Ctx) (floor ceil : Nat) : Claim :=
  match c.claim with
  | some k => { k with floor := floor, ceil := ceil }
  | none => ⟨.held, floor, ceil, 0, false, 0, 0⟩

/-- R258, R283: whether an admitted request waits: too few free lanes, or a held claim below F while another waits. -/
def mustWait (s : State) (n : Nat) (k : Claim) : Bool :=
  decide (k.lanes + freeLanes s (tileOf n) < k.floor) || (decide (0 < k.lanes) && decide (k.lanes < k.floor) && claimWaits s n)

/-- R258: a request waits, behind those that came before it; a reclaim is raised. -/
def enterWaiting (n : Nat) (k : Claim) (s : State) : State :=
  let s := modCtx { s with claimAge := s.claimAge + 1 } n fun c => { c with claim := some { k with phase := .waiting, age := s.claimAge } }
  settleClaims s (tileOf n)

/-- R283: an admitted request that does not wait takes effect. -/
def takeClaim (s : State) (n floor ceil : Nat) : State :=
  let c := ctxOf s n
  let k := newClaim c floor ceil
  let lanes :=
    if ceil < k.lanes then ceil
    else if 0 < k.lanes ∧ floor ≤ k.lanes ∧ (claimWaits s n ∨ k.reclaim) then k.lanes
    else grownLanes s n k
  let s := setCtx s n (setLanes c k lanes)
  settleClaims (applyReclaim s n) (tileOf n)

/-- R283: vclaim. -/
def opVclaim (f : RRI) : Op :=
  let floor := claimFloor f
  let ceil := claimCeil f
  { dests := dstS f.d
    run := fun v s =>
      if isSealed s v.n ∧ floor ≠ ceil then .fault ⟨0x1A, 0, 0, none, []⟩
      else if v.answered.contains .claim then .ok s (heldStop v (landS v.c f.d 0 1))
      else if claimRefused s v.n floor then .ok s (landS v.c f.d 1 1)
      else
        let k := newClaim (ctxOf s v.n) floor ceil
        if mustWait s v.n k then .hold .token .claim (enterWaiting v.n k)
        else .ok s { landS v.c f.d 0 1 with after := some fun s => takeClaim s v.n floor ceil } }

/-- R284: the lanes that `vgrow` leaves. -/
def vgrowLanes (s : State) (n : Nat) : Nat :=
  match (ctxOf s n).claim with
  | none => 0
  | some k =>
    if k.reclaim then reclaimedLanes s n k
    else if isSealed s n || claimWaits s n then k.lanes
    else grownLanes s n k

/-- R284: vgrow. -/
def opVgrow (f : RRI) : Op :=
  { dests := dstS f.d, claim := true
    run := fun v s =>
      let lanes := vgrowLanes s v.n
      .ok s { landS v.c f.d (word lanes) 1 with
        after := some fun s =>
          let c := ctxOf s v.n
          match c.claim with
          | some k => if k.reclaim then applyReclaim s v.n else setCtx s v.n (setLanes c k lanes)
          | none => s } }

/-- R285: vrel. -/
def opVrel (_ : RRR) : Op := { run := fun v s => .ok s { after := some fun s => releaseClaim s v.n } }

/-- R286: vstat. -/
def opVstat (f : RRR) : Op :=
  { dests := dstS f.d
    run := fun v s =>
      let t := tileOf v.n
      .ok s (landS v.c f.d (word ((vlRead v.c).toNat + freeLanes s t * 2 ^ 32 + (tileClaims s t).length * 2 ^ 40)) 1) }

/-- CLAIM_GRANT: the oldest waiting claim of a tile is granted when the free lanes reach its floor. -/
def execClaimGrant (n : Nat) (s : State) : Host.Outcome State Fault Refusal :=
  .next <|
    match oldestWaiter s (tileOf n) with
    | some (m, k) =>
      if m = n ∧ k.floor ≤ k.lanes + freeLanes s (tileOf n) then
        let c := ctxOf s n
        let s := setCtx s n (setLanes c k (grantLanes s n k))
        let s := modCtx s n fun c => if c.wait = .claim then wake { c with answered := .claim :: c.answered } else c
        settleClaims s (tileOf n)
      else s
    | none => s

/-! ## The instructions, each issued by the current context alone in its bundle -/
def execVclaim (f : RRI) (s : State) : Host.Outcome State Fault Refusal := issueOne (f.pack 0xD3) (opVclaim f) s
def execVrel (f : RRR) (s : State) : Host.Outcome State Fault Refusal := issueOne (f.pack 0xD4) (opVrel f) s
def execVgrow (f : RRI) (s : State) : Host.Outcome State Fault Refusal := issueOne (f.pack 0xD5) (opVgrow f) s
def execVstat (f : RRR) (s : State) : Host.Outcome State Fault Refusal := issueOne (f.pack 0xEF) (opVstat f) s

end Sys2Proof.Machine
end

