-- ==== Sys2Proof/Machine/Contexts.lean ====
section
/-! DEFINITION. Contexts: how one starts (R252, R272) and ends (R282, R305, R312), `hstart`, `hreap`, `hstat`, `sleep`, `hend`
(R278 to R282), and the event SLEEP_DEADLINE. -/
namespace Sys2Proof.Machine

/-- R14: the context of a spindle with a local index. -/
def ctxNum (sp k : Nat) : Nat := 16 * sp + k
/-- R24: a context that issues no bundle until it takes a task: parked on join (R265, log entry 20). -/
def goIdle (c : Ctx) : Ctx := { park c .join .nothing with idle := .idle }

/-- R252, R272: what a context holds when it starts. Its place in the rotation and its debug enable stay. -/
def startedCtx (old : Ctx) (l : Launch) (pc arg : Word) : Ctx :=
  let r := recWord l.recd 0x48
  let sdl := bits r 31 16
  let eb := bits r 15 0
  { Ctx.empty with
    phase := .live, pc := codeTarget pc, x := smSet 0 [] 1 arg, asid := BitVec.ofNat 16 l.lasid
    sdl := word (sdl * 65536 + sdl), ebud := word (eb * 65536 + eb)
    dbg := old.dbg, turn := old.turn, mayOffer := old.mayOffer }

/-- R252: a context starts, by a launch or by `hstart`; with entry 0 a helper starts idle (R278). -/
def startCtx (s : State) (n : Nat) (pc arg : Word) : State :=
  match launchOf s n with
  | none => s
  | some l =>
    let c := startedCtx (ctxOf s n) l pc arg
    setCtx s n (if localOf n ≠ 0 ∧ pc = 0 then goIdle c else c)

/-- R282, R293: a context's channels become gone at every end bound to it, and a context parked on such an end looks
again. -/
def chansGone (s : State) (n : Nat) : State :=
  (s.ctxs.map (·.1)).foldl (fun s m =>
    (List.range 16).foldl (fun s k =>
      let c := ctxOf s m
      let e := getCh c k
      if e.peer = n ∧ (e.st = .established ∨ e.st = .waiting) then
        let c := putCh c k { e with st := .gone }
        setCtx s m (if c.wait = .channel k then wake c else c)
      else s) s) s

/-- R279, R282: those that wait for helpers of a spindle look again. -/
def wakeHelpers (s : State) (sp : Nat) : State := wakeWhere s fun n c => spindleOf n == sp && c.wait == .helpers

/-- R298: no answer reaches a sender that has ended. -/
def orphanFlights (s : State) (n : Nat) : State :=
  { s with flights := (s.flights.filter fun f => f.src != n || f.answer.isNone).map fun f =>
      if f.src = n then { f with orphan := true } else f }

/-- R282, R305, R312, R328: a context ends: its results land, its channels are gone, its futures are dropped, its batches
released; it holds its final state. -/
def endCtx (s : State) (n : Nat) : State :=
  let s := orphanFlights (landEvery s n) n
  let s := releaseBatches (dropFutures (chansGone (dropWaiter s n) n) n) n
  let s := modCtx s n fun c =>
    { c with phase := .reaped, why := .none, wait := .nothing, held := none, answered := [], reqs := [], enterNow := false
             attnRun := false, fetching := false, idle := .no, area := none, auto := false, rst := 0, halted := false
             step := false }
  -- R261: a reclaim pending at a context out of rotation is served there
  wakeHelpers (applyReclaim s n) (spindleOf n)

/-- R252, R279: a reaped context becomes free: its claim is released, its pins dropped. -/
def freeCtx (s : State) (n : Nat) : State :=
  let s := releaseClaim s n
  modCtx s n fun c => { Ctx.empty with dbg := c.dbg, turn := c.turn, mayOffer := c.mayOffer }

/-- The helpers of a spindle. -/
def helpersOf (sp : Nat) : List Nat := (List.range 15).map fun i => ctxNum sp (i + 1)
/-- R282: whether every helper of a spindle is free or reaped. -/
def helpersDone (s : State) (sp : Nat) : Bool :=
  (helpersOf sp).all fun n => let p := (ctxOf s n).phase; p == .free || p == .reaped
/-- R282: the reaped helpers of a spindle are freed. -/
def freeHelpers (s : State) (sp : Nat) : State :=
  (helpersOf sp).foldl (fun s n => if (ctxOf s n).phase = .reaped then freeCtx s n else s) s

/-- R278, R279: the helper that an operation of a control context names by A[3:0]: F_ARG, or its number. -/
def helperArg (v : View) : Except FaultInfo Nat :=
  let k := bits (v.arg 0).toNat 3 0
  if k = 0 then .error argFault
  else .ok (ctxNum (spindleOf v.n) k)

/-- R278: hstart. -/
def opHstart (f : RRR) : Op :=
  { srcs := [f.a, f.b, f.c], dests := dstS f.d, control := true
    run := fun v s =>
      match helperArg v with
      | .error e => .fault e
      | .ok h =>
        if (ctxOf s h).phase = .free then .ok (startCtx s h (v.arg 1) (v.arg 2)) (landS v.c f.d 0 1)
        else .ok s (landS v.c f.d 2 1) }

/-- R279: hreap. -/
def opHreap (f : RRR) : Op :=
  { srcs := [f.a], dests := dstS f.d, control := true
    run := fun v s =>
      match helperArg v with
      | .error e => .fault e
      | .ok h =>
        match (ctxOf s h).phase with
        | .reaped => .ok (freeCtx s h) (heldStop v (landS v.c f.d 0 1))
        | .free => .ok s (landS v.c f.d 6 1)
        | _ => if f.md.getLsbD 0 then .hold .join .helpers id else .ok s (landS v.c f.d 2 1) }

/-- R280: the code of a context's state. -/
def stateCode (p : Phase) : Nat :=
  match p with
  | .free => 0 | .live => 1 | .parked => 2 | .inService => 3 | .saved => 4 | .reaped => 5
/-- R280: the code of a reason. -/
def whyCode (w : Why) : Nat :=
  match w with
  | .none => 0 | .channel => 1 | .mailbox => 2 | .token => 3 | .future => 4 | .join => 5 | .fault => 6 | .budget => 7

/-- R280: WHY, shown when parked or saved. -/
def shownWhy (c : Ctx) : Nat := if c.phase = .parked ∨ c.phase = .saved then whyCode c.why else 0

/-- R280: hstat. -/
def opHstat (f : RRR) : Op :=
  { srcs := [f.a], dests := dstS f.d
    run := fun v s =>
      let a := (v.arg 0).toNat
      if 16 ≤ a then .fault argFault
      else
        let c := ctxOf s (ctxNum (spindleOf v.n) a)
        .ok s (landS v.c f.d (word (stateCode c.phase + 16 * shownWhy c)) 1) }

/-- R281: whether a mailbox of a mask holds a message or a refusal. -/
def mailIn (c : Ctx) (mask : Nat) : Bool :=
  (List.range 4).any fun k => bit mask k && (!(getMb c k).msgs.isEmpty || !(getMb c k).refs.isEmpty)

/-- R281: sleep. -/
def opSleep (f : RRR) : Op :=
  { srcs := [f.a]
    run := fun v s =>
      let mask := bits f.md.toNat 7 4
      let a := (v.arg 0).toNat
      if a = 0 ∧ mask = 0 then .fault ⟨0x08, 0, 0, none, []⟩
      else if mailIn (ctxOf s v.n) mask || (a != 0 && decide (a ≤ s.time)) then .ok s (heldStop v {})
      else .hold .mailbox (.mailbox mask (if a = 0 then none else some a)) id }

/-- R282: hend. -/
def opHend (_ : RRR) : Op :=
  { run := fun v s =>
      let sp := spindleOf v.n
      if localOf v.n ≠ 0 then .ok s { taken := true, after := some fun s => endCtx s v.n }
      else if helpersDone s sp then .ok s { taken := true, after := some fun s => endCtx (freeHelpers s sp) v.n }
      else .hold .join .helpers id }

/-- SLEEP_DEADLINE: device time reaches the deadline of a sleep. -/
def execSleepDeadline (n : Nat) (s : State) : Host.Outcome State Fault Refusal :=
  .next <|
    match (ctxOf s n).wait with
    | .mailbox _ (some d) => if d ≤ s.time then modCtx s n wake else s
    | _ => s

/-! ## The instructions, each issued by the current context alone in its bundle -/
def execHstart (f : RRR) (s : State) : Host.Outcome State Fault Refusal := issueOne (f.pack 0xD0) (opHstart f) s
def execHreap (f : RRR) (s : State) : Host.Outcome State Fault Refusal := issueOne (f.pack 0xD1) (opHreap f) s
def execHstat (f : RRR) (s : State) : Host.Outcome State Fault Refusal := issueOne (f.pack 0xD2) (opHstat f) s
def execHend (f : RRR) (s : State) : Host.Outcome State Fault Refusal := issueOne (f.pack 0xEE) (opHend f) s
def execSleep (f : RRR) (s : State) : Host.Outcome State Fault Refusal := issueOne (f.pack 0xEE) (opSleep f) s

end Sys2Proof.Machine
end

