-- ==== Sys2Proof/Machine/Tasks.lean ====
section
/-! DEFINITION. Tasks (R264 to R266, R287 to R292): the deques, the range table, the search order, `fork`, `fork.r`, `join`,
`jtest`, `tend`, and the event TASK_TAKE. -/
namespace Sys2Proof.Machine

/-- An operation that is held parks on the reason that its entry names (R271). -/
def Res.parkOn (r : Res) (why : Why) : Res :=
  match r with
  | .hold _ w req => .hold why w req
  | r => r

/-! ## Deques (R264, R287) -/

/-- R287: RNG of a tag. -/
def tagRng (t : Word) : Bool := bit t.toNat 40
/-- R287: FNUM of a tag. -/
def tagFnum (t : Word) : Nat := bits t.toNat 31 0
/-- R287: a tag. -/
def taskTag (fnum tile : Nat) (rng : Bool) : Word := word (fnum + tile * 2 ^ 32 + if rng then 2 ^ 40 else 0)

/-- R287: a memory-deque entry. -/
def taskBytes (t : Task) : List Byte :=
  leBytes 8 t.entry.toNat ++ leBytes 8 t.arg.toNat ++ leBytes 8 t.cnt.toNat ++ leBytes 8 t.tag.toNat
/-- R287: a task as a memory-deque entry holds it. -/
def taskOf (bs : List Byte) : Task :=
  ⟨word (leNat (bs.take 8)), word (leNat ((bs.drop 8).take 8)), word (leNat ((bs.drop 16).take 8)), word (leNat ((bs.drop 24).take 8))⟩

/-- R247, R264: the address of entry j of a spindle's memory deque, counted from its bottom. The deque uses its places in a
ring (DESIGN CHOICE, log entry 21). -/
def dequeAddr (l : Launch) (p : Spindle) (sp j : Nat) : Nat :=
  (l.dqbase + 32 * l.dqmax * sp + 32 * ((p.memBot + j) % Nat.max l.dqmax 1)) % 2 ^ 64

/-- R264: whether a spindle's deques are both full. -/
def dequesFull (l : Launch) (p : Spindle) : Bool := decide (32 ≤ p.deque.length) && decide (l.dqmax ≤ p.memCount)

/-- Where a task lies in a spindle's deques: in the hardware deque, from the top, or in memory, from the bottom. -/
inductive TaskPlace
  | hw (i : Nat)
  | mem (j : Nat)
  deriving DecidableEq, Repr

/-- R264: the places of a spindle, from the top for a context of its own, from the bottom for a thief. -/
def taskPlaces (p : Spindle) (own : Bool) : List TaskPlace :=
  let hw := (List.range p.deque.length).map TaskPlace.hw
  let mem := (List.range p.memCount).map TaskPlace.mem
  if own then hw ++ mem.reverse else mem ++ hw.reverse

/-- What looking for a task comes to. -/
inductive TaskFind
  | none
  | found (sp : Nat) (pl : TaskPlace) (t : Task)
  /-- other agents' leases on home lines stand against it -/
  | hold (homes : List Nat)
  | fault (f : FaultInfo)
  deriving DecidableEq, Repr

/-- An access of the deques by context n. -/
def dequeReq (s : State) (n : Nat) (need : Need) (answered : Bool) : Req6 := ⟨n, (ctxOf s n).asid.toNat, need, true, answered, false, none⟩

/-- R266: whether the range table holds a task back: an unfinished task forked earlier holds a range that overlaps one of
its own, one of the two being write. -/
def heldBack (t : Tile) (k : Task) : Bool :=
  tagRng k.tag &&
  (let own := t.ranges.filter fun r => r.fnum == tagFnum k.tag
   let before := t.ranges.takeWhile fun r => r.fnum != tagFnum k.tag
   own.any fun a => before.any fun b => decide (a.lo < b.hi) && decide (b.lo < a.hi) && (a.write || b.write))

/-- R287: whether a task's counter lies in a scratch mapping of its tile. -/
def scratchCounter (t : Tile) (k : Task) : Bool :=
  match mapAt t k.cnt.toNat with
  | some (_, m) => m.mode == 2
  | none => false

/-- R265, R266, R287: whether context n may take a task from a spindle. -/
def mayTake (s : State) (n sp : Nat) (k : Task) : Bool :=
  let t := tileAt s (tileOfSpindle sp)
  if tileOfSpindle sp = tileOf n then !heldBack t k else !tagRng k.tag && !scratchCounter t k

/-- The first of the entries j to j + k of a memory deque that cannot be moved, if any. -/
def shiftStop (s : State) (n : Nat) (l : Launch) (sp : Nat) : Nat → Nat → Option TaskFind
  | _, 0 => none
  | j, k + 1 =>
    match access s (dequeReq s n .store true) (dequeAddr l (spinAt s sp) sp j) 32 with
    | .ok .. => shiftStop s n l sp (j + 1) k
    | .hold _ hs => some (.hold hs)
    | .fault f => some (.fault f)

/-- R265: the first task of a list of places that may be taken. -/
def findAt (s : State) (n : Nat) (answered : Bool) (l : Launch) (sp : Nat) : List TaskPlace → TaskFind
  | [] => .none
  | .hw i :: ps =>
    match (spinAt s sp).deque[i]? with
    | some k => if mayTake s n sp k then .found sp (.hw i) k else findAt s n answered l sp ps
    | none => findAt s n answered l sp ps
  | .mem j :: ps =>
    match access s (dequeReq s n .load answered) (dequeAddr l (spinAt s sp) sp j) 32 with
    | .ok s' locs =>
      let k := taskOf (readLocs s' locs)
      if mayTake s n sp k then
        (if j = 0 then none else shiftStop s n l sp j ((spinAt s sp).memCount - j)).getD (.found sp (.mem j) k)
      else findAt s n answered l sp ps
    | .hold _ hs => .hold hs
    | .fault f => .fault f

/-- R265: the spindles in search order: its own, the tile's others, the other tiles of the launch. With NOSTEAL, R247 says
that no task leaves its spindle and R265 drops only the other tiles, so whether the tile's others are searched is free
(log entry 22). -/
def searchOrder (l : Launch) (n : Nat) (wide : Bool) : List Nat :=
  let sp := spindleOf n
  let t := tileOf n
  let near := if l.nosteal && !wide then [] else (List.range 7).map fun i => t * 8 + (sp % 8 + 1 + i) % 8
  let far :=
    if l.nosteal then []
    else ((List.range 191).map fun i => (t + 1 + i) % 192).filter fun u => l.tiles.contains u
  sp :: near ++ far.flatMap fun u => (List.range 8).map fun k => u * 8 + k

def findIn (s : State) (n : Nat) (answered : Bool) (l : Launch) : List Nat → TaskFind
  | [] => .none
  | sp :: sps =>
    match findAt s n answered l sp (taskPlaces (spinAt s sp) (sp == spindleOf n)) with
    | .none => findIn s n answered l sps
    | r => r

/-- R290: the task that context n takes. -/
def findTask (s : State) (n : Nat) (answered : Bool) : TaskFind :=
  match launchOf s n with
  | some l => findIn s n answered l (searchOrder l n (Config.freeBit s.freeCount))
  | none => .none

/-- The memory entries above a place move down by one. -/
def shiftDown (s : State) (n : Nat) (l : Launch) (sp : Nat) : Nat → Nat → State
  | _, 0 => s
  | j, k + 1 =>
    let p := spinAt s sp
    match access s (dequeReq s n .load true) (dequeAddr l p sp (j + 1)) 32 with
    | .ok s src =>
      let bs := readLocs s src
      match access s (dequeReq s n .store true) (dequeAddr l p sp j) 32 with
      | .ok s dst => shiftDown (storeLocs s dst bs) n l sp (j + 1) k
      | _ => s
    | _ => s

/-- A task leaves its deque. -/
def removeTask (s : State) (n sp : Nat) (pl : TaskPlace) : State :=
  match pl with
  | .hw i => modSpin s sp fun p => { p with deque := p.deque.eraseIdx i }
  | .mem 0 => modSpin s sp fun p => { p with memBot := p.memBot + 1, memCount := p.memCount - 1 }
  | .mem (j + 1) =>
    let s := match launchOf s n with
      | some l => shiftDown s n l sp (j + 1) ((spinAt s sp).memCount - (j + 2))
      | none => s
    modSpin s sp fun p => { p with memCount := p.memCount - 1 }

/-- R291: the contexts parked in `join` look again. -/
def wakeJoiners (s : State) : State := wakeWhere s fun _ c => match c.wait with | .counter _ => true | _ => false

/-! ## fork, fork.r (R288, R289) -/

/-- R287: the counter's RMW, and then what follows. -/
def withCounter (v : View) (s : State) (a : Word) (delta : Nat) (k : State → Res) : Res :=
  withPlaces false false v s .amo true a.toNat 8 fun s locs =>
    k (storeLocs s locs (leBytes 8 ((leNat (readLocs s locs) + delta) % 2 ^ 64)))

/-- R264: room is made at the top of the hardware deque: its bottom entry moves to the memory deque. -/
def withRoom (v : View) (s : State) (l : Launch) (sp : Nat) (k : State → Res) : Res :=
  let p := spinAt s sp
  match p.deque.getLast? with
  | some last =>
    if p.deque.length < 32 then k s
    else
      withPlaces false false v s .store true (dequeAddr l p sp p.memCount) 32 fun s locs =>
        k (modSpin (storeLocs s locs (taskBytes last)) sp fun p =>
          { p with deque := p.deque.dropLast, memCount := p.memCount + 1 })
  | none => k s

/-- R264, R287: a task is pushed, with the tile's next fork number. -/
def pushTask (s : State) (n : Nat) (entry arg cnt : Word) (rs : List Range) : State :=
  let tile := tileOf n
  let fnum := (tileAt s tile).fnum
  let s := modTile s tile fun t =>
    { t with fnum := (fnum + 1) % 2 ^ 32, ranges := t.ranges ++ rs.map fun r => { r with fnum := fnum } }
  let s := modSpin s (spindleOf n) fun p => { p with deque := ⟨entry, arg, cnt, taskTag fnum tile (!rs.isEmpty)⟩ :: p.deque }
  wakeJoiners s

/-- R288, R289: what `fork` and `fork.r` do with a counter and ranges. -/
def forkWith (v : View) (s : State) (f : RRR) (cnt : Word) (rs : List Range) : Res :=
  let sp := spindleOf v.n
  match launchOf s v.n with
  | none => .ok s (landS v.c f.d 1 1)
  | some l =>
    if dequesFull l (spinAt s sp) ∨ 256 < (tileAt s (tileOf v.n)).ranges.length + rs.length then .ok s (heldStop v (landS v.c f.d 1 1))
    else
      withCounter v s cnt 1 fun s =>
        withRoom v s l sp fun s => .ok (pushTask s v.n (v.arg 0) (v.arg 1) cnt rs) (heldStop v (landS v.c f.d 0 1))

/-- R288: fork. -/
def opFork (f : RRR) : Op :=
  { srcs := [f.a, f.b, f.c], dests := dstS f.d
    run := fun v s =>
      if isSealed s v.n then .fault ⟨0x1A, 0, 0, none, []⟩
      else if v.arg 0 = 0 ∨ (v.arg 2).toNat % 8 ≠ 0 then .fault argFault
      else (forkWith v s f (v.arg 2) []).parkOn .token }

/-- R289: a range descriptor, rounded outward to 256 bytes; none when it is not valid. -/
def rangeOf (bs : List Byte) : Option Range :=
  let base := leNat (bs.take 8)
  let d := leNat (bs.drop 8)
  let len := bits d 39 0
  if len = 0 ∨ bits d 62 40 ≠ 0 ∨ (canonFault base len).isSome then none
  else some ⟨0, base / 256 * 256, (base + len + 255) / 256 * 256, bit d 63⟩

/-- Every element of a list, or none. -/
def allSome {α : Type} : List (Option α) → Option (List α)
  | [] => some []
  | some a :: as => (allSome as).map (a :: ·)
  | none :: _ => none

/-- R289: fork.r. -/
def opForkR (f : RRR) : Op :=
  { srcs := [f.a, f.b, f.c], dests := dstS f.d
    run := fun v s =>
      let blk := (v.arg 2).toNat
      if isSealed s v.n then .fault ⟨0x1A, 0, 0, none, []⟩
      else if v.arg 0 = 0 ∨ blk % 16 ≠ 0 then .fault argFault
      else
        Res.parkOn (withMapped v s .load blk 16 fun s locs =>
          let h := readLocs s locs
          let cnt := word (leNat (h.take 8))
          let nr := leNat (h.drop 8)
          if nr = 0 ∨ 4 < nr ∨ cnt.toNat % 8 ≠ 0 then .fault argFault
          else
            withMapped v s .load (blk + 16) (16 * nr) fun s locs =>
              match allSome ((chunks 16 nr (readLocs s locs)).map rangeOf) with
              | none => .fault argFault
              | some rs => forkWith v s f cnt rs) .token }

/-! ## join, jtest, tend (R290 to R292) -/

/-- R291: join. The counter is read at memory as under `.nc`, a stash copy of its line given back first (DEDUCED, log entry 103). The
registers x1 to x4 that it writes are no destinations of a field: they enter no latch and clash with no other operation of the
bundle (DEDUCED, log entry 100). -/
def opJoin (f : RRR) : Op :=
  { srcs := [f.a]
    run := fun v s =>
      let a := v.arg 0
      if a.toNat % 8 ≠ 0 then .fault argFault
      else
        Res.parkOn (withPlaces false false v s .load true a.toNat 8 fun s locs =>
          if leNat (readLocs s locs) = 0 then .ok s (heldStop v {})
          else
            match findTask s v.n (v.answered.contains .home) with
            | .none => .hold .join (.counter a) id
            | .hold hs => .hold .join (.home []) fun s => setWants s v.n hs
            | .fault x => .fault x
            | .found sp pl k =>
              .ok (modCtx (removeTask s v.n sp pl) v.n fun c => { c with taskn := k.tag })
                { writes := [.x 1 k.arg, .x 2 k.cnt, .x 3 (ctxOf s v.n).taskn, .x 4 v.b.addr], jump := some k.entry
                  stop := true }) .join }

/-- R291: jtest. It reads the counter as `join` does, and while it is held the context is parked on join (DEDUCED, log entries 103 and
104). -/
def opJtest (f : RRR) : Op :=
  { srcs := [f.a], dests := dstS f.d
    run := fun v s =>
      if (v.arg 0).toNat % 8 ≠ 0 then .fault argFault
      else
        Res.parkOn (withPlaces false false v s .load true (v.arg 0).toNat 8 fun s locs =>
          .ok s (heldStop v (landS v.c f.d (word (leNat (readLocs s locs))) 1))) .join }

/-- R292: the range-table entries of a task are freed. -/
def freeRanges (s : State) (tile : Nat) (tag : Word) : State :=
  if tagRng tag ∧ bits tag.toNat 39 32 = tile then
    modTile s tile fun t => { t with ranges := t.ranges.filter fun r => r.fnum != tagFnum tag }
  else s

/-- R292: tend. While it is held the context is parked on join (DEDUCED, log entry 104). -/
def opTend (f : RRR) : Op :=
  { srcs := [f.a, f.b, f.c]
    run := fun v s =>
      let tag := (ctxOf s v.n).taskn
      if tag = BitVec.allOnes 64 ∨ (v.arg 0).toNat % 8 ≠ 0 then .fault argFault
      else
        Res.parkOn (withCounter v s (v.arg 0) (2 ^ 64 - 1) fun s =>
          let s := modCtx (freeRanges s (tileOf v.n) tag) v.n fun c => { c with taskn := v.arg 1 }
          let s := wakeJoiners s
          if v.arg 2 = 0 then .ok s { taken := true, after := some fun s => applyReclaim (modCtx (landEvery s v.n) v.n goIdle) v.n }
          else .ok s (heldStop v { jump := some (v.arg 2) })) .join }

/-- R290: an idle context starts a task. -/
def startTask (c : Ctx) (k : Task) : Ctx :=
  let prev := c.taskn
  let c := putX (putX (putX (putX c 1 k.arg) 2 k.cnt) 3 prev) 4 0
  { c with phase := .live, why := .none, wait := .nothing, idle := .no, taskn := k.tag, pc := codeTarget k.entry, fbuf := [] }

/-- TASK_TAKE: an idle context takes the first task that it finds; one parked in `join` looks again; none on a dead spindle does (R415). A memory deque that
cannot be read holds no task for an idle context (DESIGN CHOICE, log entry 21). -/
def execTaskTake (n : Nat) (s : State) : Host.Outcome State Fault Refusal :=
  .next <|
    let c := ctxOf s n
    if (spinAt s (spindleOf n)).dead then s
    else if c.phase = .parked ∧ c.idle = .idle then
      match findTask s n true with
      | .found sp pl k => modCtx (removeTask (setWants s n []) n sp pl) n fun c => startTask c k
      | .hold hs => setWants s n hs
      | _ => s
    else
      match c.wait with
      | .counter _ => modCtx s n wake
      | _ => s

/-! ## The instructions, each issued by the current context alone in its bundle -/
def execFork (f : RRR) (s : State) : Host.Outcome State Fault Refusal := issueOne (f.pack 0xD6) (opFork f) s
def execForkR (f : RRR) (s : State) : Host.Outcome State Fault Refusal := issueOne (f.pack 0xD7) (opForkR f) s
def execJoin (f : RRR) (s : State) : Host.Outcome State Fault Refusal := issueOne (f.pack 0xD8) (opJoin f) s
def execJtest (f : RRR) (s : State) : Host.Outcome State Fault Refusal := issueOne (f.pack 0xD9) (opJtest f) s
def execTend (f : RRR) (s : State) : Host.Outcome State Fault Refusal := issueOne (f.pack 0xEE) (opTend f) s

end Sys2Proof.Machine
end

