-- ==== Sys2Proof/Machine/Channels.lean ====
section
/-! DEFINITION. Channels as instructions bind and read them (R293 to R296), active messages (R297 to R301), and the events
PEER_SPINDLE_ANSWER, MESSAGE_ARRIVE and AMSEND_ANSWER. -/
namespace Sys2Proof.Machine

/-- R344: whether two contexts lie in one partition. -/
def samePart (s : State) (n m : Nat) : Bool :=
  decide (m < numContexts) && (partOfTile s (tileOf m)).isSome && partOfTile s (tileOf n) == partOfTile s (tileOf m)

/-- R294 to R296: the channel that mod names. -/
def chNum (f : RRR) : Nat := bits f.md.toNat 3 0

/-- A context parked on one of its channels looks again. -/
def wakeChannel (c : Ctx) (k : Nat) : Ctx := if c.wait = .channel k then wake c else c

/-- R294: a context binds its channel; when the peer has bound it back, both ends are established. -/
def bindChannel (s : State) (n k peer m : Nat) : State × Word :=
  let e := getCh (ctxOf s peer) m
  let both := (peer == n && m == k) || (e.st == .waiting && e.peer == n && e.pch == k)
  if both then
    let s := modCtx s peer fun c => wakeChannel (putCh c m { e with st := .established, peer := n, pch := k }) m
    (modCtx s n fun c => putCh c k { getCh c k with st := .established, peer := peer, pch := m }, 0)
  else (modCtx s n fun c => putCh c k { getCh c k with st := .waiting, peer := peer, pch := m }, 11)

/-- R294: chbind, parked on channel while it is held (DEDUCED, log entry 104); R415: a peer whose spindle is dead answers BUSY. -/
def opChbind (f : RRR) : Op :=
  { srcs := [f.a], dests := dstS f.d
    run := fun v s =>
      let a := (v.arg 0).toNat
      let peer := bits a 14 0
      if bits a 63 20 ≠ 0 ∨ bit a 15 ∨ !samePart s v.n peer ∨ (getCh (ctxOf s v.n) (chNum f)).st ≠ .unbound then .fault argFault
      else if !v.answered.contains .peer then .hold .channel .peer id
      else if (spinAt s (spindleOf peer)).dead then .ok s (heldStop v (landS v.c f.d 2 1))
      else
        match (ctxOf s peer).phase with
        | .free => .ok s (heldStop v (landS v.c f.d 6 1))
        | .reaped => .ok s (heldStop v (landS v.c f.d 5 1))
        | _ =>
          let (s, st) := bindChannel s v.n (chNum f) peer (bits a 19 16)
          .ok s (heldStop v (landS v.c f.d st 1)) }

/-- R295: the end becomes unbound, the peer's end gone. -/
def unbindChannel (s : State) (n k : Nat) : State :=
  let e := getCh (ctxOf s n) k
  let s := modCtx s e.peer fun c =>
    let x := getCh c e.pch
    if x.peer = n ∧ x.pch = k ∧ (x.st = .established ∨ x.st = .waiting) then wakeChannel (putCh c e.pch { x with st := .gone }) e.pch
    else c
  modCtx s n fun c => putCh c k Channel.none

/-- R293, R295: the end of a context bound to itself is unbound after the results of its bundle have landed, so that a word that another
operation of the bundle pushes to it is counted. -/
def unbindOwn (s : State) (n k : Nat) (slot : Slot) (d : BitVec 9) : State :=
  let s := landEvery s n
  let count := (getCh (ctxOf s n) k).queue.length
  landEvery (queueEff (unbindChannel s n k) n (slot, landS (ctxOf s n) d (word count) 1)) n

/-- R295: chunbind, parked on channel while it is held (DEDUCED, log entry 104). Pushes that have passed issue at the peer land first. -/
def opChunbind (f : RRR) : Op :=
  { dests := dstS f.d
    run := fun v s =>
      let k := chNum f
      let e := getCh (ctxOf s v.n) k
      if e.st = .unbound then .ok s (landS v.c f.d 0 1)
      else if !v.answered.contains .peer then .hold .channel .peer id
      -- R415: BUSY, and the end stays as it is
      else if (spinAt s (spindleOf e.peer)).dead then .ok s (heldStop v (landS v.c f.d 2 1))
      else if e.peer = v.n then
        .ok s (heldStop v { sets := [(0, physX v.c f.d.toNat, 0)], after := some fun s => unbindOwn s v.n k v.slot f.d })
      else
        let s := if pendingPushes (ctxOf s e.peer) e.pch = 0 then s else landEvery s e.peer
        let count := (getCh (ctxOf s v.n) k).queue.length
        .ok (unbindChannel s v.n k) (heldStop v (landS v.c f.d (word count) 1)) }

/-- R296: the code of a channel's state. -/
def chCode (x : ChState) : Nat :=
  match x with
  | .unbound => 0 | .waiting => 1 | .established => 2 | .gone => 3
/-- R296: chstat. -/
def opChstat (f : RRR) : Op :=
  { dests := dstS f.d
    run := fun v s =>
      let e := getCh v.c (chNum f)
      let room := if e.st = .established then chanRoom s v.c (chNum f) else 0
      .ok s (landS v.c f.d (word (e.queue.length + room * 16 + chCode e.st * 256)) 1) }

/-- PEER_SPINDLE_ANSWER: the peer's spindle answers a held operation. -/
def execPeerSpindleAnswer (n : Nat) (s : State) : Host.Outcome State Fault Refusal :=
  .next <| modCtx s n fun c => if c.wait = .peer then wake { c with answered := .peer :: c.answered } else c

/-! ## Messages (R297 to R301) -/

/-- R298: the destination, its mailbox, and the sender's mailbox for a refusal; F_ARG. -/
def msgDest (v : View) (s : State) : Except FaultInfo (Nat × Nat × Nat) :=
  let a := (v.arg 0).toNat
  if bits a 63 20 ≠ 0 ∨ bit a 15 ∨ !samePart s v.n (bits a 14 0) then .error argFault
  else .ok (bits a 14 0, bits a 17 16, bits a 19 18)

/-- A message is sent. -/
def sendMsg (s : State) (n : Nat) (dest : Nat × Nat × Nat) (p0 p1 : Word) (waiting : Bool) : State :=
  { s with flights := s.flights ++ [⟨n, dest.1, dest.2.1, dest.2.2, p0, p1, waiting, false, none⟩] }

/-- R298: amsend. -/
def opAmsend (f : RRR) : Op :=
  { srcs := [f.a, f.b, f.c], dests := dstS f.d
    run := fun v s =>
      match msgDest v s with
      | .error e => .fault e
      | .ok dest =>
        if 16 ≤ (ctxOf s v.n).sends then .hold .mailbox .answer id
        else
          .ok (sendMsg (modCtx s v.n fun c => { c with sends := c.sends + 1 }) v.n dest (v.arg 1) (v.arg 2) false)
            (landS v.c f.d 0 1) }

/-- R298: the status that answered an `amsend.w`. -/
def msgStatus (as : List Answer) : Option Nat := as.findSome? fun a => match a with | .message st => some st | _ => none

/-- R298: amsend.w. -/
def opAmsendW (f : RRR) : Op :=
  { srcs := [f.a, f.b, f.c], dests := dstS f.d
    run := fun v s =>
      match msgDest v s with
      | .error e => .fault e
      | .ok dest =>
        match msgStatus v.answered with
        | some st => .ok s (heldStop v (landS v.c f.d (word st) 1))
        | none =>
          if s.flights.any fun x => x.src == v.n && x.waiting && !x.orphan then .hold .mailbox .answer id
          else .hold .mailbox .answer fun s => sendMsg s v.n dest (v.arg 1) (v.arg 2) true }

/-- A context parked on a mailbox looks again. -/
def wakeMail (c : Ctx) (k : Nat) : Ctx :=
  match c.wait with
  | .mailbox mask _ => if bit mask k then wake c else c
  | _ => c

/-- R297: a message reaches its destination: delivered, or refused with a status. -/
def deliverMsg (s : State) (f : Flight) : State × Nat :=
  let c := ctxOf s f.dst
  match c.phase with
  | .free => (s, 6)
  | .reaped => (s, 5)
  | _ =>
    let b := getMb c f.mb
    if 64 ≤ b.msgs.length then (s, 1)
    else (setCtx s f.dst (wakeMail (putMb c f.mb { b with msgs := b.msgs ++ [⟨f.p0, f.p1, f.src⟩] }) f.mb), 0)

/-- R297: the flights of a sender that may arrive next: the oldest to each mailbox. -/
def arrivable (fs : List Flight) (src : Nat) : List Nat :=
  (fs.zipIdx.filter fun e =>
    e.1.src == src && e.1.answer.isNone &&
    !(fs.take e.2).any fun g => g.src == src && g.answer.isNone && g.dst == e.1.dst && g.mb == e.1.mb).map (·.2)

/-- MESSAGE_ARRIVE: a message of a sender reaches its mailbox; which of several is open (R7). -/
def execMessageArrive (n : Nat) (s : State) : Host.Outcome State Fault Refusal :=
  .next <|
    let is := arrivable s.flights n
    match is[Config.freeNat s.freeCount % Nat.max is.length 1]? with
    | none => s
    | some i =>
      match s.flights[i]? with
      | none => s
      | some f =>
        let (s, st) := deliverMsg { s with freeCount := s.freeCount + 1 } f
        if f.orphan then { s with flights := s.flights.eraseIdx i }
        else { s with flights := s.flights.set i { f with answer := some st } }

/-- R298: an answer returns to its sender. -/
def answerSender (s : State) (f : Flight) (st : Nat) : State :=
  modCtx s f.src fun c =>
    if f.waiting then
      let c := { c with answered := .message st :: c.answered }
      if c.wait = .answer then wake c else c
    else
      let c := { c with sends := c.sends - 1 }
      let b := getMb c f.rmb
      let c := if st = 0 then c else wakeMail (putMb c f.rmb { b with refs := b.refs ++ [⟨f.p0, f.p1, f.dst, st⟩] }) f.rmb
      if c.wait = .answer then wake c else c

/-- R297, R394: whether the answer of a flight can return: a refusal waits while the refusal queue for its mailbox holds 16 (DEDUCED,
log entry 59), and any answer until what it brought about is in the save area of its destination. -/
def answerable (s : State) (f : Flight) : Bool :=
  match f.answer with
  | none => false
  | some st => smGet [] s.lag f.dst == [] && (f.waiting || st == 0 || decide ((getMb (ctxOf s f.src) f.rmb).refs.length < 16))

/-- AMSEND_ANSWER: an answer returns to a sender; which of several is open (R7). -/
def execAmsendAnswer (n : Nat) (s : State) : Host.Outcome State Fault Refusal :=
  .next <|
    let is := (s.flights.zipIdx.filter fun e => e.1.src == n && answerable s e.1).map (·.2)
    match is[Config.freeNat s.freeCount % Nat.max is.length 1]? with
    | none => s
    | some i =>
      match s.flights[i]? with
      | none => s
      | some f => answerSender { s with flights := s.flights.eraseIdx i, freeCount := s.freeCount + 1 } f (f.answer.getD 0)

/-- R299: x3 of a dispatch. -/
def dispatchWord (k who : Nat) (ref : Bool) (st : Nat) : Word :=
  word (who % 2 ^ 15 + k * 2 ^ 16 + (if ref then 2 ^ 31 else 0) + st * 2 ^ 32)

/-- R299: what a mailbox gives: the oldest refusal, else the oldest message: P0, P1, x3, and the mailbox after. -/
def takeMail (b : Mailbox) (k : Nat) : Option (Word × Word × Word × Mailbox) :=
  match b.refs, b.msgs with
  | r :: rs, _ => some (r.p0, r.p1, dispatchWord k r.dest true r.status, { b with refs := rs })
  | [], m :: ms => some (m.p0, m.p1, dispatchWord k m.sender false 0, { b with msgs := ms })
  | [], [] => none

/-- R299: amrecv. The registers x1 to x4 that it writes, x4 with the link, are no destinations of a field: they enter no latch and clash
with no other operation of the bundle (DEDUCED, log entry 100). -/
def opAmrecv (f : RRI) : Op :=
  { run := fun v s =>
      let mask := bits f.imm.toNat 3 0
      let c := ctxOf s v.n
      if c.handler then .fault argFault
      else
        match (List.range 4).find? fun k => bit mask k && (takeMail (getMb c k) k).isSome with
        | none => if bit f.imm.toNat 4 then .hold .mailbox (.mailbox mask none) id else .ok s (heldStop v {})
        | some k =>
          let h := ((launchOf s v.n).map fun l => l.handlers.getD k 0).getD 0
          if h = 0 then .fault argFault
          else
            match takeMail (getMb c k) k with
            | none => .ok s {}
            | some (p0, p1, x3, b) =>
              .ok (setCtx s v.n { putMb c k b with handler := true })
                { writes := [.x 1 p0, .x 2 p1, .x 3 x3, .x 4 v.next], jump := some h, stop := true } }

/-- R300: amret. -/
def opAmret (f : RRR) : Op :=
  { srcs := [f.a]
    run := fun v s =>
      if (ctxOf s v.n).handler then .ok (modCtx s v.n fun c => { c with handler := false }) { jump := some (v.arg 0) }
      else .fault argFault }

/-- R301: mbstat. -/
def opMbstat (f : RRI) : Op :=
  { dests := dstS f.d
    run := fun v s =>
      let b := getMb (ctxOf s v.n) (bits f.imm.toNat 1 0)
      .ok s (landS v.c f.d (word (b.msgs.length + b.refs.length * 256)) 1) }

/-! ## The instructions, each issued by the current context alone in its bundle -/
def execChbind (f : RRR) (s : State) : Host.Outcome State Fault Refusal := issueOne (f.pack 0xDA) (opChbind f) s
def execChunbind (f : RRR) (s : State) : Host.Outcome State Fault Refusal := issueOne (f.pack 0xDB) (opChunbind f) s
def execChstat (f : RRR) (s : State) : Host.Outcome State Fault Refusal := issueOne (f.pack 0xDC) (opChstat f) s
def execAmsend (f : RRR) (s : State) : Host.Outcome State Fault Refusal := issueOne (f.pack 0xDD) (opAmsend f) s
def execAmsendW (f : RRR) (s : State) : Host.Outcome State Fault Refusal := issueOne (f.pack 0xDE) (opAmsendW f) s
def execAmrecv (f : RRI) (s : State) : Host.Outcome State Fault Refusal := issueOne (f.pack 0xDF) (opAmrecv f) s
def execAmret (f : RRR) (s : State) : Host.Outcome State Fault Refusal := issueOne (f.pack 0xE0) (opAmret f) s
def execMbstat (f : RRI) (s : State) : Host.Outcome State Fault Refusal := issueOne (f.pack 0xE1) (opMbstat f) s

end Sys2Proof.Machine
end

