-- ==== Sys2Proof/Machine/Futures.lean ====
section
/-! DEFINITION. What a context asks of the Chuck: futures (R302 to R304), sequences (R309 to R311), adapters (R313, R314), and
the event CHUCK_ANSWER (R271). -/
namespace Sys2Proof.Machine

/-- CHUCK_ANSWER: the Chuck answers a held operation. -/
def execChuckAnswer (n : Nat) (s : State) : Host.Outcome State Fault Refusal :=
  .next <| modCtx (setWants s n []) n fun c =>
    if c.wait = .chuck then wake { c with answered := .chuck :: c.answered.filter (· != .chuck) } else c

/-- The i-th dword of a byte string. -/
def dwordAt (bs : List Byte) (i : Nat) : Nat := leNat ((bs.drop (8 * i)).take 8)

/-! ## Futures (R303, R304) -/

/-- R303: whether a call record is malformed. -/
def callBad (r : List Byte) : Bool :=
  bits (dwordAt r 0) 63 16 != 0 || bits (dwordAt r 2) 63 32 != 0 || bits (dwordAt r 4) 63 32 != 0 ||
  dwordAt r 5 != 0 || dwordAt r 6 != 0 || dwordAt r 7 != 0

/-- R303: the future that a call opens. -/
def callFut (s : State) (pnum n : Nat) (timeout : Nat) (r : List Byte) : Fut :=
  { st := .opened, part := pnum, tag := 0, deadline := s.time + timeout, openedAt := s.time, creator := some n, seq := none
    tool := dwordAt r 0, arga := word (dwordAt r 1), argl := word (dwordAt r 2), rpla := word (dwordAt r 3)
    rplc := word (dwordAt r 4) }

/-- R303: fcall. -/
def opFcall (f : RRR) : Op :=
  { srcs := [f.a, f.b], dests := dstS f.d
    run := fun v s =>
      let a := (v.arg 0).toNat
      let t := (v.arg 1).toNat
      if a % 64 ≠ 0 ∨ t = 0 ∨ 2 ^ 40 ≤ t then .fault argFault
      else
        Res.parkOn (withPlaces false false v s .load false a 64 fun s locs =>
          let r := readLocs s locs
          if callBad r then .fault argFault
          else
            withChuck v fun _ =>
              let pnum := partOfCtx s v.n
              match (partAt s pnum).bind (pickFuture s) with
              | none => .ok s (heldStop v (landS v.c f.d (word (2 ^ 63 + 1)) 1))
              | some i => .ok (openFut s i (callFut s pnum v.n t r)) (heldStop v (landS v.c f.d (futHandle pnum i) 1))) .future }

/-- R304: the future of a handle that the issuing context's `fcall` created and that is not yet dropped. -/
def ownFut (s : State) (n : Nat) (h : Word) : Option Fut :=
  if handleOk h ∧ handlePart h = partOfCtx s n then
    match futAt s (handleIndex h) with
    | some f => if f.creator = some n ∧ f.part = handlePart h then some f else none
    | none => none
  else none

/-- R304: fwait. -/
def opFwait (f : RRR) : Op :=
  { srcs := [f.a], dests := dstS f.d
    run := fun v s =>
      withChuck v fun _ =>
        match ownFut s v.n (v.arg 0) with
        | none => .ok s (heldStop v (landS v.c f.d 5 1))
        | some x =>
          match x.st with
          | .ended st => .ok s (heldStop v (landS v.c f.d (word st) 1))
          | _ => .hold .future (.future (v.arg 0)) id }
/-- R304: fpoll. -/
def opFpoll (f : RRR) : Op :=
  { srcs := [f.a], dests := dstS f.d
    run := fun v s =>
      withChuck v fun _ =>
        let st := match ownFut s v.n (v.arg 0) with
          | none => 5
          | some x => match x.st with | .ended st => st | _ => 10
        .ok s (heldStop v (landS v.c f.d (word st) 1)) }
/-- R304: fdrop. -/
def opFdrop (f : RRR) : Op :=
  { srcs := [f.a], dests := dstS f.d
    run := fun v s =>
      withChuck v fun _ =>
        match ownFut s v.n (v.arg 0) with
        | none => .ok s (heldStop v (landS v.c f.d 5 1))
        | some _ => .ok (freeFut s (handleIndex (v.arg 0))) (heldStop v (landS v.c f.d 0 1)) }

/-! ## Sequences (R309 to R311) -/

/-- R309: a sequence put behind those of a list that have waited as long or longer. -/
def byAge (e : Nat × Seq) : List (Nat × Seq) → List (Nat × Seq)
  | [] => [e]
  | x :: xs => if x.2.age ≤ e.2.age then x :: byAge e xs else e :: x :: xs

/-- R309: the sequences that a batch may select, oldest first. -/
def batchable (s : State) (pnum take : Nat) : List (Nat × Seq) :=
  ((s.seqs.filter fun e =>
    e.2.part == pnum && e.2.holder.isNone &&
    ((e.2.st == .ready && bit take 0) || (e.2.st == .prefill && bit take 1)))).foldl (fun l e => byAge e l) []

/-- R309: the expert slot installed for an adapter at the lowest layer. -/
def adapterSlot (s : State) (a : Nat) : Option Nat :=
  (((s.experts.filter fun e => e.2.owner == a + 1 && smGet 0 s.owners e.1 == a + 1).foldl
    (fun (b : Option (Nat × Nat)) e => match b with
      | some x => if e.2.layer < x.1 then some (e.2.layer, e.1) else b
      | none => some (e.2.layer, e.1)) none)).map (·.2)

/-- R309, R360: the field NPF of a count of prefill tokens; for a full queue of 2^24 the spec gives no value (log entry 102). -/
def npfOf (count : Nat) : Nat := if count < 2 ^ 24 then count else (Config.fullNpf count).toNat
/-- R309: a row. -/
def batchRow (s : State) (n : Nat) (q : Seq) : List Byte :=
  let slot := q.adapter.bind (adapterSlot s)
  let d0 := n + (if q.st = .ready then 1 else 2) * 2 ^ 20 + (if q.trunc then 2 ^ 22 else 0) +
    (if q.adapter.isSome then 2 ^ 23 else 0) + slot.getD 0 * 2 ^ 24 + (if slot.isSome then 2 ^ 34 else 0) + q.tenant * 2 ^ 48
  leBytes 8 d0 ++ leBytes 8 (q.pos + npfOf q.pf.count * 2 ^ 24)

/-- R308, R309: sequences are selected until the rows are full: batched with a row, or adapter-absent with a request. -/
def selectSeqs (s : State) (ctx : Nat) : Nat → List (Nat × Seq) → List (List Byte) → State × List (List Byte)
  | _, [], rows => (s, rows)
  | 0, _, rows => (s, rows)
  | k + 1, (n, q) :: qs, rows =>
    if q.adapter.all fun a => s.resident.contains a then
      selectSeqs (setSeq s n { q with holder := some ctx }) ctx k qs (rows ++ [batchRow s n q])
    else
      selectSeqs (post (moveSeq s n q .absent) q.part 4 (word (q.adapter.getD 0)) 0) ctx (k + 1) qs rows

/-- R309: sq.batch. -/
def opSqBatch (f : RRR) : Op :=
  { srcs := [f.a, f.b, f.c], dests := dstS f.d
    run := fun v s =>
      let a := (v.arg 0).toNat
      let b := (v.arg 1).toNat
      let c := (v.arg 2).toNat
      if a % 16 ≠ 0 ∨ b = 0 ∨ 128 < b ∨ c = 0 ∨ 4 ≤ c then .fault argFault
      else
        Res.parkOn (withMapped v s .store a (16 * b) fun s locs =>
          withChuck v fun _ =>
            let (s, rows) := selectSeqs s v.n b (batchable s (partOfCtx s v.n) c) []
            .ok (storeLocs s (locs.take (16 * rows.length)) (rows.flatMap id))
              (heldStop v (landS v.c f.d (word rows.length) 1))) .future }

/-- R310: whether an input row is malformed. -/
def emitBad (d : Nat) : Bool := bits d 31 22 != 0 || (bit d 20 && bit d 21)
/-- R310: the status dword of a row. -/
def emitStatus (st : Nat) (call oqf merr : Bool) (fut : Nat) : Nat :=
  st + (if call then 2 ^ 8 + fut % 2 ^ 20 * 2 ^ 20 else 0) + (if oqf then 2 ^ 9 else 0) + if merr then 2 ^ 10 else 0

/-- R308: the output queue after a token, and what is written; none when the write fails. -/
def emitToken (s : State) (q : Seq) (tok : Nat) : Option (State × Seq) :=
  (chuckWrite s q.part (q.out.base + 4 * q.out.tail) (leBytes 4 tok)).map fun s =>
    (s, { q with out := { q.out with count := q.out.count + 1 } })

/-- R307: whether a token is a call token of a partition. -/
def isCallToken (p : Part) (tok : Nat) : Bool := decide (p.ctlo ≤ tok) && decide (tok ≤ p.cthi)

/-- R308: a sequence to be retired that its batch releases in calling. -/
def retireReleased (s : State) (n : Nat) : State :=
  match seqAt s n with
  | some q => if q.retiring then retireSeq (setSeq s n { q with retiring := false }) n { q with retiring := false } else s
  | none => s

/-- R308, R310: one row of `sq.emit` takes effect: the state and its status dword. -/
def emitRow (s : State) (ctx d : Nat) : State × Nat :=
  let n := bits d 19 0
  let tok := bits d 63 32
  match seqAt s n with
  | none => (s, emitStatus 5 false false false 0)
  | some q =>
    if q.holder ≠ some ctx then (s, emitStatus 5 false false false 0)
    else if bit d 21 then (releaseSeq s n q, emitStatus 0 false false false 0)
    else if q.out.cap ≤ q.out.count then (releaseSeq s n q, emitStatus 1 false true false 0)
    else
      match emitToken s q tok, partAt s q.part with
      | some (s', q'), some p =>
        if bit d 20 then
          (moveSeq s' n { q' with holder := none, retiring := false } .retired, emitStatus 0 false false false 0)
        else if isCallToken p tok then
          match pickFuture s p with
          | none => (releaseSeq s n q, emitStatus 1 false false false 0)
          | some i =>
            let fut : Fut := { st := .opened, part := q.part, tag := 0, deadline := s.time + p.cto, openedAt := s.time
                               creator := none, seq := some n, tool := tok - p.ctlo, arga := word q.out.base
                               argl := word q.out.tail, rpla := 0, rplc := 0 }
            let s' := openFut (moveSeq s' n { q' with holder := none, fut := some i } .calling) i fut
            (retireReleased s' n, emitStatus 0 true false false (futHandle q.part i).toNat)
        else (releaseSeq s' n q', emitStatus 0 false false false 0)
      | _, _ => (releaseSeq s n q, emitStatus 1 false true true 0)

/-- R310: the rows take effect in ascending order. -/
def emitRows (s : State) (ctx : Nat) : List Nat → State × List Nat
  | [] => (s, [])
  | d :: ds =>
    let (s, st) := emitRow s ctx d
    let (s, sts) := emitRows s ctx ds
    (s, st :: sts)

/-- R194: the home lines that rows are to write and against which leases are held. -/
def emitWaits (s : State) (ctx : Nat) (ds : List Nat) : List Nat :=
  ds.flatMap fun d =>
    match seqAt s (bits d 19 0) with
    | some q => if q.holder = some ctx ∧ !bit d 21 then q.out.waits s 1 else []
    | none => []
/-- R194, R271: an operation is held on while leases on home lines stand against it. -/
def untilFree (v : View) (ls : List Nat) (k : Res) : Res :=
  match ls with
  | [] => k
  | _ => .hold .future .chuck fun s => setWants s v.n ls

/-- R310: sq.emit. -/
def opSqEmit (f : RRR) : Op :=
  { srcs := [f.a, f.b], dests := dstS f.d
    run := fun v s =>
      let a := (v.arg 0).toNat
      let b := (v.arg 1).toNat
      if a % 16 ≠ 0 ∨ b = 0 ∨ 128 < b then .fault argFault
      else
        Res.parkOn (withMapped v s .amo a (16 * b) fun s locs =>
          let bs := readLocs s locs
          let rows := (List.range b).map fun i => dwordAt bs (2 * i)
          if rows.any emitBad then .fault argFault
          else
            withChuck v fun _ =>
             untilFree v (emitWaits s v.n rows) <|
              let (s, sts) := emitRows s v.n rows
              let s := sts.zipIdx.foldl (fun s e => storeLocs s ((locs.drop (16 * e.2 + 8)).take 8) (leBytes 8 e.1)) s
              let calls := (sts.filter fun d => bit d 8).length
              .ok s (heldStop v (landS v.c f.d (word calls) 1))) .future }

/-- R361: the addresses of the first k tokens of a queue. -/
def TokQueue.addrs (q : TokQueue) (k : Nat) : List Nat :=
  (List.range k).map fun i => q.base + 4 * ((q.head + i) % Nat.max q.cap 1)
/-- R361: a queue without its first k tokens. -/
def TokQueue.dropN (q : TokQueue) (k : Nat) : TokQueue :=
  { q with head := (q.head + k) % Nat.max q.cap 1, count := q.count - k }
/-- R20, R308, R405: the bytes of tokens of a queue as the Chuck reads them for a partition. -/
def readTokens (s : State) (pnum : Nat) (as : List Nat) : Except FaultInfo (List Byte) :=
  let locs := as.flatMap fun a => (List.range 4).map fun i => Loc.mem (a + i)
  let target : Option (Nat × Nat × Nat) := (partAt s pnum).bind fun p =>
    as.zipIdx.findSome? fun e => (targetFault s p pnum e.1 true false).map fun f => (4 * e.2, f)
  let before := match target with | some (i, _) => locs.take i | none => locs
  match locError s before false, target with
  | some (i, f), _ => .error ⟨0x30, word ((as.getD (i / 4) 0) + i % 4), word f, none, []⟩
  | none, some (i, c, f) => .error ⟨c, word (as.getD (i / 4) 0), word f, none, []⟩
  | none, none => .ok (readLocs s locs)

/-- R311: the result of sq.pfq. -/
def pfqWord (count remain st : Nat) (trunc : Bool) : Word :=
  word (count + remain % 2 ^ 24 * 2 ^ 32 + st * 2 ^ 56 + if trunc then 2 ^ 63 else 0)

/-- R311: sq.pfq. -/
def opSqPfq (f : RRR) : Op :=
  { srcs := [f.a, f.b, f.c], dests := dstS f.d
    run := fun v s =>
      let b := (v.arg 1).toNat
      let c := (v.arg 2).toNat
      if b % 4 ≠ 0 ∨ c = 0 ∨ 65536 < c then .fault argFault
      else
        let n := (v.arg 0).toNat
        let q := (seqAt s n).filter fun q => q.part == partOfCtx s v.n
        match q with
        | none => withChuck v fun _ => .ok s (heldStop v (landS v.c f.d (pfqWord 0 0 5 false) 1))
        | some q =>
          if q.holder ≠ some v.n then
            withChuck v fun _ => .ok s (heldStop v (landS v.c f.d (pfqWord 0 q.pf.count 5 q.trunc) 1))
          else
            let k := Nat.min c q.pf.count
            Res.parkOn (withMapped v s .store b (4 * k) fun s locs =>
              withChuck v fun _ =>
               untilFree v ((((q.pf.addrs k).map (· / 128)).eraseDups).filter fun l => homeConflict s l false) <|
                match readTokens s q.part (q.pf.addrs k) with
                | .error e => .fault e
                | .ok bs =>
                  .ok (setSeq (storeLocs (correct s ((q.pf.addrs k).map .mem)) locs bs) n { q with pf := q.pf.dropN k, trunc := false })
                    (heldStop v (landS v.c f.d (pfqWord k (q.pf.count - k) 0 q.trunc) 1))) .future }

/-! ## Adapters (R313, R314) -/

/-- R313: the owner of an expert slot. -/
def slotOwner (s : State) (i : Nat) : Nat := smGet 0 s.owners i

/-- R313, R345: an owner value: free, or an adapter of the partition plus 1. -/
def ownerOk (p : Part) (o : Nat) : Bool := o == 0 || ownsAdapter p (o - 1)

/-- R313: adp.claim. -/
def opAdpClaim (f : RRR) : Op :=
  { srcs := [f.a, f.b, f.c], dests := dstS f.d
    run := fun v s =>
      let a := (v.arg 0).toNat
      let b := (v.arg 1).toNat
      let c := (v.arg 2).toNat
      let pnum := partOfCtx s v.n
      if 1024 ≤ a ∨ 16384 < b ∨ 16384 < c ∨ !(partAt s pnum).any (fun p => ownsSlot p a) ∨
          !(partAt s pnum).any (fun p => ownerOk p b && ownerOk p c) then .fault argFault
      else
        withChuck v fun _ =>
          let o := slotOwner s a
          if o ≠ b then .ok s (heldStop v (landS v.c f.d (word (4 + o * 2 ^ 16)) 1))
          else if o ≠ 0 ∧ o ≠ c ∧ adapterPinned s pnum (o - 1) then .hold .future .chuck id
          else .ok { s with owners := smSet 0 s.owners a c } (heldStop v (landS v.c f.d (word (c * 2 ^ 16)) 1)) }

/-- R314: a record of a table image: slot and contents. -/
def expertRec (r : List Byte) : Nat × Expert :=
  let d (i : Nat) : Nat := dwordAt r i
  (bits (d 0) 9 0,
   { layer := bits (d 0) 19 10, kind := bits (d 0) 21 20, rank := 8 * 2 ^ bits (d 0) 23 22, owner := bits (d 0) 44 30
     kf := bits (d 1) 31 0, nf := bits (d 1) 63 32, ttag := bits (d 2) 15 0, tmask := bits (d 3) 15 0
     abase := word (d 4), bbase := word (d 5) })

/-- R314, R364: whether a record raises F_ARG. -/
def expertBad (p : Part) (r : List Byte) : Bool :=
  let d (i : Nat) : Nat := dwordAt r i
  let (slot, e) := expertRec r
  bits (d 0) 29 24 != 0 || bits (d 0) 63 45 != 0 || bits (d 2) 63 16 != 0 || bits (d 3) 63 16 != 0 || d 6 != 0 || d 7 != 0 ||
  e.kind == 0 || e.kind == 3 || e.kf % 32 != 0 || e.nf % 64 != 0 || e.abase == 0 ||
  (if e.kind = 1 then e.bbase == 0 else e.bbase != 0 || e.tmask != 0xFFFF) || !ownsSlot p slot || !ownerOk p e.owner

/-- R314: the first record that raises F_ADPTBL: a slot named twice, or an owner that is not the slot's. -/
def expertClash (s : State) (rs : List (Nat × Expert)) : Option Nat :=
  (rs.zipIdx.find? fun e =>
    ((rs.take e.2).any fun x => x.1 == e.1.1) || e.1.2.owner != slotOwner s e.1.1).map (·.2)

/-- R314: whether a batch pins a slot: through the adapter that it is installed for. -/
def slotPinned (s : State) (pnum i : Nat) : Bool :=
  match smFind s.experts i with
  | some e => e.owner != 0 && adapterPinned s pnum (e.owner - 1)
  | none => false

/-- R314: the slots that no batch pins are installed; while one is pinned, the operation is held. -/
def bindLeft (v : View) (s : State) (d : BitVec 9) (nrec : Nat) (left : List (Nat × Expert)) : Res :=
  let pinned (s : State) (e : Nat × Expert) : Bool := slotPinned s (partOfCtx s v.n) e.1
  let install (s : State) : State :=
    { s with experts := (left.filter fun e => !pinned s e).foldl (fun m e => smIns m e.1 e.2) s.experts }
  match left.filter (pinned s) with
  | [] => .ok (install s) (heldStop v (landS v.c d (word nrec) 1))
  | held => .hold .future .chuck fun s =>
      modCtx (install s) v.n fun c =>
        { c with answered := .bind nrec held :: c.answered.filter fun a => !(a matches .bind ..) && a != .chuck }
/-- R314: the records that a held `adp.bind` has still to install, with how many it was given. -/
def View.binding (v : View) : Option (Nat × List (Nat × Expert)) :=
  v.answered.findSome? fun a => match a with | .bind n l => some (n, l) | _ => none

/-- R314: adp.bind. -/
def opAdpBind (f : RRR) : Op :=
  { srcs := [f.a], dests := dstS f.d
    run := fun v s =>
      let a := (v.arg 0).toNat
      if a % 64 ≠ 0 then .fault argFault
      else
        match v.binding with
        | some (h, left) => withChuck v fun _ => bindLeft v s f.d h left
        | none =>
        let pnum := partOfCtx s v.n
        Res.parkOn (withPlaces false false v s .load false a 8 fun s locs =>
          let h := leNat (readLocs s locs)
          if h = 0 ∨ 64 < h then .fault argFault
          else
            withPlaces false false v s .load false (a + 64) (64 * h) fun s locs =>
              let recs := chunks 64 h (readLocs s locs)
              match partAt s pnum with
              | none => .fault argFault
              | some p =>
                if recs.any (expertBad p) then .fault argFault
                else
                  let es := recs.map expertRec
                  match expertClash s es with
                  | some i => .fault ⟨0x24, 0, word i, none, []⟩
                  | none => withChuck v fun _ => bindLeft v s f.d h es) .future }

/-! ## The instructions, each issued by the current context alone in its bundle -/
def execFcall (f : RRR) (s : State) : Host.Outcome State Fault Refusal := issueOne (f.pack 0xE2) (opFcall f) s
def execFwait (f : RRR) (s : State) : Host.Outcome State Fault Refusal := issueOne (f.pack 0xE3) (opFwait f) s
def execFpoll (f : RRR) (s : State) : Host.Outcome State Fault Refusal := issueOne (f.pack 0xE4) (opFpoll f) s
def execFdrop (f : RRR) (s : State) : Host.Outcome State Fault Refusal := issueOne (f.pack 0xE5) (opFdrop f) s
def execSqBatch (f : RRR) (s : State) : Host.Outcome State Fault Refusal := issueOne (f.pack 0xE6) (opSqBatch f) s
def execSqEmit (f : RRR) (s : State) : Host.Outcome State Fault Refusal := issueOne (f.pack 0xE7) (opSqEmit f) s
def execSqPfq (f : RRR) (s : State) : Host.Outcome State Fault Refusal := issueOne (f.pack 0xE8) (opSqPfq f) s
def execAdpClaim (f : RRR) (s : State) : Host.Outcome State Fault Refusal := issueOne (f.pack 0xE9) (opAdpClaim f) s
def execAdpBind (f : RRR) (s : State) : Host.Outcome State Fault Refusal := issueOne (f.pack 0xEA) (opAdpBind f) s

end Sys2Proof.Machine
end

