-- ==== Sys2Proof/Machine/Launches.lean ====
section
/-! DEFINITION. Launch and dispatch as a context asks for them: `launch` (R315), `sdisp.tbl` and `sdisp` (R269, R316, R317). -/
namespace Sys2Proof.Machine

/-- The 16 dwords of a launch record. -/
def recWords (bs : List Byte) : List Word := (List.range 16).map fun i => word (dwordAt bs i)

/-- R315: a launch record enters stream D, which holds 64. -/
def pushD (s : State) (pnum : Nat) (r : List Word) : Option State :=
  match partAt s pnum with
  | none => none
  | some p => if 64 ≤ p.streamD.length then none else some (setPart s pnum { p with streamD := p.streamD ++ [.launch r] })

/-- R315: launch, parked on token while it is held (DEDUCED, log entry 104). -/
def opLaunch (f : RRR) : Op :=
  { srcs := [f.a], dests := dstS f.d
    run := fun v s =>
      let a := (v.arg 0).toNat
      if a % 64 ≠ 0 then .fault argFault
      else
        Res.parkOn (withPlaces false false v s .load false a 128 fun s locs =>
          match pushD s (partOfCtx s v.n) (recWords (readLocs s locs)) with
          | some s => .ok s (heldStop v (landS v.c f.d 0 1))
          | none => .ok s (heldStop v (landS v.c f.d 1 1))) .token }

/-- R269: whether an entry of a bucket table has a reserved bit set. -/
def bucketBad (e : List Byte) : Bool := bits (dwordAt e 3) 63 16 != 0

/-- R316: sdisp.tbl, parked on token while it is held (DEDUCED, log entry 104). -/
def opSdispTbl (f : RRR) : Op :=
  { srcs := [f.a]
    run := fun v s =>
      let a := (v.arg 0).toNat
      if a % 8 ≠ 0 then .fault argFault
      else
        Res.parkOn (withMapped v s .load a 8 fun s locs =>
          let nb := leNat (readLocs s locs)
          if nb = 0 ∨ 256 < nb then .fault argFault
          else
            withMapped v s .load (a + 8) (32 * nb) fun s locs =>
              if (chunks 32 nb (readLocs s locs)).any bucketBad then .fault argFault
              else
                .ok (modCtx s v.n fun c => { c with tbl := smIns c.tbl (bits f.md.toNat 1 0) (v.arg 0) }) (heldStop v {})) .token }

/-- R269: whether the runtime extents lie within an entry's bounds. -/
def bucketFits (shape : Nat → Nat) (e : List Byte) : Bool :=
  decide (shape 0 ≤ bits (dwordAt e 0) 31 0) && decide (shape 1 ≤ bits (dwordAt e 0) 63 32) &&
  decide (shape 2 ≤ bits (dwordAt e 1) 31 0) && decide (shape 3 ≤ bits (dwordAt e 1) 63 32)

/-- R269, R270: the entries of a table from j on, read until one fits; in a sealed launch all are read. -/
def findBucket (v : View) (a : Nat) (all : Bool) (shape : Nat → Nat) :
    Nat → Nat → Option (List Byte) → State → (State → Option (List Byte) → Res) → Res
  | 0, _, got, s, k => k s got
  | n + 1, j, got, s, k =>
    withMapped v s .load (a + 8 + 32 * j) 32 fun s locs =>
      let e := readLocs s locs
      let got := match got with
        | some g => some g
        | none => if bucketFits shape e then some e else none
      if got.isSome && !all then k s got else findBucket v a all shape n (j + 1) got s k

/-- R317: sdisp, parked on token while it is held (DEDUCED, log entry 104). -/
def opSdisp (f : RRI) : Op :=
  { dests := dstS f.d
    run := fun v s =>
      match smFind (ctxOf s v.n).tbl (bits f.imm.toNat 1 0) with
      | none => .fault argFault
      | some a =>
        let shape (i : Nat) : Nat := (smGet 0 v.c.shape i).toNat
        Res.parkOn (withMapped v s .load a.toNat 8 fun s locs =>
          findBucket v a.toNat (isSealed s v.n) shape (bits (leNat (readLocs s locs)) 8 0) 0 none s fun s e =>
            match e with
            | some e =>
              .ok s (heldStop v { landS v.c f.d (word (bits (dwordAt e 3) 15 0)) 1 with jump := some (word (dwordAt e 2)) })
            | none => .ok s (heldStop v (landS v.c f.d (BitVec.allOnes 64) 1))) .token }

/-! ## The instructions, each issued by the current context alone in its bundle -/
def execLaunch (f : RRR) (s : State) : Host.Outcome State Fault Refusal := issueOne (f.pack 0xEB) (opLaunch f) s
def execSdisp (f : RRI) (s : State) : Host.Outcome State Fault Refusal := issueOne (f.pack 0xEC) (opSdisp f) s
def execSdispTbl (f : RRR) (s : State) : Host.Outcome State Fault Refusal := issueOne (f.pack 0xED) (opSdispTbl f) s

end Sys2Proof.Machine
end

