-- ==== Sys2Proof/Machine/Debug.lean ====
section
/-! DEFINITION. What a debugger selects of a context and of its tile (R400), read and written alike by `dbg.rd`, `dbg.wr` and
Learo's RDCTX and WRCTX (R401). -/
namespace Sys2Proof.Machine

/-- R400: a selector. -/
structure Sel where
  ctx : Nat
  space : Nat
  index : Nat
  elem : Nat
  deriving DecidableEq, Repr

/-- R400: the fields of a selector; none when another bit is set. -/
def selOf (w : Word) : Option Sel :=
  let n := w.toNat
  if bits n 7 4 ≠ 0 ∨ bits n 15 12 ≠ 0 ∨ bits n 31 28 ≠ 0 ∨ bits n 63 45 ≠ 0 then none
  else some ⟨bits n 3 0, bits n 11 8, bits n 27 16, bits n 44 32⟩

/-- R400: whether INDEX and ELEM are in range, and the item admits a write. -/
def selOk (c : Ctx) (x : Sel) (wr : Bool) : Bool :=
  let i := x.index
  let e := x.elem
  match x.space with
  | 0 => decide (i < 64) && e == 0
  | 1 => decide (i < 32) && e == 0
  | 2 => cregOk i && e == 0
  | 3 => decide (i < 384) && decide (e < c.lanes)
  | 4 => decide (i < 8) && decide (e < 4)
  | 5 => decide (i < 5) && decide (e < 32) && !wr
  | 6 => decide (i < 4) && decide (e < 1024)
  | 7 => decide (i < 8) && decide (e < 8192)
  | 8 => decide (i < 32) && e == 0 && !wr
  | 9 => decide (i < 16) && decide (e < 8) && !wr
  | _ => false

/-- R43, R400: dword e of a latch: two lanes of a vector result. -/
def latchDword (q : QVal) (e : Nat) : Word :=
  match q with
  | .scalar w => if e = 0 then w else 0
  | .vector ls => word ((ls.getD (2 * e) 0).toNat + (ls.getD (2 * e + 1) 0).toNat * 2 ^ 32)

/-- R400: SPACE 8: a token binding. -/
def tokWord (b : Option TokBind) : Word :=
  match b with
  | none => 0
  | some b => word (bits b.bpc.toNat 56 1 * 2 + (if b.done then 1 else 0) + b.q * 2 ^ 57)

/-- R400: the value selected. For a context whose service bank is in place, SPACE 0, 1 and 5 are the program's values. -/
def selRead (s : State) (n : Nat) (x : Sel) : Word :=
  let c := ctxOf s n
  let i := x.index
  let e := x.elem
  match x.space with
  | 0 => if c.svc ∧ 1 ≤ i ∧ i ≤ 8 then c.bank.x.getD (i - 1) 0 else getX c i
  | 1 => if (if c.svc ∧ 1 ≤ i ∧ i ≤ 4 then c.bank.p.getLsbD (i - 1) else getP c i) then 1 else 0
  | 2 => cregRead s n c i
  | 3 => (getV c i e).setWidth 64
  | 4 => (getM c i).extractLsb' (64 * e) 64
  | 5 => latchDword (smGet (.scalar 0) (if c.svc then c.bank.q else c.q) i) e
  | 6 => (getSa c i e).setWidth 64
  | 7 => (smGet 0 (tileAt s (tileOf n)).acc (8192 * i + e)).setWidth 64
  | 8 => tokWord (smFind c.tok i)
  | 9 => (getCh c i).queue.getD e 0
  | _ => 0

/-- R400: a value of the bank that holds the program's x1 to x8. -/
def bankX (b : Bank) (i : Nat) (w : Word) : Bank :=
  let xs := (List.range 8).map fun k => if k + 1 = i then w else b.x.getD k 0
  { b with x := if xs = List.replicate 8 0 then [] else xs }

/-- R400: a write of the item selected. -/
def selWrite (s : State) (n : Nat) (x : Sel) (w : Word) : State :=
  let i := x.index
  let e := x.elem
  let on (f : Ctx → Ctx) : State := modCtx s n f
  match x.space with
  | 0 => on fun c => if c.svc ∧ 1 ≤ i ∧ i ≤ 8 then { c with bank := bankX c.bank i w } else putX c i w
  | 1 => on fun c =>
      if c.svc ∧ 1 ≤ i ∧ i ≤ 4 then
        let m := BitVec.ofNat 4 (2 ^ (i - 1))
        { c with bank := { c.bank with p := (c.bank.p &&& ~~~m) ||| (if w.getLsbD 0 then m else 0) } }
      else putP c i (w.getLsbD 0)
  | 2 => cregWrite s n i w
  | 3 => on fun c => putV c i e (w.setWidth 32)
  | 4 => on fun c =>
      putM c i ((getM c i &&& ~~~(BitVec.ofNat 256 ((2 ^ 64 - 1) * 2 ^ (64 * e)))) ||| (w.setWidth 256 <<< (64 * e)))
  | 6 => on fun c => putSa c i e (w.setWidth 32)
  | 7 => modTile s (tileOf n) fun t => { t with acc := smSet 0 t.acc (8192 * i + e) (w.setWidth 32) }
  | _ => s

/-- R55, R400: the registers that a write of an item of the issuing context names. -/
def selPlaces (c : Ctx) (x : Sel) : List (Nat × Nat × Nat) :=
  match x.space with
  | 0 => if c.svc ∧ 1 ≤ x.index ∧ x.index ≤ 8 then [] else [(0, x.index, 0)]
  | 1 => if c.svc ∧ 1 ≤ x.index ∧ x.index ≤ 4 then [] else [(1, x.index, 0)]
  | 2 => cregPlaces x.index
  | 3 => [(2, x.index, 0)]
  | 4 => [(3, x.index, 0)]
  | 6 => [(5, x.index, 0)]
  | _ => []

/-- R400: the status for a target. `self` tells whether the issuing context is the target. -/
def selStatus (s : State) (n : Nat) (self : Bool) (x : Sel) (wr : Bool) : Nat :=
  if isSealed s n ∧ (x.space = 7 ∨ !self) then 5
  else if x.space = 7 then (if (tileAt s (tileOf n)).tensor.running then 2 else 0)
  else if self then 0
  else
    match (ctxOf s n).phase with
    | .free => 6
    | .parked | .inService => 0
    | .reaped => if wr then 5 else 0
    | .live | .saved => 2

/-- R400: the destinations of an operation that writes x(d) and x(d + 1). -/
def dstPair (d : BitVec 9) : List Dst := dstS d ++ dstS (d + 1)
/-- R400: a status, and a value where there is one. The slot's latch takes the first register's value, the status (DEDUCED, log entry
100). -/
def landPair (c : Ctx) (d : BitVec 9) (st : Word) (value : Option Word) : Eff :=
  { landS c d st 1 with
    writes := .x (physX c d.toNat) st :: (match value with | some w => [.x (physX c (d.toNat + 1)) w] | none => []) }

/-- R400: what `dbg.rd` and `dbg.wr` select; F_ARG. -/
def withSel (v : View) (s : State) (wr : Bool) (k : Nat → Sel → Nat → Res) : Res :=
  match selOf (v.arg 0) with
  | none => .fault argFault
  | some x =>
    let n := if x.space = 7 then v.n else ctxNum (spindleOf v.n) x.ctx
    if selOk (ctxOf s n) x wr then k n x (selStatus s n (n == v.n) x wr) else .fault argFault

/-- R400: dbg.rd. -/
def opDbgRd (f : RRR) : Op :=
  { srcs := [f.a], dests := dstPair f.d, service := true
    run := fun v s =>
      withSel v s false fun n x st => .ok s (landPair v.c f.d (word st) (if st = 0 then some (selRead s n x) else none)) }
/-- R400: dbg.wr. -/
def opDbgWr (f : RRR) : Op :=
  { srcs := [f.a, f.b], dests := dstS f.d, service := true
    run := fun v s =>
      withSel v s true fun n x st =>
        let e := landS v.c f.d (word st) 1
        .ok s (if st = 0 then { e with sets := (if n = v.n then selPlaces v.c x else []), late := some fun s => selWrite s n x (v.arg 1), stop := true } else e) }

/-! ## The instructions, each issued by the current context alone in its bundle -/
def execDbgRd (f : RRR) (s : State) : Host.Outcome State Fault Refusal := issueOne (f.pack 0xFD) (opDbgRd f) s
def execDbgWr (f : RRR) (s : State) : Host.Outcome State Fault Refusal := issueOne (f.pack 0xFE) (opDbgWr f) s

end Sys2Proof.Machine
end

