-- ==== Sys2Proof/Machine/System.lean ====
section
/-! DEFINITION. The system operations: traps and the return from service (R383, R397), `pctl` (R387), `ctxkill` (R396), `wpset`
(R398), `xinv`, `kvinv`, `asid.set`, `asid.ret` (R331, R332, R340 to R343), and the event ASID_SWEEP_DONE. -/
namespace Sys2Proof.Machine

/-! ## Traps and returns -/

/-- R397, R378: `trap`: a service entry of kind TRAP, after the bundle's other operations; in service it is nested. -/
def takeTrap (s : State) (n : Nat) (imm : Word) : State :=
  let c := ctxOf s n
  if c.svc then nestedFault s n 0xF0 0 2 ⟨0x01, 0, imm, none, []⟩ c.pc
  else enterService s n 2 (fcauseWord 0xF0 false 0 2 0x01) c.pc 0 imm
def opTrap (f : RI) : Op := { run := fun v s => .ok s { after := some fun s => takeTrap s v.n (f.imm.setWidth 64) } }

/-- R397: bkpt; any other fault of its bundle comes before its own. -/
def opBkpt (f : RI) : Op := { run := fun _ s => .ok s { last := some ⟨0x02, 0, f.imm.setWidth 64, none, []⟩ } }

/-- R382, R383: the return from service; a pending request is entered before any bundle issues. -/
def returnService (s : State) (n : Nat) : State :=
  let s := returnFrom (landEvery s n) n true
  if hasRequest (ctxOf s n) then enterPending s n else s
def opRfs (_ : RRR) : Op := { service := true, run := fun v s => .ok s { after := some fun s => returnService s v.n } }

/-! ## pctl (R387) -/

/-- R387: PARK: the exchange is made, and the context parks on fault until a RESUME or a kill. -/
def parkService (s : State) (n : Nat) : State :=
  applyReclaim (modCtx (landEvery s n) n fun c => { park (exchange c) .fault (.service true) with svc := false, held := none, answered := [] }) n

def pctlQ (f : RRI) : Nat := bits f.imm.toNat 11 8

def opPctlQrec (f : RRI) : Op :=
  { srcs := [f.a], dests := dstS f.d, service := true
    run := fun v s =>
      if 4 < (v.arg 0).toNat then .fault argFault
      else .ok s (landS v.c f.d (stopDword s (spindleOf v.n) (pctlQ f) (v.arg 0).toNat) 1) }
def opPctlQskip (f : RRI) : Op :=
  { srcs := [f.a], dests := dstS f.d, service := true
    run := fun v s =>
      let w := (stopvec s v.n).toNat
      if v.arg 0 ≠ 0 then .fault argFault
      else if bit w (pctlQ f) && bit w (32 + pctlQ f) then .ok (skipQueue s (spindleOf v.n) (pctlQ f)) (landS v.c f.d 0 1)
      else .ok s (landS v.c f.d 2 1) }
def opPctlPost (f : RRI) : Op :=
  { srcs := [f.a], dests := dstS f.d, service := true
    run := fun v s =>
      let part := partOfCtx s v.n
      if v.arg 0 = 0 then .ok (post s part 0 (word v.n) (ctxOf s v.n).fcause) (landS v.c f.d 0 1)
      else if v.arg 0 = 1 then .ok (post s part 1 (word (tileOf v.n)) (stopvec s v.n)) (landS v.c f.d 0 1)
      else .fault argFault }
def opPctlPark (f : RRI) : Op :=
  { srcs := [f.a], dests := dstS f.d, service := true
    run := fun v s =>
      if v.arg 0 ≠ 0 then .fault argFault
      else .ok s { landS v.c f.d 0 1 with after := some fun s => parkService s v.n } }

/-! ## ctxkill (R396) -/

/-- R252: whether a context is free or reaped. -/
def ended (c : Ctx) : Bool := c.phase == .free || c.phase == .reaped
/-- R396: a context is killed: it takes the effects of `hend`, its pins are dropped, its area is abandoned. -/
def killCtx (s : State) (n : Nat) : State :=
  if ended (ctxOf s n) then s
  else endCtx (modCtx s n fun c => { yieldStop c with pins := [] }) n

/-- R251: the launch of a spindle's tile will end KILLED. -/
def launchKilled (s : State) (sp : Nat) : State :=
  match (tileAt s (tileOfSpindle sp)).launch with
  | some l => { s with launches := s.launches.map fun e => if e.1 = l then (e.1, { e.2 with killed := true }) else e }
  | none => s
/-- R396, R251: context 0 is killed after every helper of its spindle; the completion record then carries KILLED. -/
def killControl (s : State) (sp : Nat) : State :=
  launchKilled (killCtx (freeHelpers ((helpersOf sp).foldl killCtx s) sp) (ctxNum sp 0)) sp

/-- R396: a target is killed. -/
def killTarget (s : State) (n : Nat) : State := if localOf n = 0 then killControl s (spindleOf n) else killCtx s n

def opCtxkill (f : RRR) : Op :=
  { srcs := [f.a], dests := dstS f.d, service := true
    run := fun v s =>
      let a := (v.arg 0).toNat
      if 16 ≤ a ∨ a = localOf v.n then .fault argFault
      else
        let n := ctxNum (spindleOf v.n) a
        match (ctxOf s n).phase with
        | .free => .ok s (landS v.c f.d 6 1)
        | .reaped => .ok s (landS v.c f.d 5 1)
        | _ => .ok s { landS v.c f.d 0 1 with after := some fun s => killTarget s n } }

/-! ## wpset (R398) -/

/-- R398: whether the operands of `wpset` raise F_ARG. -/
def wpBad (a b c : Nat) : Bool :=
  bits a 63 6 != 0 || bits c 63 42 != 0 ||
  (bits c 39 0 != 0 && ((!bit c 40 && !bit c 41) || (canonFault b (bits c 39 0)).isSome))

def opWpset (f : RRR) : Op :=
  { srcs := [f.a, f.b, f.c], dests := dstS f.d, service := true
    run := fun v s =>
      let a := (v.arg 0).toNat
      let b := (v.arg 1).toNat
      let c := (v.arg 2).toNat
      if wpBad a b c then .fault argFault
      else
        let n := ctxNum (spindleOf v.n) (bits a 3 0)
        match (ctxOf s n).phase with
        | .free => .ok s (landS v.c f.d 6 1)
        | .reaped => .ok s (landS v.c f.d 5 1)
        | .saved => .ok s (landS v.c f.d 2 1)
        | _ =>
          .ok (modCtx s n fun x => { x with watch := smSet ⟨0, 0, false, false⟩ x.watch (bits a 5 4) ⟨b, bits c 39 0, bit c 40, bit c 41⟩ })
            (landS v.c f.d 0 1) }

/-! ## xinv, kvinv (R340, R341) -/

/-- R331: whether an ASID of a partition is active. -/
def asidActive (p : Part) (a : Nat) : Bool := (smFind p.asids a).any fun d => d.st == .active

/-- R340: the virtual addresses of the page of an address, from its cached translations; of the largest page (R320)
when none is cached, since leases of a translation that has left the cache may stand. -/
def pageSpan (s : State) (p : Part) (asid va : Nat) : Nat × Nat :=
  let a := va % 2 ^ 57
  let cached := (sliceAt s (homeSlice p va asid)).tcache.filter fun e => e.asid == asid && decide (e.va ≤ a) && decide (a < e.va + e.size)
  let size := match cached with
    | [] => 2 ^ 36
    | es => (es.map (·.size)).foldl Nat.max 4096
  (a / size * size, a / size * size + size)

/-- R340: what the forms of `xinv` share: the ASID of a partition; F_ARG, or GONE for one that is not active. -/
def withAsid (v : View) (s : State) (d : BitVec 9) (b : Word) (k : Part → Nat → Res) : Res :=
  if bits b.toNat 63 16 ≠ 0 then .fault argFault
  else
    match partAt s (partOfCtx s v.n) with
    | none => .ok s (landS v.c d 5 1)
    | some p => if asidActive p b.toNat then k p b.toNat else .ok s (landS v.c d 5 1)

/-- R326: cached translations dropped. -/
def dropLeaves (s : State) (sl : Nat) (f : TEntry → Bool) : State :=
  modSlice s sl fun x => { x with tcache := x.tcache.filter fun e => !f e }

/-- R340: the cached leaves that cover an address are dropped. -/
def dropPage (s : State) (p : Part) (asid va : Nat) : State :=
  dropLeaves s (homeSlice p va asid) fun e => e.asid == asid && decide (e.va ≤ va % 2 ^ 57) && decide (va % 2 ^ 57 < e.va + e.size)
/-- R340: every cached leaf of an ASID is dropped, at every slice of the partition. -/
def dropAsid (s : State) (p : Part) (asid : Nat) : State :=
  p.conf.slices.foldl (fun s sl => dropLeaves s sl fun e => e.asid == asid) s
/-- R340: translations are dropped, and the operation is held until the leases granted under them before have ended. -/
def invalidate (v : View) (s : State) (d : BitVec 9) (asid lo hi : Nat) (drop : State → State) : Res :=
  if leasesOut s (partOfCtx s v.n) asid lo hi s.freeCount then .hold .fault (.leases asid lo hi s.freeCount) drop
  else .ok (drop s) (landS v.c d 0 1)

def opXinvPage (f : RRR) : Op :=
  { srcs := [f.a, f.b], dests := dstS f.d, service := true
    run := fun v s =>
      let a := (v.arg 0).toNat
      if v.answered.contains .home then .ok s (heldStop v (landS v.c f.d 0 1))
      else
        withAsid v s f.d (v.arg 1) fun p asid =>
          if !canonical a then .fault (nonCanonical a)
          else invalidate v s f.d asid (pageSpan s p asid a).1 (pageSpan s p asid a).2 fun s => dropPage s p asid a }
def opXinvAsid (f : RRR) : Op :=
  { srcs := [f.b], dests := dstS f.d, service := true
    run := fun v s =>
      if v.answered.contains .home then .ok s (heldStop v (landS v.c f.d 0 1))
      else withAsid v s f.d (v.arg 0) fun p asid => invalidate v s f.d asid 0 (2 ^ 57) fun s => dropAsid s p asid }

/-- R333: the quadrant with the largest count, 7 when all counts are 0. -/
def gravity (cs : List Nat) : Nat :=
  let m := cs.foldl Nat.max 0
  if m = 0 then 7 else (cs.findIdx? (· == m)).getD 7
/-- R340: the counters as `xinv.q` gives them. -/
def countsWord (cs : List Nat) : Word :=
  word ((List.range 5).foldl (fun a i => a + cs.getD i 0 * 2 ^ (12 * i)) 0 + gravity cs * 2 ^ 60)

def opXinvQ (f : RRR) : Op :=
  { srcs := [f.a, f.b], dests := dstPair f.d, service := true
    run := fun v s =>
      let a := (v.arg 0).toNat
      withAsid v s f.d (v.arg 1) fun p asid =>
        let sl := homeSlice p a asid
        match cachedLeaf (sliceAt s sl) asid a with
        | none => .ok s (landPair v.c f.d 0 (some (countsWord [])))
        | some e =>
          let s := if f.md.getLsbD 2 then
              modSlice s sl fun x => { x with tcache := x.tcache.map fun t => if (cachedLeaves x asid a).contains t then { t with counts := [] } else t }
            else s
          .ok s (landPair v.c f.d (word e.leaf) (some (countsWord e.counts))) }

/-- R341: cached KV entries dropped. -/
def dropKv (s : State) (sl : Nat) (f : KEntry → Bool) : State :=
  modSlice s sl fun x => { x with kcache := x.kcache.filter fun e => !f e }

/-- R341: the block number that `kvinv.blk` names: pos div B; none when the sequence has no descriptor that gives B. -/
def kvBlockOf (s : State) (p : Part) (pnum a sl : Nat) : Option Nat :=
  let d := match cachedRoot s sl (kvSeqOf a) with
    | some d => kvDescOf s d
    | none =>
      match kvRoot s p pnum a sl with
      | .ok r => kvDescOf s r.2
      | .error _ => none
  d.map fun d => kvPosOf a / Nat.max d.blk 1

/-- R341: kvinv, by its scope. Without a descriptor `.blk` drops the blocks of the whole head. -/
def opKvinv (f : RRR) : Op :=
  { srcs := [f.a], dests := dstS f.d, service := true
    run := fun v s =>
      let a := (v.arg 0).toNat
      let pnum := partOfCtx s v.n
      match partAt s pnum with
      | none => .ok s (landS v.c f.d 0 1)
      | some p =>
        let sl := kvSlice p (kvSeqOf a) (kvLayerOf a) (kvHeadOf a)
        let inHead (q l h : Nat) : Bool := q == kvSeqOf a && l == kvLayerOf a && h == kvHeadOf a
        let s :=
          match bits f.md.toNat 1 0 with
          | 0 =>
            let blk := kvBlockOf s p pnum a sl
            dropKv s sl fun e => match e with
              | .block q l h b .. => inHead q l h && blk.all (· == b)
              | .root .. => false
          | 1 => dropKv s sl fun e => match e with | .block q l h .. => inHead q l h | .root .. => false
          | _ =>
            p.conf.slices.foldl (fun s sl => dropKv s sl fun e => match e with
              | .block q .. => q == kvSeqOf a
              | .root q .. => q == kvSeqOf a) s
        .ok s (landS v.c f.d 0 1) }

/-! ## ASIDs (R331, R332, R342, R343) -/

/-- R322, R342: a descriptor's root and granule codes; none when `asid.set` refuses it. -/
def asidDescOf (s : State) (bs : List Byte) : Option Asid :=
  let root := dwordAt bs 0
  let codes := (List.range 64).map fun i => (bs.getD (8 + i / 2) 0).toNat / (if i % 2 = 0 then 1 else 16) % 16
  if bits root 11 0 ≠ 0 ∨ 2 ^ 57 ≤ root ∨ !inDram s root ∨ codes.any (fun c => decide (4 < c)) ∨
      dwordAt bs 5 ≠ 0 ∨ dwordAt bs 6 ≠ 0 ∨ dwordAt bs 7 ≠ 0 then none
  else some ⟨.active, root, codes, 0⟩

/-- R331: the code of an ASID's state: 0 free, 1 active, 2 retiring. -/
def asidCode (p : Part) (a : Nat) : Nat :=
  match smFind p.asids a with
  | none => 0
  | some d => if d.st = .active then 1 else 2

def opAsidSet (f : RRR) : Op :=
  { srcs := [f.a, f.b], dests := dstS f.d, service := true
    run := fun v s =>
      let a := (v.arg 0).toNat
      let b := (v.arg 1).toNat
      let pnum := partOfCtx s v.n
      match partAt s pnum with
      | none => .ok s (landS v.c f.d 5 1)
      | some p =>
        if 2 ^ 16 ≤ a then .fault argFault
        else if b = 0 then .ok s (landS v.c f.d (word (asidCode p a)) 1)
        else if asidCode p a ≠ 0 then .ok s (landS v.c f.d 2 1)
        else if b % 64 ≠ 0 then .fault argFault
        else
          withPlaces false false v s .load true b 64 fun s locs =>
            match asidDescOf s (readLocs s locs) with
            | none => .fault argFault
            | some d => .ok (modPart s pnum fun p => { p with asids := smIns p.asids a d }) (heldStop v (landS v.c f.d 0 1)) }

/-- R331, R332, R343: an active ASID starts to retire: the instruction-cache lines fetched under it are dropped, and its monitors
wake no one. -/
def retireAsid (s : State) (pnum a : Nat) : State :=
  let under (n : Nat) : Bool := partOfCtx s n == pnum && (ctxOf s n).asid.toNat == a
  let quiet (x : Slice) : Slice :=
    { x with monitors := (x.monitors.map fun m =>
        { m with waiters := m.waiters.filter fun n => !under n }).filter fun m => !m.waiters.isEmpty }
  modPart { s with ilines := s.ilines.filter fun i => !(i.part == pnum && i.asid == a)
                   slices := s.slices.map fun e => (e.1, quiet e.2) } pnum fun p =>
    { p with asids := p.asids.map fun e => if e.1 = a then (e.1, { e.2 with st := .retiring, since := s.time }) else e }

def opAsidRet (f : RRR) : Op :=
  { srcs := [f.a], dests := dstS f.d, service := true
    run := fun v s =>
      let a := (v.arg 0).toNat
      let pnum := partOfCtx s v.n
      let wait := f.md.getLsbD 0
      match partAt s pnum with
      | none => .ok s (landS v.c f.d 5 1)
      | some p =>
        if 2 ^ 16 ≤ a then .fault argFault
        else if v.answered.contains .sweep then .ok s (heldStop v (landS v.c f.d 0 1))
        else
          match asidCode p a with
          | 0 => .ok s (landS v.c f.d 5 1)
          | 1 => if wait then .hold .fault (.sweep a) (fun s => retireAsid s pnum a) else .ok (retireAsid s pnum a) (landS v.c f.d 0 1)
          | _ => if wait then .hold .fault (.sweep a) id else .ok s (landS v.c f.d 2 1) }

/-- ASID_SWEEP_DONE: once every lease granted under a retiring ASID has ended, its translations are dropped, it becomes
free, and the operations held for it return OK. -/
def execAsidSweepDone (pnum a : Nat) (s : State) : Host.Outcome State Fault Refusal :=
  .next <|
    match partAt s pnum with
    | none => s
    | some p =>
      if asidCode p a = 2 ∧ !leasesOut s pnum a 0 (2 ^ 57) s.freeCount then
        let s := p.conf.slices.foldl (fun s sl => dropLeaves s sl fun e => e.asid == a) s
        let s := setPart s pnum { p with asids := smDel p.asids a }
        (s.ctxs.map (·.1)).foldl (fun s n =>
          modCtx s n fun c =>
            if partOfCtx s n = pnum ∧ c.wait = .sweep a then wake { c with answered := .sweep :: c.answered } else c) s
      else s

/-- R38: `ill` raises F_ILLOP wherever it stands. -/
def opIll (_ : RRR) : Op := { run := fun _ _ => .fault ⟨0x08, 0, 0, none, []⟩ }

/-! ## The instructions, each issued by the current context alone in its bundle -/
def execTrap (f : RI) (s : State) : Host.Outcome State Fault Refusal := issueOne (f.pack 0xF0) (opTrap f) s
def execRfs (f : RRR) (s : State) : Host.Outcome State Fault Refusal := issueOne (f.pack 0xF1) (opRfs f) s
def execCtxkill (f : RRR) (s : State) : Host.Outcome State Fault Refusal := issueOne (f.pack 0xF4) (opCtxkill f) s
def execPctlQrec (f : RRI) (s : State) : Host.Outcome State Fault Refusal := issueOne (f.pack 0xF5) (opPctlQrec f) s
def execPctlQskip (f : RRI) (s : State) : Host.Outcome State Fault Refusal := issueOne (f.pack 0xF5) (opPctlQskip f) s
def execPctlPost (f : RRI) (s : State) : Host.Outcome State Fault Refusal := issueOne (f.pack 0xF5) (opPctlPost f) s
def execPctlPark (f : RRI) (s : State) : Host.Outcome State Fault Refusal := issueOne (f.pack 0xF5) (opPctlPark f) s
def execXinvPage (f : RRR) (s : State) : Host.Outcome State Fault Refusal := issueOne (f.pack 0xF6) (opXinvPage f) s
def execXinvAsid (f : RRR) (s : State) : Host.Outcome State Fault Refusal := issueOne (f.pack 0xF6) (opXinvAsid f) s
def execXinvQ (f : RRR) (s : State) : Host.Outcome State Fault Refusal := issueOne (f.pack 0xF6) (opXinvQ f) s
def execKvinv (f : RRR) (s : State) : Host.Outcome State Fault Refusal := issueOne (f.pack 0xF7) (opKvinv f) s
def execAsidSet (f : RRR) (s : State) : Host.Outcome State Fault Refusal := issueOne (f.pack 0xF8) (opAsidSet f) s
def execAsidRet (f : RRR) (s : State) : Host.Outcome State Fault Refusal := issueOne (f.pack 0xF9) (opAsidRet f) s
def execBkpt (f : RI) (s : State) : Host.Outcome State Fault Refusal := issueOne (f.pack 0xFB) (opBkpt f) s
def execWpset (f : RRR) (s : State) : Host.Outcome State Fault Refusal := issueOne (f.pack 0xFC) (opWpset f) s
def execIll (f : RRR) (s : State) : Host.Outcome State Fault Refusal := issueOne (f.pack 0xFF) (opIll f) s

end Sys2Proof.Machine
end

