-- ==== Sys2Proof/Machine/Save.lean ====
section
/-! DEFINITION. Pre-emption (R390 to R395): the save area as bytes, `csave`, `cload`, what the device writes into the area of a
saved context, and the reload on a wake. Where R391 names a block without its bits, the layout is the model's (DESIGN CHOICE,
log entry 23). -/
namespace Sys2Proof.Machine

/-! ## The image (R391, R392) -/

/-- Pieces of an image: offset and bytes. -/
def putPieces (m : SMap Byte) (ps : List (Nat × List Byte)) : SMap Byte := ps.foldl (fun m p => smSetList 0 m p.1 p.2) m
/-- A dword of an image. -/
def imgDword (m : SMap Byte) (off : Nat) : Nat := leNat (smGetList 0 m off 8)
/-- Consecutive dwords as a piece. -/
def dwordsAt (off : Nat) (ws : List Nat) : Nat × List Byte := (off, ws.flatMap (leBytes 8))

/-- R241, R392: the lowest token whose command is among those awaited. -/
def tokenOf (c : Ctx) (ids : List Nat) : Nat :=
  ((List.range 32).find? fun k => (smFind c.tok k).any fun b => ids.contains b.cmd).getD 0
/-- R392: what a parked context awaits, as one dword; of a KV monitor the KVA, which FADDR holds. -/
def waitWord (c : Ctx) : Nat :=
  match c.wait with
  | .channel n => n
  | .mailbox m _ => m
  | .tokens ids => tokenOf c ids
  | .future h => h.toNat
  | .counter a => a.toNat
  | .monitor _ ea => if bits c.fcause.toNat 7 0 = 0x13 then ea else c.faddr.toNat
  | .barrier o => o
  | _ => 0
/-- R392, R395: what a restored context awaits, from WHY and WAIT: what it awaited when they say the same, else what they name. -/
def waitOf (c : Ctx) (why w : Nat) : Wait :=
  if whyCode c.why = why ∧ waitWord c = w then c.wait
  else
    match why with
    | 1 => .channel (w % 16)
    | 2 => .mailbox (w % 16) none
    | 3 => .tokens (((smFind c.tok (w % 32)).toList.filter fun b => !b.done).map (·.cmd))
    | 4 => .future (word w)
    | 5 => .counter (word w)
    | 6 => .service false
    | 7 => .budget
    | _ => .nothing
/-- R280: the reason of a code. -/
def whyOf (k : Nat) : Why :=
  match k with
  | 1 => .channel | 2 => .mailbox | 3 => .token | 4 => .future | 5 => .join | 6 => .fault | 7 => .budget | _ => .none

/-- R392: the header. -/
def headerPiece (s : State) (n : Nat) (c : Ctx) : Nat × List Byte :=
  let qv := (List.range 5).foldl (fun a i => match getQ c i with | .vector _ => a + 2 ^ i | .scalar _ => a) 0
  let b (x : Bool) (k : Nat) : Nat := if x then 2 ^ k else 0
  dwordsAt 0 [1 + n * 2 ^ 16 + ((launchOf s n).map (·.lasid)).getD 0 * 2 ^ 32,
    c.rst + whyCode c.why * 16 + b c.auto 8 + b c.handler 9 + b c.conv.isSome 10 + b c.attn.isSome 11 + c.pins.length * 2 ^ 12 +
      c.saA.ty * 2 ^ 16 + c.saB.ty * 2 ^ 24 + qv * 2 ^ 32,
    waitWord c, c.sends]

/-- R260, R391: VL as saved. -/
def savedVl (c : Ctx) : Nat :=
  match c.claim with
  | some k => k.ceil * 2 ^ 16 + k.floor * 2 ^ 8 + k.lanes
  | none => 0

/-- R391: the control block. -/
def controlPiece (c : Ctx) : Nat × List Byte :=
  let tbl (i : Nat) : Nat := match smFind c.tbl i with | some a => a.toNat / 2 * 2 + 1 | none => 0
  dwordsAt 0x240 ([(c.p ||| 1).toNat, c.rot.toNat, c.iter.toNat, c.span.toNat, c.rmode.toNat, c.seed.toNat, c.fflags.toNat, c.satf.toNat,
    c.ebud.toNat, c.sdl.toNat, c.asid.toNat, c.kvprog.toNat, c.fcause.toNat, c.fpc.toNat, c.faddr.toNat, c.finfoRead.toNat,
    c.taskn.toNat, tbl 0, tbl 1, tbl 2, tbl 3, ((c.conv.map ConvDesc.layout).getD 0).toNat, ((c.conv.map ConvDesc.strides).getD 0).toNat] ++
    (List.range 4).map (fun i => (smGet 0 c.shape i).toNat) ++ [savedVl c, c.kverrpol.toNat])

def latchPiece (c : Ctx) (i : Nat) : Nat × List Byte :=
  (0x340 + 256 * i, match getQ c i with
    | .scalar w => leBytes 8 w.toNat
    | .vector ls => ls.flatMap fun l => leBytes 4 l.toNat)

/-- R391: a channel: its state, binding and count in the first 64 bytes, its 8 words after them. -/
def chanPiece (c : Ctx) (i : Nat) : Nat × List Byte :=
  let e := getCh c i
  (0xA00 + 128 * i, leBytes 8 (chCode e.st + e.peer * 2 ^ 16 + e.pch * 2 ^ 32 + e.queue.length * 2 ^ 40) ++
    List.replicate 56 0 ++ e.queue.flatMap fun w => leBytes 8 w.toNat)

/-- R391: a mailbox: its counts, 64 messages, 16 refusals, and the refusals' destinations and statuses. -/
def mailPieces (c : Ctx) (i : Nat) : List (Nat × List Byte) :=
  let b := getMb c i
  let o := 0x1200 + 2560 * i
  [dwordsAt o [b.msgs.length + b.refs.length * 256],
   dwordsAt (o + 8) (b.msgs.flatMap fun m => [m.p0.toNat, m.p1.toNat, m.sender, 0]),
   dwordsAt (o + 2056) (b.refs.flatMap fun r => [r.p0.toNat, r.p1.toNat]),
   dwordsAt (o + 2312) (b.refs.map fun r => r.dest + r.status * 2 ^ 32)]

/-- R391: the core region. -/
def corePieces (s : State) (n : Nat) (c : Ctx) : List (Nat × List Byte) :=
  [headerPiece s n c, dwordsAt 0x40 ((List.range 64).map fun i => (getX c i).toNat), controlPiece c] ++
  (List.range 5).map (latchPiece c) ++
  [dwordsAt 0x840 ((List.range 32).map fun k => (tokWord (smFind c.tok k)).toNat),
   dwordsAt 0x940 ((c.attn.getD []).map (·.toNat)),
   dwordsAt 0x980 (c.pins.flatMap fun p => [p.1, p.2])] ++
  (List.range 16).map (chanPiece c) ++ (List.range 4).flatMap (mailPieces c) ++
  [dwordsAt 0x3A00 ((List.range 8).map (fun i => (c.bank.x.getD i 0).toNat) ++ [c.bank.p.toNat]),
   dwordsAt 0x3A80 ((List.range 4).flatMap fun i =>
     let w := smGet ⟨0, 0, false, false⟩ c.watch i
     [w.base, w.len + (if w.rd then 2 ^ 40 else 0) + if w.wr then 2 ^ 41 else 0])]

/-- R220, R391: the expiries of the pinned lines, range by range. -/
def pinLines (s : State) (n : Nat) (c : Ctx) : List (Nat × Mapping) :=
  c.pins.flatMap fun p => touchedLines (tileAt s (tileOf n)) p.1 p.2
def pinPiece (s : State) (n : Nat) (c : Ctx) : Nat × List Byte :=
  dwordsAt 0x21000 ((pinLines s n c).map fun l => ((smFind (tileAt s (tileOf n)).lines l.1).map (·.expiry)).getD 0)
/-- R391: how many bytes an area takes. -/
def areaLen (s : State) (n : Nat) : Nat := 0x21000 + 8 * (pinLines s n (ctxOf s n)).length

/-- Entries of a map of words as image bytes. -/
def laneCells (off : Nat) (m : SMap Lane) : List (Nat × List Byte) := m.map fun e => (off + 4 * e.1, leBytes 4 e.2.toNat)

/-- R391: the regions after the core region. -/
def restPieces (s : State) (n : Nat) (c : Ctx) : List (Nat × List Byte) :=
  laneCells 0x4000 c.sa ++ c.saA.bytes.map (fun e => (0x8000 + e.1, [e.2])) ++ c.saB.bytes.map (fun e => (0x8400 + e.1, [e.2])) ++
  (List.range 8).map (fun i => (0x8800 + 32 * i, leBytes 32 (if i = 0 then BitVec.allOnes 256 else smGet 0 c.m i).toNat)) ++
  laneCells 0x8900 c.lfsr ++ laneCells 0x9000 c.v ++ [pinPiece s n c]

/-- R391: the whole image. -/
def areaImage (s : State) (n : Nat) (c : Ctx) : SMap Byte := putPieces (putPieces [] (corePieces s n c)) (restPieces s n c)

/-! ## The area in memory -/

/-- A page of an area: its offset, its physical address, how many bytes. -/
structure AreaPage where
  off : Nat
  pa : Nat
  len : Nat
  deriving DecidableEq, Repr

/-- What the translation of an area comes to: its pages, home lines whose leases it waits for, or a fault. -/
inductive AreaRes
  | ok (pages : List AreaPage)
  | wait (homes : List Nat)
  | fault (f : FaultInfo)
  deriving DecidableEq, Repr

/-- R393: the area translated and checked under R209. -/
def resolveArea (s : State) (p : Part) (pnum asid : Nat) (need : Need) (va len : Nat) : AreaRes :=
  match canonFault va len with
  | some f => .fault f
  | none =>
    match resolveHome s p asid need true ((List.range ((len + 4095) / 4096)).map fun i => byteVa va (4096 * i)) with
    | .error f => .fault f
    | .ok vps =>
      let pages := vps.zipIdx.map fun e => (⟨4096 * e.2, e.1.2, Nat.min 4096 (len - 4096 * e.2)⟩ : AreaPage)
      let lines := (vps.flatMap fun e => (List.range 32).map fun i => (e.1 + 128 * i, e.2 + 128 * i)).take ((len + 127) / 128)
      match targetCheck s p pnum need lines with
      | some f => .fault (f.after (vps.flatMap fun e => entryReads s p asid e.1))
      | none =>
        match (lines.map fun e => e.2 / 128).filter fun l => homeConflict s l need.writes with
        | [] => .ok pages
        | hs => .wait hs

/-- The page of an area that holds a physical address. -/
def pageHolding (pages : List AreaPage) (a : Nat) : Option AreaPage := pages.find? fun g => decide (g.pa ≤ a) && decide (a < g.pa + g.len)

/-- An image's bytes are put into an area, those of the others left. -/
def putImage (s : State) (pages : List AreaPage) (img : SMap Byte) : State :=
  img.foldl (fun s e =>
    match pages.find? fun g => decide (g.off ≤ e.1) && decide (e.1 < g.off + g.len) with
    | some g => putByte s (g.pa + (e.1 - g.off)) e.2
    | none => s) s

/-- R390: the whole area is written. -/
def writeArea (s : State) (pages : List AreaPage) (img : SMap Byte) : State :=
  let s := { s with mem := s.mem.filter fun e => (pageHolding pages e.1).isNone
                    pub := s.pub.filter fun e => (pageHolding pages (e.1 * 128)).isNone }
  putImage (pages.foldl (fun s g => clearErrs s g.pa g.len) s) pages img

/-- The image that an area in memory holds. -/
def readArea (s : State) (pages : List AreaPage) : SMap Byte :=
  s.mem.foldl (fun m e => match pageHolding pages e.1 with | some g => smIns m (g.off + (e.1 - g.pa)) e.2 | none => m) []

/-- R394: the image that the area of a saved context holds once what is under way to it has arrived. -/
def savedImage (s : State) (n : Nat) (pages : List AreaPage) : SMap Byte :=
  (smGet [] s.lag n).foldl (fun m e => smSet 0 m e.1 e.2) (readArea s pages)

/-- R333, R405: the lines of an area are read or written: they count in their pages' entries, and a read repairs corrected errors. -/
def noteArea (s : State) (p : Part) (asid quad : Nat) (sealed : Bool) (need : Need) (va : Nat) (pages : List AreaPage) : State :=
  let s := if need.writes then s else correctLines s (pages.flatMap fun g => (List.range ((g.len + 127) / 128)).map fun i => g.pa / 128 + i)
  pages.foldl (fun s g =>
    let a := byteVa va g.off
    match lookup s p asid a need with
    | .leaf l lvl ea => noteLines (correctWalk s p asid a) p asid a l lvl ea quad sealed ((g.len + 127) / 128)
    | _ => s) s

/-- R405: the first bad word of an area. -/
def areaError (s : State) (va : Nat) (pages : List AreaPage) : Option FaultInfo :=
  pages.findSome? fun g =>
    (s.errs.find? fun e => decide (g.pa ≤ 8 * e.1) && decide (8 * e.1 < g.pa + g.len)).bind fun e =>
      (wordError s (8 * e.1)).map fun i => ⟨0x30, word (byteVa va (g.off + (8 * e.1 - g.pa))), word i, none,
        (pages.flatMap fun h => (List.range ((h.len + 63) / 64)).map fun i => h.pa + 64 * i).map .mem⟩

/-! ## Saving (R393) -/

/-- R252, R258, R390: a context as it stands when saved. It resumes at FPC: a context parked outside service at the bundle
that it holds (DEDUCED, log entry 24). -/
def savedCtx (c : Ctx) (area : Word) (asid rst : Nat) (auto : Bool) : Ctx :=
  { c with phase := .saved, area := some area, areaAsid := asid, rst := rst, auto := auto, fbuf := [], fetching := false
           fpc := if rst = 2 ∧ !c.svc ∧ c.wait ≠ .service true then c.pc else c.fpc
           claim := c.claim.map fun k => { k with phase := .saved, lanes := k.filled, reclaim := false, kept := 0 } }

/-- R390, R393: a context is saved, its lanes are freed. -/
def saveCtx (s : State) (n : Nat) (area : Word) (asid rst : Nat) (auto : Bool) (pages : List AreaPage) : State :=
  let c := savedCtx (ctxOf s n) area asid rst auto
  let s := writeArea s pages (areaImage s n c)
  settleClaims (setCtx s n c) (tileOf n)

/-- R393: the issuing context is saved as `rfs` would restore it. -/
def saveSelf (s : State) (n : Nat) (area : Word) (asid : Nat) (auto : Bool) (pages : List AreaPage) : State :=
  saveCtx (modCtx (landEvery s n) n fun c => returnCtx c true) n area asid 1 auto pages

/-- R393, R395: the target of `csave` or `cload` and the area: F_ARG. -/
def saveArgs (v : View) : Option Nat := if 16 ≤ (v.arg 0).toNat then none else some (ctxNum (spindleOf v.n) (v.arg 0).toNat)

def opCsave (f : RRR) : Op :=
  { srcs := [f.a, f.b], dests := dstS f.d, service := true
    run := fun v s =>
      let area := v.arg 1
      let auto := f.md.getLsbD 0
      let pnum := partOfCtx s v.n
      match saveArgs v, partAt s pnum with
      | some n, some p =>
        let len := areaLen s n
        if area.toNat % 4096 ≠ 0 ∨ (tileAt s (tileOf v.n)).maps.any (fun m => rangesMeet area.toNat len m.2.base m.2.len) then .fault argFault
        else
          let c := ctxOf s n
          let st : Nat := match c.phase with
            | .free => 6 | .reaped => 5 | .parked => 0 | .inService => if n = v.n then 0 else 2 | .live | .saved => 2
          if st ≠ 0 then .ok s (landS v.c f.d (word st) 1)
          else if !v.answered.contains .home then .hold .fault (.home []) id
          else
            match resolveArea s p pnum v.c.asid.toNat .store area.toNat len with
            | .fault e => .fault e
            | .wait hs => .hold .fault (.home []) fun s => setWants s v.n hs
            | .ok pages =>
              let asid := v.c.asid.toNat
              let s := noteArea s p asid (dieOf v.n) (isSealed s v.n) .store area.toNat pages
              if n = v.n then .ok s { landS v.c f.d 0 1 with after := some fun s => saveSelf s n area asid auto pages }
              else .ok (saveCtx s n area asid 2 auto pages) (heldStop v (landS v.c f.d 0 1))
      | _, _ => .fault argFault }

/-! ## Restoring (R394, R395) -/

/-- Words of an image region, as a map. -/
def laneRegion (m : SMap Byte) (lo hi : Nat) : SMap Lane :=
  m.foldl (fun w e =>
    if lo ≤ e.1 ∧ e.1 < hi then smMod 0 w ((e.1 - lo) / 4) (fun x => x + BitVec.ofNat 32 (e.2.toNat * 2 ^ (8 * ((e.1 - lo) % 4))))
    else w) []
def byteRegion (m : SMap Byte) (lo hi : Nat) : SMap Byte :=
  m.filterMap fun e => if lo ≤ e.1 ∧ e.1 < hi then some (e.1 - lo, e.2) else none

/-- The dwords of a list that are not 0, by index. -/
def dwordMap (m : SMap Byte) (off n : Nat) : SMap Word :=
  (List.range n).foldl (fun x i => smSet 0 x i (word (imgDword m (off + 8 * i)))) []

def chStOf (n : Nat) : ChState :=
  match n with
  | 0 => .unbound | 1 => .waiting | 2 => .established | _ => .gone
def loadChan (m : SMap Byte) (i : Nat) : Channel :=
  let o := 0xA00 + 128 * i
  let d := imgDword m o
  ⟨chStOf (bits d 1 0), bits d 30 16, bits d 35 32, (List.range (Nat.min 8 (bits d 43 40))).map fun k => word (imgDword m (o + 64 + 8 * k))⟩
def loadMail (m : SMap Byte) (i : Nat) : Mailbox :=
  let o := 0x1200 + 2560 * i
  let d := imgDword m o
  let w (k : Nat) : Word := word (imgDword m (o + k))
  ⟨(List.range (Nat.min 64 (bits d 6 0))).map fun k => ⟨w (8 + 32 * k), w (16 + 32 * k), imgDword m (o + 24 + 32 * k)⟩,
   (List.range (Nat.min 16 (bits d 12 8))).map fun k =>
     let e := imgDword m (o + 2312 + 8 * k)
     ⟨w (2056 + 16 * k), w (2064 + 16 * k), bits e 31 0, bits e 39 32⟩⟩
/-- R185: a token binding read back: that of the record when it is the same, else one that has completed. -/
def loadTok (c : Ctx) (m : SMap Byte) (k : Nat) : Option TokBind :=
  -- R5: bits 63:61 are ignored
  let d := bits (imgDword m (0x840 + 8 * k)) 60 0
  if d = 0 then none
  else if d = (tokWord (smFind c.tok k)).toNat then smFind c.tok k
  else some ⟨0, bits d 60 57, word (bits d 56 1 * 2), true⟩
def loadLatch (m : SMap Byte) (i : Nat) : QVal :=
  let o := 0x340 + 256 * i
  if bit (imgDword m 8) (32 + i) then .vector ((List.range 64).map fun l => BitVec.ofNat 32 (leNat (smGetList 0 m (o + 4 * l) 4)))
  else .scalar (word (imgDword m o))

/-- R391: the dwords of the control block that are control registers, with their numbers. -/
def controlPlaces : List (Nat × Nat) :=
  [(1, 0x001), (2, 0x002), (3, 0x003), (4, 0x008), (6, 0x00A), (7, 0x00B), (10, 0x019), (11, 0x024), (12, 0x020), (13, 0x021),
   (14, 0x022), (15, 0x023), (23, 0x030), (24, 0x031), (25, 0x032), (26, 0x033), (28, 0x026)]
/-- R260, R391: the saved claim that VL gives. -/
def loadClaim (c : Ctx) (w : Word) : Option Claim :=
  if bits w.toNat 23 0 = 0 then none
  else some ⟨.saved, bits w.toNat 15 8, bits w.toNat 23 16, bits w.toNat 7 0, false, (c.claim.map (·.age)).getD 0, 0⟩

/-- R395: the core region restored from an image; what the area has no place for stays as the cache entry holds it. -/
def loadCore (c : Ctx) (m : SMap Byte) : Ctx :=
  let cb (i : Nat) : Word := word (imgDword m (0x240 + 8 * i))
  let h := imgDword m 8
  let bank := (List.range 8).map fun i => word (imgDword m (0x3A00 + 8 * i))
  -- R4: reserved bits of the control registers are ignored
  let c := controlPlaces.foldl (fun c e => cregPut c e.2 (cb e.1)) c
  let tok := (List.range 32).filterMap fun k => (loadTok c m k).map fun b => (k, b)
  { c with
    x := (dwordMap m 0x40 64).filter fun e => e.1 != 0
    p := (cb 0).setWidth 24 &&& ~~~1, seed := word (bits (cb 5).toNat 31 0), ebud := word (bits (cb 8).toNat 31 0)
    sdl := word (bits (cb 9).toNat 31 0), taskn := cb 16
    tbl := (List.range 4).filterMap fun i => if (cb (17 + i)).getLsbD 0 then some (i, cb (17 + i) &&& ~~~1) else none
    conv := if bit h 10 then some ⟨(c.conv.map ConvDesc.ty).getD 0, cb 21, cb 22⟩ else none
    claim := loadClaim c (cb 27)
    q := (List.range 5).foldl (fun q i => smSet (.scalar 0) q i (loadLatch m i)) []
    tok := tok, why := whyOf (bits h 7 4), wait := waitOf { c with tok := tok } (bits h 7 4) (imgDword m 16)
    attn := if bit h 11 then some ((List.range 8).map fun i => word (imgDword m (0x940 + 8 * i))) else none
    pins := (List.range (bits h 15 12)).map fun i => (imgDword m (0x980 + 16 * i), imgDword m (0x988 + 16 * i))
    ch := (List.range 16).foldl (fun x i => smSet Channel.none x i (loadChan m i)) []
    mb := (List.range 4).foldl (fun x i => smSet Mailbox.none x i (loadMail m i)) []
    bank := ⟨if bank = List.replicate 8 0 then [] else bank, (word (imgDword m 0x3A40)).setWidth 4, c.bank.q⟩
    watch := (List.range 4).foldl (fun x i =>
      let d := imgDword m (0x3A88 + 16 * i)
      smSet ⟨0, 0, false, false⟩ x i ⟨imgDword m (0x3A80 + 16 * i), bits d 39 0, bit d 40, bit d 41⟩) []
    handler := bit h 9, auto := bit h 8, rst := bits h 1 0, sends := bits (imgDword m 24) 4 0
    saA := { c.saA with ty := bits h 23 16 }, saB := { c.saB with ty := bits h 31 24 } }

/-- R395: the rest restored from an image. -/
def loadRest (c : Ctx) (m : SMap Byte) : Ctx :=
  { c with
    sa := laneRegion m 0x4000 0x8000, saA := { c.saA with bytes := byteRegion m 0x8000 0x8400 }
    saB := { c.saB with bytes := byteRegion m 0x8400 0x8800 }
    m := (List.range 7).foldl (fun x i => smSet 0 x (i + 1) (BitVec.ofNat 256 (leNat (smGetList 0 m (0x8820 + 32 * i) 32)))) []
    lfsr := laneRegion m 0x8900 0x8A00, v := laneRegion m 0x9000 0x21000 }

/-- R194, R220: the pinned lines of a context whose leases have ended are brought back, as far as other leases let them: whether
some wait, the home lines that they wait for, and the state. A line that cannot be had stays away (log entry 25). -/
def refetchPins (s : State) (n : Nat) : Bool × List Nat × State :=
  let c := ctxOf s n
  let pnum := partOfCtx s n
  match partAt s pnum with
  | none => (false, [], s)
  | some p =>
    (pinLines s n c).foldl (fun a l =>
      match acquireLines a.2.2 p ⟨pnum, tileOf n, c.asid.toNat, 128 * l.1, false, [l.1], []⟩ [l] with
      | .ok s _ => (a.1, a.2.1, s)
      | .hold s hs => (true, a.2.1 ++ hs, s)
      | .fault _ => a) (false, [], s)

/-- R258: a saved claim is restored: with its lanes, or with fewer, or it waits for its floor. -/
def restoreClaim (s : State) (n : Nat) : State :=
  let c := ctxOf s n
  match c.claim with
  | none => s
  | some k =>
    if k.phase ≠ .saved then s
    else
      -- an area that others have written may hold more than VL lanes
      let s := setCtx s n (shrinkTo c k.lanes)
      let lanes := Nat.min k.lanes (freeLanes s (tileOf n)) / 8 * 8
      if k.lanes ≠ 0 ∧ k.floor ≤ lanes then setCtx s n (setLanes (ctxOf s n) k lanes)
      else enterWaiting n { k with lanes := 0, kept := k.lanes } s

/-- R382, R401: a context halted while it was saved is halted as it is restored, before it issues. -/
def haltRestored (s : State) (n : Nat) : State :=
  let c := ctxOf s n
  if c.halted ∧ !c.svc ∧ c.wait ≠ .service true then
    enterPending (modCtx s n fun c => { c with halted := false, reqs := c.reqs.filter (· != .halt) ++ [.halt] }) n
  else s

/-- R395: a saved context is restored, live at FPC or parked on what it awaits; its pinned lines are brought back before it
issues (R220). -/
def restoreCtx (s : State) (n : Nat) (c : Ctx) : State :=
  let live := c.rst = 1
  -- R328: a monitor that it awaits no more has one waiter less
  let s := if live ∨ c.wait ≠ (ctxOf s n).wait then dropWaiter s n else s
  let c := { c with
    area := none, auto := false, rst := 0, fbuf := [], fetching := false, pc := if c.svc ∨ c.wait = .service true then c.pc else c.fpc
    held := c.held.filter fun b => b.addr == c.fpc
    phase := if live then .live else .parked, why := if live then .none else c.why, wait := if live then .nothing else c.wait
    refetch := !c.pins.isEmpty }
  let s := restoreClaim (setCtx { s with lag := smDel s.lag n } n c) n
  haltRestored (modCtx s n fun c => if c.phase = .live ∧ c.awaitsClaim then park c .token .claim else c) n

/-- R394, R395: the context that a saved one is restored as: the core region from the cache entry or from memory, which is
open, the rest from memory. -/
def loadedCtx (s : State) (n : Nat) (img : SMap Byte) : Ctx :=
  let c := ctxOf s n
  loadRest (if Config.freeBit s.freeCount then loadCore c img else c) img

def opCload (f : RRR) : Op :=
  { srcs := [f.a, f.b], dests := dstS f.d, service := true
    run := fun v s =>
      let pnum := partOfCtx s v.n
      match saveArgs v, partAt s pnum with
      | some n, some p =>
        let c := ctxOf s n
        match (if c.phase = .saved then c.area else none) with
        | none => .ok s (landS v.c f.d 2 1)
        | some area =>
          if v.arg 1 ≠ 0 ∧ v.arg 1 ≠ area then .fault argFault
          else if !v.answered.contains .home then .hold .fault (.home []) id
          else
            match resolveArea s p pnum v.c.asid.toNat .load area.toNat (areaLen s n) with
            | .fault e => .fault e
            | .wait hs => .hold .fault (.home []) fun s => setWants s v.n hs
            | .ok pages =>
              match areaError s area.toNat pages with
              | some e => .fault e
              | none =>
                let img := savedImage s n pages
                let fromMem := Config.freeBit s.freeCount
                let h := imgDword img 0
                if fromMem ∧ (bits h 7 0 ≠ 1 ∨ bits h 30 16 ≠ n) then .fault argFault
                else
                  .ok (restoreCtx { noteArea s p v.c.asid.toNat (dieOf v.n) (isSealed s v.n) .load area.toNat pages with freeCount := s.freeCount + 1 } n
                    (loadedCtx s n img)) (heldStop v (landS v.c f.d 0 1))
      | _, _ => .fault argFault }

/-- R394: a reload on a wake, as `cload` does; one that its area does not admit does nothing. -/
def autoReload (s : State) (n : Nat) : State :=
  let c := ctxOf s n
  let pnum := partOfCtx s n
  match c.area, partAt s pnum with
  | some area, some p =>
    if c.phase = .saved ∧ c.auto ∧ c.rst = 1 then
      match resolveArea s p pnum c.areaAsid .load area.toNat (areaLen s n) with
      | .ok pages =>
        match areaError s area.toNat pages with
        | some f => correct s f.reads
        | none =>
          restoreCtx { noteArea s p c.areaAsid (dieOf n) (isSealed s n) .load area.toNat pages with freeCount := s.freeCount + 1 } n
            (loadedCtx s n (savedImage s n pages))
      | .fault f => correct s f.reads
      | .wait _ => s
    else s
  | _, _ => s

/-- R394: the bytes of a saved context's core region that a step has changed. -/
def changedSaved (old s : State) (n : Nat) : SMap Byte :=
  let c := ctxOf s n
  let c0 := ctxOf old n
  if c.phase ≠ .saved ∨ c0.phase ≠ .saved ∨ c = c0 then []
  else
    let was := putPieces [] (corePieces old n c0)
    let now := putPieces [] (corePieces s n c)
    (now.filter fun e => smGet 0 was e.1 != e.2) ++ ((was.filter fun e => (smFind now e.1).isNone).map fun e => (e.1, 0))
/-- R394, R403: what has changed of a saved context is written into its area, now or once leases let it; nothing is lost. -/
def recordSaved (old s : State) (n : Nat) : State :=
  let due := (changedSaved old s n).foldl (fun m e => smIns m e.1 e.2) (smGet [] s.lag n)
  if due = [] ∨ (ctxOf s n).phase ≠ .saved then s
  else
    let c := ctxOf s n
    let later (s : State) : State := { s with lag := smSet [] s.lag n due }
    match c.area, partAt s (partOfCtx s n) with
    | some area, some p =>
      match resolveArea s p (partOfCtx s n) c.areaAsid .store area.toNat 0x4000 with
      | .ok pages => putImage { setWants s n [] with lag := smDel s.lag n } pages due
      | .wait hs => later (setWants s n hs)
      | .fault _ => later s
    | _, _ => s

/-- What follows every step: the areas of saved contexts, and the reloads that are due (R394). -/
def settleSaved (old s : State) : State :=
  let s : State := { s with lag := s.lag.filter fun e => (ctxOf s e.1).phase == .saved }
  if s.ctxs.any fun e => e.2.phase == .saved then
    let ns := (s.ctxs.filter fun e => e.2.phase == .saved).map (·.1)
    ns.foldl autoReload (ns.foldl (recordSaved old) s)
  else s

/-! ## The instructions, each issued by the current context alone in its bundle -/
def execCsave (f : RRR) (s : State) : Host.Outcome State Fault Refusal := issueOne (f.pack 0xF2) (opCsave f) s
def execCload (f : RRR) (s : State) : Host.Outcome State Fault Refusal := issueOne (f.pack 0xF3) (opCload f) s

end Sys2Proof.Machine
end

