-- ==== Sys2Proof/Machine/Requests.lean ====
section
/-! DEFINITION. Service requests from outside (R261, R380): how one that meets a context out of rotation is served there, and
the operations that the DMC performs over Learo (R400 to R403). -/
namespace Sys2Proof.Machine

/-! ## Requests at a context that is not in rotation (R261) -/

/-- R382: whether a request is of the kind HALT. -/
def Req.isHalt (r : Req) : Bool := r matches .halt
/-- The save area that a SWAP names. -/
def Req.swapArea (r : Req) : Option Word :=
  match r with
  | .swap a => some a
  | _ => none
/-- The save area that a MSG names. -/
def Req.msgArea (r : Req) : Option Word :=
  match r with
  | .msg a => some a
  | _ => none
/-- A request is discharged. -/
def dropReq (s : State) (n : Nat) (r : Req) : State := modCtx s n fun c => { c with reqs := c.reqs.erase r }

/-- R261, R393: whether an area may be one of a context: aligned, clear of the tile's stash mappings. -/
def areaOk (s : State) (n : Nat) (area : Word) (len : Nat) : Bool :=
  area.toNat % 4096 == 0 && !(tileAt s (tileOf n)).maps.any fun m => rangesMeet area.toNat len m.2.base m.2.len

/-- The pages of an area of a context, written under the context's own ASID; none when it admits none. -/
def areaPages (s : State) (n : Nat) (area : Word) (len : Nat) : Option AreaRes :=
  match partAt s (partOfCtx s n) with
  | none => none
  | some p => if areaOk s n area len then some (resolveArea s p (partOfCtx s n) (ctxOf s n).asid.toNat .store area.toNat len) else none

/-- R252, R261: a parked context is pre-empted where it is, with RST 2. An area that cannot be written ends the request (DESIGN CHOICE,
log entry 32); while leases stand against it the request stays. -/
def swapParked (s : State) (n : Nat) (area : Word) : State :=
  match areaPages s n area (areaLen s n) with
  | some (.ok pages) => saveCtx (dropReq s n (.swap area)) n area (ctxOf s n).asid.toNat 2 false pages
  | some (.wait _) => s
  | _ => dropReq s n (.swap area)

/-- R391: the bytes of an image from one offset up to another, zeros among them. -/
def denseImage (img : SMap Byte) (lo hi : Nat) : SMap Byte := (List.range (hi - lo)).map fun i => (lo + i, smGet 0 img (lo + i))
/-- R380: a context's mailboxes move into the area named, at their places of the core region. -/
def moveMail (s : State) (n : Nat) (area : Word) : State :=
  match areaPages s n area 0x4000 with
  | some (.ok pages) =>
    let img := putPieces [] ((List.range 4).flatMap (mailPieces (ctxOf s n)))
    modCtx (putImage (dropReq s n (.msg area)) pages (denseImage img 0x1200 0x3A00)) n fun c => { c with mb := [] }
  | some (.wait _) => s
  | _ => dropReq s n (.msg area)

/-- R261, R382: the requests at a context that is not in rotation are served there, HALT first: a saved one, or one parked in service
or by PARK, is halted where it is (R401). None ends a park that a nested fault or PARK keeps (R378, R387); a reclaim is applied. -/
def serveAbsent (s : State) (n : Nat) : State :=
  let c := ctxOf s n
  if c.phase = .parked ∨ c.phase = .saved then
    let s := applyReclaim s n
    let here : Bool := c.phase == .saved || c.svc || c.wait == .service true
    if c.reqs.any Req.isHalt then
      (if here then modCtx s n fun c => { c with reqs := c.reqs.filter fun r => !r.isHalt, halted := true } else enterPending s n)
    else
      let s :=
        match c.reqs.findSome? Req.swapArea with
        | some a => if c.phase = .parked then swapParked s n a else dropReq s n (.swap a)
        | none => s
      match (ctxOf s n).reqs.findSome? Req.msgArea with
      | some a => moveMail s n a
      | none => s
  else s
/-- R261: after every step, requests that wait for leases at contexts out of rotation are tried again. -/
def settleRequests (s : State) : State :=
  (s.ctxs.map (·.1)).foldl (fun s n => if (ctxOf s n).reqs = [] then s else serveAbsent s n) s

/-! ## Learo (R401) -/

/-- An answer leaves the device. -/
def reply (s : State) (r : Reply) : State := { s with replies := s.replies ++ [r] }

/-- R401: the status of an operation on a context: NOTPLACED for a free one, GONE for a reaped one. -/
def targetStatus (c : Ctx) : Nat :=
  match c.phase with
  | .free => 6
  | .reaped => 5
  | _ => 0

/-- R415: whether the registers of a context were lost with its spindle. -/
def ctxLost (s : State) (n : Nat) : Bool := (spinAt s (spindleOf n)).dead

/-- R401: an operation on a context that is neither sealed, lost, free nor reaped. -/
def onTarget (s : State) (n : Nat) (k : State → State) : State :=
  if isSealed s n ∨ ctxLost s n then reply s .refused
  else
    let st := targetStatus (ctxOf s n)
    if st = 0 then k s else reply s (.status st)

/-- R261, R382: a request is raised; a context not in rotation is served at once. -/
def raiseReq (s : State) (n : Nat) (r : Req) : State :=
  serveAbsent (modCtx s n fun c => { c with reqs := if c.reqs.contains r then c.reqs else c.reqs ++ [r] }) n

/-- R387: whether PARK keeps a context parked. -/
def Ctx.byPark (c : Ctx) : Bool := c.phase == .parked && c.wait == .service true
/-- R378: whether a nested fault keeps a context parked. -/
def Ctx.byNested (c : Ctx) : Bool := c.phase == .parked && c.wait == .service false
/-- R401: what RESUME acts on: a context that is halted, wherever it is, or parked by PARK. -/
def resumable (c : Ctx) : Bool := (c.phase != .live && c.halted) || c.byPark
/-- R378, R387: what STEP acts on: a halted context that neither a nested fault nor PARK keeps parked. -/
def steppable (c : Ctx) : Bool := resumable c && !c.byPark && !c.byNested

/-- R401, R387: RESUME and STEP act as `rfs`, after PARK without the exchange; a context halted while saved is halted no more, nor is
one that a nested fault keeps parked (R378). -/
def resume (s : State) (n : Nat) (step : Bool) : State :=
  if (ctxOf s n).phase = .saved ∨ (ctxOf s n).byNested then
    reply (modCtx s n fun c => { c with halted := false, step := step }) (.status 0)
  else
    let parked := (ctxOf s n).wait = .service true
    let s := modCtx (returnFrom s n (!parked)) n fun c => { c with step := step }
    let s := if hasRequest (ctxOf s n) then (if (ctxOf s n).phase = .live then enterPending s n else serveAbsent s n) else s
    reply s (.status 0)

def execLearoHalt (n : Nat) (s : State) : Host.Outcome State Fault Refusal :=
  .next (onTarget s n fun s => reply (raiseReq s n .halt) (.status 0))
/-- A context on which RESUME or STEP does not act is answered BUSY (DESIGN CHOICE, log entry 32). -/
def execLearoResume (n : Nat) (s : State) : Host.Outcome State Fault Refusal :=
  .next (onTarget s n fun s => if resumable (ctxOf s n) then resume s n false else reply s (.status 2))
def execLearoStep (n : Nat) (s : State) : Host.Outcome State Fault Refusal :=
  .next (onTarget s n fun s => if steppable (ctxOf s n) then resume s n true else reply s (.status 2))
def execLearoDbgen (n : Nat) (on : Bool) (s : State) : Host.Outcome State Fault Refusal :=
  .next (if isSealed s n then reply s .refused else reply (modCtx s n fun c => { c with dbg := on }) (.status 0))
/-- R380: LEARO_MSG. -/
def execLearoMsg (n : Nat) (area : Word) (s : State) : Host.Outcome State Fault Refusal :=
  .next (onTarget s n fun s => reply (raiseReq s n (.msg area)) (.status 0))
/-- R380, R393: LEARO_SWAP; a context saved already is answered BUSY. -/
def execLearoSwap (n : Nat) (area : Word) (s : State) : Host.Outcome State Fault Refusal :=
  .next (onTarget s n fun s =>
    if (ctxOf s n).phase = .saved then reply s (.status 2) else reply (raiseReq s n (.swap area)) (.status 0))
/-- R396, R401: LEARO_KILL; it needs no register of the context. -/
def execLearoKill (n : Nat) (s : State) : Host.Outcome State Fault Refusal :=
  .next (if ctxLost s n ∧ !isSealed s n ∧ targetStatus (ctxOf s n) = 0 then reply (killTarget s n) (.status 0)
    else onTarget s n fun s => reply (killTarget s n) (.status 0))

/-! ### Queues -/

/-- R365: whether a tile runs a sealed launch. -/
def tileSealed (s : State) (t : Nat) : Bool := isSealed s (128 * t)

/-- R401: the freeze bit of every queue of a tile. -/
def freezeTile (s : State) (t : Nat) (on : Bool) : State :=
  let fz (q : Queue) : Queue := { q with frozen := on }
  let s := modTile s t fun x => { x with tensor := fz x.tensor, conv := fz x.conv, ringq := fz x.ringq }
  (List.range 8).foldl (fun s i =>
    (List.range 8).foldl (fun s ch =>
      setCopyChan s (8 * t + i) ch { copyChanAt s (8 * t + i) ch with q := fz (copyChanAt s (8 * t + i) ch).q }) s) s

def execLearoFreeze (t : Nat) (s : State) : Host.Outcome State Fault Refusal :=
  .next (if tileSealed s t then reply s .refused else reply (freezeTile s t true) (.status 0))
def execLearoThaw (t : Nat) (s : State) : Host.Outcome State Fault Refusal :=
  .next (if tileSealed s t then reply s .refused else reply (freezeTile s t false) (.status 0))

/-- R384: whether q numbers a queue. -/
def onQueue (s : State) (sp q : Nat) (k : State → State) : State :=
  if tileSealed s (tileOfSpindle sp) ∨ 11 ≤ q then reply s .refused else k s

def execLearoRdq (sp q : Nat) (s : State) : Host.Outcome State Fault Refusal :=
  .next (onQueue s sp q fun s => reply s (.words 0 ((List.range 5).map (stopDword s sp q))))
/-- R403: a queue that is not stopped gives BUSY, and nothing is done. -/
def execLearoRestart (sp q : Nat) (s : State) : Host.Outcome State Fault Refusal :=
  .next (onQueue s sp q fun s =>
    if (queueAt s sp q).stop.isSome then reply (restartQueue s sp q) (.status 0) else reply s (.status 2))
def execLearoSkip (sp q : Nat) (s : State) : Host.Outcome State Fault Refusal :=
  .next (onQueue s sp q fun s =>
    if (queueAt s sp q).stop.isSome then reply (skipQueue s sp q) (.status 0) else reply s (.status 2))

/-! ### Registers and stash -/

/-- R400, R401: a selector of a context that is not sealed; one out of range is refused. -/
def onSel (s : State) (n : Nat) (sel : Word) (wr : Bool) (k : Sel → State) : State :=
  match (if isSealed s n ∨ ctxLost s n then none else selOf sel) with
  | some x =>
    if selOk (ctxOf s n) x wr then
      let st := selStatus s n false x wr
      if st = 0 then k x else reply s (.status st)
    else reply s .refused
  | none => reply s .refused

def execLearoRdctx (n : Nat) (sel : Word) (s : State) : Host.Outcome State Fault Refusal :=
  .next (onSel s n sel false fun x => reply s (.words 0 [selRead s n x]))
def execLearoWrctx (n : Nat) (sel value : Word) (s : State) : Host.Outcome State Fault Refusal :=
  .next (onSel s n sel true fun x => reply (selWrite s n x value) (.status 0))

/-- R23: the bytes of a stash. -/
def stashSize : Nat := 2 ^ 22

/-- R401: the place of a stash offset, with the home byte behind it. -/
def offsetLoc (s : State) (t off : Nat) : Loc :=
  let x := tileAt s t
  match mapByOff x off with
  | some m =>
    let va := m.base + (off - m.stoff)
    .stash t off (if m.mode = 2 then none else (smFind x.lines (lineOf va)).map fun l => l.home * 128 + va % 128)
  | none => .stash t off none

def execLearoRdstash (t off len : Nat) (s : State) : Host.Outcome State Fault Refusal :=
  .next (if tileSealed s t ∨ stashSize < off + len then reply s .refused else reply s (.bytes (stashBytes s t off len)))
def execLearoWrstash (t off : Nat) (data : List Byte) (s : State) : Host.Outcome State Fault Refusal :=
  .next (if tileSealed s t ∨ stashSize < off + data.length then reply s .refused
    else reply (storeLocs s ((List.range data.length).map fun i => offsetLoc s t (off + i)) data) (.status 0))

end Sys2Proof.Machine
end

