-- ==== Sys2Proof/Machine/Scalar.lean ====
section
/-! DEFINITION. Scalar and predicate operations (R98 to R109, R112), latency bounds from R99. -/
namespace Sys2Proof.Machine

/-! ## Integer arithmetic (R100 to R102) -/

/-- R100: the low 32 bits, sign-extended. -/
def sext32 (w : Word) : Word := (w.setWidth 32).signExtend 64

def opAdd (f : RRR) : Op := binOp f 1 fun a b => a + b
def opSub (f : RRR) : Op := binOp f 1 fun a b => a - b
def opAddi (f : RRI) : Op := immOp f fun a => a + simmOf f
def opAddw (f : RRR) : Op := binOp f 1 fun a b => sext32 (a + b)
def opSubw (f : RRR) : Op := binOp f 1 fun a b => sext32 (a - b)
def opAddiw (f : RRI) : Op := immOp f fun a => sext32 (a + simmOf f)
def opMul (f : RRR) : Op := binOp f 2 fun a b => a * b
def opMulw (f : RRR) : Op := binOp f 2 fun a b => sext32 (a * b)
/-- R100: bits 127:64 of the signed product. -/
def opMulhS (f : RRR) : Op := binOp f 2 fun a b => ((a.signExtend 128 * b.signExtend 128) >>> 64).setWidth 64
/-- R100: bits 127:64 of the unsigned product. -/
def opMulhZ (f : RRR) : Op := binOp f 2 fun a b => ((a.setWidth 128 * b.setWidth 128) >>> 64).setWidth 64
/-- R100: sh is mod[1:0] + 1. -/
def opShadd (f : RRR) : Op := binOp f 1 fun a b => (a <<< (bits f.md.toNat 1 0 + 1)) + b

/-- R102: signed division. -/
def divS (a b : Word) : Word :=
  if b = 0 then BitVec.allOnes 64
  else if a = BitVec.intMin 64 ∧ b = BitVec.allOnes 64 then BitVec.intMin 64
  else wordI (a.toInt.tdiv b.toInt)
/-- R102: unsigned division. -/
def divZ (a b : Word) : Word := if b = 0 then BitVec.allOnes 64 else word (a.toNat / b.toNat)
/-- R102: signed remainder. -/
def remS (a b : Word) : Word :=
  if b = 0 then a
  else if a = BitVec.intMin 64 ∧ b = BitVec.allOnes 64 then 0
  else wordI (a.toInt.tmod b.toInt)
/-- R102: unsigned remainder. -/
def remZ (a b : Word) : Word := if b = 0 then a else word (a.toNat % b.toNat)
def opDivS (f : RRR) : Op := binOp f 8 divS
def opDivZ (f : RRR) : Op := binOp f 8 divZ
def opRemS (f : RRR) : Op := binOp f 8 remS
def opRemZ (f : RRR) : Op := binOp f 8 remZ

def opAddsS (f : RRR) : Op := satOp f 1 fun a b => a + b
def opAddsZ (f : RRR) : Op := satOp f 3 fun a b => a + b
def opSubsS (f : RRR) : Op := satOp f 1 fun a b => a - b
def opSubsZ (f : RRR) : Op := satOp f 3 fun a b => a - b
def opMinS (f : RRR) : Op := binOp f 1 fun a b => if b.slt a then b else a
def opMinZ (f : RRR) : Op := binOp f 1 fun a b => if b.ult a then b else a
def opMaxS (f : RRR) : Op := binOp f 1 fun a b => if a.slt b then b else a
def opMaxZ (f : RRR) : Op := binOp f 1 fun a b => if a.ult b then b else a

/-! ## Logic, shifts, bit fields (R103 to R106) -/

/-- R103: the count of a shift by a register. -/
def shCount (b : Word) : Nat := bits b.toNat 5 0
/-- R103: the count of a 32-bit shift. -/
def shCountW (b : Word) : Nat := bits b.toNat 4 0
/-- R103: the count of a shift by an immediate. -/
def shImm (f : RRI) : Nat := bits f.imm.toNat 5 0

def opAnd (f : RRR) : Op := binOp f 1 fun a b => a &&& b
def opOr (f : RRR) : Op := binOp f 1 fun a b => a ||| b
def opXor (f : RRR) : Op := binOp f 1 fun a b => a ^^^ b
def opAndn (f : RRR) : Op := binOp f 1 fun a b => a &&& ~~~b
def opAndi (f : RRI) : Op := immOp f fun a => a &&& simmOf f
def opOri (f : RRI) : Op := immOp f fun a => a ||| simmOf f
def opXori (f : RRI) : Op := immOp f fun a => a ^^^ simmOf f
def opShl (f : RRR) : Op := binOp f 1 fun a b => a <<< shCount b
def opShrZ (f : RRR) : Op := binOp f 1 fun a b => a >>> shCount b
def opShrS (f : RRR) : Op := binOp f 1 fun a b => a.sshiftRight (shCount b)
def opShli (f : RRI) : Op := immOp f fun a => a <<< shImm f
def opShriZ (f : RRI) : Op := immOp f fun a => a >>> shImm f
def opShriS (f : RRI) : Op := immOp f fun a => a.sshiftRight (shImm f)
def opRot (f : RRR) : Op := binOp f 1 fun a b => a.rotateRight (shCount b)
def opShlw (f : RRR) : Op := binOp f 1 fun a b => sext32 (a <<< shCountW b)
def opShrwZ (f : RRR) : Op := binOp f 1 fun a b => ((a.setWidth 32) >>> shCountW b).signExtend 64
def opShrwS (f : RRR) : Op := binOp f 1 fun a b => ((a.setWidth 32).sshiftRight (shCountW b)).signExtend 64

/-- R104: imm41, sign-extended. -/
def opMovi (f : RI) : Op := scalarOp f.d [] 1 fun _ => f.imm.signExtend 64
/-- R104: bits 63:41 replaced; the destination is read at issue. -/
def opMovhi (f : RI) : Op :=
  scalarOp f.d [] 1 fun v => f.imm.extractLsb' 0 23 ++ (readX v.c f.d.toNat).extractLsb' 0 41

/-- R105: the field of A. -/
def bfField (f : RRI) (a : Word) : Nat := bits a.toNat (bits f.imm.toNat 5 0 + bits f.imm.toNat 13 8) (bits f.imm.toNat 5 0)
def opBfxS (f : RRI) : Op := immOp f fun a => wordI (sext (bfField f a) (bits f.imm.toNat 13 8 + 1))
def opBfxZ (f : RRI) : Op := immOp f fun a => word (bfField f a)
/-- R105: D with len bits from lsb on replaced by the low bits of A. -/
def insertField (lsb len : Nat) (d a : Word) : Word :=
  let mask : Word := word ((2 ^ len - 1) * 2 ^ lsb)
  (d &&& ~~~mask) ||| ((a <<< lsb) &&& mask)
def opBfi (f : RRI) : Op :=
  scalarOp f.d [f.a] 1 fun v =>
    insertField (bits f.imm.toNat 5 0) (bits f.imm.toNat 13 8 + 1) (readX v.c f.d.toNat) (v.arg 0)

/-- R106: leading zero bits below bit n. -/
def clzN (a : Nat) : Nat → Nat
  | 0 => 0
  | n + 1 => if bit a n then 0 else clzN a n + 1
/-- R106: trailing zero bits among the bits below n. -/
def ctzN (a : Nat) : Nat → Nat
  | 0 => 0
  | n + 1 => if bit a 0 then 0 else ctzN (a / 2) n + 1
/-- R106: one bits below bit n. -/
def popcN (a : Nat) : Nat → Nat
  | 0 => 0
  | n + 1 => popcN a n + (if bit a n then 1 else 0)
def opClz (f : RRR) : Op := unOp f fun a => word (clzN a.toNat 64)
def opCtz (f : RRR) : Op := unOp f fun a => word (ctzN a.toNat 64)
def opPopc (f : RRR) : Op := unOp f fun a => word (popcN a.toNat 64)
/-- R106: bytes in reverse order. -/
def opBswap (f : RRR) : Op := unOp f fun a => word (leNat (leBytes 8 a.toNat).reverse)
def opBrev (f : RRR) : Op := unOp f fun a => a.reverse
def opClmul (f : RRR) : Op := binOp f 2 fun a b => word (clmulN a.toNat b.toNat 64)
def opClmulh (f : RRR) : Op := binOp f 2 fun a b => word (clmulN a.toNat b.toNat 64 / 2 ^ 64)

/-! ## Predicates and selection (R107 to R109, R112) -/

def opCmp (f : RRR) : Op :=
  { srcs := [f.a, f.b], dests := dstS f.d
    run := fun v s => .ok s (landP f.d (cond (bits f.md.toNat 3 0) (v.arg 0) (v.arg 1)) 1) }
/-- R107: I is imm32[27:0] sign-extended, cc imm32[31:28]. -/
def opCmpi (f : RRI) : Op :=
  { srcs := [f.a], dests := dstS f.d
    run := fun v s => .ok s (landP f.d
      (cond (bits f.imm.toNat 31 28) (v.arg 0) ((f.imm.extractLsb' 0 28).signExtend 64)) 1) }
/-- R108: bit 2a + b of the truth table. -/
def opPbool (f : RRR) : Op :=
  { dests := dstS f.d
    run := fun v s =>
      let i := (if readP v.c f.a then 2 else 0) + (if readP v.c f.b then 1 else 0)
      .ok s (landP f.d (bit f.md.toNat i) 1) }
def opSel (f : RRR) : Op := scalarOp f.d [f.a, f.b] 1 fun v => if readP v.c f.c then v.arg 0 else v.arg 1
/-- R112: no effect, no result. -/
def opNop (_ : RRR) : Op := { run := fun _ s => .ok s {} }

/-! ## The instructions, each issued by the current context alone in its bundle -/
def execAdd (f : RRR) (s : State) : Host.Outcome State Fault Refusal := issueOne (f.pack 0x00) (opAdd f) s
def execSub (f : RRR) (s : State) : Host.Outcome State Fault Refusal := issueOne (f.pack 0x01) (opSub f) s
def execAddi (f : RRI) (s : State) : Host.Outcome State Fault Refusal := issueOne (f.pack 0x02) (opAddi f) s
def execMul (f : RRR) (s : State) : Host.Outcome State Fault Refusal := issueOne (f.pack 0x03) (opMul f) s
def execMulhS (f : RRR) (s : State) : Host.Outcome State Fault Refusal := issueOne (f.pack 0x04) (opMulhS f) s
def execMulhZ (f : RRR) (s : State) : Host.Outcome State Fault Refusal := issueOne (f.pack 0x05) (opMulhZ f) s
def execDivS (f : RRR) (s : State) : Host.Outcome State Fault Refusal := issueOne (f.pack 0x06) (opDivS f) s
def execDivZ (f : RRR) (s : State) : Host.Outcome State Fault Refusal := issueOne (f.pack 0x07) (opDivZ f) s
def execRemS (f : RRR) (s : State) : Host.Outcome State Fault Refusal := issueOne (f.pack 0x08) (opRemS f) s
def execRemZ (f : RRR) (s : State) : Host.Outcome State Fault Refusal := issueOne (f.pack 0x09) (opRemZ f) s
def execAddsS (f : RRR) (s : State) : Host.Outcome State Fault Refusal := issueOne (f.pack 0x0A) (opAddsS f) s
def execAddsZ (f : RRR) (s : State) : Host.Outcome State Fault Refusal := issueOne (f.pack 0x0B) (opAddsZ f) s
def execSubsS (f : RRR) (s : State) : Host.Outcome State Fault Refusal := issueOne (f.pack 0x0C) (opSubsS f) s
def execSubsZ (f : RRR) (s : State) : Host.Outcome State Fault Refusal := issueOne (f.pack 0x0D) (opSubsZ f) s
def execMinS (f : RRR) (s : State) : Host.Outcome State Fault Refusal := issueOne (f.pack 0x0E) (opMinS f) s
def execMinZ (f : RRR) (s : State) : Host.Outcome State Fault Refusal := issueOne (f.pack 0x0F) (opMinZ f) s
def execMaxS (f : RRR) (s : State) : Host.Outcome State Fault Refusal := issueOne (f.pack 0x10) (opMaxS f) s
def execMaxZ (f : RRR) (s : State) : Host.Outcome State Fault Refusal := issueOne (f.pack 0x11) (opMaxZ f) s
def execAnd (f : RRR) (s : State) : Host.Outcome State Fault Refusal := issueOne (f.pack 0x12) (opAnd f) s
def execOr (f : RRR) (s : State) : Host.Outcome State Fault Refusal := issueOne (f.pack 0x13) (opOr f) s
def execXor (f : RRR) (s : State) : Host.Outcome State Fault Refusal := issueOne (f.pack 0x14) (opXor f) s
def execAndn (f : RRR) (s : State) : Host.Outcome State Fault Refusal := issueOne (f.pack 0x15) (opAndn f) s
def execAndi (f : RRI) (s : State) : Host.Outcome State Fault Refusal := issueOne (f.pack 0x16) (opAndi f) s
def execOri (f : RRI) (s : State) : Host.Outcome State Fault Refusal := issueOne (f.pack 0x17) (opOri f) s
def execXori (f : RRI) (s : State) : Host.Outcome State Fault Refusal := issueOne (f.pack 0x18) (opXori f) s
def execShl (f : RRR) (s : State) : Host.Outcome State Fault Refusal := issueOne (f.pack 0x19) (opShl f) s
def execShrZ (f : RRR) (s : State) : Host.Outcome State Fault Refusal := issueOne (f.pack 0x1A) (opShrZ f) s
def execShrS (f : RRR) (s : State) : Host.Outcome State Fault Refusal := issueOne (f.pack 0x1B) (opShrS f) s
def execShli (f : RRI) (s : State) : Host.Outcome State Fault Refusal := issueOne (f.pack 0x1C) (opShli f) s
def execShriZ (f : RRI) (s : State) : Host.Outcome State Fault Refusal := issueOne (f.pack 0x1D) (opShriZ f) s
def execShriS (f : RRI) (s : State) : Host.Outcome State Fault Refusal := issueOne (f.pack 0x1E) (opShriS f) s
def execRot (f : RRR) (s : State) : Host.Outcome State Fault Refusal := issueOne (f.pack 0x1F) (opRot f) s
def execShadd (f : RRR) (s : State) : Host.Outcome State Fault Refusal := issueOne (f.pack 0x20) (opShadd f) s
def execMovi (f : RI) (s : State) : Host.Outcome State Fault Refusal := issueOne (f.pack 0x21) (opMovi f) s
def execMovhi (f : RI) (s : State) : Host.Outcome State Fault Refusal := issueOne (f.pack 0x22) (opMovhi f) s
def execBfxS (f : RRI) (s : State) : Host.Outcome State Fault Refusal := issueOne (f.pack 0x23) (opBfxS f) s
def execBfxZ (f : RRI) (s : State) : Host.Outcome State Fault Refusal := issueOne (f.pack 0x24) (opBfxZ f) s
def execBfi (f : RRI) (s : State) : Host.Outcome State Fault Refusal := issueOne (f.pack 0x25) (opBfi f) s
def execClz (f : RRR) (s : State) : Host.Outcome State Fault Refusal := issueOne (f.pack 0x26) (opClz f) s
def execCtz (f : RRR) (s : State) : Host.Outcome State Fault Refusal := issueOne (f.pack 0x27) (opCtz f) s
def execPopc (f : RRR) (s : State) : Host.Outcome State Fault Refusal := issueOne (f.pack 0x28) (opPopc f) s
def execClmul (f : RRR) (s : State) : Host.Outcome State Fault Refusal := issueOne (f.pack 0x29) (opClmul f) s
def execClmulh (f : RRR) (s : State) : Host.Outcome State Fault Refusal := issueOne (f.pack 0x2A) (opClmulh f) s
def execBswap (f : RRR) (s : State) : Host.Outcome State Fault Refusal := issueOne (f.pack 0x2B) (opBswap f) s
def execBrev (f : RRR) (s : State) : Host.Outcome State Fault Refusal := issueOne (f.pack 0x37) (opBrev f) s
def execCmp (f : RRR) (s : State) : Host.Outcome State Fault Refusal := issueOne (f.pack 0x2C) (opCmp f) s
def execCmpi (f : RRI) (s : State) : Host.Outcome State Fault Refusal := issueOne (f.pack 0x2D) (opCmpi f) s
def execPbool (f : RRR) (s : State) : Host.Outcome State Fault Refusal := issueOne (f.pack 0x2E) (opPbool f) s
def execSel (f : RRR) (s : State) : Host.Outcome State Fault Refusal := issueOne (f.pack 0x31) (opSel f) s
def execAddw (f : RRR) (s : State) : Host.Outcome State Fault Refusal := issueOne (f.pack 0x38) (opAddw f) s
def execSubw (f : RRR) (s : State) : Host.Outcome State Fault Refusal := issueOne (f.pack 0x39) (opSubw f) s
def execMulw (f : RRR) (s : State) : Host.Outcome State Fault Refusal := issueOne (f.pack 0x3A) (opMulw f) s
def execShlw (f : RRR) (s : State) : Host.Outcome State Fault Refusal := issueOne (f.pack 0x3B) (opShlw f) s
def execShrwZ (f : RRR) (s : State) : Host.Outcome State Fault Refusal := issueOne (f.pack 0x3C) (opShrwZ f) s
def execShrwS (f : RRR) (s : State) : Host.Outcome State Fault Refusal := issueOne (f.pack 0x3D) (opShrwS f) s
def execAddiw (f : RRI) (s : State) : Host.Outcome State Fault Refusal := issueOne (f.pack 0x3E) (opAddiw f) s
def execNop (f : RRR) (s : State) : Host.Outcome State Fault Refusal := issueOne (f.pack 0x3F) (opNop f) s

end Sys2Proof.Machine
end

