-- ==== Sys2Proof/Machine/Slots.lean ====
section
/-! DEFINITION. The slot operations by their opcodes (R65, R66), the check of a dictionary entry (R34), and `dset` (R399). -/
namespace Sys2Proof.Machine

/-- What a slot word of an opcode other than that of `dset` does; of `dset` this gives the destination only, which R56 needs. -/
def slotCoreAt (op : Nat) (w : Word) : Op :=
  match op with
  | 0x00 => opAdd (RRR.unpack w)
  | 0x01 => opSub (RRR.unpack w)
  | 0x02 => opAddi (RRI.unpack w)
  | 0x03 => opMul (RRR.unpack w)
  | 0x04 => opMulhS (RRR.unpack w)
  | 0x05 => opMulhZ (RRR.unpack w)
  | 0x06 => opDivS (RRR.unpack w)
  | 0x07 => opDivZ (RRR.unpack w)
  | 0x08 => opRemS (RRR.unpack w)
  | 0x09 => opRemZ (RRR.unpack w)
  | 0x0A => opAddsS (RRR.unpack w)
  | 0x0B => opAddsZ (RRR.unpack w)
  | 0x0C => opSubsS (RRR.unpack w)
  | 0x0D => opSubsZ (RRR.unpack w)
  | 0x0E => opMinS (RRR.unpack w)
  | 0x0F => opMinZ (RRR.unpack w)
  | 0x10 => opMaxS (RRR.unpack w)
  | 0x11 => opMaxZ (RRR.unpack w)
  | 0x12 => opAnd (RRR.unpack w)
  | 0x13 => opOr (RRR.unpack w)
  | 0x14 => opXor (RRR.unpack w)
  | 0x15 => opAndn (RRR.unpack w)
  | 0x16 => opAndi (RRI.unpack w)
  | 0x17 => opOri (RRI.unpack w)
  | 0x18 => opXori (RRI.unpack w)
  | 0x19 => opShl (RRR.unpack w)
  | 0x1A => opShrZ (RRR.unpack w)
  | 0x1B => opShrS (RRR.unpack w)
  | 0x1C => opShli (RRI.unpack w)
  | 0x1D => opShriZ (RRI.unpack w)
  | 0x1E => opShriS (RRI.unpack w)
  | 0x1F => opRot (RRR.unpack w)
  | 0x20 => opShadd (RRR.unpack w)
  | 0x21 => opMovi (RI.unpack w)
  | 0x22 => opMovhi (RI.unpack w)
  | 0x23 => opBfxS (RRI.unpack w)
  | 0x24 => opBfxZ (RRI.unpack w)
  | 0x25 => opBfi (RRI.unpack w)
  | 0x26 => opClz (RRR.unpack w)
  | 0x27 => opCtz (RRR.unpack w)
  | 0x28 => opPopc (RRR.unpack w)
  | 0x29 => opClmul (RRR.unpack w)
  | 0x2A => opClmulh (RRR.unpack w)
  | 0x2B => opBswap (RRR.unpack w)
  | 0x2C => opCmp (RRR.unpack w)
  | 0x2D => opCmpi (RRI.unpack w)
  | 0x2E => opPbool (RRR.unpack w)
  | 0x2F => opMfc (RRI.unpack w)
  | 0x30 => opMtc (RRI.unpack w)
  | 0x31 => opSel (RRR.unpack w)
  | 0x32 => opBr (BRF.unpack w)
  | 0x33 => opBri (RRR.unpack w)
  | 0x34 => opLoop (BRF.unpack w)
  | 0x35 => opLoopRot (BRF.unpack w)
  | 0x36 => opLoopW (BRF.unpack w)
  | 0x37 => opBrev (RRR.unpack w)
  | 0x38 => opAddw (RRR.unpack w)
  | 0x39 => opSubw (RRR.unpack w)
  | 0x3A => opMulw (RRR.unpack w)
  | 0x3B => opShlw (RRR.unpack w)
  | 0x3C => opShrwZ (RRR.unpack w)
  | 0x3D => opShrwS (RRR.unpack w)
  | 0x3E => opAddiw (RRI.unpack w)
  | 0x3F => opNop (RRR.unpack w)
  | 0x40 => opVaddS32 (RRR.unpack w)
  | 0x41 => opVaddS16 (RRR.unpack w)
  | 0x42 => opVaddS8 (RRR.unpack w)
  | 0x43 => opVsubS32 (RRR.unpack w)
  | 0x44 => opVsubS16 (RRR.unpack w)
  | 0x45 => opVsubS8 (RRR.unpack w)
  | 0x46 => opVmulS32 (RRR.unpack w)
  | 0x47 => opVmulS16 (RRR.unpack w)
  | 0x48 => opVminS32 (RRR.unpack w)
  | 0x49 => opVmaxS32 (RRR.unpack w)
  | 0x4A => opVminS16 (RRR.unpack w)
  | 0x4B => opVmaxS16 (RRR.unpack w)
  | 0x4C => opVand (RRR.unpack w)
  | 0x4D => opVor (RRR.unpack w)
  | 0x4E => opVxor (RRR.unpack w)
  | 0x4F => opVshlS32 (RRR.unpack w)
  | 0x50 => opVshrS32 (RRR.unpack w)
  | 0x51 => opVshlS16 (RRR.unpack w)
  | 0x52 => opVshrS16 (RRR.unpack w)
  | 0x53 => opVmacwS16 (RRR.unpack w)
  | 0x54 => opVdotS8 (RRR.unpack w)
  | 0x55 => opVdotS16 (RRR.unpack w)
  | 0x56 => opVclmul (RRR.unpack w)
  | 0x57 => opVclmulh (RRR.unpack w)
  | 0x58 => opVcmpS32 (RRR.unpack w)
  | 0x59 => opVcmpS16 (RRR.unpack w)
  | 0x5A => opVsel (RRR.unpack w)
  | 0x5B => opVaddF32 (RRR.unpack w)
  | 0x5C => opVsubF32 (RRR.unpack w)
  | 0x5D => opVmulF32 (RRR.unpack w)
  | 0x5E => opVfmaF32 (RRR.unpack w)
  | 0x5F => opVminF32 (RRR.unpack w)
  | 0x60 => opVmaxF32 (RRR.unpack w)
  | 0x61 => opVcmpF32 (RRR.unpack w)
  | 0x62 => opVaddBf16 (RRR.unpack w)
  | 0x63 => opVmulBf16 (RRR.unpack w)
  | 0x64 => opVfmaBf16 (RRR.unpack w)
  | 0x65 => opVaddF16 (RRR.unpack w)
  | 0x66 => opVmulF16 (RRR.unpack w)
  | 0x67 => opVfmaF16 (RRR.unpack w)
  | 0x68 => opVcvtF32 (RRR.unpack w)
  | 0x69 => opVcvtBf16 (RRR.unpack w)
  | 0x6A => opVcvtF16 (RRR.unpack w)
  | 0x6B => opVcvtF8e4 (RRR.unpack w)
  | 0x6C => opVcvtF8e5 (RRR.unpack w)
  | 0x6D => opVcvtS32 (RRR.unpack w)
  | 0x6E => opVcvtS16 (RRR.unpack w)
  | 0x6F => opVcvtS8 (RRR.unpack w)
  | 0x70 => opVexp2 (RRR.unpack w)
  | 0x71 => opVlog2 (RRR.unpack w)
  | 0x72 => opVrcp (RRR.unpack w)
  | 0x73 => opVrsqrt (RRR.unpack w)
  | 0x74 => opVtanh (RRR.unpack w)
  | 0x75 => opVexp (RRR.unpack w)
  | 0x76 => opVlog (RRR.unpack w)
  | 0x77 => opVredF32 (RRR.unpack w)
  | 0x78 => opVredS32 (RRR.unpack w)
  | 0x79 => opVscanF32 (RRR.unpack w)
  | 0x7A => opVscanS32 (RRR.unpack w)
  | 0x7B => opVperm (RRR.unpack w)
  | 0x7C => opVsplat (RRI.unpack w)
  | 0x7D => opVslide (RRI.unpack w)
  | 0x7E =>
    let f := RRR.unpack w
    if bit f.opm 3 then opVpack f else opVzip f
  | 0x7F => opVext (RRI.unpack w)
  | 0x80 => opMmF8e4 (ENGF.unpack w)
  | 0x81 => opMmF8e5 (ENGF.unpack w)
  | 0x82 => opMmF6e3 (ENGF.unpack w)
  | 0x83 => opMmF6e2 (ENGF.unpack w)
  | 0x84 => opMmF4 (ENGF.unpack w)
  | 0x85 => opMmBf16 (ENGF.unpack w)
  | 0x86 => opMmF16 (ENGF.unpack w)
  | 0x87 => opMmS8 (ENGF.unpack w)
  | 0x88 => opMmS4 (ENGF.unpack w)
  | 0x89 => opMmMx (ENGF.unpack w)
  | 0x8A => opMmGrp (ENGF.unpack w)
  | 0x8B => opMmPriv (ENGF.unpack w)
  | 0x8C => opElLd (ENGF.unpack w)
  | 0x8D => opRgCfg (RRR.unpack w)
  | 0x8E => opRgAdv (ENGF.unpack w)
  | 0x8F => opAccZero (ENGF.unpack w)
  | 0x90 => opAccSt (ENGF.unpack w)
  | 0x91 => opAccLd (ENGF.unpack w)
  | 0x92 => opAccMv (ENGF.unpack w)
  | 0x93 => opCvRun (ENGF.unpack w)
  | 0x94 => opCvCfg (RRR.unpack w)
  | 0x95 => opSaLd (RRR.unpack w)
  | 0x96 => opSaMmBf16 (RRR.unpack w)
  | 0x97 => opSaMmF8 (RRR.unpack w)
  | 0x98 => opSaSt (RRR.unpack w)
  | 0x99 => opSaZero (RRR.unpack w)
  | 0x9A => opSaMv (RRR.unpack w)
  | 0x9B => opAttnInit (RRR.unpack w)
  | 0x9C => opAttnQk (RRR.unpack w)
  | 0x9D => opAttnSmx (RRR.unpack w)
  | 0x9E => opAttnPv (RRR.unpack w)
  | 0x9F => opGrpIdx (ENGF.unpack w)
  | 0xA0 => opLdS8 (MEMF.unpack w)
  | 0xA1 => opLdZ8 (MEMF.unpack w)
  | 0xA2 => opLdS16 (MEMF.unpack w)
  | 0xA3 => opLdZ16 (MEMF.unpack w)
  | 0xA4 => opLdS32 (MEMF.unpack w)
  | 0xA5 => opLdZ32 (MEMF.unpack w)
  | 0xA6 => opLdS64 (MEMF.unpack w)
  | 0xA7 => opStS8 (MEMF.unpack w)
  | 0xA8 => opStS16 (MEMF.unpack w)
  | 0xA9 => opStS32 (MEMF.unpack w)
  | 0xAA => opStS64 (MEMF.unpack w)
  | 0xAB => opVldS32 (MEMF.unpack w)
  | 0xAC => opVstS32 (MEMF.unpack w)
  | 0xAD => opVldS16 (MEMF.unpack w)
  | 0xAE => opVstS16 (MEMF.unpack w)
  | 0xAF => opSmMap (RRR.unpack w)
  | 0xB0 => opSmUnmap (RRR.unpack w)
  | 0xB1 => opSmPin (RRR.unpack w)
  | 0xB2 => opSmUnpin (RRR.unpack w)
  | 0xB3 => opCpGet (ENGF.unpack w)
  | 0xB4 => opCpPut (ENGF.unpack w)
  | 0xB5 => opCpRput (ENGF.unpack w)
  | 0xB6 => opCpGth (ENGF.unpack w)
  | 0xB7 => opBarInit (RRR.unpack w)
  | 0xB8 => opBarArr (RRR.unpack w)
  | 0xB9 => opBarWait (RRR.unpack w)
  | 0xBA => opAmoAdd (MEMF.unpack w)
  | 0xBB => opAmoAnd (MEMF.unpack w)
  | 0xBC => opAmoOr (MEMF.unpack w)
  | 0xBD => opAmoXor (MEMF.unpack w)
  | 0xBE => opAmoMinS (MEMF.unpack w)
  | 0xBF => opAmoMinZ (MEMF.unpack w)
  | 0xC0 => opAmoMaxS (MEMF.unpack w)
  | 0xC1 => opAmoMaxZ (MEMF.unpack w)
  | 0xC2 => opAmoSwap (MEMF.unpack w)
  | 0xC3 => opAmoCas (MEMF.unpack w)
  | 0xC4 => opAmoAddF32 (MEMF.unpack w)
  | 0xC5 => opFence (MEMF.unpack w)
  | 0xC6 => opCpub (MEMF.unpack w)
  | 0xC7 => opIfence (RRR.unpack w)
  | 0xC8 => opTokWait (ENGF.unpack w)
  | 0xC9 => opTokTest (RRR.unpack w)
  | 0xCA => opKvLdk (RRR.unpack w)
  | 0xCB => opKvLdv (RRR.unpack w)
  | 0xCC => opKvApp (RRR.unpack w)
  | 0xCD => opPref (MEMF.unpack w)
  | 0xCE => opBarTest (RRR.unpack w)
  | 0xCF => opSmFlush (RRR.unpack w)
  | 0xD0 => opHstart (RRR.unpack w)
  | 0xD1 => opHreap (RRR.unpack w)
  | 0xD2 => opHstat (RRR.unpack w)
  | 0xD3 => opVclaim (RRI.unpack w)
  | 0xD4 => opVrel (RRR.unpack w)
  | 0xD5 => opVgrow (RRI.unpack w)
  | 0xD6 => opFork (RRR.unpack w)
  | 0xD7 => opForkR (RRR.unpack w)
  | 0xD8 => opJoin (RRR.unpack w)
  | 0xD9 => opJtest (RRR.unpack w)
  | 0xDA => opChbind (RRR.unpack w)
  | 0xDB => opChunbind (RRR.unpack w)
  | 0xDC => opChstat (RRR.unpack w)
  | 0xDD => opAmsend (RRR.unpack w)
  | 0xDE => opAmsendW (RRR.unpack w)
  | 0xDF => opAmrecv (RRI.unpack w)
  | 0xE0 => opAmret (RRR.unpack w)
  | 0xE1 => opMbstat (RRI.unpack w)
  | 0xE2 => opFcall (RRR.unpack w)
  | 0xE3 => opFwait (RRR.unpack w)
  | 0xE4 => opFpoll (RRR.unpack w)
  | 0xE5 => opFdrop (RRR.unpack w)
  | 0xE6 => opSqBatch (RRR.unpack w)
  | 0xE7 => opSqEmit (RRR.unpack w)
  | 0xE8 => opSqPfq (RRR.unpack w)
  | 0xE9 => opAdpClaim (RRR.unpack w)
  | 0xEA => opAdpBind (RRR.unpack w)
  | 0xEB => opLaunch (RRR.unpack w)
  | 0xEC => opSdisp (RRI.unpack w)
  | 0xED => opSdispTbl (RRR.unpack w)
  | 0xEE =>
    match (RRR.unpack w).md.toNat % 4 with
    | 0 => opSleep (RRR.unpack w)
    | 1 => opTend (RRR.unpack w)
    | 2 => opHend (RRR.unpack w)
    | _ => opIll (RRR.unpack w)
  | 0xEF => opVstat (RRR.unpack w)
  | 0xF0 => opTrap (RI.unpack w)
  | 0xF1 => opRfs (RRR.unpack w)
  | 0xF2 => opCsave (RRR.unpack w)
  | 0xF3 => opCload (RRR.unpack w)
  | 0xF4 => opCtxkill (RRR.unpack w)
  | 0xF5 =>
    match (RRI.unpack w).imm.toNat % 256 with
    | 0 => opPctlQrec (RRI.unpack w)
    | 1 => opPctlQskip (RRI.unpack w)
    | 2 => opPctlPost (RRI.unpack w)
    | 3 => opPctlPark (RRI.unpack w)
    | _ => opIll (RRR.unpack w)
  | 0xF6 =>
    match (RRR.unpack w).md.toNat % 4 with
    | 0 => opXinvPage (RRR.unpack w)
    | 1 => opXinvAsid (RRR.unpack w)
    | 2 => opXinvQ (RRR.unpack w)
    | _ => opIll (RRR.unpack w)
  | 0xF7 => opKvinv (RRR.unpack w)
  | 0xF8 => opAsidSet (RRR.unpack w)
  | 0xF9 => opAsidRet (RRR.unpack w)
  | 0xFA => { dests := dstS (RRR.unpack w).d, run := fun _ s => .ok s {} }
  | 0xFB => opBkpt (RI.unpack w)
  | 0xFC => opWpset (RRR.unpack w)
  | 0xFD => opDbgRd (RRR.unpack w)
  | 0xFE => opDbgWr (RRR.unpack w)
  | _ => opIll (RRR.unpack w)
/-- The same, by the word's own opcode. -/
def slotCore (w : Word) : Op := slotCoreAt (opField w).toNat w

/-- The slot operations of a bundle's words. -/
def slotOps (f : Word → Op) (ops : List (Slot × Word)) : List SlotOp := ops.map fun o => ⟨o.1, o.2, f o.2⟩

/-- R34: the lowest reason for which a dictionary entry of six dwords is refused. -/
def dictReason (e : List Word) : Option Nat :=
  let hw := (e.getD 0 0).toNat
  let h := BitVec.ofNat 16 hw
  let present := hdrSlots h
  let ops := slotOps slotCore (present.map fun s => (s, e.getD (s.num + 1) 0))
  if bits hw 63 16 ≠ 0 ∨ bits hw 7 0 ≠ 0 then some 1
  else if [Slot.s0, .s1, .m, .v, .x].any fun s => !present.contains s && e.getD (s.num + 1) 0 != 0 then some 2
  else if ops.any fun o => opField o.word != 0xFF && !slotAdmits o.slot (opField o.word) then some 3
  else if ops.any fun o => opField o.word == 0xFF || !slotLegal o.word then some 4
  else if bit hw 8 && !present.contains .m then some 5
  else if ops.any fun o => clashes o ops then some 6
  else none

/-- R399: dset. -/
def opDset (f : RRR) : Op :=
  { srcs := [f.a, f.b], dests := dstS f.d
    run := fun v s =>
      let a := (v.arg 0).toNat
      let b := (v.arg 1).toNat
      if (tileAt s (tileOf v.n)).dsize ≤ a ∨ b % 8 ≠ 0 then .fault argFault
      else
        withPlaces false false v s .load false b 48 fun s locs =>
          let e := (chunks 8 6 (readLocs s locs)).map fun x => word (leNat x)
          match dictReason e with
          | some r => .fault ⟨0x08, 0, word r, none, []⟩
          | none => .ok (modTile s (tileOf v.n) fun t => { t with dict := smSet [] t.dict a e }) (heldStop v (landS v.c f.d 0 1)) }
def execDset (f : RRR) (s : State) : Host.Outcome State Fault Refusal := issueOne (f.pack 0xFA) (opDset f) s

/-- What a slot word does. -/
def slotMeaning (w : Word) : Op := if opField w = 0xFA then opDset (RRR.unpack w) else slotCore w

end Sys2Proof.Machine
end

