-- ==== Sys2Proof/Machine/Headstock.lean ====
section
/-! DEFINITION. Headstock: the Faceplate and the stream A slots (R422, R424), the commands of a stream (R246, R423), and
launches, from the check of the record to the completion record (R247 to R251, R365). -/
namespace Sys2Proof.Machine

/-! ## Streams -/

/-- R246: a stream of a partition. -/
def Part.stream (p : Part) : Stream → List StreamRec
  | .H => p.streamH
  | .A => p.streamA
  | .D => p.streamD
/-- R246: Headstock has taken the head of a stream: what is left of the stream. -/
def setStream (p : Part) (st : Stream) (x : List StreamRec) : Part :=
  let p := { p with lastStream := st }
  match st with
  | .H => { p with streamH := x }
  | .A => { p with streamA := x }
  | .D => { p with streamD := x }

/-- R344: the carriers whose shares the model schedules: Headstock's service slots and those of the Chuck's request pipeline;
the numbers of the carriers in a configuration record are the model's (DESIGN CHOICE, log entry 81). -/
def headstockCarrier : Nat := 0
def chuckCarrier : Nat := 1
/-- R344: the share that a configuration takes of a carrier. -/
def shareOf (c : PartConf) (carrier : Nat) : Nat := ((c.shares.filter fun e => e.1 == carrier).map (·.2)).sum
/-- R246, R345: the partition that owns service slot k of a carrier, of 64: the shares in ascending partition number. -/
def ownerOfSlot (carrier : Nat) : List (Nat × Part) → Nat → Option Nat
  | [], _ => none
  | e :: es, k => if k < shareOf e.2.conf carrier then some e.1 else ownerOfSlot carrier es (k - shareOf e.2.conf carrier)
/-- R246, R345: the partition that a carrier serves in this cycle; a slot that nobody owns stays idle. -/
def shareOwner (s : State) (carrier : Nat) : Option Nat := ownerOfSlot carrier s.parts (s.svcCycle % 64)

/-- R422, R424: the eight dwords of a slot of n slots for a sequence number. -/
def slotDwords (m : SMap Byte) (n : Nat) (seq : Nat) : List Word :=
  (List.range 8).map fun i => word (leNat (smGetList 0 m (64 * (seq % n) + 8 * i) 8))

/-- R423: the record that a stream has accepted, if it is a PUBLISH, and the lines stored to from then on. -/
def pubMark (s : State) (pnum : Nat) (st : Stream) (slot : List Word) : State :=
  if (slot.getD 0 0).toNat % 256 = 3 then { s with publishing := s.publishing ++ [⟨pnum, st, (slot.getD 7 0).toNat, []⟩] } else s

/-- R422: Headstock examines a Faceplate slot. One that holds FPNEXT is copied whole and FPNEXT rises by 1, the next slot being then
examined in its turn; while stream H is full, and while the host link is lost (R418), it waits. Any other is ignored. -/
def acceptH (s : State) (pnum i : Nat) : State :=
  match running s pnum with
  | none => s
  | some p =>
    let slot := slotDwords p.fp 1024 i
    if slot.getD 7 0 ≠ p.fpnext then setPart s pnum { p with fpHeld := p.fpHeld.erase i }
    else if p.streamH.length < 64 ∧ p.linkPhase = .up then
      { pubMark (setPart s pnum { p with streamH := p.streamH ++ [.cmd slot], fpnext := p.fpnext + 1, fpHeld := [] }) pnum .H slot with
        agenda := .ev (.faceplateAccept pnum) :: s.agenda }
    else setPart s pnum { p with fpHeld := putId i p.fpHeld }
/-- R422: the slot of FPNEXT, and those whose acceptance waits, are examined. -/
def examineH (s : State) (pnum : Nat) : State :=
  match partAt s pnum with
  | none => s
  | some p => (p.fpnext.toNat % 1024 :: p.fpHeld).foldl (fun s i => acceptH s pnum i) s

/-- R424: the same for a slot of stream A. -/
def acceptA (s : State) (pnum i : Nat) : State :=
  match running s pnum with
  | none => s
  | some p =>
    let slot := slotDwords p.ap 512 i
    if slot.getD 7 0 ≠ p.apnext then setPart s pnum { p with apHeld := p.apHeld.erase i }
    else if p.streamA.length < 64 then
      pubMark (setPart s pnum { p with streamA := p.streamA ++ [.cmd slot], apnext := p.apnext + 1, apHeld := [] }) pnum .A slot
    else setPart s pnum { p with apHeld := putId i p.apHeld }
/-- R424: a slot of stream A is examined, and the slot of APNEXT each time APNEXT changes; the stream holds 64 records. -/
def acceptAllA : Nat → State → Nat → Nat → State
  | 0, s, _, _ => s
  | k + 1, s, pnum, i =>
    let t := acceptA s pnum i
    match partAt s pnum, partAt t pnum with
    | some p, some q => if p.apnext = q.apnext then t else acceptAllA k t pnum (q.apnext.toNat % 512)
    | _, _ => t

/-- FACEPLATE_SLOT_WRITE: eight bytes are written at an offset of the Faceplate, and the slot written is examined. From step 6 of the
boot on, the function of a partition that does not run takes the bytes and accepts no slot (R432). -/
def execFaceplateSlotWrite (pnum off : Nat) (value : Word) (s : State) : Host.Outcome State Fault Refusal :=
  .next <|
    if 0x10000 ≤ off ∨ off % 8 ≠ 0 ∨ 8 ≤ pnum ∨ !booted s 6 then s
    else
      match partAt s pnum with
      | none => { s with preFp := smSet [] s.preFp pnum (smSetList 0 (smGet [] s.preFp pnum) off (leBytes 8 value.toNat)) }
      | some p => acceptH (setPart s pnum { p with fp := smSetList 0 p.fp off (leBytes 8 value.toNat) }) pnum (off / 64)
/-- FACEPLATE_ACCEPT. -/
def execFaceplateAccept (pnum : Nat) (s : State) : Host.Outcome State Fault Refusal := .next (examineH s pnum)
/-- STREAM_A_SLOT_WRITE: an agent core of the partition that is not dead (R411) writes eight bytes at an offset of its control block. -/
def execStreamASlotWrite (core off : Nat) (value : Word) (s : State) : Host.Outcome State Fault Refusal :=
  .next <|
    match (if (agentAt s core).dead then none else (partOfCore s core).bind fun pnum => (running s pnum).map fun p => (pnum, p)) with
    | none => s
    | some (pnum, p) =>
      if off < 0x8000 ∨ 0x10000 ≤ off ∨ off % 8 ≠ 0 then s
      else
        acceptAllA 65 (setPart s pnum { p with ap := smSetList 0 p.ap (off - 0x8000) (leBytes 8 value.toNat) }) pnum ((off - 0x8000) / 64)

/-! ## Acceptance records -/

/-- R418: a state, and a partition of it, in which no loss of the host link stands: what is lost holds Headstock's writes and does not
stop them. -/
def linkUp (s : State) : State := { s with hostUp := true }
def Part.linkedUp (p : Part) : Part := { p with linkPhase := .up }
/-- R423, R424: whether an acceptance record may be written at a local address, at once or, in host memory, when the host link has
recovered (R418). -/
def caddrOk (s : State) (p : Part) (pnum : Nat) (st : Stream) (caddr : Nat) : Bool :=
  caddr != 0 && caddr % 16 == 0 && decide (caddr < 2 ^ 44) &&
  (isHost caddr || (st == .A && isDram caddr)) && (targetFault (linkUp s) p.linkedUp pnum (localPa s caddr) false true).isNone

/-- The lines that n bytes at a global physical address touch. -/
def physLines (a n : Nat) : List Nat := (List.range (((a + n - 1) / 128) + 1 - a / 128)).map fun i => a / 128 + i

/-- R194: the home lines of n bytes that leases stand against. -/
def leasedLines (s : State) (a n : Nat) (wr : Bool) : List Nat := (physLines a n).filter fun l => homeConflict s l wr
/-- Headstock, for a stream of a partition, as a requester of home lines (R218). -/
def hsKey (pnum : Nat) (st : Stream) : Nat := 90100 + 3 * pnum + (match st with | .H => 0 | .A => 1 | .D => 2)

/-- R423: the command at the head of a stream is done: its acceptance record is written, and the stream goes on. A record
that a lease holds up waits. -/
def doneCmd (s : State) (pnum : Nat) (p : Part) (st : Stream) (slot : List Word) (status : Nat) (next : List StreamRec) : State :=
  let caddr := (slot.getD 6 0).toNat
  let s := setPart (setWants s (hsKey pnum st) []) pnum (setStream p st (next ++ (p.stream st).drop 1))
  let s := { s with publishing := s.publishing.filter fun m => !(m.part == pnum && m.stream == st && m.seq == (slot.getD 7 0).toNat) }
  if caddrOk s p pnum st caddr then putHome s pnum (localPa s caddr) (leBytes 8 (slot.getD 7 0).toNat ++ leBytes 8 status) else s

/-- R423: whether a slot's opcode is known and no reserved bit is set. -/
def cmdOk (slot : List Word) : Bool :=
  let w (i : Nat) : Nat := (slot.getD i 0).toNat
  let opc := w 0
  decide (opc ≤ 3) && w 3 == 0 && w 4 == 0 && w 5 == 0 &&
  (if opc = 3 then w 2 != 0 && decide (w 2 < 2 ^ 40) else w 2 == 0) &&
  (if opc = 1 then w 1 % 64 == 0 else if opc = 3 then true else w 1 == 0)

/-- The command at the head of a stream of a running partition. R418: while the host link is lost, stream H is not read. -/
def headCmd (s : State) (pnum : Nat) (st : Stream) : Option (Part × List Word) :=
  match running s pnum with
  | none => none
  | some p =>
    if st = .H ∧ p.linkPhase ≠ .up then none
    else
      match p.stream st with
      | .cmd slot :: _ => some (p, slot)
      | _ => none
/-- R423: the place of a slot's acceptance record. -/
def caddrOf (s : State) (slot : List Word) : Nat := localPa s (slot.getD 6 0).toNat

/-- R423: a command of an opcode at the head of a stream is taken, once no lease stands against its acceptance record; a reserved
bit gives BADCMD. -/
def takeCmd (s : State) (pnum : Nat) (st : Stream) (opc : Nat → Bool) (k : Part → List Word → State) : State :=
  match headCmd s pnum st with
  | some (p, slot) =>
    if opc (slot.getD 0 0).toNat then
      match leasedLines s (caddrOf s slot) 16 true with
      | [] => if cmdOk slot then k p slot else doneCmd s pnum p st slot 1 []
      | hs => setWants s (hsKey pnum st) hs
    else s
  | none => s

/-- HS_NOP, and any command whose opcode is unknown. -/
def takeNop (s : State) (pnum : Nat) (st : Stream) : State :=
  takeCmd s pnum st (fun o => o % 256 != 1 && o % 256 != 2 && o % 256 != 3) fun p slot => doneCmd s pnum p st slot 0 []
def execHsNop (pnum : Nat) (st : Stream) (s : State) : Host.Outcome State Fault Refusal := .next (takeNop s pnum st)

/-- R423: the launch record at a global physical address, unless it cannot be read. -/
def readRecord (s : State) (p : Part) (pnum a : Nat) : Option (List Word) :=
  if (targetFault s p pnum a true false).isSome ∨ (targetFault s p pnum (a + 127) true false).isSome ∨ paDev a ≠ s.dom.devnum.getD 0 ∨
      (List.range 16).any (fun i => (wordError s (a + 8 * i)).isSome) then none
  else some (recWords (memBytes s a 128))

/-- HS_LAUNCH: the record is copied and takes the command's place in the stream. -/
def takeLaunch (s : State) (pnum : Nat) (st : Stream) : State :=
  takeCmd s pnum st (fun o => o % 256 == 1) fun p slot =>
    let a := (slot.getD 1 0).toNat
    match leasedLines s a 128 false with
    | h :: hs => setWants s (hsKey pnum st) (h :: hs)
    | [] =>
      match readRecord s p pnum a with
      | some r => correctLines (doneCmd s pnum p st slot 0 [.launch r]) [a / 128, (a + 127) / 128]
      | none => doneCmd s pnum p st slot 2 []
def execHsLaunch (pnum : Nat) (st : Stream) (s : State) : Host.Outcome State Fault Refusal := .next (takeLaunch s pnum st)

/-- R423: the launches of a stream that have not ended. -/
def openLaunches (s : State) (pnum : Nat) (st : Stream) : Bool := s.launches.any fun l => l.2.part == pnum && l.2.stream == st

/-- HS_MARK: held until every earlier launch of the stream has ended. -/
def takeMark (s : State) (pnum : Nat) (st : Stream) : State :=
  takeCmd s pnum st (fun o => o % 256 == 2) fun p slot =>
    if openLaunches s pnum st then s else doneCmd s pnum p st slot 0 []
def execHsMark (pnum : Nat) (st : Stream) (s : State) : Host.Outcome State Fault Refusal := .next (takeMark s pnum st)

/-- R423: the lines of a range that a PUBLISH publishes: those not stored to since it was accepted. -/
def pubLines (s : State) (pnum : Nat) (st : Stream) (seq a n : Nat) : List Nat :=
  match s.publishing.find? fun m => m.part == pnum && m.stream == st && m.seq == seq with
  | some m => (physLines a n).filter fun l => !m.stored.contains l
  | none => physLines a n
/-- HS_PUBLISH: the publish bit of every line of the range is set. -/
def takePublish (s : State) (pnum : Nat) (st : Stream) : State :=
  takeCmd s pnum st (fun o => o % 256 == 3) fun p slot =>
    let a := (slot.getD 1 0).toNat
    let n := (slot.getD 2 0).toNat
    if ownsPa s p (a + n - 1) && (physLines a n).all fun l => ownsPa s p (128 * l) then
      let s := s.tiles.foldl (fun s t => writeBackHomes s t.1 (physLines a n)) s
      match partAt s pnum with
      | some p => doneCmd (publishLines s ((pubLines s pnum st (slot.getD 7 0).toNat a n).map (128 * ·))) pnum p st slot 0 []
      | none => s
    else doneCmd s pnum p st slot 2 []
def execHsPublish (pnum : Nat) (st : Stream) (s : State) : Host.Outcome State Fault Refusal := .next (takePublish s pnum st)

/-! ## The check of a launch record (R247, R250 step 1) -/

/-- R247: the tiles that a record selects. -/
def recTiles (r : List Word) : List Nat :=
  (List.range 192).filter fun t => (r.getD (2 + t / 64) 0).getLsbD (t % 64)
/-- R247: SPMASK. -/
def recMask (r : List Word) : Nat := bits (recWord r 0x28) 7 0
/-- R247: byte i of ACCMAP. -/
def accByte (r : List Word) (i : Nat) : Nat := bits (recWord r 0x30) (8 * i + 7) (8 * i)

/-- R250 step 1: BADREC. -/
def badRecord (r : List Word) : Bool :=
  let w := recWord r
  w 0 % 4096 != 0 || bits (w 0x28) 63 24 != 0 || recMask r == 0 || bits (w 0x40) 63 24 != 0 || bits (w 0x48) 63 34 != 0 ||
  bits (w 0x48) 31 16 < 16 || bits (w 0x48) 15 0 < 96 || w 0x38 % 64 != 0 || w 0x50 % 16 != 0 ||
  (List.range 4).any (fun i => w (0x60 + 8 * i) != 0) || (recTiles r).isEmpty ||
  (List.range 8).any fun i => bit (accByte r i) 7 && !bit (recMask r) (bits (accByte r i) 6 4)

/-! ## Completion (R251) -/

/-- What a step of Headstock comes to: it goes on, waits for leases on home lines, or the launch fails with a completion word. -/
inductive HsRes (α : Type)
  | ok (a : α)
  | wait (homes : List Nat)
  | fail (status : Nat)
  deriving Repr

/-- R251: dword 0 of a completion record. -/
def complWord (status reason index : Nat) : Nat := status + reason * 2 ^ 8 + index * 2 ^ 16

/-- R251: where a completion record is written under LASID, at once or when the host link has recovered (R418); none when it is
dropped. -/
def complPlace (s : State) (pnum : Nat) (r : List Word) : Option Nat :=
  match partAt s pnum with
  | none => none
  | some p =>
    let compl := recWord r 0x50
    match resolveRange (linkUp s) p.linkedUp pnum (bits (recWord r 0x28) 23 8) .store false compl 16 with
    | .ok (v :: vs) =>
      if compl % 16 = 0 ∧ (locError s ((v :: vs).map fun x => .mem x.2) true).isNone then some v.2 else none
    | _ => none
/-- R251: the bytes of a completion record. -/
def complBytes (r : List Word) (d0 : Nat) : List Byte := leBytes 8 d0 ++ leBytes 8 (recWord r 0x58)
/-- R251, R373: the event of a completion record that was written, or dropped. -/
def postCompl (s : State) (pnum : Nat) (r : List Word) (d0 : Nat) (written : Bool) : State :=
  post s pnum 2 (word (recWord r 0x50)) (word (if written then d0 else d0 + 2 ^ 63))
/-- R251: the completion record is written under LASID, or dropped, and the event is posted; the home lines that it waits for while
leases hold the write up. -/
def complete (s : State) (pnum : Nat) (r : List Word) (d0 : Nat) : Except (List Nat) State :=
  match complPlace s pnum r with
  | none => .ok (postCompl s pnum r d0 false)
  | some a =>
    match leasedLines s a 16 true with
    | [] => .ok (postCompl (putHome s pnum a (complBytes r d0)) pnum r d0 true)
    | hs => .error hs
/-- R251, R346: the same for a launch that ends at once: what waits is written later. -/
def completeLate (s : State) (pnum : Nat) (r : List Word) (d0 : Nat) : State :=
  match complete s pnum r d0, complPlace s pnum r with
  | .ok s, _ => s
  | .error _, some a => { s with lateRecords := s.lateRecords ++ [⟨pnum, a, complBytes r d0, word (recWord r 0x50), word d0⟩] }
  | .error _, none => s
/-- The late records whose leases have ended are written, the others wait. -/
def settleRecords (s : State) : State :=
  if s.lateRecords = [] then s
  else
    let held (s : State) (e : LateRecord) : List Nat := leasedLines s e.pa 16 true
    let t := s.lateRecords.foldl (fun t e =>
      if held t e = [] then post (putHome t e.part e.pa e.bytes) e.part 2 e.info0 e.info1 else { t with lateRecords := t.lateRecords ++ [e] })
      { s with lateRecords := [] }
    setWants t 90200 (t.lateRecords.flatMap (held t))

/-! ## Starting a launch (R250) -/

/-- R250 step 4: bytes of the image under LASID. A fault is IMGFLT. -/
def imageBytes (s : State) (p : Part) (pnum asid va n : Nat) : HsRes (List Byte) :=
  if n = 0 then .ok []
  else
  match resolveRange s p pnum asid .load false (va % 2 ^ 64) n with
  | .error _ => .fail 4
  | .ok vps =>
    match ((vps.map fun x => x.2 / 128).eraseDups).filter fun l => homeConflict s l false with
    | h :: hs => .wait (h :: hs)
    | [] =>
      let locs := vps.map fun x => Loc.mem x.2
      if (locError s locs false).isSome then .fail 4 else .ok (readLocs s locs)

/-- R248: a header with a wrong MAGIC, a reserved bit, a section count above 64 or a misaligned offset. -/
def badHeader (h : List Byte) : Bool :=
  let w (o : Nat) : Nat := dwordAt h (o / 8)
  w 0 != 0x4C455346 || bits (w 8) 63 13 != 0 || w 0x10 % 64 != 0 || w 0x20 % 8 != 0 || w 0x28 % 64 != 0 ||
  bits (w 0x30) 63 16 != 0 || decide (64 < w 0x30) || w 0x38 != 0
/-- R249: a section entry with a reserved bit, or an MLEN below FLEN. -/
def badSection (e : List Byte) : Bool :=
  bits (dwordAt e 2) 63 40 != 0 || bits (dwordAt e 3) 62 40 != 0 || decide (bits (dwordAt e 3) 39 0 < dwordAt e 2)

/-- What Headstock takes from an image: the entry, the handlers, the dictionary. -/
structure Image4 where
  entry : Word
  handlers : List Word
  dict : List (List Word)
  deriving DecidableEq, Repr

/-- R250 step 5: dload: the first entry that fails a check. -/
def badEntry (es : List (List Word)) : Option (Nat × Nat) :=
  es.zipIdx.findSome? fun e => (dictReason e.1).map fun r => (e.2, r)

/-- R250 steps 4 and 5: the image read and checked. -/
def readImage (s : State) (p : Part) (pnum : Nat) (r : List Word) : HsRes Image4 :=
  let asid := bits (recWord r 0x28) 23 8
  let base := recWord r 0
  let get (off n : Nat) (k : List Byte → HsRes Image4) : HsRes Image4 :=
    match imageBytes s p pnum asid (base + off) n with
    | .ok bs => k bs
    | .wait hs => .wait hs
    | .fail x => .fail x
  get 0 64 fun h =>
    if badHeader h then .fail 3
    else
      let nsec := dwordAt h 6
      let nd := bits (dwordAt h 1) 12 0
      get (dwordAt h 4) 32 fun hs =>
        get (dwordAt h 5) (32 * nsec) fun ss =>
          if (chunks 32 nsec ss).any badSection then .fail 3
          else if nd = 0 ∨ 4096 < nd then .fail (complWord 5 7 0)
          else
            get (dwordAt h 2) (48 * nd) fun ds =>
              let es := (chunks 48 nd ds).map fun e => (chunks 8 6 e).map fun x => word (leNat x)
              match badEntry es with
              | some (i, reason) => .fail (complWord 5 reason i)
              | none => .ok ⟨word (dwordAt h 3), (chunks 8 4 hs).map fun x => word (leNat x), es⟩

/-- R333, R405: the reading of n bytes of an image: Headstock stands on the agent die, and its requests count in quadrant 4 (R13). -/
def notedImage (s : State) (p : Part) (pnum : Nat) (r : List Word) (va n : Nat) : State :=
  let asid := bits (recWord r 0x28) 23 8
  if n = 0 then s
  else
    match resolveRange s p pnum asid .load false (va % 2 ^ 64) n with
    | .ok vps =>
      noteRange (correctLines s ((vps.map fun x => x.2 / 128).eraseDups)) p asid .load 4 (bit (recWord r 0x48) 32)
        ((List.range n).map (byteVa (va % 2 ^ 64)))
    | .error f => correct s f.reads
/-- R250: the image read: its header, and what a good header names. -/
def imageRead (s : State) (p : Part) (pnum : Nat) (r : List Word) : State :=
  let base := recWord r 0
  let t := notedImage s p pnum r base 64
  match imageBytes s p pnum (bits (recWord r 0x28) 23 8) base 64 with
  | .ok h =>
    if badHeader h then t
    else
      [(dwordAt h 4, 32), (dwordAt h 5, 32 * dwordAt h 6), (dwordAt h 2, 48 * bits (dwordAt h 1) 12 0)].foldl
        (fun t e => notedImage t p pnum r (base + e.1) e.2) t
  | _ => t

/-- R141, R142, R250 step 6: a tile as a launch finds it. -/
def launchTile (t : Tile) (num tile : Nat) (r : List Word) (im : Image4) : Tile :=
  let q : Queue := {}
  { t with
    -- DESIGN CHOICE (log entry 87): the group table's layer is 0 until a `grp.idx` gives it
    launch := some num, maps := [], lines := [], dsize := im.dict.length
    dict := im.dict.zipIdx.map fun e => (e.2, e.1)
    acc := [], latches := [], rings := [], group := [], groupLayer := 0, ranges := [], fnum := 0
    accOwner := (List.range 8).filterMap fun i =>
      let b := accByte r i
      if bit b 7 then some (i, 16 * (8 * tile + bits b 6 4) + bits b 3 0) else none
    tensor := { q with frozen := t.tensor.frozen }, conv := { q with frozen := t.conv.frozen }
    ringq := { q with frozen := t.ringq.frozen } }
/-- R228, R250 step 6: a spindle as a launch finds it: deques empty, copy channels fresh. -/
def launchSpindle (x : Spindle) : Spindle :=
  { x with deque := [], memBot := 0, memCount := 0
           chans := x.chans.filterMap fun e => if e.2.q.frozen then some (e.1, { q := { frozen := true } }) else none }

/-- R228, R251: a spindle as the end of its launch leaves it: deques and queued copies gone, WPn at its last value. -/
def freeSpindle (x : Spindle) : Spindle :=
  { x with deque := [], memBot := 0, memCount := 0
           chans := x.chans.filterMap fun e =>
             let y : CopyChan := { e.2 with q := { frozen := e.2.q.frozen } }
             if y = {} then none else some (e.1, y) }

/-- R250 steps 6 and 7: the tiles are set, and context 0 of each selected spindle starts. -/
def startLaunch (s : State) (pnum : Nat) (st : Stream) (r : List Word) (im : Image4) : State :=
  let num := s.launchNext
  let tiles := recTiles r
  let s := { s with launchNext := num + 1
                    launches := smIns s.launches num ⟨pnum, st, r, tiles, im.entry, im.handlers, im.dict.length, false⟩ }
  tiles.foldl (fun s t =>
    let s := modTile s t fun x => launchTile x num t r im
    (List.range 8).foldl (fun s i =>
      let s := modSpin s (8 * t + i) launchSpindle
      if bit (recMask r) i then startCtx s (16 * (8 * t + i)) im.entry (r.getD 1 0) else s) s) s

/-- R250 step 2, R416: every tile belongs to the partition and is alive, and no retired spindle is selected. -/
def tilesOk (s : State) (p : Part) (r : List Word) : Bool :=
  (recTiles r).all fun t =>
    p.conf.tiles.contains t && !(tileAt s t).dead &&
    (List.range 8).all fun i => !bit (recMask r) i || !(spinAt s (8 * t + i)).retired

/-- R250: the launch record at the head of a stream: it starts its contexts, fails with its completion record, or waits. -/
def launchStart (s : State) (pnum : Nat) (st : Stream) : State :=
  let s0 := s
  match running s pnum with
  | none => s
  | some p =>
    match p.stream st with
    | .launch r :: rest =>
      let failWith (s : State) (d0 : Nat) : State :=
        match complete s pnum r d0 with
        | .ok s => modPart (setWants s (hsKey pnum st) []) pnum fun p => setStream p st rest
        | .error hs => setWants s0 (hsKey pnum st) hs
      if st = .H ∧ p.linkPhase ≠ .up then s
      else if badRecord r then failWith s 1
      else if !tilesOk s p r then failWith s 2
      else if (recTiles r).any fun t => (tileAt s t).launch.isSome then s
      else
        match readImage s p pnum r with
        | .wait hs => setWants s (hsKey pnum st) hs
        | .fail d0 => failWith (imageRead s p pnum r) d0
        | .ok im =>
          startLaunch (modPart (setWants (imageRead s p pnum r) (hsKey pnum st) []) pnum fun p => setStream p st rest) pnum st r im
    | _ => s

/-- LAUNCH_START. -/
def execLaunchStart (pnum : Nat) (st : Stream) (s : State) : Host.Outcome State Fault Refusal := .next (launchStart s pnum st)

/-! ## The end of a launch (R251) -/

/-- The contexts of a tile that are not free. -/
def tileCtxs (s : State) (t : Nat) : List Nat := (s.ctxs.map (·.1)).filter fun n => tileOf n == t && (ctxOf s n).phase != .free

/-- R251: whether a queue runs nothing, will start nothing, and is not merely frozen: empty, stopped, or waiting for
commands of a stopped queue. -/
def queueQuiet (q : Queue) : Bool := !q.running && (headReady q).isNone && !(q.frozen && q.stop.isNone && !q.cmds.isEmpty)
/-- The queues of a tile. -/
def tileQueues (s : State) (t : Nat) : List Queue :=
  (tileAt s t).tensor :: (tileAt s t).conv :: (tileAt s t).ringq ::
  (List.range 8).flatMap fun i => (spinAt s (8 * t + i)).chans.map fun e => e.2.q

/-- R251: every control context has ended, and every command is done or stands behind a stopped queue. -/
def launchOver (s : State) (l : Launch) : Bool :=
  l.tiles.all fun t =>
    (tileCtxs s t).all (fun n => (ctxOf s n).phase == .reaped) && (tileQueues s t).all queueQuiet

/-- R219, R251: the dirty lines of a tile are written back, and its leases end. -/
def dropLines (s : State) (t : Nat) : State :=
  let s := (tileAt s t).lines.foldl (fun s l =>
    if l.2.st = .D ∨ l.2.st = .B then
      match mapAt (tileAt s t) (l.1 * 128) with
      | some (_, m) => writeBackData s t (stashOff m (l.1 * 128)) l.2.home
      | none => s
    else s) s
  modTile s t fun x => { x with lines := [], maps := [] }

/-- R365: what a sealed launch leaves in a tile is zeroed. -/
def sealTile (s : State) (t : Nat) : State :=
  modTile { s with serrs := s.serrs.filter fun e => e.1 / 2 ^ 19 != t } t fun x =>
    { x with stash := [], acc := [], latches := [], dict := [] }

/-- R251: a tile is freed: its queues and their stop records end, its contexts are free. -/
def freeTile (s : State) (t : Nat) : State :=
  let s := (tileCtxs s t).foldl freeCtx s
  let s := modTile s t fun x =>
    { x with launch := none, dsize := 0, accOwner := [], tensor := { frozen := x.tensor.frozen }
             conv := { frozen := x.conv.frozen }, ringq := { frozen := x.ringq.frozen }, ranges := [] }
  (List.range 8).foldl (fun s i => modSpin s (8 * t + i) freeSpindle) s

/-- LAUNCH_END: the completion record is written and the tiles are freed. -/
def launchEnd (s : State) (num : Nat) : State :=
  match smFind s.launches num with
  | none => s
  | some l =>
    if !launchOver s l then s
    else
      let s0 := l.tiles.foldl dropLines s
      let s0 := if l.sealed then l.tiles.foldl sealTile s0 else s0
      match complete s0 l.part l.recd (complWord (if l.killed then 6 else 0) 0 0) with
      | .error hs => setWants s (hsKey l.part l.stream) hs
      | .ok s1 => { l.tiles.foldl freeTile (setWants s1 (hsKey l.part l.stream) []) with launches := smDel s1.launches num }

def execLaunchEnd (num : Nat) (s : State) : Host.Outcome State Fault Refusal := .next (launchEnd s num)

end Sys2Proof.Machine
end

