-- ==== Sys2Proof/Machine/Partition.lean ====
section
/-! DEFINITION. Partitions: what the DMC checks and configures (R344, R346), measurements (R369), clearing, reset and removal
(R346). -/
namespace Sys2Proof.Machine

/-! ## Measurements (R369) -/

/-- R369: MEASi. -/
def measAt (s : State) (i : Nat) : BitVec 512 := smGet 0 s.meas i
/-- A digest or a measurement as 64 bytes. -/
def digestBytes (d : BitVec 512) : List Byte := leBytes 64 d.toNat
/-- R369: the extend, the only change. -/
def measExtend (s : State) (i : Nat) (d : List Byte) : State :=
  { s with meas := smSet 0 s.meas i (Config.sha3 (digestBytes (measAt s i) ++ d)) }

/-- A list of numbers after its length. -/
def listed (l : List Nat) : List Nat := l.length :: l
/-- R344: the fields of a configuration record. -/
def confFields (c : PartConf) : List Nat :=
  listed c.tiles ++ listed c.slices ++ listed c.hbm ++ listed c.lpddr ++ listed c.cores ++ listed c.uec ++
  listed (c.shares.flatMap fun e => [e.1, e.2]) ++
  [c.seqLo, c.seqN, c.seqCached, c.futLo, c.futN, c.adpLo, c.adpN, c.slotLo, c.slotN] ++ listed (c.supervisor.map (·.toNat)) ++ listed (c.hdm.flatMap fun e => [e.1, e.2])
/-- R371: the configuration record of a partition as bytes. -/
def confRecord (pnum : Nat) (c : PartConf) : List Byte := Config.confBytes (pnum :: confFields c)
/-- R371: the partition table as bytes. -/
def tableBytes (s : State) : List Byte := Config.confBytes (s.parts.flatMap fun e => e.1 :: confFields e.2.conf)
/-- A byte string cut, or filled with zeros, to a length that the spec gives. -/
def fixedBytes (n : Nat) (bs : List Byte) : List Byte := (bs ++ List.replicate n 0).take n
/-- R371: the fuse summary, 32 bytes: power maximum, egress envelope, MINVER of classes 0 to 3. -/
def fuseBytes (s : State) : List Byte :=
  fixedBytes 32 (Config.fuseSummary (Config.fusedWatts :: Config.fusedEgress ++ (List.range 4).map fun i => s.boot.minver.getD i 0))

/-- R369: what a configuration extends. -/
def measureConf (s : State) (pnum : Nat) (c : PartConf) : State :=
  let s := measExtend s (4 + Config.measSlot true % 4) (digestBytes (Config.sha3 (tableBytes s)))
  let s := measExtend s (4 + Config.measSlot false % 4) (digestBytes (Config.sha3 (fuseBytes s)))
  let s := measExtend s (8 + pnum) (digestBytes (Config.sha3 (confRecord pnum c)))
  measExtend s (8 + pnum) (digestBytes (Config.sha3 c.supervisor))

/-- MEAS_EXTEND: a digest of 64 bytes that a partition's supervisor submits. -/
def execMeasExtend (pnum : Nat) (d : List Byte) (s : State) : Host.Outcome State Fault Refusal :=
  .next (if (running s pnum).isSome ∧ d.length = 64 then reply (measExtend s (8 + pnum) d) (.status 0) else reply s .refused)

/-! ## Configuration (R344, R346) -/

/-- Whether two lists have no element in common. -/
def apart (a b : List Nat) : Bool := a.all fun x => !b.contains x
/-- Whether two ranges have no number in common. -/
def rangesApart (a n b m : Nat) : Bool := n == 0 || m == 0 || decide (a + n ≤ b) || decide (b + m ≤ a)
/-- R346: two configurations own no resource in common. -/
def confApart (a b : PartConf) : Bool :=
  apart a.tiles b.tiles && apart a.slices b.slices && apart a.hbm b.hbm && apart a.lpddr b.lpddr && apart a.cores b.cores &&
  apart a.uec b.uec && rangesApart a.seqLo a.seqN b.seqLo b.seqN && rangesApart a.futLo a.futN b.futLo b.futN &&
  rangesApart a.adpLo a.adpN b.adpLo b.adpN && rangesApart a.slotLo a.slotN b.slotLo b.slotN
/-- R344: resources that exist, in their units, and at least one tile, slice, agent core and memory channel. -/
def confValid (c : PartConf) : Bool :=
  c.tiles.all (· < 192) && c.slices.all (· < 256) && c.hbm.all (· < 256) && c.lpddr.all (· < 64) && c.cores.all (· < 96) &&
  c.uec.all (fun e => decide (e < 512) && (List.range 8).all fun i => c.uec.contains (e / 8 * 8 + i)) && !c.tiles.isEmpty && !c.slices.isEmpty && !c.cores.isEmpty && !(c.hbm.isEmpty && c.lpddr.isEmpty) &&
  decide (c.seqLo + c.seqN ≤ 2 ^ 20) && c.seqCached % 1024 == 0 && c.futLo % 1024 == 0 && c.futN % 1024 == 0 &&
  decide (c.futLo + c.futN ≤ 131072) && decide (c.adpLo + c.adpN ≤ 16384) && decide (c.slotLo + c.slotN ≤ 1024)
/-- R344, R346: whether the DMC accepts a configuration beside those of the other partitions. -/
def confOk (s : State) (c : PartConf) : Bool :=
  confValid c && s.parts.all (fun e => confApart c e.2.conf) &&
  c.shares.all (fun e => decide (shareOf c e.1 + (s.parts.map fun p => shareOf p.2.conf e.1).sum ≤ 64)) &&
  decide (c.seqCached + (s.parts.map fun p => p.2.conf.seqCached).sum ≤ 65536)

/-- R346: an absent partition is configured; one whose resources are another's stays absent. -/
def configure (s : State) (pnum : Nat) (c : PartConf) : State :=
  if booted s 6 ∧ pnum < 8 ∧ partAt s pnum = none ∧ confOk s c then
    -- R432: the host may have opened the partition's windows, and written to its Faceplate, already
    let s := setPart { s with preWindows := smDel s.preWindows pnum, preFp := smDel s.preFp pnum } pnum
      { st := .configuring, conf := c, windows := smGet [] s.preWindows pnum, fp := smGet [] s.preFp pnum }
    measureConf s pnum c
  else reply s .refused

/-- PARTITION_CONFIGURE. -/
def execPartitionConfigure (pnum : Nat) (c : PartConf) (s : State) : Host.Outcome State Fault Refusal := .next (configure s pnum c)

/-! ## Clearing (R346) -/

/-- R344: the memory channels of a configuration, numbered as `channelOf` numbers them. -/
def confChannels (c : PartConf) : List Nat := c.hbm ++ c.lpddr.map (256 + ·)
/-- Whether a global physical address lies on a channel of a list on this device. -/
def onChannels (s : State) (chs : List Nat) (a : Nat) : Bool :=
  paDev a == s.dom.devnum.getD 0 && isDram (paLocal a) && chs.contains (channelOf (paLocal a))
/-- R346, R404: memory channels zeroed with code tag 0. -/
def zeroChannels (s : State) (chs : List Nat) : State :=
  { s with mem := s.mem.filter fun e => !onChannels s chs e.1
           pub := s.pub.filter fun e => !onChannels s chs (128 * e.1)
           ctag := s.ctag.filter fun e => !onChannels s chs (64 * e.1)
           errs := s.errs.filter fun e => !onChannels s chs (8 * e.1)
           cerrs := s.cerrs.filter fun e => !onChannels s chs (8 * e.1) }
/-- R346: the channels of a configuration that change owner. -/
def newChannels (s : State) (pnum : Nat) (c : PartConf) : List Nat :=
  (confChannels c).filter fun ch => smGet 0 s.chanOwner ch != pnum + 1

/-- R379: the service store: the payload of the class-2 image. -/
def serviceStore (s : State) : SMap Byte :=
  match s.boot.images.find? fun i => i.cls == 2 with
  | some i => smSetList 0 [] 0 (i.body.take 0x10000)
  | none => []

/-- R346: a tile cleared: stash, dictionary store, accumulators, edge latches; its contexts free. -/
def clearTile (s : State) (t : Nat) : State :=
  let s := { s with serrs := s.serrs.filter fun e => e.1 / 2 ^ 19 != t
                    scerrs := s.scerrs.filter fun e => e / 2 ^ 19 != t
                    ctxs := s.ctxs.filter fun e => tileOf e.1 != t
                    spindles := s.spindles.map fun e =>
                      if tileOfSpindle e.1 = t then (e.1, { launchSpindle e.2 with chans := [] }) else e }
  setTile s t { svc := serviceStore s, dead := (tileAt s t).dead }
/-- R346: an LLC slice cleared, its monitors and caches empty. -/
def clearSlice (s : State) (n : Nat) : State := setSlice s n {}

/-- R346: the agent firmware starts on a core and enters the supervisor, having opened memory by PMP entry 0; its other registers
are those of reset (log entry 8). -/
def startCore (s : State) (k : Nat) : State :=
  setAgent s k { mode := .HS, dead := (agentAt s k).dead, csr := [(0x3A0, 0x1F), (0x3B0, 0x3FFFFFFFFFFFFF), (0xC21, 0x8000000000000000)] }

/-- R346: clearing done: a configuring or resetting partition runs. Memory that keeps its owner keeps its contents. -/
def clearDone (s : State) (pnum : Nat) : State :=
  match partAt s pnum with
  | none => s
  | some p =>
    if p.st = .running then s
    else
      let s := p.conf.tiles.foldl clearTile s
      let s := p.conf.slices.foldl clearSlice s
      let s := if p.st = .configuring then zeroChannels s (newChannels s pnum p.conf) else s
      let s := (confChannels p.conf).foldl (fun s ch => { s with chanOwner := smSet 0 s.chanOwner ch (pnum + 1) }) s
      let s := p.conf.cores.foldl startCore s
      setPart s pnum { p with st := .running, asids := [] }

/-- PARTITION_CLEAR_DONE. -/
def execPartitionClearDone (pnum : Nat) (s : State) : Host.Outcome State Fault Refusal := .next (clearDone s pnum)

/-! ## Reset and removal (R346) -/

/-- R251, R346: what a launch holds when it is ended by force: its contexts are killed, its leases end, a sealed one is zeroed. -/
def stopLaunch (s : State) (l : Launch) : State :=
  let s := l.tiles.foldl (fun s t => (tileCtxs s t).foldl killCtx s) s
  let s := l.tiles.foldl dropLines s
  if l.sealed then l.tiles.foldl sealTile s else s
/-- R251, R346: a launch that has been stopped ends KILLED: its completion record is written, now or once leases let it, and its
commands are discarded. -/
def killLaunch (s : State) (num : Nat) : State :=
  match smFind s.launches num with
  | none => s
  | some l =>
    let s := completeLate s l.part l.recd (complWord 6 0 0)
    { l.tiles.foldl freeTile s with launches := smDel s.launches num }

/-- R346: futures and sequences of a partition are freed. -/
def freeChuck (s : State) (pnum : Nat) : State :=
  let s := (s.futs.filter fun e => e.2.part == pnum).foldl (fun s e => freeFut s e.1) s
  { s with seqs := s.seqs.filter fun e => e.2.part != pnum }

/-- R346: what a reset ends. Records not started are dropped from the streams (DESIGN CHOICE, log entry 34). -/
def endWork (s : State) (pnum : Nat) : State :=
  let mine := s.launches.filter fun e => e.2.part == pnum
  let s := mine.foldl (fun s e => stopLaunch s e.2) { s with ilines := s.ilines.filter fun i => i.part != pnum }
  let s := mine.foldl (fun s e => killLaunch s e.1) s
  let s := freeChuck s pnum
  let s := { s with publishing := s.publishing.filter fun m => m.part != pnum }
  let s := { s with lossWalks := s.lossWalks.filter fun e => e.1 != pnum, flights := s.flights.filter fun f => partOfCtx s f.src != pnum }
  modPart s pnum fun p =>
    { p with asids := p.asids.map fun e => (e.1, { e.2 with st := .retiring, since := s.time })
             streamH := [], streamA := [], streamD := [], fpHeld := [], apHeld := [], loss := [], tools := [] }

/-- R346: a running partition is reset. -/
def resetPart (s : State) (pnum : Nat) : State :=
  match running s pnum with
  | none => s
  | some _ => modPart (endWork s pnum) pnum fun p => { p with st := .resetting }

/-- PARTITION_RESET. -/
def execPartitionReset (pnum : Nat) (s : State) : Host.Outcome State Fault Refusal := .next (resetPart s pnum)

/-- R346: a running partition is removed: as for a reset, and its memory is zeroed. -/
def removePart (s : State) (pnum : Nat) : State :=
  match running s pnum with
  | none => s
  | some p =>
    let s := endWork s pnum
    let s := p.conf.tiles.foldl clearTile s
    let s := p.conf.slices.foldl clearSlice s
    let s := zeroChannels s (confChannels p.conf)
    let s := (confChannels p.conf).foldl (fun s ch => { s with chanOwner := smDel s.chanOwner ch }) s
    let s := p.conf.cores.foldl (fun s k => setAgent s k { dead := (agentAt s k).dead }) s
    { s with parts := smDel s.parts pnum, preWindows := smSet [] s.preWindows pnum p.windows, preFp := smSet [] s.preFp pnum p.fp }

/-- PARTITION_REMOVE. -/
def execPartitionRemove (pnum : Nat) (s : State) : Host.Outcome State Fault Refusal := .next (removePart s pnum)

end Sys2Proof.Machine
end

