-- ==== Sys2Proof/Machine/Boot.lean ====
section
/-! DEFINITION. The root of trust (R368), the boot order (R432), attestation (R370, R371), power and clocks (R430, R431). -/
namespace Sys2Proof.Machine

/-! ## Images (R368) -/

/-- R368: the header and payload that an image's signature covers. -/
def imageMessage (i : Image) : List Byte := leBytes 4 i.cls ++ leBytes 4 i.version ++ i.body

/-- R368: whether a chain of keys, the signer's first, leads to the root: each is certified by the next. -/
def chainOk (rooth : BitVec 512) : List (List Byte × List Byte) → Bool
  | [] => false
  | [k] => Config.sha3 k.1 == rooth
  | k :: c :: ks => Config.sha3 k.1 == rooth || (Config.verify c.1 k.1 k.2 && chainOk rooth (c :: ks))

/-- R368: whether an image runs: its key within two levels of the root, its signature, its version. -/
def imageOk (s : State) (i : Image) : Bool :=
  decide (i.cls < 4) && decide (i.keys.length ≤ 3) && chainOk s.boot.rooth i.keys &&
  (match i.keys with
   | k :: _ => Config.verify k.1 (imageMessage i) i.sig
   | [] => false) &&
  decide (s.boot.minver.getD i.cls 0 ≤ i.version)

/-- The image of a class that the device holds. -/
def imageOf (s : State) (cls : Nat) : Option Image := s.boot.images.find? fun i => i.cls == cls

/-- R369, R432: an image is verified and measured before it runs; none when it is not acceptable. -/
def runImage (s : State) (cls : Nat) : Option State :=
  match imageOf s cls with
  | some i => if imageOk s i then some (measExtend s cls (digestBytes (Config.sha3 (imageMessage i)))) else none
  | none => none

/-! ## Boot order (R432) -/

/-- R432: the boot has reached a step. -/
def atStep (s : State) (k : Nat) : State := { s with boot := { s.boot with step := k } }
/-- R368, R432: the order stops; the device stays in recovery boot. -/
def recoveryBoot (s : State) : State := { s with boot := { s.boot with recovery := true } }

/-- R370: what the alias key is derived from: the device secret and MEAS0. -/
def aliasSeed (s : State) : BitVec 512 := Config.sha3 (digestBytes s.boot.secret ++ digestBytes (measAt s 0))
/-- R370: the keys of a boot: the identity key from the secret, the alias key, and its public key signed by the identity key. -/
def deriveKeys (s : State) : State :=
  let key := fixedBytes 2592 (Config.aliasKey (aliasSeed s))
  { s with boot := { s.boot with identity := fixedBytes 2592 (Config.identityKey s.boot.secret), aliasKey := key
                                 aliasCert := fixedBytes 4627 (Config.identitySign s.boot.secret key) } }

/-- R432: step 7: the partitions of the partition table, in order; the first one refused stops the boot order. -/
def bootParts : List (Nat × PartConf) → State → State
  | [], s => atStep s 7
  | e :: es, s =>
    let t := configure s e.1 e.2
    if (partAt t e.1).isSome ∧ (partAt s e.1).isNone then bootParts es t else recoveryBoot t
/-- R432: steps 5 to 7. -/
def bootLate (s : State) : State :=
  match (runImage s 1).bind fun s => runImage s 2 with
  | none => recoveryBoot s
  | some s => bootParts s.boot.table (atStep s 6)

/-- R432: the boot order from step 1. The device's memory holds only zeros with code tag 0 from step 2 on; the memories and the host
port (step 2), and the links (step 3), train or fail to. -/
def bootOrder (s : State) : State :=
  let draw := s.freeCount
  let s := { s with freeCount := draw + 2 }
  match runImage s 0 with
  | none => recoveryBoot s
  | some s =>
    let s := deriveKeys s
    if !Config.trained draw then recoveryBoot s
    else
      match runImage (atStep s 2) 3 with
      | none => recoveryBoot (atStep s 2)
      | some s =>
        if !Config.trained (draw + 1) then recoveryBoot s
        else
          let s := { s with dom := { s.dom with devnum := some (s.boot.fabricNum % 8192) } }
          bootLate (atStep s 4)

/-- R14, R429: the memory channels of a device, as `channelOf` numbers them. -/
def allChannels : List Nat := List.range 320

/-- R432: what a device reset leaves before the boot order: everything is as after reset but the fuses, the images, the tables
outside the device, the memory of the host and of other devices, and the answers that have left. -/
def bareDevice (s : State) : State :=
  let z := zeroChannels s allChannels
  { State.reset with
    mem := z.mem, pub := z.pub, ctag := z.ctag, errs := z.errs, cerrs := z.cerrs
    boot := { s.boot with step := 0, recovery := false }, dom := { s.dom with devnum := none }
    hostUp := s.hostUp, replies := s.replies, freeCount := s.freeCount }
/-- R432: the device reset. -/
def deviceReset (s : State) : State := bootOrder (bareDevice s)

/-- DEVICE_RESET. -/
def execDeviceReset (s : State) : Host.Outcome State Fault Refusal := .next (deviceReset s)

/-- MANAGEMENT_MAILBOX_IMAGE: in recovery boot an acceptable image takes the place of its class's; the boot order then runs
again (DESIGN CHOICE, log entry 35). -/
def execManagementMailboxImage (i : Image) (s : State) : Host.Outcome State Fault Refusal :=
  .next <|
    if s.boot.recovery ∧ imageOk s i then
      let s := { s with boot := { s.boot with images := i :: s.boot.images.filter fun x => x.cls != i.cls } }
      { deviceReset s with replies := s.replies ++ [.status 0] }
    else reply s .refused

/-! ## Attestation (R370, R371) -/

/-- R371: the scope word of a partition. -/
def scopePart (scope : Nat) : Option Nat := if scope = 0 then none else some (scope - 1)

/-- R371: bytes 0 to 3,095 of a report. -/
def reportBody (s : State) (scope : Nat) (nonce : List Byte) : List Byte :=
  let zeros (n : Nat) : List Byte := List.replicate n 0
  leBytes 4 1 ++ leBytes 4 scope ++ nonce ++ leBytes 8 (s.dom.devnum.getD 0) ++ leBytes 8 s.time ++
  ((List.range 4).flatMap fun i => digestBytes (measAt s i)) ++
  (match scopePart scope with
   | some p => digestBytes (measAt s (8 + p))
   | none => zeros 64) ++
  (match scopePart scope with
   | some p => digestBytes (Config.sha3 (((partAt s p).map fun x => confRecord p x.conf).getD []))
   | none => digestBytes (Config.sha3 (tableBytes s))) ++
  fuseBytes s ++ s.boot.aliasKey

/-- ATTEST_REPORT: the host may ask for any scope, a supervisor only for its partition's own. -/
def execAttestReport (requester : Option Nat) (scope : Nat) (nonce : List Byte) (s : State) : Host.Outcome State Fault Refusal :=
  .next <|
    if !booted s 6 ∨ nonce.length ≠ 64 then reply s .refused
    else if requester.isSome ∧ requester ≠ scopePart scope then reply s (.status 5)
    else
      let body := reportBody s scope nonce
      reply s (.bytes (body ++ fixedBytes 4627 (Config.aliasSign (aliasSeed s) body)))

/-! ## Power and clocks (R430, R431) -/

/-- R430: a die's clock is stretched; an episode begins. -/
def stretchDie (s : State) (d : Nat) : State :=
  let x := dieAt s d
  if x.stretched then s else setDie s d { x with stretched := true, events := Nat.min (x.events + 1) 0xFFFFFFFF }

/-- SUPPLY_SAG. -/
def execSupplySag (d : Nat) (s : State) : Host.Outcome State Fault Refusal := .next (stretchDie s d)
/-- SUPPLY_RECOVER. -/
def execSupplyRecover (d : Nat) (s : State) : Host.Outcome State Fault Refusal := .next (setDie s d { dieAt s d with stretched := false })
/-- R431: RAIL_CURRENT_LIMIT: the fused limiter stretches the die's clock, whatever WATTS holds. -/
def execRailCurrentLimit (d : Nat) (s : State) : Host.Outcome State Fault Refusal := .next (stretchDie s d)

/-- R431: POWER_LIMIT_WRITE. -/
def execPowerLimitWrite (value : Word) (s : State) : Host.Outcome State Fault Refusal :=
  .next { s with watts := Nat.min (Nat.max (bits value.toNat 11 0) 1500) Config.fusedWatts, lim := s.lim && !value.getLsbD 31 }

/-- R431: POWER_CLOCK_ADJUST: the DMC sets FCLK in steps of 25 MHz; lowering it says that the limit was reached, which sets
LIM and posts class 8. -/
def execPowerClockAdjust (mhz : Nat) (s : State) : Host.Outcome State Fault Refusal :=
  .next <|
    if mhz % 25 ≠ 0 ∨ 2400 < mhz ∨ mhz = s.fclk then s
    else if s.fclk < mhz then { s with fclk := mhz }
    else
      let s := { s with fclk := mhz, lim := true }
      s.parts.foldl (fun s e => post s e.1 8 (word s.watts) 0) s

/-- R431: the power limit register as read. -/
def powerRead (s : State) : Word := word (s.fclk * 2 ^ 32 + (if s.lim then 2 ^ 31 else 0) + s.watts)

/-- R425, R431: function 0's BAR0 as the host reads it, by offset: DEVNUM and the power limit register. -/
def functionZeroRead (s : State) (off : Nat) : Word :=
  if off = 0 then word (s.dom.devnum.getD 0) else if off = 0x10 then powerRead s else 0

/-- R430: n cycles are delivered to a die. -/
def tickDie (x : Die) (n : Nat) : Die :=
  { x with cyc := (x.cyc + n) % 2 ^ 64, scyc := if x.stretched then (x.scyc + n) % 2 ^ 32 else x.scyc }

end Sys2Proof.Machine
end

