-- ==== Sys2Proof/Machine/Recovery.lean ====
section
/-! DEFINITION. Errors, dead agents and lost links: heartbeats and fences (R410, R411), the loss walk (R412), the patrol scrub
(R406), the error block (R414), dead spindles (R415, R416), Etfen and host link loss (R417, R418). -/
namespace Sys2Proof.Machine

/-! ## Dead units (R410 to R412) -/

/-- R305, R411: a call put back at its place in the tool queue, which runs in the order in which the futures opened. -/
def requeueCall (s : State) (part : Nat) (c : Call) : State :=
  let key (c : Call) : Nat := ((futAt s c.future).map (·.openedAt)).getD 0
  modPart s part fun p =>
    { p with tools := (p.tools.filter fun x => decide (key x ≤ key c)) ++ [c] ++ p.tools.filter fun x => decide (key c < key x) }

/-- R305, R411: the futures that a dead core had taken return to open, their deadlines unchanged. -/
def returnFutures (s : State) (k : Nat) : State :=
  s.futs.foldl (fun s e =>
    if e.2.st = .taken k then
      requeueCall { s with futs := smIns s.futs e.1 { e.2 with st := .opened } } e.2.part ⟨e.1, e.2.tool⟩
    else s) s

/-- R411, R412: a dead agent core: its futures return, the lines that it held in M or O enter the loss list, the others are
dropped. Every request that meets such an entry is answered in the same way, so the model resolves them at the fence. -/
def fenceCore (s : State) (pnum k : Nat) : State :=
  let lines := (agentAt s k).l2
  let s := returnFutures (modAgent { s with farCores := smDel s.farCores k } k fun a => { a with dead := true, l2 := [], resv := none }) k
  lines.foldl (fun s e => if e.2 then addLoss s pnum e.1 else s) s

/-- R411, R412: a dead tile: its write leases' lines enter the loss list, dirty or not; its read leases end; its launches end
KILLED, their contexts killed (DEDUCED, log entry 36); the commands of its queues are discarded. -/
def fenceTile (s : State) (pnum t : Nat) : State :=
  let lines := (tileAt s t).lines
  let launch := (tileAt s t).launch
  let s := modTile s t fun x =>
    { x with dead := true, lines := [], tensor := {}, conv := {}, ringq := {} }
  let s := (List.range 8).foldl (fun s i => modSpin s (8 * t + i) fun x => { x with chans := [] }) s
  let s := lines.foldl (fun s l =>
    match l.2.st with
    | .W | .D | .B => addLoss s pnum l.2.home
    | _ => s) s
  match launch with
  | none => s
  | some num =>
    match smFind s.launches num with
    | none => s
    | some l =>
      let s := l.tiles.foldl (fun s t => (tileCtxs s t).foldl killCtx s) s
      { s with launches := smIns s.launches num { l with killed := true } }

/-- R415: a dead spindle: its contexts issue nothing more. -/
def fenceSpindle (s : State) (sp : Nat) : State := modSpin s sp fun x => { x with dead := true }

/-- R410: the partition that a unit belongs to. -/
def partOfUnit (s : State) (kind : UnitKind) (u : Nat) : Option Nat :=
  match kind with
  | .agentCore => partOfCore s u
  | .spindle => partOfTile s (tileOfSpindle u)
  | .tile => partOfTile s u
  | .slice => (s.parts.find? fun e => e.2.conf.slices.contains u).map (·.1)
  | .linkChuckHeadstockDmc => none

/-- R14, R413: the number under which a unit is posted. -/
def unitId (kind : UnitKind) (u : Nat) : Nat :=
  match kind with
  | .agentCore => 1536 + u
  | _ => u

/-- R410: whether a unit is dead already. -/
def unitDead (s : State) (kind : UnitKind) (u : Nat) : Bool :=
  match kind with
  | .agentCore => (agentAt s u).dead
  | .spindle => (spinAt s u).dead
  | .tile => (tileAt s u).dead
  | .slice => (sliceAt s u).dead
  | .linkChuckHeadstockDmc => false

/-- R410: how many units of a kind the device has (R14). -/
def unitCount (kind : UnitKind) : Nat :=
  match kind with
  | .agentCore => 96
  | .spindle => 1536
  | .tile => 192
  | .slice => 256
  | .linkChuckHeadstockDmc => 1
/-- R412: the slices of a partition, if any, walk their records for a dead unit. -/
def walkFor (s : State) (pnum : Option Nat) (kind : UnitKind) (u : Nat) : State :=
  match pnum with
  | some pnum => { s with lossWalks := s.lossWalks ++ [(pnum, kind, u, s.time)] }
  | none => s
/-- R410: a unit that has missed its third window is dead: it is fenced, and the fence is posted for the partition that it belongs
to, if any. A slice is dead until its partition's reset has cleared it. -/
def heartbeatMiss (s : State) (kind : UnitKind) (u : Nat) : State :=
  let part := partOfUnit s kind u
  if kind = .linkChuckHeadstockDmc then deviceReset s
  else if unitDead s kind u ∨ unitCount kind ≤ u then s
  else
    let s := match part with
      | some pnum => post s pnum 6 (word (unitId kind u)) 0
      | none => s
    match kind with
    | .agentCore => walkFor (fenceCore s (part.getD 8) u) part kind u
    | .tile => walkFor (fenceTile s (part.getD 8) u) part kind u
    | .spindle => walkFor (fenceSpindle s u) part kind u
    | _ => resetPart (modSlice s u fun x => { x with dead := true }) (part.getD 8)

/-- HEARTBEAT_MISS. -/
def execHeartbeatMiss (kind : UnitKind) (u : Nat) (s : State) : Host.Outcome State Fault Refusal := .next (heartbeatMiss s kind u)

/-- LOSS_WALK_END: the end of the walk is posted. -/
def execLossWalkEnd (pnum : Nat) (kind : UnitKind) (u : Nat) (s : State) : Host.Outcome State Fault Refusal :=
  .next <|
    match s.lossWalks.find? fun w => w.1 == pnum && w.2.1 == kind && w.2.2.1 == u with
    | some w => post { s with lossWalks := s.lossWalks.erase w } pnum 6 (word (unitId kind u)) 0
    | none => s

/-! ## The scrub and the error block (R406, R414) -/

/-- R405: whether a block has an uncorrectable word. -/
def blockBad (s : State) (b : Nat) : Bool := (blockWords b).any fun w => (smFind s.errs w).isSome

/-- R406: whether the memory of a block, not its copy in the LLC, has an uncorrectable word. -/
def scrubBad (s : State) (b : Nat) : Bool := (blockWords b).any fun w => (smFind s.errs w).any fun e => !e.llc

/-- PATROL_SCRUB: R406. -/
def execPatrolScrub (b : Nat) (s : State) : Host.Outcome State Fault Refusal :=
  .next <|
    match ownerOf s (64 * b) with
    | none => { s with cerrs := s.cerrs.filter fun e => e.1 / 8 != b }
    | some pnum =>
      let s := repairBlock s pnum b
      if scrubBad s b then modPart s pnum fun p => { p with uecnt := sat32 (p.uecnt + 1) } else s

/-- R414: LLCLR: a listed line is zeroed at its home, when leases let it (R194), and leaves the list. -/
def llclr (s : State) (pnum : Nat) (value : Word) : State :=
  let line := bits value.toNat 56 7
  match partAt s pnum with
  | none => s
  | some p =>
    let p := { p with llclr := word (128 * line) }
    let s := setPart s pnum p
    if p.loss.contains line then devWrite s ⟨pnum, 128 * line, List.replicate 128 0, true⟩ else s
/-- LLCLR_WRITE. -/
def execLlclrWrite (pnum : Nat) (value : Word) (s : State) : Host.Outcome State Fault Refusal := .next (llclr s pnum value)

/-- R414: FMTC on one block. -/
def retag (s : State) (pnum : Nat) (p : Part) (tag b : Nat) : State :=
  if !ownsPa s p (64 * b) then s
  else if blockBad s b then modPart s pnum fun p => { p with uecnt := sat32 (p.uecnt + 1) }
  else { repairBlock s pnum b with ctag := smSet 0 s.ctag b tag }
/-- R414: FMTC: the code tag of NBM + 1 blocks from FMTA. -/
def fmtc (s : State) (pnum : Nat) (value : Word) : State :=
  match partAt s pnum with
  | none => s
  | some p =>
    let tag := bits value.toNat 17 16 % 3
    let s := setPart s pnum { p with fmtc := word (bits value.toNat 15 0 + 2 ^ 16 * tag) }
    (List.range (bits value.toNat 15 0 + 1)).foldl (fun s i => retag s pnum p tag (bits p.fmta.toNat 56 6 + i)) s
/-- FMTC_WRITE. -/
def execFmtcWrite (pnum : Nat) (value : Word) (s : State) : Host.Outcome State Fault Refusal := .next (fmtc s pnum value)

/-! ## A dead spindle (R416) -/

/-- R416: every context of a dead spindle takes the effects of `ctxkill`, and is left reaped; its mailboxes' contents are
discarded; a launch whose control context was there ends KILLED. -/
def sweepSpindle (s : State) (sp : Nat) : State :=
  let s := if ended (ctxOf s (ctxNum sp 0)) then s else launchKilled s sp
  (helpersOf sp ++ [ctxNum sp 0]).foldl (fun s n => modCtx (killCtx s n) n fun c => { c with mb := [] }) s
/-- R416: a spindle returns with every context free. -/
def freeContexts (s : State) (sp : Nat) : State := (List.range 16).foldl (fun s k => freeCtx s (ctxNum sp k)) s

/-- SPRESET: a dead spindle that passes its self-test returns with every context free; one that fails is retired. -/
def execSpreset (sp : Nat) (s : State) : Host.Outcome State Fault Refusal :=
  .next <|
    if (spinAt s sp).dead && !(spinAt s sp).retired then
      let s := sweepSpindle s sp
      let ok := Config.selfTest s.freeCount
      let s := { s with freeCount := s.freeCount + 1 }
      reply (modSpin (if ok then freeContexts s sp else s) sp fun x => { x with dead := !ok, retired := !ok, deque := [], memBot := 0, memCount := 0 }) (.status 0)
    else reply s .refused
/-- SPRETIRE: a dead spindle never starts again. -/
def execSpretire (sp : Nat) (s : State) : Host.Outcome State Fault Refusal :=
  .next (if (spinAt s sp).dead then reply (modSpin (sweepSpindle s sp) sp fun x => { x with retired := true }) (.status 0)
    else reply s .refused)

/-! ## Lost links (R417, R418) -/

/-- R417: an event of class 6 for every partition. -/
def postAll (s : State) (cls : Nat) (info : Word) : State := s.parts.foldl (fun s e => post s e.1 cls info 0) s

/-- ETFEN_LINK_DOWN: a port goes down; devices with no route left become unreachable, each posted. Operations outstanding to
them fail when they are answered. -/
def execEtfenLinkDown (port : Nat) (devs : List Nat) (s : State) : Host.Outcome State Fault Refusal :=
  .next <|
    if 18 ≤ port then s
    else
      let new := devs.filter fun d => s.dom.present.contains d && !s.dom.unreachable.contains d
      let s := { s with dom := { s.dom with
        downPorts := if s.dom.downPorts.contains port then s.dom.downPorts else s.dom.downPorts ++ [port]
        unreachable := s.dom.unreachable ++ new } }
      new.foldl (fun s d => postAll s 6 (word d)) s
/-- ETFEN_ROUTE_RETURN. -/
def execEtfenRouteReturn (d : Nat) (s : State) : Host.Outcome State Fault Refusal :=
  .next { s with dom := { s.dom with unreachable := s.dom.unreachable.filter (· != d) } }

/-- R418: the host-homed lines that a tile holds: clean ones are dropped, dirty ones held. -/
def holdHostLines (s : State) (t : Nat) : State :=
  let pnum := (partOfTile s t).getD 0
  (tileAt s t).lines.foldl (fun s l =>
    if isHost (paLocal (128 * l.2.home)) ∧ paDev (128 * l.2.home) = s.dom.devnum.getD 0 ∧ l.2.st ≠ .F then
      let held : List HeldWrite :=
        if l.2.st = .D ∨ l.2.st = .B then
          match mapAt (tileAt s t) (l.1 * 128) with
          | some (_, m) => [⟨pnum, 128 * l.2.home, stashBytes s t (stashOff m (l.1 * 128)) 128, true⟩]
          | none => []
        else []
      dropLine { s with hostHeld := s.hostHeld ++ held } t l.1
    else s) s

/-- R418: the host-homed lines of a core's caches: clean ones are dropped; a dirty one is held, and host memory is as it was before the L2
wrote it (log entry 91). -/
def holdCoreLines (s : State) (k : Nat) : State :=
  let pnum := (partOfCore s k).getD 0
  let host (l : Nat) : Bool := isHost (paLocal (128 * l)) && paDev (128 * l) == s.dom.devnum.getD 0
  let mine := (agentAt s k).l2.filter fun e => host e.1
  let s := mine.foldl (fun s e =>
    match e.2, smFind (agentAt s k).l2Old e.1 with
    | true, some old =>
      let held : HeldWrite := ⟨pnum, 128 * e.1, memBytes s (128 * e.1) 128, true⟩
      let t := putBytes { s with hostHeld := s.hostHeld ++ [held] } (128 * e.1) old
      { t with pub := s.pub, publishing := s.publishing }
    | _, _ => s) s
  modAgent s k fun a => { a with l2 := a.l2.filter fun e => !host e.1, icode := a.icode.filter fun e => !host e.1, l2Old := [] }

/-- HOST_LINK_LOSS. -/
def execHostLinkLoss (s : State) : Host.Outcome State Fault Refusal :=
  .next <|
    if !s.hostUp then s
    else
      let host (l : Nat) : Bool := isHost (paLocal (128 * l)) && paDev (128 * l) == s.dom.devnum.getD 0
      let s := { s with ilines := s.ilines.filter fun i => !host i.home }
      let s := { s with hostUp := false, hostLost := s.time, parts := s.parts.map fun (e : Nat × Part) => (e.1, { e.2 with linkPhase := .held }) }
      postAll ((s.agents.map (·.1)).foldl holdCoreLines ((s.tiles.map (·.1)).foldl holdHostLines s)) 7 0

/-- HOST_LINK_RECOVER: held lines are written back, accesses succeed again. -/
def execHostLinkRecover (s : State) : Host.Outcome State Fault Refusal :=
  .next <|
    if s.hostUp then s
    else
      let held : List HeldWrite := s.hostHeld
      let s := { s with hostUp := true, hostHeld := [], parts := s.parts.map fun (e : Nat × Part) => (e.1, { e.2 with linkPhase := .up }) }
      postAll (held.foldl (fun s (e : HeldWrite) => putHomeAs e.back s e.part e.pa e.bytes) s) 7 0

/-- R418: a discarded line is written to the discard log and counted. -/
def logDiscard (s : State) (pnum addr : Nat) : State :=
  match partAt s pnum with
  | none => s
  | some p =>
    let s :=
      if p.hllogn = 0 then s
      else
        let a := p.hllogb.toNat + 8 * (p.hllogc % p.hllogn)
        if ownsPa s p a then devWrite s ⟨pnum, a, leBytes 8 addr, false⟩ else s
    modPart s pnum fun p => { p with hllogc := sat32 (p.hllogc + 1) }

/-- HOST_HOLD_EXPIRY: the lines held for a partition are discarded and logged. -/
def execHostHoldExpiry (pnum : Nat) (s : State) : Host.Outcome State Fault Refusal :=
  .next <|
    match partAt s pnum with
    | none => s
    | some p =>
      if s.hostUp ∨ p.linkPhase ≠ .held ∨ s.time < s.hostLost + 1000000 * p.hlhold then s
      else
        let mine : List HeldWrite := s.hostHeld.filter fun e => e.part == pnum
        let s := setPart { s with hostHeld := s.hostHeld.filter fun e => e.part != pnum } pnum { p with linkPhase := .discarded }
        mine.foldl (fun s e => logDiscard s pnum e.pa) s

end Sys2Proof.Machine
end

