-- ==== Sys2Proof/Machine/Hart.lean ====
section
/-! DEFINITION. The privileged state of an agent core (R348): modes, the CSRs as stored, interrupts and traps. The spec names
RVA23 with H, Smaia and Ssaia by reference; what they say is taken from the RISC-V architecture (PRESUMED, log entry 8). -/
namespace Sys2Proof.Machine

/-- A bit field of a word replaced. -/
def setField (w : Word) (hi lo v : Nat) : Word :=
  word (w.toNat - bits w.toNat hi lo * 2 ^ lo + v % 2 ^ (hi + 1 - lo) * 2 ^ lo)
/-- A word with the bits of a mask taken from another. -/
def maskIn (old new mask : Word) : Word := (old &&& ~~~mask) ||| (new &&& mask)

/-- Whether a mode is virtualised. -/
def Mode.virt (m : Mode) : Bool := m == .VS || m == .VU
/-- The privilege encoding of a mode: 0 user, 1 supervisor, 3 machine. -/
def Mode.level (m : Mode) : Nat :=
  match m with
  | .M => 3
  | .HS | .VS => 1
  | .U | .VU => 0
/-- The mode of a privilege encoding and V. -/
def hartMode (level : Nat) (virt : Bool) : Mode :=
  if level = 3 then .M else if level = 1 then (if virt then .VS else .HS) else if virt then .VU else .U

/-! ## Registers -/

/-- An agent core's register; x0 reads 0. -/
def agX (a : Agent) (r : Nat) : Word := if r = 0 then 0 else smGet 0 a.x r
def setAgX (a : Agent) (r : Nat) (w : Word) : Agent := if r = 0 then a else { a with x := smSet 0 a.x r w }
/-- A CSR as stored under its number, for those with no field of their own. -/
def csrAt (a : Agent) (n : Nat) : Word := smGet 0 a.csr n
def setCsr (a : Agent) (n : Nat) (w : Word) : Agent := { a with csr := smSet 0 a.csr n w }
/-- A bit of a stored CSR. -/
def csrBit (a : Agent) (n i : Nat) : Bool := (csrAt a n).getLsbD i

/-- An instruction of n bytes retires: the pc moves past it, and minstret counts it. -/
def retire (a : Agent) (n : Nat) : Agent := { setCsr a 0xB02 (csrAt a 0xB02 + 1) with pc := a.pc + word n }

/-! ## Interrupts (Sstc, Smaia, Ssaia) -/

/-- The CSR `time`: device time in nanoseconds (log entry 88). -/
def hartTime (s : State) : Nat := s.time
/-- The CSR `time` of a virtual machine, by htimedelta. -/
def guestTime (s : State) (a : Agent) : Nat := (s.time + (csrAt a 0x605).toNat) % 2 ^ 64

/-- The identity that an interrupt file gives: the lowest that is pending and enabled and lies below the threshold, if any. -/
def IntFile.top (f : IntFile) : Option Nat :=
  f.pending.find? fun i => f.enabled.contains i && (f.threshold == 0 || decide (i < f.threshold))
/-- Whether an interrupt file signals. -/
def IntFile.signals (f : IntFile) : Bool := f.delivery == 1 && f.top.isSome

/-- A word of single bits. -/
def bitsWord (bs : List (Nat × Bool)) : Word := word (bs.foldl (fun n b => if b.2 then n + 2 ^ b.1 else n) 0)

/-- mip: the bits that software sets, hvip, the timers of Sstc, and the interrupt files; with no guest interrupt file. -/
def mipOf (s : State) (a : Agent) : Word :=
  let stce := csrBit a 0x30A 63
  let soft := csrAt a 0x344 ||| csrAt a 0x645
  let stip := if stce then decide ((csrAt a 0x14D).toNat ≤ hartTime s) else soft.getLsbD 5
  let vstip := soft.getLsbD 6 || (stce && csrBit a 0x60A 63 && decide ((csrAt a 0x24D).toNat ≤ guestTime s a))
  bitsWord [(1, soft.getLsbD 1), (2, soft.getLsbD 2), (5, stip), (6, vstip), (9, soft.getLsbD 9 || a.sfile.signals),
    (10, soft.getLsbD 10), (11, a.mfile.signals), (13, soft.getLsbD 13)]
/-- mideleg: the interrupts of VS-mode are delegated at all times. -/
def midelegOf (a : Agent) : Word := csrAt a 0x303 ||| 0x1444
/-- The interrupts that are pending and enabled, highest priority first. -/
def firstIrq (m : Word) : Option Nat := [11, 3, 7, 9, 1, 5, 12, 10, 2, 6, 13].find? m.getLsbD

/-- The VS-level bits of a word of interrupts, as VS-mode numbers them. -/
def vsBits (m : Word) : Word := bitsWord [(1, m.getLsbD 2), (5, m.getLsbD 6), (9, m.getLsbD 10), (13, m.getLsbD 13)]
/-- The interrupts pending and enabled for M-mode, for HS-mode, and for VS-mode under its own numbers. -/
def irqM (s : State) (a : Agent) : Word := mipOf s a &&& csrAt a 0x304 &&& ~~~midelegOf a
def irqS (s : State) (a : Agent) : Word := mipOf s a &&& csrAt a 0x304 &&& midelegOf a &&& ~~~csrAt a 0x603
def irqVS (s : State) (a : Agent) : Word := vsBits (mipOf s a &&& csrAt a 0x304 &&& midelegOf a &&& csrAt a 0x603)

/-- mtopi and stopi: the interrupt of highest priority, its number and priority 1. -/
def topi (m : Word) : Word := match firstIrq m with | some i => word (i * 2 ^ 16 + 1) | none => 0
/-- vstopi, under hvictl: the highest of the guest's own interrupts, or with VTI set of its external one and of the one that
hvictl gives; a priority of 0 stands for the default order. -/
def vstopi (s : State) (a : Agent) : Word :=
  let h := (csrAt a 0x609).toNat
  let iid := bits h 27 16
  let prio := bits h 7 0
  let own := irqVS s a
  let show' (i p : Nat) : Word := word (i * 2 ^ 16 + (if bit h 8 then Nat.max p 1 else 1))
  if !bit h 30 then
    match firstIrq own with
    | some i => show' i 1
    | none => 0
  else
    let ext : Option Nat := if own.getLsbD 9 then some (if iid = 9 ∧ prio ≠ 0 then prio else 256) else none
    match ext, decide (iid ≠ 9 ∧ iid ≠ 0) with
    | none, false => 0
    | some e, false => show' 9 (Nat.min e 255)
    | none, true => show' iid prio
    | some e, true => if prio < e ∨ (prio = e ∧ !bit h 9) then show' iid prio else show' 9 (Nat.min e 255)

/-- The interrupt that a core takes before its next instruction: its number and the mode that takes it. -/
def pendingIrq (s : State) (a : Agent) : Option (Nat × Mode) :=
  let m := if a.mode ≠ .M ∨ a.mstatus.getLsbD 3 then firstIrq (irqM s a) else none
  let h := if a.mode.virt ∨ a.mode = .U ∨ (a.mode = .HS ∧ a.mstatus.getLsbD 1) then firstIrq (irqS s a) else none
  let v := if a.mode = .VU ∨ (a.mode = .VS ∧ a.vsstatus.getLsbD 1) then bits (vstopi s a).toNat 27 16 else 0
  match m, h with
  | some i, _ => some (i, .M)
  | none, some i => some (i, .HS)
  | none, none => if v = 0 then none else some (v, .VS)

/-! ## Traps -/

/-- An exception or an interrupt: its cause, the values for the registers of the handler, whether the address is a guest's, and
what xcapfa receives from a capability fault (R352); `reads` are places read on the way to it, whose corrected errors are repaired all
the same (R405). -/
structure Exc where
  cause : Nat
  tval : Nat := 0
  gva : Bool := false
  tval2 : Nat := 0
  tinst : Nat := 0
  cap : Option Word := none
  intr : Bool := false
  reads : List Loc := []
  deriving DecidableEq, Repr

/-- The cause register. -/
def Exc.code (e : Exc) : Word := Sys2Proof.word ((if e.intr then 2 ^ 63 else 0) + e.cause)
/-- Where a trap goes: the base of the vector register, or for an interrupt in vectored mode its entry. -/
def Exc.target (e : Exc) (tvec : Word) : Word :=
  (tvec &&& ~~~3) + (if e.intr && tvec.getLsbD 0 then Sys2Proof.word (4 * e.cause) else 0)

/-- A trap to M-mode. -/
def trapM (a : Agent) (e : Exc) : Agent :=
  let st := setField a.mstatus 12 11 a.mode.level
  let st := setField st 39 39 (if a.mode.virt then 1 else 0)
  let st := setField st 38 38 (if e.gva then 1 else 0)
  let st := setField st 7 7 (bits a.mstatus.toNat 3 3)
  let a' := setCsr (setCsr a 0x34B (word e.tval2)) 0x34A (word e.tinst)
  { a' with mepc := a.pc, mcause := e.code, mtval := word e.tval, mstatus := setField st 3 3 0, mode := .M, pc := e.target a.mtvec }
/-- A trap to HS-mode. -/
def trapHS (a : Agent) (e : Exc) : Agent :=
  let st := setField a.mstatus 8 8 a.mode.level
  let st := setField st 5 5 (bits a.mstatus.toNat 1 1)
  let h := setField a.hstatus 7 7 (if a.mode.virt then 1 else 0)
  let h := setField h 6 6 (if e.gva then 1 else 0)
  let h := if a.mode.virt then setField h 8 8 a.mode.level else h
  let a' := setCsr (setCsr a 0x643 (word e.tval2)) 0x64A (word e.tinst)
  { a' with sepc := a.pc, scause := e.code, stval := word e.tval, mstatus := setField st 1 1 0, hstatus := h, mode := .HS
            pc := e.target a.stvec }
/-- A trap to VS-mode. -/
def trapVS (a : Agent) (e : Exc) : Agent :=
  let st := setField a.vsstatus 8 8 a.mode.level
  let st := setField st 5 5 (bits a.vsstatus.toNat 1 1)
  { a with vsepc := a.pc, vscause := e.code, vstval := word e.tval, vsstatus := setField st 1 1 0, mode := .VS
           pc := e.target a.vstvec }

/-- An exception of an agent core, to the mode that delegation chooses; a capability fault is never delegated to VS-mode
(R352). -/
def trapCore (a : Agent) (e : Exc) : Agent :=
  if a.mode = .M ∨ !bit a.medeleg.toNat e.cause then trapM a e
  else if a.mode.virt && bit a.hedeleg.toNat e.cause && e.cap.isNone then trapVS a e
  else trapHS a e
/-- An interrupt of an agent core, taken by a mode. -/
def trapIrq (a : Agent) (i : Nat) (m : Mode) : Agent :=
  match m with
  | .M => trapM a { cause := i, intr := true }
  | .VS => trapVS a { cause := i, intr := true }
  | _ => trapHS a { cause := i, intr := true }

/-- An exception of core k: its state otherwise unchanged, xcapfa written by a capability fault (R352). -/
def coreTrap (s : State) (k : Nat) (e : Exc) : State :=
  modAgent (correct s e.reads) k fun a =>
    trapCore (match e.cap with
      | some w => { a with xcapfa := w }
      | none => a) e

/-- R351, R354: the exception of an instruction that the mode does not admit: virtual instruction with V = 1, else illegal
instruction. -/
def illegalFor (a : Agent) (bitsOf : Nat) : Agent := trapCore a { cause := if a.mode.virt then 22 else 2, tval := bitsOf }

end Sys2Proof.Machine
end

