-- ==== Sys2Proof/Machine/Paging.lean ====
section
/-! DEFINITION. The addresses of an agent core: global physical addresses (R349), physical memory protection, the page walks of
Sv39, Sv48 and Sv57 with their G-stage forms (R348, PRESUMED in detail: log entry 8), capabilities (R352), and what translating
and checking an access comes to. -/
namespace Sys2Proof.Machine

/-- R349: the global physical address of a 56-bit agent-core physical address. -/
def agentPa (s : State) (a : Agent) (pa : Nat) : Option Nat :=
  let mid := bits pa 54 44
  let loc := bits pa 43 0
  if 2 ^ 56 ≤ pa then none
  else if bit pa 55 then some ((bits a.xdomhi.toNat 1 0 * 2 ^ 11 + mid) * 2 ^ 44 + loc)
  else if mid = 0 then some (localPa s loc) else none

/-- R421: whether a global physical address lies in the control block of a partition on this device, and its offset. -/
def controlOffset (s : State) (pnum pa : Nat) : Option Nat :=
  let base := localPa s (0x40000010000 + pnum * 0x10000)
  if base ≤ pa ∧ pa < base + 0x10000 then some (pa - base) else none

/-- The causes of an access: instruction, load, or store and AMO: its access fault and its page fault. A right: 1 read, 2
write, 4 execute. -/
def causes (need : Nat) : Nat × Nat := if bit need 2 then (1, 12) else if bit need 1 then (7, 15) else (5, 13)
/-- The guest page fault of an access. -/
def guestCause (need : Nat) : Nat := if bit need 2 then 20 else if bit need 1 then 23 else 21

/-- What a translation comes to: a result with the places read for it (R405), an exception, or home lines to wait for (R194). -/
inductive Wk (α : Type)
  | ok (x : α) (reads : List Loc)
  | exc (e : Exc)
  | wait (homes : List Nat)
/-- A result that needs no reading. -/
def Wk.pure {α : Type} (x : α) : Wk α := .ok x []
/-- One part of a translation after another. -/
def Wk.bind {α β : Type} (w : Wk α) (f : α → Wk β) : Wk β :=
  match w with
  | .ok x r =>
    match f x with
    | .ok y q => .ok y (r ++ q)
    | .exc e => .exc { e with reads := r ++ e.reads }
    | .wait hs => .wait hs
  | .exc e => .exc e
  | .wait hs => .wait hs
/-- Each of a list translated, in order. -/
def Wk.each {α β : Type} (f : α → Wk β) : List α → Wk (List β)
  | [] => .pure []
  | x :: xs => (f x).bind fun y => (Wk.each f xs).bind fun ys => .pure (y :: ys)

/-- What an access of an agent core is, beyond its rights: a load-reserve, an atomic operation, or neither. -/
inductive CoreKind | plain | lr | amo
  deriving DecidableEq, Repr
/-- How an access is made: the privilege level, V, the rights that it needs, and whether it is `hlvx`. -/
structure CoreAcc where
  level : Nat
  virt : Bool
  need : Nat
  hlvx : Bool := false
  kind : CoreKind := .plain
  deriving DecidableEq, Repr
/-- The access of a mode. -/
def Mode.acc (m : Mode) (need : Nat) : CoreAcc := ⟨m.level, m.virt, need, false, .plain⟩
/-- A load's or a store's access: that of the mode, or with mstatus.MPRV in M-mode that of MPP and MPV. -/
def dataAcc (a : Agent) (need : Nat) : CoreAcc :=
  if a.mode = .M ∧ a.mstatus.getLsbD 17 then
    let l := bits a.mstatus.toNat 12 11
    ⟨l, l != 3 && a.mstatus.getLsbD 39, need, false, .plain⟩
  else a.mode.acc need

/-! ## Physical memory protection -/

/-- The number of low bits set. -/
def trailingOnes : Nat → Nat → Nat
  | 0, _ => 0
  | k + 1, n => if n % 2 = 1 then trailingOnes k (n / 2) + 1 else 0
/-- The range of a PMP entry: first byte and first byte after it; an entry that is off has none. -/
def pmpRange (a : Agent) (i : Nat) : Nat × Nat :=
  let cfg := (csrAt a (0x3A0 + 2 * (i / 8))).toNat / 2 ^ (8 * (i % 8)) % 256
  let addr := (csrAt a (0x3B0 + i)).toNat
  match bits cfg 4 3 with
  | 0 => (0, 0)
  | 1 => (if i = 0 then 0 else 4 * (csrAt a (0x3AF + i)).toNat, 4 * addr)
  | 2 => (4 * addr, 4 * addr + 4)
  | _ => let k := trailingOnes 54 addr; (addr / 2 ^ (k + 1) * 2 ^ (k + 3), (addr / 2 ^ (k + 1) + 1) * 2 ^ (k + 3))
/-- Whether PMP admits n bytes: the first entry that holds one of them holds all and has the rights, M-mode being bound by
locked entries only; with no such entry, M-mode alone. -/
def pmpAdmits (a : Agent) (level lo n need : Nat) : Bool :=
  let hit := (List.range 16).find? fun i => let r := pmpRange a i; decide (lo < r.2) && decide (r.1 < lo + n)
  match hit with
  | none => level == 3
  | some i =>
    let r := pmpRange a i
    let cfg := (csrAt a (0x3A0 + 2 * (i / 8))).toNat / 2 ^ (8 * (i % 8)) % 256
    decide (r.1 ≤ lo) && decide (lo + n ≤ r.2) && ((level == 3 && !bit cfg 7) || Nat.land cfg need == need)
/-- The same for an access: whole when it is aligned to its size, else byte by byte. -/
def pmpOk (a : Agent) (level lo n need : Nat) : Bool :=
  if n ≤ 64 ∧ lo % n = 0 then pmpAdmits a level lo n need else (List.range n).all fun i => pmpAdmits a level (lo + i) 1 need

/-! ## Page walks -/

/-- What translating an access needs: the partition, its number, the core, the access and its virtual address. -/
structure WalkCtx where
  s : State
  a : Agent
  pnum : Nat
  p : Part
  acc : CoreAcc
  va : Nat
/-- The access fault, and the page fault, of an access. -/
def WalkCtx.accessFault (c : WalkCtx) : Exc := { cause := (causes c.acc.need).1, tval := c.va, gva := c.acc.virt }
def WalkCtx.pageFault (c : WalkCtx) : Exc := { cause := (causes c.acc.need).2, tval := c.va, gva := c.acc.virt }
/-- The guest page fault of an access, at a guest physical address; of a table entry of the VS-stage, with the
pseudoinstruction of a 64-bit read. -/
def WalkCtx.guestFault (c : WalkCtx) (gpa : Nat) (implicit : Bool) : Exc :=
  { cause := guestCause c.acc.need, tval := c.va, gva := true, tval2 := gpa / 4, tinst := if implicit then 0x3000 else 0 }

/-- R348: the table entry at an agent-core physical address: the implicit accesses of a walk are not checked by capabilities
(R352), but by PMP and by their owner. -/
def readPte (c : WalkCtx) (pa : Nat) : Wk Nat :=
  if !pmpOk c.a 1 pa 8 1 then .exc c.accessFault
  else
    match agentPa c.s c.a pa with
    | none => .exc c.accessFault
    | some g =>
      if (targetFault c.s c.p c.pnum g true false).isSome then .exc c.accessFault
      else if homeConflict c.s (g / 128) false then .wait [g / 128]
      else if (locError c.s ((List.range 8).map fun i => .mem (g + i)) false).isSome then .exc c.accessFault
      else .ok (memDword c.s g) (if c.s.cerrs = [] then [] else [.mem g])

/-- A leaf that a walk has found: its entry, and the first address and the size of its page. -/
structure Leaf where
  pte : Nat
  base : Nat
  size : Nat
  deriving DecidableEq, Repr
/-- Where a leaf takes an address. -/
def Leaf.pa (l : Leaf) (va : Nat) : Nat := bits l.pte 53 10 * 4096 / l.size * l.size + va % l.size

/-- A leaf at a level, if it is well formed: a superpage aligned; Svnapot's 64 KiB pages at level 0. -/
def leafAt (pte level va : Nat) : Option Leaf :=
  let size := 2 ^ (12 + 9 * level)
  if bit pte 63 then
    if level = 0 ∧ bits pte 13 10 = 8 then some ⟨pte, va / 2 ^ 16 * 2 ^ 16, 2 ^ 16⟩ else none
  else if bits pte 53 10 * 4096 % size = 0 then some ⟨pte, va / size * size, size⟩ else none

/-- A walk from a table at a level, `top` address bits being translated by the first table; none is a page fault. Bit 62 and bit
61 of an entry hold Svpbmt's type where that is enabled. -/
def svWalk (read : Nat → Wk Nat) (pbmt : Bool) (va : Nat) : Nat → Nat → Nat → Wk (Option Leaf)
  | 0, _, _ => .pure none
  | level + 1, top, table =>
    (read (table + 8 * (va / 2 ^ (12 + 9 * level) % 2 ^ top))).bind fun pte =>
      if !bit pte 0 || (bit pte 2 && !bit pte 1) || bits pte 60 54 != 0 || (!pbmt && bits pte 62 61 != 0) || bits pte 62 61 == 3 then
        .pure none
      else if bit pte 1 || bit pte 3 then .pure (leafAt pte level va)
      else if bit pte 4 || bit pte 6 || bit pte 7 || bits pte 63 61 != 0 then .pure none
      else svWalk read pbmt va level 9 (bits pte 53 10 * 4096)

/-- A leaf held by the core for a stage, used or not as the core may (log entry 88). -/
def heldLeaf (c : WalkCtx) (stage asid vmid va : Nat) : Option Leaf :=
  match c.a.tlb.find? fun e =>
      e.stage == stage && (stage == 0 || e.vmid == vmid) && (stage == 2 || bit e.pte 5 || e.asid == asid) &&
      decide (e.base ≤ va) && decide (va < e.base + e.size) with
  | some e => if Config.stale c.s.freeCount va then some ⟨e.pte, e.base, e.size⟩ else none
  | none => none

/-- The levels of a mode of satp, vsatp or hgatp: 8 Sv39, 9 Sv48, 10 Sv57. -/
def svLevels (mode : Nat) : Nat := mode - 5
/-- One stage: the leaf for an address under the register that names its tables, whose table has `extra` more index bits. -/
def stageLeaf (c : WalkCtx) (stage : Nat) (atp : Word) (vmid va extra : Nat) (pbmt : Bool) (read : Nat → Wk Nat) : Wk (Option Leaf) :=
  let n := atp.toNat
  match heldLeaf c stage (bits n 59 44) vmid va with
  | some l => .pure (some l)
  | none => svWalk read pbmt va (svLevels (bits n 63 60)) (9 + extra) (bits n 43 0 * 4096)
/-- What a stage leaves to be held. -/
def heldAs (stage : Nat) (atp : Word) (vmid : Nat) (l : Leaf) : TlbEntry := ⟨stage, bits atp.toNat 59 44, vmid, l.base, l.size, l.pte⟩

/-- Whether a virtual address is the sign extension that a mode asks for. -/
def svCanonical (mode va : Nat) : Bool :=
  let w := 9 * svLevels mode + 11
  va / 2 ^ w == 0 || va / 2 ^ w == 2 ^ (64 - w) - 1
/-- Whether a leaf admits an access: the rights (with MXR a read needs read or execute), A, and D for a write. -/
def leafAdmits (pte : Nat) (acc : CoreAcc) (mxr : Bool) : Bool :=
  (if acc.hlvx then bit pte 3
   else (!bit acc.need 0 || bit pte 1 || (mxr && bit pte 3)) && (!bit acc.need 1 || bit pte 2) && (!bit acc.need 2 || bit pte 3)) &&
  bit pte 6 && (!bit acc.need 1 || bit pte 7)
/-- Whether the user bit of a leaf admits the level of an access. -/
def userAdmits (pte : Nat) (acc : CoreAcc) (sum : Bool) : Bool :=
  if acc.level = 0 then bit pte 4 else !bit pte 4 || (sum && !bit acc.need 2)

/-- The G-stage: the physical address of a guest physical address, and what is held; `implicit`: a VS-stage table entry is
read. -/
def gStage (c : WalkCtx) (gpa : Nat) (implicit : Bool) : Wk (Nat × List TlbEntry) :=
  let atp := csrAt c.a 0x680
  let mode := bits atp.toNat 63 60
  let acc : CoreAcc := if implicit then { c.acc with need := 1, hlvx := false } else c.acc
  if mode = 0 then .pure (gpa, [])
  else if 2 ^ (9 * svLevels mode + 14) ≤ gpa then .exc (c.guestFault gpa implicit)
  else
    (stageLeaf c 2 atp (bits atp.toNat 57 44) gpa 2 (csrBit c.a 0x30A 62) (readPte c)).bind fun
      | some l =>
        if bit l.pte 4 && leafAdmits l.pte acc (c.a.mstatus.getLsbD 19) then .pure (l.pa gpa, [heldAs 2 atp (bits atp.toNat 57 44) l])
        else .exc (c.guestFault gpa implicit)
      | none => .exc (c.guestFault gpa implicit)

/-- The agent-core physical address of a virtual address, and the leaves to be held. -/
def agentWalk (c : WalkCtx) : Wk (Nat × List TlbEntry) :=
  if c.acc.level = 3 then .pure (c.va, [])
  else
    let atp := if c.acc.virt then csrAt c.a 0x280 else csrAt c.a 0x180
    let mode := bits atp.toNat 63 60
    let st := if c.acc.virt then c.a.vsstatus else c.a.mstatus
    let mxr := st.getLsbD 19 || c.a.mstatus.getLsbD 19
    let vmid := bits (csrAt c.a 0x680).toNat 57 44
    let stage := if c.acc.virt then 1 else 0
    let pbmt := csrBit c.a 0x30A 62 && (!c.acc.virt || csrBit c.a 0x60A 62)
    let first : Wk (Nat × List TlbEntry) :=
      if mode = 0 then .pure (c.va, [])
      else if !svCanonical mode c.va then .exc c.pageFault
      else
        (stageLeaf c stage atp vmid c.va 0 pbmt fun a =>
            if c.acc.virt then (gStage c a true).bind fun r => readPte c r.1 else readPte c a).bind fun
          | some l =>
            if leafAdmits l.pte c.acc mxr && userAdmits l.pte c.acc (st.getLsbD 18) then .pure (l.pa c.va, [heldAs stage atp vmid l])
            else .exc c.pageFault
          | none => .exc c.pageFault
    if c.acc.virt then first.bind fun r => (gStage c r.1 false).bind fun g => .pure (g.1, r.2 ++ g.2) else first

/-! ## Capabilities (R351, R352) -/

/-- R351: whether a core's mode is checked. -/
def checked (a : Agent) : Bool :=
  match a.mode with
  | .M | .HS => false
  | .U => a.xcapctl.getLsbD 0
  | .VS | .VU => a.xcapctl.getLsbD 1
/-- R352: whether an entry admits a byte. -/
def capAdmits (c : Cap) (b need : Nat) : Bool :=
  c.len != 0 && decide (c.base ≤ b) && decide (b < c.base + c.len) && Nat.land c.rights need == need
/-- R352: a core's capability entry. -/
def capAt (a : Agent) (i : Nat) : Cap := smGet ⟨0, 0, 0, 0⟩ a.caps i
/-- R352: the first byte of a list that no entry admits. -/
def capFail (a : Agent) (pas : List Nat) (need : Nat) : Option Nat :=
  pas.find? fun b => !(List.range 32).any fun i => capAdmits (capAt a i) b need

/-! ## An access translated and checked -/

/-- A range of virtual addresses cut at the pages of 4 KiB. -/
def pagePieces : Nat → Nat → Nat → List (Nat × Nat)
  | 0, _, _ => []
  | k + 1, va, n =>
    let m := Nat.min n (4096 - va % 4096)
    if n = 0 then [] else (va % 2 ^ 64, m) :: pagePieces k ((va + m) % 2 ^ 64) (n - m)
/-- Addresses by pages. -/
def rangePieces (va n : Nat) : List (Nat × Nat) := pagePieces (n / 4096 + 2) va n

/-- Pointer masking (Ssnpm): an address of U-mode under senvcfg.PMM, or of VS-mode under henvcfg.PMM, has its top 7 or 16 bits
replaced: by the sign where addresses are translated, by zeros where they are not; not under MXR, and not for a fetch. -/
def maskPtr (a : Agent) (acc : CoreAcc) (va : Nat) : Nat :=
  let pmm :=
    if bit acc.need 2 ∨ a.mstatus.getLsbD 19 then 0
    else if acc.level = 0 then bits (csrAt a 0x10A).toNat 33 32
    else if acc.level = 1 ∧ acc.virt then bits (csrAt a 0x60A).toNat 33 32 else 0
  if pmm < 2 then va
  else
    let n := if pmm = 2 then 57 else 48
    if bits (csrAt a (if acc.virt then 0x280 else 0x180)).toNat 63 60 = 0 then va % 2 ^ n else truncI (sext va n) 64

/-- What translating and checking an access of an agent core comes to: its bytes' global physical addresses with what the
walks have read, an exception, or home lines to wait for. -/
inductive AgRes
  | ok (pas : List Nat) (reads : List Loc)
  | trap (e : Exc)
  | wait (homes : List Nat)
  deriving DecidableEq, Repr

/-- A piece of an access: each byte's virtual address and its agent-core physical address; PMP has admitted it. -/
def walkPiece (s : State) (a : Agent) (pnum : Nat) (p : Part) (acc : CoreAcc) (x : Nat × Nat) : Wk (List (Nat × Nat)) :=
  let c : WalkCtx := ⟨s, a, pnum, p, acc, x.1⟩
  (agentWalk c).bind fun r =>
    if pmpOk a acc.level r.1 x.2 acc.need then .pure ((List.range x.2).map fun i => (x.1 + i, r.1 + i)) else .exc c.accessFault
/-- R352: the rights that an access needs of a capability: R for a load, R and W for LR, SC and an AMO. -/
def CoreAcc.capNeed (acc : CoreAcc) : Nat := if acc.kind = .lr then 3 else acc.need
/-- R345, R348, R352: n bytes at va under an access, translated, checked by PMP, the capabilities, and their owner. -/
def agentCheckAs (s : State) (a : Agent) (pnum : Nat) (p : Part) (acc : CoreAcc) (va n : Nat) : AgRes :=
  let cause := (causes acc.need).1
  match Wk.each (walkPiece s a pnum p acc) (rangePieces va n) with
  | .exc e => .trap e
  | .wait hs => .wait hs
  | .ok wss reads =>
    let ws := wss.flatten
    match ws.find? fun e => (agentPa s a e.2).isNone with
    | some e => .trap { cause := cause, tval := e.1, gva := acc.virt, reads := reads }
    | none =>
      let pas := ws.filterMap fun e => (agentPa s a e.2).map fun g => (e.1, g)
      match (if checked a then capFail a (pas.map (·.2)) acc.capNeed else none) with
      | some b => .trap { cause := cause, tval := va, gva := acc.virt, cap := some (word (acc.capNeed * 2 ^ 57 + b)), reads := reads }
      | none =>
        match pas.find? fun e => (controlOffset s pnum e.2).isNone && (targetFault s p pnum e.2 (bit acc.need 0 || bit acc.need 2) (bit acc.need 1)).isSome with
        | some e => .trap { cause := cause, tval := e.1, gva := acc.virt, reads := reads }
        | none => .ok (pas.map (·.2)) reads
/-- The same for the core's own loads and stores, or its fetch. -/
def agentCheck (s : State) (a : Agent) (pnum : Nat) (p : Part) (va n need : Nat) : AgRes :=
  let acc := if bit need 2 then a.mode.acc need else dataAcc a need
  agentCheckAs s a pnum p acc (maskPtr a acc va) n

/-- The core after an access: the leaves that its translation used are held, at most 1,024 (log entry 88). -/
def noteWalk (s : State) (k pnum : Nat) (p : Part) (acc : CoreAcc) (va n : Nat) : State :=
  let a := agentAt s k
  let used := (rangePieces va n).flatMap fun x =>
    match agentWalk ⟨s, a, pnum, p, acc, x.1⟩ with
    | .ok r _ => r.2
    | _ => []
  if used = [] then s else modAgent s k fun a => { a with tlb := ((used ++ a.tlb).eraseDups).take 1024 }

/-- The places of global physical addresses. -/
def memLocs (pas : List Nat) : List Loc := pas.map .mem

end Sys2Proof.Machine
end

