-- ==== Sys2Proof/Machine/Agent.lean ====
section
/-! DEFINITION. Agent cores: the control block (R414, R421), the Xmerf CSRs (R351), loads and stores as an agent core performs
them (R203, R350, R405), and the event AGENT_ACCESS. -/
namespace Sys2Proof.Machine

/-! ## The control block (R414, R421) -/

/-- R414, R421: the dword at an offset of a partition's control block. -/
def controlRead (s : State) (p : Part) (off : Nat) : Word :=
  let ent := p.loss[p.llidx]?
  match off with
  | 0x0000 => p.fpnext
  | 0x0008 => p.evroute.setWidth 64
  | 0x0010 => p.mrbase
  | 0x0018 => word p.mrsize
  | 0x0020 => p.mrhead
  | 0x0028 => word p.mirdrop
  | 0x0030 => p.apnext
  | 0x0038 => word (s.dom.devnum.getD 0)
  | 0x1000 => word p.loss.length
  | 0x1008 => word p.llidx
  | 0x1010 => word (match ent with | some l => 2 ^ 63 + l % 2 ^ 50 * 128 | none => 0)
  | 0x1018 => p.llclr
  | 0x1020 => p.fmta
  | 0x1028 => p.fmtc
  | 0x1030 => word p.cecnt
  | 0x1038 => word p.uecnt
  | 0x1040 => word p.kvhcnt
  | 0x1048 => word p.hlhold
  | 0x1050 => p.hllogb
  | 0x1058 => word p.hllogn
  | 0x1060 => word p.hllogc
  | _ => if 0x8000 ≤ off ∧ off < 0x10000 then word (leNat (smGetList 0 p.ap (off - 0x8000) 8)) else 0

/-- R421, R432: a partition that is not configured, as its control block shows it: every register at its reset value. -/
def absentPart : Part := { st := .configuring, conf := ⟨[], [], [], [], [], [], [], 0, 0, 0, 0, 0, 0, 0, 0, 0, [], []⟩ }
/-- R420, R421, R425, R432: a partition's control block as the host reads it at BAR2 of its function, none before step 6. -/
def functionRead (s : State) (pnum off : Nat) : Option Word :=
  if booted s 6 then some (controlRead s ((partAt s pnum).getD absentPart) off) else none

/-- R372: the bits of EVROUTE that a side writes: SUPc for the agent cores, HOSTc for the host. -/
def routeMask (host : Bool) : BitVec 18 := if host then 0x15555 else 0x2AAAA

/-- R421: a write by the host. -/
def controlByHost (s : State) (pnum off : Nat) (w : Word) : State :=
  modPart s pnum fun p =>
    match off with
    | 0x0008 => { p with evroute := (p.evroute &&& ~~~(routeMask true)) ||| (w.setWidth 18 &&& routeMask true) }
    | 0x0010 => { p with mrbase := w &&& ~~~0xFFF }
    | 0x0018 => { p with mrsize := Nat.min (bits w.toNat 4 0) 8 }
    | 0x0020 => { p with mrhead := w }
    | _ => p

/-- R414, R421: a write by an agent core of the partition, but for the slots and the registers that act. -/
def controlByCore (p : Part) (off : Nat) (w : Word) : Part :=
  let n := w.toNat
  match off with
  | 0x0008 => { p with evroute := (p.evroute &&& ~~~(routeMask false)) ||| (w.setWidth 18 &&& routeMask false) }
  | 0x1008 => { p with llidx := bits n 11 0 }
  | 0x1020 => { p with fmta := word (bits n 56 6 * 64) }
  | 0x1030 => { p with cecnt := bits n 31 0 }
  | 0x1038 => { p with uecnt := bits n 31 0 }
  | 0x1040 => { p with kvhcnt := bits n 31 0 }
  | 0x1048 => { p with hlhold := Nat.min (Nat.max (bits n 9 0) 1) 1000 }
  | 0x1050 => { p with hllogb := word (bits n 56 3 * 8) }
  | 0x1058 => { p with hllogn := bits n 23 0 }
  | 0x1060 => { p with hllogc := bits n 31 0 }
  | _ => p

/-- R414, R421, R424: a dword written by an agent core at an offset of its partition's control block. -/
def coreControl (s : State) (pnum off : Nat) (w : Word) : State :=
  if off = 0x1018 then llclr s pnum w
  else if off = 0x1028 then fmtc s pnum w
  else if 0x8000 ≤ off ∧ off < 0x10000 then
    match partAt s pnum with
    | none => s
    | some p =>
      acceptAllA 65 (setPart s pnum { p with ap := smSetList 0 p.ap (off - 0x8000) (leBytes 8 w.toNat) }) pnum ((off - 0x8000) / 64)
  else modPart s pnum fun p => controlByCore p off w

/-! ## The Xmerf CSRs (R351) -/

/-- R351: a CSR as read by core k. -/
def csrRead (s : State) (k num : Nat) : Word :=
  let a := agentAt s k
  let e := capAt a (bits a.xcapsel.toNat 4 0)
  match num with
  | 0x5C0 => a.xcapctl
  | 0x5C1 => a.xcapsel
  | 0x5C2 => word e.base
  | 0x5C3 => word e.len
  | 0x5C4 => word (e.tag * 2 ^ 16 + e.rights)
  | 0x5C5 => a.xcapfa
  | 0x5C6 => a.xfuten
  | 0x5C7 => a.xfscope
  | 0x5C8 => a.xdomhi
  | 0x5C9 => word (k * 2 ^ 16 + (partOfCore s k).getD 0)
  | _ => 0

/-- R351: the entry that xcapsel shows, changed. -/
def putCap (a : Agent) (f : Cap → Cap) : Agent :=
  let i := bits a.xcapsel.toNat 4 0
  { a with caps := smSet ⟨0, 0, 0, 0⟩ a.caps i (f (capAt a i)) }

/-- R351: a CSR written. -/
def csrWrite (a : Agent) (num : Nat) (w : Word) : Agent :=
  let n := w.toNat
  match num with
  | 0x5C0 => { a with xcapctl := word (bits n 1 0) }
  | 0x5C1 => { a with xcapsel := word (bits n 4 0) }
  | 0x5C2 => putCap a fun c => { c with base := bits n 56 0 }
  | 0x5C3 => putCap a fun c => { c with len := bits n 40 0 }
  | 0x5C4 => putCap a fun c => { c with tag := bits n 31 16, rights := bits n 2 0 }
  | 0x5C5 => { a with xcapfa := word (bits n 59 0) }
  | 0x5C6 => { a with xfuten := word (bits n 4 0 + bits n 7 7 * 128) }
  | 0x5C7 => { a with xfscope := word (if bits n 1 0 = 3 then 0 else bits n 1 0) }
  | 0x5C8 => { a with xdomhi := word (bits n 1 0) }
  | _ => a

/-! ## Accesses (R203, R350) -/

/-- The core's L2 after it has read or written lines of this device (R348, R350): its own lines shared or modified; a line
written leaves every other L2. -/
def noteL2 (s : State) (k : Nat) (pas : List Nat) (wr : Bool) : State :=
  let lines := ((pas.filter fun a => paDev a == s.dom.devnum.getD 0).map (· / 128)).eraseDups
  lines.foldl (fun s l =>
    let s := if wr then { s with agents := s.agents.map fun e => if e.1 = k then e else (e.1, { e.2 with l2 := smDel e.2.l2 l }) } else s
    modAgent s k fun a => { a with l2 := smIns a.l2 l (wr || (smFind a.l2 l).getD false) }) s

/-- R203, R350: an `.sc` event of core k: an access annotated `.aqrl`, or a fence of every pair, at `.dev` scope. -/
def coreAnnounce (s : State) (k : Nat) : State :=
  if (agentAt s k).xfscope == 0 then
    modAgent (announceCore s (1536 + k) none) k fun a => { a with scSeq := a.scSeq + 1 }
  else s
/-- R203: an access that is annotated `.aqrl` is announced. -/
def agentAnnounce (s : State) (k : Nat) (aq rl : Bool) : State := if aq && rl then coreAnnounce s k else s
/-- R182: whether an instruction of core k that is an `.sc` event at `.dev` scope is held until the next window. -/
def coreHeld (s : State) (k : Nat) : Bool := (agentAt s k).xfscope == 0 && !scReady s (1536 + k)
/-- R183: whether an `.sc` event of core k has not taken effect. -/
def coreWaits (s : State) (k : Nat) : Bool := s.scOut.any fun e => e.core == 1536 + k

/-- The instruction of core k, of 32 bits, is done: rd is written and the pc moves on. -/
def coreDone (s : State) (k rd : Nat) (w : Word) : State := modAgent s k fun a => retire (setAgX a rd w) 4

/-- R404, R405: the first byte of an access that lies in a dword of the core's L2 with an uncorrectable error, unless a write
covers that dword. -/
def l2Error (a : Agent) (pas : List Nat) (wr : Bool) : Option Nat :=
  if a.l2Errs = [] then none
  else
    (pas.zipIdx.find? fun e =>
      a.l2Errs.contains (e.1 / 8) && !(wr && (List.range 8).all fun i => pas.contains (e.1 / 8 * 8 + i))).map (·.2)
/-- R405: a write that covers a bad dword of the L2 ends its error. -/
def clearL2Errs (a : Agent) (pas : List Nat) : Agent :=
  if a.l2Errs = [] then a
  else { a with l2Errs := a.l2Errs.filter fun d => !(List.range 8).all fun i => pas.contains (8 * d + i) }

/-- R405: dwords of a core's L2 are read: corrected errors are repaired and counted. -/
def correctL2 (s : State) (k pnum : Nat) (pas : List Nat) : State :=
  let hit := (agentAt s k).l2Fixed.filter fun d => pas.any fun a => a / 8 == d
  if hit = [] then s
  else
    modPart (modAgent s k fun a => { a with l2Fixed := a.l2Fixed.filter fun d => !hit.contains d }) pnum fun p =>
      { p with cecnt := sat32 (p.cecnt + hit.length) }

/-- R421: the dword of the control block that a place lies in. -/
def controlDword (s : State) (pnum a : Nat) : Option Nat := (controlOffset s pnum a).map (· / 8 * 8)
/-- R421: bytes, at the places given, written into a partition's control block by an agent core, dword by dword; places outside
the block are left alone. -/
def controlStore (s : State) (pnum : Nat) (pas : List Nat) (bs : List Byte) : State :=
  ((pas.filterMap (controlDword s pnum)).eraseDups).foldl (fun s off =>
    match partAt s pnum with
    | none => s
    | some p =>
      let old := leBytes 8 (controlRead s p off).toNat
      let new := (pas.zip bs).foldl (fun w e =>
        match controlOffset s pnum e.1 with
        | some o => if off ≤ o ∧ o < off + 8 then w.set (o - off) e.2 else w
        | none => w) old
      coreControl { s with agents := endResv s.agents (localPa s (0x40000010000 + pnum * 0x10000 + off) / 128) } pnum off (word (leNat new))) s

/-- What an access of core k has found: its partition, and its places, in memory or in the partition's control block. -/
structure Found where
  pnum : Nat
  p : Part
  pas : List Nat
/-- Those of a partition's places that lie in memory. -/
def memoryOf (s : State) (pnum : Nat) (pas : List Nat) : List Nat := pas.filter fun a => (controlOffset s pnum a).isNone
/-- Those of an access. -/
def Found.mem (x : Found) (s : State) : List Nat := memoryOf s x.pnum x.pas

/-- What core k waits for. -/
def coreKey (k : Nat) : Nat := 80000 + k
/-- R405: the first byte, of places in memory or in the control block, that lies in a word of memory or of the core's L2 with an
uncorrectable error. -/
def coreError (s : State) (k pnum : Nat) (pas : List Nat) (blind : Bool) : Option Nat :=
  match ((locError s (memLocs (memoryOf s pnum pas)) blind).map (·.1)).or (l2Error (agentAt s k) (memoryOf s pnum pas) blind) with
  | some i => some (pas.idxOf ((memoryOf s pnum pas).getD i 0))
  | none => none
/-- R194, R404: the home lines that an access of core k waits for. -/
def coreHolds (s : State) (k pnum : Nat) (pas : List Nat) (wr : Bool) : List Nat :=
  ((memoryOf s pnum pas).map (· / 128)).eraseDups.filter fun l => lineConflict s (fun _ _ => false) l wr || l2Bad s (some k) l
/-- R345, R348, R352, R405: an access of core k to n bytes at va: an exception; its effect, at the home, when no lease stands
against it; or a wait. `blind` says that it writes the bytes without reading them. R333 excludes the host and other devices from
the counts of requests, and a count is kept by ASID, which a physical access does not name: an access of a core counts nowhere
(DEDUCED, log entry 95). -/
def coreMem (s : State) (k : Nat) (acc : CoreAcc) (va n : Nat) (blind : Bool) (f : State → Found → State) : State :=
  match (partOfCore s k).bind fun pnum => (partAt s pnum).map fun p => (pnum, p) with
  | none => s
  | some (pnum, p) =>
    let a := agentAt s k
    let va := maskPtr a acc va
    match agentCheckAs s a pnum p acc va n with
    | .trap e => coreTrap s k e
    | .wait hs => setWants s (coreKey k) hs
    | .ok pas walked =>
      match coreHolds s k pnum pas (bit acc.need 1) with
      | h :: hs =>
        let s := setWants s (coreKey k) (h :: hs)
        if acc.kind = .amo ∧ farHere s (128 * h) then farQueue s k h else s
      | [] =>
        match coreError s k pnum pas blind with
        | some i => coreTrap s k { cause := (causes acc.need).1, tval := byteVa va i, gva := acc.virt, reads := walked ++ memLocs (memoryOf s pnum (pas.take i)) }
        | none =>
          let s := noteWalk (setWants s (coreKey k) []) k pnum p acc va n
          f (correctL2 (correct s (walked ++ memLocs (memoryOf s pnum pas))) k pnum pas) ⟨pnum, p, pas⟩

/-- A byte that an access of core k reads. -/
def coreByte (s : State) (x : Found) (a : Nat) : Byte :=
  match controlOffset s x.pnum a with
  | some off => (leBytes 8 (controlRead s x.p (off / 8 * 8)).toNat).getD (off % 8) 0
  | none => memByte s a
/-- The bytes that an access of core k reads. -/
def coreBytes (s : State) (x : Found) : List Byte := x.pas.map (coreByte s x)
/-- R418: what lines of host memory hold before a store makes them dirty in the core's L2. -/
def keepOld (s : State) (k : Nat) (pas : List Nat) : State :=
  let lines := ((pas.filter fun a => paDev a == s.dom.devnum.getD 0 && isHost (paLocal a)).map (· / 128)).eraseDups.filter fun l =>
    smFind (agentAt s k).l2 l != some true
  if lines = [] then s
  else modAgent s k fun a => { a with l2Old := lines.foldl (fun m l => smIns m l (memBytes s (128 * l) 128)) a.l2Old }
/-- The bytes of an access of core k stored; its own reservation, which only SC ends, stays. -/
def coreStore (s : State) (k : Nat) (x : Found) (bs : List Byte) : State :=
  let resv := (agentAt s k).resv
  let kept := (x.pas.zip bs).filter fun e => (controlOffset s x.pnum e.1).isNone
  let s := controlStore s x.pnum x.pas bs
  let s := keepOld s k (kept.map (·.1))
  let s := modAgent (storeLocs s (memLocs (kept.map (·.1))) (kept.map (·.2))) k fun a =>
    { clearL2Errs a (kept.map (·.1)) with resv := resv }
  noteL2 s k (kept.map (·.1)) true

/-- An aligned load, its value put to use. -/
def coreLoad (s : State) (k va n : Nat) (f : State → Nat → State) : State :=
  coreMem s k (dataAcc (agentAt s k) 1) va n false fun s x => f (noteL2 s k (x.mem s) false) (leNat (coreBytes s x))
/-- A store, with what follows it. -/
def coreSave (s : State) (k va n v : Nat) (f : State → State) : State :=
  coreMem s k (dataAcc (agentAt s k) 2) va n true fun s x => f (coreStore s k x (leBytes n v))

/-- An atomic operation at the places found. -/
def coreAmoDo (s : State) (k n : Nat) (op : AmoOp) (x y : Nat) (z : Found) (f : State → Nat → State) : State :=
  let old := leNat (coreBytes s z)
  match amoNew op (8 * n) old x y with
  | some new => f (coreStore s k z (leBytes n new)) old
  | none => f (noteL2 s k (z.mem s) false) old
/-- An atomic operation, aligned; `f` gets the old value. At a home slice it is served in its turn (R192). R193, R350, R420: the
host port has no operation but add, swap and compare-and-swap, so any other on host memory raises the access fault (DEDUCED, log
entry 96). -/
def coreAmo (s : State) (k va n : Nat) (op : AmoOp) (x y : Nat) (f : State → Nat → State) : State :=
  let acc := { dataAcc (agentAt s k) 3 with kind := .amo }
  if va % n ≠ 0 then coreTrap s k { cause := 6, tval := va, gva := acc.virt }
  else
    coreMem s k acc va n false fun s z =>
      if amoHostRefused op 5 (memLocs (z.mem s)) then coreTrap s k { cause := 7, tval := va, gva := acc.virt }
      else
        match (z.mem s).find? (farHere s) with
        | some a =>
          if farTurn s (lineSlice (a / 128)) (farCore k) then coreAmoDo (farServed s (lineSlice (a / 128)) (farCore k)) k n op x y z f
          else farQueue s k (a / 128)
        | none => coreAmoDo s k n op x y z f
/-- A load-reserve: the reservation is of the line and of the size. -/
def coreLr (s : State) (k va n : Nat) (f : State → Nat → State) : State :=
  let acc := { dataAcc (agentAt s k) 1 with kind := .lr }
  if va % n ≠ 0 then coreTrap s k { cause := 4, tval := va, gva := acc.virt }
  else
    coreMem s k acc va n false fun s z =>
      f (modAgent (noteL2 s k (z.mem s) false) k fun a => { a with resv := some (z.pas.headD 0 / 128, n) }) (leNat (coreBytes s z))
/-- A store-conditional: it stores when the reservation holds, and ends it; `f` gets 0, or 1 when it fails. -/
def coreSc (s : State) (k va n v : Nat) (f : State → Nat → State) : State :=
  if va % n ≠ 0 then coreTrap s k { cause := 6, tval := va, gva := (dataAcc (agentAt s k) 3).virt }
  else
    coreMem s k (dataAcc (agentAt s k) 3) va n true fun s z =>
      let ok := (agentAt s k).resv == some (z.pas.headD 0 / 128, n)
      let s := modAgent s k fun a => { a with resv := none }
      if ok then f (coreStore s k z (leBytes n v)) 0 else f s 1

/-- R202: core k holds the lines that a fetch has read. -/
def noteCode (s : State) (k : Nat) (pas : List Nat) : State :=
  modAgent s k fun a =>
    { a with icode := ((pas.map (· / 128)).eraseDups).foldl (fun m l => smIns m l (memBytes s (128 * l) 128)) a.icode }

/-- R345, R352, R405: an access of agent core k: an exception, or its effect; one that a lease holds up waits, and none issues
while an `.sc` event of the core has not taken effect (R183) or the access itself waits for the next window (R182). -/
def agentAccess (s : State) (k : Nat) (acc : AgentAcc) : State :=
  if coreWaits s k || (acc.aq && acc.rl && coreHeld s k) then s
  else
  let s := farGone s k
  let va := acc.va.toNat
  let x := leNat (acc.data.take acc.len)
  let done (s : State) (v : Nat) : State := agentAnnounce (coreDone s k acc.rd (word v)) k acc.aq acc.rl
  match acc.kind with
  | .load => coreLoad s k va acc.len done
  | .store => coreSave s k va acc.len x fun s => agentAnnounce (coreDone s k 0 0) k acc.aq acc.rl
  | .amo op =>
    coreAmo s k va acc.len op x (leNat ((acc.data.drop acc.len).take acc.len)) fun s old => done s (amoResult op acc.len old).toNat
  | .lr => coreLr s k va acc.len done
  | .sc => coreSc s k va acc.len x done
  | .fetch => coreMem s k ((agentAt s k).mode.acc 4) va acc.len false fun s x => noteCode s k (x.mem s)

/-- AGENT_ACCESS. -/
def execAgentAccess (k : Nat) (acc : AgentAcc) (s : State) : Host.Outcome State Fault Refusal :=
  needUnit s k (.next (agentAccess s k acc))

/-- R404, R406: lines of a core's L2 with a bad dword that another agent waits for, or that have left the L2: a modified one is
written back, and so enters the loss list; the others are dropped. -/
def settleL2 (s : State) : State :=
  s.agents.foldl (fun s e =>
    ((e.2.l2Errs.map (· / 16)).eraseDups).foldl (fun s l =>
      if requestWaits s l || (smFind e.2.l2 l).isNone then
        let s := modAgent s e.1 fun a => { a with l2 := smDel a.l2 l, l2Errs := a.l2Errs.filter fun d => d / 16 != l }
        if smFind e.2.l2 l = some true then (match partOfCore s e.1 with | some pnum => addLoss s pnum l | none => s) else s
      else s) s) s

/-- What follows a step in which core k acted or none did: a line written by another agent leaves a core's L2, and ends a
reservation on it. -/
def settleAgents (old s : State) (who : Option Nat) : State :=
  if s.agents.all fun e => e.2.l2.isEmpty && e.2.resv.isNone then s
  else
    let changed (l : Nat) : Bool := memBytes old (128 * l) 128 != memBytes s (128 * l) 128
    { s with agents := s.agents.map fun e =>
        if who = some e.1 then e
        else (e.1, { e.2 with l2 := e.2.l2.filter fun x => !changed x.1
                              resv := e.2.resv.filter fun r => !changed r.1 }) }

end Sys2Proof.Machine
end

