-- ==== Sys2Proof/Machine/Fetch.lean ====
section
/-! DEFINITION. Fetching a bundle (R26 to R31, R61, R63 steps 1 to 4): parcels, pads, the fetch buffer (R28, R199), the publish
bits a fetch meets (R198), the service store (R379), and the event FETCH_COMPLETE. -/
namespace Sys2Proof.Machine

/-! ## Fetch lines -/

/-- R29, R198, R405: the fetch of the aligned 64-byte line at va for a context: its bytes, or the fault that it meets. A line that
leads to no memory of the partition reports its own address (DESIGN CHOICE, log entry 46). -/
def fetchLine (s : State) (n va : Nat) : FetchLine :=
  let bad (code addr info : Nat) : FetchLine := ⟨va, [], some (code, addr, info), false, []⟩
  let pnum := partOfCtx s n
  match partAt s pnum with
  | none => bad 0x11 (va / 4096 * 4096) (walkInfo 1 4 false).toNat
  | some p =>
    match lookup s p (ctxOf s n).asid.toNat va .fetch with
    | .page r lvl _ => bad 0x11 (va / 4096 * 4096) (walkInfo r lvl false).toNat
    | .perm r lvl => bad 0x11 (va / 4096 * 4096) (walkInfo r lvl false).toNat
    | .other f => bad f.code va f.info.toNat
    | .leaf e lvl _ =>
      let pa := leafPa e lvl va
      match targetFault s p pnum pa true false with
      | some (code, info) => bad code va info
      | none =>
        ⟨va, memBytes s pa 64, none, !smGet false s.pub (pa / 128),
          (List.range 8).filterMap fun i => (wordError s (pa + 8 * i)).map fun f => (i, f)⟩

/-- R28: the line of an address. -/
def fetchBase (a : Nat) : Nat := a / 64 * 64

/-- R333: a fetch fill counts in its page's cache entry. -/
def noteFetch (s : State) (n va : Nat) : State :=
  match partAt s (partOfCtx s n) with
  | some p => noteRange s p (ctxOf s n).asid.toNat .fetch (dieOf n) (isSealed s n) [va]
  | none => s

/-- R405: the corrected errors of a line fetched are repaired and counted. -/
def correctFetch (s : State) (n va : Nat) : State :=
  match partAt s (partOfCtx s n) with
  | none => s
  | some p =>
    match lookup s p (ctxOf s n).asid.toNat va .fetch with
    | .leaf e lvl _ => correctAt s (leafPa e lvl va)
    | _ => correctWalk s p (ctxOf s n).asid.toNat va

/-- R194, R195, R319: an instruction cache holds a home line under its page's lease class, or under 1 µs when that is longer. -/
def cacheLine (s : State) (pnum asid va pa lcl : Nat) : State :=
  let i : ILine := ⟨pa / 128, pnum, asid, va / 128, s.time + Nat.max 1000 (leaseNs lcl), s.freeCount, s.time⟩
  { s with ilines := i :: s.ilines.filter fun e => !(e.home == i.home && e.part == pnum && e.asid == asid && e.vline == i.vline) }
/-- R195: where a fetch of a context reads, if its walk and its target admit it: the global physical address and the lease class. -/
def fetchPlace (s : State) (n va : Nat) : Option (Nat × Nat) :=
  match partAt s (partOfCtx s n) with
  | none => none
  | some p =>
    match lookup s p (ctxOf s n).asid.toNat va .fetch with
    | .leaf e lvl _ =>
      if (targetFault s p (partOfCtx s n) (leafPa e lvl va) true false).isSome then none else some (leafPa e lvl va, bits e 8 7)
    | _ => none
/-- R195: the instruction cache takes the line that a fetch reads; a line of another device is not cached (R205). -/
def fetchLease (s : State) (n va : Nat) : State :=
  match fetchPlace s n va with
  | some (pa, lcl) =>
    if paDev pa = s.dom.devnum.getD 0 then cacheLine s (partOfCtx s n) (ctxOf s n).asid.toNat va pa lcl else s
  | none => s
/-- A context's fetch as a requester of home lines (R218). -/
def fetchKey (n : Nat) : Nat := 30000 + n
/-- R194, R195: the home line whose write lease a fetch of a context waits for. -/
def fetchWaits (s : State) (n va : Nat) : List Nat :=
  match fetchPlace s n va with
  | some (pa, _) => if homeConflict s (pa / 128) false then [pa / 128] else []
  | none => []

/-- R28, R199: a line enters the fetch buffer, which keeps the two latest. -/
def fillLine (s : State) (n va : Nat) : State :=
  let l := fetchLine s n va
  modCtx { fetchLease (noteFetch (correctFetch s n va) n va) n va with freeCount := s.freeCount + 1 } n fun c =>
    { c with fbuf := (c.fbuf.filter fun x => x.va != va).reverse.take 1 ++ [l] }

/-! ## Reading parcels from the fetch buffer -/

/-- What fetching a bundle comes to: the bundle, the line to wait for, or the fault with the bundle's address. -/
inductive Fetched
  | bundle (b : Bundle)
  | wait (pc line : Nat)
  | fault (pc : Nat) (f : FaultInfo)
  deriving DecidableEq, Repr

/-- A line of the fetch buffer. -/
def bufLine (c : Ctx) (va : Nat) : Option FetchLine := c.fbuf.find? fun l => l.va == va

/-- The lines that n bytes at pc touch, n at most 64. -/
def linesOf (pc n : Nat) : List Nat := [fetchBase pc, fetchBase (pc + n - 1)].eraseDups

/-- n bytes at pc from the buffer: they go on, or a line is awaited, or the page's fault is met. -/
def bufBytes (c : Ctx) (pc n : Nat) (k : List Byte → Fetched) : Fetched :=
  match canonFault pc n with
  | some f => .fault pc f
  | none =>
    match (linesOf pc n).find? fun a => (bufLine c a).isNone with
    | some a => .wait pc a
    | none =>
      let ls := (linesOf pc n).filterMap (bufLine c)
      match ls.findSome? (·.fault) with
      | some (code, addr, info) => .fault pc ⟨code, word addr, word info, none, []⟩
      | none => k (((ls.flatMap (·.bytes)).drop (pc % 64)).take n)

/-- R29, R405: what the lines of a whole bundle meet: a clear publish bit, then a bad word. -/
def lineFault (c : Ctx) (pc n : Nat) : Option FaultInfo :=
  let ls := (linesOf pc n).filterMap (bufLine c)
  match ls.find? (·.unpub) with
  | some l => some ⟨0x12, word (l.va / 128 * 128), 0, none, []⟩
  | none =>
    ls.findSome? fun l => l.bad.findSome? fun e =>
      let a := l.va + 8 * e.1
      if a < pc + n ∧ pc < a + 8 then some ⟨0x30, word a, word e.2, none, []⟩ else none

/-- R26: F_DICT for a parcel. -/
def dictFault (v : Nat) : FaultInfo := ⟨0x0B, 0, word v, none, []⟩

/-- R26, R33: the bundle of a dictionary parcel. -/
def dictFetched (t : Tile) (pc v : Nat) : Fetched :=
  if v < 0x1000 ∧ v < t.dsize then .bundle (dictBundle (word pc) v (smGet [] t.dict v)) else .fault pc (dictFault v)

/-- R29, R63: a bundle of n bytes at pc, its lines checked. -/
def checkedBundle (c : Ctx) (pc n : Nat) (k : Fetched) : Fetched :=
  match lineFault c pc n with
  | some f => .fault pc f
  | none => k

/-- R26 to R31: the bundle at pc. A pad parcel is passed over, a buffer of two lines at a time; that its line's publish bit is clear
raises nothing, since R29 has F_UNPUB for the lines of a bundle (DEDUCED, log entry 99). -/
def fetchFrom (t : Tile) (c : Ctx) : Nat → Nat → Fetched
  | 0, pc => .wait pc (fetchBase pc)
  | k + 1, pc =>
    bufBytes c pc 2 fun bs =>
      let v := leNat bs
      if v = 0xFFFE then fetchFrom t c k (byteVa pc 2)
      else if v ≠ 0xFFFF then checkedBundle c pc 2 (dictFetched t pc v)
      else
        bufBytes c pc 4 fun bs =>
          let n := literalLen (BitVec.ofNat 16 (leNat (bs.drop 2)))
          bufBytes c pc n fun bs => checkedBundle c pc n (.bundle (literalBundle (word pc) bs))

/-- R379: the bundle at an offset of the service store. -/
def fetchService (t : Tile) : Nat → Nat → Fetched
  | 0, pc => .wait pc 0
  | k + 1, pc =>
    let out : Fetched := .fault pc ⟨0x11, word (Nat.max pc 0x10000 / 4096 * 4096), 0, none, []⟩
    let get (n : Nat) : List Byte := smGetList 0 t.svc pc n
    if 0x10000 < pc + 2 then out
    else
      let v := leNat (get 2)
      if v = 0xFFFE then fetchService t k (pc + 2)
      else if v ≠ 0xFFFF then .fault pc (dictFault v)
      else if 0x10000 < pc + 4 then out
      else
        let n := literalLen (BitVec.ofNat 16 (leNat ((get 4).drop 2)))
        if 0x10000 < pc + n then out else .bundle (literalBundle (word pc) (get n))

/-- R28, R61: the next bundle of a context; bit 0 of its address is ignored. -/
def fetchBundle (s : State) (n : Nat) : Fetched :=
  let c := ctxOf s n
  let t := tileAt s (tileOf n)
  let pc := (codeTarget c.pc).toNat
  if c.svc then fetchService t 0x8001 pc else fetchFrom t c 65 pc

/-- R27: what fetch has passed over stays behind: the bundle's address is that of the parcel reached. -/
def Fetched.pc : Fetched → Nat
  | .bundle b => b.addr.toNat
  | .wait pc _ => pc
  | .fault pc _ => pc

/-- R194: one line of a context's fetch arrives, unless its home line waits for another's lease. -/
def fetchOne (s : State) (n a : Nat) : Bool × State :=
  match fetchWaits s n a with
  | [] => (true, fillLine (setWants s (fetchKey n) []) n a)
  | hs => (false, setWants s (fetchKey n) hs)

/-- FETCH_COMPLETE: the lines that the context's next bundle waits for arrive, one after the other; a second line may
arrive with the first. -/
def execFetchComplete (n : Nat) (s : State) : Host.Outcome State Fault Refusal :=
  .next <|
    if (ctxOf s n).fetching then
      match fetchBundle s n with
      | .wait pc a =>
        let first := fetchOne s n a
        let s := modCtx first.2 n fun c => { c with pc := word pc }
        if !first.1 then s
        else
          let more := Config.freeBit s.freeCount
          let s := { s with freeCount := s.freeCount + 1 }
          match fetchBundle s n with
          | .wait pc a => modCtx (if more then (fetchOne s n a).2 else s) n fun c => { c with pc := word pc, fetching := false }
          | f => modCtx s n fun c => { c with pc := word f.pc, fetching := false }
      | f => modCtx s n fun c => { c with pc := word f.pc, fetching := false }
    else s

end Sys2Proof.Machine
end

