-- ==== Sys2Proof/Machine/Csr.lean ====
section
/-! DEFINITION. The CSRs of an agent core as instructions read and write them (R348, R351; PRESUMED beyond R351: log entry 8),
the indirect registers of its interrupt files, the CSR instructions, and the event REGISTER_WRITE. -/
namespace Sys2Proof.Machine

/-! ## The interrupt files behind mireg and sireg (Smaia, Ssaia) -/

/-- Bits of a rising list of identities as the dword for 64 j and above. -/
def idsWord (ids : List Nat) (j : Nat) : Word := word ((ids.filter fun i => i / 64 == j).foldl (fun n i => n + 2 ^ (i % 64)) 0)
/-- The list with that dword's identities replaced; an interrupt file holds 1 to 255. -/
def putIds (ids : List Nat) (j : Nat) (w : Word) : List Nat :=
  (List.range 256).filter fun i => i != 0 && (if i / 64 = j then w.getLsbD (i % 64) else ids.contains i)
/-- An indirect register of an interrupt file. -/
def IntFile.get (f : IntFile) (sel : Nat) : Word :=
  if sel = 0x70 then word f.delivery else if sel = 0x72 then word f.threshold
  else if 0x80 ≤ sel ∧ sel < 0xC0 then idsWord f.pending ((sel - 0x80) / 2)
  else if 0xC0 ≤ sel ∧ sel < 0x100 then idsWord f.enabled ((sel - 0xC0) / 2) else 0
def IntFile.put (f : IntFile) (sel : Nat) (w : Word) : IntFile :=
  if sel = 0x70 then { f with delivery := w.toNat % 2 } else if sel = 0x72 then { f with threshold := w.toNat % 256 }
  else if 0x80 ≤ sel ∧ sel < 0xC0 then { f with pending := putIds f.pending ((sel - 0x80) / 2) w }
  else if 0xC0 ≤ sel ∧ sel < 0x100 then { f with enabled := putIds f.enabled ((sel - 0xC0) / 2) w } else f
/-- mtopei and stopei: the top identity, in both halves. -/
def IntFile.topei (f : IntFile) : Word := match f.top with | some i => word (i * 2 ^ 16 + i) | none => 0
/-- A write of mtopei or stopei claims the top identity. -/
def IntFile.claim (f : IntFile) : IntFile := match f.top with | some i => { f with pending := f.pending.erase i } | none => f
/-- Whether an indirect register exists: the priorities, which read 0, and the interrupt file; odd numbers of 64-bit registers
do not. -/
def selectOk (sel : Nat) : Bool :=
  (decide (0x30 ≤ sel) && decide (sel < 0x40) && sel % 2 == 0) ||
  (decide (0x70 ≤ sel) && decide (sel < 0x100) && (decide (sel < 0x80) || sel % 2 == 0))

/-! ## Reading -/

/-- The writable bits of mstatus, and those that sstatus and vsstatus show. -/
def mstatusMask : Word := 0xC0007E7FAA
def sstatusMask : Word := 0xC6722
/-- mstatus as read: UXL and SXL are 2, SD sums up FS and VS. -/
def statusRead (w : Word) (base : Word) : Word :=
  let dirty := bits w.toNat 14 13 == 3 || bits w.toNat 10 9 == 3
  w ||| base ||| (if dirty then 0x8000000000000000 else 0)

/-- A CSR as its field or its entry holds it. -/
def csrStored (a : Agent) (n : Nat) : Word :=
  match n with
  | 0x300 => a.mstatus | 0x302 => a.medeleg | 0x305 => a.mtvec | 0x341 => a.mepc | 0x342 => a.mcause | 0x343 => a.mtval
  | 0x105 => a.stvec | 0x141 => a.sepc | 0x142 => a.scause | 0x143 => a.stval
  | 0x200 => a.vsstatus | 0x205 => a.vstvec | 0x241 => a.vsepc | 0x242 => a.vscause | 0x243 => a.vstval
  | 0x600 => a.hstatus | 0x602 => a.hedeleg
  | _ => csrAt a n
def csrStore (a : Agent) (n : Nat) (w : Word) : Agent :=
  match n with
  | 0x300 => { a with mstatus := w } | 0x302 => { a with medeleg := w } | 0x305 => { a with mtvec := w }
  | 0x341 => { a with mepc := w } | 0x342 => { a with mcause := w } | 0x343 => { a with mtval := w }
  | 0x105 => { a with stvec := w } | 0x141 => { a with sepc := w } | 0x142 => { a with scause := w } | 0x143 => { a with stval := w }
  | 0x200 => { a with vsstatus := w } | 0x205 => { a with vstvec := w } | 0x241 => { a with vsepc := w }
  | 0x242 => { a with vscause := w } | 0x243 => { a with vstval := w }
  | 0x600 => { a with hstatus := w } | 0x602 => { a with hedeleg := w }
  | _ => setCsr a n w

/-- The cycles of a core at 3.2 GHz (R15). -/
def hartCycles (s : State) : Nat := s.time * 16 / 5

/-- R351, R348: a CSR as core k reads it. -/
def csrGet (s : State) (k n : Nat) : Word :=
  let a := agentAt s k
  let v := csrStored a n
  match n with
  | 0x001 => word (bits (csrAt a 3).toNat 4 0)
  | 0x002 => word (bits (csrAt a 3).toNat 7 5)
  | 0x00F => word ((csrAt a 0xA).toNat * 2 + (csrAt a 9).toNat)
  | 0xC22 => 64
  | 0xB00 | 0xC00 => csrAt a 0xB00 + word (hartCycles s)
  | 0xB02 | 0xC02 => csrAt a 0xB02
  | 0xC01 => word (if a.mode.virt then guestTime s a else hartTime s)
  | 0x300 => statusRead v 0xA00000000
  | 0x100 => statusRead (a.mstatus &&& sstatusMask) 0x200000000
  | 0x200 => statusRead v 0x200000000
  | 0x600 => v ||| 0x200000000
  | 0x301 => 0x80000000003411AF
  | 0x303 => midelegOf a
  | 0x344 => mipOf s a
  | 0x104 => csrAt a 0x304 &&& midelegOf a &&& 0x2222
  | 0x144 => mipOf s a &&& midelegOf a &&& 0x2222
  | 0x604 => csrAt a 0x304 &&& 0x1444
  | 0x644 => mipOf s a &&& 0x1444
  | 0x204 => vsBits (csrAt a 0x304 &&& csrAt a 0x603)
  | 0x244 => vsBits (mipOf s a &&& csrAt a 0x603)
  | 0x309 => csrAt a 0x344 &&& 0x222
  | 0xFB0 => topi (irqM s a)
  | 0xDB0 => topi (irqS s a)
  | 0xEB0 => vstopi s a
  | 0x35C => a.mfile.topei
  | 0x15C => a.sfile.topei
  | 0x351 => a.mfile.get (csrAt a 0x350).toNat
  | 0x151 => a.sfile.get (csrAt a 0x150).toNat
  | 0xF14 => word k
  | 0x5C0 | 0x5C1 | 0x5C2 | 0x5C3 | 0x5C4 | 0x5C5 | 0x5C6 | 0x5C7 | 0x5C8 | 0x5C9 => csrRead s k n
  | _ => v

/-! ## Writing -/

/-- The writable bits of the CSRs that keep what is written to them. -/
def csrMask (n : Nat) : Word :=
  match n with
  | 0x003 => 0xFF | 0x008 => 0x1FF | 0x009 => 1 | 0x00A => 3
  | 0x105 | 0x205 | 0x305 => ~~~2
  | 0x141 | 0x241 | 0x341 => ~~~1
  | 0x302 => 0xF0B7FF | 0x602 => 0xB1FF
  | 0x303 => 0x2222 | 0x603 => 0x2444 | 0x304 => 0x3E66
  | 0x106 | 0x306 | 0x606 => 0xFFFFFFFF
  | 0x10A => 0x3000000F1 | 0x60A => 0xC0000003000000F1 | 0x30A => 0xC0000000000000F1
  | 0x30C | 0x60C => 0xDC00000000000000
  | 0x30D | 0x30E | 0x30F | 0x60D | 0x60E | 0x60F => 0x8000000000000000
  | 0x150 | 0x250 | 0x350 => 0xFFF
  | 0x200 => sstatusMask | 0x300 => mstatusMask | 0x600 => 0x30000007003C0
  | 0x609 => 0x4FFF03FF | 0x645 => 0x444
  | 0x140 | 0x240 | 0x340 | 0x142 | 0x242 | 0x342 | 0x143 | 0x243 | 0x343 | 0x14D | 0x24D | 0x605 | 0x643 | 0x64A | 0x34A | 0x34B => ~~~0
  | _ => 0

/-- satp, vsatp and hgatp: a mode that does not exist leaves the register as it was. -/
def atpWrite (old w mask : Word) : Word := if [0, 8, 9, 10].contains (bits w.toNat 63 60) then w &&& mask else old
/-- A PMP entry's configuration byte. -/
def pmpCfg (a : Agent) (i : Nat) : Nat := (csrAt a (0x3A0 + 2 * (i / 8))).toNat / 2 ^ (8 * (i % 8)) % 256
/-- pmpcfg0 or pmpcfg2: a locked entry keeps its byte; a byte with W and not R keeps the old one. -/
def pmpcfgWrite (a : Agent) (n : Nat) (w : Word) : Word :=
  word ((List.range 8).foldl (fun x i =>
    let old := pmpCfg a (4 * (n - 0x3A0) + i)
    let new := w.toNat / 2 ^ (8 * i) % 256
    x + (if bit old 7 ∨ (bit new 1 ∧ !bit new 0) then old else Nat.land new 0x9F) * 2 ^ (8 * i)) 0)
/-- A PMP address is locked with its entry, and with the next entry when that is a top of range. -/
def pmpLocked (a : Agent) (i : Nat) : Bool :=
  bit (pmpCfg a i) 7 || (decide (i < 15) && bit (pmpCfg a (i + 1)) 7 && bits (pmpCfg a (i + 1)) 4 3 == 1)

/-- R351, R348: a CSR written, by a core; reserved bits and read-only fields keep their values. -/
def csrPut (a : Agent) (s : State) (n : Nat) (w : Word) : Agent :=
  let into (m : Nat) (new mask : Word) : Agent := setCsr a m (maskIn (csrAt a m) new mask)
  let fdirty (a : Agent) : Agent := { a with mstatus := setField a.mstatus 14 13 3, vsstatus := if a.mode.virt then setField a.vsstatus 14 13 3 else a.vsstatus }
  let vdirty (a : Agent) : Agent := { a with mstatus := setField a.mstatus 10 9 3, vsstatus := if a.mode.virt then setField a.vsstatus 10 9 3 else a.vsstatus }
  match n with
  | 0x001 => fdirty (into 3 w 0x1F)
  | 0x002 => fdirty (into 3 (w <<< 5) 0xE0)
  | 0x003 => fdirty (into 3 w 0xFF)
  | 0x008 | 0x009 | 0x00A => vdirty (into n w (csrMask n))
  | 0x00F => vdirty (setCsr (setCsr a 9 (w &&& 1)) 0xA ((w >>> 1) &&& 3))
  | 0x100 => { a with mstatus := maskIn a.mstatus w sstatusMask }
  | 0x300 => { a with mstatus := maskIn a.mstatus w (if bits w.toNat 12 11 = 2 then mstatusMask &&& ~~~0x1800 else mstatusMask) }
  | 0x104 => into 0x304 w (midelegOf a &&& 0x2222)
  | 0x144 => into 0x344 w (midelegOf a &&& 0x2002)
  | 0x604 => into 0x304 w 0x1444
  | 0x644 => into 0x645 w 4
  | 0x204 => into 0x304 (bitsWord [(2, w.getLsbD 1), (6, w.getLsbD 5), (10, w.getLsbD 9), (13, w.getLsbD 13)]) (csrAt a 0x603)
  | 0x244 => into 0x645 (w <<< 1) (csrAt a 0x603 &&& 4)
  | 0x344 => setCsr (into 0x344 w (if csrBit a 0x30A 63 then 0x2202 else 0x2222)) 0x645 (maskIn (csrAt a 0x645) w 4)
  | 0x309 => into 0x344 w (if csrBit a 0x30A 63 then 0x202 else 0x222)
  | 0x180 | 0x280 => setCsr a n (atpWrite (csrAt a n) w (~~~0))
  | 0x680 => setCsr a n (atpWrite (csrAt a n) w 0xF3FFFFFFFFFFFFFC)
  | 0x3A0 | 0x3A2 => setCsr a n (pmpcfgWrite a n w)
  | 0xB00 => setCsr a n (w - word (hartCycles s))
  | 0xB02 => setCsr a n w
  | 0x35C => { a with mfile := a.mfile.claim }
  | 0x15C => { a with sfile := a.sfile.claim }
  | 0x351 => { a with mfile := a.mfile.put (csrAt a 0x350).toNat w }
  | 0x151 => { a with sfile := a.sfile.put (csrAt a 0x150).toNat w }
  | 0x5C0 | 0x5C1 | 0x5C2 | 0x5C3 | 0x5C4 | 0x5C5 | 0x5C6 | 0x5C7 | 0x5C8 => csrWrite a n w
  | _ =>
    if 0x3B0 ≤ n ∧ n < 0x3C0 then (if pmpLocked a (n - 0x3B0) then a else setCsr a n (w &&& 0x3FFFFFFFFFFFFF))
    else csrStore a n (maskIn (csrStored a n) w (csrMask n))

/-! ## Who may reach a CSR -/

/-- The CSR that a number names with V = 1. -/
def csrFor (virt : Bool) (n : Nat) : Nat :=
  if virt && [0x100, 0x104, 0x105, 0x140, 0x141, 0x142, 0x143, 0x144, 0x14D, 0x150, 0x151, 0x15C, 0x180, 0xDB0].contains n then n + 0x100
  else n
/-- The CSRs that exist. -/
def csrExists (n : Nat) : Bool :=
  [0x001, 0x002, 0x003, 0x008, 0x009, 0x00A, 0x00F, 0xC20, 0xC21, 0xC22, 0x100, 0x104, 0x105, 0x106, 0x10A, 0x10C, 0x10D, 0x10E, 0x10F,
   0x140, 0x141, 0x142, 0x143, 0x144, 0x14D, 0x150, 0x151, 0x15C, 0x180, 0xDA0, 0xDB0, 0x600, 0x602, 0x603, 0x604, 0x605, 0x606, 0x607,
   0x608, 0x609, 0x60A, 0x60C, 0x60D, 0x60E, 0x60F, 0x643, 0x644, 0x645, 0x646, 0x647, 0x64A, 0x680, 0xE12, 0x200, 0x204, 0x205, 0x240,
   0x241, 0x242, 0x243, 0x244, 0x24D, 0x250, 0x251, 0x25C, 0x280, 0xEB0, 0xF11, 0xF12, 0xF13, 0xF14, 0xF15, 0x300, 0x301, 0x302, 0x303,
   0x304, 0x305, 0x306, 0x308, 0x309, 0x30A, 0x30C, 0x30D, 0x30E, 0x30F, 0x320, 0x340, 0x341, 0x342, 0x343, 0x344, 0x34A, 0x34B, 0x350,
   0x351, 0x35C, 0xFB0, 0x3A0, 0x3A2, 0xB00, 0xB02].contains n ||
  (decide (0x5C0 ≤ n) && decide (n < 0x5CA)) || (decide (0x3B0 ≤ n) && decide (n < 0x3C0)) || (decide (0xC00 ≤ n) && decide (n < 0xC20)) ||
  (decide (0xB03 ≤ n) && decide (n < 0xB20)) || (decide (0x323 ≤ n) && decide (n < 0x340))
/-- A cause for a condition that fails. -/
def deny (ok : Bool) (cause : Nat) : Option Nat := if ok then none else some cause
/-- The enable bit of Smstateen and Ssstateen that a CSR needs. -/
def stateEnable (n : Nat) : Option Nat :=
  if [0x10A, 0x60A].contains n then some 62 else if [0x150, 0x151, 0x250, 0x251].contains n then some 60
  else if [0xDB0, 0xEB0].contains n then some 59 else if [0x15C, 0x25C].contains n then some 58
  else if [0x10C, 0x10D, 0x10E, 0x10F, 0x60C, 0x60D, 0x60E, 0x60F].contains n then some 63 else none
/-- Whether the floating-point unit, or the vector unit, is off. -/
def fpOff (a : Agent) : Bool := bits a.mstatus.toNat 14 13 == 0 || (a.mode.virt && bits a.vsstatus.toNat 14 13 == 0)
def vecOff (a : Agent) : Bool := bits a.mstatus.toNat 10 9 == 0 || (a.mode.virt && bits a.vsstatus.toNat 10 9 == 0)

/-- What the particular CSRs ask beside the privilege level: the cause of the exception, none when admitted. n is the number as
written, before V = 1 renames it. -/
def csrGuard (a : Agent) (n : Nat) : Option Nat :=
  let m := csrFor a.mode.virt n
  let low := a.mode ≠ .M
  let virt := a.mode.virt
  if [0x001, 0x002, 0x003].contains n then deny (!fpOff a) 2
  else if [0x008, 0x009, 0x00A, 0x00F, 0xC20, 0xC21, 0xC22].contains n then deny (!vecOff a) 2
  else if 0xC00 ≤ n ∧ n < 0xC20 then
    let i := n - 0xC00
    if low ∧ !csrBit a 0x306 i then some 2
    else if virt ∧ !csrBit a 0x606 i then some 22
    else if (a.mode = .U ∨ a.mode = .VU) ∧ !csrBit a 0x106 i then some (if virt then 22 else 2) else none
  else if n = 0x180 ∧ a.mode = .HS then deny (!a.mstatus.getLsbD 20) 2
  else if n = 0x180 ∧ a.mode = .VS then deny (!a.hstatus.getLsbD 20) 22
  else if n = 0x680 ∧ a.mode = .HS then deny (!a.mstatus.getLsbD 20) 2
  else if (n = 0x14D ∨ n = 0x24D) ∧ low then
    if !csrBit a 0x30A 63 ∨ !csrBit a 0x306 1 then some 2
    else if virt ∧ (!csrBit a 0x60A 63 ∨ !csrBit a 0x606 1 ∨ csrBit a 0x609 30) then some 22 else none
  else if (n = 0x104 ∨ n = 0x144) ∧ virt then deny (!csrBit a 0x609 30) 22
  else
    match stateEnable m with
    | some i =>
      let csr := if i = 63 then n % 4 else 0
      if low ∧ !csrBit a (0x30C + csr) i then some 2
      else if virt ∧ !csrBit a (0x60C + csr) i then some 22
      else if n = 0x151 ∧ virt then
        let sel := (csrAt a 0x250).toNat
        some (if (0x30 ≤ sel ∧ sel < 0x40) ∨ (0x70 ≤ sel ∧ sel < 0x100) then 22 else 2)
      else if n = 0x251 ∨ n = 0x25C then some 2
      else if n = 0x15C ∧ virt then some 22
      else if n = 0x151 then deny (selectOk (csrAt a 0x150).toNat && (decide ((csrAt a 0x150).toNat < 0x70) || !low || csrBit a 0x30C 58)) 2
      else none
    | none => if n = 0x351 then deny (selectOk (csrAt a 0x350).toNat) 2 else none

/-- R351, R348: the exception of an access to a CSR, by its existence, its privilege level, and whether it is read-only: below its
level illegal instruction, and virtual instruction where HS-mode could have made it. -/
def csrFault (a : Agent) (n : Nat) (wr : Bool) : Option Nat :=
  if !csrExists n ∨ (wr ∧ bits n 11 10 = 3) then some 2
  else
    let lvl := bits n 9 8
    match a.mode with
    | .M => csrGuard a n
    | .HS => if lvl = 3 then some 2 else csrGuard a n
    | .VS => if lvl = 3 then some 2 else if lvl = 2 ∨ (0x5C0 ≤ n ∧ n < 0x5CA) then some 22 else csrGuard a n
    | .U => if lvl = 0 then csrGuard a n else some 2
    | .VU => if lvl = 3 then some 2 else if lvl = 0 then csrGuard a n else some 22

/-! ## Instructions and the event -/

/-- Zicsr: the six CSR instructions of core k, by funct3; `arg` is the register's value or the immediate. -/
def csrInstr (s : State) (k : Nat) (f3 n rd rs : Nat) (arg w : Word) : State :=
  let a := agentAt s k
  let wr := f3 % 4 == 1 || rs != 0
  match csrFault a n wr with
  | some c => coreTrap s k { cause := c, tval := w.toNat }
  | none =>
    let m := csrFor a.mode.virt n
    let old := csrGet s k m
    let base := if m = 0x344 then (old &&& ~~~0x200) ||| (csrAt a 0x344 &&& 0x200) else old
    let new := if f3 % 4 = 1 then arg else if f3 % 4 = 2 then base ||| arg else base &&& ~~~arg
    modAgent s k fun a => retire (setAgX (if wr then csrPut a s m new else a) rd old) 4

/-- REGISTER_WRITE: a CSR of an agent core, with the exception of a mode that may not reach it, or a dword of a control block. -/
def execRegisterWrite (t : RegTarget) (w : Word) (s : State) : Host.Outcome State Fault Refusal :=
  match t with
  | .csr k num =>
    needUnit s k (.next (
      match csrFault (agentAt s k) num true with
      | some c => coreTrap s k { cause := c }
      | none => modAgent s k fun a => retire (csrPut a s (csrFor a.mode.virt num) w) 4))
  | .controlByHost pnum off => .next (controlByHost s pnum off w)
  | .controlByCore k off =>
    needUnit s k (.next (match partOfCore s k with | some pnum => coreControl s pnum off w | none => s))

end Sys2Proof.Machine
end

