-- ==== Sys2Proof/Machine/RvBase.lean ====
section
/-! DEFINITION. The base instructions of an agent core (R348; PRESUMED: RISC-V as RVA23 fixes it, log entry 8): RV64I, M, A, B,
Zicond, Zimop, C with Zcb and Zcmop, Zifencei, the cache-block operations, and the privileged and hypervisor instructions. -/
namespace Sys2Proof.Machine

/-! ## An instruction word -/

/-- An instruction as core k runs it: its 32-bit form, its length in bytes, and the bits fetched. -/
structure Rv where
  k : Nat
  w : Nat
  len : Nat
  raw : Nat
  deriving DecidableEq, Repr

def Rv.op (i : Rv) : Nat := bits i.w 6 0
def Rv.rd (i : Rv) : Nat := bits i.w 11 7
def Rv.f3 (i : Rv) : Nat := bits i.w 14 12
def Rv.rs1 (i : Rv) : Nat := bits i.w 19 15
def Rv.rs2 (i : Rv) : Nat := bits i.w 24 20
def Rv.f7 (i : Rv) : Nat := bits i.w 31 25
/-- The immediates of the I, S, B, U and J formats. -/
def Rv.immI (i : Rv) : Int := sext (bits i.w 31 20) 12
def Rv.immS (i : Rv) : Int := sext (bits i.w 31 25 * 32 + bits i.w 11 7) 12
def Rv.immB (i : Rv) : Int := sext (bits i.w 31 31 * 4096 + bits i.w 7 7 * 2048 + bits i.w 30 25 * 32 + bits i.w 11 8 * 2) 13
def Rv.immU (i : Rv) : Int := sext (bits i.w 31 12 * 4096) 32
def Rv.immJ (i : Rv) : Int := sext (bits i.w 31 31 * 2 ^ 20 + bits i.w 19 12 * 4096 + bits i.w 20 20 * 2048 + bits i.w 30 21 * 2) 21
/-- Register values. -/
def Rv.x1 (i : Rv) (s : State) : Word := agX (agentAt s i.k) i.rs1
def Rv.x2 (i : Rv) (s : State) : Word := agX (agentAt s i.k) i.rs2
/-- The address of a load or store. -/
def Rv.ea (i : Rv) (s : State) (imm : Int) : Nat := (i.x1 s + wordI imm).toNat

/-- The instruction is done: rd is written, the pc moves on. -/
def Rv.done (i : Rv) (s : State) (w : Word) : State := modAgent s i.k fun a => retire (setAgX a i.rd w) i.len
/-- The instruction is done and writes no register. -/
def Rv.next (i : Rv) (s : State) : State := modAgent s i.k fun a => retire a i.len
/-- The instruction is done: rd receives the address after it, and the pc goes to a target. -/
def Rv.jump (i : Rv) (s : State) (rd : Nat) (t : Word) : State :=
  modAgent s i.k fun a => { retire (setAgX a rd (a.pc + word i.len)) i.len with pc := t }
/-- Illegal instruction, or another cause, with the word. -/
def Rv.bad (i : Rv) (s : State) (cause : Nat) : State := coreTrap s i.k { cause := cause, tval := i.raw }
def Rv.illegal (i : Rv) (s : State) : State := i.bad s 2
/-- A result, if the encoding has one. -/
def Rv.result (i : Rv) (s : State) (r : Option Word) : State :=
  match r with
  | some w => i.done s w
  | none => i.illegal s
/-- A word of 32 bits sign-extended. -/
def sw32 (n : Nat) : Word := wordI (sext n 32)

/-! ## Arithmetic -/

/-- A bit count: leading zeros, trailing zeros, ones, of n bits. -/
def leadZ (v : Nat) : Nat → Nat
  | 0 => 0
  | n + 1 => if bit v n then 0 else leadZ v n + 1
def trailZ (v : Nat) : Nat → Nat
  | 0 => 0
  | n + 1 => if v % 2 = 1 then 0 else trailZ (v / 2) n + 1
def ones (v : Nat) : Nat → Nat
  | 0 => 0
  | n + 1 => v % 2 + ones (v / 2) n
/-- A rotation to the right of w bits. -/
def rotr (w v n : Nat) : Nat := let k := n % w; v % 2 ^ w / 2 ^ k + v % 2 ^ k * 2 ^ (w - k)
/-- Division and remainder of w bits as RISC-V gives them, by 0 and on overflow included. -/
def rvDivS (w a b : Nat) : Nat := if b % 2 ^ w = 0 then 2 ^ w - 1 else truncI (Int.tdiv (sext a w) (sext b w)) w
def rvDivU (w a b : Nat) : Nat := if b % 2 ^ w = 0 then 2 ^ w - 1 else a % 2 ^ w / (b % 2 ^ w)
def rvRemS (w a b : Nat) : Nat := if b % 2 ^ w = 0 then a % 2 ^ w else truncI (Int.tmod (sext a w) (sext b w)) w
def rvRemU (w a b : Nat) : Nat := if b % 2 ^ w = 0 then a % 2 ^ w else a % 2 ^ w % (b % 2 ^ w)
/-- The bytes of a dword, each put through a function, the lowest first. -/
def mapBytes (f : Nat → Nat) (v : Nat) : Nat := leNat ((leBytes 8 v).map fun b => BitVec.ofNat 8 (f b.toNat))

/-- OP: the result of two registers. -/
def rvOp (f7 f3 : Nat) (x y : Word) : Option Word :=
  let a := x.toNat
  let b := y.toNat
  let sh := b % 64
  match f7, f3 with
  | 0x00, 0 => some (x + y)
  | 0x00, 1 => some (x <<< sh)
  | 0x00, 2 => some (if sext a 64 < sext b 64 then 1 else 0)
  | 0x00, 3 => some (if a < b then 1 else 0)
  | 0x00, 4 => some (x ^^^ y)
  | 0x00, 5 => some (x >>> sh)
  | 0x00, 6 => some (x ||| y)
  | 0x00, 7 => some (x &&& y)
  | 0x20, 0 => some (x - y)
  | 0x20, 4 => some (x ^^^ ~~~y)
  | 0x20, 5 => some (x.sshiftRight sh)
  | 0x20, 6 => some (x ||| ~~~y)
  | 0x20, 7 => some (x &&& ~~~y)
  | 0x01, 0 => some (x * y)
  | 0x01, 1 => some (wordI (sext a 64 * sext b 64 / 2 ^ 64))
  | 0x01, 2 => some (wordI (sext a 64 * b / 2 ^ 64))
  | 0x01, 3 => some (word (a * b / 2 ^ 64))
  | 0x01, 4 => some (word (rvDivS 64 a b))
  | 0x01, 5 => some (word (rvDivU 64 a b))
  | 0x01, 6 => some (word (rvRemS 64 a b))
  | 0x01, 7 => some (word (rvRemU 64 a b))
  | 0x10, 2 => some ((x <<< 1) + y)
  | 0x10, 4 => some ((x <<< 2) + y)
  | 0x10, 6 => some ((x <<< 3) + y)
  | 0x05, 4 => some (if sext b 64 < sext a 64 then y else x)
  | 0x05, 5 => some (if b < a then y else x)
  | 0x05, 6 => some (if sext a 64 < sext b 64 then y else x)
  | 0x05, 7 => some (if a < b then y else x)
  | 0x30, 1 => some (word (rotr 64 a (64 - sh)))
  | 0x30, 5 => some (word (rotr 64 a sh))
  | 0x24, 1 => some (x &&& ~~~((1 : Word) <<< sh))
  | 0x24, 5 => some ((x >>> sh) &&& 1)
  | 0x34, 1 => some (x ^^^ ((1 : Word) <<< sh))
  | 0x14, 1 => some (x ||| ((1 : Word) <<< sh))
  | 0x07, 5 => some (if y = 0 then 0 else x)
  | 0x07, 7 => some (if y = 0 then x else 0)
  | _, _ => none

/-- OP-32: the result of two registers. -/
def rvOp32 (f7 f3 : Nat) (x y : Word) : Option Word :=
  let a := x.toNat % 2 ^ 32
  let b := y.toNat % 2 ^ 32
  let sh := b % 32
  match f7, f3 with
  | 0x00, 0 => some (sw32 (a + b))
  | 0x00, 1 => some (sw32 (a * 2 ^ sh))
  | 0x00, 5 => some (sw32 (a / 2 ^ sh))
  | 0x20, 0 => some (sw32 (a + 2 ^ 32 - b))
  | 0x20, 5 => some (wordI (sext a 32 / 2 ^ sh))
  | 0x01, 0 => some (sw32 (a * b))
  | 0x01, 4 => some (sw32 (rvDivS 32 a b))
  | 0x01, 5 => some (sw32 (rvDivU 32 a b))
  | 0x01, 6 => some (sw32 (rvRemS 32 a b))
  | 0x01, 7 => some (sw32 (rvRemU 32 a b))
  | 0x04, 0 => some (word a + y)
  | 0x04, 4 => if y = 0 then some (x &&& 0xFFFF) else none
  | 0x10, 2 => some (word (2 * a) + y)
  | 0x10, 4 => some (word (4 * a) + y)
  | 0x10, 6 => some (word (8 * a) + y)
  | 0x30, 1 => some (sw32 (rotr 32 a (32 - sh)))
  | 0x30, 5 => some (sw32 (rotr 32 a sh))
  | _, _ => none

/-- OP-IMM: the result of a register and an immediate of 12 bits, given with its unsigned value. -/
def rvOpImm (f3 u : Nat) (imm : Int) (x : Word) : Option Word :=
  let f6 := u / 64
  let sh := u % 64
  match f3 with
  | 1 =>
    if f6 = 0 then some (x <<< sh)
    else if f6 = 0x12 then some (x &&& ~~~((1 : Word) <<< sh))
    else if f6 = 0x1A then some (x ^^^ ((1 : Word) <<< sh))
    else if f6 = 0x0A then some (x ||| ((1 : Word) <<< sh))
    else if u = 0x600 then some (word (leadZ x.toNat 64))
    else if u = 0x601 then some (word (trailZ x.toNat 64))
    else if u = 0x602 then some (word (ones x.toNat 64))
    else if u = 0x604 then some (wordI (sext x.toNat 8))
    else if u = 0x605 then some (wordI (sext x.toNat 16)) else none
  | 5 =>
    if f6 = 0 then some (x >>> sh)
    else if f6 = 0x10 then some (x.sshiftRight sh)
    else if f6 = 0x18 then some (word (rotr 64 x.toNat sh))
    else if f6 = 0x12 then some ((x >>> sh) &&& 1)
    else if u = 0x287 then some (word (mapBytes (fun b => if b = 0 then 0 else 255) x.toNat))
    else if u = 0x6B8 then some (word (leNat (leBytes 8 x.toNat).reverse)) else none
  | _ => rvOp 0 f3 x (wordI imm)

/-- OP-IMM-32. -/
def rvOpImm32 (f3 u : Nat) (imm : Int) (x : Word) : Option Word :=
  let a := x.toNat % 2 ^ 32
  let sh := u % 32
  match f3 with
  | 0 => some (sw32 (x + wordI imm).toNat)
  | 1 =>
    if u / 32 = 0 then some (sw32 (a * 2 ^ sh))
    else if u / 64 = 2 then some (word (a * 2 ^ (u % 64)))
    else if u = 0x600 then some (word (leadZ a 32))
    else if u = 0x601 then some (word (trailZ a 32))
    else if u = 0x602 then some (word (ones a 32)) else none
  | 5 =>
    if u / 32 = 0 then some (sw32 (a / 2 ^ sh))
    else if u / 32 = 0x20 then some (wordI (sext a 32 / 2 ^ sh))
    else if u / 32 = 0x30 then some (sw32 (rotr 32 a sh)) else none
  | _ => none

/-- BRANCH: whether it is taken. -/
def rvTaken (f3 a b : Nat) : Option Bool :=
  match f3 with
  | 0 => some (a == b) | 1 => some (a != b)
  | 4 => some (decide (sext a 64 < sext b 64)) | 5 => some (decide (sext b 64 ≤ sext a 64))
  | 6 => some (decide (a < b)) | 7 => some (decide (b ≤ a))
  | _ => none
def rvBranch (i : Rv) (s : State) : State :=
  match rvTaken i.f3 (i.x1 s).toNat (i.x2 s).toNat with
  | some true => i.jump s 0 ((agentAt s i.k).pc + wordI i.immB)
  | some false => i.next s
  | none => i.illegal s

/-! ## Memory -/

/-- A value of n bytes as a register receives it: sign-extended or not. -/
def loadValue (n : Nat) (signed : Bool) (v : Nat) : Word := if signed then wordI (sext v (8 * n)) else word v
/-- LOAD. -/
def rvLoad (i : Rv) (s : State) : State :=
  if i.f3 = 7 then i.illegal s
  else coreLoad s i.k (i.ea s i.immI) (2 ^ (i.f3 % 4)) fun s v => i.done s (loadValue (2 ^ (i.f3 % 4)) (i.f3 < 4) v)
/-- STORE. -/
def rvStore (i : Rv) (s : State) : State :=
  if 4 ≤ i.f3 then i.illegal s else coreSave s i.k (i.ea s i.immS) (2 ^ i.f3) (i.x2 s).toNat i.next

/-- The operation of an AMO by funct5. -/
def amoOf (f5 : Nat) : Option AmoOp :=
  match f5 with
  | 0x00 => some .add | 0x01 => some .swap | 0x04 => some .xor | 0x08 => some .or | 0x0C => some .and
  | 0x10 => some .minS | 0x14 => some .maxS | 0x18 => some .minZ | 0x1C => some .maxZ
  | _ => none
/-- AMO: LR, SC and the atomic operations on 4 or 8 bytes, with R203's annotations. -/
def rvAmo (i : Rv) (s : State) : State :=
  let f5 := i.f7 / 4
  let n := 2 ^ i.f3
  let va := (i.x1 s).toNat
  let y := (i.x2 s).toNat % 2 ^ (8 * n)
  let told (s : State) : State := agentAnnounce s i.k (bit i.w 26) (bit i.w 25)
  if i.f3 ≠ 2 ∧ i.f3 ≠ 3 then i.illegal s
  else if bit i.w 26 && bit i.w 25 && coreHeld s i.k then s
  else if f5 = 2 then (if i.rs2 ≠ 0 then i.illegal s else coreLr s i.k va n fun s v => told (i.done s (loadValue n true v)))
  else if f5 = 3 then coreSc s i.k va n y fun s v => told (i.done s (word v))
  else
    match amoOf f5 with
    | some op => coreAmo s i.k va n op y 0 fun s v => told (i.done s (loadValue n true v))
    | none => i.illegal s

/-- R203, R350: FENCE: one that orders stores before loads, and is not FENCE.TSO, is an `.sc` event at `.dev` scope; every
access of the core being performed at once, the other forms have no other effect in a step (log entry 6). -/
def rvFenceInstr (i : Rv) (s : State) : State :=
  let tso := bits i.w 31 28 == 8
  let stores := bit i.w 24 || bit i.w 26
  let loads := bit i.w 21 || bit i.w 23
  if stores && loads && !tso then (if coreHeld s i.k then s else coreAnnounce (i.next s) i.k) else i.next s

/-- Whether a cache-block operation is enabled in a mode: the bits of menvcfg, henvcfg and senvcfg from `lo` to `hi`; the cause
when not. -/
def cboFault (a : Agent) (hi lo : Nat) : Option Nat :=
  let off (n : Nat) : Bool := bits (csrAt a n).toNat hi lo == 0
  if a.mode = .M then none
  else if off 0x30A then some 2
  else if a.mode.virt ∧ off 0x60A then some 22
  else if a.mode.level = 0 ∧ off 0x10A then some (if a.mode.virt then 22 else 2) else none
/-- R348: Zicbom and Zicboz on the 128-byte block that holds an address: a block cleaned or flushed reaches its home, where every
store of the core already stands, and leaves the L2 unless it is only cleaned; a block zeroed is stored. -/
def rvCbo (i : Rv) (s : State) : State :=
  let a := agentAt s i.k
  let va := (i.x1 s).toNat / 128 * 128
  let kind := bits i.w 31 20
  if i.rd ≠ 0 then i.illegal s
  else if kind = 4 then
    match cboFault a 7 7 with
    | some c => i.bad s c
    | none => coreMem s i.k (dataAcc a 2) va 128 true fun s x =>
        i.next (coreStore s i.k x (List.replicate 128 0))
  else if kind ≤ 2 then
    match (if kind = 0 then cboFault a 5 4 else cboFault a 6 6) with
    | some c => i.bad s c
    | none =>
      match partOfCore s i.k, (partOfCore s i.k).bind (partAt s) with
      | some pnum, some p =>
        match agentCheckAs s a pnum p (dataAcc a 1) (maskPtr a (dataAcc a 1) va) 128 with
        | .trap e => coreTrap s i.k { e with cause := if e.cause = 5 then 7 else if e.cause = 13 then 15 else if e.cause = 21 then 23 else e.cause }
        | .wait hs => setWants s (coreKey i.k) hs
        | .ok pas walked =>
          let l := pas.headD 0 / 128
          let s := correct s walked
          i.next (if kind = 1 then s else modAgent s i.k fun a => { a with l2 := smDel a.l2 l })
      | _, _ => s
  else i.illegal s

/-! ## Privileged instructions -/

/-- MRET. -/
def mret (a : Agent) : Agent :=
  let mpp := bits a.mstatus.toNat 12 11
  let m := hartMode mpp (a.mstatus.getLsbD 39)
  let st := setField a.mstatus 3 3 (bits a.mstatus.toNat 7 7)
  let st := setField (setField (setField st 7 7 1) 12 11 0) 39 39 0
  { retire a 4 with mstatus := if mpp = 3 then st else setField st 17 17 0, mode := m, pc := a.mepc }
/-- SRET of M-mode and HS-mode. -/
def sretH (a : Agent) : Agent :=
  let m := hartMode (bits a.mstatus.toNat 8 8) (a.hstatus.getLsbD 7)
  let st := setField a.mstatus 1 1 (bits a.mstatus.toNat 5 5)
  let st := setField (setField (setField st 5 5 1) 8 8 0) 17 17 0
  { retire a 4 with mstatus := st, hstatus := setField a.hstatus 7 7 0, mode := m, pc := a.sepc }
/-- SRET of VS-mode. -/
def sretV (a : Agent) : Agent :=
  let m := hartMode (bits a.vsstatus.toNat 8 8) true
  let st := setField a.vsstatus 1 1 (bits a.vsstatus.toNat 5 5)
  { retire a 4 with vsstatus := setField (setField st 5 5 1) 8 8 0, mode := m, pc := a.vsepc }

/-- The cause of a privileged instruction that the mode may not run: those of supervisor level, `tvm` being the bit of mstatus and
of hstatus that withholds it; `hyper` for those of the hypervisor, which V = 1 may not run. -/
def privFault (a : Agent) (hyper : Bool) (mbit hbit : Option Nat) : Option Nat :=
  match a.mode with
  | .M => none
  | .HS => if mbit.any a.mstatus.getLsbD then some 2 else none
  | .VS => if hyper ∨ hbit.any a.hstatus.getLsbD then some 22 else none
  | .U => some 2
  | .VU => some 22

/-- Whether a held leaf falls under a fence: its stage, its VMID, an address, an ASID; a global leaf is spared by an ASID. -/
def fenced (stage : Nat) (vmid va asid : Option Nat) (e : TlbEntry) : Bool :=
  e.stage == stage && vmid.all (· == e.vmid) && (va.all fun v => decide (e.base ≤ v) && decide (v < e.base + e.size)) &&
  asid.all fun n => n == e.asid && !bit e.pte 5
/-- A fence of held leaves. -/
def rvDrop (i : Rv) (s : State) (f : TlbEntry → Bool) : State :=
  i.next (modAgent s i.k fun a => { a with tlb := a.tlb.filter fun e => !f e })
/-- A register as an operand of a fence: x0 stands for all. -/
def fenceArg (r : Nat) (w : Word) : Option Nat := if r = 0 then none else some w.toNat
/-- A result that an exception comes before. -/
def Rv.unless (i : Rv) (s : State) (c : Option Nat) (t : State) : State :=
  match c with
  | some c => i.bad s c
  | none => t

/-- SYSTEM, funct3 0: environment calls, returns, waits, which end at once, and fences of held leaves. -/
def rvSystem (i : Rv) (s : State) : State :=
  let a := agentAt s i.k
  let imm := bits i.w 31 20
  let vmid := bits (csrAt a 0x680).toNat 57 44
  let va := fenceArg i.rs1 (i.x1 s)
  let id := (fenceArg i.rs2 (i.x2 s)).map (· % 2 ^ 16)
  if i.rd ≠ 0 then i.illegal s
  else if i.f7 = 0x09 ∨ i.f7 = 0x0B then
    i.unless s (privFault a false (some 20) (some 20)) (
      if a.mode = .VS then rvDrop i s (fenced 1 (some vmid) va id) else rvDrop i s (fenced 0 none va id))
  else if i.f7 = 0x0C ∧ i.rs1 = 0 ∧ i.rs2 ≤ 1 then i.unless s (privFault a false none none) (i.next s)
  else if i.f7 = 0x11 ∨ i.f7 = 0x13 then i.unless s (privFault a true none none) (rvDrop i s (fenced 1 (some vmid) va id))
  else if i.f7 = 0x31 ∨ i.f7 = 0x33 then
    i.unless s (privFault a true (some 20) none)
      (rvDrop i s (fenced 2 ((fenceArg i.rs2 (i.x2 s)).map (· % 2 ^ 14)) (va.map (4 * ·)) none))
  else if i.rs1 ≠ 0 then i.illegal s
  else if imm = 0 then
    coreTrap s i.k { cause := match a.mode with | .U | .VU => 8 | .HS => 9 | .VS => 10 | .M => 11 }
  else if imm = 1 then coreTrap s i.k { cause := 3 }
  else if imm = 0x102 then
    i.unless s (privFault a false (some 22) (some 22)) (modAgent s i.k fun a => if a.mode = .VS then sretV a else sretH a)
  else if imm = 0x302 then (if a.mode = .M then modAgent s i.k mret else i.illegal s)
  else if imm = 0x105 ∨ imm = 0x00D ∨ imm = 0x01D then i.next s
  else i.illegal s

/-- SYSTEM, funct3 4: the hypervisor's loads and stores of a guest's memory, and the may-be-operations, which write 0. -/
def rvHyper (i : Rv) (s : State) : State :=
  let a := agentAt s i.k
  let denied := if a.mode.virt then some 22 else if a.mode = .U ∧ !a.hstatus.getLsbD 9 then some 2 else none
  let n := 2 ^ (i.f7 / 2 % 4)
  let va := (i.x1 s).toNat
  let acc (need : Nat) : CoreAcc := ⟨bits a.hstatus.toNat 8 8, true, need, i.rs2 == 3, .plain⟩
  if bit i.w 31 && bits i.w 29 28 == 0 && (bits i.w 25 22 == 7 || bit i.w 25) then i.done s 0
  else if i.f7 / 8 ≠ 6 then i.illegal s
  else if i.f7 % 2 = 1 then
    if i.rd ≠ 0 then i.illegal s
    else i.unless s denied (coreMem s i.k (acc 2) va n true fun s x => i.next (coreStore s i.k x (leBytes n (i.x2 s).toNat)))
  else if i.rs2 = 0 ∨ (i.rs2 = 1 ∧ n < 8) ∨ (i.rs2 = 3 ∧ (n = 2 ∨ n = 4)) then
    i.unless s denied (coreMem s i.k (acc 1) va n false fun s x =>
      i.done (noteL2 s i.k (x.mem s) false) (loadValue n (i.rs2 == 0) (leNat (coreBytes s x))))
  else i.illegal s

/-- MISC-MEM: fences, `FENCE.I`, which lets the lines held for fetches go (R202), and the cache-block operations. -/
def rvMiscMem (i : Rv) (s : State) : State :=
  match i.f3 with
  | 0 => rvFenceInstr i s
  | 1 => i.next (modAgent s i.k fun a => { a with icode := [] })
  | 2 => rvCbo i s
  | _ => i.illegal s

/-- The integer instructions by major opcode; none for another unit's. -/
def rvInteger (i : Rv) (s : State) : Option State :=
  let a := agentAt s i.k
  match i.op with
  | 0x37 => some (i.done s (wordI i.immU))
  | 0x17 => some (i.done s (a.pc + wordI i.immU))
  | 0x6F => some (i.jump s i.rd (a.pc + wordI i.immJ))
  | 0x67 => some (if i.f3 = 0 then i.jump s i.rd ((i.x1 s + wordI i.immI) &&& ~~~1) else i.illegal s)
  | 0x63 => some (rvBranch i s)
  | 0x03 => some (rvLoad i s)
  | 0x23 => some (rvStore i s)
  | 0x13 => some (i.result s (rvOpImm i.f3 (bits i.w 31 20) i.immI (i.x1 s)))
  | 0x1B => some (i.result s (rvOpImm32 i.f3 (bits i.w 31 20) i.immI (i.x1 s)))
  | 0x33 => some (i.result s (rvOp i.f7 i.f3 (i.x1 s) (i.x2 s)))
  | 0x3B => some (i.result s (rvOp32 i.f7 i.f3 (i.x1 s) (i.x2 s)))
  | 0x0F => some (rvMiscMem i s)
  | 0x2F => some (rvAmo i s)
  | 0x73 =>
    some (match i.f3 with
      | 0 => rvSystem i s
      | 4 => rvHyper i s
      | f3 => csrInstr s i.k f3 (bits i.w 31 20) i.rd i.rs1 (if f3 < 4 then i.x1 s else word i.rs1) (word i.w))
  | _ => none

/-! ## Compressed instructions -/

/-- Words of the formats. -/
def encR (f7 rs2 rs1 f3 rd op : Nat) : Nat := f7 * 2 ^ 25 + rs2 * 2 ^ 20 + rs1 * 2 ^ 15 + f3 * 2 ^ 12 + rd * 2 ^ 7 + op
def encI (imm rs1 f3 rd op : Nat) : Nat := imm % 4096 * 2 ^ 20 + rs1 * 2 ^ 15 + f3 * 2 ^ 12 + rd * 2 ^ 7 + op
def encS (imm rs2 rs1 f3 op : Nat) : Nat := encR (imm / 32 % 128) rs2 rs1 f3 (imm % 32) op
def encB (imm rs1 f3 : Nat) : Nat :=
  encR (bits imm 12 12 * 64 + bits imm 10 5) 0 rs1 f3 (bits imm 4 1 * 2 + bits imm 11 11) 0x63
def encJ (imm rd : Nat) : Nat :=
  (bits imm 20 20 * 2 ^ 19 + bits imm 10 1 * 2 ^ 9 + bits imm 11 11 * 2 ^ 8 + bits imm 19 12) * 2 ^ 12 + rd * 2 ^ 7 + 0x6F
/-- A signed immediate of n bits as one of 21. -/
def imm21 (v n : Nat) : Nat := truncI (sext v n) 21

/-- Quadrant 0: the loads and stores of eight registers, with Zcb's. -/
def expand0 (h : Nat) : Option Nat :=
  let rd := 8 + bits h 4 2
  let rs := 8 + bits h 9 7
  let w := bits h 12 10 * 8 + bits h 6 6 * 4 + bits h 5 5 * 64
  let d := bits h 12 10 * 8 + bits h 6 5 * 64
  match bits h 15 13 with
  | 0 =>
    let imm := bits h 12 11 * 16 + bits h 10 7 * 64 + bits h 6 6 * 4 + bits h 5 5 * 8
    if imm = 0 then none else some (encI imm 2 0 rd 0x13)
  | 1 => some (encI d rs 3 rd 0x07)
  | 2 => some (encI w rs 2 rd 0x03)
  | 3 => some (encI d rs 3 rd 0x03)
  | 4 =>
    let b := bits h 6 6 + 2 * bits h 5 5
    let half := 2 * bits h 5 5
    (match bits h 12 10 with
     | 0 => some (encI b rs 4 rd 0x03)
     | 1 => some (encI half rs (if bit h 6 then 1 else 5) rd 0x03)
     | 2 => some (encS b rd rs 0 0x23)
     | 3 => if bit h 6 then none else some (encS half rd rs 1 0x23)
     | _ => none)
  | 5 => some (encS d rd rs 3 0x27)
  | 6 => some (encS w rd rs 2 0x23)
  | _ => some (encS d rd rs 3 0x23)

/-- Quadrant 1: immediates, arithmetic on eight registers, jumps and branches. -/
def expand1 (h : Nat) : Option Nat :=
  let rd := bits h 11 7
  let r := 8 + bits h 9 7
  let r2 := 8 + bits h 4 2
  let six := bits h 12 12 * 32 + bits h 6 2
  let imm := imm21 six 6
  match bits h 15 13 with
  | 0 => some (encI imm rd 0 rd 0x13)
  | 1 => if rd = 0 then none else some (encI imm rd 0 rd 0x1B)
  | 2 => some (encI imm 0 0 rd 0x13)
  | 3 =>
    if six = 0 then (if rd % 2 = 1 ∧ rd < 16 then some 0x13 else none)
    else if rd = 2 then
      some (encI (imm21 (bits h 12 12 * 512 + bits h 6 6 * 16 + bits h 5 5 * 64 + bits h 4 3 * 128 + bits h 2 2 * 32) 10) 2 0 2 0x13)
    else some (imm % 2 ^ 20 * 2 ^ 12 + rd * 2 ^ 7 + 0x37)
  | 4 =>
    (match bits h 11 10 with
     | 0 => some (encI six r 5 r 0x13)
     | 1 => some (encI (0x400 + six) r 5 r 0x13)
     | 2 => some (encI imm r 7 r 0x13)
     | _ =>
       match bits h 12 12, bits h 6 5 with
       | 0, 0 => some (encR 0x20 r2 r 0 r 0x33)
       | 0, 1 => some (encR 0 r2 r 4 r 0x33)
       | 0, 2 => some (encR 0 r2 r 6 r 0x33)
       | 0, _ => some (encR 0 r2 r 7 r 0x33)
       | _, 0 => some (encR 0x20 r2 r 0 r 0x3B)
       | _, 1 => some (encR 0 r2 r 0 r 0x3B)
       | _, 2 => some (encR 1 r2 r 0 r 0x33)
       | _, _ =>
         match bits h 4 2 with
         | 0 => some (encI 0xFF r 7 r 0x13)
         | 1 => some (encI 0x604 r 1 r 0x13)
         | 2 => some (encR 4 0 r 4 r 0x3B)
         | 3 => some (encI 0x605 r 1 r 0x13)
         | 4 => some (encR 4 0 r 0 r 0x3B)
         | 5 => some (encI 0xFFF r 4 r 0x13)
         | _ => none)
  | 5 =>
    some (encJ (imm21 (bits h 12 12 * 2048 + bits h 11 11 * 16 + bits h 10 9 * 256 + bits h 8 8 * 1024 + bits h 7 7 * 64 +
      bits h 6 6 * 128 + bits h 5 3 * 2 + bits h 2 2 * 32) 12) 0)
  | f =>
    some (encB (imm21 (bits h 12 12 * 256 + bits h 11 10 * 8 + bits h 6 5 * 64 + bits h 4 3 * 2 + bits h 2 2 * 32) 9) r (f - 6))

/-- Quadrant 2: shifts, the stack, moves and register jumps. -/
def expand2 (h : Nat) : Option Nat :=
  let rd := bits h 11 7
  let rs2 := bits h 6 2
  let d := bits h 12 12 * 32 + bits h 6 5 * 8 + bits h 4 2 * 64
  let sd := bits h 12 10 * 8 + bits h 9 7 * 64
  match bits h 15 13 with
  | 0 => some (encI (bits h 12 12 * 32 + rs2) rd 1 rd 0x13)
  | 1 => some (encI d 2 3 rd 0x07)
  | 2 => if rd = 0 then none else some (encI (bits h 12 12 * 32 + bits h 6 4 * 4 + bits h 3 2 * 64) 2 2 rd 0x03)
  | 3 => if rd = 0 then none else some (encI d 2 3 rd 0x03)
  | 4 =>
    if bit h 12 then
      if rs2 ≠ 0 then some (encR 0 rs2 rd 0 rd 0x33)
      else if rd = 0 then some 0x00100073 else some (encI 0 rd 0 1 0x67)
    else if rs2 ≠ 0 then some (encR 0 rs2 0 0 rd 0x33)
    else if rd = 0 then none else some (encI 0 rd 0 0 0x67)
  | 5 => some (encS sd rs2 2 3 0x27)
  | 6 => some (encS (bits h 12 9 * 4 + bits h 8 7 * 64) rs2 2 2 0x23)
  | _ => some (encS sd rs2 2 3 0x23)

/-- The 32-bit form of a 16-bit instruction, none for a reserved one. -/
def expandC (h : Nat) : Option Nat :=
  match h % 4 with
  | 0 => expand0 h
  | 1 => expand1 h
  | 2 => expand2 h
  | _ => none

end Sys2Proof.Machine
end

