-- ==== Sys2Proof/Machine/RvFloat.lean ====
section
/-! DEFINITION. The floating-point instructions of an agent core (R348; PRESUMED: RISC-V F, D, Zfhmin and Zfa, log entry 8), on
the exact values and the one rounding of Machine/Num.lean. -/
namespace Sys2Proof.Machine

/-- Double precision. -/
def f64 : Fmt := ⟨.ieee, 11, 52, 1023⟩
/-- The format of a code of two bits, or of a width in bits. -/
def rvFmt (c : Nat) : Option Fmt := match c with | 0 => some f32 | 1 => some f64 | 2 => some f16 | _ => none

/-! ## Registers -/

/-- A value in an f register: NaN-boxed when narrower, else the canonical NaN. -/
def unbox (f : Fmt) (w : Word) : Nat :=
  if f.width = 64 then w.toNat else if w.toNat / 2 ^ f.width = 2 ^ (64 - f.width) - 1 then w.toNat % 2 ^ f.width else f.nanCode
def boxed (f : Fmt) (c : Nat) : Word := word (2 ^ 64 - 2 ^ f.width + c % 2 ^ f.width)
def agF (a : Agent) (r : Nat) : Word := smGet 0 a.f r
/-- FS becomes dirty. -/
def fsDirty (a : Agent) : Agent :=
  { a with mstatus := setField a.mstatus 14 13 3, vsstatus := if a.mode.virt then setField a.vsstatus 14 13 3 else a.vsstatus }
/-- Exception flags accrue. -/
def accrue (a : Agent) (ff : BitVec 5) : Agent := setCsr a 3 (csrAt a 3 ||| ff.setWidth 64)
/-- An f register is written, with flags; the instruction is done. -/
def Rv.setF (i : Rv) (s : State) (w : Word) (ff : BitVec 5) : State :=
  modAgent s i.k fun a => retire (accrue (fsDirty { a with f := smSet 0 a.f i.rd w }) ff) i.len
/-- An x register is written, with flags. -/
def Rv.setXF (i : Rv) (s : State) (w : Word) (ff : BitVec 5) : State :=
  modAgent s i.k fun a => retire (setAgX (accrue (fsDirty a) ff) i.rd w) i.len

/-! ## Operations on codes -/

/-- Whether a code is a signalling NaN. -/
def isSnan (f : Fmt) (c : Nat) : Bool := decodeF f c == .nan && !bit c (f.mb - 1)
/-- The flag of a signalling operand. -/
def snanFlag (f : Fmt) (cs : List Nat) : BitVec 5 := if cs.any (isSnan f) then fNV else 0
/-- An exact value rounded, with the flags that came before. -/
def rvRound (f : Fmt) (m : RM) (x : FV) (ff : BitVec 5) : Nat × BitVec 5 :=
  let r := roundTo f m false false 0 x
  (r.code, r.ff ||| ff)

/-- An exact quotient. -/
def divF (x y : FV) : FV × BitVec 5 :=
  let neg := xor x.neg y.neg
  match x, y with
  | .nan, _ => (.nan, 0)
  | _, .nan => (.nan, 0)
  | .inf _, .inf _ => (.nan, fNV)
  | .zero _, .zero _ => (.nan, fNV)
  | .inf _, _ => (.inf neg, 0)
  | _, .inf _ => (.zero neg, 0)
  | _, .zero _ => (.inf neg, fDZ)
  | .zero _, _ => (.zero neg, 0)
  | .fin _ n1 d1, .fin _ n2 d2 => (.fin neg (n1 * d2) (d1 * n2), 0)
/-- A square root, exact or between two neighbours of a grid far finer than any format's. -/
def sqrtF (x : FV) : FV × BitVec 5 :=
  match x with
  | .nan => (.nan, 0)
  | .zero s => (.zero s, 0)
  | .inf s => if s then (.nan, fNV) else (.inf false, 0)
  | .fin s n d =>
    if s then (.nan, fNV)
    else
      let v := n * d * 4 ^ 80
      let r := isqrt (v.log2 / 2 + 1) v 0
      (if r * r = v then .fin false r (d * 2 ^ 80) else .fin false (2 * r + 1) (d * 2 ^ 81), 0)

/-- Two operands by funct5: addition, subtraction, multiplication, division. -/
def rvArith (f : Fmt) (m : RM) (f5 a b : Nat) : Nat × BitVec 5 :=
  let x := decodeF f a
  let y := decodeF f b
  let (v, ff) := match f5 with
    | 0 => addF m x y
    | 1 => addF m x y.flip
    | 2 => mulF x y
    | _ => divF x y
  rvRound f m v (ff ||| snanFlag f [a, b])
/-- a × b + c, with the product or the addend negated. -/
def rvFma (f : Fmt) (m : RM) (negP negC : Bool) (a b c : Nat) : Nat × BitVec 5 :=
  let x := decodeF f a
  let z := decodeF f c
  let (v, ff) := fmaF m (if negP then x.flip else x) (decodeF f b) (if negC then z.flip else z)
  rvRound f m v (ff ||| snanFlag f [a, b, c])
/-- The smaller or larger of two: a NaN loses, or with `strict` wins. -/
def rvMinMax (f : Fmt) (max strict : Bool) (a b : Nat) : Nat × BitVec 5 :=
  let x := decodeF f a
  let y := decodeF f b
  let v := if strict && (x == .nan || y == .nan) then .nan else if max then maxF x y else minF x y
  (codeOf f v, snanFlag f [a, b])
/-- Sign injection: the sign of b, its opposite, or the two signs' exclusive or. -/
def rvSgnj (f : Fmt) (kind a b : Nat) : Nat :=
  let top := f.eb + f.mb
  let sb := bit b top
  let s := match kind with | 0 => sb | 1 => !sb | _ => xor sb (bit a top)
  a % 2 ^ top + (if s then 2 ^ top else 0)
/-- A comparison: 0 ≤, 1 <, 2 =; a quiet one raises NV for signalling NaNs only. -/
def rvCompare (f : Fmt) (kind : Nat) (quiet : Bool) (a b : Nat) : Bool × BitVec 5 :=
  let x := decodeF f a
  let y := decodeF f b
  let nan := x == .nan || y == .nan
  let r := match kind with | 0 => ltF false x y || eqF x y | 1 => ltF false x y | _ => eqF x y
  (!nan && r, if quiet || kind == 2 then snanFlag f [a, b] else if nan then fNV else 0)
/-- The class of a value as one of ten bits. -/
def rvClass (f : Fmt) (c : Nat) : Nat :=
  let neg := bit c (f.eb + f.mb)
  let sub := c / 2 ^ f.mb % 2 ^ f.eb == 0
  match decodeF f c with
  | .inf s => if s then 1 else 2 ^ 7
  | .zero s => if s then 2 ^ 3 else 2 ^ 4
  | .nan => if isSnan f c then 2 ^ 8 else 2 ^ 9
  | .fin _ _ _ => if neg then (if sub then 2 ^ 2 else 2) else if sub then 2 ^ 5 else 2 ^ 6
/-- A value as an integer of a range: NaN as the largest, clamped with NV, else with NX when inexact. -/
def rvToInt (m : RM) (lo hi : Int) (x : FV) : Int × BitVec 5 :=
  match x with
  | .nan => (hi, fNV)
  | .inf s => (if s then lo else hi, fNV)
  | .zero _ => (0, 0)
  | .fin s n d =>
    let (k, exact) := roundGrid m s n d 0 0
    let v : Int := if s then -(k : Int) else k
    if v < lo then (lo, fNV) else if hi < v then (hi, fNV) else (v, if exact then 0 else fNX)
/-- The range of an integer of w bits. -/
def rvRange (w : Nat) (signed : Bool) : Int × Int :=
  if signed then (-(2 ^ (w - 1) : Nat), (2 ^ (w - 1) : Nat) - 1) else (0, (2 ^ w : Nat) - 1)
/-- A value rounded to an integral one of its format. -/
def rvIntegral (f : Fmt) (m : RM) (inexactToo : Bool) (c : Nat) : Nat × BitVec 5 :=
  match decodeF f c with
  | .nan => (f.nanCode, snanFlag f [c])
  | .fin s n d =>
    let (k, exact) := roundGrid m s n d 0 0
    (codeOf f (mkFin s k 1), if inexactToo && !exact then fNX else 0)
  | _ => (c, 0)
/-- fcvtmod.w.d: truncated, modulo 2^32. -/
def rvToMod32 (x : FV) : Nat × BitVec 5 :=
  match x with
  | .fin s n d =>
    let k := n / d
    let v : Int := if s then -(k : Int) else k
    (truncI v 32, if v < -(2 ^ 31 : Nat) ∨ (2 ^ 31 : Nat) ≤ v then fNV else if n % d = 0 then 0 else fNX)
  | .zero _ => (0, 0)
  | _ => (0, fNV)
/-- The constants of fli, over 2^16; the first is −1 and has its own sign. -/
def fliNums : List Nat :=
  [65536, 0, 1, 2, 256, 512, 4096, 8192, 16384, 20480, 24576, 28672, 32768, 40960, 49152, 57344, 65536, 81920, 98304, 114688, 131072,
   163840, 196608, 262144, 524288, 1048576, 8388608, 16777216, 2147483648, 4294967296]
/-- fli: a constant by number. -/
def fliCode (f : Fmt) (n : Nat) : Nat :=
  if n = 1 then 2 ^ f.mb else if n = 30 then f.infCode else if n = 31 then f.nanCode
  else codeOf f (.fin (n == 0) (fliNums.getD n 0) 65536)

/-! ## Instructions -/

/-- The rounding mode of an instruction: its field, or frm; none for a reserved one. -/
def rvRm (a : Agent) (rm : Nat) : Option RM :=
  let c := if rm = 7 then bits (csrAt a 3).toNat 7 5 else rm
  match c with
  | 0 => some .rne | 1 => some .rtz | 2 => some .rdn | 3 => some .rup | 4 => some .rna | _ => none

/-- The operands of a floating-point instruction in a format. -/
def Rv.fa (i : Rv) (s : State) (f : Fmt) : Nat := unbox f (agF (agentAt s i.k) i.rs1)
def Rv.fb (i : Rv) (s : State) (f : Fmt) : Nat := unbox f (agF (agentAt s i.k) i.rs2)
def Rv.fc (i : Rv) (s : State) (f : Fmt) : Nat := unbox f (agF (agentAt s i.k) (i.f7 / 4))
/-- A result of the format f. -/
def Rv.fres (i : Rv) (s : State) (f : Fmt) (r : Nat × BitVec 5) : State := i.setF s (boxed f r.1) r.2

/-- OP-FP in single and double precision, rounding mode included. -/
def rvFpOp (i : Rv) (s : State) (f : Fmt) : State :=
  let f5 := i.f7 / 4
  let a := i.fa s f
  let b := i.fb s f
  let rounded (k : RM → State) : State :=
    match rvRm (agentAt s i.k) i.f3 with
    | some m => k m
    | none => i.illegal s
  match f5 with
  | 0x00 | 0x01 | 0x02 | 0x03 => rounded fun m => i.fres s f (rvArith f m f5 a b)
  | 0x0B => if i.rs2 = 0 then rounded fun m => let r := sqrtF (decodeF f a); i.fres s f (rvRound f m r.1 (r.2 ||| snanFlag f [a])) else i.illegal s
  | 0x04 => if i.f3 < 3 then i.setF s (boxed f (rvSgnj f i.f3 a b)) 0 else i.illegal s
  | 0x05 => if i.f3 < 4 then i.fres s f (rvMinMax f (i.f3 % 2 == 1) (i.f3 / 2 == 1) a b) else i.illegal s
  | 0x08 =>
    if i.rs2 = 4 then rounded fun m => i.fres s f (rvIntegral f m false a)
    else if i.rs2 = 5 then rounded fun m => i.fres s f (rvIntegral f m true a)
    else
      match (if i.rs2 = i.f7 % 4 then none else rvFmt i.rs2) with
      | some g => rounded fun m => let c := i.fa s g; i.fres s f (rvRound f m (decodeF g c) (snanFlag g [c]))
      | none => i.illegal s
  | 0x14 =>
    if i.f3 = 3 ∨ 5 < i.f3 then i.illegal s
    else let r := rvCompare f (i.f3 % 4) (decide (4 ≤ i.f3)) a b; i.setXF s (if r.1 then 1 else 0) r.2
  | 0x18 =>
    if i.rs2 = 8 ∧ f.width = 64 ∧ i.f3 = 1 then let r := rvToMod32 (decodeF f a); i.setXF s (sw32 r.1) r.2
    else if 4 ≤ i.rs2 then i.illegal s
    else rounded fun m =>
      let w := if i.rs2 < 2 then 32 else 64
      let rg := rvRange w (i.rs2 % 2 == 0)
      let r := rvToInt m rg.1 rg.2 (decodeF f a)
      i.setXF s (if w = 32 then sw32 (truncI r.1 32) else wordI r.1) r.2
  | 0x1A =>
    if 4 ≤ i.rs2 then i.illegal s
    else rounded fun m =>
      let x := (i.x1 s).toNat
      let w := if i.rs2 < 2 then 32 else 64
      let v : Int := if i.rs2 % 2 = 0 then sext x w else (x % 2 ^ w : Nat)
      i.fres s f (rvRound f m (ofInt v) 0)
  | 0x1C =>
    if i.rs2 ≠ 0 then i.illegal s
    else if i.f3 = 0 then i.done s (wordI (sext (agF (agentAt s i.k) i.rs1).toNat f.width))
    else if i.f3 = 1 then i.done s (word (rvClass f a)) else i.illegal s
  | 0x1E =>
    if i.f3 ≠ 0 then i.illegal s
    else if i.rs2 = 0 then i.setF s (boxed f (i.x1 s).toNat) 0
    else if i.rs2 = 1 then i.setF s (boxed f (fliCode f i.rs1)) 0 else i.illegal s
  | _ => i.illegal s

/-- OP-FP in half precision: moves and conversions only (Zfhmin). -/
def rvHalfOp (i : Rv) (s : State) : State :=
  match i.f7 / 4 with
  | 0x08 =>
    (match (if i.rs2 < 2 then rvFmt i.rs2 else none), rvRm (agentAt s i.k) i.f3 with
     | some g, some m => let c := i.fa s g; i.fres s f16 (rvRound f16 m (decodeF g c) (snanFlag g [c]))
     | _, _ => i.illegal s)
  | 0x1C => if i.rs2 = 0 ∧ i.f3 = 0 then i.done s (wordI (sext (agF (agentAt s i.k) i.rs1).toNat 16)) else i.illegal s
  | 0x1E => if i.rs2 = 0 ∧ i.f3 = 0 then i.setF s (boxed f16 (i.x1 s).toNat) 0 else i.illegal s
  | _ => i.illegal s

/-- The fused forms: FMADD 0x43, FMSUB 0x47, FNMSUB 0x4B, FNMADD 0x4F. -/
def rvFused (i : Rv) (s : State) : State :=
  match (if i.f7 % 4 < 2 then rvFmt (i.f7 % 4) else none), rvRm (agentAt s i.k) i.f3 with
  | some f, some m => i.fres s f (rvFma f m (0x4B ≤ i.op) (i.op == 0x47 || i.op == 0x4F) (i.fa s f) (i.fb s f) (i.fc s f))
  | _, _ => i.illegal s

/-- The floating-point loads and stores of 2, 4 and 8 bytes. -/
def rvFpLoad (i : Rv) (s : State) : State :=
  let n := 2 ^ i.f3
  coreLoad s i.k (i.ea s i.immI) n fun s v => i.setF s (word (2 ^ 64 - 2 ^ (8 * n) + v)) 0
def rvFpStore (i : Rv) (s : State) : State :=
  coreSave s i.k (i.ea s i.immS) (2 ^ i.f3) (agF (agentAt s i.k) i.rs2).toNat i.next

/-- The floating-point instructions by major opcode; none for another unit's. -/
def rvFloat (i : Rv) (s : State) : Option State :=
  let on (t : State) : Option State := some (if fpOff (agentAt s i.k) then i.illegal s else t)
  match i.op with
  | 0x07 => if 1 ≤ i.f3 ∧ i.f3 ≤ 3 then on (rvFpLoad i s) else none
  | 0x27 => if 1 ≤ i.f3 ∧ i.f3 ≤ 3 then on (rvFpStore i s) else none
  | 0x43 | 0x47 | 0x4B | 0x4F => on (rvFused i s)
  | 0x53 =>
    on (match i.f7 % 4 with
      | 0 => rvFpOp i s f32
      | 1 => rvFpOp i s f64
      | 2 => rvHalfOp i s
      | _ => i.illegal s)
  | _ => none

end Sys2Proof.Machine
end

