-- ==== Sys2Proof/Machine/RvVector.lean ====
section
/-! DEFINITION. The vector unit of an agent core (R348: V with VLEN 512; PRESUMED: RISC-V V, Zvfhmin and Zvbb, log entry 8):
configuration, elements, and the operations on elements. -/
namespace Sys2Proof.Machine

/-! ## Configuration -/

/-- The vector configuration: SEW in bits, LMUL as an exponent of two plus 3, whether tails and masked-off elements are agnostic,
vl and vstart. -/
structure VCfg where
  sew : Nat
  lmul : Nat
  ta : Bool
  ma : Bool
  vl : Nat
  start : Nat
  deriving DecidableEq, Repr

/-- The configuration of a vtype, none for one that is reserved: SEW up to 64, and not above LMUL times 64. -/
def vtypeOf (v vl start : Nat) : Option VCfg :=
  let mul := if bits v 2 0 < 4 then bits v 2 0 + 3 else bits v 2 0 - 5
  if 2 ^ 8 ≤ v ∨ 3 < bits v 5 3 ∨ bits v 2 0 = 4 ∨ (mul < 3 ∧ mul < bits v 5 3) then none
  else some ⟨8 * 2 ^ bits v 5 3, mul, bit v 6, bit v 7, vl, start⟩
/-- VLMAX for elements of a width. -/
def VCfg.max (c : VCfg) : Nat := 64 * 2 ^ c.lmul / c.sew
/-- The configuration of a core, none with vill. -/
def vcfgOf (a : Agent) : Option VCfg := vtypeOf (csrAt a 0xC21).toNat (csrAt a 0xC20).toNat (csrAt a 8).toNat
/-- Registers of a group whose elements are `num/den` of SEW wide: its EMUL as an exponent plus 3, if it exists. -/
def VCfg.emul (c : VCfg) (eew : Nat) : Option Nat :=
  let n := eew * 2 ^ c.lmul / c.sew
  if eew * 2 ^ c.lmul % c.sew = 0 ∧ 1 ≤ n ∧ n ≤ 64 then some n.log2 else none
/-- The number of registers of a group. -/
def groupRegs (mul : Nat) : Nat := if mul ≤ 3 then 1 else 2 ^ (mul - 3)

/-- VS becomes dirty. -/
def vsDirty (a : Agent) : Agent :=
  { a with mstatus := setField a.mstatus 10 9 3, vsstatus := if a.mode.virt then setField a.vsstatus 10 9 3 else a.vsstatus }

/-- vsetvli, vsetivli and vsetvl: a vtype and a requested length give vl, the smaller of the request and VLMAX. -/
def vsetvl (i : Rv) (s : State) (vtype : Nat) (avl : Option Nat) : State :=
  let a := agentAt s i.k
  let old := (csrAt a 0xC20).toNat
  match vtypeOf vtype 0 0 with
  | none =>
    modAgent s i.k fun a => retire (setAgX (setCsr (setCsr (setCsr (vsDirty a) 0xC21 (word (2 ^ 63))) 0xC20 0) 8 0) i.rd 0) i.len
  | some c =>
    let vl := Nat.min (avl.getD old) c.max
    modAgent s i.k fun a => retire (setAgX (setCsr (setCsr (setCsr (vsDirty a) 0xC21 (word vtype)) 0xC20 (word vl)) 8 0) i.rd (word vl)) i.len
/-- The configuration instructions. -/
def rvVset (i : Rv) (s : State) : State :=
  let avl : Option Nat := if i.rs1 ≠ 0 then some (i.x1 s).toNat else if i.rd ≠ 0 then some (2 ^ 64 - 1) else none
  if !bit i.w 31 then vsetvl i s (bits i.w 30 20) avl
  else if bit i.w 30 then vsetvl i s (bits i.w 29 20) (some i.rs1)
  else if i.f7 = 0x40 then vsetvl i s (i.x2 s).toNat avl else i.illegal s

/-! ## Elements -/

/-- Element n of the group from register r on, elements of w bits. -/
def vGet (a : Agent) (w r n : Nat) : Nat := (smGet 0 a.v ((r + n * w / 512) % 32)).toNat / 2 ^ (n * w % 512) % 2 ^ w
def vPut (a : Agent) (w r n v : Nat) : Agent :=
  let k := (r + n * w / 512) % 32
  let o := n * w % 512
  let x := (smGet 0 a.v k).toNat
  { a with v := smSet 0 a.v k (BitVec.ofNat 512 (x - x / 2 ^ o % 2 ^ w * 2 ^ o + v % 2 ^ w * 2 ^ o)) }
/-- Bit n of a mask register. -/
def vBit (a : Agent) (r n : Nat) : Bool := (smGet 0 a.v r).getLsbD n
def vPutBit (a : Agent) (r n : Nat) (b : Bool) : Agent := vPut a 1 r n (if b then 1 else 0)

/-- An element's result: its value, the floating-point flags, and whether it saturated. -/
structure VRes where
  v : Nat
  ff : BitVec 5 := 0
  sat : Bool := false
  deriving DecidableEq, Repr
/-- A vector instruction as it runs: the instruction, the core's state before it, its configuration, and the free values. -/
structure VView where
  i : Rv
  a : Agent
  c : VCfg
  count : Nat

def VView.vd (x : VView) : Nat := x.i.rd
def VView.vs2 (x : VView) : Nat := x.i.rs2
def VView.vs1 (x : VView) : Nat := x.i.rs1
/-- Whether the instruction is masked. -/
def VView.masked (x : VView) : Bool := !bit x.i.w 25
/-- Whether element n is active. -/
def VView.active (x : VView) (n : Nat) : Bool := !x.masked || vBit x.a 0 n

/-- Flags and saturation accrue. -/
def vAccrue (a : Agent) (r : VRes) : Agent :=
  let a := accrue a r.ff
  if r.sat then setCsr a 9 1 else a
/-- An agnostic element: left, or overwritten with ones. -/
def VView.agnostic (x : VView) (a : Agent) (w r n : Nat) : Agent :=
  if Config.agnostic x.count n then vPut a w r n (2 ^ w - 1) else a
/-- The instruction is done: vstart is 0. -/
def VView.done (x : VView) (s : State) (a : Agent) : State :=
  setAgent s x.i.k (retire (setCsr (vsDirty a) 8 0) x.i.len)
def VView.bad (x : VView) (s : State) : State := x.i.illegal s

/-- The elements of a destination of w bits from vstart on: active ones, or `all`, get their result, the others and the tail stay
or are agnostic. `f` reads the state before the instruction. -/
def VView.each (x : VView) (s : State) (all : Bool) (w : Nat) (f : Nat → VRes) : State :=
  let c := x.c
  let body (a : Agent) (n : Nat) : Agent :=
    if n < c.start then a
    else if all || x.active n then let r := f n; vAccrue (vPut a w x.vd n r.v) r
    else if c.ma then x.agnostic a w x.vd n else a
  let regs := groupRegs ((c.emul w).getD 3)
  let tail := if c.ta then (List.range (512 * regs / w)).filter (c.vl ≤ ·) else []
  x.done s (if c.vl ≤ c.start then x.a else tail.foldl (fun a n => x.agnostic a w x.vd n) ((List.range c.vl).foldl body x.a))

/-- A mask as destination; `all` when a masked-off element has a result too. Its tail stays, or is ones, or holds the results
that a longer vector would have. -/
def VView.eachBit (x : VView) (s : State) (all : Bool) (f : Nat → Bool × BitVec 5) : State :=
  let c := x.c
  let body (a : Agent) (n : Nat) : Agent :=
    if n < c.start then a
    else if all || x.active n then let r := f n; accrue (vPutBit a x.vd n r.1) r.2
    else if c.ma then x.agnostic a 1 x.vd n else a
  let tail := (List.range 512).filter (c.vl ≤ ·)
  let rest (a : Agent) (n : Nat) : Agent :=
    if n < c.max && Config.agnostic x.count (512 + n) then vPutBit a x.vd n (f n).1 else x.agnostic a 1 x.vd n
  x.done s (if c.vl ≤ c.start then x.a else tail.foldl rest ((List.range c.vl).foldl body x.a))

/-! ## Which groups may stand together -/

/-- A group that exists: its EMUL is one, its first register a multiple of it. -/
def groupOk (mul : Option Nat) (r : Nat) : Bool := match mul with | some m => r % groupRegs m == 0 | none => false
/-- A source beside a destination of another element width: apart, or overlapping at the end that the widths allow. -/
def overlapOk (dw dmul sw smul d r : Nat) : Bool :=
  let nd := groupRegs dmul
  let ns := groupRegs smul
  let apart := decide (d + nd ≤ r) || decide (r + ns ≤ d)
  apart || dw == sw || (decide (dw < sw) && d == r) || (decide (sw < dw) && decide (3 ≤ smul) && r + ns == d + nd)
/-- A destination and its sources: each a width in bits and a register. A masked destination that is no mask is not v0. -/
def VView.groups (x : VView) (dw : Nat) (srcs : List (Nat × Nat)) : Bool :=
  let c := x.c
  groupOk (c.emul dw) x.vd && !(x.masked && x.vd == 0) &&
  srcs.all fun e => groupOk (c.emul e.1) e.2 && overlapOk dw ((c.emul dw).getD 3) e.1 ((c.emul e.1).getD 3) x.vd e.2

/-! ## Integer operations on elements -/

/-- Fixed-point rounding of v / 2^d under vxrm. -/
def roundOff (xrm : Nat) (v : Int) (d : Nat) : Int :=
  let q := v / (2 ^ d : Nat)
  let lo := (v % (2 ^ d : Nat)).toNat
  let up :=
    match xrm with
    | 0 => decide (0 < d ∧ 2 ^ d ≤ 2 * lo)
    | 1 => decide (2 ^ d < 2 * lo) || (decide (0 < d ∧ 2 ^ d = 2 * lo) && q % 2 == 1)
    | 2 => false
    | _ => decide (lo ≠ 0) && q % 2 == 0
  if up then q + 1 else q
/-- An integer clamped to w bits, signed or not. -/
def vClamp (w : Nat) (signed : Bool) (v : Int) : VRes :=
  let r := rvRange w signed
  let (y, c) := satTo v r.1 r.2
  ⟨truncI y w, 0, c⟩

/-- OPIVV, OPIVX and OPIVI on elements of w bits: a of vs2, b the other operand, ci the carry. -/
def viOp (w xrm f6 a b : Nat) (ci : Nat) : Option VRes :=
  let m := 2 ^ w
  let sa := sext a w
  let sb := sext b w
  let sh := b % w
  match f6 with
  | 0x00 => some ⟨a + b, 0, false⟩
  | 0x01 => some ⟨Nat.land a (m - 1 - b), 0, false⟩
  | 0x02 => some ⟨a + m - b, 0, false⟩
  | 0x03 => some ⟨b + m - a, 0, false⟩
  | 0x04 => some ⟨Nat.min a b, 0, false⟩
  | 0x05 => some ⟨if sa < sb then a else b, 0, false⟩
  | 0x06 => some ⟨Nat.max a b, 0, false⟩
  | 0x07 => some ⟨if sa < sb then b else a, 0, false⟩
  | 0x09 => some ⟨Nat.land a b, 0, false⟩
  | 0x0A => some ⟨Nat.lor a b, 0, false⟩
  | 0x0B => some ⟨Nat.xor a b, 0, false⟩
  | 0x10 => some ⟨a + b + ci, 0, false⟩
  | 0x12 => some ⟨a + 2 * m - b - ci, 0, false⟩
  | 0x14 => some ⟨rotr w a sh, 0, false⟩
  | 0x15 => some ⟨rotr w a (w - sh), 0, false⟩
  | 0x20 => some (vClamp w false (a + b : Nat))
  | 0x21 => some (vClamp w true (sa + sb))
  | 0x22 => some (vClamp w false ((a : Int) - b))
  | 0x23 => some (vClamp w true (sa - sb))
  | 0x25 => some ⟨a * 2 ^ sh, 0, false⟩
  | 0x27 => some (vClamp w true (roundOff xrm (sa * sb) (w - 1)))
  | 0x28 => some ⟨a / 2 ^ sh, 0, false⟩
  | 0x29 => some ⟨truncI (sa / (2 ^ sh : Nat)) w, 0, false⟩
  | 0x2A => some ⟨truncI (roundOff xrm a sh) w, 0, false⟩
  | 0x2B => some ⟨truncI (roundOff xrm sa sh) w, 0, false⟩
  | _ => none
/-- The narrowing shifts and clips: a of 2 w bits. -/
def vnOp (w xrm f6 a b : Nat) : Option VRes :=
  let sh := b % (2 * w)
  let sa := sext a (2 * w)
  match f6 with
  | 0x2C => some ⟨a / 2 ^ sh, 0, false⟩
  | 0x2D => some ⟨truncI (sa / (2 ^ sh : Nat)) w, 0, false⟩
  | 0x2E => some (vClamp w false (roundOff xrm a sh))
  | 0x2F => some (vClamp w true (roundOff xrm sa sh))
  | _ => none
/-- OPMVV and OPMVX on elements of w bits, d the old destination. -/
def vmOp (w xrm f6 a b d : Nat) : Option VRes :=
  let sa := sext a w
  let sb := sext b w
  let t (v : Int) : Option VRes := some ⟨truncI v w, 0, false⟩
  match f6 with
  | 0x08 => t (roundOff xrm (a + b : Nat) 1)
  | 0x09 => t (roundOff xrm (sa + sb) 1)
  | 0x0A => t (roundOff xrm ((a : Int) - b) 1)
  | 0x0B => t (roundOff xrm (sa - sb) 1)
  | 0x20 => some ⟨rvDivU w a b, 0, false⟩
  | 0x21 => some ⟨rvDivS w a b, 0, false⟩
  | 0x22 => some ⟨rvRemU w a b, 0, false⟩
  | 0x23 => some ⟨rvRemS w a b, 0, false⟩
  | 0x24 => some ⟨a * b / 2 ^ w, 0, false⟩
  | 0x25 => t (sa * sb)
  | 0x26 => t (sa * b / (2 ^ w : Nat))
  | 0x27 => t (sa * sb / (2 ^ w : Nat))
  | 0x29 => t (sb * sext d w + sa)
  | 0x2B => t (sa - sb * sext d w)
  | 0x2D => t (sb * sa + sext d w)
  | 0x2F => t (sext d w - sb * sa)
  | _ => none
/-- The widening operations to 2 w bits; from 0x34 to 0x37 a has 2 w bits already. -/
def vwOp (w f6 a b d : Nat) : Option Int :=
  let sa := sext a w
  let sb := sext b w
  let wa := sext a (2 * w)
  match f6 with
  | 0x30 => some (a + b : Nat)
  | 0x31 => some (sa + sb)
  | 0x32 => some ((a : Int) - b)
  | 0x33 => some (sa - sb)
  | 0x34 => some (a + b : Nat)
  | 0x35 => some (wa + sb)
  | 0x36 => some ((a : Int) - b)
  | 0x37 => some (wa - sb)
  | 0x38 => some (a * b : Nat)
  | 0x3A => some (sa * b)
  | 0x3B => some (sa * sb)
  | 0x3C => some (a * b + d : Nat)
  | 0x3D => some (sa * sb + d)
  | 0x3E => some (sa * b + d)
  | 0x3F => some (a * sb + d)
  | _ => none
/-- The comparisons. -/
def vcOp (w f6 a b : Nat) : Option Bool :=
  match f6 with
  | 0x18 => some (a == b)
  | 0x19 => some (a != b)
  | 0x1A => some (decide (a < b))
  | 0x1B => some (decide (sext a w < sext b w))
  | 0x1C => some (decide (a ≤ b))
  | 0x1D => some (decide (sext a w ≤ sext b w))
  | 0x1E => some (decide (b < a))
  | 0x1F => some (decide (sext b w < sext a w))
  | _ => none
/-- A reduction's operation. -/
def vrOp (w f6 a b : Nat) : Nat :=
  match f6 with
  | 0x00 => (a + b) % 2 ^ w
  | 0x01 => Nat.land a b
  | 0x02 => Nat.lor a b
  | 0x03 => Nat.xor a b
  | 0x04 => Nat.min a b
  | 0x05 => if sext a w < sext b w then a else b
  | 0x06 => Nat.max a b
  | _ => if sext a w < sext b w then b else a
/-- Reversals within bytes, of bytes, of bits, and counts (Zvbb), and extensions from a fraction of the width. -/
def vuOp (w kind a : Nat) : Option Nat :=
  let rev (n v : Nat) : Nat := (List.range n).foldl (fun r j => 2 * r + v / 2 ^ j % 2) 0
  let bytes := (List.range (w / 8)).map fun j => a / 256 ^ j % 256
  let join (l : List Nat) : Nat := l.foldr (fun b r => b + 256 * r) 0
  match kind with
  | 0x08 => some (join (bytes.map (rev 8)))
  | 0x09 => some (join bytes.reverse)
  | 0x0A => some (rev w a)
  | 0x0C => some (leadZ a w)
  | 0x0D => some (trailZ a w)
  | 0x0E => some (ones a w)
  | _ => none

/-! ## Floating-point operations on elements -/

/-- The format of a width. -/
def fmtSew (w : Nat) : Option Fmt := if w = 16 then some f16 else if w = 32 then some f32 else if w = 64 then some f64 else none
/-- A value of a format as an operand: its exact value and whether it signals. -/
def vfArg (f : Fmt) (c : Nat) : FV × BitVec 5 := (decodeF f c, snanFlag f [c])
/-- Two operands to one result of format f: addition, subtraction, multiplication, division. -/
def vfBin (f : Fmt) (m : RM) (op : Nat) (x y : FV × BitVec 5) : VRes :=
  let (v, ff) := match op with
    | 0 => addF m x.1 y.1
    | 1 => addF m x.1 y.1.flip
    | 2 => mulF x.1 y.1
    | _ => divF x.1 y.1
  let r := rvRound f m v (ff ||| x.2 ||| y.2)
  ⟨r.1, r.2, false⟩
/-- ± x × y ± z. -/
def vfFma (f : Fmt) (m : RM) (negP negC : Bool) (x y z : FV × BitVec 5) : VRes :=
  let (v, ff) := fmaF m (if negP then x.1.flip else x.1) y.1 (if negC then z.1.flip else z.1)
  let r := rvRound f m v (ff ||| x.2 ||| y.2 ||| z.2)
  ⟨r.1, r.2, false⟩
/-- OPFVV and OPFVF at one width: a of vs2, b the other operand, d the old destination. -/
def vfOp (f : Fmt) (m : RM) (f6 a b d : Nat) : Option VRes :=
  let x := vfArg f a
  let y := vfArg f b
  let z := vfArg f d
  let pair (r : Nat × BitVec 5) : Option VRes := some ⟨r.1, r.2, false⟩
  match f6 with
  | 0x00 => some (vfBin f m 0 x y)
  | 0x02 => some (vfBin f m 1 x y)
  | 0x04 => pair (rvMinMax f false false a b)
  | 0x06 => pair (rvMinMax f true false a b)
  | 0x08 => some ⟨rvSgnj f 0 a b, 0, false⟩
  | 0x09 => some ⟨rvSgnj f 1 a b, 0, false⟩
  | 0x0A => some ⟨rvSgnj f 2 a b, 0, false⟩
  | 0x20 => some (vfBin f m 3 x y)
  | 0x21 => some (vfBin f m 3 y x)
  | 0x24 => some (vfBin f m 2 x y)
  | 0x27 => some (vfBin f m 1 y x)
  | 0x28 => some (vfFma f m false false y z x)
  | 0x29 => some (vfFma f m true true y z x)
  | 0x2A => some (vfFma f m false true y z x)
  | 0x2B => some (vfFma f m true false y z x)
  | 0x2C => some (vfFma f m false false y x z)
  | 0x2D => some (vfFma f m true true y x z)
  | 0x2E => some (vfFma f m false true y x z)
  | 0x2F => some (vfFma f m true false y x z)
  | _ => none
/-- The widening operations of format f to g; from 0x34 to 0x37 a has format g already. -/
def vfwOp (f g : Fmt) (m : RM) (f6 a b d : Nat) : Option VRes :=
  let x := vfArg f a
  let y := vfArg f b
  let z := vfArg g d
  match f6 with
  | 0x30 => some (vfBin g m 0 x y)
  | 0x32 => some (vfBin g m 1 x y)
  | 0x34 => some (vfBin g m 0 (vfArg g a) y)
  | 0x36 => some (vfBin g m 1 (vfArg g a) y)
  | 0x38 => some (vfBin g m 2 x y)
  | 0x3C => some (vfFma g m false false x y z)
  | 0x3D => some (vfFma g m true true x y z)
  | 0x3E => some (vfFma g m false true x y z)
  | 0x3F => some (vfFma g m true false x y z)
  | _ => none
/-- The comparisons. -/
def vfcOp (f : Fmt) (f6 a b : Nat) : Option (Bool × BitVec 5) :=
  match f6 with
  | 0x18 => some (rvCompare f 2 true a b)
  | 0x19 => some (rvCompare f 0 false a b)
  | 0x1B => some (rvCompare f 1 false a b)
  | 0x1C => let r := rvCompare f 2 true a b; some (!r.1, r.2)
  | 0x1D => some (rvCompare f 1 false b a)
  | 0x1F => some (rvCompare f 0 false b a)
  | _ => none

/-- The seven bits of a reciprocal of 1.m, m given by its top seven bits: of the middle of that interval, rounded. -/
def rec7 (j : Nat) : Nat := (2 * (65536 - 128 * (257 + 2 * j)) + (257 + 2 * j)) / (2 * (257 + 2 * j))
/-- The seven bits of a reciprocal square root by the exponent's low bit and six bits: of the middle of that interval, rounded. -/
def rsqrt7 (j : Nat) : Nat :=
  let h := 129 + 2 * (j % 64)
  -- (2 / sqrt(x) - 1) 128 with x = h / 128, or twice that for an even exponent
  let n := (if j < 64 then 64 else 128) * 65536 * 2 ^ 40
  let r := isqrt 40 (n / h) 0
  (r / 2 ^ 19 + 1) / 2 - 128
/-- A code split: its exponent and fraction, a subnormal one normalised. -/
def vSplit (f : Fmt) (c : Nat) : Int × Nat :=
  let e := c / 2 ^ f.mb % 2 ^ f.eb
  let m := c % 2 ^ f.mb
  if e ≠ 0 then (e, m) else let z := leadZ m f.mb; (-(z : Int), m * 2 ^ (z + 1) % 2 ^ f.mb)
/-- vfrec7. -/
def vfrec7 (f : Fmt) (m : RM) (c : Nat) : VRes :=
  let neg := bit c (f.eb + f.mb)
  let sg (v : Nat) : Nat := if neg then v + 2 ^ (f.eb + f.mb) else v
  match decodeF f c with
  | .nan => ⟨f.nanCode, snanFlag f [c], false⟩
  | .inf _ => ⟨sg 0, 0, false⟩
  | .zero _ => ⟨sg f.infCode, fDZ, false⟩
  | .fin _ _ _ =>
    let (e, fr) := vSplit f c
    if e < -1 then
      let toMax := m == .rtz || (m == .rdn && !neg) || (m == .rup && neg)
      ⟨sg (if toMax then f.maxCode else f.infCode), fOF ||| fNX, false⟩
    else
      let sig := rec7 (fr / 2 ^ (f.mb - 7)) * 2 ^ (f.mb - 7)
      let oe : Int := 2 * f.bias - 1 - e
      ⟨sg (if oe ≤ 0 then (2 ^ f.mb + sig) / 2 ^ (1 - oe).toNat else oe.toNat * 2 ^ f.mb + sig), 0, false⟩
/-- vfrsqrt7. -/
def vfrsqrt7 (f : Fmt) (c : Nat) : VRes :=
  match decodeF f c with
  | .nan => ⟨f.nanCode, snanFlag f [c], false⟩
  | .zero s => ⟨(if s then 2 ^ (f.eb + f.mb) else 0) + f.infCode, fDZ, false⟩
  | .inf s => if s then ⟨f.nanCode, fNV, false⟩ else ⟨0, 0, false⟩
  | .fin s _ _ =>
    if s then ⟨f.nanCode, fNV, false⟩
    else
      let (e, fr) := vSplit f c
      let j := (e % 2).toNat * 64 + fr / 2 ^ (f.mb - 6)
      let oe : Int := (3 * f.bias - 1 - e) / 2
      ⟨oe.toNat * 2 ^ f.mb + rsqrt7 j * 2 ^ (f.mb - 7), 0, false⟩

/-- A conversion between elements: the source's width and whether it is a float, the destination's, and whether an integer is
signed. `odd`: rounded to odd. -/
def vfConvert (sw dw : Nat) (ff df signed odd : Bool) (m : RM) (c : Nat) : Option VRes :=
  match ff, df, fmtSew sw, fmtSew dw with
  | true, true, some f, some g =>
    let x := decodeF f c
    if odd then
      let r := rvRound g .rtz x (snanFlag f [c])
      some ⟨if r.2 &&& fNX = 0 ∨ r.1 % 2 = 1 then r.1 else r.1 + 1, r.2, false⟩
    else let r := rvRound g m x (snanFlag f [c]); some ⟨r.1, r.2, false⟩
  | true, false, some f, _ =>
    let rg := rvRange dw signed
    let r := rvToInt m rg.1 rg.2 (decodeF f c)
    some ⟨truncI r.1 dw, r.2, false⟩
  | false, true, _, some g =>
    let r := rvRound g m (ofInt (if signed then sext c sw else (c : Int))) 0
    some ⟨r.1, r.2, false⟩
  | _, _, _, _ => none

end Sys2Proof.Machine
end

