-- ==== Sys2Proof/Machine/RvVecRun.lean ====
section
/-! DEFINITION. The vector instructions of an agent core by format (R348; PRESUMED: RISC-V V, Zvfhmin and Zvbb, log entry 8):
arithmetic, masks, reductions, permutations, and the loads and stores, element by element. -/
namespace Sys2Proof.Machine

/-! ## Operands -/

/-- The other operand at a width: of vs1, of x or f register rs1, or the immediate. -/
def VView.opnd (x : VView) (w : Nat) (unsigned : Bool) (n : Nat) : Nat :=
  match x.i.f3 with
  | 0 | 1 | 2 => vGet x.a w x.vs1 n
  | 3 => if unsigned then x.vs1 else truncI (sext x.vs1 5) w
  | 5 => unbox ((fmtSew w).getD f64) (agF x.a x.i.rs1)
  | _ => (agX x.a x.i.rs1).toNat % 2 ^ w
/-- vs1 as a source of a width, when the form has it. -/
def VView.src1 (x : VView) (w : Nat) : List (Nat × Nat) := if x.i.f3 ≤ 2 then [(w, x.vs1)] else []
/-- Element n of vs2, and of the old destination. -/
def VView.e2 (x : VView) (w n : Nat) : Nat := vGet x.a w x.vs2 n
def VView.ed (x : VView) (w n : Nat) : Nat := vGet x.a w x.vd n
def VView.f6 (x : VView) : Nat := bits x.i.w 31 26
def VView.vxrm (x : VView) : Nat := (csrAt x.a 0xA).toNat
/-- A result, when the groups stand rightly and the operation exists for the form. -/
def VView.when (x : VView) (s : State) (ok : Bool) (t : State) : State := if ok then t else x.bad s
/-- Element results, none existing for a reserved operation. -/
def VView.eachOpt (x : VView) (s : State) (ok : Bool) (w : Nat) (f : Nat → Option VRes) : State :=
  x.when s (ok && (f 0).isSome) (x.each s false w fun n => (f n).getD ⟨0, 0, false⟩)
/-- A destination apart from its sources. -/
def VView.apart (x : VView) (w : Nat) (rs : List Nat) : Bool :=
  let k := groupRegs ((x.c.emul w).getD 3)
  rs.all fun r => decide (x.vd + k ≤ r) || decide (r + k ≤ x.vd)
/-- Sources of a mask destination: a group overlaps it in its lowest register alone. -/
def VView.maskGroups (x : VView) (srcs : List (Nat × Nat)) : Bool :=
  srcs.all fun e =>
    let m := x.c.emul e.1
    groupOk m e.2 && (x.vd ≤ e.2 || decide (e.2 + groupRegs (m.getD 3) ≤ x.vd))

/-! ## Permutations -/

/-- A slide up by an offset: elements below it stay. -/
def vSlideUp (x : VView) (s : State) (off : Nat) : State :=
  let w := x.c.sew
  x.when s (x.groups w [(w, x.vs2)] && x.apart w [x.vs2])
    (x.each s false w fun n => ⟨if n < off then x.ed w n else x.e2 w (n - off), 0, false⟩)
/-- A slide down by an offset: elements from beyond VLMAX are 0. -/
def vSlideDown (x : VView) (s : State) (off : Nat) : State :=
  let w := x.c.sew
  x.when s (x.groups w [(w, x.vs2)])
    (x.each s false w fun n => ⟨if n + off < x.c.max then x.e2 w (n + off) else 0, 0, false⟩)
/-- A slide by one element, a scalar taking the free place. -/
def vSlide1 (x : VView) (s : State) (up : Bool) (v : Nat) : State :=
  let w := x.c.sew
  x.when s (x.groups w [(w, x.vs2)] && (!up || x.apart w [x.vs2]))
    (x.each s false w fun n =>
      ⟨if up then (if n = 0 then v else x.e2 w (n - 1)) else if n + 1 = x.c.vl then v else x.e2 w (n + 1), 0, false⟩)
/-- A gather: each element from the place that an index of width iw names. -/
def vGather (x : VView) (s : State) (iw : Nat) (unsigned : Bool) : State :=
  let w := x.c.sew
  let idx (n : Nat) : Nat := match x.i.f3 with
    | 0 => x.opnd iw false n
    | 3 => if unsigned then x.vs1 else 0
    | _ => (agX x.a x.i.rs1).toNat
  x.when s (x.groups w ((w, x.vs2) :: x.src1 iw) && x.apart w [x.vs2] && (x.i.f3 != 0 || x.apart w [x.vs1]))
    (x.each s false w fun n => ⟨if idx n < x.c.max then x.e2 w (idx n) else 0, 0, false⟩)
/-- vcompress: the elements that a mask selects, packed. -/
def vCompress (x : VView) (s : State) : State :=
  let w := x.c.sew
  let picked := (List.range x.c.vl).filter fun n => vBit x.a x.vs1 n
  let y : VView := { x with c := { x.c with vl := picked.length } }
  x.when s (!x.masked && x.c.start == 0 && x.groups w [(w, x.vs2)] && x.apart w [x.vs2] && x.vd != x.vs1)
    (if x.c.vl = 0 then x.done s x.a else if picked = [] then
       x.done s (if x.c.ta then (List.range x.c.max).foldl (fun a n => x.agnostic a w x.vd n) x.a else x.a)
     else y.each s true w fun n => ⟨x.e2 w (picked.getD n 0), 0, false⟩)
/-- vmv<n>r: whole registers copied. -/
def vMoveRegs (x : VView) (s : State) : State :=
  let n := x.vs1 + 1
  x.when s (!x.masked && [1, 2, 4, 8].contains n && x.vd % n == 0 && x.vs2 % n == 0)
    (x.done s { x.a with v := (List.range n).foldl (fun m j =>
      let old := (smGet 0 x.a.v (x.vd + j)).toNat
      let new := (smGet 0 x.a.v (x.vs2 + j)).toNat
      let keep := Nat.min 512 (x.c.start * x.c.sew - 512 * j)
      smSet 0 m (x.vd + j) (BitVec.ofNat 512 (new / 2 ^ keep * 2 ^ keep + old % 2 ^ keep))) x.a.v })

/-! ## Reductions -/

/-- A reduction of the active elements of vs2, w bits wide, from element 0 of vs1, dw bits wide, into element 0 of vd. -/
def vReduce (x : VView) (s : State) (w dw : Nat) (f : VRes → Nat → VRes) : State :=
  let start : VRes := ⟨vGet x.a dw x.vs1 0, 0, false⟩
  let r := ((List.range x.c.vl).filter x.active).foldl (fun r n => let t := f r (x.e2 w n); ⟨t.v, r.ff ||| t.ff, false⟩) start
  let tail (a : Agent) : Agent := if x.c.ta then (List.range (512 / dw)).foldl (fun a n => if n = 0 then a else x.agnostic a dw x.vd n) a else a
  x.when s (x.c.start == 0 && groupOk (x.c.emul w) x.vs2 && dw ≤ 64)
    (x.done s (if x.c.vl = 0 then x.a else tail (vAccrue (vPut x.a dw x.vd 0 r.v) r)))

/-! ## OPIVV, OPIVX, OPIVI -/

/-- Whether an operation of these formats has a form: vector, immediate, scalar. -/
def opiForm (f6 f3 : Nat) : Bool :=
  if [0x01, 0x02, 0x04, 0x05, 0x06, 0x07, 0x12, 0x13, 0x1A, 0x1B, 0x22, 0x23].contains f6 then f3 != 3
  else if [0x03, 0x0F, 0x1E, 0x1F].contains f6 then f3 != 0
  else if [0x30, 0x31].contains f6 then f3 == 0 else true

def rvOpi (x : VView) (s : State) : State :=
  let w := x.c.sew
  let f6 := x.f6
  let ci (n : Nat) : Nat := if x.masked && vBit x.a 0 n then 1 else 0
  let shift := [0x14, 0x25, 0x28, 0x29, 0x2A, 0x2B].contains f6
  if !opiForm f6 x.i.f3 then x.bad s
  else if f6 = 0x0C then vGather x s w true
  else if f6 = 0x0E ∧ x.i.f3 = 0 then vGather x s 16 true
  else if f6 = 0x0E then vSlideUp x s (if x.i.f3 = 3 then x.vs1 else (agX x.a x.i.rs1).toNat)
  else if f6 = 0x0F then vSlideDown x s (if x.i.f3 = 3 then x.vs1 else (agX x.a x.i.rs1).toNat)
  else if f6 = 0x10 ∨ f6 = 0x12 then
    x.when s (x.masked && x.groups w ((w, x.vs2) :: x.src1 w))
      (x.each s true w fun n => (viOp w 0 f6 (x.e2 w n) (x.opnd w false n) (ci n)).getD ⟨0, 0, false⟩)
  else if f6 = 0x11 ∨ f6 = 0x13 then
    x.when s (x.maskGroups ((w, x.vs2) :: x.src1 w))
      (x.eachBit s true fun n =>
        let a := x.e2 w n
        let b := x.opnd w false n
        (if f6 = 0x11 then decide (2 ^ w ≤ a + b + ci n) else decide (a < b + ci n), 0))
  else if f6 = 0x17 then
    if x.masked then
      x.when s (x.groups w ((w, x.vs2) :: x.src1 w))
        (x.each s true w fun n => ⟨if vBit x.a 0 n then x.opnd w false n else x.e2 w n, 0, false⟩)
    else x.when s (x.vs2 == 0 && x.groups w (x.src1 w)) (x.each s true w fun n => ⟨x.opnd w false n, 0, false⟩)
  else if 0x18 ≤ f6 ∧ f6 ≤ 0x1F then
    x.when s (x.maskGroups ((w, x.vs2) :: x.src1 w)) (x.eachBit s false fun n => ((vcOp w f6 (x.e2 w n) (x.opnd w false n)).getD false, 0))
  else if f6 = 0x27 ∧ x.i.f3 = 3 then vMoveRegs x s
  else if 0x2C ≤ f6 ∧ f6 ≤ 0x2F then
    x.eachOpt s (x.groups w ((2 * w, x.vs2) :: x.src1 w)) w fun n => vnOp w x.vxrm f6 (x.e2 (2 * w) n) (x.opnd w true n)
  else if f6 = 0x30 ∨ f6 = 0x31 then
    vReduce x s w (2 * w) fun r e => ⟨truncI (r.v + (if f6 = 0x31 then sext e w else (e : Int))) (2 * w), 0, false⟩
  else if f6 = 0x35 then
    x.eachOpt s (w ≤ 32 && x.groups (2 * w) ((w, x.vs2) :: x.src1 w)) (2 * w) fun n =>
      some ⟨x.e2 w n * 2 ^ (x.opnd w true n % (2 * w)), 0, false⟩
  else if (f6 = 0x14 ∨ f6 = 0x15) ∧ x.i.f3 = 3 then
    x.eachOpt s (x.groups w [(w, x.vs2)]) w fun n => viOp w 0 0x14 (x.e2 w n) (f6 % 2 * 32 + x.vs1) 0
  else x.eachOpt s (x.groups w ((w, x.vs2) :: x.src1 w)) w fun n => viOp w x.vxrm f6 (x.e2 w n) (x.opnd w shift n) 0

/-! ## OPMVV, OPMVX -/

/-- The unary operations: extensions from a fraction of the width, and those of Zvbb. -/
def vUnary (x : VView) (s : State) : State :=
  let w := x.c.sew
  let kind := x.vs1
  if 2 ≤ kind ∧ kind ≤ 7 then
    let k := 2 ^ (4 - kind / 2)
    x.eachOpt s (8 * k ≤ w && x.groups w [(w / k, x.vs2)]) w fun n =>
      let e := x.e2 (w / k) n
      some ⟨if kind % 2 = 1 then truncI (sext e (w / k)) w else e, 0, false⟩
  else x.eachOpt s (x.groups w [(w, x.vs2)]) w fun n => (vuOp w kind (x.e2 w n)).map fun v => ⟨v, 0, false⟩
/-- The mask operations of one source: set before, including, only the first; iota and index. -/
def vMaskUnary (x : VView) (s : State) : State :=
  let w := x.c.sew
  let act := (List.range x.c.vl).filter x.active
  let first := (act.find? fun n => vBit x.a x.vs2 n).getD x.c.vl
  let below (n : Nat) : Nat := ((act.filter fun m => decide (m < n)).filter fun m => vBit x.a x.vs2 m).length
  let maskOk := x.c.start == 0 && x.vd != x.vs2 && !(x.masked && x.vd == 0)
  match x.vs1 with
  | 1 => x.when s maskOk (x.eachBit s false fun n => (decide (n < first), 0))
  | 2 => x.when s maskOk (x.eachBit s false fun n => (n == first, 0))
  | 3 => x.when s maskOk (x.eachBit s false fun n => (decide (n ≤ first), 0))
  | 16 => x.when s (x.c.start == 0 && x.groups w [] && x.apart w [x.vs2]) (x.each s false w fun n => ⟨below n, 0, false⟩)
  | 17 => x.when s (x.vs2 == 0 && x.groups w []) (x.each s false w fun n => ⟨n, 0, false⟩)
  | _ => x.bad s
/-- Two masks combined: and-not, and, or, exclusive or, or-not, and their complements. -/
def maskOp (f6 : Nat) (a b : Bool) : Bool :=
  match f6 with
  | 0x18 => a && !b
  | 0x19 => a && b
  | 0x1A => a || b
  | 0x1B => xor a b
  | 0x1C => a || !b
  | 0x1D => !(a && b)
  | 0x1E => !(a || b)
  | _ => !(xor a b)
/-- Scalars from vectors: element 0, a count of mask bits, the first of them; and a scalar into element 0. -/
def vToScalar (x : VView) (s : State) : State :=
  let w := x.c.sew
  let act := ((List.range x.c.vl).filter x.active).filter fun n => vBit x.a x.vs2 n
  let give (v : Word) : State := x.done s (setAgX x.a x.i.rd v)
  match x.vs1 with
  | 0 => x.when s (!x.masked) (give (wordI (sext (x.e2 w 0) w)))
  | 16 => x.when s (x.c.start == 0) (give (word act.length))
  | 17 => x.when s (x.c.start == 0) (give (match act.head? with | some n => word n | none => wordI (-1)))
  | _ => x.bad s
/-- A scalar into element 0, when the vector has one. -/
def vFromScalar (x : VView) (s : State) (v : Nat) : State :=
  let w := x.c.sew
  let tail (a : Agent) : Agent := if x.c.ta then (List.range (512 / w)).foldl (fun a n => if n = 0 then a else x.agnostic a w x.vd n) a else a
  x.when s (!x.masked && x.vs2 == 0) (x.done s (if x.c.start < x.c.vl then tail (vPut x.a w x.vd 0 v) else x.a))

def rvOpm (x : VView) (s : State) : State :=
  let w := x.c.sew
  let f6 := x.f6
  let vv := x.i.f3 == 2
  let b (n : Nat) : Nat := x.opnd w false n
  if f6 < 8 then (if vv then vReduce x s w w fun r e => ⟨vrOp w f6 r.v e, 0, false⟩ else x.bad s)
  else if f6 < 0x0C then x.eachOpt s (x.groups w ((w, x.vs2) :: x.src1 w)) w fun n => vmOp w x.vxrm f6 (x.e2 w n) (b n) 0
  else if f6 = 0x0E ∨ f6 = 0x0F then (if vv then x.bad s else vSlide1 x s (f6 == 0x0E) (b 0))
  else if f6 = 0x10 then (if vv then vToScalar x s else vFromScalar x s (b 0))
  else if f6 = 0x12 then (if vv then vUnary x s else x.bad s)
  else if f6 = 0x14 then (if vv then vMaskUnary x s else x.bad s)
  else if f6 = 0x17 then (if vv then vCompress x s else x.bad s)
  else if 0x18 ≤ f6 ∧ f6 ≤ 0x1F then
    x.when s (vv && !x.masked) (x.eachBit s true fun n => (maskOp f6 (vBit x.a x.vs2 n) (vBit x.a x.vs1 n), 0))
  else if f6 < 0x30 then x.eachOpt s (x.groups w ((w, x.vs2) :: x.src1 w)) w fun n => vmOp w x.vxrm f6 (x.e2 w n) (b n) (x.ed w n)
  else if vv ∧ f6 = 0x3E then x.bad s
  else
    let aw := if 0x34 ≤ f6 ∧ f6 ≤ 0x37 then 2 * w else w
    x.eachOpt s (w ≤ 32 && x.groups (2 * w) ((aw, x.vs2) :: x.src1 w)) (2 * w) fun n =>
      (vwOp w f6 (x.e2 aw n) (b n) (x.ed (2 * w) n)).map fun v => ⟨truncI v (2 * w), 0, false⟩

/-! ## OPFVV, OPFVF -/

/-- The conversions: at one width, widening, narrowing. -/
def vConvert (x : VView) (s : State) (m : RM) : State :=
  let w := x.c.sew
  let kind := x.vs1 % 8
  let sw := if x.vs1 / 8 = 2 then 2 * w else w
  let dw := if x.vs1 / 8 = 1 then 2 * w else w
  let fromF := kind != 2 && kind != 3
  let toF := kind == 2 || kind == 3 || kind == 4 || kind == 5
  let m := if 6 ≤ kind then .rtz else m
  let odd := x.vs1 == 0x15
  let exists' := x.vs1 < 24 && (kind != 5 || odd) && (kind != 4 || 8 ≤ x.vs1)
  -- half precision converts to and from single precision only (Zvfhmin)
  let sizes := (!fromF || decide (32 ≤ sw) || (kind == 4 && sw == 16)) && (!toF || decide (32 ≤ dw) || (4 ≤ kind && dw == 16)) && sw ≤ 64 && dw ≤ 64
  x.eachOpt s (exists' && sizes && x.groups dw [(sw, x.vs2)]) dw fun n =>
    vfConvert sw dw fromF toF (kind % 2 == 1) odd m (x.e2 sw n)
/-- The unary operations: square root, the seven-bit estimates, the class. -/
def vFloatUnary (x : VView) (s : State) (f : Fmt) (m : RM) : State :=
  let w := x.c.sew
  x.eachOpt s (x.groups w [(w, x.vs2)]) w fun n =>
    let a := x.e2 w n
    match x.vs1 with
    | 0 => let r := sqrtF (decodeF f a); let q := rvRound f m r.1 (r.2 ||| snanFlag f [a]); some ⟨q.1, q.2, false⟩
    | 4 => some (vfrsqrt7 f a)
    | 5 => some (vfrec7 f m a)
    | 16 => some ⟨rvClass f a, 0, false⟩
    | _ => none

def rvOpf (x : VView) (s : State) : State :=
  let w := x.c.sew
  let f6 := x.f6
  let vv := x.i.f3 == 1
  match rvRm x.a 7, (if w = 32 ∨ w = 64 then fmtSew w else none) with
  | none, _ => x.bad s
  | some m, none => if f6 = 0x12 ∧ vv then vConvert x s m else x.bad s
  | some m, some f =>
    let b (n : Nat) : Nat := x.opnd w false n
    let sum (r : VRes) (e : Nat) : VRes := vfBin f m 0 (vfArg f r.v) (vfArg f e)
    let wide (r : VRes) (e : Nat) : VRes := vfBin f64 m 0 (vfArg f64 r.v) (vfArg f e)
    let pick (max : Bool) (r : VRes) (e : Nat) : VRes := let q := rvMinMax f max false r.v e; ⟨q.1, q.2, false⟩
    if (f6 = 0x01 ∨ f6 = 0x03) ∧ vv then vReduce x s w w sum
    else if f6 = 0x05 ∧ vv then vReduce x s w w (pick false)
    else if f6 = 0x07 ∧ vv then vReduce x s w w (pick true)
    else if (f6 = 0x31 ∨ f6 = 0x33) ∧ vv then (if w = 32 then vReduce x s w 64 wide else x.bad s)
    else if (f6 = 0x0E ∨ f6 = 0x0F) ∧ !vv then vSlide1 x s (f6 == 0x0E) (b 0)
    else if f6 = 0x10 then
      if vv then x.when s (!x.masked && x.vs1 == 0)
        (x.done s (fsDirty { x.a with f := smSet 0 x.a.f x.i.rd (boxed f (x.e2 w 0)) }))
      else vFromScalar x s (b 0)
    else if f6 = 0x12 ∧ vv then vConvert x s m
    else if f6 = 0x13 ∧ vv then vFloatUnary x s f m
    else if f6 = 0x17 ∧ !vv then
      if x.masked then x.when s (x.groups w [(w, x.vs2)]) (x.each s true w fun n => ⟨if vBit x.a 0 n then b n else x.e2 w n, 0, false⟩)
      else x.when s (x.vs2 == 0 && x.groups w []) (x.each s true w fun n => ⟨b n, 0, false⟩)
    else if 0x18 ≤ f6 ∧ f6 ≤ 0x1F then
      x.when s ((vfcOp f f6 0 0).isSome && !(vv && (f6 == 0x1D || f6 == 0x1F)) && x.maskGroups ((w, x.vs2) :: x.src1 w))
        (x.eachBit s false fun n => (vfcOp f f6 (x.e2 w n) (b n)).getD (false, 0))
    else if 0x30 ≤ f6 then
      let aw := if 0x34 ≤ f6 ∧ f6 ≤ 0x37 then 64 else 32
      x.eachOpt s (w == 32 && x.groups 64 ((aw, x.vs2) :: x.src1 32)) 64 fun n => vfwOp f f64 m f6 (x.e2 aw n) (b n) (x.ed 64 n)
    else
      x.eachOpt s (!(vv && (f6 == 0x21 || f6 == 0x27)) && x.groups w ((w, x.vs2) :: x.src1 w)) w fun n =>
        vfOp f m f6 (x.e2 w n) (b n) (x.ed w n)

/-! ## Loads and stores -/

/-- One element's access: the element, its virtual address, its register, its place in the group. -/
structure VElem where
  idx : Nat
  va : Nat
  reg : Nat
  slot : Nat
  deriving DecidableEq, Repr

/-- Whether an access of core k would take an exception. -/
def coreFaults (s : State) (k : Nat) (acc : CoreAcc) (va n : Nat) : Bool :=
  match (partOfCore s k).bind fun pnum => (partAt s pnum).map fun p => (pnum, p) with
  | none => false
  | some (pnum, p) =>
    match agentCheckAs s (agentAt s k) pnum p acc (maskPtr (agentAt s k) acc va) n with
    | .trap _ => true
    | .ok pas _ => (coreError s k pnum pas false).isSome
    | .wait _ => false

/-- The end of a vector load or store. -/
def VView.end' (x : VView) (s : State) : State := modAgent s x.i.k fun a => retire (setCsr (vsDirty a) 8 0) x.i.len
/-- The agnostic elements of a load. -/
def VView.loose (x : VView) (s : State) (w : Nat) (es : List VElem) : State :=
  modAgent s x.i.k fun a => es.foldl (fun a e => x.agnostic a w e.reg e.slot) a
/-- Elements of w bits loaded in order; vstart tells a handler, and the next try, where it stands. A fault-only-first load that
faults beyond element 0 ends with vl there. -/
def vLoadElems (x : VView) (w : Nat) (ff : Bool) (loose : List VElem) : List VElem → State → State
  | [], s => x.end' (x.loose s w loose)
  | e :: es, s =>
    let s := modAgent s x.i.k fun a => setCsr a 8 (word e.idx)
    if ff && e.idx != 0 && coreFaults s x.i.k (dataAcc (agentAt s x.i.k) 1) e.va (w / 8) then
      x.end' (x.loose (modAgent s x.i.k fun a => setCsr a 0xC20 (word e.idx)) w loose)
    else coreLoad s x.i.k e.va (w / 8) fun s v => vLoadElems x w ff loose es (modAgent s x.i.k fun a => vPut a w e.reg e.slot v)
/-- Elements of w bits stored in order. -/
def vStoreElems (x : VView) (w : Nat) : List VElem → State → State
  | [], s => x.end' s
  | e :: es, s =>
    let s := modAgent s x.i.k fun a => setCsr a 8 (word e.idx)
    coreSave s x.i.k e.va (w / 8) (vGet (agentAt s x.i.k) w e.reg e.slot) fun s => vStoreElems x w es s
/-- Loaded or stored. -/
def vMemElems (x : VView) (s : State) (load ff : Bool) (w : Nat) (loose es : List VElem) : State :=
  if load then vLoadElems x w ff loose es s else vStoreElems x w es s

/-- The elements of nf fields, from vstart to evl, active, at the addresses that `at'` gives. -/
def vElems (x : VView) (evl nf regs : Nat) (at' : Nat → Nat → Nat) : List VElem :=
  ((List.range evl).filter fun n => decide (x.c.start ≤ n) && x.active n).flatMap fun n =>
    (List.range nf).map fun f => ⟨n, at' n f % 2 ^ 64, x.vd + f * regs, n⟩

/-- The agnostic elements of nf fields: the tail, and those masked off. -/
def vLoose (x : VView) (w evl nf regs : Nat) : List VElem :=
  ((List.range (512 * regs / w)).filter fun n => if n < evl then x.c.ma && !x.active n && decide (x.c.start ≤ n) else x.c.ta).flatMap fun n =>
    (List.range nf).map fun f => ⟨n, 0, x.vd + f * regs, n⟩

/-- The vector loads and stores: unit-stride, strided, indexed, of segments, of masks, of whole registers. -/
def rvVecMem (x : VView) (s : State) (load : Bool) : State :=
  let eew := match x.i.f3 with | 0 => 8 | 5 => 16 | 6 => 32 | _ => 64
  let nf := bits x.i.w 31 29 + 1
  let mop := bits x.i.w 27 26
  let base := (x.i.x1 s).toNat
  let c := x.c
  if bit x.i.w 28 then x.bad s
  else if mop = 1 ∨ mop = 3 then
    let w := c.sew
    let regs := groupRegs c.lmul
    x.when s (groupOk (c.emul eew) x.vs2 && x.vd % regs == 0 && nf * regs ≤ 8 && x.vd + nf * regs ≤ 32 && !(load && x.masked && x.vd == 0) &&
        (!load || nf == 1 && overlapOk w c.lmul eew ((c.emul eew).getD 3) x.vd x.vs2 ||
          decide (x.vd + nf * regs ≤ x.vs2) || decide (x.vs2 + groupRegs ((c.emul eew).getD 3) ≤ x.vd)))
      (vMemElems x s load false w (vLoose x w c.vl nf regs) (vElems x c.vl nf regs fun n f => base + vGet x.a eew x.vs2 n + f * (w / 8)))
  else
    let regs := groupRegs ((c.emul eew).getD 3)
    let ok := groupOk (c.emul eew) x.vd && nf * regs ≤ 8 && x.vd + nf * regs ≤ 32 && !(load && x.masked && x.vd == 0)
    let loose := vLoose x eew c.vl nf regs
    if mop = 2 then
      let stride := (x.i.x2 s).toNat
      x.when s ok (vMemElems x s load false eew loose (vElems x c.vl nf regs fun n f => base + n * stride + f * (eew / 8)))
    else if x.vs2 = 0 ∨ (load ∧ x.vs2 = 16) then
      x.when s ok (vMemElems x s load (x.vs2 == 16) eew loose (vElems x c.vl nf regs fun n f => base + (n * nf + f) * (eew / 8)))
    else if x.vs2 = 11 then
      x.when s (eew == 8 && nf == 1 && !x.masked)
        (vMemElems x s load false 8 (vLoose { x with c := { c with ta := true } } 8 ((c.vl + 7) / 8) 1 1) (vElems x ((c.vl + 7) / 8) 1 1 fun n _ => base + n))
    else if x.vs2 = 8 then
      x.when s (!x.masked && [1, 2, 4, 8].contains nf && x.vd % nf == 0 && (load || eew == 8))
        (vMemElems x s load false eew [] (vElems x (512 * nf / eew) 1 1 fun n _ => base + n * (eew / 8)))
    else x.bad s

/-- Whether an instruction moves whole registers, which the configuration does not matter to. -/
def wholeRegs (i : Rv) : Bool := i.op != 0x57 && bits i.w 27 26 == 0 && i.rs2 == 8

/-- The vector instructions; none for another unit's. -/
def rvVector (i : Rv) (s : State) : Option State :=
  let a := agentAt s i.k
  let mem := (i.op == 0x07 || i.op == 0x27) && (i.f3 == 0 || 5 ≤ i.f3)
  if i.op ≠ 0x57 ∧ !mem then none
  else if vecOff a then some (i.illegal s)
  else if i.op = 0x57 ∧ i.f3 = 7 then some (rvVset i s)
  else
    match (vcfgOf a).or (if wholeRegs i then some ⟨8, 3, false, false, 0, (csrAt a 8).toNat⟩ else none) with
    | none => some (i.illegal s)
    | some c =>
      let x : VView := ⟨i, a, c, s.freeCount⟩
      some <|
        if mem then rvVecMem x s (i.op == 0x07)
        else
          match i.f3 with
          | 0 | 3 | 4 => rvOpi x s
          | 2 | 6 => rvOpm x s
          | _ => if fpOff a then i.illegal s else rvOpf x s

end Sys2Proof.Machine
end

