-- ==== Sys2Proof/Machine/RvRun.lean ====
section
/-! DEFINITION. An agent core's fetch (R202, R352) and the instructions of its base set (R348): every word that is no Xmerf
instruction. -/
namespace Sys2Proof.Machine

/-- What a fetch comes to: an exception, home lines to wait for, or the bits, their length in bytes, and where they stand. -/
inductive CoreWord
  | trap (e : Exc)
  | wait (homes : List Nat)
  | word (w len : Nat) (pas : List Nat) (reads : List Loc)
  deriving DecidableEq, Repr

/-- R202: a byte as a fetch finds it: of memory, or of a line that the core has held since before its last `FENCE.I`, word by
word (log entry 88). -/
def codeByte (s : State) (a : Agent) (pa : Nat) : Byte :=
  match smFind a.icode (pa / 128) with
  | some bs => if Config.stale s.freeCount (pa / 4) then bs.getD (pa % 128) 0 else memByte s pa
  | none => memByte s pa

/-- One parcel of 16 bits: checked as a fetch, its lines' leases and errors included. -/
def coreParcel (s : State) (k va : Nat) : CoreWord :=
  let a := agentAt s k
  match (partOfCore s k).bind fun pnum => (partAt s pnum).map fun p => (pnum, p) with
  | none => .trap { cause := 1, tval := va }
  | some (pnum, p) =>
    match agentCheck s a pnum p va 2 4 with
    | .trap e => .trap e
    | .wait hs => .wait hs
    | .ok pas walked =>
      let e : Exc := { cause := 1, tval := va, gva := a.mode.virt, reads := walked }
      let hs := (pas.map (· / 128)).eraseDups.filter fun l => lineConflict s (fun _ _ => false) l false || l2Bad s (some k) l
      if pas.any fun x => (controlOffset s pnum x).isSome then .trap e
      else if hs ≠ [] then .wait hs
      else if (locError s (memLocs pas) false).isSome || (l2Error a pas false).isSome then .trap e
      else .word (leNat (pas.map (codeByte s a))) 2 pas (walked ++ memLocs pas)

/-- R352: the next instruction of core k: one parcel, or two where its low bits are 3. -/
def coreFetch (s : State) (k : Nat) : CoreWord :=
  let pc := (agentAt s k).pc.toNat
  match coreParcel s k pc with
  | .word lo _ ps r =>
    if lo % 4 ≠ 3 then .word lo 2 ps r
    else
      match coreParcel s k ((pc + 2) % 2 ^ 64) with
      | .word hi _ qs q => .word (lo + 2 ^ 16 * hi) 4 (ps ++ qs) (r ++ q)
      | .trap e => .trap { e with reads := r ++ e.reads }
      | x => x
  | r => r

/-- R202: core k after a fetch: it holds the lines and the translation, and waits for nothing. -/
def fetched (s : State) (k : Nat) (pas : List Nat) : State :=
  let s := noteCode (setWants s (coreKey k) []) k pas
  match (partOfCore s k).bind fun pnum => (partAt s pnum).map fun p => (pnum, p) with
  | none => s
  | some (pnum, p) => noteWalk s k pnum p ((agentAt s k).mode.acc 4) (agentAt s k).pc.toNat 4

/-- R348: an instruction of the base set of core k. -/
def rvRun (i : Rv) (s : State) : State :=
  match rvInteger i s with
  | some t => t
  | none =>
    match rvFloat i s with
    | some t => t
    | none =>
      match rvVector i s with
      | some t => t
      | none => i.illegal s
/-- R348: the same from the bits fetched: 16 of them in their 32-bit form. -/
def rvWord (k w len : Nat) (s : State) : State :=
  if len = 4 then rvRun ⟨k, w, 4, w⟩ s
  else
    match expandC w with
    | some x => rvRun ⟨k, x, 2, w⟩ s
    | none => coreTrap s k { cause := 2, tval := w }

end Sys2Proof.Machine
end

