-- ==== Sys2Proof/Machine/Xmerf.lean ====
section
/-! DEFINITION. The Xmerf instructions (R354 to R363), the step of an agent core that fetches them, and UEC_COMPLETION (R428). -/
namespace Sys2Proof.Machine

/-! ## An Xmerf instruction -/

/-- What an Xmerf instruction reads: its core, the core's registers, its partition, the values of rs1 and rs2. -/
structure XView where
  k : Nat
  a : Agent
  pnum : Nat
  p : Part
  r1 : Nat
  r2 : Nat

/-- What an Xmerf instruction comes to: a value for rd, an exception with nothing changed, or home lines to wait for (R194). -/
inductive XRes
  | done (s : State) (rd : Word)
  | trap (s : State) (e : Exc)
  | wait (s : State) (homes : List Nat)

/-- R354: whether the mode of a core admits an instruction whose enable is a bit of xfuten, if any. -/
def xEnabled (a : Agent) (en : Option Nat) : Bool :=
  match a.mode with
  | .M | .HS => true
  | _ =>
    match en with
    | some i => a.xfuten.getLsbD i
    | none => false

/-- R354, R355: an Xmerf instruction of the current core: the exception of a mode that does not admit it, or its effect; it
retires when the Chuck has answered. -/
def xmerf (f7 : BitVec 7) (en : Option Nat) (f : RTy) (body : XView → State → XRes) (s : State) : Host.Outcome State Fault Refusal :=
  let k := s.curCore
  needUnit s k <| .next <|
    let a := agentAt s k
    match (partOfCore s k).bind fun pnum => (partAt s pnum).map fun p => (pnum, p) with
    | none => s
    | some (pnum, p) =>
      if !xEnabled a en then modAgent s k fun a => illegalFor a (f.pack f7).toNat
      else
        match body ⟨k, a, pnum, p, (agX a f.rs1.toNat).toNat, (agX a f.rs2.toNat).toNat⟩ s with
        | .done s w => coreDone s k f.rd.toNat w
        | .trap s e => coreTrap s k e
        | .wait s hs => setWants s (coreKey k) hs

/-- R352, R355: a buffer of n bytes translated and checked: it lies in memory or in the partition's control block (R421), and no
lease stands against it. -/
def withBuf (v : XView) (s : State) (va n need : Nat) (k : State → List Nat → XRes) : XRes :=
  if n = 0 then k s []
  else
    match agentCheck s v.a v.pnum v.p va n need with
    | .trap e => .trap s e
    | .wait hs => .wait s hs
    | .ok pas walked =>
      match coreHolds s v.k v.pnum pas (bit need 1) with
      | [] => k (correct s walked) pas
      | hs => .wait s hs

/-- R405: the bytes of a buffer as the Chuck or the core reads them, none of them in a word with an uncorrectable error. -/
def readBuf (v : XView) (s : State) (va : Nat) (pas : List Nat) (k : State → List Byte → XRes) : XRes :=
  match coreError s v.k v.pnum pas false with
  | some i => .trap s { cause := 5, tval := byteVa va i, reads := memLocs (memoryOf s v.pnum (pas.take i)) }
  | none => k (correct s (memLocs (memoryOf s v.pnum pas))) (coreBytes s ⟨v.pnum, v.p, pas⟩)
/-- R405: a buffer written whole, unless a word that it covers in part has an uncorrectable error. -/
def writeBuf (v : XView) (s : State) (va : Nat) (pas : List Nat) (bs : List Byte) (k : State → XRes) : XRes :=
  match coreError s v.k v.pnum pas true with
  | some i => .trap s { cause := 7, tval := byteVa va i, reads := memLocs (memoryOf s v.pnum (pas.take i)) }
  | none => k (coreStore s v.k ⟨v.pnum, v.p, pas⟩ bs)

/-- R354: a status: 12 is BADARG. -/
def badArg (s : State) : XRes := .done s 12

/-! ## Futures (R356 to R359) -/

/-- R356: the oldest open call of a partition that a filter admits. -/
def findCall (s : State) (p : Part) (ft : Nat) (any : Bool) : Option (Call × Fut) :=
  p.tools.findSome? fun c =>
    match futAt s c.future with
    | some f => if f.st = .opened ∧ (any ∨ c.tool = ft) then some (c, f) else none
    | none => none

/-- R356: the descriptor of a call. -/
def callDesc (i : Nat) (f : Fut) : List Byte :=
  leBytes 8 (futHandle f.part i).toNat ++ leBytes 8 f.tag.toNat ++ leBytes 8 f.deadline ++
  leBytes 8 (f.tool % 2 ^ 16 + (match f.seq with | some n => 2 ^ 16 + n * 2 ^ 32 | none => 0)) ++
  leBytes 8 f.arga.toNat ++ leBytes 8 f.argl.toNat ++ leBytes 8 f.rpla.toNat ++ leBytes 8 f.rplc.toNat

/-- R356: fut.take. -/
def futTake (v : XView) (s : State) : XRes :=
  if v.r1 % 64 ≠ 0 ∨ bits v.r2 62 16 ≠ 0 then badArg s
  else
    withBuf v s v.r1 64 2 fun s pas =>
      match findCall s v.p (bits v.r2 15 0) (bit v.r2 63) with
      | none => .done s 7
      | some (c, f) =>
        writeBuf v s v.r1 pas (callDesc c.future f) fun s =>
          let s := dropCall s v.pnum c.future
          .done { s with futs := smIns s.futs c.future { f with st := .taken v.k } } 0
def execFutTake (f : RTy) (s : State) : Host.Outcome State Fault Refusal := xmerf 0 (some 0) f futTake s

/-- R357: the future, not ended, that a handle and a TAG of a partition name. -/
def matchFut (s : State) (pnum : Nat) (h tag : Nat) : Option (Nat × Fut) :=
  let i := handleIndex (word h)
  if 2 ^ 20 ≤ h ∨ handlePart (word h) ≠ pnum then none
  else
    match futAt s i with
    | some f => if f.alive ∧ f.part = pnum ∧ f.tag.toNat = tag then some (i, f) else none
    | none => none

/-- R357: NTOK within its limits: reply tokens only for a sequence call. -/
def ntokOk (f : Fut) (ntok : Nat) : Bool := if f.seq.isSome then decide (ntok ≤ 65536) else ntok == 0

/-- Bytes as 32-bit tokens. -/
def tokensOf (bs : List Byte) : List Lane := (chunks 4 (bs.length / 4) bs).map fun x => BitVec.ofNat 32 (leNat x)

/-- R357: fut.done. A count that no call admits is BADARG at once; one that this future does not admit, when it is found. -/
def futDone (v : XView) (s : State) : XRes :=
  if v.r2 % 16 ≠ 0 then badArg s
  else
    withBuf v s v.r2 24 1 fun s pas =>
      readBuf v s v.r2 pas fun s bs =>
        let tag := dwordAt bs 0
        let ntok := dwordAt bs 1
        let taddr := dwordAt bs 2
        if 2 ^ 48 ≤ tag ∨ 65536 < ntok ∨ taddr % 4 ≠ 0 then badArg s
        else
          withBuf v s taddr (4 * ntok) 1 fun s tps =>
            readBuf v s taddr tps fun s tb =>
              match matchFut s v.pnum v.r1 tag with
              | none => .done s 3
              | some (i, f) => if ntokOk f ntok then .done (endFut s i f 0 (tokensOf tb)) 0 else badArg s
def execFutDone (f : RTy) (s : State) : Host.Outcome State Fault Refusal := xmerf 1 (some 1) f futDone s

/-- R358: fut.fail: the failure string. -/
def futFail (v : XView) (s : State) : XRes :=
  if 2 ^ 48 ≤ v.r2 then badArg s
  else
    match matchFut s v.pnum v.r1 v.r2 with
    | none => .done s 3
    | some (i, f) => .done (endFut s i f 9 v.p.fstring) 0
def execFutFail (f : RTy) (s : State) : Host.Outcome State Fault Refusal := xmerf 2 (some 2) f futFail s

/-- R359: fut.ext. -/
def futExt (v : XView) (s : State) : XRes :=
  let ext := bits v.r2 63 48
  if ext = 0 then badArg s
  else
    match matchFut s v.pnum v.r1 (bits v.r2 47 0) with
    | none => .done s 3
    | some (i, f) =>
      if f.st ≠ .taken v.k then .done s 2
      else
        let want := s.time + 1000 * ext
        let cap := f.openedAt + v.p.xmax
        let dl := Nat.max f.deadline (Nat.min want cap)
        .done { s with futs := smIns s.futs i { f with deadline := dl } } (if cap < want then 1 else 0)
def execFutExt (f : RTy) (s : State) : Host.Outcome State Fault Refusal := xmerf 3 (some 3) f futExt s

/-! ## Sequences (R360, R361) -/

/-- R360: the code of a sequence's state. -/
def seqCode (q : Option Seq) : Nat :=
  match q with
  | none => 0
  | some q =>
    match q.st with
    | .ready => 1 | .prefill => 2 | .calling => 3 | .absent => 4 | .retired => 5

/-- R334, R360: the KV root of a sequence: the address of its entry of the root table, 0 where there is no table. -/
def kvRootOf (p : Part) (n : Nat) : Nat := if p.kvrt = 0 then 0 else p.kvrt + 8 * n

/-- R360: the entry as written. -/
def peekBytes (s : State) (p : Part) (n : Nat) : List Byte :=
  match seqAt s n with
  | none => leBytes 64 0
  | some q =>
    let call := q.fut.bind fun i => (futAt s i).map fun f => ((futHandle f.part i).toNat, f.deadline)
    leBytes 8 (seqCode (some q) + (if q.holder.isSome then 8 else 0) + (if q.trunc then 16 else 0) +
      (if q.adapter.isSome then 32 else 0) + q.adapter.getD 0 % 2 ^ 14 * 64 + q.tenant % 2 ^ 16 * 2 ^ 32) ++
    leBytes 8 (kvRootOf p n) ++ leBytes 8 (q.pos % 2 ^ 24 + npfOf q.pf.count * 2 ^ 24) ++ leBytes 8 (q.out.count % 2 ^ 32) ++
    leBytes 8 ((call.map (·.1)).getD 0) ++ leBytes 8 ((call.map (·.2)).getD 0) ++ leBytes 16 0

/-- R360: sq.peek. -/
def sqPeek (v : XView) (s : State) : XRes :=
  if 2 ^ 20 ≤ v.r1 ∨ v.r2 % 64 ≠ 0 then badArg s
  else
    withBuf v s v.r2 64 2 fun s pas =>
      if !ownsSeq v.p v.r1 then .done s 5
      else
        writeBuf v s v.r2 pas (peekBytes s v.p v.r1) fun s => .done s 0
def execSqPeek (f : RTy) (s : State) : Host.Outcome State Fault Refusal := xmerf 4 (some 4) f sqPeek s

/-- R361: FN, OBJ, and whether the other bits of rs1 are 0. -/
def ctlFn (v : XView) : Nat := bits v.r1 3 0
def ctlObj (v : XView) : Nat := bits v.r1 51 32
def ctlOk (v : XView) : Bool := bits v.r1 31 4 == 0 && bits v.r1 63 52 == 0

/-- R361: the block of a function, read. -/
def withBlock (v : XView) (s : State) (n : Nat) (k : State → List Byte → XRes) : XRes :=
  if v.r2 % 64 ≠ 0 then badArg s else withBuf v s v.r2 n 1 fun s pas => readBuf v s v.r2 pas k

/-- R361: a function of `sq.ctl` whose FN rs1 gives, on a sequence of the partition. A function that takes no block has rs2
0. -/
def sqCtl (fn : Nat) (block : Bool) (v : XView) (s : State) (k : Nat → XRes) : XRes :=
  if ctlFn v ≠ fn ∨ !ctlOk v ∨ (!block ∧ v.r2 ≠ 0) ∨ (block ∧ v.r2 % 64 ≠ 0) then badArg s
  else if !ownsSeq v.p (ctlObj v) then .done s 5
  else k (ctlObj v)

/-- R361: a queue's base and capacity within their limits. -/
def queueOk (base cap : Nat) : Bool := base % 4 == 0 && decide (1 ≤ cap) && decide (cap ≤ 2 ^ 24)

/-- R361: CREATE's entry from its block, none when it is out of its limits. -/
def createSeq (pnum : Nat) (b : List Byte) : Option Seq :=
  let d (i : Nat) : Nat := dwordAt b i
  if bits (d 0) 63 32 ≠ 0 ∨ bit (d 0) 15 ∨ !queueOk (d 1) (d 2) ∨ !queueOk (d 3) (d 4) ∨ 2 ^ 24 ≤ d 5 then none
  else
    some { st := .ready, part := pnum, adapter := if bit (d 0) 14 then some (bits (d 0) 13 0) else none
           tenant := bits (d 0) 31 16, pf := ⟨d 1, d 2, 0, 0⟩, out := ⟨d 3, d 4, 0, 0⟩, fut := none, holder := none
           trunc := false, pos := d 5, age := 0, retiring := false }

/-- R361: CREATE. -/
def sqCreate (v : XView) (s : State) : XRes :=
  sqCtl 0 true v s fun n =>
    withBlock v s 48 fun s b =>
      match createSeq v.pnum b with
      | none => badArg s
      | some q =>
        if q.adapter.any fun a => !ownsAdapter v.p a then .done s 5
        else if (seqAt s n).isSome then .done s 2
        else .done (moveSeq s n q .ready) 0
/-- R361: an FN of 6 to 15 gives BADARG. -/
def execSqCtlCreate (f : RTy) (s : State) : Host.Outcome State Fault Refusal := xmerf 5 none f sqCreate s

/-- R361: RETIRE. -/
def sqRetire (v : XView) (s : State) : XRes :=
  sqCtl 1 false v s fun n =>
    match seqAt s n with
    | none => .done s 2
    | some q => if q.st = .retired then .done s 2 else .done (retireSeq s n q) 0
def execSqCtlRetire (f : RTy) (s : State) : Host.Outcome State Fault Refusal := xmerf 5 none f sqRetire s

/-- R361: FREE. -/
def sqFree (v : XView) (s : State) : XRes :=
  sqCtl 2 false v s fun n =>
    match seqAt s n with
    | some q => if q.st = .retired then .done { s with seqs := smDel s.seqs n } 0 else .done s 2
    | none => .done s 2
def execSqCtlFree (f : RTy) (s : State) : Host.Outcome State Fault Refusal := xmerf 5 none f sqFree s

/-- R361: ADPRES: an adapter is resident, its sequences that wait for it go to the fill state. -/
def sqAdpres (v : XView) (s : State) : XRes :=
  let a := ctlObj v
  if ctlFn v ≠ 3 ∨ !ctlOk v ∨ v.r2 ≠ 0 then badArg s
  else if !ownsAdapter v.p a then .done s 5
  else
    let s := { s with resident := if s.resident.contains a then s.resident else s.resident ++ [a] }
    .done (s.seqs.foldl (fun s e =>
      if e.2.part = v.pnum ∧ e.2.st = .absent ∧ e.2.adapter = some a then moveSeq s e.1 e.2 e.2.fill else s) s) 0
def execSqCtlAdpres (f : RTy) (s : State) : Host.Outcome State Fault Refusal := xmerf 5 none f sqAdpres s

/-- R361: PUSH. -/
def sqPush (v : XView) (s : State) : XRes :=
  sqCtl 4 true v s fun n =>
    withBlock v s 16 fun s b =>
      let ntok := dwordAt b 0
      let taddr := dwordAt b 1
      if ntok = 0 ∨ 65536 < ntok ∨ taddr % 4 ≠ 0 then badArg s
      else
        withBuf v s taddr (4 * ntok) 1 fun s tps =>
          readBuf v s taddr tps fun s tb =>
            match seqAt s n with
            | some q =>
              if (q.st = .ready ∨ q.st = .prefill) ∧ q.holder = none then
                let (s, q) := feedSeq s n q (tokensOf tb)
                .done (if q.st = q.fill then s else moveSeq s n q q.fill) 0
              else .done s 2
            | none => .done s 2
def execSqCtlPush (f : RTy) (s : State) : Host.Outcome State Fault Refusal := xmerf 5 none f sqPush s

/-- R361: OUTACK. -/
def sqOutack (v : XView) (s : State) : XRes :=
  sqCtl 5 true v s fun n =>
    withBlock v s 8 fun s b =>
      let nack := dwordAt b 0
      if nack = 0 ∨ 2 ^ 24 < nack then badArg s
      else
        match seqAt s n with
        | some q => if q.out.count < nack then badArg s else .done (setSeq s n { q with out := q.out.dropN nack }) 0
        | none => .done s 2
def execSqCtlOutack (f : RTy) (s : State) : Host.Outcome State Fault Refusal := xmerf 5 none f sqOutack s

/-! ## Configuration (R362) -/

/-- R362: an item of `sq.cfg` whose ITEM rs1 gives, and which a value in its range changes. -/
def sqCfg (item : Nat) (ok : Nat → Bool) (put : Nat → Part → Part) (v : XView) (s : State) : XRes :=
  if v.r1 ≠ item ∨ !ok v.r2 then badArg s else .done (modPart s v.pnum (put v.r2)) 0

/-- R362: the call-token range; ITEM 7 to 15 gives BADARG. -/
def execSqCfgCallTokenRange (f : RTy) (s : State) : Host.Outcome State Fault Refusal :=
  xmerf 6 none f (sqCfg 0 (fun r => decide (bits r 63 32 < bits r 31 0) || decide (bits r 63 32 - bits r 31 0 ≤ 65535))
    fun r p => { p with ctlo := bits r 31 0, cthi := bits r 63 32 }) s
def execSqCfgCto (f : RTy) (s : State) : Host.Outcome State Fault Refusal :=
  xmerf 6 none f (sqCfg 1 (fun r => decide (1 ≤ r) && decide (r < 2 ^ 40)) fun r p => { p with cto := r }) s

/-- R362: a token string from its block. -/
def sqString (item : Nat) (put : List Lane → Part → Part) (v : XView) (s : State) : XRes :=
  if v.r1 ≠ item ∨ v.r2 % 8 ≠ 0 then badArg s
  else
    withBuf v s v.r2 8 1 fun s pas =>
      readBuf v s v.r2 pas fun s b =>
        let n := dwordAt b 0
        if 64 < n then badArg s
        else
          withBuf v s (v.r2 + 8) (4 * n) 1 fun s tps =>
            readBuf v s (v.r2 + 8) tps fun s tb => .done (modPart s v.pnum (put (tokensOf tb))) 0
def execSqCfgTimeoutString (f : RTy) (s : State) : Host.Outcome State Fault Refusal :=
  xmerf 6 none f (sqString 2 fun ts p => { p with tstring := ts }) s
def execSqCfgFailureString (f : RTy) (s : State) : Host.Outcome State Fault Refusal :=
  xmerf 6 none f (sqString 3 fun ts p => { p with fstring := ts }) s
def execSqCfgXmax (f : RTy) (s : State) : Host.Outcome State Fault Refusal :=
  xmerf 6 none f (sqCfg 4 (fun r => decide (r < 2 ^ 40)) fun r p => { p with xmax := r }) s
/-- R362: KVRT, in the partition's memory, 8-byte aligned, or 0. -/
def execSqCfgKvrt (f : RTy) (s : State) : Host.Outcome State Fault Refusal :=
  xmerf 6 none f (fun v s => sqCfg 5 (fun r => r == 0 || (r % 8 == 0 && ownsPa s v.p r)) (fun r p => { p with kvrt := r }) v s) s
def execSqCfgUecen (f : RTy) (s : State) : Host.Outcome State Fault Refusal :=
  xmerf 6 none f (sqCfg 6 (fun r => decide (r ≤ 1)) fun r p => { p with uecen := r == 1 }) s

/-! ## cap.probe (R363) -/

/-- R363: cap.probe. -/
def capProbe (v : XView) (s : State) : XRes :=
  if 8 ≤ v.r2 then badArg s
  else if !checked v.a then .done s (word (2 ^ 62))
  else
    let acc := dataAcc v.a 1
    match agentWalk ⟨s, v.a, v.pnum, v.p, acc, maskPtr v.a acc v.r1⟩ with
    | .exc e => .done (correct s e.reads) 0
    | .wait hs => .wait s hs
    | .ok r walked =>
      let s := correct s walked
      match agentPa s v.a r.1 with
      | none => .done s 0
      | some b =>
        match (List.range 32).find? fun i => capAdmits (capAt v.a i) b v.r2 with
        | some i => .done s (word (2 ^ 63 + i * 2 ^ 32 + (capAt v.a i).tag * 2 ^ 16))
        | none => .done s 0
def execCapProbe (f : RTy) (s : State) : Host.Outcome State Fault Refusal := xmerf 7 (some 7) f capProbe s

/-! ## Completion messages (R428) -/

/-- R428: the payload of a future-completion message: the status that answers it, and the state. -/
def uecComplete (s : State) (pnum : Nat) (p : Part) (b : List Byte) : State × Nat :=
  let h := dwordAt b 0
  let tag := leNat ((b.drop 8).take 6)
  let kind := leNat ((b.drop 14).take 1)
  let ntok := leNat ((b.drop 16).take 4)
  let zero := leNat ((b.drop 15).take 1) == 0 && leNat ((b.drop 20).take 12) == 0
  if 1 < kind ∨ !zero ∨ 2040 < ntok ∨ (kind = 1 ∧ ntok ≠ 0) ∨ b.length < 32 + 4 * ntok then (s, 12)
  else
    match matchFut s pnum h tag with
    | none => (s, 3)
    | some (i, f) =>
      if kind = 1 then (endFut s i f 9 p.fstring, 0)
      else if ntokOk f ntok then (endFut s i f 0 (tokensOf ((b.drop 32).take (4 * ntok))), 0)
      else (s, 12)

/-- UEC_COMPLETION: a message to an endpoint: endpoint 0 of a partition's share that the supervisor has enabled; any other
is answered GONE. -/
def execUecCompletion (ep : Nat) (b : List Byte) (s : State) : Host.Outcome State Fault Refusal :=
  .next <|
    match s.parts.find? fun e => e.2.conf.uec.head? == some ep with
    | none => reply s (.status 5)
    | some e =>
      if e.2.uecen ∧ e.2.st = .running then
        let r := uecComplete s e.1 e.2 b
        reply r.1 (.status r.2)
      else reply s (.status 5)

end Sys2Proof.Machine
end

