-- ==== Sys2Proof/Machine/Outside.lean ====
section
/-! DEFINITION. Accesses from outside the package: the host over CXL.mem (R204) and its windows (R367), and requests of other
devices over Etfen (R345). -/
namespace Sys2Proof.Machine

/-! ## The host -/

/-- R420: whether a local address lies in the ranges of a partition's HDM decoder. -/
def inHdm (p : Part) (l : Nat) : Bool := p.conf.hdm.any fun r => decide (r.1 ≤ l) && decide (l < r.1 + r.2)
/-- R204, R412, R405, R420: a host access, within an HDM decoder's ranges, to memory of a partition of the device: a read of a listed line or of a bad word is
poisoned, a write to a listed line is dropped. -/
def hostAccess (s : State) (r : HostReq) : State :=
  let n := if r.write then r.data.length else r.len
  let pas := localBytes s r.addr n
  let locs := memLocs pas
  match s.parts.find? fun e => pas.all fun a => ownsPa s e.2 a && inHdm e.2 (paLocal a) with
  | none => reply s .refused
  | some e =>
    let listed := pas.any fun a => e.2.loss.contains (a / 128)
    let bad := (locError s locs r.write).isSome
    if r.write then
      if listed then reply s (.status 0) else if bad then reply s .poison else reply (storeLocs s locs r.data) (.status 0)
    else if listed || bad then reply s .poison else reply (correct s locs) (.bytes (readLocs s locs))
/-- R194: the home lines of a host access that leases stand against. -/
def hostWaits (s : State) (r : HostReq) : List Nat :=
  ((localBytes s r.addr (if r.write then r.data.length else r.len)).map (· / 128)).eraseDups.filter fun l => homeConflict s l r.write
/-- R204: the host accesses delivered are performed in order, as far as leases let them. -/
def drainHost (s : State) : List HostReq → State
  | [] => setWants { s with hostQueue := [] } 90002 []
  | r :: rs =>
    match hostWaits s r with
    | [] => drainHost (hostAccess s r) rs
    | hs => setWants { s with hostQueue := r :: rs } 90002 hs
/-- After every step, the host accesses that wait are tried again. -/
def settleHost (s : State) : State := if s.hostQueue = [] then s else drainHost s s.hostQueue

/-- HOST_ACCESS: the access comes after those delivered before it. -/
def execHostAccess (r : HostReq) (s : State) : Host.Outcome State Fault Refusal :=
  .next (if s.hostUp then drainHost s (s.hostQueue ++ [r]) else s)

/-- R367: a closed window. -/
def Window.closed : Window := ⟨0, 0, false, false⟩
/-- R367: whether a host physical address lies in an open window of a list. -/
def inWindows (ws : SMap Window) (h : Nat) : Bool :=
  ws.any fun w => (w.2.r || w.2.w) && decide (w.2.base ≤ h) && decide (h < w.2.base + w.2.size)

/-- R367: the lines of a tile homed in host memory that no window holds any more are written back and invalidated. -/
def shedHostLines (s : State) (ws : SMap Window) (t : Nat) : State :=
  (tileAt s t).lines.foldl (fun s l =>
    let a := paLocal (128 * l.2.home)
    if isHost a && l.2.st != .F && !inWindows ws (a - 2 ^ 43) then
      let s :=
        if l.2.st = .D ∨ l.2.st = .B then
          match mapAt (tileAt s t) (l.1 * 128) with
          | some (_, m) => writeBackData s t (stashOff m (l.1 * 128)) l.2.home
          | none => s
        else s
      dropLine s t l.1
    else s) s

/-- R367: the lines homed in a removed range that an agent core's L2 or an instruction cache holds are given up. -/
def shedCoreLines (s : State) (pnum : Nat) (p : Part) (ws : SMap Window) : State :=
  let gone (line : Nat) : Bool := isHost (paLocal (128 * line)) && !inWindows ws (paLocal (128 * line) - 2 ^ 43)
  let s := p.conf.cores.foldl (fun s k => modAgent s k fun a =>
    { a with l2 := a.l2.filter fun e => !gone e.1, icode := a.icode.filter fun e => !gone e.1 }) s
  { s with ilines := s.ilines.filter fun i => !(i.part == pnum && gone i.home) }

/-- R367: what a window register holds after a write. -/
def windowReg (base size : Nat) (r wr : Bool) : Window := if size = 0 ∨ (!r && !wr) then Window.closed else ⟨base, size, r, wr⟩

/-- HOST_WINDOW_WRITE: a window of a partition is set, after the lines of a removed range have been written back; a window of
no size or no right is closed. -/
def execHostWindowWrite (pnum w base size : Nat) (r wr : Bool) (s : State) : Host.Outcome State Fault Refusal :=
  .next <|
    if 16 ≤ w ∨ 8 ≤ pnum ∨ base % 4096 ≠ 0 ∨ size % 4096 ≠ 0 ∨ !booted s 6 then s
    else
      match partAt s pnum with
      | none => { s with preWindows := smSet [] s.preWindows pnum (smSet Window.closed (smGet [] s.preWindows pnum) w (windowReg base size r wr)) }
      | some p =>
        let ws := smSet Window.closed p.windows w (windowReg base size r wr)
        modPart (shedCoreLines (p.conf.tiles.foldl (fun s t => shedHostLines s ws t) s) pnum p ws) pnum fun p => { p with windows := ws }

/-! ## Other devices (R205, R345) -/

/-- R345: a fault that answers a remote request: its code and FINFO. -/
def remoteFault (s : State) (code info : Nat) : State := reply s (.words code [word info])

/-- R227: bytes of a `cp.rput` of another device: written into the stash that admits them, the barrier decremented with the last. -/
def remoteRput (s : State) (r : RemoteReq) (tile base total : Nat) (bar : Option Nat) : State :=
  match rputHere s r.addr tile base total r.part bar with
  | some f => remoteFault s f.code f.info.toNat
  | none =>
    if r.addr < base ∨ base + total < r.addr + r.data.length then remoteFault s 0x16 0
    else
      let s := storeLocs s ((List.range r.data.length).map fun i => .stash tile (r.addr + i) none) r.data
      let s :=
        match bar with
        | some b =>
          if r.addr + r.data.length = base + total then
            decrementAt s tile ((List.range 16).map fun i => Loc.stash tile (b + i) none) total
          else s
        | none => s
      reply s (.status 0)

/-- R345, R205: a request of another device, served at the home in the memory of the partition of the same number. -/
def remoteRequest (s : State) (r : RemoteReq) : State :=
  match r.kind with
  | .rput tile base total bar => remoteRput s r tile base total bar
  | kind =>
    let pas := localBytes s r.addr (remoteSize r)
    let locs := memLocs pas
    match running s r.part with
    | none => remoteFault s 0x10 5
    | some p =>
      if !pas.all (ownsPa s p) then remoteFault s 0x10 5
      else
        match targetCheck s p r.part (remoteNeed r) (pas.map fun a => (0, a)), locError s locs ((remoteNeed r) == .store) with
        | some f, _ => remoteFault s f.code f.info.toNat
        | none, some (_, i) => remoteFault s 0x30 i
        | none, none =>
          let old := readLocs s locs
          match kind with
          | .read | .rput .. => reply (correct s locs) (.bytes old)
          | .write => reply (storeLocs s locs r.data) (.status 0)
          | .amo op n =>
            let s := match amoNew op (8 * n) (leNat old) (leNat (r.data.take n)) (leNat ((r.data.drop n).take n)) with
              | some new => storeLocs s locs (leBytes n new)
              | none => s
            reply s (.bytes old)
/-- R192: whether a remote request is not kept waiting by another agent's far atomic, and the state once a slice has served it. -/
def remoteReady (s : State) (r : RemoteReq) : Bool := (farRemote s r).all fun sl => farTurn s sl (farDev r.dev)
def remoteServed (s : State) (r : RemoteReq) : State :=
  match farRemote s r with
  | some sl => farServed s sl (farDev r.dev)
  | none => s
/-- R205: the requests of other devices are performed as leases let them, those of one device in order. -/
def drainRemote (s : State) : List RemoteReq → List RemoteReq → State
  | [], left => setWants { s with remoteQueue := left } 90003 (left.flatMap (remoteWaits s))
  | r :: rs, left =>
    if (left.any fun x => x.dev == r.dev) || remoteWaits s r != [] || !remoteReady s r then drainRemote s rs (left ++ [r])
    else drainRemote (remoteRequest (remoteServed s r) r) rs left
/-- After every step, the remote requests that wait are tried again. -/
def settleRemote (s : State) : State := if s.remoteQueue = [] then s else drainRemote s s.remoteQueue []

/-- ETFEN_REQUEST: until DEVNUM is set, and from a device with no route, a request fails with F_PEERDEAD (R417, R425). -/
def execEtfenRequest (r : RemoteReq) (s : State) : Host.Outcome State Fault Refusal :=
  .next <|
    if s.dom.devnum = none ∨ s.dom.unreachable.contains r.dev ∨ s.dom.fenced.contains r.dev then remoteFault s 0x31 (3 * 65536 + s.dom.devnum.getD 0)
    else drainRemote s (s.remoteQueue ++ [r]) []

end Sys2Proof.Machine
end

