-- ==== Sys2Proof/Machine/Turn.lean ====
section
/-! DEFINITION. Turns: rotation (R253), the energy budget (R254, R255), landing (R54), the service deadline and entry (R261,
R262, R381), and the answers that a held bundle waits for (R208, R328, R337, R183). -/
namespace Sys2Proof.Machine

/-! ## The energy budget (R254, R255) -/

/-- R254: the charge of a slot operation, VL / 8 given. -/
def opCharge (w : Word) (v8 : Nat) : Nat :=
  let op := (opField w).toNat
  if op < 0x40 then (if 0x06 ≤ op ∧ op ≤ 0x09 then 4 else 1)
  else if op < 0x80 then
    if 0x5B ≤ op ∧ op ≤ 0x6F then 2 * v8 else if 0x70 ≤ op ∧ op ≤ 0x7A then 4 * v8 else v8
  else if op < 0xA0 then
    if op = 0x96 ∨ op = 0x97 then 16 else if 0x95 ≤ op ∧ op ≤ 0x9A then 8 else if 0x9B ≤ op ∧ op ≤ 0x9E then 32 else 2
  else if 0xAB ≤ op ∧ op ≤ 0xAE then 2 + v8
  else 2
/-- R254: the charge of a bundle. -/
def bundleCharge (b : Bundle) (v8 : Nat) : Nat := 1 + (b.ops.map fun o => opCharge o.2 v8).sum

/-- R256: EBUD.BUD. -/
def Ctx.bud (c : Ctx) : Nat := bits c.ebud.toNat 15 0
/-- R255: BUD := REFILL; a context parked on budget rejoins the rotation. -/
def refillCtx (c : Ctx) : Ctx :=
  let r := bits c.ebud.toNat 31 16
  let c := { c with ebud := word (r * 65536 + r) }
  if c.wait = .budget then wake c else c
/-- The energy that a bundle takes from the budget. -/
def chargeCtx (c : Ctx) (n : Nat) : Ctx := { c with ebud := word (bits c.ebud.toNat 31 16 * 65536 + (c.bud - n)) }

/-- The compute die of a spindle. -/
def dieOfSpindle (sp : Nat) : Nat := sp / 384
/-- R255: the refill of a spindle, once for every 1,024 cycles of its die. -/
def refillSpindle (s : State) (sp : Nat) : State :=
  let w := (dieAt s (dieOfSpindle sp)).cyc / 1024
  if (spinAt s sp).window < w then
    let s := modSpin s sp fun x => { x with window := w }
    (List.range 16).foldl (fun s k =>
      if (ctxOf s (ctxNum sp k)).phase = .free then s else modCtx s (ctxNum sp k) refillCtx) s
  else s
/-- BUDGET_REFILL. -/
def execBudgetRefill (sp : Nat) (s : State) : Host.Outcome State Fault Refusal := .next (refillSpindle s sp)

/-! ## Service deadline and entry (R262) -/

/-- R263: SDL.COUNT. -/
def Ctx.count (c : Ctx) : Nat := bits c.sdl.toNat 15 0
/-- R262: COUNT falls by one, to a floor of 0. -/
def countTurn (c : Ctx) : Ctx := { c with sdl := word (c.reload * 65536 + (c.count - 1)) }

/-- R262: the pending request of a live context is entered at this bundle boundary, before anything else. -/
def forceEntry (s : State) (n : Nat) : State :=
  let c := ctxOf s n
  if c.phase = .live ∧ hasRequest c then
    { modCtx s n fun c => { c with enterNow := true } with agenda := .ev (.serviceEntry n) :: s.agenda }
  else s

/-- SERVICE_DEADLINE. -/
def execServiceDeadline (n : Nat) (s : State) : Host.Outcome State Fault Refusal :=
  .next (if (ctxOf s n).count = 0 then forceEntry s n else s)
/-- SERVICE_ENTRY. -/
def execServiceEntry (n : Nat) (s : State) : Host.Outcome State Fault Refusal :=
  .next (if (ctxOf s n).enterNow ∧ (ctxOf s n).phase = .live then enterPending s n else s)

/-! ## A bundle's end -/

/-- R58, R255, R262, R401: what follows a bundle that passed outside service: its charge, a YIELD mark, a halt after STEP, a
request that is due. -/
def afterPass (s : State) (n : Nat) (b : Bundle) (charge : Nat) : State :=
  let stepped := (ctxOf s n).step
  let s := modCtx s n fun c =>
    let c := chargeCtx c charge
    let c := if b.yields then reloadSdl c else c
    if c.step then { c with step := false, reqs := if c.reqs.contains .halt then c.reqs else c.reqs ++ [.halt] } else c
  let c := ctxOf s n
  if b.yields ∨ c.count = 0 ∨ stepped then forceEntry s n else s

/-- What follows a try at a bundle of a context that was, or was not, in service. -/
def afterIssue (n : Nat) (b : Bundle) (svc : Bool) (charge : Nat) (r : Issued) : State :=
  match r with
  | .passed s => serveAbsent (if svc then s else afterPass s n b charge) n
  | .stayed s => if !svc && (ctxOf s n).count == 0 then forceEntry s n else s
  | .parked s => serveAbsent s n
  | .faulted s => serveAbsent s n

/-- R253: whether a bundle is held as R143, R224 and R283 give: the cycle is then offered at once to the next context. -/
def heldAtIssue (n : Nat) (r : Issued) : Bool :=
  match r with
  | .stayed _ => true
  | .parked s => match (ctxOf s n).wait with | .engine _ | .claim => true | _ => false
  | _ => false

/-- A context issues a bundle, within its budget (R255). The answer tells whether it is held at issue. -/
def issueBundle (s : State) (n : Nat) (b : Bundle) : Bool × State :=
  let c := ctxOf s n
  let charge := bundleCharge b (c.lanes / 8)
  if !c.svc && decide (c.bud < charge) then (false, serveAbsent (parkHeld s n b .budget .budget) n)
  else
    let r := runBundle s n b (slotOps slotMeaning b.ops)
    (heldAtIssue n r, afterIssue n b c.svc charge r)

/-! ## Rotation (R253) -/

/-- R253: one offer of a cycle to a context; the answer tells whether its bundle is held, so that the cycle passes on. -/
def offerCtx (s : State) (n cyc : Nat) : Bool × State :=
  let s := modCtx s n fun c =>
    let c := { c with turn := c.turn + 1, mayOffer := cyc + 4 }
    if c.svc then c else countTurn c
  let s := landDue s n (ctxOf s n).turn
  let c := ctxOf s n
  let held (s : State) : Bool × State := (true, if !c.svc && c.count == 0 then forceEntry s n else s)
  -- R183: an `.sc` event of the context has not taken effect
  if 0 < c.scOut then held s
  else
   match (if c.refetch then refetchPins s n else (false, [], s)) with
   | (true, hs, s) => held (setWants s n hs)
   | (false, _, s) =>
    let s := if c.refetch then modCtx (setWants s n []) n fun c => { c with refetch := false } else s
    match c.held with
    | some b => issueBundle s n b
    | none =>
      match fetchBundle s n with
      | .wait pc _ => held (modCtx s n fun c => { c with pc := word pc, fetching := true })
      | .fault pc f => (false, serveAbsent (takeFault (modCtx s n fun c => { c with pc := word pc }) n 0 7 f (word pc)) n)
      | .bundle b => issueBundle (modCtx s n fun c => { c with pc := b.addr }) n b

/-- R253: the cycle goes from one context to the next while bundles are held. -/
def offerFrom (sp cyc : Nat) : State → List Nat → State
  | s, [] => s
  | s, n :: ns =>
    if issues s n && decide ((ctxOf s n).mayOffer ≤ cyc) && !(ctxOf s n).enterNow then
      let r := offerCtx (modSpin s sp fun x => { x with last := localOf n }) n cyc
      if r.1 then offerFrom sp cyc r.2 ns else r.2
    else offerFrom sp cyc s ns

/-- R253: the contexts in rotation, in ascending cyclic order after the last one offered. -/
def rotation (s : State) (sp : Nat) : List Nat :=
  ((List.range 16).map fun i => ctxNum sp (((spinAt s sp).last + 1 + i) % 16)).filter fun n =>
    issues s n && decide ((ctxOf s n).joins ≤ (dieAt s (dieOfSpindle sp)).cyc)

/-- R253: after a step, a context that has come into rotation joins it from the next cycle on. -/
def settleJoins (old s : State) : State :=
  (s.ctxs.map (·.1)).foldl (fun s n =>
    if issues s n && !issues old n then modCtx s n fun c => { c with joins := (dieAt s (dieOf n)).cyc + 1 } else s) s

/-- R253: the cycle of a spindle: the first context in order is offered it, unless it was last offered too recently. -/
def offerCycle (s : State) (sp : Nat) : State :=
  let s := refillSpindle s sp
  let cyc := (dieAt s (dieOfSpindle sp)).cyc
  if cyc < (spinAt s sp).nextCycle then s
  else
    let s := modSpin s sp fun x => { x with nextCycle := cyc + 1 }
    match rotation s sp with
    | [] => s
    | n :: ns => if cyc < (ctxOf s n).mayOffer then s else offerFrom sp cyc s (n :: ns)

/-- TURN_OFFER. -/
def execTurnOffer (sp : Nat) (s : State) : Host.Outcome State Fault Refusal :=
  .next (offerCycle s sp)

/-! ## Landing (R54) -/

/-- R44: whether a result pushes to a channel that an earlier one pushes to. -/
def pushesAfter (ps : List Pending) (p : Pending) : Bool :=
  p.writes.any fun w => w.place.1 == 4 && ps.any fun q => q.writes.any fun v => v.place == w.place

/-- RESULT_LAND: the i-th outstanding result of a context lands; words pushed to one channel land in order, and one that lands
exactly when it is due does so by itself (R270). -/
def execResultLand (n i : Nat) (s : State) : Host.Outcome State Fault Refusal :=
  .next <|
    let ps := (ctxOf s n).pend
    match ps[i]? with
    | some p =>
      if p.exact || pushesAfter (ps.take i) p then s
      else landOne (modCtx s n fun c => { c with pend := ps.eraseIdx i }) n p
    | none => s

/-! ## Answers (R208, R337) -/

/-- A held bundle runs again, with what has been answered. -/
def rerun (s : State) (n : Nat) : State :=
  let c := ctxOf s n
  match c.held with
  | some b => if issues s n && !c.refetch then (issueBundle s n b).2 else s
  | none => s

/-- R219: of the lines that a bundle has asked for, those whose grant is refused with a fault are invalid again. -/
def dropRefused (s : State) (n : Nat) (ls : List Nat) : State :=
  let tile := tileOf n
  ls.foldl (fun s v =>
    match smFind (tileAt s tile).lines v, mapAt (tileAt s tile) (v * 128), partAt s (partOfCtx s n) with
    | some l, some (_, m), some p =>
      if l.st = .F then
        (match acquireLine s p ⟨partOfCtx s n, tile, (ctxOf s n).asid.toNat, 0, l.wr, [v], if l.whole then [v] else []⟩ v m with
         | .fault _ => dropLine s tile v
         | _ => s)
      else s
    | _, _, _ => s) s

/-- HOME_ANSWER: the bundle of a context parked on an access passes, faults, or waits on. -/
def execHomeAnswer (n : Nat) (s : State) : Host.Outcome State Fault Refusal :=
  .next <|
    match (ctxOf s n).wait with
    | .home ls =>
      let t := rerun (modCtx (setWants (serveFar s n) n []) n fun c => wake { c with answered := .home :: c.answered.filter (· != .home) }) n
      match (ctxOf t n).wait with
      | .home _ => t
      | _ => dropRefused t n ls
    | .leases a lo hi k =>
      if leasesOut s (partOfCtx s n) a lo hi k then s
      else rerun (modCtx s n fun c => wake { c with answered := .home :: c.answered.filter (· != .home) }) n
    | _ => s

/-- KV_WALK_ANSWER: the same for a KV access, and a step of an attention instruction. -/
def execKvWalkAnswer (n : Nat) (s : State) : Host.Outcome State Fault Refusal :=
  .next <|
    let c := ctxOf s n
    if c.wait = .kv then rerun (modCtx (setWants s n []) n fun c => wake { c with answered := .kv :: c.answered }) n
    else if c.attnRun ∧ issues s n ∧ !c.answered.contains .kv then
      rerun (modCtx s n fun c => { c with answered := .kv :: c.answered }) n
    else s

/-! ## `.sc` announcements (R182, R183) -/

/-- R182: whether an event comes before another in S. -/
def scBefore (a b : ScEvent) : Bool :=
  decide (a.window < b.window) || (a.window == b.window && (decide (a.core < b.core) || (a.core == b.core && decide (a.idx < b.idx))))
/-- The first of a list of events in S. -/
def scFirst : List ScEvent → Option ScEvent
  | [] => none
  | e :: es =>
    match scFirst es with
    | some m => if scBefore e m then some e else some m
    | none => some e

/-- SC_ANNOUNCE_ARRIVE: the first event of S that has not arrived takes effect, 24 cycles of 2.4 GHz, 10 ns, after it was
sent. -/
def execScAnnounceArrive (s : State) : Host.Outcome State Fault Refusal :=
  .next <|
    match scFirst s.scOut with
    | none => s
    | some e =>
      if s.time < e.sent + 10 then s
      else
        let s := { s with scOut := s.scOut.erase e, scOrder := s.scOrder ++ [e] }
        match e.ctx with
        | some n => modCtx s n fun c => { c with scOut := c.scOut - 1 }
        | none => s

/-! ## Monitors (R328) -/

/-- R328: whether the entry that a monitor watches is usable. -/
def entryUsable (s : State) (m : Monitor) : Bool :=
  let e := memDword s m.ea
  bit e 0 && (m.kind != 3 || !bit e 1)

/-- R326, R328: the translation and KV walker entries that were read from the line of an entry are dropped. -/
def dropReadFrom (s : State) (line : Nat) : State :=
  { s with slices := s.slices.map fun e =>
      (e.1, { e.2 with tcache := e.2.tcache.filter fun t => t.tableLine != line
                       kcache := e.2.kcache.filter fun k => !k.lines.contains line }) }

/-- R328: the monitors of a slice on an entry end, their waiters woken, when the entry is usable. -/
def wakeMonitors (s : State) (sl ea : Nat) : State :=
  let ms := (sliceAt s sl).monitors.filter fun m => m.ea == ea && entryUsable s m
  if ms = [] then s
  else
    let s := modSlice s sl fun x => { x with monitors := x.monitors.filter fun m => !ms.contains m }
    let s := (ms.flatMap (·.waiters)).foldl (fun s n =>
      modCtx s n fun c => if c.wait = .monitor sl ea then wake c else c) s
    dropReadFrom s (ea / 128)

/-- MONITOR_WAKE. -/
def execMonitorWake (sl ea : Nat) (s : State) : Host.Outcome State Fault Refusal := .next (wakeMonitors s sl ea)

/-- R328: after any write, the monitors whose entries are usable wake. -/
def settleMonitors (s : State) : State :=
  s.slices.foldl (fun s e => e.2.monitors.foldl (fun s m => wakeMonitors s e.1 m.ea) s) s

end Sys2Proof.Machine
end

