-- ==== Sys2Proof/Machine/Dispatch.lean ====
section
/-! DEFINITION. The meaning of every row of the opcode table: one arm for each constructor of Instr. -/
namespace Sys2Proof.Machine

def exec (i : Instr) (s : State) : Host.Outcome State Fault Refusal :=
  match i with
  | .deviceReset => Sys2Proof.Machine.execDeviceReset s
  | .turnOffer spindle => Sys2Proof.Machine.execTurnOffer spindle s
  | .fetchComplete ctx => Sys2Proof.Machine.execFetchComplete ctx s
  | .resultLand ctx index => Sys2Proof.Machine.execResultLand ctx index s
  | .budgetRefill spindle => Sys2Proof.Machine.execBudgetRefill spindle s
  | .serviceDeadline ctx => Sys2Proof.Machine.execServiceDeadline ctx s
  | .serviceEntry ctx => Sys2Proof.Machine.execServiceEntry ctx s
  | .homeAnswer ctx => Sys2Proof.Machine.execHomeAnswer ctx s
  | .monitorWake slice entry => Sys2Proof.Machine.execMonitorWake slice entry s
  | .kvWalkAnswer ctx => Sys2Proof.Machine.execKvWalkAnswer ctx s
  | .leaseGrant tile line => Sys2Proof.Machine.execLeaseGrant tile line s
  | .leaseExpiry tile line => Sys2Proof.Machine.execLeaseExpiry tile line s
  | .writebackStart tile line => Sys2Proof.Machine.execWritebackStart tile line s
  | .writebackAccept tile line => Sys2Proof.Machine.execWritebackAccept tile line s
  | .scAnnounceArrive => Sys2Proof.Machine.execScAnnounceArrive s
  | .engineCmdStart spindle q => Sys2Proof.Machine.execEngineCmdStart spindle q s
  | .engineCmdComplete spindle q => Sys2Proof.Machine.execEngineCmdComplete spindle q s
  | .copyDeliver spindle channel => Sys2Proof.Machine.execCopyDeliver spindle channel s
  | .copyComplete spindle channel => Sys2Proof.Machine.execCopyComplete spindle channel s
  | .messageArrive sender => Sys2Proof.Machine.execMessageArrive sender s
  | .amsendAnswer sender => Sys2Proof.Machine.execAmsendAnswer sender s
  | .peerSpindleAnswer ctx => Sys2Proof.Machine.execPeerSpindleAnswer ctx s
  | .chuckAnswer ctx => Sys2Proof.Machine.execChuckAnswer ctx s
  | .claimGrant ctx => Sys2Proof.Machine.execClaimGrant ctx s
  | .taskTake ctx => Sys2Proof.Machine.execTaskTake ctx s
  | .sleepDeadline ctx => Sys2Proof.Machine.execSleepDeadline ctx s
  | .futureDeadline index => Sys2Proof.Machine.execFutureDeadline index s
  | .asidSweepDone part asid => Sys2Proof.Machine.execAsidSweepDone part asid s
  | .faceplateSlotWrite part offset value => Sys2Proof.Machine.execFaceplateSlotWrite part offset value s
  | .faceplateAccept part => Sys2Proof.Machine.execFaceplateAccept part s
  | .streamASlotWrite core offset value => Sys2Proof.Machine.execStreamASlotWrite core offset value s
  | .hsNop part stream => Sys2Proof.Machine.execHsNop part stream s
  | .hsLaunch part stream => Sys2Proof.Machine.execHsLaunch part stream s
  | .hsMark part stream => Sys2Proof.Machine.execHsMark part stream s
  | .hsPublish part stream => Sys2Proof.Machine.execHsPublish part stream s
  | .launchStart part stream => Sys2Proof.Machine.execLaunchStart part stream s
  | .launchEnd launch => Sys2Proof.Machine.execLaunchEnd launch s
  | .partitionConfigure part conf => Sys2Proof.Machine.execPartitionConfigure part conf s
  | .partitionClearDone part => Sys2Proof.Machine.execPartitionClearDone part s
  | .partitionReset part => Sys2Proof.Machine.execPartitionReset part s
  | .partitionRemove part => Sys2Proof.Machine.execPartitionRemove part s
  | .heartbeatMiss kind unit => Sys2Proof.Machine.execHeartbeatMiss kind unit s
  | .lossWalkEnd part kind unit => Sys2Proof.Machine.execLossWalkEnd part kind unit s
  | .patrolScrub block => Sys2Proof.Machine.execPatrolScrub block s
  | .etfenLinkDown port unreachable => Sys2Proof.Machine.execEtfenLinkDown port unreachable s
  | .etfenRouteReturn device => Sys2Proof.Machine.execEtfenRouteReturn device s
  | .etfenRequest req => Sys2Proof.Machine.execEtfenRequest req s
  | .hostLinkLoss => Sys2Proof.Machine.execHostLinkLoss s
  | .hostLinkRecover => Sys2Proof.Machine.execHostLinkRecover s
  | .hostHoldExpiry part => Sys2Proof.Machine.execHostHoldExpiry part s
  | .hostAccess req => Sys2Proof.Machine.execHostAccess req s
  | .hostWindowWrite part window base size r w => Sys2Proof.Machine.execHostWindowWrite part window base size r w s
  | .supplySag die => Sys2Proof.Machine.execSupplySag die s
  | .supplyRecover die => Sys2Proof.Machine.execSupplyRecover die s
  | .powerLimitWrite value => Sys2Proof.Machine.execPowerLimitWrite value s
  | .powerClockAdjust mhz => Sys2Proof.Machine.execPowerClockAdjust mhz s
  | .llclrWrite part value => Sys2Proof.Machine.execLlclrWrite part value s
  | .fmtcWrite part value => Sys2Proof.Machine.execFmtcWrite part value s
  | .registerWrite target value => Sys2Proof.Machine.execRegisterWrite target value s
  | .uecCompletion endpoint payload => Sys2Proof.Machine.execUecCompletion endpoint payload s
  | .attestReport requester scope nonce => Sys2Proof.Machine.execAttestReport requester scope nonce s
  | .measExtend part digest => Sys2Proof.Machine.execMeasExtend part digest s
  | .agentAccess core acc => Sys2Proof.Machine.execAgentAccess core acc s
  | .learoHalt ctx => Sys2Proof.Machine.execLearoHalt ctx s
  | .learoResume ctx => Sys2Proof.Machine.execLearoResume ctx s
  | .learoStep ctx => Sys2Proof.Machine.execLearoStep ctx s
  | .learoDbgen ctx on => Sys2Proof.Machine.execLearoDbgen ctx on s
  | .learoFreeze tile => Sys2Proof.Machine.execLearoFreeze tile s
  | .learoThaw tile => Sys2Proof.Machine.execLearoThaw tile s
  | .learoRdq spindle q => Sys2Proof.Machine.execLearoRdq spindle q s
  | .learoRestart spindle q => Sys2Proof.Machine.execLearoRestart spindle q s
  | .learoSkip spindle q => Sys2Proof.Machine.execLearoSkip spindle q s
  | .learoRdctx ctx sel => Sys2Proof.Machine.execLearoRdctx ctx sel s
  | .learoWrctx ctx sel value => Sys2Proof.Machine.execLearoWrctx ctx sel value s
  | .learoRdstash tile offset len => Sys2Proof.Machine.execLearoRdstash tile offset len s
  | .learoWrstash tile offset data => Sys2Proof.Machine.execLearoWrstash tile offset data s
  | .learoKill ctx => Sys2Proof.Machine.execLearoKill ctx s
  | .learoMsg ctx area => Sys2Proof.Machine.execLearoMsg ctx area s
  | .learoSwap ctx area => Sys2Proof.Machine.execLearoSwap ctx area s
  | .spreset spindle => Sys2Proof.Machine.execSpreset spindle s
  | .spretire spindle => Sys2Proof.Machine.execSpretire spindle s
  | .managementMailboxImage image => Sys2Proof.Machine.execManagementMailboxImage image s
  | .railCurrentLimit die => Sys2Proof.Machine.execRailCurrentLimit die s
  | .futTake f => Sys2Proof.Machine.execFutTake f s
  | .futDone f => Sys2Proof.Machine.execFutDone f s
  | .futFail f => Sys2Proof.Machine.execFutFail f s
  | .futExt f => Sys2Proof.Machine.execFutExt f s
  | .sqPeek f => Sys2Proof.Machine.execSqPeek f s
  | .sqCtlCreate f => Sys2Proof.Machine.execSqCtlCreate f s
  | .sqCtlRetire f => Sys2Proof.Machine.execSqCtlRetire f s
  | .sqCtlFree f => Sys2Proof.Machine.execSqCtlFree f s
  | .sqCtlAdpres f => Sys2Proof.Machine.execSqCtlAdpres f s
  | .sqCtlPush f => Sys2Proof.Machine.execSqCtlPush f s
  | .sqCtlOutack f => Sys2Proof.Machine.execSqCtlOutack f s
  | .sqCfgCallTokenRange f => Sys2Proof.Machine.execSqCfgCallTokenRange f s
  | .sqCfgCto f => Sys2Proof.Machine.execSqCfgCto f s
  | .sqCfgTimeoutString f => Sys2Proof.Machine.execSqCfgTimeoutString f s
  | .sqCfgFailureString f => Sys2Proof.Machine.execSqCfgFailureString f s
  | .sqCfgXmax f => Sys2Proof.Machine.execSqCfgXmax f s
  | .sqCfgKvrt f => Sys2Proof.Machine.execSqCfgKvrt f s
  | .sqCfgUecen f => Sys2Proof.Machine.execSqCfgUecen f s
  | .capProbe f => Sys2Proof.Machine.execCapProbe f s
  | .add f => Sys2Proof.Machine.execAdd f s
  | .sub f => Sys2Proof.Machine.execSub f s
  | .addi f => Sys2Proof.Machine.execAddi f s
  | .mul f => Sys2Proof.Machine.execMul f s
  | .mulhS f => Sys2Proof.Machine.execMulhS f s
  | .mulhZ f => Sys2Proof.Machine.execMulhZ f s
  | .divS f => Sys2Proof.Machine.execDivS f s
  | .divZ f => Sys2Proof.Machine.execDivZ f s
  | .remS f => Sys2Proof.Machine.execRemS f s
  | .remZ f => Sys2Proof.Machine.execRemZ f s
  | .addsS f => Sys2Proof.Machine.execAddsS f s
  | .addsZ f => Sys2Proof.Machine.execAddsZ f s
  | .subsS f => Sys2Proof.Machine.execSubsS f s
  | .subsZ f => Sys2Proof.Machine.execSubsZ f s
  | .minS f => Sys2Proof.Machine.execMinS f s
  | .minZ f => Sys2Proof.Machine.execMinZ f s
  | .maxS f => Sys2Proof.Machine.execMaxS f s
  | .maxZ f => Sys2Proof.Machine.execMaxZ f s
  | .and f => Sys2Proof.Machine.execAnd f s
  | .or f => Sys2Proof.Machine.execOr f s
  | .xor f => Sys2Proof.Machine.execXor f s
  | .andn f => Sys2Proof.Machine.execAndn f s
  | .andi f => Sys2Proof.Machine.execAndi f s
  | .ori f => Sys2Proof.Machine.execOri f s
  | .xori f => Sys2Proof.Machine.execXori f s
  | .shl f => Sys2Proof.Machine.execShl f s
  | .shrZ f => Sys2Proof.Machine.execShrZ f s
  | .shrS f => Sys2Proof.Machine.execShrS f s
  | .shli f => Sys2Proof.Machine.execShli f s
  | .shriZ f => Sys2Proof.Machine.execShriZ f s
  | .shriS f => Sys2Proof.Machine.execShriS f s
  | .rot f => Sys2Proof.Machine.execRot f s
  | .shadd f => Sys2Proof.Machine.execShadd f s
  | .movi f => Sys2Proof.Machine.execMovi f s
  | .movhi f => Sys2Proof.Machine.execMovhi f s
  | .bfxS f => Sys2Proof.Machine.execBfxS f s
  | .bfxZ f => Sys2Proof.Machine.execBfxZ f s
  | .bfi f => Sys2Proof.Machine.execBfi f s
  | .clz f => Sys2Proof.Machine.execClz f s
  | .ctz f => Sys2Proof.Machine.execCtz f s
  | .popc f => Sys2Proof.Machine.execPopc f s
  | .clmul f => Sys2Proof.Machine.execClmul f s
  | .clmulh f => Sys2Proof.Machine.execClmulh f s
  | .bswap f => Sys2Proof.Machine.execBswap f s
  | .brev f => Sys2Proof.Machine.execBrev f s
  | .cmp f => Sys2Proof.Machine.execCmp f s
  | .cmpi f => Sys2Proof.Machine.execCmpi f s
  | .pbool f => Sys2Proof.Machine.execPbool f s
  | .mfc f => Sys2Proof.Machine.execMfc f s
  | .mtc f => Sys2Proof.Machine.execMtc f s
  | .sel f => Sys2Proof.Machine.execSel f s
  | .br f => Sys2Proof.Machine.execBr f s
  | .bri f => Sys2Proof.Machine.execBri f s
  | .loop f => Sys2Proof.Machine.execLoop f s
  | .loopRot f => Sys2Proof.Machine.execLoopRot f s
  | .loopW f => Sys2Proof.Machine.execLoopW f s
  | .addw f => Sys2Proof.Machine.execAddw f s
  | .subw f => Sys2Proof.Machine.execSubw f s
  | .mulw f => Sys2Proof.Machine.execMulw f s
  | .shlw f => Sys2Proof.Machine.execShlw f s
  | .shrwZ f => Sys2Proof.Machine.execShrwZ f s
  | .shrwS f => Sys2Proof.Machine.execShrwS f s
  | .addiw f => Sys2Proof.Machine.execAddiw f s
  | .nop f => Sys2Proof.Machine.execNop f s
  | .vaddS32 f => Sys2Proof.Machine.execVaddS32 f s
  | .vaddS16 f => Sys2Proof.Machine.execVaddS16 f s
  | .vaddS8 f => Sys2Proof.Machine.execVaddS8 f s
  | .vsubS32 f => Sys2Proof.Machine.execVsubS32 f s
  | .vsubS16 f => Sys2Proof.Machine.execVsubS16 f s
  | .vsubS8 f => Sys2Proof.Machine.execVsubS8 f s
  | .vmulS32 f => Sys2Proof.Machine.execVmulS32 f s
  | .vmulS16 f => Sys2Proof.Machine.execVmulS16 f s
  | .vminS32 f => Sys2Proof.Machine.execVminS32 f s
  | .vmaxS32 f => Sys2Proof.Machine.execVmaxS32 f s
  | .vminS16 f => Sys2Proof.Machine.execVminS16 f s
  | .vmaxS16 f => Sys2Proof.Machine.execVmaxS16 f s
  | .vand f => Sys2Proof.Machine.execVand f s
  | .vor f => Sys2Proof.Machine.execVor f s
  | .vxor f => Sys2Proof.Machine.execVxor f s
  | .vshlS32 f => Sys2Proof.Machine.execVshlS32 f s
  | .vshrS32 f => Sys2Proof.Machine.execVshrS32 f s
  | .vshlS16 f => Sys2Proof.Machine.execVshlS16 f s
  | .vshrS16 f => Sys2Proof.Machine.execVshrS16 f s
  | .vmacwS16 f => Sys2Proof.Machine.execVmacwS16 f s
  | .vdotS8 f => Sys2Proof.Machine.execVdotS8 f s
  | .vdotS16 f => Sys2Proof.Machine.execVdotS16 f s
  | .vclmul f => Sys2Proof.Machine.execVclmul f s
  | .vclmulh f => Sys2Proof.Machine.execVclmulh f s
  | .vcmpS32 f => Sys2Proof.Machine.execVcmpS32 f s
  | .vcmpS16 f => Sys2Proof.Machine.execVcmpS16 f s
  | .vsel f => Sys2Proof.Machine.execVsel f s
  | .vaddF32 f => Sys2Proof.Machine.execVaddF32 f s
  | .vsubF32 f => Sys2Proof.Machine.execVsubF32 f s
  | .vmulF32 f => Sys2Proof.Machine.execVmulF32 f s
  | .vfmaF32 f => Sys2Proof.Machine.execVfmaF32 f s
  | .vminF32 f => Sys2Proof.Machine.execVminF32 f s
  | .vmaxF32 f => Sys2Proof.Machine.execVmaxF32 f s
  | .vcmpF32 f => Sys2Proof.Machine.execVcmpF32 f s
  | .vaddBf16 f => Sys2Proof.Machine.execVaddBf16 f s
  | .vmulBf16 f => Sys2Proof.Machine.execVmulBf16 f s
  | .vfmaBf16 f => Sys2Proof.Machine.execVfmaBf16 f s
  | .vaddF16 f => Sys2Proof.Machine.execVaddF16 f s
  | .vmulF16 f => Sys2Proof.Machine.execVmulF16 f s
  | .vfmaF16 f => Sys2Proof.Machine.execVfmaF16 f s
  | .vcvtF32 f => Sys2Proof.Machine.execVcvtF32 f s
  | .vcvtBf16 f => Sys2Proof.Machine.execVcvtBf16 f s
  | .vcvtF16 f => Sys2Proof.Machine.execVcvtF16 f s
  | .vcvtF8e4 f => Sys2Proof.Machine.execVcvtF8e4 f s
  | .vcvtF8e5 f => Sys2Proof.Machine.execVcvtF8e5 f s
  | .vcvtS32 f => Sys2Proof.Machine.execVcvtS32 f s
  | .vcvtS16 f => Sys2Proof.Machine.execVcvtS16 f s
  | .vcvtS8 f => Sys2Proof.Machine.execVcvtS8 f s
  | .vexp2 f => Sys2Proof.Machine.execVexp2 f s
  | .vlog2 f => Sys2Proof.Machine.execVlog2 f s
  | .vrcp f => Sys2Proof.Machine.execVrcp f s
  | .vrsqrt f => Sys2Proof.Machine.execVrsqrt f s
  | .vtanh f => Sys2Proof.Machine.execVtanh f s
  | .vexp f => Sys2Proof.Machine.execVexp f s
  | .vlog f => Sys2Proof.Machine.execVlog f s
  | .vredF32 f => Sys2Proof.Machine.execVredF32 f s
  | .vredS32 f => Sys2Proof.Machine.execVredS32 f s
  | .vscanF32 f => Sys2Proof.Machine.execVscanF32 f s
  | .vscanS32 f => Sys2Proof.Machine.execVscanS32 f s
  | .vperm f => Sys2Proof.Machine.execVperm f s
  | .vsplat f => Sys2Proof.Machine.execVsplat f s
  | .vslide f => Sys2Proof.Machine.execVslide f s
  | .vzip f => Sys2Proof.Machine.execVzip f s
  | .vpack f => Sys2Proof.Machine.execVpack f s
  | .vext f => Sys2Proof.Machine.execVext f s
  | .mmF8e4 f => Sys2Proof.Machine.execMmF8e4 f s
  | .mmF8e5 f => Sys2Proof.Machine.execMmF8e5 f s
  | .mmF6e3 f => Sys2Proof.Machine.execMmF6e3 f s
  | .mmF6e2 f => Sys2Proof.Machine.execMmF6e2 f s
  | .mmF4 f => Sys2Proof.Machine.execMmF4 f s
  | .mmBf16 f => Sys2Proof.Machine.execMmBf16 f s
  | .mmF16 f => Sys2Proof.Machine.execMmF16 f s
  | .mmS8 f => Sys2Proof.Machine.execMmS8 f s
  | .mmS4 f => Sys2Proof.Machine.execMmS4 f s
  | .mmMx f => Sys2Proof.Machine.execMmMx f s
  | .mmGrp f => Sys2Proof.Machine.execMmGrp f s
  | .mmPriv f => Sys2Proof.Machine.execMmPriv f s
  | .elLd f => Sys2Proof.Machine.execElLd f s
  | .rgCfg f => Sys2Proof.Machine.execRgCfg f s
  | .rgAdv f => Sys2Proof.Machine.execRgAdv f s
  | .accZero f => Sys2Proof.Machine.execAccZero f s
  | .accSt f => Sys2Proof.Machine.execAccSt f s
  | .accLd f => Sys2Proof.Machine.execAccLd f s
  | .accMv f => Sys2Proof.Machine.execAccMv f s
  | .cvRun f => Sys2Proof.Machine.execCvRun f s
  | .cvCfg f => Sys2Proof.Machine.execCvCfg f s
  | .saLd f => Sys2Proof.Machine.execSaLd f s
  | .saMmBf16 f => Sys2Proof.Machine.execSaMmBf16 f s
  | .saMmF8 f => Sys2Proof.Machine.execSaMmF8 f s
  | .saSt f => Sys2Proof.Machine.execSaSt f s
  | .saZero f => Sys2Proof.Machine.execSaZero f s
  | .saMv f => Sys2Proof.Machine.execSaMv f s
  | .attnInit f => Sys2Proof.Machine.execAttnInit f s
  | .attnQk f => Sys2Proof.Machine.execAttnQk f s
  | .attnSmx f => Sys2Proof.Machine.execAttnSmx f s
  | .attnPv f => Sys2Proof.Machine.execAttnPv f s
  | .grpIdx f => Sys2Proof.Machine.execGrpIdx f s
  | .ldS8 f => Sys2Proof.Machine.execLdS8 f s
  | .ldZ8 f => Sys2Proof.Machine.execLdZ8 f s
  | .ldS16 f => Sys2Proof.Machine.execLdS16 f s
  | .ldZ16 f => Sys2Proof.Machine.execLdZ16 f s
  | .ldS32 f => Sys2Proof.Machine.execLdS32 f s
  | .ldZ32 f => Sys2Proof.Machine.execLdZ32 f s
  | .ldS64 f => Sys2Proof.Machine.execLdS64 f s
  | .stS8 f => Sys2Proof.Machine.execStS8 f s
  | .stS16 f => Sys2Proof.Machine.execStS16 f s
  | .stS32 f => Sys2Proof.Machine.execStS32 f s
  | .stS64 f => Sys2Proof.Machine.execStS64 f s
  | .vldS32 f => Sys2Proof.Machine.execVldS32 f s
  | .vstS32 f => Sys2Proof.Machine.execVstS32 f s
  | .vldS16 f => Sys2Proof.Machine.execVldS16 f s
  | .vstS16 f => Sys2Proof.Machine.execVstS16 f s
  | .smMap f => Sys2Proof.Machine.execSmMap f s
  | .smUnmap f => Sys2Proof.Machine.execSmUnmap f s
  | .smPin f => Sys2Proof.Machine.execSmPin f s
  | .smUnpin f => Sys2Proof.Machine.execSmUnpin f s
  | .smFlush f => Sys2Proof.Machine.execSmFlush f s
  | .cpGet f => Sys2Proof.Machine.execCpGet f s
  | .cpPut f => Sys2Proof.Machine.execCpPut f s
  | .cpRput f => Sys2Proof.Machine.execCpRput f s
  | .cpGth f => Sys2Proof.Machine.execCpGth f s
  | .barInit f => Sys2Proof.Machine.execBarInit f s
  | .barArr f => Sys2Proof.Machine.execBarArr f s
  | .barWait f => Sys2Proof.Machine.execBarWait f s
  | .barTest f => Sys2Proof.Machine.execBarTest f s
  | .amoAdd f => Sys2Proof.Machine.execAmoAdd f s
  | .amoAnd f => Sys2Proof.Machine.execAmoAnd f s
  | .amoOr f => Sys2Proof.Machine.execAmoOr f s
  | .amoXor f => Sys2Proof.Machine.execAmoXor f s
  | .amoMinS f => Sys2Proof.Machine.execAmoMinS f s
  | .amoMinZ f => Sys2Proof.Machine.execAmoMinZ f s
  | .amoMaxS f => Sys2Proof.Machine.execAmoMaxS f s
  | .amoMaxZ f => Sys2Proof.Machine.execAmoMaxZ f s
  | .amoSwap f => Sys2Proof.Machine.execAmoSwap f s
  | .amoCas f => Sys2Proof.Machine.execAmoCas f s
  | .amoAddF32 f => Sys2Proof.Machine.execAmoAddF32 f s
  | .fence f => Sys2Proof.Machine.execFence f s
  | .cpub f => Sys2Proof.Machine.execCpub f s
  | .ifence f => Sys2Proof.Machine.execIfence f s
  | .tokWait f => Sys2Proof.Machine.execTokWait f s
  | .tokTest f => Sys2Proof.Machine.execTokTest f s
  | .kvLdk f => Sys2Proof.Machine.execKvLdk f s
  | .kvLdv f => Sys2Proof.Machine.execKvLdv f s
  | .kvApp f => Sys2Proof.Machine.execKvApp f s
  | .pref f => Sys2Proof.Machine.execPref f s
  | .hstart f => Sys2Proof.Machine.execHstart f s
  | .hreap f => Sys2Proof.Machine.execHreap f s
  | .hstat f => Sys2Proof.Machine.execHstat f s
  | .vclaim f => Sys2Proof.Machine.execVclaim f s
  | .vrel f => Sys2Proof.Machine.execVrel f s
  | .vgrow f => Sys2Proof.Machine.execVgrow f s
  | .vstat f => Sys2Proof.Machine.execVstat f s
  | .fork f => Sys2Proof.Machine.execFork f s
  | .forkR f => Sys2Proof.Machine.execForkR f s
  | .join f => Sys2Proof.Machine.execJoin f s
  | .jtest f => Sys2Proof.Machine.execJtest f s
  | .tend f => Sys2Proof.Machine.execTend f s
  | .hend f => Sys2Proof.Machine.execHend f s
  | .sleep f => Sys2Proof.Machine.execSleep f s
  | .chbind f => Sys2Proof.Machine.execChbind f s
  | .chunbind f => Sys2Proof.Machine.execChunbind f s
  | .chstat f => Sys2Proof.Machine.execChstat f s
  | .amsend f => Sys2Proof.Machine.execAmsend f s
  | .amsendW f => Sys2Proof.Machine.execAmsendW f s
  | .amrecv f => Sys2Proof.Machine.execAmrecv f s
  | .amret f => Sys2Proof.Machine.execAmret f s
  | .mbstat f => Sys2Proof.Machine.execMbstat f s
  | .fcall f => Sys2Proof.Machine.execFcall f s
  | .fwait f => Sys2Proof.Machine.execFwait f s
  | .fpoll f => Sys2Proof.Machine.execFpoll f s
  | .fdrop f => Sys2Proof.Machine.execFdrop f s
  | .sqBatch f => Sys2Proof.Machine.execSqBatch f s
  | .sqEmit f => Sys2Proof.Machine.execSqEmit f s
  | .sqPfq f => Sys2Proof.Machine.execSqPfq f s
  | .adpClaim f => Sys2Proof.Machine.execAdpClaim f s
  | .adpBind f => Sys2Proof.Machine.execAdpBind f s
  | .launch f => Sys2Proof.Machine.execLaunch f s
  | .sdisp f => Sys2Proof.Machine.execSdisp f s
  | .sdispTbl f => Sys2Proof.Machine.execSdispTbl f s
  | .trap f => Sys2Proof.Machine.execTrap f s
  | .rfs f => Sys2Proof.Machine.execRfs f s
  | .csave f => Sys2Proof.Machine.execCsave f s
  | .cload f => Sys2Proof.Machine.execCload f s
  | .ctxkill f => Sys2Proof.Machine.execCtxkill f s
  | .pctlQrec f => Sys2Proof.Machine.execPctlQrec f s
  | .pctlQskip f => Sys2Proof.Machine.execPctlQskip f s
  | .pctlPost f => Sys2Proof.Machine.execPctlPost f s
  | .pctlPark f => Sys2Proof.Machine.execPctlPark f s
  | .xinvPage f => Sys2Proof.Machine.execXinvPage f s
  | .xinvAsid f => Sys2Proof.Machine.execXinvAsid f s
  | .xinvQ f => Sys2Proof.Machine.execXinvQ f s
  | .kvinv f => Sys2Proof.Machine.execKvinv f s
  | .asidSet f => Sys2Proof.Machine.execAsidSet f s
  | .asidRet f => Sys2Proof.Machine.execAsidRet f s
  | .dset f => Sys2Proof.Machine.execDset f s
  | .bkpt f => Sys2Proof.Machine.execBkpt f s
  | .wpset f => Sys2Proof.Machine.execWpset f s
  | .dbgRd f => Sys2Proof.Machine.execDbgRd f s
  | .dbgWr f => Sys2Proof.Machine.execDbgWr f s
  | .ill f => Sys2Proof.Machine.execIll f s

end Sys2Proof.Machine
end

