-- ==== Sys2Proof/Machine/Strike.lean ====
section
/-! DEFINITION. Errors of stored state as the codes of R404 see them: which are corrected, which are found, and what follows (R405,
R406). Errors come from outside the machine, as a list that every step reads. -/
namespace Sys2Proof.Machine

/-- R404: what a code makes of the bits that have flipped in a word: nothing, an error that it corrects, an error that it finds, or
more than it promises to find. -/
inductive Verdict | clean | fixed | found | beyond
  deriving DecidableEq, Repr

/-- R404: a code that corrects c flips and finds d. -/
def flipVerdict (c d n : Nat) : Verdict := if n = 0 then .clean else if n ≤ c then .fixed else if n ≤ d then .found else .beyond
/-- R404: SEC-DED. -/
def secded (flips : List Nat) : Verdict := flipVerdict 1 2 flips.eraseDups.length
/-- R404: DEC-TED. -/
def dected (flips : List Nat) : Verdict := flipVerdict 2 3 flips.eraseDups.length
/-- R404: the symbol code: any error within one aligned byte is corrected, errors in two bytes are found. -/
def symbol (flips : List Nat) : Verdict := flipVerdict 1 2 ((flips.map (· / 8)).eraseDups).length
/-- R408: the planes of a tag-2 word: bits 7:2, and bits 1:0, of each byte. -/
def highPlane (flips : List Nat) : Verdict := secded (flips.filter fun b => decide (2 ≤ b % 8))
def lowPlane (flips : List Nat) : Verdict := flipVerdict 0 3 ((flips.filter fun b => decide (b % 8 < 2)).eraseDups).length

/-- R404, R408: the verdicts of a 64-bit word under a code tag, for the whole word or its high plane, and for its low plane; `sram`:
the word stands in the LLC, the stash or an L2, whose code is SEC-DED but for a tag-2 line. -/
def wordVerdict (sram : Bool) (tag : Nat) (flips : List Nat) : Verdict × Verdict :=
  if tag = 2 then (highPlane flips, lowPlane flips)
  else (if sram then secded flips else if tag = 1 then dected flips else symbol flips, .clean)

/-- A word with bits flipped. -/
def flipBits (v : Nat) (flips : List Nat) : Nat := flips.eraseDups.foldl (fun v b => Nat.xor v (2 ^ b)) v

/-- R404: an error beyond what its code finds is found, or goes unseen and leaves the word changed; a second error in a word whose
first was corrected adds to it (log entry 89). -/
def settled (s : State) (v : Verdict) (again : Bool) : Verdict :=
  match v with
  | .fixed => if again then .found else .fixed
  | .beyond => if Config.freeBit (s.freeCount + s.strikes.length) then .found else .beyond
  | v => v

/-- R404: the code tag that a dword of a stash is kept under: that which its line was filled with. -/
def stashTag (s : State) (t off : Nat) : Nat :=
  let x := tileAt s t
  (x.lines.findSome? fun l =>
    match mapAt x (l.1 * 128) with
    | some (_, m) =>
      let o := stashOff m (l.1 * 128)
      if l.2.st ≠ .F ∧ o ≤ off ∧ off < o + 128 then some (if off < o + 64 then l.2.tags % 4 else l.2.tags / 4 % 4) else none
    | none => none).getD 0

/-- R404 to R406: one error. -/
def strike (s : State) (x : Strike) : State :=
  match x.place with
  | .mem w llc =>
    let tag := tagOf s (8 * w)
    let v := wordVerdict llc tag x.flips
    let hi := settled s v.1 (smFind s.cerrs w).isSome
    let lo := settled s v.2 false
    if hi = .found ∨ lo = .found then
      let old := (smFind s.errs w).getD ⟨false, false, llc, tag⟩
      { s with errs := smIns s.errs w ⟨old.high || hi == .found, old.low || lo == .found, llc, tag⟩ }
    else if hi = .beyond ∨ lo = .beyond then
      { s with mem := smSetList 0 s.mem (8 * w) (leBytes 8 (flipBits (memDword s (8 * w)) x.flips)) }
    else if hi = .fixed then { s with cerrs := smIns s.cerrs w true } else s
  | .stash t d =>
    let k := t * 2 ^ 19 + d
    let tag := ((smFind s.serrs k).map (·.tag)).getD (stashTag s t (8 * d))
    let v := wordVerdict true tag x.flips
    let hi := settled s v.1 (s.scerrs.contains k)
    let lo := settled s v.2 false
    if hi = .found ∨ lo = .found then
      let old := (smFind s.serrs k).getD ⟨false, false, false, tag⟩
      { s with serrs := smIns s.serrs k ⟨old.high || hi == .found, old.low || lo == .found, false, tag⟩ }
    else if hi = .beyond ∨ lo = .beyond then
      putStashBytes s t (8 * d) (leBytes 8 (flipBits (leNat (stashBytes s t (8 * d) 8)) x.flips))
    else if hi = .fixed then { s with scerrs := if s.scerrs.contains k then s.scerrs else s.scerrs ++ [k] } else s
  | .l2 k d =>
    if (smFind (agentAt s k).l2 (d / 16)).isNone then s
    else
      match settled s (secded x.flips) ((agentAt s k).l2Fixed.contains d) with
      | .found => modAgent s k fun a => { a with l2Errs := if a.l2Errs.contains d then a.l2Errs else a.l2Errs ++ [d] }
      | .fixed => modAgent s k fun a => { a with l2Fixed := a.l2Fixed ++ [d] }
      | .beyond => { s with mem := smSetList 0 s.mem (8 * d) (leBytes 8 (flipBits (memDword s (8 * d)) x.flips)) }
      | .clean => s
  | .entry n =>
    match secded x.flips, s.parts.find? fun e => e.2.conf.slices.contains n with
    | .clean, _ | _, none => s
    | .fixed, some e => modPart s e.1 fun p => { p with cecnt := sat32 (p.cecnt + 1) }
    | _, some e => resetPart s e.1
  | .reg sp =>
    match secded x.flips, partOfTile s (tileOfSpindle sp) with
    | .clean, _ | _, none => s
    | .fixed, some pnum => modPart s pnum fun p => { p with cecnt := sat32 (p.cecnt + 1) }
    | _, some _ => heartbeatMiss s .spindle sp

/-- After every step, the errors that have struck take effect. -/
def settleStrikes (s : State) : State := if s.strikes = [] then s else s.strikes.foldl strike { s with strikes := [] }

/-- R406: an LLC line with a bad word that no consumer meets: evicted or not, as the state's counter gives; a clean copy is
dropped, its line read again from its home; a dirty one enters the loss list. -/
def settleLlcLine (s : State) (line : Nat) : State :=
  let t := { s with freeCount := s.freeCount + 2 }
  if Config.freeBit s.freeCount then
    let u := { t with errs := t.errs.filter fun e => !(e.2.llc && e.1 / 16 == line) }
    if Config.freeBit (s.freeCount + 1) then (match ownerOf s (128 * line) with | some pnum => addLoss u pnum line | none => u) else u
  else t
def settleLlc (s : State) : State :=
  (((s.errs.filter fun e => e.2.llc).map fun e => e.1 / 16).eraseDups).foldl settleLlcLine s

/-- R406: a clean stash line with a bad word that no consumer meets: it is dropped and read again from its home, sooner or later,
unless a word of that is bad too. -/
def settleStashLine (s : State) (tile vline : Nat) : State :=
  match smFind (tileAt s tile).lines vline, mapAt (tileAt s tile) (vline * 128) with
  | some l, some (_, m) =>
    let off := stashOff m (vline * 128)
    if (l.st = .S ∨ l.st = .W) ∧ lineErrs s tile off ≠ [] then
      let t := { s with freeCount := s.freeCount + 1 }
      if !Config.freeBit s.freeCount then t
      else if (fillError t l.home).isSome then dropLine (dropLineErrs t tile off) tile vline
      else setLine (fillData t tile off l.home 0) tile vline { l with tags := lineTags t l.home }
    else s
  | _, _ => s
def settleStashes (s : State) : State :=
  if s.serrs = [] then s
  else s.tiles.foldl (fun s e => e.2.lines.foldl (fun s l => settleStashLine s e.1 l.1) s) s

end Sys2Proof.Machine
end

