-- ==== Sys2Proof/Machine/Moves.lean ====
section
/-! DEFINITION. The hardware's own moves: which events each unit has due, the clock (R6, R430), which of them is next, what
an agent core does next (R348, R354), what follows every step, and where a word is put to be fetched next. -/
namespace Sys2Proof.Machine

/-- What the machine may do next: an event or a core's instruction, or a cycle of the clocks. -/
inductive Move
  | due (d : Due)
  | tick
  deriving DecidableEq, Repr

/-- An event, when a condition holds. -/
def evIf (b : Bool) (i : Instr) : List Move := if b then [.due (.ev i)] else []

/-! ## What the units have due -/

/-- What a context has due: a fetch, results, answers, deadlines, a task, a grant, a service entry. -/
def ctxMoves (s : State) (n : Nat) : List Move :=
  let c := ctxOf s n
  evIf c.fetching (.fetchComplete n) ++
  ((List.range c.pend.length).flatMap fun i => evIf true (.resultLand n i)) ++
  (match c.wait with
   | .home _ => evIf (farReady s n) (.homeAnswer n)
   | .leases a lo hi k => evIf (!leasesOut s (partOfCtx s n) a lo hi k) (.homeAnswer n)
   | .kv => evIf true (.kvWalkAnswer n)
   | .peer => evIf true (.peerSpindleAnswer n)
   | .chuck => evIf (shareOwner s chuckCarrier == some (partOfCtx s n)) (.chuckAnswer n)
   | .counter _ => evIf true (.taskTake n)
   | .mailbox _ (some d) => evIf (decide (d ≤ s.time)) (.sleepDeadline n)
   | _ => []) ++
  evIf (c.attnRun && issues s n && !c.answered.contains .kv) (.kvWalkAnswer n) ++
  evIf (c.phase == .parked && c.idle == .idle) (.taskTake n) ++
  evIf (c.claim.any fun k => k.phase == .waiting) (.claimGrant n) ++
  evIf (c.phase == .live && c.count == 0 && hasRequest c) (.serviceDeadline n) ++
  evIf c.enterNow (.serviceEntry n)

/-- R253: whether a spindle has a cycle to offer. -/
def offerDue (s : State) (sp : Nat) : Bool :=
  decide ((spinAt s sp).nextCycle ≤ (dieAt s (dieOfSpindle sp)).cyc) && !(rotation s sp).isEmpty
/-- R143, R253: the spindles that have a cycle to offer next: of each tile the lowest, so that commands of one cycle enter
its queues in ascending spindle number. -/
def offersDue (s : State) : List Nat :=
  ((s.ctxs.map fun e => spindleOf e.1).eraseDups).filter fun sp =>
    offerDue s sp && (List.range (sp % 8)).all fun i => !offerDue s (sp / 8 * 8 + i)

/-- R255: the spindles whose budgets are refilled in this cycle. -/
def refillsDue (s : State) : List Nat :=
  ((s.ctxs.map fun e => spindleOf e.1).eraseDups).filter fun sp =>
    decide ((spinAt s sp).window < (dieAt s (dieOfSpindle sp)).cyc / 1024)

/-- R144: what a queue has due: its head starts, completes, or, for a copy, delivers a byte. -/
def queueMoves (sp q : Nat) (x : Queue) : List Move :=
  evIf (headReady x).isSome (.engineCmdStart sp q) ++
  (if x.running then
    if q < 3 then evIf true (.engineCmdComplete sp q)
    else evIf true (.copyDeliver sp (q - 3)) ++ evIf true (.copyComplete sp (q - 3))
   else [])

/-- R218, R219: what a stash line has due. -/
def lineMoves (s : State) (t : Nat) (l : Nat × Line) : List Move :=
  match l.2.st with
  | .F => evIf true (.leaseGrant t l.1)
  | .S | .W => evIf (decide (l.2.expiry ≤ s.time)) (.leaseExpiry t l.1)
  | .D => evIf (decide (l.2.expiry ≤ s.time + l.2.lease / 4)) (.writebackStart t l.1)
  | .B => evIf true (.writebackAccept t l.1)

/-- What a tile has due: its lines and its three engine queues. -/
def tileMoves (s : State) (e : Nat × Tile) : List Move :=
  (e.2.lines.flatMap (lineMoves s e.1)) ++ queueMoves (8 * e.1) 0 e.2.tensor ++ queueMoves (8 * e.1) 1 e.2.conv ++
  queueMoves (8 * e.1) 2 e.2.ringq

/-- What the copy channels of a spindle have due. -/
def spindleMoves (e : Nat × Spindle) : List Move := e.2.chans.flatMap fun c => queueMoves e.1 (3 + c.1) c.2.q

/-- R423: what the head of a stream asks for: the event, and the state that it leaves. -/
def streamHead (s : State) (p : Part) (pnum : Nat) (st : Stream) : Option (Instr × State) :=
  match p.stream st with
  | .cmd slot :: _ =>
    (match (slot.getD 0 0).toNat % 256 with
     | 1 => some (.hsLaunch pnum st, takeLaunch s pnum st)
     | 2 => some (.hsMark pnum st, takeMark s pnum st)
     | 3 => some (.hsPublish pnum st, takePublish s pnum st)
     | _ => some (.hsNop pnum st, takeNop s pnum st))
  | .launch _ :: _ => some (.launchStart pnum st, launchStart s pnum st)
  | [] => none
/-- R423: the event that a stream has due, unless its head waits, as one that waits for leases does once it has asked for them. -/
def streamEvent (s : State) (p : Part) (pnum : Nat) (st : Stream) : Option Instr :=
  match streamHead s p pnum st with
  | some (i, t) => if (partAt t pnum).map (fun x => x.stream st) = some (p.stream st) ∧ t.wants = s.wants then none else some i
  | none => none
/-- R246: the streams of a partition, the one after the last taken first. -/
def streamOrder (p : Part) : List Stream :=
  match p.lastStream with
  | .H => [.A, .D, .H]
  | .A => [.D, .H, .A]
  | .D => [.H, .A, .D]
/-- R246: what Headstock has due for a partition: the first of its streams in round-robin order that does not wait. -/
def streamMoves (s : State) (e : Nat × Part) : List Move :=
  match (streamOrder e.2).findSome? (streamEvent s e.2 e.1) with
  | some i => [.due (.ev i)]
  | none => []

/-- What a partition has due: clearing, its Faceplate and streams, its retiring ASIDs, the end of a host hold. -/
def partMoves (s : State) (e : Nat × Part) : List Move :=
  evIf (e.2.st != .running) (.partitionClearDone e.1) ++
  evIf (e.2.st == .running && e.2.linkPhase == .up && decide (e.2.streamH.length < 64) && !e.2.fpHeld.isEmpty) (.faceplateAccept e.1) ++
  (if shareOwner s headstockCarrier = some e.1 then streamMoves s e else []) ++
  (e.2.asids.flatMap fun a => evIf (a.2.st == .retiring) (.asidSweepDone e.1 a.1)) ++
  evIf (!s.hostUp && e.2.linkPhase == .held && decide (s.hostLost + 1000000 * e.2.hlhold ≤ s.time)) (.hostHoldExpiry e.1)

/-- R405, R406: the blocks in which the patrol scrub finds an error. -/
def scrubMoves (s : State) : List Move :=
  ((((s.errs.filter fun e => !e.2.llc).map (·.1)) ++ (s.cerrs.map (·.1))).map (· / 8)).eraseDups.flatMap fun b => evIf true (.patrolScrub b)

/-! ## Agent cores (R348, R354) -/

/-- Whether core k acts: it is live, its partition runs, and no `.sc` event of it is outstanding. -/
def coreReady (s : State) (k : Nat) : Bool :=
  !(agentAt s k).dead && !coreWaits s k && (running s ((partOfCore s k).getD 8)).isSome

/-- The cores that have an instruction due. -/
def coreMoves (s : State) : List Move :=
  s.parts.flatMap fun e => (e.2.conf.cores.filter (coreReady s)).map fun k => .due (.core k)

/-! ## The next move -/

/-- R245: whether a requester that waits for leases is served as soon as none stands against it: a context whose bundle awaits its
home or refetches, a fetch under way, a running command, a core that acts, what follows every step. -/
def wantLive (s : State) (who : Nat) : Bool :=
  let c := ctxOf s who
  if who < 30000 then
    !(spinAt s (spindleOf who)).dead && !c.halted && ((match c.wait with | .home _ | .kv => true | _ => false) || (c.refetch && issues s who))
  else if who < 60000 then (ctxOf s (who - 30000)).fetching
  else if who < 80000 then (queueAt s ((who - 60000) / 11) ((who - 60000) % 11)).running
  else if who < 90000 then coreReady s (who - 80000)
  else !(decide (90100 ≤ who) && decide (who < 90200))
/-- R183, R218, R267: device times that do not pass before what is bounded by them has happened: the timeout of a future
within 1 µs of its deadline, the effect of an `.sc` event by the end of its window plus 10 ns, the end of a stash line's
lease, a dirty line's write-back by then, the service of what waited for leases (R245). -/
def timeBounds (s : State) : List Nat :=
  ((s.futs.filter fun e => e.2.alive).map fun e => e.2.deadline + 1000) ++
  (s.scOut.map fun e => scBound e.window) ++
  ((s.wantBy.filter fun e => wantLive s e.1).map (·.2)) ++
  (s.lossWalks.map fun w => w.2.2.2 + 1000000) ++
  (s.parts.flatMap fun e =>
    ((e.2.asids.filter fun a => a.2.st == .retiring).map fun a => a.2.since + 40000) ++
    (if !s.hostUp && e.2.linkPhase == .held then [s.hostLost + 1000000 * e.2.hlhold] else [])) ++
  s.tiles.flatMap fun t => (t.2.lines.filter fun l => l.2.st != .F).map fun l => l.2.expiry

/-- R245: the same for Headstock's requests: time comes to such a bound before it passes it. -/
def slackBounds (s : State) : List Nat := (s.wantBy.filter fun e => !wantLive s e.1 && decide (s.time < e.2)).map (·.2)
/-- R6, R430: a cycle: device time goes on by a free amount within its bounds, each compute die by one cycle, or by none while
stretched. Leases of instruction caches that have ended are dropped. -/
def tick (s : State) : State :=
  let t := (timeBounds s ++ slackBounds s).foldl Nat.min (s.time + Config.elapsed s.freeCount)
  let s := (List.range 4).foldl (fun s d =>
    let x := dieAt s d
    setDie s d (if x.stretched && Config.freeBit (s.freeCount + d) then x else tickDie x 1)) s
  { s with time := Nat.max s.time t, freeCount := s.freeCount + 4, svcCycle := s.svcCycle + 1
           ilines := s.ilines.filter fun e => decide (t < e.expiry) }
/-- R245, R253, R255: whether the clocks may go on: every spindle has offered its cycle and refilled its budgets, and no
bounded time has come. -/
def mayTick (s : State) : Bool := (offersDue s).isEmpty && (refillsDue s).isEmpty && (timeBounds s).all fun b => decide (s.time < b)

/-- R432: a device that has not booted boots. -/
def bootMoves (s : State) : List Move := evIf (s.boot.step == 0 && !s.boot.recovery) .deviceReset

/-- Every move that the hardware may make. -/
def moves (s : State) : List Move :=
  bootMoves s ++ ((offersDue s).flatMap fun sp => evIf true (.turnOffer sp)) ++
  ((refillsDue s).flatMap fun sp => evIf true (.budgetRefill sp)) ++
  ((s.ctxs.map (·.1)).flatMap (ctxMoves s)) ++ (s.tiles.flatMap (tileMoves s)) ++ (s.spindles.flatMap spindleMoves) ++
  (s.flights.flatMap fun f => if f.answer.isSome then evIf (answerable s f) (.amsendAnswer f.src) else evIf true (.messageArrive f.src)) ++
  (s.futs.flatMap fun e => evIf (e.2.alive && decide (e.2.deadline ≤ s.time)) (.futureDeadline e.1)) ++
  (s.parts.flatMap (partMoves s)) ++ (s.launches.flatMap fun e => evIf (launchOver s e.2) (.launchEnd e.1)) ++
  (s.lossWalks.flatMap fun w => evIf true (.lossWalkEnd w.1 w.2.1 w.2.2.1)) ++
  evIf ((scFirst s.scOut).any fun e => decide (e.sent + 10 ≤ s.time)) .scAnnounceArrive ++
  scrubMoves s ++ coreMoves s ++ (if mayTick s then [.tick] else [])

/-- The move made: any one of those that may be (log entry 3). -/
def nextMove (s : State) : Move :=
  let ms := moves s
  ms.getD (Config.pick s.freeCount % Nat.max ms.length 1) .tick

/-! ## What follows a step -/

/-- R424: the stream A slots that wait for room. -/
def settleStreams (s : State) : State :=
  s.parts.foldl (fun s e => e.2.apHeld.foldl (fun s i => acceptAllA 65 s e.1 i) s) s

/-- The agent core that an event is an act of. -/
def actor (i : Instr) (s : State) : Option Nat :=
  match i with
  | .agentAccess k _ => some k
  | .streamASlotWrite k _ _ => some k
  | .registerWrite (.csr k _) _ => some k
  | .registerWrite (.controlByCore k _) _ => some k
  | .futTake _ | .futDone _ | .futFail _ | .futExt _ | .sqPeek _ | .sqCtlCreate _ | .sqCtlRetire _ | .sqCtlFree _
  | .sqCtlAdpres _ | .sqCtlPush _ | .sqCtlOutack _ | .sqCfgCallTokenRange _ | .sqCfgCto _ | .sqCfgTimeoutString _
  | .sqCfgFailureString _ | .sqCfgXmax _ | .sqCfgKvrt _ | .sqCfgUecen _ | .capProbe _ => some s.curCore
  | _ => none

/-- R194: the device's own writes that wait, in order, as leases let them. -/
def drainDev (s : State) : List DevWrite → State
  | [] => setWants { s with devWrites := [] } 90202 []
  | w :: ws =>
    match devHolds s w with
    | [] => drainDev (devPut s w) ws
    | hs => setWants { s with devWrites := w :: ws } 90202 hs
def settleDev (s : State) : State := if s.devWrites = [] then s else drainDev s s.devWrites
/-- What has waited for leases: writes of the device itself, Headstock's, the host's accesses, and other devices'. -/
def settleOutside (s : State) : State := settleRemote (settleHost (settleRecords (settleDev s)))

/-- What follows every step: errors that struck, monitors, saved contexts, whose areas may hold entries that are watched, the agent
cores' copies, streams, and contexts that join. -/
def settle (old s : State) (who : Option Nat) : State :=
  settleJoins old (settleMonitors (settleStreams (settleAgents old (settleL2 (settleSaved old (settleRequests (settleFeeds (settleOutside (settleMonitors (settleStashes (settleLlc (settleStrikes s))))))))) who)))

/-- A step begins: the agenda's head is taken, and its free values are fresh. -/
def begin (s : State) (rest : List Due) : State := { s with agenda := rest, freeCount := s.freeCount + 1 }

/-! ## Where a word is fetched next (log entry 4) -/

/-- A partition that owns core 0, tile 0, slice 0 and HBM4E channel 0, and runs. -/
def soloPart : Part :=
  { st := .running, conf := ⟨[0], [0], [0], [], [0], [], [], 0, 0, 0, 0, 0, 0, 0, 0, 0, [], []⟩ }

/-- A 32-bit word is core 0's next instruction: at physical address 0, in M-mode. -/
def withCoreWord (s : State) (w : Nat) : State :=
  let s := { s with parts := [(0, soloPart)], dom := { s.dom with devnum := some 0 }, boot := { s.boot with step := 7, recovery := false }
                    errs := [], agenda := [.core 0] }
  let s := { s with mem := smSetList 0 s.mem 0 (leBytes 4 w) }
  modAgent s 0 fun a =>
    { a with pc := 0, mode := .M, dead := false, mstatus := setField a.mstatus 3 3 0, icode := [], csr := smDel (smDel a.csr 0x3A0) 0x3A2
             l2Errs := [] }

/-- A 64-bit slot word is the next bundle of context 0, alone with STOP set, in its fetch buffer. -/
def withSlotWord (s : State) (w : Nat) : State :=
  let h := (Bundle.single 0 (word w)).hdr.toNat
  let line : FetchLine := ⟨0, leBytes 64 (0xFFFF + h * 2 ^ 16 + w % 2 ^ 64 * 2 ^ 32), none, false, []⟩
  let s := { s with parts := [(0, soloPart)], dom := { s.dom with devnum := some 0 }, boot := { s.boot with step := 7, recovery := false }
                    agenda := [.ev (.turnOffer 0)] }
  let s := modSpin s 0 fun x => { x with last := 15, nextCycle := 0, window := (dieAt s 0).cyc / 1024, dead := false }
  modCtx s 0 fun c =>
    { c with phase := .live, why := .none, wait := .nothing, svc := false, pc := 0, fbuf := [line], held := none, ebud := 0xFFFF
             mayOffer := 0, joins := 0, scOut := 0, enterNow := false }

/-- An instruction's bits put where the next step fetches them; a row with no bits has nothing to fetch. -/
def placeWord (s : State) (nbits w : Nat) : State :=
  if nbits = 32 then withCoreWord s w else if nbits = 64 then withSlotWord s w else s

end Sys2Proof.Machine
end

