-- ==== Sys2Proof/Machine/Step.lean ====
section
/-! DEFINITION. One step: the event or the instruction at the head of the agenda, else a move of the hardware. -/
namespace Sys2Proof.Machine

/-- What an instruction leaves, with what follows every step. -/
def finish (old : State) (who : Option Nat) (r : Host.Outcome State Fault Refusal) : Host.Outcome State Fault Refusal :=
  match r with
  | .next t => .next (settle old t who)
  | r => r

/-- An event or an instruction. -/
def stepInstr (i : Instr) (s : State) : Host.Outcome State Fault Refusal := finish s (actor i s) (exec i s)

/-- R354: what a core does with the bits that it has fetched: an Xmerf instruction, refined by what rs1 holds; a reserved form of
custom-0, which is illegal in every mode; or an instruction of the base set (R348). -/
def stepWord (k w len : Nat) (s : State) : Host.Outcome State Fault Refusal :=
  if len = 4 ∧ w % 128 = 0x0B then
    match decodeXmerf (BitVec.ofNat 32 w) with
    | .ok i => stepInstr (i.refine (agX (agentAt s k) (RTy.unpack (BitVec.ofNat 32 w)).rs1.toNat)) s
    | .error _ => finish s (some k) (.next (coreTrap s k { cause := 2, tval := w }))
  else finish s (some k) (.next (rvWord k w len s))

/-- R348, R354: the next act of an agent core: a pending interrupt, or its next instruction. -/
def stepCore (k : Nat) (s : State) : Host.Outcome State Fault Refusal :=
  let s := { s with curCore := k }
  needUnit s k <|
    match pendingIrq s (agentAt s k) with
    | some (i, m) => finish s (some k) (.next (modAgent s k fun a => trapIrq a i m))
    | none =>
      let s := farGone s k
      match coreFetch s k with
      | .trap e => finish s (some k) (.next (coreTrap s k e))
      | .wait hs => finish s (some k) (.next (setWants s (coreKey k) hs))
      | .word w len pas reads => stepWord k w len (fetched (correct s reads) k pas)

/-- What is due is done. -/
def stepDue (d : Due) (s : State) : Host.Outcome State Fault Refusal :=
  match d with
  | .ev i => stepInstr i s
  | .core k => stepCore k s

/-- A step of the machine. -/
def step (s : State) : Host.Outcome State Fault Refusal :=
  match s.agenda with
  | d :: rest => stepDue d (begin s rest)
  | [] =>
    match nextMove s with
    | .due d => stepDue d (begin s [])
    | .tick => finish s none (.next (tick (begin s [])))

/-- The state in which the next step fetches and runs the instruction of the given bits. -/
def State.withFetchWord (s : State) (nbits w : Nat) : State := placeWord s nbits w

end Sys2Proof.Machine
end

