-- ==== Sys2Proof/Machine/Depend.lean ====
section
/-! DEFINITION. Dependences (R172): the registers that a slot word reads and writes, from its fields and its opcode's operand
spaces, and how the values of read events pass through slot results, rotating registers and q latches to the operands of later
operations. -/
namespace Sys2Proof.Ordering
open Sys2Proof.Machine

/-- R172: what a value passes through: a physical register, a stage accumulator or operand buffer (R160), or a q latch. x0, p0 and m0 are none, and neither are memory, channels
and control registers. -/
inductive Carrier | x (n : Nat) | v (n : Nat) | p (n : Nat) | m (n : Nat) | sa (n : Nat) | buf (side : Nat) | q (slot : Nat)
  deriving DecidableEq, Repr

/-- R47: the rotation offsets at a bundle's issue. -/
structure Rotation where
  xo : Nat := 0
  vo : Nat := 0
  deriving DecidableEq, Repr

/-- R45, R47: an x register by name. -/
def Rotation.x (r : Rotation) (n : Nat) : List Carrier :=
  if n = 0 then [] else if n < 32 then [.x n] else [.x (32 + (n + 32 - r.xo % 32) % 32)]
/-- R47: a v register by name. -/
def Rotation.v (r : Rotation) (n : Nat) : List Carrier :=
  if n < 128 then [.v n] else [.v (128 + (n + 128 - r.vo % 256) % 256)]
/-- R45: a predicate. -/
def predCarrier (n : Nat) : List Carrier := if n = 0 then [] else [.p n]
/-- R45: a mask. -/
def maskCarrier (n : Nat) : List Carrier := if n = 0 then [] else [.m n]

/-- R41: the carrier of a scalar-space specifier; a channel is none. -/
def Rotation.inS (r : Rotation) (s : BitVec 9) : List Carrier :=
  let n := s.toNat
  if n < 64 then r.x n else if n < 96 then predCarrier (n - 64) else if 112 ≤ n ∧ n < 117 then [.q (n - 112)] else []
/-- R41: the carrier of a vector-space specifier. -/
def Rotation.inV (r : Rotation) (s : BitVec 9) : List Carrier :=
  let n := s.toNat
  if n < 384 then r.v n else if n < 392 then maskCarrier (n - 384) else if 392 ≤ n ∧ n < 397 then [.q (n - 392)]
  else if 400 ≤ n ∧ n < 464 then r.x (n - 400) else []
/-- R41: a stage accumulator, for a specifier that may be one. -/
def saCarrier (s : BitVec 9) : List Carrier := let n := s.toNat; if 148 ≤ n ∧ n < 152 then [.sa (n - 148)] else []

/-- R42, R56: the carriers that a destination is; a channel and a control register are none. -/
def Rotation.dst (r : Rotation) : Dst → List Carrier
  | .x n => r.x n
  | .p n => predCarrier n
  | .v n => r.v n
  | .m n => maskCarrier n
  | .ch _ | .creg _ | .span => []

/-- R172: the operands of a slot operation by what a dependence through them is: the base register (the address operands of a KV or
attention operation, and the length of `cpub`, with it), the data register, the other sources, and the condition of a branch. -/
structure Uses where
  guard : List Carrier := []
  base : List Carrier := []
  data : List Carrier := []
  srcs : List Carrier := []
  cond : Option (List Carrier) := none
  dests : List Carrier := []
  deriving DecidableEq, Repr

/-- R160, R163: the accumulators that hold the output of an attention computation. -/
def attnOut : List Carrier := [.sa 1, .sa 2, .sa 3]
/-- R161, R162, R164: the operands of a stage or attention operation. An accumulator that is written in part keeps what the rest of it
depends on, and so counts as read too. -/
def stageUses (r : Rotation) (op : Nat) (w : Word) : Uses :=
  let f := RRR.unpack w
  let addr := r.inS f.a ++ r.inS f.b ++ r.inS f.c
  let bit0 := f.md.getLsbD 0
  match op with
  | 0x95 => { base := r.inS f.a ++ r.inS f.b, dests := [.buf (if bit0 then 1 else 0)] }
  | 0x96 | 0x97 => { srcs := [.buf 0, .buf 1] ++ saCarrier f.d, dests := saCarrier f.d }
  | 0x98 => { base := r.inS f.a ++ r.inS f.b, data := saCarrier f.c }
  | 0x99 => { dests := if bit0 then (List.range 4).map .sa else saCarrier f.d }
  | 0x9A => if bit0 then { srcs := r.inV f.a ++ saCarrier f.d, dests := saCarrier f.d } else { srcs := saCarrier f.a }
  | 0x9B =>
    let part := (if bit0 then [Carrier.sa 0] else []) ++ (if f.md.getLsbD 1 then attnOut else [])
    { base := addr, srcs := part, dests := part }
  | 0x9D => { base := addr, srcs := [.sa 0], dests := [.sa 0] }
  | 0x9E => { base := addr, srcs := attnOut, dests := attnOut }
  | _ => { base := addr }

/-- R114 to R139: whether a vector operation's field b, or its field c, is a vector-space source. -/
def vecReadsB (op : Nat) : Bool := !(0x68 ≤ op && op ≤ 0x7A) && !(op == 0x7C || op == 0x7D || op == 0x7F)
def vecReadsC (op : Nat) : Bool := [0x53, 0x54, 0x55, 0x5A, 0x5E, 0x64, 0x67].contains op
/-- R36: the format of an opcode of the vector group is RRI. -/
def vecImm (op : Nat) : Bool := op == 0x7C || op == 0x7D || op == 0x7F
/-- R113, R134: an operation that keeps the old elements of d where its governing mask is 0 and ZM is not set. -/
def vecMerges (op : Nat) (f : RRR) : Bool := !vecImm op && !(0x77 ≤ op && op ≤ 0x7A) && !f.zm && f.msk != 0

/-- The operands of a vector operation. -/
def vecSrcs (r : Rotation) (op : Nat) (w : Word) : List Carrier :=
  let f := RRR.unpack w
  (if op = 0x7C then [] else r.inV f.a) ++ (if vecReadsB op then r.inV f.b else []) ++ (if vecReadsC op then r.inV f.c else []) ++
    (if vecImm op then [] else maskCarrier f.msk) ++ (if vecMerges op f then r.inV f.d else [])

/-- R206, R212, R214, R235: the loads, the stores by the space of their data, and the atomics. -/
def isLoadOp (op : Nat) : Bool := (0xA0 ≤ op && op ≤ 0xA6) || op == 0xAB || op == 0xAD
def isStoreOp (op : Nat) : Bool := (0xA7 ≤ op && op ≤ 0xAA) || op == 0xAC || op == 0xAE
def isVecMem (op : Nat) : Bool := 0xAB ≤ op && op ≤ 0xAE
def isAmoOp (op : Nat) : Bool := 0xBA ≤ op && op ≤ 0xC4
/-- R168: the KV loads and appends and the attention instructions, whose accesses are events of the issuing context. -/
def isKvOp (op : Nat) : Bool := (0xCA ≤ op && op ≤ 0xCC) || op == 0x9C || op == 0x9E
/-- R36, R65: the opcodes of format ENG, whose operands are x registers; their accesses are events of a queue. -/
def isEngOp (op : Nat) : Bool := (0x80 ≤ op && op ≤ 0x93 && op != 0x8D) || op == 0x9F || (0xB3 ≤ op && op ≤ 0xB6) || op == 0xC8

/-- The operands of a MEM operation. -/
def memUses (r : Rotation) (op : Nat) (w : Word) : Uses :=
  let f := MEMF.unpack w
  let d := f.data
  if op = 0xC5 then {}
  else if op = 0xC6 then { base := r.inS f.base ++ r.inS d }
  else if isStoreOp op then { base := r.inS f.base, data := if isVecMem op then r.inV d else r.inS d }
  else if op = 0xC3 then { base := r.inS f.base, data := r.x d.toNat ++ r.x (d.toNat + 1) }
  else if isAmoOp op then { base := r.inS f.base, data := r.x d.toNat }
  else { base := r.inS f.base }

/-- R36, R65, R66: the opcodes outside the vector group of format RRI. -/
def isScalarImm (op : Nat) : Bool :=
  [0x02, 0x16, 0x17, 0x18, 0x1C, 0x1D, 0x1E, 0x23, 0x24, 0x2D, 0x2F, 0x30, 0x3E, 0xD3, 0xD5, 0xDF, 0xE1, 0xEC, 0xF5].contains op

/-- R172: the operands of a slot word, its destinations among them; an operation with a result has its slot's latch for one (R43). -/
def usesOf (r : Rotation) (slot : Nat) (w : Word) : Uses :=
  let op := (opField w).toNat
  let f := RRR.unpack w
  let three := r.inS f.a ++ r.inS f.b ++ r.inS f.c
  let ds := (slotMeaning w).dests
  let u : Uses :=
    if op = 0x32 then { cond := some [] }
    else if op = 0x33 then { srcs := r.inS f.a, cond := some [] }
    else if op = 0x34 ∨ op = 0x35 then { cond := some [] }
    else if op = 0x36 then { cond := some (r.inS (BRF.unpack w).link) }
    else if op = 0x21 ∨ op = 0xC9 ∨ op = 0xF0 ∨ op = 0xFB then {}
    else if op = 0x22 then { srcs := r.inS (RI.unpack w).d }
    else if op = 0x25 then { srcs := r.inS f.a ++ r.inS f.d }
    else if isScalarImm op then { srcs := r.inS f.a }
    else if 0x40 ≤ op ∧ op < 0x80 then { srcs := vecSrcs r op w }
    else if 0x95 ≤ op ∧ op ≤ 0x9E then stageUses r op w
    else if isLoadOp op ∨ isStoreOp op ∨ isAmoOp op ∨ op = 0xC5 ∨ op = 0xC6 ∨ op = 0xCD then memUses r op w
    else if isKvOp op then { base := three }
    else if isEngOp op then {}
    else { srcs := three }
  { u with guard := predCarrier (RRR.unpack w).gp.toNat
           dests := u.dests ++ ds.flatMap r.dst ++ (if ds.any fun d => match d with | .creg _ | .span => false | _ => true then [.q slot] else []) }

/-! ## A context's bundles and their results, in the order in which they issue and land -/

/-- R62: an operation of a bundle: its slot and word, whether it was nullified (R40), whether a remote access of it failed (R205), and
what it returned, where that tells if it is a side of a pair of R184: its scalar result; for `join` the counter that it read; for
`amrecv` whether it dispatched a message. -/
structure TraceOp where
  slot : Nat
  word : Word
  null : Bool := false
  failed : Bool := false
  res : Option Nat := none
  deriving DecidableEq, Repr

/-- R171: a bundle as it issued: its place in program order, MA (R59), the rotation, its operations. -/
structure TraceBundle where
  issue : Nat
  ma : Bool := false
  rot : Rotation := {}
  ops : List TraceOp
  deriving DecidableEq, Repr

/-- R53, R54: bundles issue and results land. -/
inductive Happening
  | issue (b : TraceBundle)
  | land (issue slot : Nat)
  deriving DecidableEq, Repr

/-- R172: the reads on which an operation depends, by kind. -/
structure Deps where
  addr : List Nat := []
  data : List Nat := []
  guard : List Nat := []
  ctrl : List Nat := []
  deriving DecidableEq, Repr
def Deps.all (d : Deps) : List Nat := d.addr ++ d.data ++ d.guard ++ d.ctrl

/-- A result that is outstanding: its bundle and slot, its destinations, the reads that its value comes from. -/
structure Outstanding where
  issue : Nat
  slot : Nat
  dests : List Carrier
  from' : List Nat
  deriving DecidableEq, Repr

/-- What has been derived so far: for each carrier, the bundle whose result it holds and the reads that it comes from; the results
outstanding; the reads that a branch depended on; each operation's dependences. -/
structure Flow where
  file : List (Carrier × Nat × List Nat) := []
  out : List Outstanding := []
  branched : List Nat := []
  found : List ((Nat × Nat) × Deps) := []
  deriving DecidableEq, Repr

/-- The reads that carriers' values come from. -/
def Flow.reads (f : Flow) (cs : List Carrier) : List Nat :=
  cs.flatMap fun c => ((f.file.find? fun e => e.1 == c).map (·.2.2)).getD []

/-- R43: a result enters its carriers; a latch keeps the result of an operation issued later. -/
def Flow.land (f : Flow) (o : Outstanding) : Flow :=
  let later (c : Carrier) : Bool := match c with
    | .q _ => f.file.any fun e => e.1 == c && decide (o.issue < e.2.1)
    | _ => false
  let cs := o.dests.filter fun c => !later c
  { f with file := cs.map (fun c => (c, o.issue, o.from')) ++ f.file.filter fun e => !cs.contains e.1
           out := f.out.filter fun p => !(p.issue == o.issue && p.slot == o.slot) }

/-- One operation of a bundle, the registers read before any result of the bundle lands (R53): `mine` are the reads that it makes. -/
def Flow.op (f0 f : Flow) (b : TraceBundle) (o : TraceOp) (mine : List Nat) : Flow :=
  let u := usesOf b.rot o.slot o.word
  let guard := f0.reads u.guard
  let d : Deps := { addr := f0.reads u.base, data := f0.reads u.data, guard := guard, ctrl := f0.branched }
  { f with
    found := f.found ++ [((b.issue, o.slot), d)]
    branched := f.branched ++ (match u.cond with | some c => guard ++ f0.reads c | none => [])
    out := if o.null then f.out else f.out ++ [⟨b.issue, o.slot, u.dests, mine ++ f0.reads u.srcs ++ guard⟩] }

/-- R172: one happening; `mine` gives the reads that an operation makes. -/
def Flow.step (mine : Nat → Nat → List Nat) (f : Flow) : Happening → Flow
  | .issue b => b.ops.foldl (fun g o => Flow.op f g b o (mine b.issue o.slot)) f
  | .land i k => (f.out.filter fun o => o.issue == i && o.slot == k).foldl Flow.land f

/-- R172: the dependences of every operation of a context. -/
def flowOf (mine : Nat → Nat → List Nat) (hs : List Happening) : List ((Nat × Nat) × Deps) := (hs.foldl (Flow.step mine) {}).found

end Sys2Proof.Ordering
end

