-- ==== Sys2Proof/Machine/Ordering.lean ====
section
/-! DEFINITION. The memory model (R25, R168 to R205): candidate executions as finite data, what makes each event and with which
order, scope and atomic groups, the edges each rule gives, and the axioms that an allowed execution satisfies. The machine's own
steps perform each access at once; which other outcomes the hardware may show is what these axioms say (log entry 6). -/
namespace Sys2Proof.Ordering
open Sys2Proof.Machine

/-- R25, R39: the ordering scopes. -/
inductive Scope | core | tile | die | dev | dom | sys
  deriving DecidableEq, Repr
/-- R39: the orders. -/
inductive Order | rlx | acq | rel | ar | sc
  deriving DecidableEq, Repr

/-- R25, R168: the agents of an execution, each with its device. The Chuck and Headstock are attributed to the agent die. The queues of
a tile are numbered: 0 tensor, 1 conversion, 2 ring, and 3 + 8 j + c for copy channel c of its spindle j. -/
inductive Agent
  | ctx (dev n : Nat)
  | queue (dev tile q : Nat)
  | agentCore (dev k : Nat)
  | chuck (dev : Nat)
  | headstock (dev : Nat)
  | host
  deriving DecidableEq, Repr

/-! ## Scope instances (R25) -/

/-- A scope's breadth. -/
def Scope.rank : Scope → Nat
  | .core => 0
  | .tile => 1
  | .die => 2
  | .dev => 3
  | .dom => 4
  | .sys => 5
/-- The narrower of two scopes. -/
def Scope.narrower (a b : Scope) : Scope := if a.rank ≤ b.rank then a else b

/-- The device of an agent; the host has none. -/
def Agent.dev : Agent → Option Nat
  | .ctx d _ | .queue d _ _ | .agentCore d _ | .chuck d | .headstock d => some d
  | .host => none
/-- R13, R14: the die of an agent within its device: compute dies 0 to 3, the agent die 4. -/
def Agent.die : Agent → Option (Nat × Nat)
  | .ctx d n => some (d, n / 6144)
  | .queue d t _ => some (d, t / 48)
  | .agentCore d _ | .chuck d | .headstock d => some (d, 4)
  | .host => none
/-- The tile of an agent. -/
def Agent.tile : Agent → Option (Nat × Nat)
  | .ctx d n => some (d, n / 128)
  | .queue d t _ => some (d, t)
  | _ => none
/-- The spindle of a context. -/
def Agent.spindle : Agent → Option (Nat × Nat)
  | .ctx d n => some (d, n / 16)
  | _ => none

/-- Two agents of one group: the same agent, or both of the same group. -/
def sameGroup {α : Type} [DecidableEq α] (f : Agent → Option α) (a b : Agent) : Bool :=
  a == b || ((f a).isSome && decide (f a = f b))

/-- R25, R9: whether two agents lie in one instance of a scope. -/
def scopeContains (s : Scope) (a b : Agent) : Bool :=
  match s with
  | .core => sameGroup Agent.spindle a b
  | .tile => sameGroup Agent.tile a b
  | .die => sameGroup Agent.die a b
  | .dev => sameGroup Agent.dev a b
  | .dom => a == b || (a != .host && b != .host)
  | .sys => true

/-- R25: an instance of a scope, by one of its agents. -/
structure Inst where
  scope : Scope
  of : Agent
  deriving DecidableEq, Repr
/-- Whether an instance has an agent. -/
def Inst.has (i : Inst) (a : Agent) : Bool := scopeContains i.scope i.of a

/-- R25: the scopes at which an agent is alone in its instance: an agent core at `.core` and `.tile`; an engine queue below the tile,
the Chuck and Headstock below the die; the host below `.sys`. -/
def alone (s : Scope) (a : Agent) : Bool :=
  match a with
  | .ctx _ _ => false
  | .queue _ _ _ => s == .core
  | .agentCore _ _ | .chuck _ | .headstock _ => s == .core || s == .tile
  | .host => s != .sys
/-- R174: whether an agent's instance of a scope contains every agent of an instance. -/
def covers (s : Scope) (a : Agent) (i : Inst) : Bool :=
  scopeContains s a i.of && (alone i.scope i.of || decide (i.scope.rank ≤ s.rank))

/-! ## Synchronisation (R184) and completion (R189) -/

/-- R184, R355: the pairs that synchronise; `sequence` is an agent core's `sq.ctl` or `sq.cfg`, whose order R355 gives. -/
inductive Sync
  | channel | message | fork | joined | helperStart | helperEnd | launch | barrier | call | answer | timeout | dictionary
  | delivery | token | copyBarrier | sequence
  deriving DecidableEq, Repr

/-- R184: the narrowest scope of a list that contains two agents. -/
def narrowest (a b : Agent) : List Scope → Scope
  | [] => .sys
  | s :: ss => if scopeContains s a b then s else narrowest a b ss

/-- R184: the scope of a synchronisation between two agents, the completion scope of the command given. -/
def Sync.scope (k : Sync) (a b : Agent) (completion : Scope) : Scope :=
  match k with
  | .channel => narrowest a b [.core, .tile, .die, .dev]
  | .message | .fork | .joined => narrowest a b [.core, .tile, .die, .dev, .dom, .sys]
  | .helperStart | .helperEnd => .core
  | .launch | .call | .answer | .timeout | .sequence => .dev
  | .barrier | .dictionary | .copyBarrier => .tile
  | .delivery | .token => completion

/-- R184: the opcodes whose operation is the release of a pair in a context; none where no opcode alone is (a channel push, the end of
a helper with its bundle). -/
def Sync.releaseOps : Sync → List Nat
  | .message => [0xDD, 0xDE]
  | .fork => [0xD6, 0xD7]
  | .joined => [0xEE]
  | .helperStart => [0xD0]
  | .launch => [0xEB]
  | .barrier => [0xB8]
  | .call => [0xE2, 0xE7]
  | .dictionary => [0xFA]
  | _ => []
/-- R184: the opcodes whose operation is the acquire of a pair in a context; none where it is a start or an issue. -/
def Sync.acquireOps : Sync → List Nat
  | .message => [0xDF]
  | .joined => [0xD8, 0xD9]
  | .helperEnd => [0xD1]
  | .barrier => [0xB9, 0xCE]
  | .copyBarrier => [0xB9]
  | .answer | .timeout => [0xE3, 0xE4, 0xE6]
  | .delivery => [0x2F]
  | .token => [0xC8, 0xC9]
  | _ => []

/-- R184: whether a pair's scope is the narrowest that holds both ends, each of which then names the other. -/
def Sync.paired : Sync → Bool
  | .channel | .message | .fork | .joined => true
  | _ => false
/-- R184: the sides of pairs that an operation which has passed is, by its opcode and what it returned: a release of a pair, or an
acquire of one of several. Where no result tells, it is none that must be there. -/
def Sync.sides (op : Nat) (res : Option Nat) : List (Bool × List Sync) :=
  match op, res with
  | 0xDD, _ => [(true, [.message])]
  | 0xDE, some 0 => [(true, [.message])]
  | 0xDF, some _ => [(false, [.message])]
  | 0xD6, some 0 | 0xD7, some 0 => [(true, [.fork])]
  | 0xEE, _ => [(true, [.joined])]
  | 0xD8, some 0 => [(false, [.joined])]
  | 0xD8, some _ => [(false, [.fork])]
  | 0xD9, some 0 => [(false, [.joined])]
  | 0xD0, some 0 => [(true, [.helperStart])]
  | 0xD1, some 0 => [(false, [.helperEnd])]
  | 0xEB, some 0 => [(true, [.launch])]
  | 0xB8, _ => [(true, [.barrier])]
  | 0xB9, _ => [(false, [.barrier, .copyBarrier])]
  | 0xCE, some v => if v.testBit 32 then [(false, [.barrier])] else []
  | 0xE2, some v => if v.testBit 63 then [] else [(true, [.call])]
  | 0xE3, some v | 0xE4, some v => if v = 0 ∨ v = 8 ∨ v = 9 then [(false, [.answer, .timeout])] else []
  | 0xFA, _ => [(true, [.dictionary])]
  | 0xC9, some 1 => [(false, [.token])]
  | _, _ => []

/-- R18, R19: where an address lies, seen from a device. -/
inductive Home | here | device | host
  deriving DecidableEq, Repr
/-- R18, R19: where a global physical address lies, seen from device dev. -/
def homeOf (dev pa : Nat) : Home := if paDev pa ≠ dev then .device else if isHost (paLocal pa) then .host else .here

/-- R350: the scope of an access by its target. -/
def Home.scope : Home → Scope | .here => .dev | .device => .dom | .host => .sys
/-- R189, R226: the completion scope of a command, by its opcode and where its destination lies: `cp.put` writes memory, `cp.rput`
the stash of a tile of this device or another; every other command writes its own tile's stash or tensor state. -/
def completionOf (op : Nat) (h : Home) : Scope :=
  if op = 0xB4 then (match h with | .here => .dev | .device => .dom | .host => .sys)
  else if op = 0xB5 then (if h = .here then .dev else .dom)
  else .tile

/-- R185, R186, R187: a command of an execution: its queue, its place there, the context that issued it with the bundle's place in
program order, its opcode, where its destination lies, and the commands that its consumed tokens bind to. -/
structure Command where
  queue : Agent
  place : Nat
  issuer : Agent
  issue : Nat
  op : Nat
  dest : Home := .here
  uses : List Nat := []
  deriving DecidableEq, Repr
def Command.completes (c : Command) : Scope := completionOf c.op c.dest
/-- R187: the tensor and conversion queues run one command at a time. -/
def Command.serial (c : Command) : Bool := match c.queue with | .queue _ _ q => q == 0 || q == 1 | _ => false
/-- R190: a command of a copy channel. -/
def Command.copies (c : Command) : Bool := match c.queue with | .queue _ _ q => decide (3 ≤ q) | _ => false

/-! ## Agent cores (R203, R350) -/

/-- R203: the forms of an agent core's access, and of its fences. -/
inductive RvForm | plain | aq | rl | aqrl
  deriving DecidableEq, Repr
/-- R203: whether a FENCE's predecessor and successor sets name reads and writes. -/
structure RvFence where
  pr : Bool
  pw : Bool
  sr : Bool
  sw : Bool
  tso : Bool
  deriving DecidableEq, Repr

/-- R181, R350: the order of an access with both annotations, at the scope in `xfscope`. -/
def bothOrder (xf : Scope) : Order := if xf.rank ≤ 3 then .sc else .ar
/-- R203, R350: the order and scope of an agent core's access, by its form, its target and the scope in `xfscope`. -/
def rvAccess (form : RvForm) (h : Home) (xf : Scope) : Order × Scope :=
  match form with
  | .plain => (.rlx, h.scope)
  | .aq => (.acq, xf)
  | .rl => (.rel, xf)
  | .aqrl => (bothOrder xf, xf)
/-- R203: whether a FENCE orders a write before a later read, by its sets and so by no row but the last. -/
def RvFence.full (f : RvFence) : Bool := !f.tso && f.pw && f.sr
/-- R203, R350: a FENCE acts as the first row of the fence table that orders all its pairs, at the scope in `xfscope`; the last row is
`.sc` where `.sc` is accepted. -/
def rvFence (f : RvFence) (xf : Scope) : Order :=
  if f.tso then .ar
  else if !f.pw then .acq
  else if !f.sr then .rel
  else bothOrder xf

/-! ## Events (R168, R169) -/

/-- R168: what an event is. A synchronisation of R184 is a release write and an acquire read of a location that no program
can address. A cpub sets publish bits; ifence and fetch are as R195 to R200 say. -/
inductive Kind | read | write | rmw | fence | cpub | ifence | fetch
  deriving DecidableEq, Repr

/-- R168: what makes an event: an operation of a slot of its context's bundle; one side of a pair of R184 (the other side's agent
given), for a queue of a command's bytes below an address (R229); an access of an engine command; a fetch; a walker's table read for
an access (R327); an agent core's access or fence; the host; the Chuck's token copy; Headstock's PUBLISH (R423); a record of the device
in host memory (R373, R423). -/
inductive Made
  | op (slot : Nat)
  | sync (k : Sync) (peer : Agent) (below : Nat)
  | engine
  | fetch
  | walk (access : Nat)
  | rv (form : RvForm) (home : Home) (xf : Scope)
  | rvFence (f : RvFence) (xf : Scope)
  | host
  | chuck
  | publish
  | record
  deriving DecidableEq, Repr

/-- R168: one event. Its agent; for a context's event the issue index of its bundle; for an engine event its command. -/
structure Event where
  agent : Agent
  made : Made
  kind : Kind
  order : Order := .rlx
  scope : Scope := .tile
  /-- R171: the issue index of its bundle in its agent's program order; for the host the place in CXL.mem's delivery (R204) -/
  issue : Nat := 0
  /-- R173 row 7, R186, R211: the stash offsets that it accesses -/
  stash : List Nat := []
  /-- the bytes that it reads -/
  reads : List Nat := []
  /-- the bytes that it writes, with their values -/
  writes : List (Nat × Byte) := []
  /-- the command of an engine event -/
  cmd : Option Nat := none
  /-- R182: its window, core number and issue order in S -/
  window : Nat × Nat × Nat := (0, 0, 0)
  /-- R190, R228: of an engine event, the address, as its copy's destination counts it, of the first byte that it writes -/
  va : Nat := 0
  /-- R199: whether a fetch goes into an empty buffer -/
  emptyBuf : Bool := false
  deriving DecidableEq, Repr

/-- R168: a candidate execution: its events by index; for each byte the coherence order of its writers, the initial value
first and unlisted; for each byte that an event reads, its writer, none for the initial value; the bundles of each context as they
issued and their results as they landed; its engine commands by index; the order that the host's architecture gives its accesses (R204);
the syntactic dependences of agent cores' accesses, as RISC-V gives them (R203); the lines published at the start. -/
structure Exec where
  events : List Event
  co : List (Nat × List Nat)
  rf : List (Nat × Nat × Option Nat)
  threads : List (Agent × List Happening) := []
  cmds : List Command := []
  host : List (Nat × Nat) := []
  coreDeps : List (Nat × Deps) := []
  published : List Nat := []
  deriving DecidableEq, Repr

/-- The initial value of every byte (the litmus examples). -/
def initial : Byte := 0

/-- R196: the location of the publish bit of a byte's 128-byte line. -/
def pubLoc (a : Nat) : Nat := 2 ^ 64 + a / 128
/-- R184: a location that no program can address. -/
def syncLoc (k : Nat) : Nat := 2 ^ 65 + k
/-- A byte of a stash's scratch; tile t of device d is counted as 192 d + t. -/
def scratchLoc (tile o : Nat) : Nat := 2 ^ 66 + tile * 2 ^ 22 + o
/-- R18: where a location lies, seen from a device. -/
def homeAt (dev l : Nat) : Home :=
  if l < 2 ^ 64 then homeOf dev l else if 2 ^ 66 ≤ l ∧ (l - 2 ^ 66) / 2 ^ 22 / 192 ≠ dev then .device else .here
/-- The farthest of the homes of locations. -/
def farthest (dev : Nat) (ls : List Nat) : Home :=
  ls.foldl (fun h l => if h.scope.rank < (homeAt dev l).scope.rank then homeAt dev l else h) .here
/-- A byte of memory. -/
def isMemLoc (l : Nat) : Bool := decide (l < 2 ^ 64)
/-- The location of a publish bit. -/
def isPubLoc (l : Nat) : Bool := decide (2 ^ 64 ≤ l ∧ l < 2 ^ 65)

def Event.isRead (e : Event) : Bool := e.kind == .read || e.kind == .rmw
def Event.isWrite (e : Event) : Bool := e.kind == .write || e.kind == .rmw
/-- R168: an access. -/
def Event.isAccess (e : Event) : Bool := e.isRead || e.isWrite
/-- R173 row 4: an acquire read. -/
def Event.acquires (e : Event) : Bool := e.isRead && (e.order == .acq || e.order == .ar || e.order == .sc)
/-- R173 row 5: a release write. -/
def Event.releases (e : Event) : Bool := e.isWrite && (e.order == .rel || e.order == .ar || e.order == .sc)
/-- R182: an `.sc` event. -/
def Event.isSc (e : Event) : Bool := e.order == .sc
/-- R168: an engine event. -/
def Event.engine (e : Event) : Bool := e.cmd.isSome
def Event.wlocs (e : Event) : List Nat := e.writes.map (·.1)
/-- The locations an event touches. -/
def Event.locs (e : Event) : List Nat := e.reads ++ e.wlocs
/-- The bytes an event touches, publish bits apart (R196). -/
def Event.touched (e : Event) : List Nat := e.locs.filter fun l => !isPubLoc l
/-- R211: the stash banks that an event touches. -/
def Event.banks (e : Event) : List Nat := e.stash.map fun o => o / 64 % 16

/-- The events with their indices. -/
def Exec.idx (x : Exec) : List (Event × Nat) := x.events.zipIdx
/-- The coherence order of a byte. -/
def Exec.coOf (x : Exec) (l : Nat) : List Nat := ((x.co.find? fun e => e.1 == l).map (·.2)).getD []
/-- A writer's place in a byte's coherence order: 0 for the initial value. -/
def Exec.coPos (x : Exec) (l : Nat) : Option Nat → Nat
  | none => 0
  | some w => (x.coOf l).idxOf w + 1
/-- The writer that an event reads a byte from. -/
def Exec.src (x : Exec) (r l : Nat) : Option Nat := ((x.rf.find? fun e => e.1 == r && e.2.1 == l).map (·.2.2)).getD none
/-- R179: the value that a read returns for a byte. -/
def Exec.value (x : Exec) (r l : Nat) : Byte :=
  match x.src r l with
  | none => initial
  | some w => (((x.events[w]?).bind fun e => (e.writes.find? fun p => p.1 == l).map (·.2))).getD initial

/-! ## Program order and preserved program order (R171 to R173) -/

/-- R171: program order: the events of one context or agent core by the issue order of their bundles. Engine commands are outside it, and
the host's order is its own (R204). -/
def po (a b : Event) : Bool :=
  !a.engine && !b.engine && a.agent == b.agent && a.agent != .host && decide (a.issue < b.issue)

/-- The bundles and results of an agent. -/
def Exec.thread (x : Exec) (a : Agent) : List Happening := ((x.threads.find? fun t => t.1 == a).map (·.2)).getD []
/-- The bundle of an agent at a place of its program order. -/
def Exec.bundle (x : Exec) (a : Agent) (i : Nat) : Option TraceBundle :=
  (x.thread a).findSome? fun h => match h with | .issue b => if b.issue = i then some b else none | .land _ _ => none
/-- The operation that makes a context's event. -/
def Exec.slotOp (x : Exec) (e : Event) : Option TraceOp :=
  match e.made with
  | .op k => (x.bundle e.agent e.issue).bind fun b => b.ops.find? fun o => o.slot == k
  | _ => none
/-- The command of an engine event. -/
def Exec.command (x : Exec) (e : Event) : Option Command := e.cmd.bind fun c => x.cmds[c]?
/-- The completion scope of an engine event's command. -/
def Exec.completes (x : Exec) (e : Event) : Scope := ((x.command e).map Command.completes).getD .tile
/-- The reads that an operation of a context makes. -/
def Exec.readsOf (x : Exec) (a : Agent) (i k : Nat) : List Nat :=
  (x.idx.filter fun e => e.1.agent == a && e.1.isRead && e.1.issue == i && e.1.made == .op k).map (·.2)
/-- R172: the dependences of an event: of a context's, those of its operation; of an agent core's, those that RISC-V gives. -/
def Exec.deps (x : Exec) (e : Event × Nat) : Deps :=
  match e.1.made with
  | .op k => (((flowOf (x.readsOf e.1.agent) (x.thread e.1.agent)).find? fun d => d.1 == (e.1.issue, k)).map (·.2)).getD {}
  | .rv _ _ _ => ((x.coreDeps.find? fun d => d.1 == e.2).map (·.2)).getD {}
  | _ => {}

/-- An edge between two events, with its scope; none for a free edge. -/
structure Edge where
  a : Nat
  b : Nat
  scope : Option Scope
  /-- the agent that makes it (R174) -/
  agent : Agent
  deriving DecidableEq, Repr

/-- R350: a FENCE that orders every pair at a scope without `.sc`, as an `.ar` fence and an `.ar` RMW of a private location do. -/
def Event.fullFence (e : Event) : Bool := match e.made with | .rvFence f _ => f.full | _ => false
/-- R180: whether a fence orders a before itself and b after itself; an engine command after it counts as a read and a
write. -/
def fenceOrders (f a b : Event) : Bool :=
  let rel := b.isWrite || b.engine
  f.fullFence || match f.order with
  | .rlx => false
  | .acq => a.isRead
  | .rel => rel
  | .ar => a.isRead || rel
  | .sc => true

/-- R173 row 8, R180, R186: whether b comes after a fence of its context or its issuer. -/
def afterFence (x : Exec) (f b : Event) : Bool :=
  match x.command b with
  | some c => f.agent == c.issuer && decide (f.issue < c.issue)
  | none => po f b

/-- An edge if a condition holds. -/
def edgeIf (c : Bool) (a b : Nat) (s : Option Scope) (ag : Agent) : List Edge := if c then [⟨a, b, s, ag⟩] else []

/-- R195: fetches are ordered only as R198 and R199 give. -/
def plainEvent (e : Event) : Bool := e.kind != .fetch

/-- R173 rows 1 to 7, R197, R199 and R200: the edges from a to b of one context, a in po before b. -/
def ppoPair (x : Exec) (a b : Event × Nat) : List Edge :=
  let (ea, i) := a
  let (eb, j) := b
  let edge (c : Bool) (s : Option Scope) := edgeIf c i j s ea.agent
  if !po ea eb then []
  else if !plainEvent ea then []
  else if eb.kind == .fetch then
    edge (eb.emptyBuf && ea.acquires) (some ea.scope) ++ edge (ea.kind == .ifence) none
  else
    edge (ea.isAccess && eb.isWrite && eb.wlocs.any ea.touched.contains) none ++
    edge (ea.isRead && eb.isAccess && (x.deps b).addr.contains i) none ++
    edge (ea.isRead && eb.isWrite && ((x.deps b).data ++ (x.deps b).guard ++ (x.deps b).ctrl).contains i) none ++
    edge ea.acquires (some ea.scope) ++
    edge eb.releases (some eb.scope) ++
    edge (ea.isSc && eb.isSc) (some (ea.scope.narrower eb.scope)) ++
    edge (!ea.stash.isEmpty && !eb.stash.isEmpty && ea.isAccess && eb.isAccess) (some .tile) ++
    edge (eb.kind == .cpub && ea.isWrite && ea.wlocs.any fun l => eb.wlocs.contains (pubLoc l)) (some eb.scope)

/-- R200: an ifence is after every event of its context's earlier bundles, as a free edge that its fetch takes on. -/
def ifencePair (a b : Event × Nat) : List Edge :=
  edgeIf (po a.1 b.1 && b.1.kind == .ifence && plainEvent a.1) a.2 b.2 none a.1.agent

/-- R173 row 8: the edges that a fence gives. -/
def fenceEdges (x : Exec) (f : Event) : List Edge :=
  if f.kind != .fence then []
  else
    x.idx.flatMap fun a => x.idx.flatMap fun b =>
      edgeIf (po a.1 f && afterFence x f b.1 && plainEvent a.1 && plainEvent b.1 && fenceOrders f a.1 b.1) a.2 b.2
        (some f.scope) f.agent

/-! ## Engine commands (R185 to R190) -/

/-- R190: whether a byte's delivery comes before another's in their channel: by command, then by address. -/
def deliveredBefore (x : Exec) (a b : Event) : Bool :=
  match x.command a, x.command b with
  | some c, some d => a.agent == b.agent && c.copies && a.made == .engine && b.made == .engine && a.isWrite && b.isWrite &&
      (decide (c.place < d.place) || (a.cmd == b.cmd && decide (a.va < b.va)))
  | _, _ => false
/-- R184, R189, R229: whether a queue's release covers an access of its command: every write for a completion or a barrier's bytes; for
a delivery the writes below its address (R228: its low 57 bits). -/
def releaseCovers (a b : Event) : Bool :=
  match b.made with
  | .sync k _ below => b.engine && a.cmd == b.cmd && a.made == .engine && a.isWrite &&
      (k != .delivery || decide (a.va % 2 ^ 57 + a.touched.length ≤ below))
  | _ => false

/-- R186: the stash accesses of the issuing context's earlier bundles come before an engine event. R187: the preceding
command's writes of a serial queue. R188: the producers of consumed tokens. R190: the delivery before, at the narrower of the two
commands' completion scopes (log entry 90). R184: a command's writes before the queue's release of them. -/
def enginePair (x : Exec) (a b : Event × Nat) : List Edge :=
  let (ea, i) := a
  let (eb, j) := b
  match x.command eb with
  | none => []
  | some d =>
    edgeIf (!ea.engine && ea.agent == d.issuer && decide (ea.issue < d.issue) && !ea.stash.isEmpty && ea.isAccess) i j (some .tile) eb.agent ++
    edgeIf (releaseCovers ea eb) i j (some (if (match eb.made with | .sync .copyBarrier _ _ => true | _ => false) then .tile else d.completes)) eb.agent ++
    match x.command ea with
    | none => []
    | some c =>
      edgeIf (ea.agent == eb.agent && c.serial && decide (c.place < d.place) && ea.isWrite) i j (some .tile) eb.agent ++
      edgeIf (ea.cmd.any d.uses.contains) i j (some c.completes) ea.agent ++
      edgeIf (deliveredBefore x ea eb) i j (some (c.completes.narrower d.completes)) ea.agent

/-- R59, R186: MA orders the M operation of its bundle after the accesses, of commands that the context queued before, to the stash banks
that it touches. -/
def maPair (x : Exec) (a b : Event × Nat) : List Edge :=
  let ma := b.1.made == .op 2 && !b.1.engine && ((x.bundle b.1.agent b.1.issue).map TraceBundle.ma).getD false
  edgeIf (ma && a.1.isAccess && b.1.isAccess && b.1.banks.any a.1.banks.contains &&
      ((x.command a.1).map fun c => c.issuer == b.1.agent && decide (c.issue < b.1.issue)).getD false) a.2 b.2 (some .tile) b.1.agent

/-! ## Translation (R327), the host (R204) -/

/-- R327: the walker's table reads come before the access translated, as `.acq` at `.dev`. -/
def walkPair (a b : Event × Nat) : List Edge :=
  match a.1.made with
  | .walk k => edgeIf (k == b.2) a.2 b.2 (some .dev) a.1.agent
  | _ => []
/-- Whether an event writes bytes of a device's memory. -/
def Event.toDevice (e : Event) : Bool := e.wlocs.any fun l => isMemLoc l && !isHost (paLocal l)
/-- R204: host accesses in the order of the host's architecture, and host writes to device memory in the order in which CXL.mem delivers
them. -/
def hostPair (x : Exec) (a b : Event × Nat) : List Edge :=
  edgeIf (a.1.agent == .host && b.1.agent == .host &&
    (x.host.contains (a.2, b.2) || (a.1.toDevice && b.1.toDevice && decide (a.1.issue < b.1.issue)))) a.2 b.2 (some .sys) .host

/-! ## SC operations (R182) -/

/-- R14, R182: the core number of an agent. -/
def Agent.core : Agent → Option Nat
  | .ctx _ n => some (n / 16)
  | .agentCore _ k => some (1536 + k)
  | _ => none
/-- R182: whether an `.sc` event precedes another in S: by window, then core, then issue order. -/
def sBefore (a b : Event) : Bool :=
  decide (a.window.1 < b.window.1) ||
  (a.window.1 == b.window.1 && (decide (a.window.2.1 < b.window.2.1) ||
    (a.window.2.1 == b.window.2.1 && decide (a.window.2.2 < b.window.2.2))))

/-- R182: S is a total order of a device's `.sc` events: each is of a core, with its number, no two have one place, and program order
follows it. -/
def scTotal (x : Exec) : Bool :=
  x.idx.all fun a => !a.1.isSc || (a.1.agent.core == some a.1.window.2.1 &&
    x.idx.all fun b => !b.1.isSc || b.2 == a.2 || b.1.agent.dev != a.1.agent.dev ||
      ((sBefore a.1 b.1 || sBefore b.1 a.1) && (!po a.1 b.1 || sBefore a.1 b.1)))

/-! ## The edges of an instance (R174, R177) -/

/-- Every pair of events put to a rule. -/
def Exec.pairs {α : Type} (x : Exec) (f : Event × Nat → Event × Nat → List α) : List α :=
  x.idx.flatMap fun a => x.idx.flatMap fun b => f a b

/-- R173, R184 to R190, R199, R200, R204, R327: the edges of an execution that carry a scope, or none. -/
def Exec.edges (x : Exec) : List Edge :=
  x.pairs (ppoPair x) ++ x.pairs ifencePair ++ (x.events.flatMap (fenceEdges x)) ++ x.pairs (enginePair x) ++ x.pairs (maPair x) ++
    x.pairs walkPair ++ x.pairs (hostPair x)

/-- R174: an edge admitted for an instance. -/
def admitted (i : Inst) (e : Edge) : Bool :=
  match e.scope with
  | none => true
  | some s => covers s e.agent i
/-- R182: S edges admitted for an instance: both events' scope instances contain it. -/
def sEdges (x : Exec) (i : Inst) : List (Nat × Nat) :=
  x.pairs fun a b =>
    if a.1.isSc && b.1.isSc && sBefore a.1 b.1 && covers a.1.scope a.1.agent i && covers b.1.scope b.1.agent i then
      [(a.2, b.2)] else []

/-! R168: an RMW is one read and one write, joined. The graphs have two nodes for each event i, its read 2 i and its write
2 i + 1, the read first; an order edge holds between both nodes of both events (log entry 38). -/

/-- An order edge between two events, as edges between their nodes. -/
def both (e : Nat × Nat) : List (Nat × Nat) :=
  [(2 * e.1, 2 * e.2), (2 * e.1, 2 * e.2 + 1), (2 * e.1 + 1, 2 * e.2), (2 * e.1 + 1, 2 * e.2 + 1)]
/-- The nodes of an execution. -/
def Exec.nodes (x : Exec) : Nat := 2 * x.events.length
/-- Each event's read before its write. -/
def Exec.joins (x : Exec) : List (Nat × Nat) := (List.range x.events.length).map fun i => (2 * i, 2 * i + 1)

/-- rf: a writer before its readers. -/
def Exec.rfEdges (x : Exec) : List (Nat × Nat) :=
  x.rf.filterMap fun e => e.2.2.map fun w => (2 * w + 1, 2 * e.1)
/-- Whether an event sets publish bits. -/
def Exec.sets (x : Exec) (k : Nat) : Bool := (x.events[k]?).any fun e => e.kind == .cpub
/-- co: a writer before every later writer of the byte. Of a publish bit, which is no byte, only the order of its settings among its
writers is an edge (log entry 38). -/
def Exec.coEdges (x : Exec) : List (Nat × Nat) :=
  x.co.flatMap fun e => e.2.zipIdx.flatMap fun a => ((e.2.drop (a.2 + 1)).filter fun b => !isPubLoc e.1 || x.sets a.1 || x.sets b).map fun b =>
    (2 * a.1 + 1, 2 * b + 1)
/-- fr: a reader before every writer that is co-after the one it read. -/
def Exec.frEdges (x : Exec) : List (Nat × Nat) :=
  x.rf.flatMap fun e =>
    ((x.coOf e.2.1).drop (x.coPos e.2.1 e.2.2)).filterMap fun w => if w = e.1 then none else some (2 * e.1, 2 * w + 1)

/-- The agent of a node. -/
def Exec.agentOf (x : Exec) (k : Nat) : Agent := ((x.events[k / 2]?).map (·.agent)).getD .host
/-- External edges: those between events of different agents. -/
def Exec.external (x : Exec) (es : List (Nat × Nat)) : List (Nat × Nat) := es.filter fun e => x.agentOf e.1 != x.agentOf e.2

/-- R177: the edges whose union is acyclic for an instance. -/
def instEdges (x : Exec) (i : Inst) : List (Nat × Nat) :=
  ((((x.edges.filter (admitted i)).map fun e => (e.a, e.b)) ++ sEdges x i).flatMap both ++ x.joins ++
    x.external (x.rfEdges ++ x.coEdges ++ x.frEdges)).filter fun e => i.has (x.agentOf e.1) && i.has (x.agentOf e.2)

/-! ## The axioms -/

/-- The nodes of a graph that an edge from one of the nodes enters. -/
def entered (es : List (Nat × Nat)) (ns : List Nat) : List Nat := ns.filter fun n => es.any fun e => e.2 == n && ns.contains e.1
/-- A graph is acyclic when taking away the nodes that no edge enters, again and again, leaves none. -/
def acyclicFrom (es : List (Nat × Nat)) : Nat → List Nat → Bool
  | 0, ns => ns.isEmpty
  | k + 1, ns => acyclicFrom es k (entered es ns)
def acyclic (n : Nat) (es : List (Nat × Nat)) : Bool := acyclicFrom es n (List.range n)

/-- R175: co is a total order of the writers of each byte, and rf takes each byte from a writer of it. -/
def wellFormed (x : Exec) : Bool :=
  (x.co.all fun e => decide e.2.Nodup && (x.idx.all fun a => (e.2.contains a.2) == (a.1.wlocs.contains e.1))) &&
  (x.idx.all fun a => (a.1.wlocs.all fun l => (x.coOf l).contains a.2) &&
    a.1.reads.all fun l => (x.rf.filter fun e => e.1 == a.2 && e.2.1 == l).length == 1) &&
  (x.rf.all fun e => (match x.events[e.1]? with | some r => r.reads.contains e.2.1 | none => false) &&
    (match e.2.2 with | some w => (x.coOf e.2.1).contains w | none => true))

/-- R168, R196: the locations of an event by its kind. A write clears the publish bit of every line that it writes, as part of the
write; a cpub sets bits; a fetch reads bytes with the bits of their lines; an RMW reads and writes the same bytes. -/
def bytesOk (e : Event) : Bool :=
  let mem := e.wlocs.filter fun l => !isPubLoc l
  match e.kind with
  | .read => e.writes.isEmpty && e.reads.all fun l => !isPubLoc l
  | .write => e.reads.isEmpty && clears e mem
  | .rmw => decide (e.reads = mem) && clears e mem
  | .fence | .ifence => e.reads.isEmpty && e.writes.isEmpty
  | .cpub => e.reads.isEmpty && e.writes.all fun w => isPubLoc w.1 && w.2 == 1
  | .fetch => e.writes.isEmpty && e.reads.all fun l => isPubLoc l || (isMemLoc l && e.reads.contains (pubLoc l))
where
  clears (e : Event) (mem : List Nat) : Bool :=
    (mem.all fun l => !isMemLoc l || e.writes.contains (pubLoc l, 0)) &&
    e.writes.all fun w => !isPubLoc w.1 || (w.2 == 0 && mem.any fun l => isMemLoc l && pubLoc l == w.1)

/-- R191: how the order of a compare-and-swap that fails counts. -/
def failedCas : Order → Order
  | .rel => .rlx
  | .ar => .acq
  | o => o

/-- R39: a scope, and an order, by its code. -/
def scopeAt (n : Nat) : Scope := [Scope.core, .tile, .die, .dev, .dom].getD n .sys
def orderAt (n : Nat) : Order := [Order.rlx, .acq, .rel, .ar].getD n .sc

/-- R212, R235: the bytes that a scalar load, store or atomic accesses. -/
def memWidth (w : Word) : Nat :=
  let op := (opField w).toNat
  if isAmoOp op then (if op = 0xC4 ∨ (MEMF.unpack w).policy = 1 then 4 else 8)
  else [1, 1, 2, 2, 4, 4, 8, 1, 2, 4, 8].getD (op - 0xA0) 0

/-- R231: an event on the 16 bytes of a barrier. -/
def Event.barrier (e : Event) : Bool := e.touched.eraseDups.length == 16 && !e.stash.isEmpty
/-- R287: an event on a dword. -/
def Event.dword (e : Event) : Bool := e.touched.eraseDups.length == 8
/-- R168, R191: whether an operation of a slot makes an event of this kind, order and scope: a memory operation as its fields say, a
compare-and-swap that fails a read, KV and attention accesses `.rlx` at `.tile`; the barrier, task and adapter operations as their
entries say; what no rule gives an order and scope for, `.rlx` at `.tile` (DEDUCED, log entry 98). -/
def opMakes (w : Word) (e : Event) : Bool :=
  let op := (opField w).toNat
  let f := MEMF.unpack w
  let sc := scopeAt f.scope.toNat
  let o := orderAt f.order.toNat
  let wide := isVecMem op || e.touched.eraseDups.length == memWidth w
  if isLoadOp op then e.kind == .read && e.order == o && e.scope == sc && wide
  else if isStoreOp op then e.kind == .write && e.order == o && e.scope == sc && wide
  else if isAmoOp op then e.scope == sc && wide &&
    ((e.kind == .rmw && e.order == o) || (op == 0xC3 && e.kind == .read && e.order == failedCas o))
  else if op = 0xC5 then e.kind == .fence && e.order == o && e.scope == sc
  else if op = 0xC6 then e.kind == .cpub && e.order == .rlx && e.scope == sc
  else if op = 0xC7 then e.kind == .ifence && e.order == .rlx
  -- R231: a barrier's 16 bytes in the stash
  else if op = 0xB7 ∨ op = 0xB8 then e.kind == .rmw && e.order == .rlx && e.scope == .tile && e.barrier
  else if op = 0xB9 ∨ op = 0xCE then (e.kind == .rmw || e.kind == .read) && e.order == .rlx && e.scope == .tile && e.barrier
  -- R287, R291, R292: a join counter
  else if op = 0xD6 then e.kind == .rmw && e.order == .rlx && e.scope == .dev && e.dword
  else if op = 0xD7 then (e.kind == .rmw && e.order == .rlx && e.scope == .dev && e.dword) || (e.kind == .read && e.order == .rlx && e.scope == .tile)
  else if op = 0xEE then e.kind == .rmw && e.order == .rel && e.scope == .dev && e.dword
  else if op = 0xD8 ∨ op = 0xD9 then e.kind == .read && e.order == .acq && e.scope == .dev && e.dword
  -- R313: the owner of a slot, which no address names
  else if op = 0xE9 then e.kind == .rmw && e.order == .ar && e.scope == .dev && e.touched.all fun l => decide (2 ^ 65 ≤ l ∧ l < 2 ^ 66)
  -- R161: rows of the stage arrays
  else if op = 0x95 then e.kind == .read && e.order == .rlx && e.scope == .tile
  else if op = 0x98 then e.kind == .write && e.order == .rlx && e.scope == .tile
  else isKvOp op && (e.kind == .read || e.kind == .write) && e.order == .rlx && e.scope == .tile

/-- R184: whether an event of a context may be a side of a pair: the bundle holds an operation that is, where an opcode alone is. -/
def syncOpOk (x : Exec) (k : Sync) (e : Event) : Bool :=
  let ops := if e.isWrite then k.releaseOps else k.acquireOps
  ops.isEmpty || match e.agent with
    | .ctx _ _ => ((x.bundle e.agent e.issue).map fun b => b.ops.any fun o => !o.null && ops.contains (opField o.word).toNat).getD false
    | _ => true

/-- R168, R184, R203, R204, R327, R350, R373: the agent, order and scope of an event by what makes it. -/
def madeOk (x : Exec) (e : Event) : Bool :=
  match e.made with
  | .op _ => !e.engine && ((x.slotOp e).map fun o => !o.null && (!o.failed || e.isWrite) && opMakes o.word e).getD false
  | .sync k peer _ => e.order == (if e.isWrite then .rel else .acq) && (e.kind == .write || e.kind == .read) && syncOpOk x k e &&
      e.touched.all (fun l => decide (2 ^ 65 ≤ l ∧ l < 2 ^ 66)) &&
      (k == .delivery || k == .token || e.scope == k.scope e.agent peer .tile) &&
      (!e.engine || !(k == .delivery || k == .token) || e.scope == x.completes e)
  | .engine => e.order == .rlx && e.scope == .tile &&
      ((x.command e).map fun c => c.queue == e.agent && (e.kind == .read || e.kind == .write || (e.kind == .rmw && c.copies && e.barrier))).getD false
  | .fetch => e.kind == .fetch && !e.engine && match e.agent with | .ctx _ _ => true | _ => false
  | .walk _ => e.kind == .read && e.order == .acq && e.scope == .dev
  | .rv form h xf => e.isAccess && (e.order, e.scope) == rvAccess form h xf && h == farthest (e.agent.dev.getD 0) e.touched && match e.agent with | .agentCore _ _ => true | _ => false
  | .rvFence f xf => e.kind == .fence && e.order == rvFence f xf && e.scope == xf && match e.agent with | .agentCore _ _ => true | _ => false
  | .host => e.agent == .host && e.isAccess && e.order == .rlx && e.scope == .sys
  | .chuck => e.kind == .write && e.order == .rlx && e.scope == .dev && match e.agent with | .chuck _ => true | _ => false
  | .publish => e.kind == .cpub && e.scope == .sys && match e.agent with | .headstock _ => true | _ => false
  | .record => e.kind == .write && e.order == .rel && e.scope == .sys && match e.agent with | .headstock _ => true | _ => false

/-- R228, R229: whether an acquire of a copy channel's bytes is what an `mfc` of its `WPn` returned: the release's command by its count,
and the address below which its bytes are acquired. -/
def deliveryTold (x : Exec) (a w : Event) (below : Nat) : Bool :=
  match x.command w, a.agent with
  | some c, .ctx d n =>
    (match c.queue with
     | .queue d' t q =>
       d == d' && t == n / 128 && decide (3 ≤ q) && (q - 3) / 8 == n / 16 % 8 &&
       ((x.bundle a.agent a.issue).map fun b => b.ops.any fun o =>
         !o.null && (opField o.word).toNat == 0x2F && bits (RRI.unpack o.word).imm.toNat 11 0 == 0x028 + (q - 3) % 8 &&
         o.res == some ((c.place % 127 + 1) * 2 ^ 57 + below)).getD false
     | _ => false)
  | _, _ => false
/-- R184: an acquire of a pair takes its value from a release of a pair of that kind, at the release's scope, by the agent that it
names; of a pair whose scope is the narrowest of both ends, the release names the acquirer too. -/
def syncJoined (x : Exec) : Bool :=
  x.idx.all fun a => match a.1.made with
    | .sync k peer below => !a.1.isRead || a.1.reads.all fun l => match x.src a.2 l with
        | some w => (x.events[w]?).any fun e => e.scope == a.1.scope && e.agent == peer && match e.made with
            | .sync k' peer' below' => k' == k && (!k.paired || peer' == a.1.agent) &&
                (k != .delivery || (below' == below && deliveryTold x a.1 e below))
            | _ => false
        | none => false
    | _ => true

/-- R168: the opcodes whose operation, when it has passed, has made an access or is a fence. -/
def alwaysMakes (op : Nat) : Bool :=
  isLoadOp op || isStoreOp op || isAmoOp op ||
  [0xC5, 0xC6, 0xC7, 0xB7, 0xB8, 0xB9, 0xCE, 0xEE, 0xD8, 0xD9, 0xE9, 0x95, 0x98].contains op
/-- R168, R171, R184: every memory operation that a context's bundle performed, and that did not fail, has its event, and so has every
side of a pair that it is; a `tok.wait` acquires the completions that it waited for. -/
def opsMade (x : Exec) : Bool :=
  x.threads.all fun t => t.2.all fun h => match h with
    | .land _ _ => true
    | .issue b => b.ops.all fun o =>
        let op := (opField o.word).toNat
        let mine (p : Event → Bool) : Bool := x.events.any fun e => e.agent == t.1 && e.issue == b.issue && p e
        o.null || o.failed ||
          ((!alwaysMakes op || mine fun e => e.made == .op o.slot) &&
           (Sync.sides op o.res).all (fun d => mine fun e => e.isWrite == d.1 && match e.made with | .sync k _ _ => d.2.contains k | _ => false) &&
           (op != 0xC8 || (toksOf (ENGF.unpack o.word)).cons == [] ||
             mine fun e => e.isRead && match e.made with | .sync .token _ _ => true | _ => false))
/-- R189: a command's destination lies as far as the farthest byte that it writes. -/
def destsOk (x : Exec) : Bool :=
  x.cmds.zipIdx.all fun c => c.1.dest == farthest (c.1.queue.dev.getD 0)
    (x.events.flatMap fun e => if e.made == .engine && e.cmd == some c.2 && e.isWrite then e.touched else [])

/-- R168, R196: the events are those of the chapter. -/
def proper (x : Exec) : Bool := (x.events.all fun e => madeOk x e && bytesOk e) && syncJoined x && opsMade x && destsOk x

/-- R175: coherence of every byte. Fetches are outside program order (R195); of a publish bit only its settings are in it. -/
def coherent (x : Exec) : Bool :=
  (x.co.map (·.1) ++ x.rf.map (·.2.1)).eraseDups.all fun l =>
    let one : Exec := { x with co := x.co.filter fun e => e.1 == l, rf := x.rf.filter fun e => e.2.1 == l }
    acyclic x.nodes
      ((x.pairs fun a b => if po a.1 b.1 && plainEvent a.1 && plainEvent b.1 && a.1.locs.contains l && b.1.locs.contains l &&
          (!isPubLoc l || a.1.kind == .cpub || b.1.kind == .cpub) then [(a.2, b.2)] else []).flatMap both ++
        x.joins ++ one.rfEdges ++ one.coEdges ++ one.frEdges)

/-- R176: whether an RMW is atomic against a write. -/
def atomicAgainst (m w : Event) : Bool := scopeContains m.scope m.agent w.agent && scopeContains w.scope w.agent m.agent
/-- R176: no write that an RMW is atomic against lies in co between the write it read and its own. -/
def atomicity (x : Exec) : Bool :=
  x.idx.all fun m => m.1.kind != .rmw || m.1.reads.all fun l =>
    ((x.coOf l).drop (x.coPos l (x.src m.2 l)) |>.takeWhile (· != m.2)).all fun w =>
      match x.events[w]? with
      | some ew => !atomicAgainst m.1 ew
      | none => true

/-- R177: every instance's edges are acyclic; the instances of the execution's agents are all that matter. -/
def instances (x : Exec) : List Inst :=
  ((x.events.map (·.agent)).eraseDups).flatMap fun a => [.core, .tile, .die, .dev, .dom, .sys].map fun s => ⟨s, a⟩
def ordered (x : Exec) : Bool := (instances x).all fun i => acyclic x.nodes (instEdges x i)

/-- R172, R178: rf with the dependences is acyclic. -/
def noThinAir (x : Exec) : Bool :=
  acyclic x.nodes
    (x.rfEdges ++ x.joins ++
      (x.idx.flatMap fun b => (x.deps b).all.map fun a => (a, b.2)).flatMap both)

/-- A list in pieces of n. -/
def pieces (n : Nat) (l : List Nat) : List (List Nat) := (List.range (l.length / n)).map fun k => (l.drop (k * n)).take n
/-- R169: the groups of bytes of an event that are single-copy atomic: an atomic as a whole; each aligned element of a vector access; a
naturally aligned scalar access of 1, 2, 4 or 8 bytes; each byte of any other access. -/
def Exec.atoms (x : Exec) (e : Event) : List (List Nat) :=
  let bs := e.touched.eraseDups
  let n := bs.length
  let word := ((x.slotOp e).map (·.word)).getD 0
  let op := (opField word).toNat
  let ew := if op = 0xAB ∨ op = 0xAC then 4 else 2
  if e.engine then bs.map fun l => [l]
  else if e.kind == .rmw || isAmoOp op then [bs]
  else if isVecMem op then (if bs.headD 0 % ew = 0 then pieces ew bs else bs.map fun l => [l])
  else if [1, 2, 4, 8].contains n && bs.headD 0 % n == 0 && !isKvOp op then [bs]
  else bs.map fun l => [l]

/-- R169: an atomic group of a read that takes one byte from another agent's write takes no byte, that the write's own
atomic group covers, from before it. -/
def singleCopy (x : Exec) : Bool :=
  x.idx.all fun r => (x.atoms r.1).all fun g => g.all fun l =>
    match x.src r.2 l with
    | none => true
    | some w =>
      match x.events[w]? with
      | none => true
      | some ew => ew.agent == r.1.agent || (x.atoms ew).all fun h => !h.contains l || (h.filter g.contains).all fun k =>
          decide (x.coPos k (some w) ≤ x.coPos k (x.src r.2 k)) || !r.1.reads.contains k

/-! ## Fetches (R195 to R198) -/

/-- R198: what a fetch finds of a line: no publication, that of the start, or a cpub. -/
inductive Found | none | start | by (cpub : Nat)
  deriving DecidableEq, Repr
def fetchSource (x : Exec) (f line : Nat) : Found :=
  match x.src f (pubLoc (line * 128)) with
  | some w => if x.sets w then .by w else .none
  | none => if x.published.contains line then .start else .none
/-- R198: the writers of a byte of a line, in co, whose clearing of the publish bit precedes a cpub's setting of it. -/
def beforePub (x : Exec) (l c : Nat) : List Nat :=
  let cleared := (x.coOf (pubLoc l)).takeWhile (· != c)
  (x.coOf l).filter cleared.contains
/-- R196: the clearing of a publish bit is part of the write and takes its place in co: of two writes to the same bytes of a line, the
one that comes first at each of them clears first. -/
def clearsTied (x : Exec) : Bool :=
  x.co.all fun e => !isPubLoc e.1 || e.2.zipIdx.all fun a => (e.2.drop (a.2 + 1)).all fun b =>
    let shared := x.co.filter fun l => isMemLoc l.1 && pubLoc l.1 == e.1 && l.2.contains a.1 && l.2.contains b
    shared.isEmpty || shared.any fun l => decide (l.2.idxOf a.1 < l.2.idxOf b)
/-- R198: the bytes of a fetch that finds a published line are the last written before the bit was set, for a context in
the cpub's scope; else each is some value no later than that. A line published at the start and not written since has its first
bytes. -/
def fetchOk (x : Exec) : Bool :=
  x.idx.all fun f => f.1.kind != .fetch || f.1.reads.all fun l =>
    decide (2 ^ 64 ≤ l) ||
    match fetchSource x f.2 (l / 128) with
    | .none => true
    | .start => (x.src f.2 l).isNone
    | .by c =>
      let ws := beforePub x l c
      match x.events[c]?, x.src f.2 l with
      | some ec, src => if scopeContains ec.scope ec.agent f.1.agent then decide (src = ws.getLast?)
          else (match src with | none => true | some w => ws.contains w)
      | none, _ => true
/-- R195, R198: a fetch raises F_UNPUB when a line it reads is not published. -/
def fetchFaults (x : Exec) (f : Nat) : Bool :=
  match x.events[f]? with
  | some e => e.kind == .fetch && e.reads.any fun l => decide (2 ^ 64 ≤ l) && decide (2 ^ 65 > l) &&
      fetchSource x f (l - 2 ^ 64) == .none
  | none => false

/-- An execution is allowed exactly when it satisfies every axiom of the chapter. -/
def allowed (x : Exec) : Bool :=
  wellFormed x && proper x && scTotal x && coherent x && atomicity x && ordered x && noThinAir x && singleCopy x && clearsTied x && fetchOk x

/-! ## Where atomics are performed, and which orders are accepted (R181, R192, R193) -/

/-- R181, R193: the orders accepted at a scope. -/
def acceptsOrder (s : Scope) (o : Order) : Bool := o != .sc || decide (s.rank ≤ 3)

/-- R192: where an atomic is performed. -/
inductive AmoPlace | stashOrHome | home | deviceHome | hostAtomic
  deriving DecidableEq, Repr
def amoPlace (s : Scope) (hostHomed : Bool) : AmoPlace :=
  match s with
  | .core | .tile => .stashOrHome
  | .die | .dev => .home
  | .dom => .deviceHome
  | .sys => if hostHomed then .hostAtomic else .deviceHome

end Sys2Proof.Ordering
end

