-- ==== Sys2Proof/Safety.lean ====
section
/-! DEFINITION. What counts as a safe run, in the terms that statements use: outcomes that go on, runs, the form a state keeps,
the conditions under which the current context's operation issues, and the state after a bundle of one operation passes. -/
namespace Sys2Proof.Safety
open Sys2Proof.Machine

/-- The machine goes on. -/
def goesOn (r : Host.Outcome State Fault Refusal) : Prop := ∃ t, r = .next t

/-- States that steps lead to from a state. -/
inductive Runs : State → State → Prop
  | here (s : State) : Runs s s
  | step {s t u : State} : Runs s t → Machine.step t = .next u → Runs s u

/-- Memory in its canonical form: addresses strictly rising, no byte equal to what an unlisted address reads as. -/
def memCanonical (s : State) : Prop := Memory.wf s.mem = true

/-- Every byte of memory reads as before. -/
def sameMemory (s t : State) : Prop := ∀ a, memByte t a = memByte s a

/-- Every context but n is as before. -/
def otherContexts (n : Nat) (s t : State) : Prop := ∀ k, k ≠ n → ctxOf t k = ctxOf s k

/-! ## The current context issues one operation (R40, R44, R53 to R63) -/

/-- The current context's registers. -/
def me (s : State) : Ctx := ctxOf s s.cur

/-- R252, R54: the current context issues, and the results of its earlier bundles have landed. -/
structure Ready (s : State) : Prop where
  issues : issues s s.cur = true
  settled : (me s).pend = []

/-- R40: the guard of an operation reads 1: predicate gp, inverted by gn. -/
def Enabled (s : State) (gp : BitVec 5) (gn : Bool) : Prop := xor (getP (me s) gp.toNat) gn = true
/-- R40: the guard reads 0. -/
def Disabled (s : State) (gp : BitVec 5) (gn : Bool) : Prop := xor (getP (me s) gp.toNat) gn = false

/-- R44: the scalar sources of an operation read the words `args`, one word popped from each channel of `pops`. -/
def Reads (s : State) (srcs : List (BitVec 9)) (args : List Word) (pops : List Nat) : Prop :=
  readArgs (me s) [] srcs [] = (.ok (args, pops), 0)

/-- R44, R293: a scalar destination that is a channel has room for a word at its peer. -/
def Room (s : State) (d : BitVec 9) : Prop :=
  96 ≤ d.toNat → d.toNat < 112 → chanPush s (me s) (d.toNat - 96) 0 = .word 0

/-- What an operation alone in its bundle reads at issue. -/
def loneView (s : State) (w : Word) (args : List Word) : View :=
  ⟨s.cur, me s, args, Bundle.single (me s).pc w, (me s).answered, homeSlot (opField w), [], []⟩

/-- R57, R61, R111: the bundle of one operation, its STOP bit set, passes: t is the state after the operation's effects on
memory and other units, e what it leaves to land. -/
def lonePass (s t : State) (w : Word) (pops : List Nat) (e : Eff) : State :=
  passBundle s.cur (Bundle.single (me s).pc w) ⟨t, [(homeSlot (opField w), e)], pops, [], false⟩

/-- R63: the operation faults at issue: the bundle has no effect and the fault is taken. -/
def loneFault (s : State) (w : Word) (f : FaultInfo) : State :=
  takeFault s s.cur (opField w).toNat (homeSlot (opField w)).num f (me s).pc

/-- R252: the operation is held: t is the state after its request. -/
def lonePark (s t : State) (w : Word) (why : Why) (wait : Wait) : State :=
  parkHeld t s.cur (Bundle.single (me s).pc w) why wait

/-- R113, R114: an element-wise vector operation alone in its bundle passes: its elements of width w are those of `mapElems`, each
from its index and its lane's LFSR state, and every element takes an LFSR step when `sr` holds. -/
def vecPass (s : State) (word : Word) (f : RRR) (w bound : Nat) (sr : Bool) (g : Nat → Nat → RR) : State :=
  let r := mapElems (me s) f w sr g
  lonePass s (setLfsr s s.cur sr r.2.2.2) word []
    { landV (me s) f.d (packLanes w r.1 (me s).lanes) bound with ff := r.2.1, sf := r.2.2.1, ew := w }

/-- R207, R215: how the current context's bundle makes an access. -/
def homeReq (s : State) (need : Need) (nc watch : Bool) : Req6 :=
  ⟨s.cur, (me s).asid.toNat, need, nc, (me s).answered.contains .home, watch,
    if (me s).answered.contains .home then some (me s).heldAt else none⟩
/-- R207 to R209: an access of the current context to n bytes at ea is performed: t is the state after the lines that it needs
have been acquired, and `locs` are the places of its bytes in order. -/
def Placed (s : State) (watch : Bool) (need : Need) (nc : Bool) (ea n : Nat) (t : State) (locs : List Loc) : Prop :=
  access s (homeReq s need nc watch) ea n = .ok t locs

/-- R252: a context is parked outside service, awaits w, and no claim of its own keeps it. -/
structure Awaits (s : State) (n : Nat) (w : Wait) : Prop where
  parked : (ctxOf s n).phase = .parked
  waits : (ctxOf s n).wait = w
  outside : (ctxOf s n).svc = false
  claimed : (ctxOf s n).awaitsClaim = false

/-- R252: a context that rejoins rotation. -/
def rejoined (c : Ctx) : Ctx := { c with phase := .live, why := .none, wait := .nothing }

/-- R206: the effective address of a MEM operation. -/
def address (f : MEMF) (base : Word) : Nat := (base + f.off.signExtend 64).toNat

/-- The places of rows of n bytes each, accessed one after the other by the bundle that s issues. -/
def placeRows (s : State) (need : Need) (n : Nat) : State → List Nat → Option (State × List Loc)
  | t, [] => some (t, [])
  | t, ea :: eas =>
    match access t (homeReq s need false false) ea n with
    | .ok u l => (placeRows s need n u eas).map fun r => (r.1, l ++ r.2)
    | _ => none

/-- R60, R208: rows of n bytes of the tile's stash, each in a mapping, read one after the other by the bundle that s issues: the bytes of
each as they are read. -/
def readRows (s : State) (n : Nat) : State → List Nat → Option (State × List (List Byte))
  | t, [] => some (t, [])
  | t, ea :: eas =>
    if (unmapped t (tileOf s.cur) (me s).asid.toNat ea n).isSome then none
    else
      match access t (homeReq s .load false false) ea n with
      | .ok u l => (readRows s n u eas).map fun r => (r.1, readLocs u l :: r.2)
      | _ => none

end Sys2Proof.Safety
end

