-- ==== Sys2Proof/Certificates/Slice0/Obligations.lean ====
section
/-! DEFINITION. The statements about the model, by the rules of the spec that they formalise. -/
set_option maxRecDepth 20000
open Sys2Proof Sys2Proof.Machine Sys2Proof.Safety

/-- R100: the integer arithmetic operations complete with the result of the rule, in their destination and latch; the `w`
forms sign-extend the low 32 bits, the high products take bits 127:64 of the exact product. R101: minimum and maximum give
the lesser or the greater operand, read as signed or as unsigned.
R100, R103: the operations of a register and an immediate complete with the result of the rule.
R38, R40, R100: a non-zero c or mod, of `shadd` a non-zero c or mod[7:2], raises F_ILLOP. -/
def Obligations.ArithmeticResults : Prop :=
  (∀ (s : State) (f : RRR) (a b : Word) (pops : List Nat),
      Ready s → Enabled s f.gp f.gn → Reads s [f.a, f.b] [a, b] pops → Room s f.d →
      ∀ row ∈ ([(.add f, 0x00, 1, a + b), (.sub f, 0x01, 1, a - b), (.mul f, 0x03, 2, a * b),
          (.mulhS f, 0x04, 2, BitVec.ofInt 64 (a.toInt * b.toInt / 2 ^ 64)),
          (.mulhZ f, 0x05, 2, BitVec.ofNat 64 (a.toNat * b.toNat / 2 ^ 64)),
          (.shadd f, 0x20, 1, a * BitVec.ofNat 64 (2 ^ (f.md.toNat % 4 + 1)) + b),
          (.addw f, 0x38, 1, (BitVec.ofNat 32 (a.toNat + b.toNat)).signExtend 64),
          (.subw f, 0x39, 1, (BitVec.ofInt 32 (a.toNat - b.toNat)).signExtend 64),
          (.mulw f, 0x3A, 2, (BitVec.ofNat 32 (a.toNat * b.toNat)).signExtend 64),
          (.minS f, 0x0E, 1, BitVec.ofInt 64 (min a.toInt b.toInt)), (.minZ f, 0x0F, 1, BitVec.ofNat 64 (min a.toNat b.toNat)),
          (.maxS f, 0x10, 1, BitVec.ofInt 64 (max a.toInt b.toInt)), (.maxZ f, 0x11, 1, BitVec.ofNat 64 (max a.toNat b.toNat))] :
          List (Instr × BitVec 8 × Nat × Word)),
        WellFormed row.1 = true →
        exec row.1 s = .next (lonePass s s (f.pack row.2.1) pops (landS (me s) f.d row.2.2.2 row.2.2.1))) ∧
  (∀ (s : State) (f : RRI) (a : Word) (pops : List Nat),
      Ready s → Enabled s f.gp f.gn → Reads s [f.a] [a] pops → Room s f.d →
      ∀ row ∈ ([(.addi f, 0x02, a + f.imm.signExtend 64), (.andi f, 0x16, a &&& f.imm.signExtend 64),
          (.ori f, 0x17, a ||| f.imm.signExtend 64), (.xori f, 0x18, a ^^^ f.imm.signExtend 64),
          (.shli f, 0x1C, BitVec.ofNat 64 (a.toNat * 2 ^ f.imm.toNat)),
          (.shriZ f, 0x1D, BitVec.ofNat 64 (a.toNat / 2 ^ f.imm.toNat)),
          (.shriS f, 0x1E, BitVec.ofInt 64 (a.toInt / 2 ^ f.imm.toNat)),
          (.addiw f, 0x3E, ((a + f.imm.signExtend 64).setWidth 32).signExtend 64)] : List (Instr × BitVec 8 × Word)),
        WellFormed row.1 = true →
        exec row.1 s = .next (lonePass s s (f.pack row.2.1) pops (landS (me s) f.d row.2.2 1))) ∧
  (∀ (s : State) (f : RRR), Ready s →
      ∀ row ∈ ([(.add f, 0x00, 0), (.sub f, 0x01, 0), (.mul f, 0x03, 0), (.mulhS f, 0x04, 0), (.mulhZ f, 0x05, 0),
          (.shadd f, 0x20, 3), (.addw f, 0x38, 0), (.subw f, 0x39, 0), (.mulw f, 0x3A, 0)] : List (Instr × BitVec 8 × Nat)),
        (f.c ≠ 0 ∨ row.2.2 < f.md.toNat) → exec row.1 s = .next (loneFault s (f.pack row.2.1) ⟨0x08, 0, 0, none, []⟩))

/-- R102: division and remainder complete for every pair of operands, the corners among them: by zero a quotient of all ones
and a remainder of A, and for the one signed overflow the quotient A and the remainder 0.
R101: the saturating operations complete with the exact sum or difference clamped to the signed or the unsigned range of
64 bits, and set SATF.IS exactly when the exact result lay outside it.
R38, R40, R102: a division or a remainder with a non-zero c or mod raises F_ILLOP. -/
def Obligations.DivisionSaturation : Prop :=
  (∀ (s : State) (f : RRR) (a b : Word) (pops : List Nat),
      Ready s → Enabled s f.gp f.gn → Reads s [f.a, f.b] [a, b] pops → Room s f.d →
      ∀ row ∈ ([(.divS f, 0x06, if b = 0 then BitVec.ofInt 64 (-1) else BitVec.ofInt 64 (a.toInt.tdiv b.toInt)),
          (.divZ f, 0x07, if b = 0 then BitVec.ofInt 64 (-1) else BitVec.ofNat 64 (a.toNat / b.toNat)),
          (.remS f, 0x08, if b = 0 then a else BitVec.ofInt 64 (a.toInt.tmod b.toInt)),
          (.remZ f, 0x09, if b = 0 then a else BitVec.ofNat 64 (a.toNat % b.toNat))] : List (Instr × BitVec 8 × Word)),
        WellFormed row.1 = true →
        exec row.1 s = .next (lonePass s s (f.pack row.2.1) pops (landS (me s) f.d row.2.2 8))) ∧
  (∀ (s : State) (f : RRR) (a b : Word) (pops : List Nat),
      Ready s → Enabled s f.gp f.gn → Reads s [f.a, f.b] [a, b] pops → Room s f.d →
      (∀ row ∈ ([(.addsS f, 0x0A, a.toInt + b.toInt), (.subsS f, 0x0C, a.toInt - b.toInt)] : List (Instr × BitVec 8 × Int)),
        WellFormed row.1 = true →
        exec row.1 s = .next (lonePass s s (f.pack row.2.1) pops
          { landS (me s) f.d (BitVec.ofInt 64 (max (-2 ^ 63) (min (2 ^ 63 - 1) row.2.2))) 1 with
            sf := if row.2.2 < -2 ^ 63 ∨ 2 ^ 63 ≤ row.2.2 then sIS else 0 })) ∧
      (∀ row ∈ ([(.addsZ f, 0x0B, (a.toNat : Int) + b.toNat), (.subsZ f, 0x0D, (a.toNat : Int) - b.toNat)] :
          List (Instr × BitVec 8 × Int)),
        WellFormed row.1 = true →
        exec row.1 s = .next (lonePass s s (f.pack row.2.1) pops
          { landS (me s) f.d (BitVec.ofInt 64 (max 0 (min (2 ^ 64 - 1) row.2.2))) 1 with
            sf := if row.2.2 < 0 ∨ 2 ^ 64 ≤ row.2.2 then sIS else 0 }))) ∧
  (∀ (s : State) (f : RRR), Ready s →
      ∀ row ∈ ([(.divS f, 0x06), (.divZ f, 0x07), (.remS f, 0x08), (.remZ f, 0x09)] : List (Instr × BitVec 8)),
        (f.c ≠ 0 ∨ f.md ≠ 0) → exec row.1 s = .next (loneFault s (f.pack row.2) ⟨0x08, 0, 0, none, []⟩))

/-- R103: the logical operations and the shifts by a register complete with the result of the rule: a shift takes its count
from the low six bits of B, a 32-bit shift from the low five, and sign-extends its 32-bit result. -/
def Obligations.LogicShiftResults : Prop :=
  ∀ (s : State) (f : RRR) (a b : Word) (pops : List Nat),
    Ready s → Enabled s f.gp f.gn → Reads s [f.a, f.b] [a, b] pops → Room s f.d →
    ∀ row ∈ ([(.and f, 0x12, a &&& b), (.or f, 0x13, a ||| b), (.xor f, 0x14, a ^^^ b), (.andn f, 0x15, a &&& ~~~b),
        (.shl f, 0x19, BitVec.ofNat 64 (a.toNat * 2 ^ (b.toNat % 64))),
        (.shrZ f, 0x1A, BitVec.ofNat 64 (a.toNat / 2 ^ (b.toNat % 64))),
        (.shrS f, 0x1B, BitVec.ofInt 64 (a.toInt / 2 ^ (b.toNat % 64))),
        (.rot f, 0x1F, BitVec.ofNat 64 (a.toNat / 2 ^ (b.toNat % 64)) ||| BitVec.ofNat 64 (a.toNat * 2 ^ (64 - b.toNat % 64))),
        (.shlw f, 0x3B, (BitVec.ofNat 32 (a.toNat * 2 ^ (b.toNat % 32))).signExtend 64),
        (.shrwZ f, 0x3C, (BitVec.ofNat 32 (a.toNat % 2 ^ 32 / 2 ^ (b.toNat % 32))).signExtend 64),
        (.shrwS f, 0x3D, BitVec.ofInt 64 ((a.setWidth 32).toInt / 2 ^ (b.toNat % 32)))] :
        List (Instr × BitVec 8 × Word)),
      WellFormed row.1 = true →
      exec row.1 s = .next (lonePass s s (f.pack row.2.1) pops (landS (me s) f.d row.2.2 1))

/-- R104, R105: the moves of an immediate and the bit-field operations complete with the result of the rule; movhi and bfi
keep the other bits of their destination, read at issue.
R106: the counts of leading zeros, trailing zeros and ones, the reversals and the carry-less products complete with the
result of the rule. -/
def Obligations.FieldAndBitResults : Prop :=
  (∀ (s : State), Ready s →
      (∀ f : RI, Enabled s f.gp f.gn → Room s f.d →
        (WellFormed (.movi f) = true →
          exec (.movi f) s = .next (lonePass s s (f.pack 0x21) [] (landS (me s) f.d (f.imm.signExtend 64) 1))) ∧
        (WellFormed (.movhi f) = true →
          exec (.movhi f) s = .next (lonePass s s (f.pack 0x22) []
            (landS (me s) f.d (word (f.imm.toNat * 2 ^ 41 + (readX (me s) f.d.toNat).toNat % 2 ^ 41)) 1)))) ∧
      (∀ (f : RRI) (a : Word) (pops : List Nat) (lsb len : Nat), Enabled s f.gp f.gn → Reads s [f.a] [a] pops → Room s f.d →
        lsb = f.imm.toNat % 64 → len = f.imm.toNat / 2 ^ 8 + 1 →
        (WellFormed (.bfxZ f) = true →
          exec (.bfxZ f) s = .next (lonePass s s (f.pack 0x24) pops
            (landS (me s) f.d (word (a.toNat / 2 ^ lsb % 2 ^ len)) 1))) ∧
        (WellFormed (.bfxS f) = true →
          exec (.bfxS f) s = .next (lonePass s s (f.pack 0x23) pops
            (landS (me s) f.d (wordI (sext (a.toNat / 2 ^ lsb) len)) 1))) ∧
        (WellFormed (.bfi f) = true →
          ∃ r : Word, (∀ k, k < 64 → r.getLsbD k =
              if lsb ≤ k ∧ k < lsb + len then a.getLsbD (k - lsb) else (readX (me s) f.d.toNat).getLsbD k) ∧
            exec (.bfi f) s = .next (lonePass s s (f.pack 0x25) pops (landS (me s) f.d r 1))))) ∧
  (∀ (s : State) (f : RRR), Ready s → Enabled s f.gp f.gn → Room s f.d →
      (∀ (a : Word) (pops : List Nat), Reads s [f.a] [a] pops →
        (WellFormed (.clz f) = true → ∃ k : Nat, k ≤ 64 ∧ a.toNat < 2 ^ (64 - k) ∧ (k < 64 → 2 ^ (63 - k) ≤ a.toNat) ∧
          exec (.clz f) s = .next (lonePass s s (f.pack 0x26) pops (landS (me s) f.d (word k) 1))) ∧
        (WellFormed (.ctz f) = true → ∃ k : Nat, k ≤ 64 ∧ 2 ^ k ∣ a.toNat + (if a = 0 then 2 ^ 64 else 0) ∧
          (k < 64 → a.getLsbD k = true) ∧
          exec (.ctz f) s = .next (lonePass s s (f.pack 0x27) pops (landS (me s) f.d (word k) 1))) ∧
        (WellFormed (.popc f) = true →
          exec (.popc f) s = .next (lonePass s s (f.pack 0x28) pops
            (landS (me s) f.d (word ((List.range 64).countP fun k => a.getLsbD k)) 1))) ∧
        (WellFormed (.bswap f) = true → ∃ r : Word,
          (∀ k, k < 8 → r.extractLsb' (8 * k) 8 = a.extractLsb' (8 * (7 - k)) 8) ∧
          exec (.bswap f) s = .next (lonePass s s (f.pack 0x2B) pops (landS (me s) f.d r 1))) ∧
        (WellFormed (.brev f) = true → ∃ r : Word, (∀ k, k < 64 → r.getLsbD k = a.getLsbD (63 - k)) ∧
          exec (.brev f) s = .next (lonePass s s (f.pack 0x37) pops (landS (me s) f.d r 1)))) ∧
      (∀ (a b : Word) (pops : List Nat), Reads s [f.a, f.b] [a, b] pops →
        ∃ p : BitVec 128, (∀ k, k < 128 → p.getLsbD k =
            ((List.range 64).countP (fun j => b.getLsbD j && (decide (j ≤ k) && a.getLsbD (k - j))) % 2 == 1)) ∧
          (WellFormed (.clmul f) = true →
            exec (.clmul f) s = .next (lonePass s s (f.pack 0x29) pops (landS (me s) f.d (p.extractLsb' 0 64) 2))) ∧
          (WellFormed (.clmulh f) = true →
            exec (.clmulh f) s = .next (lonePass s s (f.pack 0x2A) pops (landS (me s) f.d (p.extractLsb' 64 64) 2)))))

/-- R107, R108, R109, R112: compares write their predicate by the condition of their cc field, pbool by its truth table, sel
chooses by its predicate, and nop completes with no result. A condition code above 7 and a non-zero reserved field raise
F_ILLOP. -/
def Obligations.PredicateResults : Prop :=
  ∀ (s : State), Ready s →
    (∀ (f : RRR) (a b : Word) (pops : List Nat), Enabled s f.gp f.gn → Reads s [f.a, f.b] [a, b] pops →
      (∀ row ∈ ([(0, decide (a = b)), (1, decide (a ≠ b)), (2, decide (a.toInt < b.toInt)), (3, decide (b.toInt ≤ a.toInt)),
          (4, decide (a.toNat < b.toNat)), (5, decide (b.toNat ≤ a.toNat)), (6, decide (a &&& b ≠ 0)),
          (7, decide (a &&& b = 0))] : List (Nat × Bool)),
        f.md.toNat = row.1 → WellFormed (.cmp f) = true →
        exec (.cmp f) s = .next (lonePass s s (f.pack 0x2C) pops (landP f.d row.2 1))) ∧
      (Room s f.d → WellFormed (.sel f) = true →
        exec (.sel f) s = .next (lonePass s s (f.pack 0x31) pops
          (landS (me s) f.d (if getP (me s) (f.c.toNat - 64) then a else b) 1)))) ∧
    (∀ (f : RRI) (a b : Word) (pops : List Nat), Enabled s f.gp f.gn → Reads s [f.a] [a] pops →
      b = (f.imm.extractLsb' 0 28).signExtend 64 →
      ∀ row ∈ ([(0, decide (a = b)), (1, decide (a ≠ b)), (2, decide (a.toInt < b.toInt)), (3, decide (b.toInt ≤ a.toInt)),
          (4, decide (a.toNat < b.toNat)), (5, decide (b.toNat ≤ a.toNat)), (6, decide (a &&& b ≠ 0)),
          (7, decide (a &&& b = 0))] : List (Nat × Bool)),
        f.imm.toNat / 2 ^ 28 = row.1 → WellFormed (.cmpi f) = true →
        exec (.cmpi f) s = .next (lonePass s s (f.pack 0x2D) pops (landP f.d row.2 1))) ∧
    (∀ f : RRR, Enabled s f.gp f.gn →
      (WellFormed (.pbool f) = true →
        exec (.pbool f) s = .next (lonePass s s (f.pack 0x2E) []
          (landP f.d (f.md.getLsbD (2 * (getP (me s) (f.a.toNat - 64)).toNat + (getP (me s) (f.b.toNat - 64)).toNat)) 1))) ∧
      (WellFormed (.nop f) = true → exec (.nop f) s = .next (lonePass s s (f.pack 0x3F) [] {}))) ∧
    (∀ f : RRR,
      (7 < f.md.toNat ∨ f.c ≠ 0 → exec (.cmp f) s = .next (loneFault s (f.pack 0x2C) ⟨0x08, 0, 0, none, []⟩)) ∧
      (15 < f.md.toNat ∨ f.c ≠ 0 → exec (.pbool f) s = .next (loneFault s (f.pack 0x2E) ⟨0x08, 0, 0, none, []⟩)) ∧
      (f.md ≠ 0 → exec (.sel f) s = .next (loneFault s (f.pack 0x31) ⟨0x08, 0, 0, none, []⟩)) ∧
      (f.d ≠ 0 ∨ f.a ≠ 0 ∨ f.b ≠ 0 ∨ f.c ≠ 0 ∨ f.ty ≠ 0 ∨ f.md ≠ 0 →
        exec (.nop f) s = .next (loneFault s (f.pack 0x3F) ⟨0x08, 0, 0, none, []⟩)))

/-- R273, R274, R276: a branch goes to its target and leaves the next bundle's address in its link; `loop` goes back while
ITER is not 0 and takes 1 from it; a modulo loop shifts its stage-valid bits up by one, turns ROT and goes back while a
stage is valid. -/
def Obligations.BranchResults : Prop :=
  ∀ (s : State), Ready s →
    (∀ f : BRF, Enabled s f.gp f.gn → WellFormed (.br f) = true →
      exec (.br f) s = .next (lonePass s s (f.pack 0x32) []
        (if f.link = 0 then { jump := some ((me s).pc + 2 * f.off.signExtend 64) }
          else { landS (me s) f.link ((me s).pc + 12) 1 with jump := some ((me s).pc + 2 * f.off.signExtend 64) }))) ∧
    (∀ (f : RRR) (a : Word) (pops : List Nat), Enabled s f.gp f.gn → Reads s [f.a] [a] pops → WellFormed (.bri f) = true →
      exec (.bri f) s = .next (lonePass s s (f.pack 0x33) pops
        (if f.d = 0 then { jump := some a } else { landS (me s) f.d ((me s).pc + 12) 1 with jump := some a }))) ∧
    (∀ f : BRF, Enabled s f.gp f.gn → WellFormed (.loop f) = true →
      exec (.loop f) s = .next (if (me s).iter = 0 then lonePass s s (f.pack 0x34) [] {}
        else lonePass s (setCtx s s.cur { me s with iter := (me s).iter - 1 }) (f.pack 0x34) []
          { jump := some ((me s).pc + 2 * f.off.signExtend 64) })) ∧
    (∀ (f : BRF) (start : Bool) (sv : Nat) (i : Instr) (op : BitVec 8) (iter : Word), Enabled s f.gp f.gn → WellFormed i = true →
      (i = .loopRot f ∧ op = 0x35 ∧ start = (getP (me s) 24 && decide ((me s).iter ≠ 0)) ∧
          iter = (if start then (me s).iter - 1 else (me s).iter) ∨
        i = .loopW f ∧ op = 0x36 ∧ start = (getP (me s) 24 && getP (me s) (f.link.toNat - 64)) ∧ iter = (me s).iter) →
      sv = (2 * (me s).sv + start.toNat) % 2 ^ (me s).depth →
      exec i s = .next (lonePass s
        (setCtx s s.cur { me s with
          span := word (((me s).depth - 1) * 2 ^ 8 + sv)
          rot := word (((me s).xo + 1) % 32 * 2 ^ 16 + ((me s).vo + 1) % 256)
          iter := iter })
        (f.pack op) [] { jump := if sv = 0 then none else some ((me s).pc + 2 * f.off.signExtend 64) }))

/-- R49, R50, R110, R111: `mfc` reads a control register. `mtc` writes it at the end of its bundle, with the effect of STOP;
one that only service may write raises F_PRIV outside service. The registers of the context read and are written as listed:
a field that the spec reserves is not stored, and a register that is read-only stores nothing.
R4, R407, R413, R419: of FINFO those bits read and are written that the code in FCAUSE gives a field; the bits reserved under it read 0.
(For the codes of the other rules the fields are theirs; a code that no rule lists keeps all 64 bits: log entry 101.) -/
def Obligations.ControlRegisterMoves : Prop :=
  ∀ (s : State) (f : RRI) (r : Nat), Ready s → Enabled s f.gp f.gn → r = f.imm.toNat →
    (Room s f.d → WellFormed (.mfc f) = true →
      exec (.mfc f) s = .next (lonePass s s (f.pack 0x2F) [] (landS (me s) f.d (cregRead s s.cur (me s) r) 1))) ∧
    (∀ (a : Word) (pops : List Nat), Reads s [f.a] [a] pops → WellFormed (.mtc f) = true →
      (cregService r = true ∧ (me s).svc = false → exec (.mtc f) s = .next (loneFault s (f.pack 0x30) ⟨0x0A, 0, 0, none, []⟩)) ∧
      (cregService r = false ∨ (me s).svc = true →
        exec (.mtc f) s = .next (lonePass s s (f.pack 0x30) pops
          { stop := true, sets := cregPlaces r, late := some fun t => cregWrite t s.cur r a }))) ∧
    (∀ c n, ∀ row ∈ ([(0x001, c.rot), (0x002, c.iter), (0x003, c.span), (0x004, c.ebud), (0x005, c.sdl), (0x008, c.rmode),
        (0x009, c.seed), (0x00A, c.fflags), (0x00B, c.satf), (0x010, word s.time), (0x019, c.asid.setWidth 64),
        (0x01B, word (tileAt s (tileOf n)).dsize), (0x020, c.fcause), (0x021, c.fpc), (0x022, c.faddr), (0x023, c.finfo &&& finfoMask (c.fcause.toNat % 256)),
        (0x024, c.kvprog), (0x026, c.kverrpol)] : List (Nat × Word)), cregRead s n c row.1 = row.2) ∧
    (∀ (n : Nat) (w : Word),
      (∀ row ∈ ([(0x001, w &&& 0x1F00FF), (0x002, w), (0x008, w &&& 0xF), (0x009, w &&& 0xFFFFFFFF), (0x00A, w &&& 0x1F),
          (0x00B, w &&& 3), (0x019, w &&& 0xFFFF), (0x020, w &&& 0xFFFF00FF), (0x021, w), (0x022, w), (0x023, w &&& finfoMask ((ctxOf s n).fcause.toNat % 256)),
          (0x024, w &&& 0x1FFFFFFFF), (0x026, w &&& 0x1FFFFFFFF), (0x030, w &&& 0xFFFFFFFF), (0x033, w &&& 0xFFFFFFFF)] :
          List (Nat × Word)),
        (row.1 = 0x008 → w.toNat % 8 < 6) →
        cregRead (cregWrite s n row.1 w) n (ctxOf (cregWrite s n row.1 w) n) row.1 = row.2) ∧
      (∀ ro ∈ [0x000, 0x010, 0x011, 0x012, 0x018, 0x01A, 0x01B, 0x028, 0x02F],
        cregService ro = false ∧ ctxOf (cregWrite s n ro w) n = ctxOf s n ∧ sameMemory s (cregWrite s n ro w))) ∧
    (∀ row ∈ ([(0x30, 0xFF0F), (0x31, 0x31FFF), (0x32, 3), (0x0B, 0xFFFF), (0x18, 0x7F), (0x1B, 0xF)] : List (Nat × Word)),
      finfoMask row.1 = row.2)

/-- R42, R43, R45, R47, R57: what an operation with a scalar destination leaves when it passes alone in its bundle. The named
register, through ROT.XO, reads the result; a write to x0 is discarded; the result is in the latch of the operation's slot;
the context goes on at the next bundle; nothing else of the machine changes.
R42, R45, R107: what an operation with a predicate destination leaves: the predicate reads the result, p0 stays 1, a
stage predicate at or above SPAN's depth stays 0, and the scalar, vector and mask registers are as before.
R57, R270: the result of a division or a remainder in a sealed launch stays outstanding until its eighth turn, its registers as
before, and the next bundle waits for it.
(That results of a bundle with STOP land at once is the model's choice within their bounds: log entry 10.) -/
def Obligations.ScalarDestinations : Prop :=
  (∀ (s : State) (w : Word) (d : BitVec 9) (v : Word) (bound : Nat), Ready s → d.toNat < 64 →
      (bound ≠ 8 ∨ isSealed s s.cur = false) →
      ∃ c, ctxOf (lonePass s s w [] (landS (me s) d v bound)) s.cur = c ∧
        (∀ n, getX c n = if n = physX (me s) d.toNat ∧ n ≠ 0 then v else getX (me s) n) ∧
        (∀ k, getQ c k = if k = (homeSlot (opField w)).num then .scalar v else getQ (me s) k) ∧
        c = { me s with x := c.x, q := c.q, qseq := c.qseq, seq := c.seq, pc := (me s).pc + 12, pend := []
                        held := none, answered := [], attnRun := false, fetching := false, stopWait := false } ∧
        otherContexts s.cur s (lonePass s s w [] (landS (me s) d v bound)) ∧
        lonePass s s w [] (landS (me s) d v bound) = { s with ctxs := (lonePass s s w [] (landS (me s) d v bound)).ctxs }) ∧
  (∀ (s : State) (w : Word) (d : BitVec 9) (v : Bool) (bound : Nat), Ready s → 64 ≤ d.toNat → d.toNat < 96 →
      ∃ c, ctxOf (lonePass s s w [] (landP d v bound)) s.cur = c ∧
        (∀ n, n < 32 → getP c n =
          if n = d.toNat - 64 ∧ n ≠ 0 then v && (decide (n < 24) || decide (n - 24 < (me s).depth)) else getP (me s) n) ∧
        (∀ k, getQ c k = if k = (homeSlot (opField w)).num then .scalar (if v then 1 else 0) else getQ (me s) k) ∧
        c = { me s with p := c.p, span := c.span, q := c.q, qseq := c.qseq, seq := c.seq, pc := (me s).pc + 12, pend := []
                        held := none, answered := [], attnRun := false, fetching := false, stopWait := false } ∧
        (d.toNat < 88 → c.span = (me s).span) ∧ c.depth = (me s).depth ∧
        otherContexts s.cur s (lonePass s s w [] (landP d v bound)) ∧
        lonePass s s w [] (landP d v bound) = { s with ctxs := (lonePass s s w [] (landP d v bound)).ctxs }) ∧
  (∀ (s : State) (w : Word) (d : BitVec 9) (v : Word), Ready s → isSealed s s.cur = true →
      ∃ c p, ctxOf (lonePass s s w [] (landS (me s) d v 8)) s.cur = c ∧ c.pend = [p] ∧ p.due = (me s).turn + 8 ∧
        p.writes = (landS (me s) d v 8).writes ∧ p.q = some (.scalar v) ∧ p.exact = true ∧ c.stopWait = true ∧
        c.x = (me s).x ∧ c.p = (me s).p ∧ c.q = (me s).q ∧ c.pc = (me s).pc + 12 ∧
        otherContexts s.cur s (lonePass s s w [] (landS (me s) d v 8)))

/-- R44, R293: a scalar operand that names a channel. A result sent to an established channel goes to the end of the receive
queue at its peer, and no register is written; a source takes the oldest word of the receive queue, which the passing bundle
removes; a channel that waits for its peer holds the bundle, and one that is unbound raises F_CHAN with its number.
(That the pushed word is at the peer in the very next state, the bundle's STOP landing its results at once, is the model's choice:
log entry 10. A result that R270 has land at its bound is pushed then: `ScalarDestinations`.) -/
def Obligations.ChannelOperands : Prop :=
  ∀ (s : State) (w : Word), Ready s →
    (∀ (d : BitVec 9) (v : Word) (bound : Nat) (e pe : Channel), 96 ≤ d.toNat → d.toNat < 112 →
      (bound ≠ 8 ∨ isSealed s s.cur = false) →
      e = getCh (me s) (d.toNat - 96) → pe = getCh (ctxOf s e.peer) e.pch → e.peer ≠ s.cur →
      e.st = .established → pe.st = .established → pe.peer = s.cur → pe.pch = d.toNat - 96 →
      getCh (ctxOf (lonePass s s w [] (landS (me s) d v bound)) e.peer) e.pch = { pe with queue := pe.queue ++ [v] } ∧
      (∀ n, getX (ctxOf (lonePass s s w [] (landS (me s) d v bound)) s.cur) n = getX (me s) n) ∧
      (∀ n, n ≠ s.cur → n ≠ e.peer → ctxOf (lonePass s s w [] (landS (me s) d v bound)) n = ctxOf s n)) ∧
    (∀ (ch : Nat) (e : Channel) (a : Word) (rest : List Word) (d : BitVec 9) (v : Word) (bound : Nat), ch < 16 →
      e = getCh (me s) ch → (e.st = .established ∨ e.st = .gone) → e.queue = a :: rest → d.toNat < 64 → e.peer ≠ s.cur →
      Reads s [BitVec.ofNat 9 (96 + ch)] [a] [ch] ∧
      getCh (ctxOf (lonePass s s w [ch] (landS (me s) d v bound)) s.cur) ch = { e with queue := rest } ∧
      ((bound ≠ 8 ∨ isSealed s s.cur = false) →
        getX (ctxOf (lonePass s s w [ch] (landS (me s) d v bound)) s.cur) (physX (me s) d.toNat) =
        if physX (me s) d.toNat = 0 then 0 else v)) ∧
    (∀ (f : RRR) (ch : Nat), ch < 16 → f.a = BitVec.ofNat 9 (96 + ch) → Enabled s f.gp f.gn → WellFormed (.add f) = true →
      ((getCh (me s) ch).st = .unbound → exec (.add f) s = .next (loneFault s (f.pack 0x00) ⟨0x1B, 0, word ch, none, []⟩)) ∧
      ((getCh (me s) ch).st = .waiting → exec (.add f) s = .next (lonePark s s (f.pack 0x00) .channel (.channel ch))))

/-- R40: a slot operation whose guard reads 0 is nullified: it writes nothing, raises nothing and leaves no result; only the bundle
passes. (That it pops no channel either is the model's reading: log entry 53. A nullified command of a queue is queued nevertheless: `EngineCommandsQueue`, `CopyCommandsQueue`.)
R66: an operation of the service level, enabled, outside service raises F_PRIV and does nothing else.
R42: an enabled vector operation of a context that holds no claim raises F_NOCLAIM and does nothing else.
R38, R40, R66: an encoding fault is raised whatever the guard reads: an operation whose word does not decode, and `ill`, raise
F_ILLOP. -/
def Obligations.GuardAndLevel : Prop :=
  (∀ (s : State) (i : Instr) (w : Word), Ready s → encode i = .slot w → WellFormed i = true → opField w ≠ 0xFF →
      guardOf (me s) w = false →
      (opField w ∉ ([0x80, 0x81, 0x82, 0x83, 0x84, 0x85, 0x86, 0x87, 0x88, 0x89, 0x8A, 0x8B, 0x8C, 0x8E, 0x8F, 0x90, 0x91, 0x92,
        0x93, 0x9F, 0xB3, 0xB4, 0xB5, 0xB6] : List (BitVec 8))) →
      (opField w ∈ ([0x9C, 0x9D, 0x9E] : List (BitVec 8)) → (me s).attnRun = false) →
      exec i s = .next (lonePass s s w [] {})) ∧
  (∀ (s : State) (i : Instr) (w : Word), Ready s → encode i = .slot w → WellFormed i = true → guardOf (me s) w = true →
      (me s).svc = false →
      (opField w ∈ ([0xF1, 0xF2, 0xF3, 0xF4, 0xF5, 0xF6, 0xF7, 0xF8, 0xF9, 0xFC, 0xFD, 0xFE] : List (BitVec 8))) →
      exec i s = .next (loneFault s w ⟨0x0A, 0, 0, none, []⟩)) ∧
  (∀ (s : State) (i : Instr) (w : Word), Ready s → encode i = .slot w → WellFormed i = true → guardOf (me s) w = true →
      (me s).hasClaim = false → 0x40 ≤ (opField w).toNat → (opField w).toNat < 0x80 →
      exec i s = .next (loneFault s w ⟨0x0C, 0, 0, none, []⟩)) ∧
  (∀ (s : State) (i : Instr) (w : Word), Ready s → encode i = .slot w → ((∃ r, decodeSlot w = .error r) ∨ opField w = 0xFF) →
      exec i s = .next (loneFault s w ⟨0x08, 0, 0, none, []⟩))

/-- R113, R114, R81: what an element-wise operation gives. A governed element is the operation's result; one that is not governed
keeps the destination's value, or is 0 under ZM. The flags of the governed elements alone are raised. Under stochastic rounding
of 32-bit elements each lane below VL takes one step of its own LFSR, governed or not. -/
def Obligations.VectorElements : Prop :=
  ∀ (c : Ctx) (f : RRR) (w : Nat) (g : Nat → Nat → RR) (i : Nat), w = 8 ∨ w = 16 ∨ w = 32 → i < c.lanes * 32 / w →
    (mapElems c f w false g).1.length = c.lanes * 32 / w ∧
    (mapElems c f w false g).1.getD i 0 =
      (if (getM c f.msk).getLsbD i then (g i (lfsrOf c.lfsr (i * w / 32))).code
        else if f.zm then 0 else (readV c f.d).elem w i) ∧
    (mapElems c f w false g).2.1 = ((List.range (c.lanes * 32 / w)).filter fun j => (getM c f.msk).getLsbD j).foldl
      (fun x j => x ||| (g j (lfsrOf c.lfsr (j * w / 32))).ff) 0 ∧
    (mapElems c f w false g).2.2.2 = c.lfsr ∧
    (w = 32 → (mapElems c f w true g).1.getD i 0 =
        (if (getM c f.msk).getLsbD i then (g i (lfsrOf c.lfsr i)).code else if f.zm then 0 else (readV c f.d).elem w i) ∧
      smGet 0 (mapElems c f w true g).2.2.2 i = BitVec.ofNat 32 (lfsrStep (lfsrOf c.lfsr i)))

/-- R42, R43, R45, R47, R57: what an operation with a vector destination leaves. Every lane below VL of the register named through
ROT.VO holds the result, and the latch of the slot holds it; every other vector register, every scalar, predicate and mask
register and all of memory are as before.
R57, R270: the result of a special function in a sealed launch stays outstanding until its sixth turn, its registers as before, and
the next bundle waits for it.
(That results of a bundle with STOP land at once is the model's choice within their bounds: log entry 10.) -/
def Obligations.VectorDestination : Prop :=
  ∀ (s : State) (w : Word) (d : BitVec 9) (ls : List Lane) (bound : Nat), Ready s → d.toNat < 384 →
    ls.length = (me s).lanes →
    (bound = 6 → isSealed s s.cur = true →
      ∃ c p, ctxOf (lonePass s s w [] (landV (me s) d ls 6)) s.cur = c ∧ c.pend = [p] ∧ p.due = (me s).turn + 6 ∧
        p.writes = (landV (me s) d ls 6).writes ∧ p.q = some (.vector ls) ∧ p.exact = true ∧ c.stopWait = true ∧
        c.v = (me s).v ∧ c.x = (me s).x ∧ c.q = (me s).q ∧ c.pc = (me s).pc + 12) ∧
    ((bound ≠ 6 ∨ isSealed s s.cur = false) → ∃ c, ctxOf (lonePass s s w [] (landV (me s) d ls bound)) s.cur = c ∧
      (∀ n l, l < (me s).lanes → getV c n l = if n = physV (me s) d.toNat then ls.getD l 0 else getV (me s) n l) ∧
      (∀ k, getQ c k = if k = (homeSlot (opField w)).num then .vector ls else getQ (me s) k) ∧
      c = { me s with v := c.v, q := c.q, qseq := c.qseq, seq := c.seq, pc := (me s).pc + 12, pend := []
                      held := none, answered := [], attnRun := false, fetching := false, stopWait := false } ∧
      otherContexts s.cur s (lonePass s s w [] (landV (me s) d ls bound)) ∧
      lonePass s s w [] (landV (me s) d ls bound) = { s with ctxs := (lonePass s s w [] (landV (me s) d ls bound)).ctxs })

/-- R119 to R125: the integer vector operations of a claim complete, each element formed by the rule: the form of OPM wraps,
clamps signed or clamps unsigned; OPM[1] reads the operands of minima, maxima and right shifts as unsigned. -/
def Obligations.IntegerVectorResults : Prop :=
  ∀ (s : State) (f : RRR), Ready s → Enabled s f.gp f.gn → (me s).hasClaim = true → f.d.toNat < 384 →
    let a (w i : Nat) : Nat := (readV (me s) f.a).elem w i
    let b (w i : Nat) : Nat := (readV (me s) f.b).elem w i
    let c (w i : Nat) : Nat := (readV (me s) f.c).elem w i
    let form : Nat := f.md.toNat % 4
    let uns : Bool := f.md.getLsbD 1
    let ar (w : Nat) (g : Int → Int → Int) (i : Nat) : RR := intForm form w (g (intElem form w (a w i)) (intElem form w (b w i)))
    let val (w x : Nat) : Int := if uns then (x : Int) else sext x w
    let plain (g : Nat → Nat) (i : Nat) : RR := ⟨g i, 0, 0⟩
    let mac (x : Int) : RR := intForm (if f.md.getLsbD 0 then (if uns then 3 else 1) else 0) 32 x
    ∀ row ∈ ([(.vaddS32 f, 0x40, 32, 2, ar 32 fun x y => x + y), (.vaddS16 f, 0x41, 16, 2, ar 16 fun x y => x + y),
        (.vaddS8 f, 0x42, 8, 2, ar 8 fun x y => x + y), (.vsubS32 f, 0x43, 32, 2, ar 32 fun x y => x - y),
        (.vsubS16 f, 0x44, 16, 2, ar 16 fun x y => x - y), (.vsubS8 f, 0x45, 8, 2, ar 8 fun x y => x - y),
        (.vmulS32 f, 0x46, 32, 3, ar 32 fun x y => x * y), (.vmulS16 f, 0x47, 16, 3, ar 16 fun x y => x * y),
        (.vminS32 f, 0x48, 32, 2, plain fun i => if val 32 (b 32 i) < val 32 (a 32 i) then b 32 i else a 32 i),
        (.vmaxS32 f, 0x49, 32, 2, plain fun i => if val 32 (a 32 i) < val 32 (b 32 i) then b 32 i else a 32 i),
        (.vminS16 f, 0x4A, 16, 2, plain fun i => if val 16 (b 16 i) < val 16 (a 16 i) then b 16 i else a 16 i),
        (.vmaxS16 f, 0x4B, 16, 2, plain fun i => if val 16 (a 16 i) < val 16 (b 16 i) then b 16 i else a 16 i),
        (.vand f, 0x4C, 32, 2, plain fun i => a 32 i &&& b 32 i), (.vor f, 0x4D, 32, 2, plain fun i => a 32 i ||| b 32 i),
        (.vxor f, 0x4E, 32, 2, plain fun i => a 32 i ^^^ b 32 i),
        (.vshlS32 f, 0x4F, 32, 2, plain fun i => a 32 i * 2 ^ (b 32 i % 32) % 2 ^ 32),
        (.vshrS32 f, 0x50, 32, 2, plain fun i => truncI (val 32 (a 32 i) / (2 ^ (b 32 i % 32) : Nat)) 32),
        (.vshlS16 f, 0x51, 16, 2, plain fun i => a 16 i * 2 ^ (b 16 i % 16) % 2 ^ 16),
        (.vshrS16 f, 0x52, 16, 2, plain fun i => truncI (val 16 (a 16 i) / (2 ^ (b 16 i % 16) : Nat)) 16),
        (.vmacwS16 f, 0x53, 32, 3, fun i => mac (val 32 (c 32 i) +
          val 16 (a 16 (2 * i + (f.md.getLsbD 2).toNat)) * val 16 (b 16 (2 * i + (f.md.getLsbD 2).toNat)))),
        (.vdotS8 f, 0x54, 32, 3, fun i => mac (val 32 (c 32 i) + val 8 (a 8 (4 * i)) * val 8 (b 8 (4 * i)) +
          val 8 (a 8 (4 * i + 1)) * val 8 (b 8 (4 * i + 1)) + val 8 (a 8 (4 * i + 2)) * val 8 (b 8 (4 * i + 2)) +
          val 8 (a 8 (4 * i + 3)) * val 8 (b 8 (4 * i + 3)))),
        (.vdotS16 f, 0x55, 32, 3, fun i => mac (val 32 (c 32 i) + val 16 (a 16 (2 * i)) * val 16 (b 16 (2 * i)) +
          val 16 (a 16 (2 * i + 1)) * val 16 (b 16 (2 * i + 1)))),
        (.vclmul f, 0x56, 32, 3, plain fun i => clmulN (a 32 i) (b 32 i) 32 % 2 ^ 32),
        (.vclmulh f, 0x57, 32, 3, plain fun i => clmulN (a 32 i) (b 32 i) 32 / 2 ^ 32)] :
        List (Instr × BitVec 8 × Nat × Nat × (Nat → RR))),
      WellFormed row.1 = true →
      exec row.1 s = .next (vecPass s (f.pack row.2.1) f row.2.2.1 row.2.2.2.1 false fun i _ => row.2.2.2.2 i)

/-- R121, R126: an operation with a mask destination completes with the mask of the rule: a compare gives each governed element's
bit by its condition, keeps or clears the others, and clears the bits at and above the element count; the logical operations
on masks act on all 256 bits.
R127, R136 to R140: selection and the element moves complete with the elements of the rule.
(A mask in a latch as 8 lanes is the model's choice: log entry 66.) -/
def Obligations.MaskAndMoveResults : Prop :=
  (∀ (s : State) (f : RRR), Ready s → Enabled s f.gp f.gn → (me s).hasClaim = true → 384 ≤ f.d.toNat →
      let a (w i : Nat) : Nat := (readV (me s) f.a).elem w i
      let b (w i : Nat) : Nat := (readV (me s) f.b).elem w i
      let x (i : Nat) : FV := srcF (me s) f32 (a 32 i)
      let y (i : Nat) : FV := srcF (me s) f32 (b 32 i)
      let ma : BitVec 256 := getM (me s) (f.a.toNat - 384)
      let mb : BitVec 256 := getM (me s) (f.b.toNat - 384)
      (∀ row ∈ ([(.vcmpS32 f, 0x58, 32, 2, fun i => condInt f.opm 32 (a 32 i) (b 32 i)),
          (.vcmpS16 f, 0x59, 16, 2, fun i => condInt f.opm 16 (a 16 i) (b 16 i)),
          (.vcmpF32 f, 0x61, 32, 4, fun i => condF f.opm (x i) (y i))] : List (Instr × BitVec 8 × Nat × Nat × (Nat → Bool))),
        WellFormed row.1 = true →
        ∃ m : BitVec 256,
          (∀ i, i < 256 → m.getLsbD i = (decide (i < (me s).lanes * 32 / row.2.2.1) &&
            if (getM (me s) f.msk).getLsbD i then row.2.2.2.2 i
            else if f.zm then false else (getM (me s) (f.d.toNat - 384)).getLsbD i)) ∧
          exec row.1 s = .next (lonePass s s (f.pack row.2.1) [] { landM f.d m row.2.2.2.1 with ew := 1 })) ∧
      (∀ row ∈ ([(.vand f, 0x4C, ma &&& mb), (.vor f, 0x4D, ma ||| mb), (.vxor f, 0x4E, ma ^^^ mb)] :
          List (Instr × BitVec 8 × BitVec 256)),
        WellFormed row.1 = true →
        exec row.1 s = .next (lonePass s s (f.pack row.2.1) [] { landM f.d row.2.2 2 with ew := 1 }))) ∧
  (∀ (s : State), Ready s → (me s).hasClaim = true →
      (∀ (f : RRR) (w n h : Nat), Enabled s f.gp f.gn → w = widthCode (f.md.toNat % 4) → n = (me s).lanes * 32 / w → h = n / 2 →
        let a (i : Nat) : Nat := (readV (me s) f.a).elem w i
        let b (i : Nat) : Nat := (readV (me s) f.b).elem w i
        let k : Nat := (f.md.getLsbD 2).toNat
        ∀ row ∈ ([(.vsel f, 0x5A, 2, fun i => if (getM (me s) (f.c.toNat - 384)).getLsbD i then a i else b i),
            (.vperm f, 0x7B, 3, fun i => if b i < n then a (b i) else 0),
            (.vzip f, 0x7E, 3, fun i => if i % 2 = 0 then a (k * h + i / 2) else b (k * h + i / 2)),
            (.vpack f, 0x7E, 3, fun i => if i < h then a (2 * i + k) else b (2 * (i - h) + k))] :
            List (Instr × BitVec 8 × Nat × (Nat → Nat))),
          WellFormed row.1 = true →
          exec row.1 s = .next (vecPass s (f.pack row.2.1) f w row.2.2.1 false fun i _ => ⟨row.2.2.2 i, 0, 0⟩)) ∧
      (∀ (f : RRI) (w n : Nat), Enabled s f.gp f.gn → n = (me s).lanes * 32 / w →
        let a (i : Nat) : Nat := (readV (me s) f.a).elem w i
        ∀ row ∈ ([(.vsplat f, 0x7C, 2, 32, fun _ => f.imm.toNat),
            (.vslide f, 0x7D, 3, widthCode (f.imm.toNat / 2 ^ 16), fun i =>
              if 0 ≤ (i : Int) + sext f.imm.toNat 16 ∧ (i : Int) + sext f.imm.toNat 16 < n then
                a ((i : Int) + sext f.imm.toNat 16).toNat else 0),
            (.vext f, 0x7F, 3, widthCode (f.imm.toNat / 2 ^ 8), fun i => if i = 0 ∧ f.imm.toNat % 2 ^ 8 < n then a (f.imm.toNat % 2 ^ 8) else 0)] :
            List (Instr × BitVec 8 × Nat × Nat × (Nat → Nat))),
          w = row.2.2.2.1 → WellFormed row.1 = true →
          exec row.1 s = .next (lonePass s s (f.pack row.2.1) []
            { landV (me s) f.d (packLanes w ((List.range n).map row.2.2.2.2) (me s).lanes) row.2.2.1 with ew := w })))

/-- R128, R129, R133: the floating-point vector operations complete with each element's exact result rounded once in the mode of
RS and RMODE, in the format of the operation; the special functions with the value of their rule. -/
def Obligations.FloatVectorResults : Prop :=
  ∀ (s : State) (f : RRR), Ready s → Enabled s f.gp f.gn → (me s).hasClaim = true →
    let m : RM := rmOf (f.md.toNat % 8) (me s).rm
    let neg (x : FV) : FV := if f.md.getLsbD 3 then x.flip else x
    let a (fm : Fmt) (i : Nat) : FV := srcF (me s) fm ((readV (me s) f.a).elem fm.width i)
    let b (fm : Fmt) (i : Nat) : FV := srcF (me s) fm ((readV (me s) f.b).elem fm.width i)
    let c (fm : Fmt) (i : Nat) : FV := srcF (me s) fm ((readV (me s) f.c).elem fm.width i)
    let fz : Bool := (me s).fz
    (∀ row ∈ ([(.vaddF32 f, 0x5B, f32, fun i => addF m (a f32 i) (neg (b f32 i))),
        (.vsubF32 f, 0x5C, f32, fun i => addF m (a f32 i) (neg (b f32 i).flip)),
        (.vmulF32 f, 0x5D, f32, fun i => (neg (mulF (a f32 i) (b f32 i)).1, (mulF (a f32 i) (b f32 i)).2)),
        (.vfmaF32 f, 0x5E, f32, fun i => fmaF m (a f32 i) (b f32 i) (neg (c f32 i))),
        (.vaddBf16 f, 0x62, bf16, fun i => addF m (a bf16 i) (neg (b bf16 i))),
        (.vmulBf16 f, 0x63, bf16, fun i => (neg (mulF (a bf16 i) (b bf16 i)).1, (mulF (a bf16 i) (b bf16 i)).2)),
        (.vfmaBf16 f, 0x64, bf16, fun i => fmaF m (a bf16 i) (b bf16 i) (neg (c bf16 i))),
        (.vaddF16 f, 0x65, f16, fun i => addF m (a f16 i) (neg (b f16 i))),
        (.vmulF16 f, 0x66, f16, fun i => (neg (mulF (a f16 i) (b f16 i)).1, (mulF (a f16 i) (b f16 i)).2)),
        (.vfmaF16 f, 0x67, f16, fun i => fmaF m (a f16 i) (b f16 i) (neg (c f16 i)))] :
        List (Instr × BitVec 8 × Fmt × (Nat → FV × BitVec 5))),
      WellFormed row.1 = true →
      exec row.1 s = .next (vecPass s (f.pack row.2.1) f row.2.2.1.width 4 (m == .sr) fun i l =>
        finF (me s) row.2.2.1 m l (row.2.2.2 i))) ∧
    (∀ row ∈ ([(.vminF32 f, 0x5F, 4, fun i => ⟨codeOf f32 (minF (a f32 i) (b f32 i)), 0, 0⟩),
        (.vmaxF32 f, 0x60, 4, fun i => ⟨codeOf f32 (maxF (a f32 i) (b f32 i)), 0, 0⟩),
        (.vexp2 f, 0x70, 6, fun i => vexp2F fz (a f32 i)), (.vlog2 f, 0x71, 6, fun i => vlogF true fz (a f32 i)),
        (.vrcp f, 0x72, 6, fun i => vrcpF fz (a f32 i)), (.vrsqrt f, 0x73, 6, fun i => vrsqrtF fz (a f32 i)),
        (.vtanh f, 0x74, 6, fun i => vtanhF fz (a f32 i)), (.vexp f, 0x75, 6, fun i => vexpF fz (a f32 i)),
        (.vlog f, 0x76, 6, fun i => vlogF false fz (a f32 i))] : List (Instr × BitVec 8 × Nat × (Nat → RR))),
      WellFormed row.1 = true →
      exec row.1 s = .next (vecPass s (f.pack row.2.1) f 32 row.2.2.1 false fun i _ => row.2.2.2 i))

/-- R130, R131, R132: a conversion completes. With a rounding mode that is not stochastic, each destination element that PART names
is its source element converted, when it is governed; an element that PART does not name keeps its value. -/
def Obligations.ConversionResults : Prop :=
  ∀ (s : State) (f : RRR), Ready s → Enabled s f.gp f.gn → (me s).hasClaim = true →
    ∀ row ∈ ([(.vcvtF32 f, 0x68, 0x10, 0x10), (.vcvtBf16 f, 0x69, 0x12, 0x12), (.vcvtF16 f, 0x6A, 0x11, 0x11),
        (.vcvtF8e4 f, 0x6B, 0x13, 0x13), (.vcvtF8e5 f, 0x6C, 0x14, 0x14), (.vcvtS32 f, 0x6D, 0x03, 0x07),
        (.vcvtS16 f, 0x6E, 0x02, 0x06), (.vcvtS8 f, 0x6F, 0x01, 0x05)] : List (Instr × BitVec 8 × Nat × Nat)),
      WellFormed row.1 = true →
      let m : RM := rmOf (f.md.toNat % 8) (me s).rm
      let hi : Bool := f.md.getLsbD 3
      let dt : Nat := if hi then row.2.2.2 else row.2.2.1
      let ws : Nat := cvtWidth f.ty.toNat
      let wd : Nat := cvtWidth dt
      ∃ es ff sf lf,
        exec row.1 s = .next (lonePass s (setLfsr s s.cur (m == .sr) lf) (f.pack row.2.1) []
          { landV (me s) f.d (packLanes wd es (me s).lanes) 3 with ff := ff, sf := sf, ew := wd }) ∧
        es.length = (me s).lanes * 32 / wd ∧
        (m ≠ .sr → ∀ j, j < (me s).lanes * 32 / wd →
          es.getD j 0 =
            match cvtSource ws wd f.c.toNat (me s).lanes j with
            | none => (readV (me s) f.d).elem wd j
            | some i =>
              if (getM (me s) f.msk).getLsbD j then
                (convert (me s) f.ty.toNat dt wd m hi (lfsrOf (me s).lfsr (j * wd / 32)) ((readV (me s) f.a).elem ws i)).code
              else if f.zm then 0 else (readV (me s) f.d).elem wd j)

/-- R94, R95, R134, R135: the reductions and scans complete: over the pairwise tree, or in order from element 0, with the identity
of the operation in place of an element that is not governed. A wrapping integer sum is the sum of the governed elements; a
saturating one is clamped at every node or step, to the signed or the unsigned range, and sets SATF.IS exactly when a node or
step was clamped; a minimum or maximum is the least or the greatest of the governed elements and the identity, read as
signed or as unsigned, and sets nothing.
(The identity's part in a sum, and element 0 of a scan, are readings: log entries 54 and 65.) -/
def Obligations.ReductionResults : Prop :=
  ∀ (s : State) (f : RRR), Ready s → Enabled s f.gp f.gn → (me s).hasClaim = true →
    let v (op : BitVec 8) : View := loneView s (f.pack op) []
    let k : Nat := logCeil (me s).lanes
    let m : RM := rmOf 7 (me s).rm
    let e (fm : Nat) : FV := srcF (me s) f32 fm
    let uns (b : Nat) : Bool := f.md.getLsbD b
    let val (u : Bool) (x : Nat) : Int := if u then (x : Int) else sext x 32
    let low (u : Bool) : Int := if u then 0 else -2 ^ 31
    let high (u : Bool) : Int := if u then 2 ^ 32 - 1 else 2 ^ 31 - 1
    let clamp (u : Bool) (x : Int) : RR :=
      ⟨truncI (max (low u) (min (high u) x)) 32, 0, if x < low u ∨ high u < x then sIS else 0⟩
    let governed (n : Nat) : List Nat := ((List.range n).filter fun i => (getM (me s) f.msk).getLsbD i).map
      fun i => (readV (me s) f.a).elem 32 i
    (WellFormed (.vredS32 f) = true →
      ∃ r sf, exec (.vredS32 f) s = .next (lonePass s s (f.pack 0x78) []
          { landV (me s) f.d (redLanes f (v 0x78) r) 8 with sf := sf }) ∧
        (f.md.toNat % 8 = 0 → sf = 0 ∧ r = (governed (me s).lanes).sum % 2 ^ 32) ∧
        (f.md.toNat % 8 = 4 → tree (fun _ a b => clamp (uns 3) (val (uns 3) a + val (uns 3) b)) k (redElems f (v 0x78) 0) = (r, 0, sf)) ∧
        (f.md.toNat % 4 = 1 → sf = 0 ∧
          let es : List Nat := (if uns 3 then 0xFFFFFFFF else 0x7FFFFFFF) :: governed (me s).lanes
          r ∈ es ∧ ∀ x ∈ es, val (uns 3) r ≤ val (uns 3) x) ∧
        (f.md.toNat % 4 = 2 → sf = 0 ∧
          let es : List Nat := (if uns 3 then 0 else 0x80000000) :: governed (me s).lanes
          r ∈ es ∧ ∀ x ∈ es, val (uns 3) x ≤ val (uns 3) r)) ∧
    (WellFormed (.vredF32 f) = true →
      (f.md.toNat % 4 = 0 → ∃ r ff lf, treeF (me s) m k (me s).lfsr (redElems f (v 0x77) 0x80000000) = (r, ff, lf) ∧
        exec (.vredF32 f) s = .next (lonePass s (setLfsr s s.cur (m == .sr) lf) (f.pack 0x77) []
          { landV (me s) f.d (redLanes f (v 0x77) r) 8 with ff := ff })) ∧
      (f.md.toNat % 4 = 1 → exec (.vredF32 f) s = .next (lonePass s s (f.pack 0x77) []
          (landV (me s) f.d (redLanes f (v 0x77)
            (tree (fun _ a b => ⟨codeOf f32 (minF (e a) (e b)), 0, 0⟩) k (redElems f (v 0x77) 0x7F800000)).1) 8))) ∧
      (f.md.toNat % 4 = 2 → exec (.vredF32 f) s = .next (lonePass s s (f.pack 0x77) []
          (landV (me s) f.d (redLanes f (v 0x77)
            (tree (fun _ a b => ⟨codeOf f32 (maxF (e a) (e b)), 0, 0⟩) k (redElems f (v 0x77) 0xFF800000)).1) 8)))) ∧
    (WellFormed (.vscanS32 f) = true →
      ∃ l sf, exec (.vscanS32 f) s = .next (lonePass s s (f.pack 0x7A) []
          { landV (me s) f.d (packLanes 32 l (me s).lanes) 8 with sf := sf }) ∧
        l.length = (me s).lanes ∧
        (f.md.toNat % 2 = 0 → sf = 0 ∧ ∀ i, i < (me s).lanes → l.getD i 0 = (governed (i + 1)).sum % 2 ^ 32) ∧
        (f.md.toNat % 2 = 1 →
          let x (i : Nat) : Nat := if (getM (me s) f.msk).getLsbD i then (readV (me s) f.a).elem 32 i else 0
          let step (i : Nat) : RR := clamp (uns 1) (val (uns 1) (l.getD i 0) + val (uns 1) (x (i + 1)))
          l.getD 0 0 = x 0 ∧ (∀ i, i + 1 < (me s).lanes → l.getD (i + 1) 0 = (step i).code) ∧
          ((∃ i, i + 1 < (me s).lanes ∧ (step i).sf ≠ 0) → sf = sIS) ∧
          ((∀ i, i + 1 < (me s).lanes → (step i).sf = 0) → sf = 0))) ∧
    (WellFormed (.vscanF32 f) = true →
      ∃ l ff lf, scanF (me s) m 0 none (me s).lfsr (scanElems f (v 0x79) 0x80000000) = (l, ff, lf) ∧
        exec (.vscanF32 f) s = .next (lonePass s (setLfsr s s.cur (m == .sr) lf) (f.pack 0x79) []
          { landV (me s) f.d (packLanes 32 l (me s).lanes) 8 with ff := ff }))

/-- R212, R206: a load whose access is performed completes with the bytes at its effective address, least significant first,
sign-extended or zero-extended as its mnemonic says.
R212, R206: a store whose access is performed completes with the low bytes of its source, least significant first, at its
effective address, and writes no register.
(An access is performed at its step, by the model's choice: log entry 6. One of order `.sc` that may not issue in this window waits for
the next, log entry 16: `AccessHeld`.) -/
def Obligations.LoadStoreResults : Prop :=
  (∀ (s t : State) (f : MEMF) (base : Word) (pops : List Nat) (locs : List Loc),
      Ready s → Enabled s f.gp f.gn → Reads s [f.base] [base] pops → Room s f.data → scHeld s s.cur f.order = false →
      ∀ row ∈ ([(.ldS8 f, 0xA0, 1, true), (.ldZ8 f, 0xA1, 1, false), (.ldS16 f, 0xA2, 2, true), (.ldZ16 f, 0xA3, 2, false),
          (.ldS32 f, 0xA4, 4, true), (.ldZ32 f, 0xA5, 4, false), (.ldS64 f, 0xA6, 8, false)] :
          List (Instr × BitVec 8 × Nat × Bool)),
        WellFormed row.1 = true → Placed s true .load (f.policy == 3) (address f base) row.2.2.1 t locs →
        exec row.1 s = .next (lonePass s (announceIf t s.cur f.order) (f.pack row.2.1) pops
          (landS (me s) f.data
            (if row.2.2.2 then wordI (sext (leNat (readLocs t locs)) (8 * row.2.2.1)) else word (leNat (readLocs t locs))) 3))) ∧
  (∀ (s t : State) (f : MEMF) (a base : Word) (pops : List Nat) (locs : List Loc),
      Ready s → Enabled s f.gp f.gn → Reads s [f.data, f.base] [a, base] pops →
      scHeld s s.cur f.order = false →
      ∀ row ∈ ([(.stS8 f, 0xA7, 1), (.stS16 f, 0xA8, 2), (.stS32 f, 0xA9, 4), (.stS64 f, 0xAA, 8)] : List (Instr × BitVec 8 × Nat)),
        WellFormed row.1 = true → Placed s true .store (f.policy == 3) (address f base) row.2.2 t locs →
        exec row.1 s = .next (lonePass s (announceIf (storeLocs t locs (leBytes row.2.2 a.toNat)) s.cur f.order)
          (f.pack row.2.1) pops {}))

/-- R214: a vector load fills every lane below VL with the sign-extended bytes of its element; a vector store stores the low bytes
of each lane below VL, lane 0 at the lowest address. -/
def Obligations.VectorMemoryResults : Prop :=
  ∀ (s t : State) (f : MEMF) (base : Word) (pops : List Nat) (locs : List Loc),
    Ready s → Enabled s f.gp f.gn → (me s).hasClaim = true → Reads s [f.base] [base] pops →
    scHeld s s.cur f.order = false →
    (∀ row ∈ ([(.vldS32 f, 0xAB, 4), (.vldS16 f, 0xAD, 2)] : List (Instr × BitVec 8 × Nat)), WellFormed row.1 = true →
      Placed s true .load (f.policy == 3) (address f base) (row.2.2 * (me s).lanes) t locs →
      exec row.1 s = .next (lonePass s (announceIf t s.cur f.order) (f.pack row.2.1) pops
        (landV (me s) f.data ((List.range (me s).lanes).map fun l =>
          BitVec.ofInt 32 (sext (leNat (((readLocs t locs).drop (row.2.2 * l)).take row.2.2)) (8 * row.2.2))) 4))) ∧
    (∀ row ∈ ([(.vstS32 f, 0xAC, 4), (.vstS16 f, 0xAE, 2)] : List (Instr × BitVec 8 × Nat)), WellFormed row.1 = true →
      Placed s true .store (f.policy == 3) (address f base) (row.2.2 * (me s).lanes) t locs →
      exec row.1 s = .next (lonePass s (announceIf (storeLocs t locs ((List.range (me s).lanes).flatMap fun l =>
        leBytes row.2.2 (getV (me s) (physV (me s) f.data.toNat) l).toNat)) s.cur f.order) (f.pack row.2.1) pops {}))

/-- R235, R236: an atomic on an aligned address whose access is performed returns the old value and stores the new one of its
operation, of 4 bytes with SZ or for add.f32 and of 8 otherwise; a compare-and-swap stores only when the old value equals its
expected one. A misaligned address raises F_ALIGN with the address, and nothing is stored. -/
def Obligations.AtomicResults : Prop :=
  ∀ (s t : State) (f : MEMF) (base : Word) (pops : List Nat) (locs : List Loc),
    Ready s → Enabled s f.gp f.gn → Reads s [f.base] [base] pops → Room s f.data → scHeld s s.cur f.order = false →
    ∀ row ∈ ([(.amoAdd f, 0xBA, .add, fun n o x _ => some ((o + x) % 2 ^ n), true),
        (.amoAnd f, 0xBB, .and, fun _ o x _ => some (o &&& x), true), (.amoOr f, 0xBC, .or, fun _ o x _ => some (o ||| x), true),
        (.amoXor f, 0xBD, .xor, fun _ o x _ => some (o ^^^ x), true),
        (.amoMinS f, 0xBE, .minS, fun n o x _ => some (if sext x n < sext o n then x else o), true),
        (.amoMinZ f, 0xBF, .minZ, fun _ o x _ => some (min o x), false),
        (.amoMaxS f, 0xC0, .maxS, fun n o x _ => some (if sext o n < sext x n then x else o), true),
        (.amoMaxZ f, 0xC1, .maxZ, fun _ o x _ => some (max o x), false), (.amoSwap f, 0xC2, .swap, fun _ _ x _ => some x, true),
        (.amoCas f, 0xC3, .cas, fun _ o x y => if o = x then some y else none, true),
        (.amoAddF32 f, 0xC4, .addF32, fun _ o x _ => some (rne f32 (addF .rne (decodeF f32 o) (decodeF f32 x)).1), false)] :
        List (Instr × BitVec 8 × AmoOp × (Nat → Nat → Nat → Nat → Option Nat) × Bool)),
      WellFormed row.1 = true →
      let n : Nat := if f.policy = 1 ∨ row.2.2.1 = .addF32 then 4 else 8
      let x : Nat := (readX (me s) f.data.toNat).toNat % 2 ^ (8 * n)
      let y : Nat := (readX (me s) (f.data.toNat + 1)).toNat % 2 ^ (8 * n)
      let old : Nat := leNat (readLocs t locs)
      (address f base % n ≠ 0 → exec row.1 s = .next (loneFault s (f.pack row.2.1) ⟨0x15, word (address f base), 0, none, []⟩)) ∧
      (address f base % n = 0 → Placed s true .amo (2 ≤ f.scope.toNat) (address f base) n t locs →
        amoHostRefused row.2.2.1 f.scope.toNat locs = false →
        exec row.1 s = .next (lonePass s
          (announceIf (match row.2.2.2.1 (8 * n) old x y with | some new => storeLocs t locs (leBytes n new) | none => t) s.cur f.order)
          (f.pack row.2.1) pops
          (landS (me s) f.data (if n = 8 ∨ row.2.2.2.2 = false then word old else wordI (sext old 32)) 4)))

/-- R196, R212, R405: what a store does to its bytes. After bytes are stored to distinct places of memory, each place reads its
byte, every other byte of memory and of every stash reads as before, the lines written lose their publish bit and no other
line does, and no context changes. -/
def Obligations.StoredBytes : Prop :=
  ∀ (t : State) (as : List Nat) (bs : List Byte), as.length = bs.length → as.Nodup →
    (∀ i, i < as.length → memByte (storeLocs t (as.map .mem) bs) (as.getD i 0) = bs.getD i 0) ∧
    (∀ a, a ∉ as → memByte (storeLocs t (as.map .mem) bs) a = memByte t a) ∧
    (∀ k, smGet false (storeLocs t (as.map .mem) bs).pub k = (smGet false t.pub k && decide (∀ a ∈ as, a / 128 ≠ k))) ∧
    (storeLocs t (as.map .mem) bs).ctxs = t.ctxs ∧ (storeLocs t (as.map .mem) bs).tiles = t.tiles ∧
    (memCanonical t → memCanonical (storeLocs t (as.map .mem) bs))

/-- R207, R208, R211: an access to a scratch mapping of the context's tile is a stash hit. Its bytes lie at the mapping's stash
offset, the access changes nothing, and a store to them leaves all of memory and every other byte of every stash unchanged. -/
def Obligations.ScratchAccess : Prop :=
  ∀ (s : State) (r : Req6) (ea n k : Nat) (m : Mapping), 0 < n → ea + n ≤ 2 ^ 57 →
    mapsServe s (tileOf r.ctx) r.asid = true → m.mode = 2 → m.base ≤ ea → ea + n ≤ m.base + m.len →
    (∀ va, m.base ≤ va → va < m.base + m.len → mapAt (tileAt s (tileOf r.ctx)) va = some (k, m)) →
    (∀ b, r.maps = some b → m.born < b) →
    (ctxOf s r.ctx).watch = [] → s.errs = [] → s.serrs = [] → s.cerrs = [] → s.scerrs = [] →
    let locs := (List.range n).map fun i => Loc.stash (tileOf r.ctx) (m.stoff + (ea + i - m.base)) none
    access s r ea n = .ok s locs ∧
    (∀ bs : List Byte, bs.length = n →
      (∀ i, i < n → stashByte (storeLocs s locs bs) (tileOf r.ctx) (m.stoff + (ea + i - m.base)) = bs.getD i 0) ∧
      (∀ t o, t ≠ tileOf r.ctx ∨ (∀ i, i < n → o ≠ m.stoff + (ea + i - m.base)) →
        stashByte (storeLocs s locs bs) t o = stashByte s t o) ∧
      sameMemory s (storeLocs s locs bs) ∧ (storeLocs s locs bs).ctxs = s.ctxs)

/-- R208, R209: an access that is no stash hit and that the home has not answered holds its bundle: the context parks on fault with
the bundle held, its lines asked for, waiting for the stash lines that it touches and for the home lines that another agent
holds. One that faults takes its fault, and stores nothing. So it is for the scalar and vector loads and stores and the atomics.
R205, R417: whether a write lost on its way to a peer or to the host was performed is left open; no byte but its own changes.
R182: an access of order `.sc` that may not issue in this window stays held.
R226, R230: the home side of a copy. The delivery of a byte whose home line another agent holds delivers nothing and asks for the line;
one that meets a fault delivers nothing and stops the channel with it.
(That the bundle is held whole and issued again is the model's reading: log entry 7; windows are log entry 16, and a copy's checks
at its delivery log entry 83.) -/
def Obligations.AccessHeld : Prop :=
  (∀ (s t : State) (f : MEMF) (base : Word) (args : List Word) (pops : List Nat) (x : FaultInfo), Ready s → Enabled s f.gp f.gn →
    let vl : Nat := (me s).lanes
    let size : Nat := if f.policy = 1 then 4 else 8
    let place : Nat := address f base
    ∀ row ∈ ([(.ldS8 f, 0xA0, 1, .load, [f.base]), (.ldZ8 f, 0xA1, 1, .load, [f.base]), (.ldS16 f, 0xA2, 2, .load, [f.base]),
        (.ldZ16 f, 0xA3, 2, .load, [f.base]), (.ldS32 f, 0xA4, 4, .load, [f.base]), (.ldZ32 f, 0xA5, 4, .load, [f.base]),
        (.ldS64 f, 0xA6, 8, .load, [f.base]), (.stS8 f, 0xA7, 1, .store, [f.data, f.base]),
        (.stS16 f, 0xA8, 2, .store, [f.data, f.base]), (.stS32 f, 0xA9, 4, .store, [f.data, f.base]),
        (.stS64 f, 0xAA, 8, .store, [f.data, f.base]), (.vldS32 f, 0xAB, 4 * vl, .load, [f.base]),
        (.vstS32 f, 0xAC, 4 * vl, .store, [f.base]), (.vldS16 f, 0xAD, 2 * vl, .load, [f.base]),
        (.vstS16 f, 0xAE, 2 * vl, .store, [f.base]), (.amoAdd f, 0xBA, size, .amo, [f.base]), (.amoAnd f, 0xBB, size, .amo, [f.base]),
        (.amoOr f, 0xBC, size, .amo, [f.base]), (.amoXor f, 0xBD, size, .amo, [f.base]), (.amoMinS f, 0xBE, size, .amo, [f.base]),
        (.amoMinZ f, 0xBF, size, .amo, [f.base]), (.amoMaxS f, 0xC0, size, .amo, [f.base]), (.amoMaxZ f, 0xC1, size, .amo, [f.base]),
        (.amoSwap f, 0xC2, size, .amo, [f.base]), (.amoCas f, 0xC3, size, .amo, [f.base]), (.amoAddF32 f, 0xC4, 4, .amo, [f.base])] :
        List (Instr × BitVec 8 × Nat × Need × List (BitVec 9))),
      WellFormed row.1 = true → Reads s row.2.2.2.2 (args ++ [base]) pops → (row.2.2.2.1 ≠ .store → Room s f.data) →
      (0xAB ≤ row.2.1.toNat → row.2.1.toNat ≤ 0xAE → (me s).hasClaim = true) →
      (row.2.2.2.1 = .amo → place % row.2.2.1 = 0) →
      let n : Nat := row.2.2.1
      let w : Word := f.pack row.2.1
      let r : Req6 := homeReq s row.2.2.2.1 (if row.2.2.2.1 = .amo then decide (2 ≤ f.scope.toNat) else f.policy == 3) true
      let sys : Bool := decide (row.2.2.2.1 = .amo) && f.scope == 5
      (scHeld s s.cur f.order = true →
        exec row.1 s = .next (modCtx s s.cur fun c => { c with held := some (Bundle.single (me s).pc w) })) ∧
      (scHeld s s.cur f.order = false →
        (∀ hs, access s r place n = .hold t hs →
          exec row.1 s = .next (lonePark s (setWants t s.cur hs) w .fault (.home (touchedBy s (loneView s w []) place n)))) ∧
        (access s r place n = .fault x →
          ∃ m p, exec row.1 s = .next (loneFault { s with mem := m, pub := p } w x) ∧
            (maybeDone r sys x = false → m = s.mem ∧ p = s.pub) ∧
            (∀ a, (∀ locs, lostPlaces s r place n = some locs → Loc.mem a ∉ locs) → memByte { s with mem := m } a = memByte s a)))) ∧
  (∀ (s : State) (sp ch : Nat) (c : Cmd) (rest : List Cmd) (e : Eng) (key : Nat), (queueAt s sp (3 + ch)).running = true →
    (queueAt s sp (3 + ch)).frozen = false →
    (queueAt s sp (3 + ch)).cmds = c :: rest → c.nullified = false → c.done < c.total → e = engOf s c → key = queueKey sp (3 + ch) →
    (c.op = 0xB3 →
      (∀ t hs, homePlace s e false (c.done == 0) (c.b.toNat + c.done) = .hold t hs →
        exec (.copyDeliver sp ch) s = .next (seenBy s (setWants t key hs) sp (3 + ch))) ∧
      (∀ x, homePlace s e false (c.done == 0) (c.b.toNat + c.done) = .fault x →
        exec (.copyDeliver sp ch) s = .next (seenBy s (stopQueue (setWants s key []) sp (3 + ch) x) sp (3 + ch)))) ∧
    (c.op = 0xB4 → ∀ u locs, stashPlaces s e false [] (c.b.toNat + c.done) 1 = .ok u locs → locError u locs false = none →
      (∀ t hs, homePlace (correct u locs) e true (c.done == 0) (c.a.toNat + c.done) = .hold t hs →
        exec (.copyDeliver sp ch) s = .next (seenBy s (setWants t key hs) sp (3 + ch))) ∧
      (∀ x, homePlace (correct u locs) e true (c.done == 0) (c.a.toNat + c.done) = .fault x → x.code ≠ 0x31 →
        exec (.copyDeliver sp ch) s = .next (seenBy s (stopQueue (setWants s key []) sp (3 + ch) x) sp (3 + ch)))))

/-- R238, R240, R241, R242: `fence` passes, `ifence` empties the fetch buffer; `tok.wait` passes when the commands that its tokens bind to
have completed and parks on token otherwise, and `tok.test` tells which.
R223: `pref` asks for the line of its address when that lies in a backed mapping of the context's tile, the line is invalid and its
translation is known and admits the fill; otherwise it passes with no effect.
(That a fence finds every earlier access performed, and passes at once, is the model's choice: log entry 6; a fence of order `.sc` waits
for its window: log entry 16.) -/
def Obligations.FenceTokenResults : Prop :=
  ∀ (s : State), Ready s →
    (∀ f : MEMF, Enabled s f.gp f.gn →
      (WellFormed (.fence f) = true → scHeld s s.cur f.order = true →
        exec (.fence f) s = .next (modCtx s s.cur fun c => { c with held := some (Bundle.single (me s).pc (f.pack 0xC5)) })) ∧
      (WellFormed (.fence f) = true → scHeld s s.cur f.order = false →
        exec (.fence f) s = .next (lonePass s (announceIf s s.cur f.order) (f.pack 0xC5) [] {})) ∧
      (∀ base pops, Reads s [f.base] [base] pops → WellFormed (.pref f) = true →
        let ea : Nat := address f base
        let tile : Nat := tileOf s.cur
        ((∃ k m p en lvl ta, mapsServe s tile (me s).asid.toNat = true ∧ mapAt (tileAt s tile) ea = some (k, m) ∧ m.mode = 0 ∧
            smFind (tileAt s tile).lines (lineOf ea) = none ∧ canonical ea = true ∧ partAt s (partOfCtx s s.cur) = some p ∧
            lookup s p (me s).asid.toNat ea .fillR = .leaf en lvl ta) →
          exec (.pref f) s = .next (lonePass s (requestLine s tile (lineOf ea) false) (f.pack 0xCD) pops {})) ∧
        ((mapsServe s tile (me s).asid.toNat = false ∨ mapAt (tileAt s tile) ea = none ∨
            (∃ k m, mapAt (tileAt s tile) ea = some (k, m) ∧ m.mode ≠ 0) ∨ (smFind (tileAt s tile).lines (lineOf ea)).isSome ∨
            canonical ea = false ∨
            (∀ p, partAt s (partOfCtx s s.cur) = some p → ∀ en lvl ta, lookup s p (me s).asid.toNat ea .fillR ≠ .leaf en lvl ta)) →
          exec (.pref f) s = .next (lonePass s s (f.pack 0xCD) pops {})))) ∧
    (∀ f : RRR, Enabled s f.gp f.gn →
      (WellFormed (.ifence f) = true →
        exec (.ifence f) s = .next (lonePass s (setCtx s s.cur { me s with fbuf := [] }) (f.pack 0xC7) [] {})) ∧
      (WellFormed (.tokTest f) = true →
        exec (.tokTest f) s = .next (lonePass s s (f.pack 0xC9) [] (landP f.d (decide (boundCmds (me s) [f.a.toNat] = [])) 1)))) ∧
    (∀ f : ENGF, Enabled s f.gp f.gn → WellFormed (.tokWait f) = true →
      (boundCmds (me s) [f.c1.toNat, f.c2.toNat, f.c3.toNat] = [] →
        exec (.tokWait f) s = .next (lonePass s s (f.pack 0xC8) [] {})) ∧
      (∀ ids, boundCmds (me s) [f.c1.toNat, f.c2.toNat, f.c3.toNat] = ids → ids ≠ [] →
        exec (.tokWait f) s = .next (lonePark s s (f.pack 0xC8) .token (.tokens ids))))

/-- R239, R196, R197: `cpub` of a range that the home has answered writes back the tile's dirty lines of the range, under whichever
alias, and sets the publish bit of every line that the range touches; while another tile's stash holds stores to a line of the
range it waits, and until the home has answered it is held; a length of 0 does nothing, and one above 2^24 raises F_ARG. -/
def Obligations.PublishResults : Prop :=
  ∀ (s : State) (f : MEMF) (a base : Word) (pops : List Nat), Ready s → Enabled s f.gp f.gn →
    Reads s [f.data, f.base] [a, base] pops → WellFormed (.cpub f) = true →
    (a = 0 → exec (.cpub f) s = .next (lonePass s s (f.pack 0xC6) pops {})) ∧
    (2 ^ 24 < a.toNat → exec (.cpub f) s = .next (loneFault s (f.pack 0xC6) ⟨0x18, 0, 0, none, []⟩)) ∧
    (a ≠ 0 → a.toNat ≤ 2 ^ 24 → (me s).answered.contains .home = false →
      exec (.cpub f) s = .next (lonePark s s (f.pack 0xC6) .fault (.home []))) ∧
    (∀ (p : Part) (pas : List Nat) (t : State), a ≠ 0 → a.toNat ≤ 2 ^ 24 → (me s).answered.contains .home = true →
      partAt s (partOfCtx s s.cur) = some p →
      publishable s p (partOfCtx s s.cur) (me s).asid.toNat (lineStarts (address f base) a.toNat) = .ok pas →
      t = writeBackHomes s (tileOf s.cur) (pas.map (· / 128)) →
      ((∀ pa ∈ pas, lineDirty t (pa / 128) = false) →
        exec (.cpub f) s = .next (lonePass s (publishLines t pas) (f.pack 0xC6) pops {}) ∧
        (∀ pa ∈ pas, smGet false (publishLines t pas).pub (pa / 128) = true) ∧ (publishLines t pas).ctxs = s.ctxs) ∧
      ((∃ pa ∈ pas, lineDirty t (pa / 128) = true) → ∃ hs, hs ≠ [] ∧ (∀ h ∈ hs, lineDirty t h = true) ∧
        exec (.cpub f) s = .next (lonePark s (setWants t s.cur hs) (f.pack 0xC6) .fault (.home []))))

/-- R215, R216, R217, R220, R221, R222: the stash mapping operations. `sm.map` of a descriptor that raises nothing enters the
mapping under a free entry number, which it returns, or returns all ones when the 64 entries are in use; `sm.unmap` removes
an entry whose lines have been returned; a pin is added or removed; a flush passes when no line of its range is dirty or
being written back.
(Which free number is given is a free choice once entries have been freed, and the lowest before that: log entry 18. That an operation
of a bundle of its own has no bank to wait for is R59.) -/
def Obligations.MappingResults : Prop :=
  ∀ (s : State) (f : RRR) (tile : Nat) (T : Tile), Ready s → Enabled s f.gp f.gn → tile = tileOf s.cur → T = tileAt s tile →
    (∀ (a b : Word) (pops : List Nat) (m : Mapping), Reads s [f.a, f.b] [a, b] pops → WellFormed (.smMap f) = true →
      m = mapOf a.toNat b → mapBad T b m = false → canonFault m.base m.len = none →
      ((∀ k, k < 64 → (smFind T.maps k).isSome) →
        exec (.smMap f) s = .next (lonePass s s (f.pack 0xAF) pops (landS (me s) f.d (BitVec.allOnes 64) 2))) ∧
      ((∃ k, k < 64 ∧ smFind T.maps k = none) → ∃ k t, k < 64 ∧ smFind T.maps k = none ∧
        (∀ j, T.maps.length = j → (∀ i, i < j → (smFind T.maps i).isSome) → smFind T.maps j = none → k = j) ∧
        exec (.smMap f) s = .next (lonePass s t (f.pack 0xAF) pops
          { landS (me s) f.d (word k) 2 with late := some fun u => enterMap u tile k m }) ∧
        t = { s with freeCount := s.freeCount + 1 })) ∧
    (∀ (a : Word) (pops : List Nat) (m : Mapping), Reads s [f.a] [a] pops → WellFormed (.smUnmap f) = true →
      a.toNat < 64 → smFind T.maps a.toNat = some m → mapBusy s tile m = false →
      anyLine s tile .D (if m.mode = 2 then [] else mapLines m) = false → anyLine s tile .B (if m.mode = 2 then [] else mapLines m) = false →
      exec (.smUnmap f) s = .next (lonePass s
        (modTile (dropPins (returnLines s tile (if m.mode = 2 then [] else mapLines m)) tile m.base m.len) tile
          fun t => { t with maps := smDel t.maps a.toNat }) (f.pack 0xB0) pops {})) ∧
    (∀ (a b : Word) (pops : List Nat) (p : Part), Reads s [f.a, f.b] [a, b] pops →
      pinFault s (loneView s (f.pack 0xB1) [a, b]) = none → partAt s (partOfCtx s s.cur) = some p →
      (WellFormed (.smPin f) = true → (me s).pins.length < 8 →
        (∀ l ∈ touchedLines T a.toNat b.toNat, lineHeld s T l.1 false = true) →
        exec (.smPin f) s = .next (lonePass s (setCtx s s.cur { me s with pins := (me s).pins ++ [(a.toNat, b.toNat)] })
          (f.pack 0xB1) pops {})) ∧
      (WellFormed (.smUnpin f) = true → (a.toNat, b.toNat) ∈ (me s).pins →
        exec (.smUnpin f) s = .next (lonePass s (setCtx s s.cur { me s with pins := (me s).pins.erase (a.toNat, b.toNat) })
          (f.pack 0xB2) pops {}))) ∧
    (∀ (a b : Word) (pops : List Nat) (ls : List Nat), Reads s [f.a, f.b] [a, b] pops → WellFormed (.smFlush f) = true →
      b.toNat ≤ 2 ^ 22 → ls = (touchedLines T a.toNat b.toNat).map (·.1) → anyLine s tile .D ls = false → anyLine s tile .B ls = false →
      exec (.smFlush f) s = .next (lonePass s s (f.pack 0xCF) pops {}))

/-- R231, R232, R233, R234: the barrier operations on a 64-byte-aligned barrier of a mapping, its 16 bytes accessed. `bar.init` writes
the six fields; `bar.arr` counts an arrival or sets OVR, adds its bytes, sets DONE when all have come, releases the waiters
and returns the low dword; `bar.wait` of a complete barrier and `bar.test` return the low dword. -/
def Obligations.BarrierResults : Prop :=
  ∀ (s t : State) (f : RRR) (a : Word) (locs : List Loc), Ready s → Enabled s f.gp f.gn → a.toNat % 64 = 0 →
    unmapped s (tileOf s.cur) (me s).asid.toNat a.toNat 16 = none →
    (∀ (b c : Word) (pops : List Nat), Reads s [f.a, f.b, f.c] [a, b, c] pops → WellFormed (.barInit f) = true →
      0 < b.toNat → b.toNat < 2 ^ 16 → c.toNat < 2 ^ 40 → Placed s false .amo false a.toNat 16 t locs →
      (Bar.unpack (leNat (readLocs t locs))).bad = false →
      exec (.barInit f) s = .next (lonePass s
        (storeLocs t locs (leBytes 16 (b.toNat + 2 ^ 34 + c.toNat * 2 ^ 64))) (f.pack 0xB7) pops {})) ∧
    (∀ (b : Word) (pops : List Nat) (x : Bar), Reads s [f.a, f.b] [a, b] pops → WellFormed (.barArr f) = true →
      Room s f.d → b.toNat < 2 ^ 40 → Placed s false .amo false a.toNat 16 t locs → x = Bar.unpack (leNat (readLocs t locs)) →
      x.bad = false → x.init = true →
      let arr : Nat := if x.arr = x.exp then x.arr else x.arr + 1
      let pend : Nat := min (x.pend + b.toNat) (2 ^ 40 - 1)
      let complete : Bool := !x.done && decide (arr = x.exp ∧ pend = 0)
      let y : Bar := { x with arr := arr, pend := pend, done := x.done || complete
                              ovr := x.ovr || decide (x.arr = x.exp) || decide (2 ^ 40 - 1 < x.pend + b.toNat) }
      exec (.barArr f) s = .next (lonePass s
        (if complete then releaseBarrier (storeLocs t locs (leBytes 16 y.pack)) (tileOf s.cur) (locOff locs) (word y.low)
          else storeLocs t locs (leBytes 16 y.pack)) (f.pack 0xB8) pops (landS (me s) f.d (word y.low) 4))) ∧
    (∀ (pops : List Nat) (x : Bar), Reads s [f.a] [a] pops → Room s f.d → Placed s false .load false a.toNat 16 t locs →
      x = Bar.unpack (leNat (readLocs t locs)) → x.bad = false →
      (WellFormed (.barTest f) = true →
        exec (.barTest f) s = .next (lonePass s t (f.pack 0xCE) pops (landS (me s) f.d (word x.low) 3))) ∧
      (WellFormed (.barWait f) = true → releasedLow (me s).answered = none → x.init = true → x.done = true →
        exec (.barWait f) s = .next (lonePass s t (f.pack 0xB9) pops (landS (me s) f.d (word x.low) 1))))

/-- R224, R225, R226, R227: a copy command whose operands its checks admit enters the queue of its channel while the queue has room,
and one that they refuse raises F_ARG; one whose guard reads 0 enters the queue as a command that moves nothing.
R16: one with an endpoint that is not canonical raises F_ADDR at its bundle. (That R16 holds at the bundle, where R230 has the
checks of a copy at its delivery, is a reading: log entry 83.) -/
def Obligations.CopyCommandsQueue : Prop :=
  ∀ (s : State) (f : ENGF), Ready s →
    ∀ row ∈ ([(.cpGet f, 0xB3), (.cpPut f, 0xB4), (.cpRput f, 0xB5), (.cpGth f, 0xB6)] : List (Instr × BitVec 8)),
      WellFormed row.1 = true →
      let a := readX (me s) f.a.toNat
      let b := readX (me s) f.b.toNat
      let d := readX (me s) f.c.toNat
      let aux := readX (me s) (f.c.toNat + 1)
      let v := loneView s (f.pack row.2) []
      (Enabled s f.gp f.gn → copyArgBad row.2.toNat a d aux = true →
        exec row.1 s = .next (loneFault s (f.pack row.2) ⟨0x18, 0, 0, none, []⟩)) ∧
      (∀ x, Enabled s f.gp f.gn → copyArgBad row.2.toNat a d aux = false →
        (copyEnds row.2.toNat a b).find? (fun x => !canonical x) = some x →
        exec row.1 s = .next (loneFault s (f.pack row.2) ⟨0x10, word x, 0, none, []⟩)) ∧
      (Enabled s f.gp f.gn → copyArgBad row.2.toNat a d aux = false → (∀ x ∈ copyEnds row.2.toNat a b, canonical x = true) →
        hasRoom s s.cur (3 + f.md.toNat) = true →
        exec row.1 s = .next (lonePass s
          (enqueue s v (3 + f.md.toNat) (f.pack row.2) a b d aux false ⟨f.prod.toNat, [f.c1.toNat, f.c2.toNat, f.c3.toNat]⟩)
          (f.pack row.2) [] {})) ∧
      (Disabled s f.gp f.gn → hasRoom s s.cur (3 + f.md.toNat) = true →
        exec row.1 s = .next (lonePass s
          (enqueue s v (3 + f.md.toNat) (f.pack row.2) 0 0 0 0 true ⟨f.prod.toNat, [f.c1.toNat, f.c2.toNat, f.c3.toNat]⟩)
          (f.pack row.2) [] {}))

/-- R243, R244, R336, R337: a load of KV rows, or an append of one position, whose walk and accesses are performed completes: each
row of a load is the payload times the scale of its group, rounded to the row type and stored at its stride; an append stores
the quotients of its K row and of its V row in the payload of the block. -/
def Obligations.KvResults : Prop :=
  ∀ (s s1 : State) (f : RRR) (a kva c : Word) (pops : List Nat) (p : Part) (g : KvPage), Ready s → Enabled s f.gp f.gn →
    Reads s [f.a, f.b, f.c] [a, kva, c] pops → (me s).answered.contains .kv = true → partAt s (partOfCtx s s.cur) = some p →
    let dh : Nat := 64 * (c.toNat / 2 ^ 12 % 4 + 1)
    let n : Nat := dh * (elemBits f.ty.toNat / 8)
    let u : State := { s1 with freeCount := s1.freeCount + 2 }
    let pnum : Nat := partOfCtx s s.cur
    (∀ row ∈ ([(.kvLdk f, 0xCA, false), (.kvLdv f, 0xCB, true)] : List (Instr × BitVec 8 × Bool)),
      ∀ (npos : Nat) (rows : List Nat) (s2 s3 : State) (vals : List (List FV)) (locs : List Loc), WellFormed row.1 = true →
      npos = c.toNat % 2 ^ 10 + 1 → rows = (List.range npos).map (fun i => byteVa a.toNat (i * (c.toNat / 2 ^ 32 % 2 ^ 16 * 64))) →
      kvLdBad f.ty.toNat a.toNat c.toNat = false → rowsUnmapped s (loneView s (f.pack row.2.1) [a, kva, c]) n rows = none →
      kvWalk s p pnum kva.toNat ⟨dh, npos, false⟩ = .ok (s1, g) →
      kvBusy u (g.addr row.2.2 (kvPosOf kva.toNat)) (npos * dh) false = [] →
      kvRows u p (partOfCtx u s.cur) s.cur g row.2.2 ((List.range npos).map (kva.toNat + ·)) [] = .ok (s2, vals) →
      placeRows s .store n s2 rows = some (s3, locs) →
      exec row.1 s = .next (lonePass s (storeLocs s3 locs (vals.flatMap fun r => bytesOf f.ty.toNat (r.map fun x =>
        match fmtOf f.ty.toNat with | some fm => rne fm x | none => 0) [])) (f.pack row.2.1) pops {})) ∧
    (∀ (s3 : State) (locs : List Loc), WellFormed (.kvApp f) = true → c.toNat = c.toNat / 2 ^ 12 % 4 * 2 ^ 12 → a.toNat % 64 = 0 →
      rowsUnmapped s (loneView s (f.pack 0xCC) [a, kva, c]) (2 * n) [a.toNat] = none →
      kvWalk s p pnum kva.toNat ⟨dh, 1, true⟩ = .ok (s1, g) →
      let ka : Nat := g.addr false (kvPosOf kva.toNat)
      let va : Nat := g.addr true (kvPosOf kva.toNat)
      payloadFault u p (partOfCtx u s.cur) ka dh = none → payloadFault u p (partOfCtx u s.cur) va dh = none →
      kvBusy u ka dh true = [] → kvBusy u va dh true = [] → placeRows s .load (2 * n) u [a.toNat] = some (s3, locs) →
      let vals : List FV := (elemsOf f.ty.toNat (readLocs s3 locs)).map (elemVal f.ty.toNat)
      let enc (sc : List Nat) (xs : List FV) : List Byte := xs.zipIdx.map fun e => kvEncode (sc.getD (e.2 / 64) 0) e.1
      exec (.kvApp f) s = .next (lonePass s
        (storeLocs (storeLocs s3 ((List.range dh).map fun i => .mem (ka + i)) (enc g.ks (vals.take dh)))
          ((List.range dh).map fun i => .mem (va + i)) (enc g.vs (vals.drop dh))) (f.pack 0xCC) pops {}))

/-- R142, R143, R145, R157, R270: an engine command whose accumulators are assigned to the context, and whose operands its issue
checks admit, enters its queue while the queue has room, with the operands read at issue and its tokens; with the queue full
its bundle is held, parked on token; an accumulator of another context raises F_ACC; a command whose guard reads 0 enters
the queue as one that does nothing.
R143, R145, R185: what entering a queue does. The command stands last in its queue with its number, its operands and the
commands that its consumed tokens still await; the produced token of the context binds to it; no register, no memory and no
other context changes.
(F_SEALED before F_ARG is a reading: log entry 73.) -/
def Obligations.EngineCommandsQueue : Prop :=
  (∀ (s : State) (f : ENGF), Ready s →
      let a := readX (me s) f.a.toNat
      let b := readX (me s) f.b.toNat
      let c := readX (me s) f.c.toNat
      let place := !grpPlaceBad b
      let toks : Toks := ⟨f.prod.toNat, [f.c1.toNat, f.c2.toNat, f.c3.toNat]⟩
      ∀ row ∈ ([(.mmF8e4 f, 0x80, 0, [f.c], false, true, 0, 0, 0), (.mmF8e5 f, 0x81, 0, [f.c], false, true, 0, 0, 0),
          (.mmF6e3 f, 0x82, 0, [f.c], false, true, 0, 0, 0), (.mmF6e2 f, 0x83, 0, [f.c], false, true, 0, 0, 0),
          (.mmF4 f, 0x84, 0, [f.c], false, true, 0, 0, 0), (.mmBf16 f, 0x85, 0, [f.c], false, true, 0, 0, 0),
          (.mmF16 f, 0x86, 0, [f.c], false, true, 0, 0, 0), (.mmS8 f, 0x87, 0, [f.c], false, true, 0, 0, 0),
          (.mmS4 f, 0x88, 0, [f.c], false, true, 0, 0, 0), (.mmMx f, 0x89, 0, [f.c], false, true, 0, 0, 0),
          (.mmGrp f, 0x8A, 0, if f.md.getLsbD 0 then [f.a, f.c] else [f.c], true, place, 0, b, 0),
          (.mmPriv f, 0x8B, 0, [f.c], true, place, 0, b, 0), (.elLd f, 0x8C, 0, [], false, true, 0, 0, 0),
          (.rgAdv f, 0x8E, 2, [], false, true, 0, 0, 0), (.accZero f, 0x8F, 0, [f.c], false, true, 0, 0, 0),
          (.accSt f, 0x90, 0, [f.c], false, !accDescBad true a b, a, b, 0),
          (.accLd f, 0x91, 0, [f.c], false, !accDescBad false a b, a, b, 0),
          (.accMv f, 0x92, 0, [f.a, f.c], false, true, 0, 0, 0),
          (.cvRun f, 0x93, 1, [], false, (me s).conv.any fun d => !convBad d f.c, a, b, c),
          (.grpIdx f, 0x9F, 0, [], true, decide (a.toNat % 64 = 0 ∧ b.toNat < 2 ^ 10), a, b, 0)] :
          List (Instr × BitVec 8 × Nat × List (BitVec 9) × Bool × Bool × Word × Word × Word)),
        WellFormed row.1 = true →
        let w := f.pack row.2.1
        let q := row.2.2.1
        let owned := row.2.2.2.1.all (ownsAcc s s.cur)
        let sealed := row.2.2.2.2.1 && isSealed s s.cur
        let ok := row.2.2.2.2.2.1
        let v := loneView s w []
        (Enabled s f.gp f.gn → sealed = false → owned = true → ok = true → hasRoom s s.cur q = true →
          exec row.1 s = .next (lonePass s (enqueue s v q w row.2.2.2.2.2.2.1 row.2.2.2.2.2.2.2.1 row.2.2.2.2.2.2.2.2 0 false toks) w [] {})) ∧
        (Enabled s f.gp f.gn → sealed = false → owned = true → ok = true → hasRoom s s.cur q = false →
          exec row.1 s = .next (lonePark s s w .token (.engine q))) ∧
        (Enabled s f.gp f.gn → sealed = false → owned = false → exec row.1 s = .next (loneFault s w ⟨0x19, 0, 0, none, []⟩)) ∧
        (Disabled s f.gp f.gn → hasRoom s s.cur q = true →
          exec row.1 s = .next (lonePass s (enqueue s v q w 0 0 0 0 true toks) w [] {}))) ∧
  (∀ (s : State) (v : View) (q : Nat) (w a b c aux : Word) (null : Bool) (t : Toks), q < 11 →
      let u := enqueue s v q w a b c aux null t
      (∃ cmd : Cmd, (queueAt u (spindleOf v.n) q).cmds = (queueAt s (spindleOf v.n) q).cmds ++ [cmd] ∧ cmd.id = s.cmdNext ∧
        cmd.ctx = v.n ∧ cmd.word = w ∧ cmd.a = a ∧ cmd.b = b ∧ cmd.c = c ∧ cmd.aux = aux ∧ cmd.nullified = null ∧
        cmd.waits = boundCmds (ctxOf s v.n) t.cons ∧ cmd.asid = v.c.asid.toNat) ∧
      (0 < t.prod → smFind (ctxOf u v.n).tok t.prod = some ⟨s.cmdNext, q, v.b.addr, false⟩) ∧
      (∀ k, k ≠ t.prod ∨ t.prod = 0 → smFind (ctxOf u v.n).tok k = smFind (ctxOf s v.n).tok k) ∧
      ctxOf u v.n = { ctxOf s v.n with tok := (ctxOf u v.n).tok } ∧ otherContexts v.n s u ∧ sameMemory s u)

/-- R92, R93, R152: the product of two operand tiles. Element (i, j) of the accumulator becomes the grouped sum of row i of A and row
j of B, from its old value or from 0 under Z; no element of another accumulator changes, nor does any byte of memory. -/
def Obligations.MatrixProduct : Prop :=
  ∀ (s : State) (e : Eng) (op acc : Nat) (z : Bool) (a b : Latch), a.roleB = false → b.roleB = true →
    let t := mmAll s e op acc z false a b
    let old (i j : Nat) : Nat := if z then 0 else (smGet 0 (tileAt s e.tile).acc (8192 * acc + 64 * i + j)).toNat
    (∀ i j, i < 128 → j < 64 → smGet 0 (tileAt t e.tile).acc (8192 * acc + 64 * i + j) = BitVec.ofNat 32
      (if op = 0x87 ∨ op = 0x88 then dotInt (old i j) ((latchInts a).getD i []) ((latchInts b).getD j [])
        else dotGroups (if elemBits a.ty = 16 ∨ elemBits b.ty = 16 then 16 else 32) (old i j)
          ((latchVals a).getD i []) ((latchVals b).getD j []))) ∧
    (∀ k, k < 8192 * acc ∨ 8192 * acc + 8192 ≤ k → smGet 0 (tileAt t e.tile).acc k = smGet 0 (tileAt s e.tile).acc k) ∧
    (∀ n, n ≠ e.tile → tileAt t n = tileAt s n) ∧ t.ctxs = s.ctxs ∧ sameMemory s t

/-- R149, R158: `rg.cfg` of a range that one mapping holds, with no command on the ring queued, gives the ring its base, slots, type,
role and K, empty; `cv.cfg` sets the conversion descriptor from its type and operands. -/
def Obligations.ConfigurationResults : Prop :=
  ∀ (s : State) (f : RRR), Ready s → Enabled s f.gp f.gn →
    (∀ (base sh k : Nat) (m : Mapping) (j tile : Nat), WellFormed (.rgCfg f) = true → base = (readX (me s) f.a.toNat).toNat →
      sh = (readX (me s) f.b.toNat).toNat → tile = tileOf s.cur → sh < 2 ^ 14 → sh / 2 ^ 5 % 8 = 0 → base % 128 = 0 →
      k = 32 * (sh / 2 ^ 8 + 1) → mapsServe s tile (me s).asid.toNat = true → mapAt (tileAt s tile) base = some (j, m) →
      base + (sh % 2 ^ 5 + 1) * slotSize f.ty.toNat (f.md.getLsbD 0) k ≤ m.base + m.len →
      ((tileAt s tile).tensor.cmds ++ (tileAt s tile).ringq.cmds).any (namesRing (f.d.toNat - 128)) = false →
      exec (.rgCfg f) s = .next (lonePass s (modTile s tile fun t =>
        { t with rings := smIns t.rings (f.d.toNat - 128) ⟨base, sh % 2 ^ 5 + 1, f.ty.toNat, f.md.getLsbD 0, k, 0, 0, 0⟩ })
        (f.pack 0x8D) [] {})) ∧
    (∀ (a b : Word) (pops : List Nat), Reads s [f.a, f.b] [a, b] pops → WellFormed (.cvCfg f) = true →
      exec (.cvCfg f) s = .next (lonePass s (setCtx s s.cur { me s with conv := some ⟨f.ty.toNat, a, b⟩ }) (f.pack 0x94) pops {}))

/-- R161: the stage operations complete: a load fills its operand buffer from 16 rows of 64 bytes, a store rounds the 16 rows of its
stage accumulator to the type, the products add the grouped sums of the buffers' rows, `sa.zero` writes +0, `sa.mv` moves
lanes and words. -/
def Obligations.StageResults : Prop :=
  ∀ (s : State) (f : RRR), Ready s → Enabled s f.gp f.gn →
    (∀ (a b : Word) (pops : List Nat) (t : State) (locs : List Loc) (rows : List Nat), Reads s [f.a, f.b] [a, b] pops →
      a.toNat % 64 = 0 → b.toNat % 64 = 0 → rows = (List.range 16).map (fun r => (a.toNat + r * b.toNat) % 2 ^ 64) →
      (WellFormed (.saLd f) = true → rowsUnmapped s (loneView s (f.pack 0x95) [a, b]) 64 rows = none →
        placeRows s .load 64 s rows = some (t, locs) →
        exec (.saLd f) s = .next (lonePass s t (f.pack 0x95) pops
          { writes := .bufTy (f.md.getLsbD 0) f.ty.toNat :: (((chunks 4 256 (readLocs t locs)).map fun x =>
              BitVec.ofNat 32 (leNat x)).zipIdx.map fun e => .buf (f.md.getLsbD 0) e.2 e.1)
            bound := 4, ew := elemBits f.ty.toNat })) ∧
      (WellFormed (.saSt f) = true → (me s).hasClaim = true →
        rowsUnmapped s (loneView s (f.pack 0x98) [a, b]) (elemBytes f.ty.toNat 64) rows = none →
        placeRows s .store (elemBytes f.ty.toNat 64) s rows = some (t, locs) →
        exec (.saSt f) s = .next (lonePass s (storeLocs t locs ((List.range 16).flatMap fun r =>
          bytesOf f.ty.toNat ((List.range 64).map fun j => match fmtOf f.ty.toNat with
            | some fm => rne fm (decodeF f32 (getSa (me s) (f.c.toNat - 148) (r * 64 + j)).toNat)
            | none => 0) [])) (f.pack 0x98) pops {}))) ∧
    ((me s).hasClaim = true →
      (∀ row ∈ ([(.saMmBf16 f, 0x96, 16, [0x12]), (.saMmF8 f, 0x97, 32, [0x13, 0x14])] :
          List (Instr × BitVec 8 × Nat × List Nat)), WellFormed row.1 = true →
        (me s).saA.ty ∈ row.2.2.2 → (me s).saB.ty ∈ row.2.2.2 →
        let k : Nat := f.d.toNat - 148
        let q : Nat := f.md.toNat / 2 % 4
        exec row.1 s = .next (lonePass s s (f.pack row.2.1) []
          { writes := (bufVals (me s).saA).zipIdx.flatMap fun r => (bufVals (me s).saB).zipIdx.map fun n =>
              .sa k (r.2 * 64 + 16 * q + n.2) (BitVec.ofNat 32
                (dotGroups row.2.2.1 (if f.md.getLsbD 0 then 0 else (getSa (me s) k (r.2 * 64 + 16 * q + n.2)).toNat) r.1 n.1))
            bound := 8 })) ∧
      (WellFormed (.saZero f) = true →
        exec (.saZero f) s = .next (lonePass s s (f.pack 0x99) []
          { writes := if f.md.getLsbD 0 then (List.range 4).flatMap saZeros else saZeros (f.d.toNat - 148), bound := 2 })) ∧
      (WellFormed (.saMv f) = true →
        let at_ (l : Nat) : Nat := f.md.toNat / 2 % 64 * (me s).lanes + l
        exec (.saMv f) s = .next (lonePass s s (f.pack 0x9A) []
          (if f.md.getLsbD 0 then
            { writes := ((List.range (me s).lanes).filter fun l => at_ l < 1024).map fun l =>
                .sa (f.d.toNat - 148) (at_ l) (BitVec.ofNat 32 ((readV (me s) f.a).elem 32 l))
              bound := 3 }
          else landV (me s) f.d ((List.range (me s).lanes).map fun l =>
            if at_ l < 1024 then getSa (me s) (f.a.toNat - 148) (at_ l) else 0) 3))))

/-- R162, R163, R164, R165, R166: attention. `attn.init` of a well-formed descriptor latches it, with the state that its options start.
Each of the three instructions runs in steps from the position to the end offset that it read at issue: it first notes its
position and its end; a step that is done moves the position on; at the end it completes with ACT 0. A step that waits for lines or
for the walker keeps the bundle held; one that faults stops the instruction with ACT 1 at the step's position.
(Whole steps, the descriptor's alignment and what an empty range leaves are the model's: log entries 57, 78 and 85.) -/
def Obligations.AttentionResults : Prop :=
  ∀ (s : State) (f : RRR), Ready s → Enabled s f.gp f.gn →
    (∀ (a : Word) (pops : List Nat) (t : State) (locs : List Loc) (d : List Word), Reads s [f.a] [a] pops →
      WellFormed (.attnInit f) = true → (f.md.toNat % 4 = 0 ∨ (me s).hasClaim = true) →
      rowsUnmapped s (loneView s (f.pack 0x9B) [a]) 64 [a.toNat] = none → placeRows s .load 64 s [a.toNat] = some (t, locs) →
      d = (chunks 8 8 (readLocs t locs)).map (fun b => word (leNat b)) → attnBad d = false →
      (∀ e ∈ (attnOf d).extents, unmapped t (tileOf s.cur) (me s).asid.toNat e.1 e.2 = none) →
      exec (.attnInit f) s = .next (lonePass s t (f.pack 0x9B) pops
        { writes := .attn d :: attnStart (attnOf d) (f.md.getLsbD 0) (f.md.getLsbD 1), bound := 4 })) ∧
    (∀ row ∈ ([(.attnQk f, 0x9C, 0x9C, true, qkStep), (.attnSmx f, 0x9D, 0x9D, false, smxStep), (.attnPv f, 0x9E, 0x9E, true, pvStep)] :
        List (Instr × BitVec 8 × Nat × Bool × (State → Eng → AttnDesc → Nat → Nat → StepRes))),
      ∀ (a b : Word) (pops : List Nat) (d : List Word) (u stop : Nat), Reads s [f.a, f.b] [a, b] pops → WellFormed row.1 = true →
      (row.2.1 = 0x9C ∨ (me s).hasClaim = true) → (me s).attn = some d →
      u = (if (me s).attnRun || ((me s).kvAct && (me s).kvOp == row.2.2.1) then (me s).kvPosn else a.toNat) →
      stop = (if (me s).attnRun then (me s).attnEnd else b.toNat) → u ≤ stop → stop ≤ (attnOf d).npos →
      let w : Word := f.pack row.2.1
      let hold (t : State) : State := modCtx t s.cur fun c => { c with held := some (Bundle.single (me s).pc w) }
      (u = stop → exec row.1 s = .next (lonePass s
        (setCtx s s.cur { me s with kvprog := kvprogOf false 0 (me s).kvPosn }) w pops {})) ∧
      (u < stop → (me s).attnRun = false → ∃ t, exec row.1 s = .next t ∧
        me t = { me s with attnRun := true, attnEnd := stop, kvprog := kvprogOf (me s).kvAct (me s).kvOp u
                           held := some (Bundle.single (me s).pc w) } ∧
        otherContexts s.cur s t ∧ sameMemory s t) ∧
      (u < stop → (me s).attnRun = true → row.2.2.2.1 = true → (me s).answered.contains .kv = false →
        exec row.1 s = .next (hold s)) ∧
      (u < stop → (me s).attnRun = true → (row.2.2.2.1 = true → (me s).answered.contains .kv = true) →
        let e : Eng := ⟨tileOf s.cur, partOfCtx s s.cur, s.cur, (me s).asid.toNat, true⟩
        let step : StepRes := row.2.2.2.2 { s with freeCount := s.freeCount + 2 } e (attnOf d) u (stepEnd (attnOf d) u stop)
        (∀ t, step = .done t → exec row.1 s = .next (hold (modCtx (setWants t s.cur []) s.cur fun c =>
            { c with answered := c.answered.filter (· != .kv)
                     kvprog := kvprogOf c.kvAct c.kvOp (stepEnd (attnOf d) u stop) }))) ∧
        (∀ t hs, step = .wait t hs → exec row.1 s = .next (hold (setWants t s.cur hs))) ∧
        (∀ x, step = .fault x → exec row.1 s = .next (loneFault
          (modCtx s s.cur fun c => { c with kvprog := kvprogOf true row.2.2.1 u, attnRun := false }) w x))))

/-- R278, R279, R280, R281, R282: the operations over contexts. `hstart` of a free helper by context 0 starts it: its registers as a
start leaves them, its pc at the entry, x1 the argument, live, or parked idle for entry 0; of a helper that is not free it
answers BUSY; of a context that is no control context both raise F_PRIV before any operand is read. `hreap` frees a reaped
helper. `hstat` gives a context's state and reason. `sleep` passes when a message is
there or the time has come, and parks on mailbox otherwise. `hend` ends the context, a control context once its helpers are
free or reaped.
(Idle helpers, the ignored operand bits and what a start keeps are readings: log entries 20, 58 and 71.) -/
def Obligations.ContextResults : Prop :=
  ∀ (s : State) (f : RRR), Ready s → Enabled s f.gp f.gn →
    (s.cur % 16 ≠ 0 →
      (WellFormed (.hstart f) = true → exec (.hstart f) s = .next (loneFault s (f.pack 0xD0) ⟨0x0A, 0, 0, none, []⟩)) ∧
      (WellFormed (.hreap f) = true → exec (.hreap f) s = .next (loneFault s (f.pack 0xD1) ⟨0x0A, 0, 0, none, []⟩))) ∧
    (∀ (a b c : Word) (pops : List Nat) (h : Nat), Reads s [f.a, f.b, f.c] [a, b, c] pops → Room s f.d → WellFormed (.hstart f) = true →
      h = 16 * (s.cur / 16) + a.toNat % 16 →
      (s.cur % 16 = 0 → a.toNat % 16 = 0 → exec (.hstart f) s = .next (loneFault s (f.pack 0xD0) ⟨0x18, 0, 0, none, []⟩)) ∧
      (s.cur % 16 = 0 → a.toNat % 16 ≠ 0 → (ctxOf s h).phase ≠ .free →
        exec (.hstart f) s = .next (lonePass s s (f.pack 0xD0) pops (landS (me s) f.d 2 1))) ∧
      (s.cur % 16 = 0 → a.toNat % 16 ≠ 0 → (ctxOf s h).phase = .free → ∀ l, launchOf s h = some l → ∃ x,
        exec (.hstart f) s = .next (lonePass s (setCtx s h x) (f.pack 0xD0) pops (landS (me s) f.d 0 1)) ∧
        x.pc = b &&& ~~~1 ∧ (∀ n, getX x n = if n = 1 then c else 0) ∧ x.asid = BitVec.ofNat 16 l.lasid ∧ x.p = 0 ∧
        x.claim = none ∧ x.taskn = BitVec.allOnes 64 ∧ x.rmode = 0 ∧ x.fflags = 0 ∧ x.ch = [] ∧ x.mb = [] ∧
        (b ≠ 0 → x.phase = .live) ∧ (b = 0 → x.phase = .parked ∧ x.why = .join ∧ x.idle = .idle))) ∧
    (∀ (a : Word) (pops : List Nat) (h : Nat), Reads s [f.a] [a] pops → Room s f.d → WellFormed (.hreap f) = true →
      s.cur % 16 = 0 → a.toNat % 16 ≠ 0 → h = 16 * (s.cur / 16) + a.toNat % 16 →
      ((ctxOf s h).phase = .reaped → ∃ t, exec (.hreap f) s = .next (lonePass s t (f.pack 0xD1) pops (landS (me s) f.d 0 1)) ∧
        (ctxOf t h).phase = .free ∧ (ctxOf t h).x = [] ∧ (ctxOf t h).claim = none ∧ (ctxOf t h).pins = []) ∧
      ((ctxOf s h).phase = .free →
        exec (.hreap f) s = .next (lonePass s s (f.pack 0xD1) pops (landS (me s) f.d 6 1))) ∧
      ((ctxOf s h).phase ∉ ([.free, .reaped] : List Phase) → f.md.getLsbD 0 = false →
        exec (.hreap f) s = .next (lonePass s s (f.pack 0xD1) pops (landS (me s) f.d 2 1))) ∧
      ((ctxOf s h).phase ∉ ([.free, .reaped] : List Phase) → f.md.getLsbD 0 = true →
        exec (.hreap f) s = .next (lonePark s s (f.pack 0xD1) .join .helpers))) ∧
    (∀ (a : Word) (pops : List Nat), Reads s [f.a] [a] pops → Room s f.d → WellFormed (.hstat f) = true →
      (16 ≤ a.toNat → exec (.hstat f) s = .next (loneFault s (f.pack 0xD2) ⟨0x18, 0, 0, none, []⟩)) ∧
      (a.toNat < 16 → ∀ x, x = ctxOf s (16 * (s.cur / 16) + a.toNat) →
        exec (.hstat f) s = .next (lonePass s s (f.pack 0xD2) pops (landS (me s) f.d
          (word (([.free, .live, .parked, .inService, .saved, .reaped] : List Phase).idxOf x.phase + 16 *
            (if x.phase = .parked ∨ x.phase = .saved then
              ([.none, .channel, .mailbox, .token, .future, .join, .fault, .budget] : List Why).idxOf x.why else 0))) 1)))) ∧
    (∀ (a : Word) (pops : List Nat) (mask : Nat), Reads s [f.a] [a] pops → WellFormed (.sleep f) = true → mask = f.md.toNat / 16 % 16 →
      let mail : Prop := ∃ k, k < 4 ∧ mask.testBit k = true ∧ ((getMb (me s) k).msgs ≠ [] ∨ (getMb (me s) k).refs ≠ [])
      (a = 0 → mask = 0 → exec (.sleep f) s = .next (loneFault s (f.pack 0xEE) ⟨0x08, 0, 0, none, []⟩)) ∧
      (a ≠ 0 ∨ mask ≠ 0 → mail ∨ (a ≠ 0 ∧ a.toNat ≤ s.time) → exec (.sleep f) s = .next (lonePass s s (f.pack 0xEE) pops {})) ∧
      (a ≠ 0 ∨ mask ≠ 0 → ¬mail → a = 0 ∨ s.time < a.toNat →
        exec (.sleep f) s = .next (lonePark s s (f.pack 0xEE) .mailbox (.mailbox mask (if a = 0 then none else some a.toNat))))) ∧
    (WellFormed (.hend f) = true →
      (s.cur % 16 ≠ 0 → exec (.hend f) s = .next (endCtx (lonePass s s (f.pack 0xEE) [] {}) s.cur)) ∧
      (s.cur % 16 = 0 → helpersDone s (s.cur / 16) = true →
        exec (.hend f) s = .next (endCtx (freeHelpers (lonePass s s (f.pack 0xEE) [] {}) (s.cur / 16)) s.cur)) ∧
      (s.cur % 16 = 0 → helpersDone s (s.cur / 16) = false →
        exec (.hend f) s = .next (lonePark s s (f.pack 0xEE) .join .helpers)) ∧
      (∀ t n, (ctxOf (endCtx t n) n).phase = .reaped ∧ (ctxOf (endCtx t n) n).held = none ∧
        (ctxOf (endCtx t n) n).pend = [] ∧ (ctxOf (endCtx t n) n).reqs = []))

/-- R257, R258, R283, R284, R285, R286: the claim operations. `vclaim` is refused when sixteen claims of the tile are live or the
floors exceed 128; a context without a claim that finds its floor free takes as many free lanes as its ceiling admits, in
groups of 8; with too few it waits, parked on token; a sealed context may only ask for floor and ceiling alike. `vgrow`
takes free lanes up to the ceiling; `vrel` ends the claim; `vstat` tells VL, free lanes and live claims.
(What a holder gives up with several waiters, and that a holder's own claim counts among the sixteen, are readings: log entries
43 and 84.) -/
def Obligations.ClaimResults : Prop :=
  ∀ (s : State), Ready s →
    let live := tileClaims s (tileOf s.cur)
    let others := live.filter fun e => e.1 != s.cur
    let free : Nat := 128 - ((tileClaims s (tileOf s.cur)).map fun e => if e.2.phase = .saved then 0 else e.2.lanes).sum
    (∀ (f : RRI) (lo hi : Nat), Enabled s f.gp f.gn → WellFormed (.vclaim f) = true → lo = f.imm.toNat % 2 ^ 7 →
      hi = f.imm.toNat / 2 ^ 8 % 2 ^ 7 → f.d.toNat < 64 → (me s).answered = [] →
      (isSealed s s.cur = true → lo ≠ hi → exec (.vclaim f) s = .next (loneFault s (f.pack 0xD3) ⟨0x1A, 0, 0, none, []⟩)) ∧
      (isSealed s s.cur = false ∨ lo = hi → 16 ≤ live.length ∨ 128 < (others.map fun e => e.2.floor).sum + lo →
        exec (.vclaim f) s = .next (lonePass s s (f.pack 0xD3) [] (landS (me s) f.d 1 1))) ∧
      (isSealed s s.cur = false ∨ lo = hi → live.length < 16 → (others.map fun e => e.2.floor).sum + lo ≤ 128 →
        (me s).claim = none →
        (lo ≤ free → (∀ e ∈ tileClaims s (tileOf s.cur), e.2.phase ≠ .waiting) → ∃ t, exec (.vclaim f) s = .next t ∧
          (me t).claim = some ⟨.held, lo, hi, Nat.min hi (free / 8 * 8), false, 0, 0⟩ ∧ (me t).phase = (me s).phase ∧
          (me t).pc = (me s).pc + 12 ∧ getX (me t) (physX (me s) f.d.toNat) = 0 ∧ otherContexts s.cur s t) ∧
        (free < lo → ∃ t, exec (.vclaim f) s = .next t ∧ (me t).phase = .parked ∧ (me t).why = .token ∧ (me t).wait = .claim ∧
          ∃ k, (me t).claim = some k ∧ k.phase = .waiting ∧ k.floor = lo ∧ k.ceil = hi ∧ k.lanes = 0))) ∧
    (∀ f : RRI, Enabled s f.gp f.gn → (me s).hasClaim = true → f.d.toNat < 64 → WellFormed (.vgrow f) = true →
      ∀ k, (me s).claim = some k → k.phase = .held → k.reclaim = false → isSealed s s.cur = false →
      (∀ e ∈ tileClaims s (tileOf s.cur), e.2.phase ≠ .waiting) →
      let n : Nat := Nat.max k.lanes (Nat.min k.ceil ((k.lanes + free) / 8 * 8))
      ∃ t, exec (.vgrow f) s = .next t ∧ (me t).claim = some { k with lanes := n, kept := 0 } ∧
        getX (me t) (physX (me s) f.d.toNat) = (if physX (me s) f.d.toNat = 0 then 0 else word n) ∧ otherContexts s.cur s t) ∧
    (∀ f : RRR, Enabled s f.gp f.gn →
      (WellFormed (.vrel f) = true → ∃ t, exec (.vrel f) s = .next t ∧ (me t).claim = none ∧ (me t).pc = (me s).pc + 12 ∧
        (∀ n, getX (me t) n = getX (me s) n) ∧ ((me s).claim ≠ none → ∀ r l, getV (me t) r l = 0)) ∧
      (Room s f.d → WellFormed (.vstat f) = true →
        exec (.vstat f) s = .next (lonePass s s (f.pack 0xEF) []
          (landS (me s) f.d (word ((vlRead (me s)).toNat + free * 2 ^ 32 + (tileClaims s (tileOf s.cur)).length * 2 ^ 40)) 1))))

/-- R264, R270, R287, R288, R289, R291, R292: tasks. `fork` and `fork.r` add 1 to the counter and push a task on top of the spindle's deque,
whose bottom entry goes to the memory deque when the hardware deque holds 32; with both deques full, or with no room for the ranges
of `fork.r` among the tile's 256, they answer FULL and change nothing; in a sealed launch they raise F_SEALED. `join` of a counter at zero passes, with a task found runs it, and else parks on join; `jtest` reads the
counter; `tend` takes 1 off it, restores the task name and goes on, or makes the context idle. A pushed task stands first
in the deque, with the tile's next fork number, its ranges behind those of the tile.
(The places of a memory deque, the first fork number and an idle helper's parking are the model's: log entries 20, 21 and 22;
so is the placement of the counter's read: log entry 103.) -/
def Obligations.TaskResults : Prop :=
  ∀ (s : State) (f : RRR) (a b c : Word) (pops : List Nat), Ready s → Enabled s f.gp f.gn →
    (Reads s [f.a, f.b, f.c] [a, b, c] pops → Room s f.d → isSealed s s.cur = true →
      (WellFormed (.fork f) = true → exec (.fork f) s = .next (loneFault s (f.pack 0xD6) ⟨0x1A, 0, 0, none, []⟩)) ∧
      (WellFormed (.forkR f) = true → exec (.forkR f) s = .next (loneFault s (f.pack 0xD7) ⟨0x1A, 0, 0, none, []⟩))) ∧
    (Reads s [f.a, f.b, f.c] [a, b, c] pops → Room s f.d → isSealed s s.cur = false → a ≠ 0 →
      let sp : Nat := spindleOf s.cur
      let room (u v : State) (l : Launch) : Prop := ((spinAt u sp).deque.length < 32 ∧ v = u) ∨
        ∃ last x locs, (spinAt u sp).deque.length = 32 ∧ (spinAt u sp).deque.getLast? = some last ∧
          access u (homeReq s .store true false) (dequeAddr l (spinAt u sp) sp (spinAt u sp).memCount) 32 = .ok x locs ∧
          v = modSpin (storeLocs x locs (taskBytes last)) sp fun p => { p with deque := p.deque.dropLast, memCount := p.memCount + 1 }
      (WellFormed (.fork f) = true → c.toNat % 8 = 0 → ∀ l, launchOf s s.cur = some l →
        (dequesFull l (spinAt s sp) = true ∨ 256 < (tileAt s (tileOf s.cur)).ranges.length →
          exec (.fork f) s = .next (lonePass s s (f.pack 0xD6) pops (landS (me s) f.d 1 1))) ∧
        (dequesFull l (spinAt s sp) = false → (tileAt s (tileOf s.cur)).ranges.length ≤ 256 →
          ∀ t locs v, Placed s false .amo true c.toNat 8 t locs →
          room (storeLocs t locs (leBytes 8 ((leNat (readLocs t locs) + 1) % 2 ^ 64))) v l →
          exec (.fork f) s = .next (lonePass s (pushTask v s.cur a b c []) (f.pack 0xD6) pops (landS (me s) f.d 0 1)))) ∧
      (WellFormed (.forkR f) = true → c.toNat % 16 = 0 →
        ∀ t0 h nr t1 bs rs cnt l, unmapped s (tileOf s.cur) (me s).asid.toNat c.toNat 16 = none →
        Placed s false .load false c.toNat 16 t0 h → nr = leNat ((readLocs t0 h).drop 8) → 1 ≤ nr → nr ≤ 4 →
        cnt = word (leNat ((readLocs t0 h).take 8)) → cnt.toNat % 8 = 0 →
        unmapped t0 (tileOf s.cur) (me s).asid.toNat (c.toNat + 16) (16 * nr) = none →
        access t0 (homeReq s .load false false) (c.toNat + 16) (16 * nr) = .ok t1 bs →
        allSome ((chunks 16 nr (readLocs t1 bs)).map rangeOf) = some rs → launchOf t1 s.cur = some l →
        (dequesFull l (spinAt t1 sp) = true ∨ 256 < (tileAt t1 (tileOf s.cur)).ranges.length + rs.length →
          exec (.forkR f) s = .next (lonePass s t1 (f.pack 0xD7) pops (landS (me s) f.d 1 1))) ∧
        (dequesFull l (spinAt t1 sp) = false → (tileAt t1 (tileOf s.cur)).ranges.length + rs.length ≤ 256 →
          ∀ t locs v, access t1 (homeReq s .amo true false) cnt.toNat 8 = .ok t locs →
          room (storeLocs t locs (leBytes 8 ((leNat (readLocs t locs) + 1) % 2 ^ 64))) v l →
          exec (.forkR f) s = .next (lonePass s (pushTask v s.cur a b cnt rs) (f.pack 0xD7) pops (landS (me s) f.d 0 1))))) ∧
    (∀ (u : State) (n : Nat) (e g k : Word) (rs : List Range),
      (spinAt (pushTask u n e g k rs) (spindleOf n)).deque =
        ⟨e, g, k, word ((tileAt u (tileOf n)).fnum + tileOf n * 2 ^ 32 + if rs = [] then 0 else 2 ^ 40)⟩ :: (spinAt u (spindleOf n)).deque ∧
      (tileAt (pushTask u n e g k rs) (tileOf n)).fnum = ((tileAt u (tileOf n)).fnum + 1) % 2 ^ 32 ∧
      (tileAt (pushTask u n e g k rs) (tileOf n)).ranges = (tileAt u (tileOf n)).ranges ++
        rs.map fun r => { r with fnum := (tileAt u (tileOf n)).fnum }) ∧
    (∀ t locs, Reads s [f.a] [a] pops → a.toNat % 8 = 0 → Placed s false .load true a.toNat 8 t locs →
      (WellFormed (.jtest f) = true → Room s f.d →
        exec (.jtest f) s = .next (lonePass s t (f.pack 0xD9) pops (landS (me s) f.d (word (leNat (readLocs t locs))) 1))) ∧
      (WellFormed (.join f) = true →
        (leNat (readLocs t locs) = 0 → exec (.join f) s = .next (lonePass s t (f.pack 0xD8) pops {})) ∧
        (leNat (readLocs t locs) ≠ 0 →
          (findTask t s.cur ((me s).answered.contains .home) = .none →
            exec (.join f) s = .next (lonePark s s (f.pack 0xD8) .join (.counter a))) ∧
          (∀ hs, findTask t s.cur ((me s).answered.contains .home) = .hold hs →
            exec (.join f) s = .next (lonePark s (setWants s s.cur hs) (f.pack 0xD8) .join (.home []))) ∧
          (∀ sp pl k, findTask t s.cur ((me s).answered.contains .home) = .found sp pl k →
            exec (.join f) s = .next (lonePass s
              (modCtx (removeTask t s.cur sp pl) s.cur fun c => { c with taskn := k.tag }) (f.pack 0xD8) pops
              { writes := [.x 1 k.arg, .x 2 k.cnt, .x 3 (ctxOf t s.cur).taskn, .x 4 (me s).pc], jump := some k.entry }))))) ∧
    (∀ t locs u, Reads s [f.a, f.b, f.c] [a, b, c] pops → a.toNat % 8 = 0 → WellFormed (.tend f) = true →
      (me s).taskn ≠ BitVec.allOnes 64 → Placed s false .amo true a.toNat 8 t locs →
      u = modCtx (freeRanges (storeLocs t locs (leBytes 8 ((leNat (readLocs t locs) + (2 ^ 64 - 1)) % 2 ^ 64))) (tileOf s.cur)
        (me s).taskn) s.cur (fun c => { c with taskn := b }) →
      (c ≠ 0 → exec (.tend f) s = .next (lonePass s (wakeJoiners u) (f.pack 0xEE) pops { jump := some c })) ∧
      (c = 0 → exec (.tend f) s = .next
        (applyReclaim (modCtx (lonePass s (wakeJoiners u) (f.pack 0xEE) pops {}) s.cur goIdle) s.cur))) ∧
    (WellFormed (.tend f) = true → Reads s [f.a, f.b, f.c] [a, b, c] pops → (me s).taskn = BitVec.allOnes 64 →
      exec (.tend f) s = .next (loneFault s (f.pack 0xEE) ⟨0x18, 0, 0, none, []⟩))

/-- R269, R315, R316, R317: `launch` of a 128-byte record appends it to stream D while that holds fewer than 64, and else answers
FULL; `sdisp.tbl` of a table whose entries have no reserved bit set latches its address; `sdisp` branches to the body of the first
entry that admits the runtime extents, with the entry's number, and falls through with all ones when none does; it reads the
table up to that entry, and all of it in a sealed launch (R270).
(That the record which Headstock holds counts among the 64 is a reading: log entry 61.) -/
def Obligations.LaunchResults : Prop :=
  ∀ (s : State), Ready s →
    (∀ (f : RRR) (a : Word) (pops : List Nat), Enabled s f.gp f.gn → Reads s [f.a] [a] pops →
      (∀ t locs p, WellFormed (.launch f) = true → Room s f.d → a.toNat % 64 = 0 → Placed s false .load false a.toNat 128 t locs →
        partAt t (partOfCtx t s.cur) = some p →
        (p.streamD.length < 64 → exec (.launch f) s = .next (lonePass s
          (setPart t (partOfCtx t s.cur) { p with streamD := p.streamD ++
            [.launch ((List.range 16).map fun i => word (leNat (((readLocs t locs).drop (8 * i)).take 8)))] })
          (f.pack 0xEB) pops (landS (me s) f.d 0 1))) ∧
        (64 ≤ p.streamD.length → exec (.launch f) s = .next (lonePass s t (f.pack 0xEB) pops (landS (me s) f.d 1 1)))) ∧
      (∀ t0 h t locs nb, WellFormed (.sdispTbl f) = true → a.toNat % 8 = 0 →
        unmapped s (tileOf s.cur) (me s).asid.toNat a.toNat 8 = none → Placed s false .load false a.toNat 8 t0 h →
        nb = leNat (readLocs t0 h) → 1 ≤ nb → nb ≤ 256 →
        unmapped t0 (tileOf s.cur) (me s).asid.toNat (a.toNat + 8) (32 * nb) = none →
        access t0 (homeReq s .load false false) (a.toNat + 8) (32 * nb) = .ok t locs →
        (∀ e ∈ chunks 32 nb (readLocs t locs), leNat ((e.drop 24).take 8) / 2 ^ 16 = 0) →
        exec (.sdispTbl f) s = .next (lonePass s
          (modCtx t s.cur fun c => { c with tbl := smIns c.tbl (f.md.toNat % 4) a }) (f.pack 0xED) pops {}))) ∧
    (∀ (f : RRI), Enabled s f.gp f.gn → Room s f.d → WellFormed (.sdisp f) = true →
      (smFind (me s).tbl (f.imm.toNat % 4) = none → exec (.sdisp f) s = .next (loneFault s (f.pack 0xEC) ⟨0x18, 0, 0, none, []⟩)) ∧
      (∀ a t0 h nb t es, smFind (me s).tbl (f.imm.toNat % 4) = some a →
        unmapped s (tileOf s.cur) (me s).asid.toNat a.toNat 8 = none → Placed s false .load false a.toNat 8 t0 h →
        nb = leNat (readLocs t0 h) % 2 ^ 9 →
        let rows (n : Nat) : List Nat := (List.range n).map fun j => a.toNat + 8 + 32 * j
        let fits (j : Nat) : Prop := ∀ i, i < 4 →
          (smGet 0 (me s).shape i).toNat ≤ leNat (((es.getD j []).drop (4 * i)).take 4)
        (∀ j, j < nb → (∀ i, i < j → ¬fits i) → fits j →
          readRows s 32 t0 (rows (if isSealed t0 s.cur then nb else j + 1)) = some (t, es) →
          exec (.sdisp f) s = .next (lonePass s t (f.pack 0xEC) []
            { landS (me s) f.d (word (leNat (((es.getD j []).drop 24).take 8) % 2 ^ 16)) 1 with
              jump := some (word (leNat (((es.getD j []).drop 16).take 8))) })) ∧
        ((∀ i, i < nb → ¬fits i) → readRows s 32 t0 (rows nb) = some (t, es) →
          exec (.sdisp f) s = .next (lonePass s t (f.pack 0xEC) [] (landS (me s) f.d (BitVec.allOnes 64) 1)))))

/-- R294, R295, R296: the channel operations, the peer's spindle having answered. `chbind` of a free end names its peer's end: waiting
until the peer has bound it back, when both ends are established; of a free or a reaped peer it answers NOTPLACED or GONE.
`chunbind` frees the end, the peer's end gone, and tells how many words were left, also of an end that the context has bound to
itself. `chstat` tells the words held, the room at the peer and the state.
R415: a peer whose spindle is dead answers BUSY.
(That both are parked on channel while they are held is a reading: log entry 104.) -/
def Obligations.ChannelResults : Prop :=
  ∀ (s : State) (f : RRR) (k : Nat) (e : Channel), Ready s → Enabled s f.gp f.gn → k = f.md.toNat % 16 → e = getCh (me s) k → k < 16 →
    (∀ (a : Word) (pops : List Nat) (peer m : Nat), Reads s [f.a] [a] pops → f.d.toNat < 64 → WellFormed (.chbind f) = true →
      a.toNat < 2 ^ 20 → a.toNat.testBit 15 = false → peer = a.toNat % 2 ^ 15 → m = a.toNat / 2 ^ 16 → samePart s s.cur peer = true →
      (e.st ≠ .unbound → exec (.chbind f) s = .next (loneFault s (f.pack 0xDA) ⟨0x18, 0, 0, none, []⟩)) ∧
      (e.st = .unbound → (me s).answered.contains .peer = false →
        exec (.chbind f) s = .next (lonePark s s (f.pack 0xDA) .channel .peer)) ∧
      (e.st = .unbound → (me s).answered.contains .peer = true →
        ((spinAt s (spindleOf peer)).dead = true →
          exec (.chbind f) s = .next (lonePass s s (f.pack 0xDA) pops (landS (me s) f.d 2 1))) ∧
        ((spinAt s (spindleOf peer)).dead = false →
          ((ctxOf s peer).phase = .free →
            exec (.chbind f) s = .next (lonePass s s (f.pack 0xDA) pops (landS (me s) f.d 6 1))) ∧
          ((ctxOf s peer).phase = .reaped →
            exec (.chbind f) s = .next (lonePass s s (f.pack 0xDA) pops (landS (me s) f.d 5 1))) ∧
          ((ctxOf s peer).phase ∉ ([.free, .reaped] : List Phase) → peer ≠ s.cur →
            (getCh (ctxOf s peer) m = ⟨.waiting, s.cur, k, []⟩ → ∃ t,
              exec (.chbind f) s = .next (lonePass s t (f.pack 0xDA) pops (landS (me s) f.d 0 1)) ∧
              getCh (ctxOf t s.cur) k = ⟨.established, peer, m, e.queue⟩ ∧
              getCh (ctxOf t peer) m = ⟨.established, s.cur, k, []⟩ ∧ (∀ n, n ≠ s.cur → n ≠ peer → ctxOf t n = ctxOf s n)) ∧
            ((getCh (ctxOf s peer) m).st ≠ .waiting →
              exec (.chbind f) s = .next (lonePass s (setCtx s s.cur (putCh (me s) k ⟨.waiting, peer, m, e.queue⟩))
                (f.pack 0xDA) pops (landS (me s) f.d 11 1))))))) ∧
    (WellFormed (.chunbind f) = true → f.d.toNat < 64 →
      (e.st = .unbound → exec (.chunbind f) s = .next (lonePass s s (f.pack 0xDB) [] (landS (me s) f.d 0 1))) ∧
      (e.st ≠ .unbound → (me s).answered.contains .peer = true → (spinAt s (spindleOf e.peer)).dead = false → e.peer ≠ s.cur →
        (ctxOf s e.peer).pend = [] → ∃ t,
        exec (.chunbind f) s = .next (lonePass s t (f.pack 0xDB) [] (landS (me s) f.d (word e.queue.length) 1)) ∧
        getCh (ctxOf t s.cur) k = ⟨.unbound, 0, 0, []⟩ ∧
        (∀ q, getCh (ctxOf s e.peer) e.pch = ⟨.established, s.cur, k, q⟩ → getCh (ctxOf t e.peer) e.pch = ⟨.gone, s.cur, k, q⟩) ∧
        (∀ n, n ≠ s.cur → n ≠ e.peer → ctxOf t n = ctxOf s n)) ∧
      (e.st ≠ .unbound → (me s).answered.contains .peer = true → (spinAt s (spindleOf e.peer)).dead = true →
        exec (.chunbind f) s = .next (lonePass s s (f.pack 0xDB) [] (landS (me s) f.d 2 1))) ∧
      (e.st ≠ .unbound → (me s).answered.contains .peer = true → (spinAt s (spindleOf e.peer)).dead = false → e.peer = s.cur → ∃ t,
        exec (.chunbind f) s = .next t ∧ getCh (me t) k = ⟨.unbound, 0, 0, []⟩ ∧ (me t).pc = (me s).pc + 12 ∧
        (∀ q, e.pch ≠ k → getCh (me s) e.pch = ⟨.established, s.cur, k, q⟩ → getCh (me t) e.pch = ⟨.gone, s.cur, k, q⟩) ∧
        getX (me t) (physX (me s) f.d.toNat) = (if physX (me s) f.d.toNat = 0 then 0 else word e.queue.length) ∧
        otherContexts s.cur s t) ∧
      (e.st ≠ .unbound → (me s).answered.contains .peer = false →
        exec (.chunbind f) s = .next (lonePark s s (f.pack 0xDB) .channel .peer))) ∧
    (WellFormed (.chstat f) = true → Room s f.d →
      exec (.chstat f) s = .next (lonePass s s (f.pack 0xDC) [] (landS (me s) f.d
        (word (e.queue.length +
          (if e.st = .established then 8 - (getCh (ctxOf s e.peer) e.pch).queue.length else 0) * 16 +
          (match e.st with | .unbound => 0 | .waiting => 1 | .established => 2 | .gone => 3) * 256)) 1)))

/-- R297, R298, R299, R300, R301: the message operations. `amsend` sends a message, of which 16 may be unanswered; `amsend.w` sends
one and waits for its status; `amrecv` dispatches the oldest refusal, else the oldest message, of the lowest mailbox of its
mask to the launch's handler, with the bundle after it in x4; `amret` leaves the handler for its target; `mbstat` tells the
messages and refusals of a mailbox.
(That amrecv's registers enter no latch is a reading: log entry 100.) -/
def Obligations.MessageResults : Prop :=
  ∀ (s : State), Ready s →
    (∀ (f : RRR) (a b c : Word) (pops : List Nat) (peer mb rmb : Nat), Enabled s f.gp f.gn → Reads s [f.a, f.b, f.c] [a, b, c] pops →
      Room s f.d → a.toNat < 2 ^ 20 → a.toNat.testBit 15 = false → peer = a.toNat % 2 ^ 15 → samePart s s.cur peer = true →
      mb = a.toNat / 2 ^ 16 % 4 → rmb = a.toNat / 2 ^ 18 →
      (WellFormed (.amsend f) = true →
        (16 ≤ (me s).sends → exec (.amsend f) s = .next (lonePark s s (f.pack 0xDD) .mailbox .answer)) ∧
        ((me s).sends < 16 → ∃ t, t = setCtx s s.cur { me s with sends := (me s).sends + 1 } ∧
          exec (.amsend f) s = .next (lonePass s { t with flights := s.flights ++ [⟨s.cur, peer, mb, rmb, b, c, false, false, none⟩] }
            (f.pack 0xDD) pops (landS (me s) f.d 0 1)))) ∧
      (WellFormed (.amsendW f) = true →
        (∀ st, msgStatus (me s).answered = some st →
          exec (.amsendW f) s = .next (lonePass s s (f.pack 0xDE) pops (landS (me s) f.d (word st) 1))) ∧
        (msgStatus (me s).answered = none → (∀ x ∈ s.flights, x.src ≠ s.cur) →
          exec (.amsendW f) s = .next (lonePark s
            { s with flights := s.flights ++ [⟨s.cur, peer, mb, rmb, b, c, true, false, none⟩] } (f.pack 0xDE) .mailbox .answer)))) ∧
    (∀ (f : RRI), Enabled s f.gp f.gn →
      (WellFormed (.amrecv f) = true →
        let has (k : Nat) : Prop := k < 4 ∧ f.imm.toNat.testBit k = true ∧ ((getMb (me s) k).msgs ≠ [] ∨ (getMb (me s) k).refs ≠ [])
        ((me s).handler = true → exec (.amrecv f) s = .next (loneFault s (f.pack 0xDF) ⟨0x18, 0, 0, none, []⟩)) ∧
        ((me s).handler = false → (∀ k, ¬has k) → f.imm.toNat.testBit 4 = false →
          exec (.amrecv f) s = .next (lonePass s s (f.pack 0xDF) [] {})) ∧
        ((me s).handler = false → (∀ k, ¬has k) → f.imm.toNat.testBit 4 = true →
          exec (.amrecv f) s = .next (lonePark s s (f.pack 0xDF) .mailbox (.mailbox (f.imm.toNat % 16) none))) ∧
        (∀ k l b, (me s).handler = false → has k → (∀ j, j < k → ¬has j) → launchOf s s.cur = some l → l.handlers.getD k 0 ≠ 0 →
          b = getMb (me s) k →
          (∀ r rs, b.refs = r :: rs → exec (.amrecv f) s = .next (lonePass s
            (setCtx s s.cur { putMb (me s) k ⟨b.msgs, rs⟩ with handler := true }) (f.pack 0xDF) []
            { writes := [.x 1 r.p0, .x 2 r.p1, .x 3 (word (r.dest % 2 ^ 15 + k * 2 ^ 16 + 2 ^ 31 + r.status * 2 ^ 32)),
                .x 4 ((me s).pc + 12)]
              jump := some (l.handlers.getD k 0) })) ∧
          (∀ m ms, b.refs = [] → b.msgs = m :: ms → exec (.amrecv f) s = .next (lonePass s
            (setCtx s s.cur { putMb (me s) k ⟨ms, []⟩ with handler := true }) (f.pack 0xDF) []
            { writes := [.x 1 m.p0, .x 2 m.p1, .x 3 (word (m.sender % 2 ^ 15 + k * 2 ^ 16)), .x 4 ((me s).pc + 12)]
              jump := some (l.handlers.getD k 0) })))) ∧
      (Room s f.d → WellFormed (.mbstat f) = true →
        exec (.mbstat f) s = .next (lonePass s s (f.pack 0xE1) [] (landS (me s) f.d
          (word ((getMb (me s) (f.imm.toNat % 4)).msgs.length + (getMb (me s) (f.imm.toNat % 4)).refs.length * 256)) 1)))) ∧
    (∀ (f : RRR) (a : Word) (pops : List Nat), Enabled s f.gp f.gn → Reads s [f.a] [a] pops → WellFormed (.amret f) = true →
      ((me s).handler = true →
        exec (.amret f) s = .next (lonePass s (setCtx s s.cur { me s with handler := false }) (f.pack 0xE0) pops { jump := some a })) ∧
      ((me s).handler = false → exec (.amret f) s = .next (loneFault s (f.pack 0xE0) ⟨0x18, 0, 0, none, []⟩)))

/-- R302, R303, R304, R305: futures, the Chuck having answered. `fcall` of a well-formed record opens a future of the partition for
its timeout and returns its handle, or tells that none is free; `fwait` returns the status of a future that has ended and
waits for one that has not; `fpoll` tells it without waiting; `fdrop` frees the future. A future of another context, or one
dropped, answers GONE.
(The TAG of a future is a free value: log entry 5.) -/
def Obligations.FutureResults : Prop :=
  ∀ (s : State) (f : RRR) (a : Word) (pops : List Nat), Ready s → Enabled s f.gp f.gn → Room s f.d →
    (me s).answered.contains .chuck = true →
    (∀ b t locs p, Reads s [f.a, f.b] [a, b] pops → WellFormed (.fcall f) = true → a.toNat % 64 = 0 → 0 < b.toNat → b.toNat < 2 ^ 40 →
      Placed s false .load false a.toNat 64 t locs → callBad (readLocs t locs) = false →
      partAt t (partOfCtx t s.cur) = some p →
      ((∀ i, p.conf.futLo ≤ i → i < p.conf.futLo + p.conf.futN → futAt t i ≠ none) →
        exec (.fcall f) s = .next (lonePass s t (f.pack 0xE2) pops (landS (me s) f.d (word (2 ^ 63 + 1)) 1))) ∧
      (∀ j, p.conf.futLo ≤ j → j < p.conf.futLo + p.conf.futN → futAt t j = none → ∃ i u,
        p.conf.futLo ≤ i ∧ i < p.conf.futLo + p.conf.futN ∧ futAt t i = none ∧
        exec (.fcall f) s = .next (lonePass s u (f.pack 0xE2) pops (landS (me s) f.d (word (i + partOfCtx t s.cur * 2 ^ 17)) 1)) ∧
        (∃ x, futAt u i = some x ∧ x.st = .opened ∧ x.part = partOfCtx t s.cur ∧ x.deadline = t.time + b.toNat ∧
          x.creator = some s.cur ∧ x.tool = leNat ((readLocs t locs).take 8)) ∧
        (∀ k, k ≠ i → futAt u k = futAt t k))) ∧
    (Reads s [f.a] [a] pops →
      (WellFormed (.fwait f) = true →
        (ownFut s s.cur a = none → exec (.fwait f) s = .next (lonePass s s (f.pack 0xE3) pops (landS (me s) f.d 5 1))) ∧
        (∀ x st, ownFut s s.cur a = some x → x.st = .ended st →
          exec (.fwait f) s = .next (lonePass s s (f.pack 0xE3) pops (landS (me s) f.d (word st) 1))) ∧
        (∀ x, ownFut s s.cur a = some x → (∀ st, x.st ≠ .ended st) →
          exec (.fwait f) s = .next (lonePark s s (f.pack 0xE3) .future (.future a)))) ∧
      (WellFormed (.fpoll f) = true →
        (ownFut s s.cur a = none → exec (.fpoll f) s = .next (lonePass s s (f.pack 0xE4) pops (landS (me s) f.d 5 1))) ∧
        (∀ x, ownFut s s.cur a = some x → exec (.fpoll f) s = .next (lonePass s s (f.pack 0xE4) pops
          (landS (me s) f.d (word (match x.st with | .ended st => st | _ => 10)) 1)))) ∧
      (WellFormed (.fdrop f) = true →
        (ownFut s s.cur a = none → exec (.fdrop f) s = .next (lonePass s s (f.pack 0xE5) pops (landS (me s) f.d 5 1))) ∧
        (∀ x, ownFut s s.cur a = some x → ∃ t, exec (.fdrop f) s = .next (lonePass s t (f.pack 0xE5) pops (landS (me s) f.d 0 1)) ∧
          futAt t (a.toNat % 2 ^ 17) = none ∧ (∀ i, i ≠ a.toNat % 2 ^ 17 → futAt t i = futAt s i)))) ∧
    (∀ x, ownFut s s.cur a = some x → futAt s (a.toNat % 2 ^ 17) = some x ∧ x.creator = some s.cur ∧ x.part = partOfCtx s s.cur)

/-- R309, R310, R311, R313, R314: sequences and adapters, the Chuck having answered. `sq.batch` stores a row for each sequence that it
selects and returns how many; `sq.emit` applies its rows in order and stores the status of each; `sq.pfq` moves tokens of a
batched sequence's prefill queue to memory; `adp.claim` changes the owner of a slot when the old owner is as told and no
batch pins it; `adp.bind` installs the records of a table that name each slot once with its owner.
R361: the tokens of a prefill queue lie at its base and on, four bytes each.
(The statement is of rows and tokens on whose home lines no lease is held. That a queue's base is a global physical address is a reading:
log entry 31; so are POS and the REMAIN of GONE: log entry 60.) -/
def Obligations.SequenceResults : Prop :=
  ∀ (s : State) (f : RRR) (a b c : Word) (pops : List Nat) (t : State) (locs : List Loc), Ready s → Enabled s f.gp f.gn → Room s f.d →
    (me s).answered.contains .chuck = true →
    (Reads s [f.a, f.b, f.c] [a, b, c] pops →
      (WellFormed (.sqBatch f) = true → a.toNat % 16 = 0 → 0 < b.toNat → b.toNat ≤ 128 → 0 < c.toNat → c.toNat < 4 →
        unmapped s (tileOf s.cur) (me s).asid.toNat a.toNat (16 * b.toNat) = none →
        Placed s false .store false a.toNat (16 * b.toNat) t locs →
        ∀ u rows, selectSeqs t s.cur b.toNat (batchable t (partOfCtx t s.cur) c.toNat) [] = (u, rows) →
        exec (.sqBatch f) s = .next (lonePass s (storeLocs u (locs.take (16 * rows.length)) (rows.flatMap id)) (f.pack 0xE6) pops
          (landS (me s) f.d (word rows.length) 1))) ∧
      (WellFormed (.sqPfq f) = true → b.toNat % 4 = 0 → 0 < c.toNat → c.toNat ≤ 65536 →
        (seqAt s a.toNat = none →
          exec (.sqPfq f) s = .next (lonePass s s (f.pack 0xE8) pops (landS (me s) f.d (word (5 * 2 ^ 56)) 1))) ∧
        (∀ q k as, seqAt s a.toNat = some q → q.part = partOfCtx s s.cur → q.holder = some s.cur → k = Nat.min c.toNat q.pf.count →
          unmapped s (tileOf s.cur) (me s).asid.toNat b.toNat (4 * k) = none → Placed s false .store false b.toNat (4 * k) t locs →
          as = ((List.range k).map fun i => q.pf.base + 4 * ((q.pf.head + i) % Nat.max q.pf.cap 1)) →
          (∀ x ∈ as, homeConflict t (x / 128) false = false) → ∀ bs, readTokens t q.part as = .ok bs →
          exec (.sqPfq f) s = .next (lonePass s
            (setSeq (storeLocs (correct t (as.map .mem)) locs bs) a.toNat { q with trunc := false, pf := { q.pf with
              head := (q.pf.head + k) % Nat.max q.pf.cap 1, count := q.pf.count - k } }) (f.pack 0xE8) pops
            (landS (me s) f.d (word (k + (q.pf.count - k) % 2 ^ 24 * 2 ^ 32 + 0 * 2 ^ 56 + if q.trunc then 2 ^ 63 else 0)) 1)))) ∧
      (∀ p, WellFormed (.adpClaim f) = true → a.toNat < 1024 → b.toNat ≤ 16384 → c.toNat ≤ 16384 → partAt s (partOfCtx s s.cur) = some p →
        ownsSlot p a.toNat = true → ownerOk p b.toNat = true → ownerOk p c.toNat = true →
        (smGet 0 s.owners a.toNat ≠ b.toNat → exec (.adpClaim f) s = .next (lonePass s s (f.pack 0xE9) pops
          (landS (me s) f.d (word (4 + smGet 0 s.owners a.toNat * 2 ^ 16)) 1))) ∧
        (smGet 0 s.owners a.toNat = b.toNat → b.toNat = 0 ∨ adapterPinned s (partOfCtx s s.cur) (b.toNat - 1) = false →
          exec (.adpClaim f) s = .next (lonePass s { s with owners := smSet 0 s.owners a.toNat c.toNat } (f.pack 0xE9) pops
            (landS (me s) f.d (word (c.toNat * 2 ^ 16)) 1))))) ∧
    (Reads s [f.a, f.b] [a, b] pops → WellFormed (.sqEmit f) = true → a.toNat % 16 = 0 → 0 < b.toNat → b.toNat ≤ 128 →
      unmapped s (tileOf s.cur) (me s).asid.toNat a.toNat (16 * b.toNat) = none → Placed s false .amo false a.toNat (16 * b.toNat) t locs →
      ∀ rows u sts, rows = (List.range b.toNat).map (fun i => leNat (((readLocs t locs).drop (16 * i)).take 8)) →
      (∀ d ∈ rows, d / 2 ^ 22 % 2 ^ 10 = 0 ∧ (d.testBit 20 && d.testBit 21) = false) →
      emitWaits t s.cur rows = [] → emitRows t s.cur rows = (u, sts) →
      exec (.sqEmit f) s = .next (lonePass s
        (sts.zipIdx.foldl (fun u e => storeLocs u ((locs.drop (16 * e.2 + 8)).take 8) (leBytes 8 e.1)) u) (f.pack 0xE7) pops
        (landS (me s) f.d (word ((sts.filter fun d => d.testBit 8).length)) 1))) ∧
    (∀ (h n : Nat) (t1 : State) (recs : List Byte) (rlocs : List Loc) (p : Part) (es : List (Nat × Expert)), Reads s [f.a] [a] pops →
      WellFormed (.adpBind f) = true → a.toNat % 64 = 0 → Placed s false .load false a.toNat 8 t locs → h = leNat (readLocs t locs) →
      1 ≤ h → h ≤ 64 → n = 64 * h →
      access t (homeReq s .load false false) (a.toNat + 64) n = .ok t1 rlocs →
      recs = readLocs t1 rlocs → partAt t1 (partOfCtx s s.cur) = some p → (∀ r ∈ chunks 64 h recs, expertBad p r = false) →
      es = (chunks 64 h recs).map expertRec → expertClash t1 es = none →
      (∀ e ∈ es, slotPinned t1 (partOfCtx t1 s.cur) e.1 = false) → (∀ k l, .bind k l ∉ (me s).answered) →
      exec (.adpBind f) s = .next (lonePass s { t1 with experts := es.foldl (fun m e => smIns m e.1 e.2) t1.experts } (f.pack 0xEA) pops
        (landS (me s) f.d (word h) 1)))

/-- R38, R63, R375, R376, R378, R380, R381, R382, R383, R397: traps, service entry and the return from it. `trap` enters service after
its bundle, kind 2, with the record FCAUSE, FPC the next bundle, FADDR 0 and FINFO its immediate; `bkpt` and `ill` raise F_BKPT
and F_ILLOP precisely; `rfs` returns to FPC. An entry of kind K with no result outstanding and no reclaim pending writes the
record, exchanges x1 to x8 and p1 to p4 with the bank, clears the latches and goes to 0x40 K, or to FPC for kind 6; the
return exchanges them back.
(KIND 2 of a nested trap is a reading: log entry 63.) -/
def Obligations.TrapsAndReturns : Prop :=
  (∀ (s : State), Ready s →
    (∀ f : RI, Enabled s f.gp f.gn → WellFormed (.trap f) = true →
      let u := lonePass s s (f.pack 0xF0) [] {}
      ((me s).svc = false → exec (.trap f) s = .next (enterService u s.cur 2 (word (0xF0 * 2 ^ 24 + 2 * 2 ^ 16 + 1)) ((me s).pc + 12) 0
        (f.imm.setWidth 64))) ∧
      ((me s).svc = true → exec (.trap f) s =
        .next (nestedFault u s.cur 0xF0 0 2 ⟨0x01, 0, f.imm.setWidth 64, none, []⟩ ((me s).pc + 12)))) ∧
    (∀ f : RI, Enabled s f.gp f.gn → WellFormed (.bkpt f) = true →
      exec (.bkpt f) s = .next (loneFault s (f.pack 0xFB) ⟨0x02, 0, f.imm.setWidth 64, none, []⟩)) ∧
    (∀ f : RRR, exec (.ill f) s = .next (loneFault s (f.pack 0xFF) ⟨0x08, 0, 0, none, []⟩)) ∧
    (∀ f : RRR, Enabled s f.gp f.gn → WellFormed (.rfs f) = true → (me s).svc = true → (me s).reqs = [] →
      (∀ k, (me s).claim = some k → k.reclaim = false) →
      exec (.rfs f) s = .next (returnFrom (lonePass s s (f.pack 0xF1) [] {}) s.cur true))) ∧
  (∀ (s : State) (n : Nat), ctxOf (returnFrom s n true) n = returnCtx (ctxOf s n) true ∧ otherContexts n s (returnFrom s n true) ∧
    sameMemory s (returnFrom s n true)) ∧
  (∀ (s : State) (n kind : Nat) (cause fpc faddr finfo : Word), 0 < kind → kind < 8 → (ctxOf s n).pend = [] →
    (∀ k, (ctxOf s n).claim = some k → k.reclaim = false) → (ctxOf s n).attnRun = false →
    let c := ctxOf s n
    let d := ctxOf (enterService s n kind cause fpc faddr finfo) n
    d.fcause = cause ∧ d.fpc = fpc ∧ d.faddr = faddr ∧ d.finfo = finfo ∧ d.phase = .inService ∧ d.svc = true ∧ d.enterNow = false ∧
    d.pc = (if kind = 6 then fpc else word (0x40 * kind)) ∧ d.fbuf = [] ∧ d.q = [] ∧
    (∀ i, 1 ≤ i → i ≤ 8 → getX d i = c.bank.x.getD (i - 1) 0 ∧ d.bank.x.getD (i - 1) 0 = getX c i) ∧
    (∀ i, i = 0 ∨ 8 < i → getX d i = getX c i) ∧
    (∀ i, 1 ≤ i → i ≤ 4 → getP d i = c.bank.p.getLsbD (i - 1) ∧ d.bank.p.getLsbD (i - 1) = getP c i) ∧
    (∀ i, i = 0 ∨ 4 < i → getP d i = getP c i) ∧ d.bank.q = c.q ∧
    otherContexts n s (enterService s n kind cause fpc faddr finfo) ∧ sameMemory s (enterService s n kind cause fpc faddr finfo)) ∧
  (∀ (c : Ctx), (∀ i, 1 ≤ i → i ≤ 8 → getX (returnCtx c true) i = c.bank.x.getD (i - 1) 0) ∧
    (∀ i, i = 0 ∨ 8 < i → getX (returnCtx c true) i = getX c i) ∧
    (∀ i, 1 ≤ i → i ≤ 4 → getP (returnCtx c true) i = c.bank.p.getLsbD (i - 1)) ∧ (returnCtx c true).q = c.bank.q ∧
    (returnCtx c true).pc = c.fpc ∧ (returnCtx c true).svc = false ∧ (returnCtx c true).halted = false ∧
    (returnCtx c true).fbuf = [] ∧ (c.idle = .no → c.wait = .nothing → (returnCtx c true).phase = .live) ∧
    (returnCtx c true).sdl = word (c.sdl.toNat / 2 ^ 16 % 2 ^ 16 * 65536 + c.sdl.toNat / 2 ^ 16 % 2 ^ 16))

/-- R399: `dset` installs a legal entry of the dictionary, at any level.
R385, R386, R387, R396, R398, R400: the service operations on contexts, queues, watchpoints and the items of the debugger complete in
service. `pctl` reads a stop record, skips a stopped command that the context issued, posts, or
parks; `ctxkill` ends its target; `wpset` sets a watchpoint; `dbg.rd` and `dbg.wr` read and
write the item selected of a context that is parked, in service, or the issuing one.
(The latches of SPACE 5, the register of a failed read and the latch after a pair are readings: log entries 64, 75 and 100.) -/
def Obligations.ServiceResults : Prop :=
  (∀ (s : State) (f : RRR) (a b : Word) (pops : List Nat) (t : State) (locs : List Loc) (e : List Word), Ready s → Enabled s f.gp f.gn →
      Reads s [f.a, f.b] [a, b] pops → Room s f.d → WellFormed (.dset f) = true → b.toNat % 8 = 0 →
      ((tileAt s (s.cur / 128)).dsize ≤ a.toNat → exec (.dset f) s = .next (loneFault s (f.pack 0xFA) ⟨0x18, 0, 0, none, []⟩)) ∧
      (a.toNat < (tileAt s (s.cur / 128)).dsize → Placed s false .load false b.toNat 48 t locs →
        e = (chunks 8 6 (readLocs t locs)).map (fun x => word (leNat x)) →
        (∀ r, dictReason e = some r → exec (.dset f) s = .next (loneFault s (f.pack 0xFA) ⟨0x08, 0, word r, none, []⟩)) ∧
        (dictReason e = none → exec (.dset f) s = .next (lonePass s
          (modTile t (s.cur / 128) fun x => { x with dict := smSet [] x.dict a.toNat e }) (f.pack 0xFA) pops (landS (me s) f.d 0 1))))) ∧
  (∀ (s : State), Ready s → (me s).svc = true →
    (∀ (f : RRI) (a : Word) (pops : List Nat) (q : Nat), Enabled s f.gp f.gn → Reads s [f.a] [a] pops → Room s f.d →
      q = f.imm.toNat / 2 ^ 8 % 16 →
      (WellFormed (.pctlQrec f) = true →
        (4 < a.toNat → exec (.pctlQrec f) s = .next (loneFault s (f.pack 0xF5) ⟨0x18, 0, 0, none, []⟩)) ∧
        (a.toNat ≤ 4 → exec (.pctlQrec f) s = .next (lonePass s s (f.pack 0xF5) pops
          (landS (me s) f.d (stopDword s (s.cur / 16) q a.toNat) 1)))) ∧
      (WellFormed (.pctlQskip f) = true → a = 0 →
        ((queueAt s (s.cur / 16) q).stop ≠ none → (∃ x xs, (queueAt s (s.cur / 16) q).cmds = x :: xs ∧ x.ctx = s.cur) → q < 11 →
          exec (.pctlQskip f) s = .next (lonePass s (skipQueue s (s.cur / 16) q) (f.pack 0xF5) pops (landS (me s) f.d 0 1))) ∧
        ((queueAt s (s.cur / 16) q).stop = none → q < 11 →
          exec (.pctlQskip f) s = .next (lonePass s s (f.pack 0xF5) pops (landS (me s) f.d 2 1)))) ∧
      (WellFormed (.pctlPost f) = true →
        (a = 0 → exec (.pctlPost f) s = .next (lonePass s (post s (partOfCtx s s.cur) 0 (word s.cur) (me s).fcause) (f.pack 0xF5) pops
          (landS (me s) f.d 0 1))) ∧
        (a = 1 → exec (.pctlPost f) s = .next (lonePass s (post s (partOfCtx s s.cur) 1 (word (s.cur / 128)) (stopvec s s.cur))
          (f.pack 0xF5) pops (landS (me s) f.d 0 1))) ∧
        (1 < a.toNat → exec (.pctlPost f) s = .next (loneFault s (f.pack 0xF5) ⟨0x18, 0, 0, none, []⟩))) ∧
      (WellFormed (.pctlPark f) = true → a = 0 →
        exec (.pctlPark f) s = .next (parkService (lonePass s s (f.pack 0xF5) pops (landS (me s) f.d 0 1)) s.cur))) ∧
    (∀ (f : RRR) (a : Word) (pops : List Nat) (n : Nat), Enabled s f.gp f.gn → Room s f.d → n = 16 * (s.cur / 16) + a.toNat →
      Reads s [f.a] [a] pops → WellFormed (.ctxkill f) = true →
      (16 ≤ a.toNat ∨ a.toNat = s.cur % 16 → exec (.ctxkill f) s = .next (loneFault s (f.pack 0xF4) ⟨0x18, 0, 0, none, []⟩)) ∧
      (a.toNat < 16 → a.toNat ≠ s.cur % 16 →
        ((ctxOf s n).phase = .free → exec (.ctxkill f) s = .next (lonePass s s (f.pack 0xF4) pops (landS (me s) f.d 6 1))) ∧
        ((ctxOf s n).phase = .reaped → exec (.ctxkill f) s = .next (lonePass s s (f.pack 0xF4) pops (landS (me s) f.d 5 1))) ∧
        ((ctxOf s n).phase ∉ ([.free, .reaped] : List Phase) →
          exec (.ctxkill f) s = .next (killTarget (lonePass s s (f.pack 0xF4) pops (landS (me s) f.d 0 1)) n)))) ∧
    (∀ (f : RRR) (a b c : Word) (pops : List Nat) (n : Nat), Enabled s f.gp f.gn → Reads s [f.a, f.b, f.c] [a, b, c] pops →
      Room s f.d → WellFormed (.wpset f) = true → wpBad a.toNat b.toNat c.toNat = false → n = 16 * (s.cur / 16) + a.toNat % 16 →
      (ctxOf s n).phase ∉ ([.free, .reaped, .saved] : List Phase) → ∃ x,
      exec (.wpset f) s = .next (lonePass s (setCtx s n x) (f.pack 0xFC) pops (landS (me s) f.d 0 1)) ∧
      x = { ctxOf s n with watch := x.watch } ∧
      (∀ k, smGet ⟨0, 0, false, false⟩ x.watch k = if k = a.toNat / 16 then
        ⟨b.toNat, c.toNat % 2 ^ 40, c.toNat.testBit 40, c.toNat.testBit 41⟩ else smGet ⟨0, 0, false, false⟩ (ctxOf s n).watch k)) ∧
    (∀ (f : RRR) (a : Word) (pops : List Nat) (x : Sel) (n : Nat), Enabled s f.gp f.gn → f.d.toNat < 63 → selOf a = some x →
      n = (if x.space = 7 then s.cur else 16 * (s.cur / 16) + x.ctx) → isSealed s s.cur = false → isSealed s n = false →
      (WellFormed (.dbgRd f) = true → Reads s [f.a] [a] pops → selOk (ctxOf s n) x false = true →
        (selStatus s n (n == s.cur) x false = 0 →
          exec (.dbgRd f) s = .next (lonePass s s (f.pack 0xFD) pops { landS (me s) f.d 0 1 with
            writes := [.x (physX (me s) f.d.toNat) 0, .x (physX (me s) (f.d.toNat + 1)) (selRead s n x)] })) ∧
        (∀ st, st = selStatus s n (n == s.cur) x false → st ≠ 0 →
          exec (.dbgRd f) s = .next (lonePass s s (f.pack 0xFD) pops (landS (me s) f.d (word st) 1)))) ∧
      (∀ b pops2, WellFormed (.dbgWr f) = true → Reads s [f.a, f.b] [a, b] pops2 → selOk (ctxOf s n) x true = true →
        selStatus s n (n == s.cur) x true = 0 →
        exec (.dbgWr f) s = .next (lonePass s s (f.pack 0xFE) pops2
          { landS (me s) f.d 0 1 with
            sets := if n = s.cur then selPlaces (me s) x else [], late := some fun u => selWrite u n x b, stop := true }))) ∧
    (∀ (t : State) (n i e : Nat) (w : Word), (ctxOf t n).svc = false →
      (1 ≤ i → i < 64 → selRead (selWrite t n ⟨n % 16, 0, i, 0⟩ w) n ⟨n % 16, 0, i, 0⟩ = w) ∧
      (e < (ctxOf t n).lanes → selRead (selWrite t n ⟨n % 16, 3, i, e⟩ w) n ⟨n % 16, 3, i, e⟩ = (w.setWidth 32).setWidth 64) ∧
      selRead (selWrite t n ⟨n % 16, 6, i, e⟩ w) n ⟨n % 16, 6, i, e⟩ = (w.setWidth 32).setWidth 64 ∧
      selRead (selWrite t n ⟨n % 16, 7, i, e⟩ w) n ⟨n % 16, 7, i, e⟩ = (w.setWidth 32).setWidth 64))

/-- R331, R332, R340, R341, R342, R343: translations and ASIDs, in service. `xinv` drops the cached translations of a page or of an ASID,
and completes once no lease granted before is out, for the page until then parked on fault; `xinv.q` reads a cached page's leaf and
counters, and clears the counters when asked to; `kvinv` drops the cached KV entries of its scope: a block, a head or a sequence;
`asid.set` enters a well-formed descriptor under a free ASID, and with operand 0 tells an ASID's state; `asid.ret` starts the
retirement of an active one, and waits for its sweep when asked to.
(An invalidation in one step is a reading: log entry 74.) -/
def Obligations.TranslationResults : Prop :=
  ∀ (s : State) (f : RRR) (a b : Word) (pops : List Nat) (p : Part) (k : Nat), Ready s → Enabled s f.gp f.gn → (me s).svc = true →
    Room s f.d → partAt s (partOfCtx s s.cur) = some p → k = partOfCtx s s.cur →
    (Reads s [f.a, f.b] [a, b] pops → b.toNat < 2 ^ 16 → asidActive p b.toNat = true →
      (WellFormed (.xinvPage f) = true → canonical a.toNat = true →
        (me s).answered.contains .home = false → ∀ lo hi t, (lo, hi) = pageSpan s p b.toNat a.toNat → t = dropPage s p b.toNat a.toNat →
        (leasesOut s k b.toNat lo hi s.freeCount = true →
          exec (.xinvPage f) s = .next (lonePark s t (f.pack 0xF6) .fault (.leases b.toNat lo hi s.freeCount))) ∧
        (leasesOut s k b.toNat lo hi s.freeCount = false →
          exec (.xinvPage f) s = .next (lonePass s t (f.pack 0xF6) pops (landS (me s) f.d 0 1))) ∧
        (∀ e ∈ (sliceAt t (homeSlice p a.toNat b.toNat)).tcache,
          e.asid ≠ b.toNat ∨ a.toNat % 2 ^ 57 < e.va ∨ e.va + e.size ≤ a.toNat % 2 ^ 57) ∧ t.ctxs = s.ctxs ∧ t.mem = s.mem) ∧
      (WellFormed (.xinvQ f) = true → f.d.toNat < 63 →
        (cachedLeaf (sliceAt s (homeSlice p a.toNat b.toNat)) b.toNat a.toNat = none →
          exec (.xinvQ f) s = .next (lonePass s s (f.pack 0xF6) pops (landPair (me s) f.d 0 (some (word (7 * 2 ^ 60)))))) ∧
        (∀ e, cachedLeaf (sliceAt s (homeSlice p a.toNat b.toNat)) b.toNat a.toNat = some e →
          (f.md.getLsbD 2 = false →
            exec (.xinvQ f) s = .next (lonePass s s (f.pack 0xF6) pops (landPair (me s) f.d (word e.leaf) (some (countsWord e.counts))))) ∧
          (f.md.getLsbD 2 = true → ∃ t,
            exec (.xinvQ f) s = .next (lonePass s t (f.pack 0xF6) pops (landPair (me s) f.d (word e.leaf) (some (countsWord e.counts)))) ∧
            cachedLeaf (sliceAt t (homeSlice p a.toNat b.toNat)) b.toNat a.toNat = some { e with counts := [] } ∧
            (∀ sl, sl ≠ homeSlice p a.toNat b.toNat → sliceAt t sl = sliceAt s sl) ∧ t.ctxs = s.ctxs ∧ t.mem = s.mem)))) ∧
    (Reads s [f.b] [b] pops → b.toNat < 2 ^ 16 → asidActive p b.toNat = true → WellFormed (.xinvAsid f) = true →
      (me s).answered.contains .home = false → leasesOut s k b.toNat 0 (2 ^ 57) s.freeCount = false → ∃ t,
      exec (.xinvAsid f) s = .next (lonePass s t (f.pack 0xF6) pops (landS (me s) f.d 0 1)) ∧
      (∀ sl ∈ p.conf.slices, ∀ e ∈ (sliceAt t sl).tcache, e.asid ≠ b.toNat) ∧ t.ctxs = s.ctxs ∧ t.mem = s.mem) ∧
    (Reads s [f.a] [a] pops →
      (WellFormed (.kvinv f) = true → ∃ t,
        exec (.kvinv f) s = .next (lonePass s t (f.pack 0xF7) pops (landS (me s) f.d 0 1)) ∧ t.ctxs = s.ctxs ∧ t.mem = s.mem ∧
        (f.md.toNat % 4 = 0 → ∀ sl, sl = kvSlice p (kvSeqOf a.toNat) (kvLayerOf a.toNat) (kvHeadOf a.toNat) →
          (∀ d x, cachedRoot s sl (kvSeqOf a.toNat) = some d ∨
              (cachedRoot s sl (kvSeqOf a.toNat) = none ∧ ∃ ls, kvRoot s p k a.toNat sl = .ok (ls, d)) → kvDescOf s d = some x →
            (∀ e ∈ (sliceAt t sl).kcache, ∀ y z ls,
              e ≠ .block (kvSeqOf a.toNat) (kvLayerOf a.toNat) (kvHeadOf a.toNat) (kvPosOf a.toNat / Nat.max x.blk 1) y z ls) ∧
            (∀ e ∈ (sliceAt s sl).kcache, (∀ y z ls,
              e ≠ .block (kvSeqOf a.toNat) (kvLayerOf a.toNat) (kvHeadOf a.toNat) (kvPosOf a.toNat / Nat.max x.blk 1) y z ls) →
              e ∈ (sliceAt t sl).kcache))) ∧
        (f.md.toNat % 4 = 1 → ∀ e ∈ (sliceAt t (kvSlice p (kvSeqOf a.toNat) (kvLayerOf a.toNat) (kvHeadOf a.toNat))).kcache,
          ∀ n x y ls, e ≠ .block (kvSeqOf a.toNat) (kvLayerOf a.toNat) (kvHeadOf a.toNat) n x y ls) ∧
        (2 ≤ f.md.toNat % 4 → ∀ sl ∈ p.conf.slices, ∀ e ∈ (sliceAt t sl).kcache,
          (∀ l h n x y ls, e ≠ .block (kvSeqOf a.toNat) l h n x y ls) ∧ (∀ x ls, e ≠ .root (kvSeqOf a.toNat) x ls))) ∧
      (WellFormed (.asidRet f) = true → (me s).answered = [] → a.toNat < 2 ^ 16 →
        (smFind p.asids a.toNat = none → exec (.asidRet f) s = .next (lonePass s s (f.pack 0xF9) pops (landS (me s) f.d 5 1))) ∧
        (∀ d, smFind p.asids a.toNat = some d → d.st = .active → f.md.getLsbD 0 = false → ∃ t,
          exec (.asidRet f) s = .next (lonePass s t (f.pack 0xF9) pops (landS (me s) f.d 0 1)) ∧
          ∃ p2, partAt t k = some p2 ∧ smFind p2.asids a.toNat = some { d with st := .retiring, since := s.time }) ∧
        (∀ d, smFind p.asids a.toNat = some d → d.st = .active → f.md.getLsbD 0 = true →
          exec (.asidRet f) s = .next (lonePark s (retireAsid s k a.toNat) (f.pack 0xF9) .fault (.sweep a.toNat))) ∧
        (∀ d, smFind p.asids a.toNat = some d → d.st = .retiring → f.md.getLsbD 0 = false →
          exec (.asidRet f) s = .next (lonePass s s (f.pack 0xF9) pops (landS (me s) f.d 2 1))))) ∧
    (Reads s [f.a, f.b] [a, b] pops → WellFormed (.asidSet f) = true → a.toNat < 2 ^ 16 →
      (b = 0 → exec (.asidSet f) s = .next (lonePass s s (f.pack 0xF8) pops (landS (me s) f.d (word
        (match smFind p.asids a.toNat with | none => 0 | some d => if d.st = .active then 1 else 2)) 1))) ∧
      (b ≠ 0 → (smFind p.asids a.toNat).isSome = true →
        exec (.asidSet f) s = .next (lonePass s s (f.pack 0xF8) pops (landS (me s) f.d 2 1))) ∧
      (∀ t locs d, b ≠ 0 → smFind p.asids a.toNat = none → b.toNat % 64 = 0 → Placed s false .load true b.toNat 64 t locs →
        (asidDescOf t (readLocs t locs) = none → exec (.asidSet f) s = .next (loneFault s (f.pack 0xF8) ⟨0x18, 0, 0, none, []⟩)) ∧
        (asidDescOf t (readLocs t locs) = some d → exec (.asidSet f) s = .next (lonePass s
          (modPart t k fun x => { x with asids := smIns x.asids a.toNat d }) (f.pack 0xF8) pops (landS (me s) f.d 0 1)))))

/-- R390, R391, R393, R394, R395: `csave` writes the image of a parked context into its area and leaves the context saved there, its
lanes freed; of a context that is not parked it answers why not; of itself it saves the context as its return from service would leave it. `cload` restores a saved context from its area, live when
what it waited for had come and parked otherwise; of a context that is not saved it answers BUSY.
(Where R391 gives no bits the layout of the area is the model's choice, and the FPC of a parked context a reading: log entries
12, 23 and 24.) -/
def Obligations.SaveResults : Prop :=
  ∀ (s : State) (f : RRR) (a b : Word) (pops : List Nat) (p : Part) (n k : Nat), Ready s → Enabled s f.gp f.gn → (me s).svc = true →
    Room s f.d → Reads s [f.a, f.b] [a, b] pops → a.toNat < 16 → n = 16 * (s.cur / 16) + a.toNat → k = partOfCtx s s.cur →
    partAt s k = some p →
    (WellFormed (.csave f) = true → b.toNat % 4096 = 0 →
      (∀ m ∈ (tileAt s (s.cur / 128)).maps, rangesMeet b.toNat (areaLen s n) m.2.base m.2.len = false) →
      ((ctxOf s n).phase = .free → exec (.csave f) s = .next (lonePass s s (f.pack 0xF2) pops (landS (me s) f.d 6 1))) ∧
      ((ctxOf s n).phase = .reaped → exec (.csave f) s = .next (lonePass s s (f.pack 0xF2) pops (landS (me s) f.d 5 1))) ∧
      ((ctxOf s n).phase = .live ∨ (ctxOf s n).phase = .saved ∨ ((ctxOf s n).phase = .inService ∧ n ≠ s.cur) →
        exec (.csave f) s = .next (lonePass s s (f.pack 0xF2) pops (landS (me s) f.d 2 1))) ∧
      (∀ pages, (ctxOf s n).phase = .parked → n ≠ s.cur → (me s).answered.contains .home = true →
        resolveArea s p k (me s).asid.toNat .store b.toNat (areaLen s n) = .ok pages →
        let u := saveCtx (noteArea s p (me s).asid.toNat (dieOf s.cur) (isSealed s s.cur) .store b.toNat pages) n b (me s).asid.toNat 2
          (f.md.getLsbD 0) pages
        exec (.csave f) s = .next (lonePass s u (f.pack 0xF2) pops (landS (me s) f.d 0 1)) ∧
        let c := ctxOf u n
        c.phase = .saved ∧ c.area = some b ∧ c.rst = 2 ∧ c.auto = f.md.getLsbD 0 ∧ c.x = (ctxOf s n).x ∧ c.lanes = 0) ∧
      (∀ pages, n = s.cur → (ctxOf s n).phase = .inService → (me s).answered.contains .home = true →
        resolveArea s p k (me s).asid.toNat .store b.toNat (areaLen s n) = .ok pages →
        exec (.csave f) s = .next (saveSelf (lonePass s
          (noteArea s p (me s).asid.toNat (dieOf s.cur) (isSealed s s.cur) .store b.toNat pages) (f.pack 0xF2) pops
          (landS (me s) f.d 0 1)) s.cur b (me s).asid.toNat (f.md.getLsbD 0) pages))) ∧
    (WellFormed (.cload f) = true →
      ((ctxOf s n).phase ≠ .saved → exec (.cload f) s = .next (lonePass s s (f.pack 0xF3) pops (landS (me s) f.d 2 1))) ∧
      (∀ area pages, (ctxOf s n).phase = .saved → (ctxOf s n).area = some area → b = 0 ∨ b = area → (me s).answered.contains .home = true →
        resolveArea s p k (me s).asid.toNat .load area.toNat (areaLen s n) = .ok pages → areaError s area.toNat pages = none →
        imgDword (savedImage s n pages) 0 % 2 ^ 8 = 1 → imgDword (savedImage s n pages) 0 / 2 ^ 16 % 2 ^ 15 = n → ∃ t,
        exec (.cload f) s = .next (lonePass s t (f.pack 0xF3) pops (landS (me s) f.d 0 1)) ∧
        let u := { noteArea s p (me s).asid.toNat (dieOf s.cur) (isSealed s s.cur) .load area.toNat pages with freeCount := s.freeCount + 1 }
        (t = restoreCtx u n (loadRest (ctxOf s n) (savedImage s n pages)) ∨
         t = restoreCtx u n (loadRest (loadCore (ctxOf s n) (savedImage s n pages)) (savedImage s n pages)))))

/-- R53, R54, R61, R194, R195, R253, R254, R255, R256, R262, R375, R382: the events of a spindle's turns. A cycle's turn goes to the first context in
rotation that may be offered it: its turn is counted, the next offer is at least 4 cycles later, SDL.COUNT falls by one and the
bundle that it has fetched is issued. A result lands when it is due; budgets are refilled once every 1,024 cycles; at COUNT 0 a
pending request is to be entered at once, and SERVICE_ENTRY enters the first in the order HALT, SWAP, MSG (R382), its record with
slot 7, its kind and code 0 (R375); the lines that a fetch waits for enter the fetch buffer, once no write lease is held against
them (R194, R195).
(Which event comes next is the agenda's or a free choice: log entry 3. That a HALT too waits for COUNT 0 is a reading: log entry
77.) -/
def Obligations.TurnEvents : Prop :=
  (∀ (s : State) (sp n cyc : Nat) (ns : List Nat) (b : Bundle), cyc = (dieAt s (sp / 384)).cyc → (spinAt s sp).nextCycle ≤ cyc →
    cyc / 1024 ≤ (spinAt s sp).window → rotation s sp = n :: ns → (ctxOf s n).mayOffer ≤ cyc → (ctxOf s n).enterNow = false →
    (ctxOf s n).scOut = 0 → (ctxOf s n).refetch = false → (ctxOf s n).pend = [] → (ctxOf s n).svc = false → (ctxOf s n).held = none →
    fetchBundle s n = .bundle b → ∃ u t, exec (.turnOffer sp) s = .next t ∧
      ctxOf u n = { ctxOf s n with turn := (ctxOf s n).turn + 1, mayOffer := cyc + 4, pc := b.addr
                                   sdl := word ((ctxOf s n).sdl.toNat / 2 ^ 16 % 2 ^ 16 * 65536 + ((ctxOf s n).sdl.toNat % 2 ^ 16 - 1)) } ∧
      otherContexts n s u ∧ sameMemory s u ∧ (spinAt u sp).nextCycle = cyc + 1 ∧ (spinAt u sp).last = n % 16 ∧
      ((issueBundle u n b).1 = false → t = (issueBundle u n b).2)) ∧
  (∀ (s : State) (n i : Nat) (p : Pending), (ctxOf s n).pend[i]? = some p → p.exact = false →
    pushesAfter ((ctxOf s n).pend.take i) p = false → exec (.resultLand n i) s = .next (landOne (modCtx s n fun c => { c with pend := c.pend.eraseIdx i }) n p)) ∧
  (∀ (s : State) (n r : Nat) (v : Word) (p : Pending), p.writes = [.x r v] →
    (∀ k, getX (ctxOf (landOne s n p) n) k = if k = r ∧ k ≠ 0 then v else getX (ctxOf s n) k) ∧
    (ctxOf (landOne s n p) n).fflags = (ctxOf s n).fflags ||| p.ff.setWidth 64 ∧
    (ctxOf (landOne s n p) n).satf = (ctxOf s n).satf ||| p.sf.setWidth 64 ∧ otherContexts n s (landOne s n p)) ∧
  (∀ (s : State) (sp : Nat), (spinAt s sp).window < (dieAt s (sp / 384)).cyc / 1024 → ∃ t, exec (.budgetRefill sp) s = .next t ∧
    (spinAt t sp).window = (dieAt s (sp / 384)).cyc / 1024 ∧
    (∀ k, k < 16 → (ctxOf s (16 * sp + k)).phase ≠ .free → ∀ r, r = (ctxOf s (16 * sp + k)).ebud.toNat / 2 ^ 16 % 2 ^ 16 →
      (ctxOf t (16 * sp + k)).ebud = word (r * 65536 + r) ∧ (Awaits s (16 * sp + k) .budget → (ctxOf t (16 * sp + k)).phase = .live)) ∧
    (∀ n, n / 16 ≠ sp → ctxOf t n = ctxOf s n)) ∧
  (∀ (s : State) (n : Nat), (ctxOf s n).phase = .live →
    ((ctxOf s n).sdl.toNat % 2 ^ 16 = 0 → (ctxOf s n).reqs ≠ [] →
      exec (.serviceDeadline n) s = .next { setCtx s n { ctxOf s n with enterNow := true } with agenda := .ev (.serviceEntry n) :: s.agenda }) ∧
    ((ctxOf s n).enterNow = true →
      (Req.halt ∈ (ctxOf s n).reqs → exec (.serviceEntry n) s = .next (enterService
        (setCtx s n { ctxOf s n with reqs := (ctxOf s n).reqs.erase .halt }) n 6 (word (7 * 2 ^ 20 + 6 * 2 ^ 16)) (ctxOf s n).pc 0 0)) ∧
      (∀ a rest, (ctxOf s n).reqs = .swap a :: rest → Req.halt ∉ rest → exec (.serviceEntry n) s = .next (enterService
        (setCtx s n { ctxOf s n with reqs := rest }) n 4 (word (7 * 2 ^ 20 + 4 * 2 ^ 16)) (ctxOf s n).pc a 0)) ∧
      (∀ a, (ctxOf s n).reqs = [.msg a] → exec (.serviceEntry n) s = .next (enterService
        (setCtx s n { ctxOf s n with reqs := [] }) n 3 (word (7 * 2 ^ 20 + 3 * 2 ^ 16)) (ctxOf s n).pc a 0)))) ∧
  (∀ (s : State) (n pc a : Nat), (ctxOf s n).fetching = true → fetchBundle s n = .wait pc a →
    (fetchWaits s n a = [] → ∃ t, exec (.fetchComplete n) s = .next t ∧ (ctxOf t n).fetching = false ∧
      fetchLine (setWants s (fetchKey n) []) n a ∈ (ctxOf t n).fbuf ∧ (ctxOf t n).x = (ctxOf s n).x ∧
      (ctxOf t n).phase = (ctxOf s n).phase) ∧
    (fetchWaits s n a ≠ [] → exec (.fetchComplete n) s =
      .next (setCtx (setWants s (fetchKey n) (fetchWaits s n a)) n { ctxOf s n with pc := word pc })))

/-- R182, R183, R208, R258, R271, R281, R290, R294, R297, R298, R328, R337: the events that a context waits for. An answer of the home or of
the KV walker runs the held bundle again; an answer of a peer, of the Chuck, a deadline or a usable watched entry wakes the
context; an idle context starts the task that it finds; the oldest waiting claim is granted; a message enters its mailbox
or is refused, and its answer returns; an announced `.sc` event takes effect.
(The reissue of a held bundle, when an `.sc` event may issue, and that a refusal waits for room are the model's: log entries
7, 16 and 59.) -/
def Obligations.AnswerEvents : Prop :=
  (∀ (s : State) (n : Nat) (b : Bundle), (ctxOf s n).held = some b → (spinAt s (n / 16)).dead = false → (ctxOf s n).refetch = false →
    (∀ ls t, Awaits s n (.home ls) → t = (issueBundle (setCtx (setWants (serveFar s n) n []) n
        (rejoined { ctxOf s n with answered := .home :: (ctxOf s n).answered.filter (· != .home) })) n b).2 →
      ((∃ ms, (ctxOf t n).wait = .home ms) → exec (.homeAnswer n) s = .next t) ∧
      ((∀ ms, (ctxOf t n).wait ≠ .home ms) → exec (.homeAnswer n) s = .next (dropRefused t n ls))) ∧
    (∀ a lo hi k, Awaits s n (.leases a lo hi k) →
      (leasesOut s (partOfCtx s n) a lo hi k = true → exec (.homeAnswer n) s = .next s) ∧
      (leasesOut s (partOfCtx s n) a lo hi k = false → exec (.homeAnswer n) s = .next (issueBundle (setCtx s n
        (rejoined { ctxOf s n with answered := .home :: (ctxOf s n).answered.filter (· != .home) })) n b).2)) ∧
    (Awaits s n .kv → exec (.kvWalkAnswer n) s = .next (issueBundle
      (setCtx (setWants s n []) n (rejoined { ctxOf s n with answered := .kv :: (ctxOf s n).answered })) n b).2)) ∧
  (∀ (s : State) (n : Nat),
    (Awaits s n .peer → exec (.peerSpindleAnswer n) s =
      .next (setCtx s n (rejoined { ctxOf s n with answered := .peer :: (ctxOf s n).answered }))) ∧
    (Awaits s n .chuck → exec (.chuckAnswer n) s =
      .next (setCtx (setWants s n []) n
        (rejoined { ctxOf s n with answered := .chuck :: (ctxOf s n).answered.filter (· != .chuck) }))) ∧
    (∀ m d, Awaits s n (.mailbox m (some d)) → d ≤ s.time → exec (.sleepDeadline n) s = .next (setCtx s n (rejoined (ctxOf s n)))) ∧
    (∀ sp pl k u, (spinAt s (n / 16)).dead = false → (ctxOf s n).phase = .parked → (ctxOf s n).idle = .idle → findTask s n true = .found sp pl k →
      u = removeTask (setWants s n []) n sp pl → ∃ t,
      exec (.taskTake n) s = .next t ∧ (ctxOf t n).phase = .live ∧ (ctxOf t n).pc = k.entry &&& ~~~1 ∧ (ctxOf t n).taskn = k.tag ∧
      getX (ctxOf t n) 1 = k.arg ∧ getX (ctxOf t n) 2 = k.cnt ∧ getX (ctxOf t n) 3 = (ctxOf u n).taskn ∧
      getX (ctxOf t n) 4 = 0 ∧ otherContexts n u t)) ∧
  (∀ (s : State) (n : Nat) (k : Claim), oldestWaiter s (n / 128) = some (n, k) → k.floor ≤ k.lanes + freeLanes s (n / 128) → ∃ t x,
    exec (.claimGrant n) s = .next t ∧ (ctxOf t n).claim = some x ∧ x.phase = .held ∧ x.floor = k.floor ∧ x.ceil = k.ceil) ∧
  (∀ (s : State) (sl ea : Nat) (m : Monitor) (n : Nat), m ∈ (sliceAt s sl).monitors → m.ea = ea → (memDword s ea).testBit 0 = true →
    (m.kind = 3 → (memDword s ea).testBit 1 = false) → n ∈ m.waiters → Awaits s n (.monitor sl ea) → ∃ t,
    exec (.monitorWake sl ea) s = .next t ∧ m ∉ (sliceAt t sl).monitors ∧ ctxOf t n = rejoined (ctxOf s n) ∧ t.mem = s.mem) ∧
  (∀ (s : State) (n i : Nat) (f : Flight), arrivable s.flights n = [i] → s.flights[i]? = some f → f.orphan = false → ∃ t st,
    exec (.messageArrive n) s = .next t ∧ t.flights = s.flights.set i { f with answer := some st } ∧
    ((ctxOf s f.dst).phase = .free → st = 6 ∧ t.ctxs = s.ctxs) ∧ ((ctxOf s f.dst).phase = .reaped → st = 5 ∧ t.ctxs = s.ctxs) ∧
    ((ctxOf s f.dst).phase ∉ ([.free, .reaped] : List Phase) →
      (64 ≤ (getMb (ctxOf s f.dst) f.mb).msgs.length → st = 1 ∧ t.ctxs = s.ctxs) ∧
      ((getMb (ctxOf s f.dst) f.mb).msgs.length < 64 → st = 0 ∧
        (getMb (ctxOf t f.dst) f.mb).msgs = (getMb (ctxOf s f.dst) f.mb).msgs ++ [⟨f.p0, f.p1, f.src⟩] ∧ otherContexts f.dst s t))) ∧
  (∀ (s : State) (f : Flight) (st : Nat), s.flights = [f] → f.answer = some st →
    smGet [] s.lag f.dst = [] → (f.waiting = true ∨ st = 0 ∨ (getMb (ctxOf s f.src) f.rmb).refs.length < 16) → ∃ t, exec (.amsendAnswer f.src) s = .next t ∧
    t.flights = [] ∧ otherContexts f.src s t ∧
    (f.waiting = true → Awaits s f.src .answer →
      ctxOf t f.src = rejoined { ctxOf s f.src with answered := .message st :: (ctxOf s f.src).answered }) ∧
    (f.waiting = false → (ctxOf t f.src).sends = (ctxOf s f.src).sends - 1 ∧
      (getMb (ctxOf t f.src) f.rmb).refs = (getMb (ctxOf s f.src) f.rmb).refs ++ (if st = 0 then [] else [⟨f.p0, f.p1, f.dst, st⟩]))) ∧
  (∀ (s : State) (e : ScEvent), scFirst s.scOut = some e → e.sent + 10 ≤ s.time → ∃ t,
    exec .scAnnounceArrive s = .next t ∧ t.scOut = s.scOut.erase e ∧ t.scOrder = s.scOrder ++ [e] ∧
    (∀ n, e.ctx = some n → (ctxOf t n).scOut = (ctxOf s n).scOut - 1))

/-- R144, R145, R150, R154, R189, R218, R219, R226, R228, R230, R305, R306, R331: the events of a tile's lines and queues, and two of the Chuck and
of an ASID. A granted line leaves F; a clean line at its expiry is dropped; a dirty one starts its write-back with a quarter of
its lease left, and when it is accepted its bytes are at its home. The head of a queue starts when its tokens are signalled,
and completes with its effect; a copy delivers its bytes one after the other and then completes; what results of the command's own
bundle have read of its bytes follows (R60). A future's deadline ends it
with TIMEOUT, its sequence fed once no lease stands against it. The sweep of an ASID with no lease out frees it.
(What a command and an M operation of one bundle see of each other is open, byte by byte: log entry 19.) -/
def Obligations.TileEvents : Prop :=
  (∀ (s : State) (tile v : Nat) (l : Line), smFind (tileAt s tile).lines v = some l → isPinned s tile v = false →
    (l.st = .S ∨ l.st = .W → l.expiry ≤ s.time → ∃ t, exec (.leaseExpiry tile v) s = .next t ∧
      smFind (tileAt t tile).lines v = none ∧ sameMemory s t ∧ t.ctxs = s.ctxs) ∧
    (l.st = .D → l.expiry ≤ s.time + l.lease / 4 → ∃ t, exec (.writebackStart tile v) s = .next t ∧
      smFind (tileAt t tile).lines v = some { l with st := .B, flush := false } ∧ sameMemory s t ∧ t.ctxs = s.ctxs) ∧
    (∀ k m, l.st = .B → mapAt (tileAt s tile) (v * 128) = some (k, m) → lineErrs s tile (stashOff m (v * 128)) = [] → s.hostUp = true →
      ∃ t, exec (.writebackAccept tile v) s = .next t ∧
      (∀ i, i < 128 → memByte t (l.home * 128 + i) = stashByte s tile (stashOff m (v * 128) + i)) ∧
      (∀ a, a / 128 ≠ l.home → memByte t a = memByte s a) ∧
      (smFind (tileAt t tile).lines v = if l.flush then some { l with st := .W, flush := false } else none))) ∧
  (∀ (s u : State) (tile v k num : Nat) (l : Line) (m : Mapping) (p : Part) (la : Launch) (locs : List Loc),
    smFind (tileAt s tile).lines v = some l → l.st = .F → mapAt (tileAt s tile) (v * 128) = some (k, m) →
    partAt s ((partOfTile s tile).getD 0) = some p → (tileAt s tile).launch = some num → smFind s.launches num = some la →
    acquireLine s p ⟨(partOfTile s tile).getD 0, tile, la.lasid, 0, l.wr, [v], if l.whole then [v] else []⟩ v m = .ok u locs → ∃ t, exec (.leaseGrant tile v) s = .next t ∧
    t.tiles = u.tiles ∧ t.mem = u.mem ∧ ∃ x, smFind (tileAt t tile).lines v = some x ∧ x.st ≠ .F ∧ s.time < x.expiry) ∧
  (∀ (s : State) (sp q : Nat) (c : Cmd) (cs : List Cmd), (queueAt s sp q).cmds = c :: cs →
    (q < 11 → (queueAt s sp q).running = false → (queueAt s sp q).stop = none → (queueAt s sp q).frozen = false → c.waits = [] →
      (c.nullified = true ∨ (q < 3 ∧ engCheck s c = none) ∨ (3 ≤ q ∧ copyCheck s c = none) →
        exec (.engineCmdStart sp q) s = .next (setQueue s sp q { queueAt s sp q with running := true })) ∧
      (∀ x, c.nullified = false → (q < 3 ∧ engCheck s c = some x) ∨ (3 ≤ q ∧ copyCheck s c = some x) →
        exec (.engineCmdStart sp q) s = .next (stopQueue s sp q x))) ∧
    (q < 3 → (queueAt s sp q).running = true →
      (c.nullified = true → exec (.engineCmdComplete sp q) s = .next (seenBy s (finishHead s sp q) sp q)) ∧
      (c.nullified = false → ∀ key, key = queueKey sp q →
        (∀ u locs, engTry (mateBefore s c) c = .ok u locs →
          exec (.engineCmdComplete sp q) s = .next (seenBy s (finishHead (setWants (mateAfter s u c) key []) sp q) sp q)) ∧
        (c.mate = [] → ∀ u hs, engTry s c = .hold u hs → exec (.engineCmdComplete sp q) s = .next (seenBy s (setWants u key hs) sp q)) ∧
        (∀ x, engTry (mateBefore s c) c = .fault x →
          exec (.engineCmdComplete sp q) s = .next (seenBy s (stopQueue (setWants s key []) sp q x) sp q)))) ∧
    (∀ u : State, (∀ r ∈ (ctxOf u c.ctx).pend, r.mate = none) → seenBy s u sp q = u) ∧
    (3 ≤ q → q < 11 → (queueAt s sp q).running = true →
      (c.nullified = true → exec (.copyComplete sp (q - 3)) s = .next (finishHead s sp q)) ∧
      (∀ u locs, c.nullified = false → c.total ≤ c.done → copyBarrier s c = .ok u locs →
        exec (.copyComplete sp (q - 3)) s = .next (finishHead u sp q)))) ∧
  (∀ (s : State) (c : Cmd) (t k : Nat), t = tileOf c.ctx →
    (opField c.word = 0x8F → k = (ENGF.unpack c.word).c.toNat - 136 → ∃ u, engRun s c = .ok u [] ∧
      (∀ i, smGet 0 (tileAt u t).acc i = if 8192 * k ≤ i ∧ i < 8192 * k + 8192 then 0 else smGet 0 (tileAt s t).acc i) ∧ u.mem = s.mem) ∧
    (∀ r, opField c.word = 0x8E → k = (ENGF.unpack c.word).c.toNat - 128 → smFind (tileAt s t).rings k = some r →
      r.count + ((ENGF.unpack c.word).md.toNat + 1) ≤ r.slots → ∃ u, engRun s c = .ok u [] ∧
      smFind (tileAt u t).rings k = some { r with
        tail := (r.tail + ((ENGF.unpack c.word).md.toNat + 1)) % r.slots, count := r.count + ((ENGF.unpack c.word).md.toNat + 1) } ∧
      u.mem = s.mem)) ∧
  (∀ (s : State) (sp ch : Nat) (c : Cmd) (cs : List Cmd) (e : Eng) (s1 s2 s3 : State) (src dst : Nat), ch < 8 →
    (queueAt s sp (3 + ch)).cmds = c :: cs → (queueAt s sp (3 + ch)).running = true → (queueAt s sp (3 + ch)).frozen = false →
    c.nullified = false → c.done < c.total → e = engOf s c → c.op = 0xB3 → c.saved = [] → c.mate = [] →
    homePlace s e false (c.done == 0) (c.b.toNat + c.done) = .ok s1 [.mem src] → locError s1 [.mem src] false = none → s2 = correct s1 [.mem src] →
    stashPlaces s2 e true (c.wholeLine c.done) (c.a.toNat + c.done) 1 = .ok s3 [.stash e.tile dst none] → locError s3 [.stash e.tile dst none] true = none →
    (∀ r ∈ (ctxOf s3 c.ctx).pend, r.mate = none) → ∃ t,
    exec (.copyDeliver sp ch) s = .next t ∧ stashByte t e.tile dst = memByte s1 src ∧
    (∀ o, o ≠ dst → stashByte t e.tile o = stashByte s3 e.tile o) ∧
    (∃ d, (queueAt t sp (3 + ch)).cmds = d :: ((copyChanAt s3 sp ch).q.cmds.drop 1) ∧ d.done = c.done + 1) ∧
    (copyChanAt t sp ch).addr = (c.a.toNat + c.done + 1) % 2 ^ 57) ∧
  (∀ (s : State) (i : Nat) (f : Fut), futAt s i = some f → f.deadline ≤ s.time → f.alive = true → ∃ t,
    exec (.futureDeadline i) s = .next t ∧
    (f.seq = none → futAt t i = some { f with st := .ended 8 }) ∧
    (∀ n q toks, f.seq = some n → seqAt s n = some q → toks = ((partAt s f.part).map (·.tstring)).getD [] → futAt t i = none ∧
      ∃ r, seqAt t n = some r ∧ r.fut = none ∧ (q.pf.waits s toks.length = [] → r.st = .prefill) ∧
        (q.pf.waits s toks.length ≠ [] → r.st = q.st ∧ (n, toks) ∈ t.feeds))) ∧
  (∀ (s : State) (k a : Nat) (p : Part) (d : Asid), partAt s k = some p → smFind p.asids a = some d → d.st = .retiring →
    leasesOut s k a 0 (2 ^ 57) s.freeCount = false → ∃ t p2, exec (.asidSweepDone k a) s = .next t ∧ partAt t k = some p2 ∧ smFind p2.asids a = none ∧
    (∀ sl ∈ p.conf.slices, ∀ e ∈ (sliceAt t sl).tcache, e.asid ≠ a))

/-- R246, R247, R250, R251, R346, R369, R422, R423, R424: Headstock and partitions. A write of the Faceplate's or of stream A's slots stores
its eight bytes, and a slot that then holds the next sequence number enters its stream, which raises that number by one; the slot
of the next number is examined in its turn, and a slot that finds no room waits. The head command of a stream is done with its acceptance record: HS_NOP at once, HS_LAUNCH with the record copied, HS_MARK once
the earlier launches have ended, HS_PUBLISH with the publish bits set of the lines not stored to since its acceptance. A launch whose record and image pass every check
starts context 0 of each selected spindle; a bad record completes with BADREC; a launch that is over frees its tiles. A
configuration makes an absent partition configuring; cleared, it runs; a reset makes it resetting, a removal absent.
(What an unlisted command and PLEN 0 answer, and what the end of a launch drops, are the model's choice: log entry 33; of a
partition reset: log entry 34.) -/
def Obligations.HeadstockEvents : Prop :=
  (∀ (s : State) (k : Nat) (p : Part), running s k = some p →
    (∀ off v, k < 8 → 6 ≤ s.boot.step → s.boot.recovery = false → off < 2 ^ 16 → off % 8 = 0 →
      exec (.faceplateSlotWrite k off v) s =
        .next (acceptH (setPart s k { p with fp := smSetList 0 p.fp off (leBytes 8 v.toNat) }) k (off / 64))) ∧
    (p.fpHeld = [] → exec (.faceplateAccept k) s = .next (acceptH s k (p.fpnext.toNat % 1024))) ∧
    (∀ i slot, slot = slotDwords p.fp 1024 i →
      (slot.getD 7 0 ≠ p.fpnext → acceptH s k i = setPart s k { p with fpHeld := p.fpHeld.erase i }) ∧
      (slot.getD 7 0 = p.fpnext → p.linkPhase = .up ∧ p.streamH.length < 64 →
        partAt (acceptH s k i) k = some { p with streamH := p.streamH ++ [.cmd slot], fpnext := p.fpnext + 1, fpHeld := [] } ∧
        (acceptH s k i).agenda = .ev (.faceplateAccept k) :: s.agenda) ∧
      (slot.getD 7 0 = p.fpnext → ¬ (p.linkPhase = .up ∧ p.streamH.length < 64) →
        acceptH s k i = setPart s k { p with fpHeld := putId i p.fpHeld })) ∧
    (∀ core off v, partOfCore s core = some k → (agentAt s core).dead = false → 2 ^ 15 ≤ off → off < 2 ^ 16 → off % 8 = 0 →
      exec (.streamASlotWrite core off v) s =
        .next (acceptAllA 65 (setPart s k { p with ap := smSetList 0 p.ap (off - 2 ^ 15) (leBytes 8 v.toNat) }) k ((off - 2 ^ 15) / 64))) ∧
    (∀ m i slot, slot = slotDwords p.ap 512 i →
      (slot.getD 7 0 ≠ p.apnext → acceptAllA (m + 1) s k i = setPart s k { p with apHeld := p.apHeld.erase i }) ∧
      (slot.getD 7 0 = p.apnext → p.streamA.length < 64 →
        partAt (acceptA s k i) k = some { p with streamA := p.streamA ++ [.cmd slot], apnext := p.apnext + 1, apHeld := [] } ∧
        acceptAllA (m + 1) s k i = acceptAllA m (acceptA s k i) k ((p.apnext + 1).toNat % 512)) ∧
      (slot.getD 7 0 = p.apnext → 64 ≤ p.streamA.length →
        acceptAllA (m + 1) s k i = setPart s k { p with apHeld := putId i p.apHeld })) ∧
    (∀ st slot rest opc, p.stream st = .cmd slot :: rest → (st = .H → p.linkPhase = .up) →
      leasedLines s (caddrOf s slot) 16 true = [] → cmdOk slot = true → opc = (slot.getD 0 0).toNat →
      (opc = 0 → exec (.hsNop k st) s = .next (doneCmd s k p st slot 0 [])) ∧
      (∀ r, opc = 1 → leasedLines s (slot.getD 1 0).toNat 128 false = [] →
        readRecord s p k (slot.getD 1 0).toNat = some r → exec (.hsLaunch k st) s =
          .next (correctLines (doneCmd s k p st slot 0 [.launch r]) [(slot.getD 1 0).toNat / 128, ((slot.getD 1 0).toNat + 127) / 128])) ∧
      (opc = 2 → (∀ e ∈ s.launches, e.2.part = k → e.2.stream ≠ st) → exec (.hsMark k st) s = .next (doneCmd s k p st slot 0 [])) ∧
      (∀ a n, opc = 3 → a = (slot.getD 1 0).toNat → n = (slot.getD 2 0).toNat → ownsPa s p (a + n - 1) = true →
        (∀ l ∈ physLines a n, ownsPa s p (128 * l) = true) →
        ∀ u p2, u = s.tiles.foldl (fun s t => writeBackHomes s t.1 (physLines a n)) s → partAt u k = some p2 →
        exec (.hsPublish k st) s = .next (doneCmd (publishLines u ((pubLines u k st (slot.getD 7 0).toNat a n).map (128 * ·))) k p2 st slot 0 []))) ∧
    (∀ st seq a n, pubLines s k st seq a n = (physLines a n).filter fun l =>
      !((s.publishing.find? fun m => m.part == k && m.stream == st && m.seq == seq).any fun m => m.stored.contains l)) ∧
    (∀ st slot rest opc h hs, p.stream st = .cmd slot :: rest → (st = .H → p.linkPhase = .up) → opc = (slot.getD 0 0).toNat → opc ≤ 3 →
      leasedLines s (caddrOf s slot) 16 true = h :: hs → ∀ i ∈ ([(.hsNop k st, 0), (.hsLaunch k st, 1), (.hsMark k st, 2), (.hsPublish k st, 3)] :
        List (Instr × Nat)), opc = i.2 → exec i.1 s = .next (setWants s (hsKey k st) (h :: hs))) ∧
    (∀ st r rest, p.stream st = .launch r :: rest → (st = .H → p.linkPhase = .up) →
      (badRecord r = true → ∀ t, complete s k r 1 = .ok t →
        exec (.launchStart k st) s = .next (modPart (setWants t (hsKey k st) []) k fun x => setStream x st rest)) ∧
      (badRecord r = false → tilesOk s p r = false → ∀ t, complete s k r 2 = .ok t →
        exec (.launchStart k st) s = .next (modPart (setWants t (hsKey k st) []) k fun x => setStream x st rest)) ∧
      (∀ im, badRecord r = false → tilesOk s p r = true → (∀ t ∈ recTiles r, (tileAt s t).launch = none) → readImage s p k r = .ok im →
        exec (.launchStart k st) s = .next
          (startLaunch (modPart (setWants (imageRead s p k r) (hsKey k st) []) k fun x => setStream x st rest) k st r im)) ∧
      (∀ d0 t, badRecord r = false → tilesOk s p r = true → (∀ t ∈ recTiles r, (tileAt s t).launch = none) → readImage s p k r = .fail d0 →
        complete (imageRead s p k r) k r d0 = .ok t →
        exec (.launchStart k st) s = .next (modPart (setWants t (hsKey k st) []) k fun x => setStream x st rest)) ∧
      (∀ hs, badRecord r = false → tilesOk s p r = true → (∀ t ∈ recTiles r, (tileAt s t).launch = none) → readImage s p k r = .wait hs →
        exec (.launchStart k st) s = .next (setWants s (hsKey k st) hs)))) ∧
  (∀ (u : State) (k n : Nat) (st : Stream) (r : List Word) (im : Image4), n / 128 ∈ recTiles r → n % 16 = 0 →
    (recMask r).testBit (n / 16 % 8) = true →
    let t := startLaunch u k st r im
    (ctxOf t n).phase = .live ∧ (ctxOf t n).pc = im.entry &&& ~~~1 ∧ getX (ctxOf t n) 1 = r.getD 1 0 ∧ (ctxOf t n).p = 0 ∧
    (tileAt t (n / 128)).launch = some u.launchNext ∧ (tileAt t (n / 128)).maps = [] ∧ (tileAt t (n / 128)).acc = [] ∧
    (tileAt t (n / 128)).dsize = im.dict.length ∧ sameMemory u t) ∧
  (∀ (s u : State) (num : Nat) (l : Launch), smFind s.launches num = some l → launchOver s l = true → l.sealed = false →
    complete (l.tiles.foldl dropLines s) l.part l.recd (if l.killed then 6 else 0) = .ok u →
    exec (.launchEnd num) s =
      .next { l.tiles.foldl freeTile (setWants u (hsKey l.part l.stream) []) with launches := smDel u.launches num }) ∧
  (∀ (s : State) (k : Nat) (c : PartConf), k < 8 → 6 ≤ s.boot.step → s.boot.recovery = false →
    (partAt s k = none → confOk s c = true → ∃ t, exec (.partitionConfigure k c) s = .next t ∧
      partAt t k = some { st := .configuring, conf := c, windows := smGet [] s.preWindows k, fp := smGet [] s.preFp k } ∧ t.mem = s.mem) ∧
    (∀ off v, partAt s k = none → off < 2 ^ 16 → off % 8 = 0 → exec (.faceplateSlotWrite k off v) s =
      .next { s with preFp := smSet [] s.preFp k (smSetList 0 (smGet [] s.preFp k) off (leBytes 8 v.toNat)) }) ∧
    (confOk s c = false → exec (.partitionConfigure k c) s = .next { s with replies := s.replies ++ [.refused] })) ∧
  (∀ (s : State) (k : Nat) (p : Part), partAt s k = some p →
    (p.st ≠ .running → ∃ t, exec (.partitionClearDone k) s = .next t ∧ partAt t k = some { p with st := .running, asids := [] } ∧
      (∀ tile ∈ p.conf.tiles, (∀ n, n / 128 = tile → ctxOf t n = Ctx.empty) ∧ (tileAt t tile).stash = [] ∧ (tileAt t tile).acc = []) ∧
      (∀ sl ∈ p.conf.slices, (sliceAt t sl).tcache = [] ∧ (sliceAt t sl).monitors = []) ∧
      (∀ a, p.st = .configuring → onChannels s (newChannels s k p.conf) a = true → memByte t a = 0)) ∧
    (p.st = .running → (s.launches = [] → s.futs = [] → ∃ t p2, exec (.partitionReset k) s = .next t ∧ partAt t k = some p2 ∧
        p2.st = .resetting ∧ p2.streamH = [] ∧ p2.tools = [] ∧ ∀ a d, smFind p2.asids a = some d → d.st = .retiring) ∧
      (∃ t, exec (.partitionRemove k) s = .next t ∧ partAt t k = none)) ∧
    (∀ d : List Byte, p.st = .running → d.length = 64 → exec (.measExtend k d) s =
      .next { s with meas := smSet 0 s.meas (8 + k) (Config.sha3 (leBytes 64 (smGet 0 s.meas (8 + k)).toNat ++ d))
                     replies := s.replies ++ [.status 0] }))

/-- R368, R370, R371, R406, R410, R411, R414, R415, R416, R417, R418, R430, R431, R432: the device as a whole. A device reset keeps the fuses, the
images, the memory of the host and of other devices and the answers that left, zeroes the device's own, and boots; an image that fails its checks, or a memory, port or link that does not train, leaves it in recovery
boot, where an acceptable image boots it again. Reports, the power limit and the clocks answer and change as written. A unit that misses its
heartbeats is dead, and posted; loss walks, the scrub, the error block, lost links and dead spindles act as written.
(Boot in one step, an image that boots again and the launches that a dead tile ends are the model's: log entries 35, 36 and 62;
whether training succeeds is free: log entry 105.) -/
def Obligations.DeviceEvents : Prop :=
  (∀ (s : State), (∃ t, exec .deviceReset s = .next t ∧ t.boot.rooth = s.boot.rooth ∧ t.boot.secret = s.boot.secret ∧
      t.boot.images = s.boot.images ∧ t.ctxs = [] ∧ t.launches = [] ∧
      t.mem = (zeroChannels s allChannels).mem ∧
      (runImage (bareDevice s) 0 = none ∨ Config.trained s.freeCount = false ∨ Config.trained (s.freeCount + 1) = false → t.boot.recovery = true)) ∧
    (∀ i, s.boot.recovery = true → ∃ t, exec (.managementMailboxImage i) s = .next t ∧
      t.boot.images = (if imageOk s i = true then i :: (s.boot.images.filter fun x => x.cls != i.cls) else s.boot.images)) ∧
    (∀ i, s.boot.recovery = false → exec (.managementMailboxImage i) s = .next { s with replies := s.replies ++ [.refused] }) ∧
    (∀ scope nonce, 6 ≤ s.boot.step → s.boot.recovery = false → nonce.length = 64 →
      exec (.attestReport none scope nonce) s = .next { s with replies := s.replies ++
        [.bytes (reportBody s scope nonce ++ fixedBytes 4627 (Config.aliasSign (aliasSeed s) (reportBody s scope nonce)))] } ∧
      (s.boot.aliasKey.length = 2592 → (reportBody s scope nonce).length = 3096) ∧
      (∀ k, scope ≠ k + 1 → exec (.attestReport (some k) scope nonce) s = .next { s with replies := s.replies ++ [.status 5] }))) ∧
  (∀ (s : State) (d : Nat), ((dieAt s d).stretched = false → ∀ i ∈ ([.supplySag d, .railCurrentLimit d] : List Instr), ∃ t,
      exec i s = .next t ∧ dieAt t d = { dieAt s d with stretched := true, events := min ((dieAt s d).events + 1) 0xFFFFFFFF }) ∧
    (∃ t, exec (.supplyRecover d) s = .next t ∧ dieAt t d = { dieAt s d with stretched := false })) ∧
  (∀ (s : State) (w : Word) (mhz : Nat),
    exec (.powerLimitWrite w) s = .next { s with watts := min (max (w.toNat % 4096) 1500) Config.fusedWatts, lim := s.lim && !w.getLsbD 31 } ∧
    (mhz % 25 = 0 → mhz ≤ 2400 →
      (s.fclk < mhz → exec (.powerClockAdjust mhz) s = .next { s with fclk := mhz }) ∧
      (mhz < s.fclk → ∃ t, exec (.powerClockAdjust mhz) s = .next t ∧ t.fclk = mhz ∧ t.lim = true))) ∧
  (∀ (s : State) (u k : Nat),
    (u < 96 → (agentAt s u).dead = false → ∃ t, exec (.heartbeatMiss UnitKind.agentCore u) s = .next t ∧ (agentAt t u).dead = true ∧
      t.lossWalks = s.lossWalks ++ (match partOfCore s u with | some k => [(k, UnitKind.agentCore, u, s.time)] | none => [])) ∧
    (u < 192 → (tileAt s u).launch = none → (tileAt s u).dead = false → ∃ t, exec (.heartbeatMiss .tile u) s = .next t ∧
      (tileAt t u).dead = true ∧ (tileAt t u).lines = []) ∧
    (∀ num la, u < 192 → (tileAt s u).dead = false → (tileAt s u).launch = some num → smFind s.launches num = some la → ∃ t lb,
      exec (.heartbeatMiss .tile u) s = .next t ∧ (tileAt t u).dead = true ∧ smFind t.launches num = some lb ∧ lb.killed = true) ∧
    (∀ kind, unitDead s kind u = true → exec (.heartbeatMiss kind u) s = .next s) ∧
    (u < 1536 → (spinAt s u).dead = false → ∃ t, exec (.heartbeatMiss .spindle u) s = .next t ∧ (spinAt t u).dead = true ∧ t.ctxs = s.ctxs) ∧
    (∀ p, u < 256 → (sliceAt s u).dead = false → partOfUnit s .slice u = some k → partAt s k = some p → p.st = .running → ∃ t q,
      exec (.heartbeatMiss .slice u) s = .next t ∧ (sliceAt t u).dead = true ∧ partAt t k = some q ∧ q.st = .resetting) ∧
    exec (.heartbeatMiss .linkChuckHeadstockDmc u) s = exec .deviceReset s ∧
    (∀ kind w, (s.lossWalks.find? fun w => w.1 == k && w.2.1 == kind && w.2.2.1 == u) = some w →
      ∃ t, exec (.lossWalkEnd k kind u) s = .next t ∧ t.lossWalks = s.lossWalks.erase w) ∧
    ((spinAt s u).dead = true → (spinAt s u).retired = false →
      (∃ t, exec (.spreset u) s = .next t ∧ (spinAt t u).deque = [] ∧ (spinAt t u).retired = (spinAt t u).dead ∧
        (∀ i, i < 16 → ((spinAt t u).dead = false → (ctxOf t (16 * u + i)).phase = .free) ∧ ended (ctxOf t (16 * u + i)) = true)) ∧
      (∃ t, exec (.spretire u) s = .next t ∧ (spinAt t u).retired = true ∧
        (∀ i, i < 16 → ended (ctxOf t (16 * u + i)) = true ∧ (ctxOf t (16 * u + i)).mb = [] ∧
          ((ctxOf s (16 * u + i)).phase = .reaped → (ctxOf t (16 * u + i)).phase = .reaped)) ∧
        (∀ num la, ended (ctxOf s (16 * u)) = false → (tileAt s (u / 8)).launch = some num → smFind s.launches num = some la →
          ∃ lb, smFind t.launches num = some lb ∧ lb.killed = true)))) ∧
  (∀ (s : State) (k b : Nat) (p : Part) (w : Word), partAt s k = some p →
    (ownerOf s (64 * b) = some k → ∃ t, exec (.patrolScrub b) s = .next t ∧ (∀ e ∈ t.cerrs, e.1 / 8 ≠ b) ∧ t.mem = s.mem ∧
      (scrubBad s b = true → ∃ p2, partAt t k = some p2 ∧ p2.uecnt = sat32 (p.uecnt + 1))) ∧
    (∀ line own, line = w.toNat / 2 ^ 7 % 2 ^ 50 → own = DevWrite.mk k (128 * line) (List.replicate 128 0) true →
      (line ∉ p.loss → exec (.llclrWrite k w) s = .next (setPart s k { p with llclr := word (128 * line) })) ∧
      (line ∈ p.loss → s.hostUp = true → s.devWrites = [] ∧ homeConflict s line true = false → ∃ t, exec (.llclrWrite k w) s = .next t ∧
        (∀ i, i < 128 → memByte t (128 * line + i) = 0) ∧ (∀ a, a / 128 ≠ line → memByte t a = memByte s a) ∧
        ∃ p2, partAt t k = some p2 ∧ p2.loss = p.loss.erase line ∧ p2.llclr = word (128 * line)) ∧
      (line ∈ p.loss → ¬ (s.devWrites = [] ∧ homeConflict s line true = false) → ∃ t, exec (.llclrWrite k w) s = .next t ∧
        t.devWrites = s.devWrites ++ [own] ∧ t.mem = s.mem)) ∧
    (w.toNat % 2 ^ 16 = 0 → ∀ blk, blk = p.fmta.toNat / 2 ^ 6 % 2 ^ 51 → ownsPa s p (64 * blk) = true → blockBad s blk = false → ∃ t,
      exec (.fmtcWrite k w) s = .next t ∧ smGet 0 t.ctag blk = w.toNat / 2 ^ 16 % 4 % 3 ∧ t.mem = s.mem) ∧
    (s.hostUp = false → p.linkPhase = .held → s.hostLost + 1000000 * p.hlhold ≤ s.time → (∀ e ∈ s.hostHeld, e.part ≠ k) →
      exec (.hostHoldExpiry k) s = .next (setPart { s with hostHeld := s.hostHeld.filter fun e => e.part != k } k { p with linkPhase := .discarded }))) ∧
  (∀ (s : State) (port d : Nat) (devs : List Nat),
    (port < 18 → d ∈ devs → d ∈ s.dom.present → ∃ t, exec (.etfenLinkDown port devs) s = .next t ∧ d ∈ t.dom.unreachable ∧
      port ∈ t.dom.downPorts) ∧
    (∃ t, exec (.etfenRouteReturn d) s = .next t ∧ d ∉ t.dom.unreachable ∧ ∀ e, e ≠ d → (e ∈ t.dom.unreachable ↔ e ∈ s.dom.unreachable))) ∧
  (∀ (s : State), (s.hostUp = true → ∃ t, exec .hostLinkLoss s = .next t ∧ t.hostUp = false ∧ t.hostLost = s.time) ∧
    (s.hostUp = false → s.hostHeld = [] → ∃ t, exec .hostLinkRecover s = .next t ∧ t.hostUp = true))

/-- R203, R204, R205, R345, R351, R352, R367, R380, R396, R401, R403, R420: requests from outside. Each operation over Learo on a
context that is neither sealed, lost, free nor reaped, on a queue or on a tile's stash that is not sealed, has its effect
and an answer; a host's access within the ranges of a partition's HDM decoder, or another device's access to memory of a partition,
reads or writes it; a host window that is set sheds the lines of the range removed; an agent core's access, to memory or to the
control block (R421), and register write act as its mode and capabilities admit.
(The statuses of requests that the rules give none are the model's choice: log entry 32; the trap registers of an agent core are
the family's: log entry 8.) -/
def Obligations.RequestEvents : Prop :=
  (∀ (s : State) (n : Nat) (c : Ctx) (a : Word), c = ctxOf s n → isSealed s n = false → (spinAt s (n / 16)).dead = false →
    let done (t : State) : State := { t with replies := t.replies ++ [.status 0] }
    (∀ i ∈ ([.learoHalt n, .learoKill n, .learoMsg n a, .learoSwap n a, .learoResume n, .learoStep n] : List Instr),
      (c.phase = .free → exec i s = .next { s with replies := s.replies ++ [.status 6] }) ∧
      (c.phase = .reaped → exec i s = .next { s with replies := s.replies ++ [.status 5] })) ∧
    (c.phase = .live → c.reqs = [] →
      exec (.learoHalt n) s = .next (done (setCtx s n { c with reqs := [.halt] })) ∧
      exec (.learoMsg n a) s = .next (done (setCtx s n { c with reqs := [.msg a] })) ∧
      exec (.learoSwap n a) s = .next (done (setCtx s n { c with reqs := [.swap a] }))) ∧
    (c.phase = .parked ∨ c.phase = .inService → c.byNested = false → c.reqs = [] → (∀ k, c.claim = some k → k.reclaim = false) →
      (c.halted = true ∨ c.byPark = true → exec (.learoResume n) s =
        .next (done (modCtx (returnFrom s n (c.wait != .service true)) n fun c => { c with step := false }))) ∧
      (c.halted = true → c.byPark = false → exec (.learoStep n) s =
        .next (done (modCtx (returnFrom s n (c.wait != .service true)) n fun c => { c with step := true }))) ∧
      (c.halted = false → c.byPark = false → ∀ i ∈ ([.learoResume n, .learoStep n] : List Instr),
        exec i s = .next { s with replies := s.replies ++ [.status 2] })) ∧
    (c.byPark = true ∨ c.byNested = true → exec (.learoStep n) s = .next { s with replies := s.replies ++ [.status 2] }) ∧
    (c.byNested = true → c.halted = true → exec (.learoResume n) s = .next (done (setCtx s n { c with halted := false, step := false }))) ∧
    (c.phase = .saved → c.halted = true →
      exec (.learoResume n) s = .next (done (setCtx s n { c with halted := false, step := false })) ∧
      exec (.learoStep n) s = .next (done (setCtx s n { c with halted := false, step := true }))) ∧
    (c.phase ∉ ([.free, .reaped] : List Phase) → exec (.learoKill n) s = .next (done (killTarget s n))) ∧
    (∀ on, exec (.learoDbgen n on) s = .next (done (setCtx s n { c with dbg := on }))) ∧
    (∀ x, selOf a = some x → c.phase = .parked ∨ c.phase = .inService → x.space ≠ 7 →
      (selOk c x false = true → exec (.learoRdctx n a) s = .next { s with replies := s.replies ++ [.words 0 [selRead s n x]] }) ∧
      (∀ w, selOk c x true = true → exec (.learoWrctx n a w) s = .next (done (selWrite s n x w))))) ∧
  (∀ (s : State) (t sp q off len : Nat) (data : List Byte), isSealed s (128 * t) = false → sp / 8 = t → q < 11 →
    let done (u : State) : State := { u with replies := u.replies ++ [.status 0] }
    (∃ u, exec (.learoFreeze t) s = .next u ∧ (queueAt u sp q).frozen = true ∧ (queueAt u sp q).cmds = (queueAt s sp q).cmds) ∧
    (∃ u, exec (.learoThaw t) s = .next u ∧ (queueAt u sp q).frozen = false ∧ (queueAt u sp q).cmds = (queueAt s sp q).cmds) ∧
    exec (.learoRdq sp q) s = .next { s with replies := s.replies ++ [.words 0 ((List.range 5).map (stopDword s sp q))] } ∧
    ((queueAt s sp q).stop ≠ none →
      exec (.learoRestart sp q) s = .next (done (setQueue s sp q { queueAt s sp q with stop := none, running := false })) ∧
      exec (.learoSkip sp q) s = .next (done (finishHead s sp q))) ∧
    ((queueAt s sp q).stop = none → ∀ i ∈ ([.learoRestart sp q, .learoSkip sp q] : List Instr),
      exec i s = .next { s with replies := s.replies ++ [.status 2] }) ∧
    (off + len ≤ 2 ^ 22 → exec (.learoRdstash t off len) s = .next { s with replies := s.replies ++ [.bytes (stashBytes s t off len)] }) ∧
    (off + data.length ≤ 2 ^ 22 → ∃ u, exec (.learoWrstash t off data) s = .next u ∧
      ∀ i, i < data.length → stashByte u t (off + i) = data.getD i 0)) ∧
  (∀ (s : State) (addr n : Nat) (data : List Byte) (k : Nat) (p : Part) (pas : List Nat), s.parts = [(k, p)] → s.hostUp = true →
    s.errs = [] → s.serrs = [] → s.cerrs = [] → s.scerrs = [] → pas = (List.range n).map (fun i => localPa s (addr + i)) → data.length = n →
    (∀ a ∈ pas, ownsPa s p a = true ∧ inHdm p (paLocal a) = true ∧ a / 128 ∉ p.loss ∧ homeConflict s (a / 128) false = false ∧ homeConflict s (a / 128) true = false) →
    s.hostQueue = [] → s.remoteQueue = [] →
    exec (.hostAccess ⟨false, addr, n, []⟩) s =
      .next (setWants { s with replies := s.replies ++ [.bytes (pas.map (memByte s))], hostQueue := [] } 90002 []) ∧
    (∃ t, exec (.hostAccess ⟨true, addr, n, data⟩) s = .next t ∧ (∀ i, i < n → memByte t (localPa s (addr + i)) = data.getD i 0) ∧
      (∀ a, a ∉ pas → memByte t a = memByte s a)) ∧
    (∀ dev, p.st = .running → s.dom.devnum ≠ none → dev ∉ s.dom.unreachable → dev ∉ s.dom.fenced →
      targetCheck s p k .load (pas.map fun a => (0, a)) = none →
      exec (.etfenRequest ⟨dev, k, .read, addr, n, []⟩) s =
        .next (setWants { s with replies := s.replies ++ [.bytes (pas.map (memByte s))], remoteQueue := [] } 90003 []))) ∧
  (∀ (s : State) (r : HostReq), s.hostUp = true → s.hostQueue = [] →
    (hostWaits s r ≠ [] → exec (.hostAccess r) s = .next (setWants { s with hostQueue := [r] } 90002 (hostWaits s r))) ∧
    (hostWaits s r = [] → (∀ e ∈ s.parts, ∃ a ∈ localBytes s r.addr (if r.write then r.data.length else r.len),
        ¬ (ownsPa s e.2 a = true ∧ ∃ h ∈ e.2.conf.hdm, h.1 ≤ paLocal a ∧ paLocal a < h.1 + h.2)) →
      exec (.hostAccess r) s = .next (setWants { s with replies := s.replies ++ [.refused], hostQueue := [] } 90002 []))) ∧
  (∀ (s : State) (k w base size : Nat) (rd wr : Bool) (win : Window), w < 16 → k < 8 → base % 4096 = 0 → size % 4096 = 0 →
    booted s 6 = true → win = (if size = 0 ∨ (rd = false ∧ wr = false) then ⟨0, 0, false, false⟩ else ⟨base, size, rd, wr⟩) →
    (∀ p, partAt s k = some p →
      -- a line that no window holds any more
      let gone (q : Part) (line : Nat) : Bool := isHost (paLocal (128 * line)) && !inWindows q.windows (paLocal (128 * line) - 2 ^ 43)
      ∃ t q, exec (.hostWindowWrite k w base size rd wr) s = .next t ∧ partAt t k = some q ∧ q.conf = p.conf ∧ q.st = p.st ∧
        q.windows = smSet ⟨0, 0, false, false⟩ p.windows w win ∧
        (∀ tile ∈ p.conf.tiles, ∀ v l, smFind (tileAt t tile).lines v = some l → l.st ≠ .F → gone q l.home = false) ∧
        (∀ c ∈ p.conf.cores, ∀ e ∈ (agentAt t c).l2, gone q e.1 = false) ∧ (∀ i ∈ t.ilines, i.part = k → gone q i.home = false) ∧
        (s.serrs = [] → ∀ a, gone q (a / 128) = false → memByte t a = memByte s a) ∧
        (s.serrs = [] → s.hostUp = true → ∀ tile v l n m, p.conf.tiles = [tile] → (tileAt s tile).lines = [(v, l)] →
          mapAt (tileAt s tile) (v * 128) = some (n, m) → l.st = .D ∨ l.st = .B → gone q l.home = true →
          ∀ i, i < 128 → memByte t (l.home * 128 + i) = stashByte s tile (stashOff m (v * 128) + i))) ∧
    (partAt s k = none → exec (.hostWindowWrite k w base size rd wr) s = .next { s with
      preWindows := smSet [] s.preWindows k (smSet ⟨0, 0, false, false⟩ (smGet [] s.preWindows k) w win) })) ∧
  (∀ (s : State) (k pnum num : Nat) (p : Part) (w : Word), (agentAt s k).dead = false → partOfCore s k = some pnum → partAt s pnum = some p →
    (0x5C0 ≤ num → num < 0x5C9 → (agentAt s k).mode = .M ∨ (agentAt s k).mode = .HS →
      exec (.registerWrite (.csr k num) w) s = .next (setAgent s k (retire (csrWrite (agentAt s k) num w) 4))) ∧
    (0x5C0 ≤ num → num < 0x5C9 → (agentAt s k).mode ≠ .M → (agentAt s k).mode ≠ .HS →
      exec (.registerWrite (.csr k num) w) s = .next (setAgent s k
        (trapCore (agentAt s k) { cause := if (agentAt s k).mode = .VS ∨ (agentAt s k).mode = .VU then 22 else 2 }))) ∧
    (∀ c, csrFault (agentAt s k) num true = some c →
      exec (.registerWrite (.csr k num) w) s = .next (setAgent s k (trapCore (agentAt s k) { cause := c }))) ∧
    exec (.registerWrite (.controlByHost pnum 0x20) w) s = .next (setPart s pnum { p with mrhead := w }) ∧
    exec (.registerWrite (.controlByCore k 0x1030) w) s = .next (setPart s pnum { p with cecnt := w.toNat % 2 ^ 32 }) ∧
    (∀ (u : State) (va rd n : Nat), u = farGone s k → coreWaits s k = false → va < 2 ^ 64 →
      let load : Instr := .agentAccess k ⟨.load, word va, n, [], rd, false, false⟩
      (∀ pas reads, rd ≠ 0 → agentCheck u (agentAt u k) pnum p va n 1 = .ok pas reads → coreHolds u k pnum pas false = [] →
        s.errs = [] → s.serrs = [] → s.cerrs = [] → s.scerrs = [] → (agentAt s k).l2Errs = [] → (agentAt s k).l2Fixed = [] → ∃ t,
        exec load s = .next t ∧ agX (agentAt t k) rd = word (leNat (pas.map (coreByte s ⟨pnum, p, pas⟩))) ∧
        (agentAt t k).pc = (agentAt s k).pc + 4 ∧ t.mem = s.mem) ∧
      (∀ e, agentCheck u (agentAt u k) pnum p va n 1 = .trap e → exec load s = .next (coreTrap u k e)) ∧
      (∀ hs, agentCheck u (agentAt u k) pnum p va n 1 = .wait hs → exec load s = .next (setWants u (coreKey k) hs)) ∧
      (∀ pas reads h hs, agentCheck u (agentAt u k) pnum p va n 1 = .ok pas reads → coreHolds u k pnum pas false = h :: hs →
        exec load s = .next (setWants u (coreKey k) (h :: hs))))) ∧
  (∀ (s : State) (a : Nat) (x : Found), coreByte s x a =
    match controlOffset s x.pnum a with
    | some off => BitVec.ofNat 8 ((controlRead s x.p (off / 8 * 8)).toNat / 2 ^ (8 * (off % 8)))
    | none => memByte s a)

/-- R354, R355, R356, R357, R358, R359, R360, R361, R362, R363, R421, R428: the Xmerf instructions of a core whose mode admits them.
In M-mode and HS-mode, and in U-mode and with V = 1 when its enable is 1, each returns its status or value in rd and goes on at the
next word; in U-mode and with V = 1 one whose enable is 0, and `sq.ctl` and `sq.cfg` always, raise illegal instruction or virtual
instruction. A buffer lies in memory or in the partition's control block. `cap.probe` tells the lowest entry that admits the byte.
(The trap registers of an agent core are the family's: log entry 8.) -/
def Obligations.XmerfResults : Prop :=
  ∀ (s : State) (f : RTy) (k pnum : Nat) (p : Part) (A : Agent) (r1 r2 : Nat), k = s.curCore → A = agentAt s k → A.dead = false →
    partOfCore s k = some pnum → partAt s pnum = some p → r1 = (agX A f.rs1.toNat).toNat → r2 = (agX A f.rs2.toNat).toNat →
    let all : List (Instr × BitVec 7 × Option Nat) := [(.futTake f, 0, some 0), (.futDone f, 1, some 1), (.futFail f, 2, some 2),
      (.futExt f, 3, some 3), (.sqPeek f, 4, some 4), (.sqCtlCreate f, 5, none), (.sqCtlRetire f, 5, none), (.sqCtlFree f, 5, none),
      (.sqCtlAdpres f, 5, none), (.sqCtlPush f, 5, none), (.sqCtlOutack f, 5, none), (.sqCfgCallTokenRange f, 6, none),
      (.sqCfgCto f, 6, none), (.sqCfgTimeoutString f, 6, none), (.sqCfgFailureString f, 6, none), (.sqCfgXmax f, 6, none),
      (.sqCfgKvrt f, 6, none), (.sqCfgUecen f, 6, none), (.capProbe f, 7, some 7)]
    (A.mode ≠ .M → A.mode ≠ .HS → ∀ row ∈ all, (∀ e, row.2.2 = some e → A.xfuten.getLsbD e = false) →
      exec row.1 s = .next (setAgent s k (trapCore A
        { cause := if A.mode = .VS ∨ A.mode = .VU then 22 else 2, tval := (f.pack row.2.1).toNat }))) ∧
    (let ret (t : State) (w : Word) : Host.Outcome State Fault Refusal := .next (coreDone t k f.rd.toNat w)
     let high : Prop := A.mode = .M ∨ A.mode = .HS
     -- the mode admits the instruction whose enable is bit e of xfuten
     let may (e : Nat) : Prop := high ∨ A.xfuten.getLsbD e = true
     -- no lease holds the lines of a buffer
     let open' (wr : Bool) (pas : List Nat) : Prop := coreHolds s k pnum pas wr = []
     let sound : Prop := s.errs = [] ∧ s.serrs = [] ∧ s.cerrs = [] ∧ s.scerrs = [] ∧ A.l2Errs = []
     let got (pas : List Nat) : List Byte := pas.map (coreByte s ⟨pnum, p, pas⟩)
     -- n bytes at va that the core may read, at pas
     let reads (va n : Nat) (pas : List Nat) : Prop :=
       (n = 0 ∧ pas = []) ∨ (0 < n ∧ open' false pas ∧ ∃ walked, agentCheck s A pnum p va n 1 = .ok pas walked)
     (high → ∀ row ∈ ([(.sqCfgCto f, 1, decide (1 ≤ r2) && decide (r2 < 2 ^ 40), { p with cto := r2 }),
          (.sqCfgCallTokenRange f, 0, decide (r2 / 2 ^ 32 < r2 % 2 ^ 32) || decide (r2 / 2 ^ 32 - r2 % 2 ^ 32 ≤ 65535),
            { p with ctlo := r2 % 2 ^ 32, cthi := r2 / 2 ^ 32 }),
          (.sqCfgXmax f, 4, decide (r2 < 2 ^ 40), { p with xmax := r2 }),
          (.sqCfgKvrt f, 5, r2 == 0 || (r2 % 8 == 0 && ownsPa s p r2), { p with kvrt := r2 }),
          (.sqCfgUecen f, 6, decide (r2 ≤ 1), { p with uecen := r2 == 1 })] : List (Instr × Nat × Bool × Part)),
        exec row.1 s = if r1 = row.2.1 ∧ row.2.2.1 = true then ret (setPart s pnum row.2.2.2) 0 else ret s 12) ∧
     (high → ∀ row ∈ ([(.sqCfgTimeoutString f, 2, fun ts p => { p with tstring := ts }),
          (.sqCfgFailureString f, 3, fun ts p => { p with fstring := ts })] : List (Instr × Nat × (List Lane → Part → Part))),
        ∀ pas tps n, r1 = row.2.1 → r2 % 8 = 0 → reads r2 8 pas → sound → n = leNat (got pas) →
        (64 < n → exec row.1 s = ret s 12) ∧
        (n ≤ 64 → reads (r2 + 8) (4 * n) tps → exec row.1 s = ret (setPart s pnum (row.2.2 (tokensOf (got tps)) p)) 0)) ∧
     (high → ∀ row ∈ ([.sqCtlRetire f, .sqCtlFree f] : List Instr), ∀ q n, n = r1 / 2 ^ 32 → r2 = 0 → r1 / 2 ^ 4 % 2 ^ 28 = 0 → r1 < 2 ^ 52 →
        ownsSeq p n = true → seqAt s n = some q →
        (row = .sqCtlRetire f → r1 % 16 = 1 → q.st ≠ .retired → exec row s = ret (retireSeq s n q) 0) ∧
        (row = .sqCtlRetire f → r1 % 16 = 1 → q.st = .retired → exec row s = ret s 2) ∧
        (row = .sqCtlFree f → r1 % 16 = 2 → q.st = .retired → exec row s = ret { s with seqs := smDel s.seqs n } 0) ∧
        (row = .sqCtlFree f → r1 % 16 = 2 → q.st ≠ .retired → exec row s = ret s 2)) ∧
     (high → ∀ n, n = r1 / 2 ^ 32 → r1 / 2 ^ 4 % 2 ^ 28 = 0 → r1 < 2 ^ 52 → sound →
        (∀ pas bs q, r1 % 16 = 0 → r2 % 64 = 0 → ownsSeq p n = true → reads r2 48 pas → bs = got pas →
          createSeq pnum bs = some q → (∀ a, q.adapter = some a → ownsAdapter p a = true) →
          (seqAt s n = none → exec (.sqCtlCreate f) s = ret (moveSeq s n q .ready) 0) ∧
          (seqAt s n ≠ none → exec (.sqCtlCreate f) s = ret s 2)) ∧
        (r1 % 16 = 3 → r2 = 0 → ownsAdapter p n = false → exec (.sqCtlAdpres f) s = ret s 5) ∧
        (r1 % 16 = 3 → r2 = 0 → ownsAdapter p n = true → ∃ t, exec (.sqCtlAdpres f) s = ret t 0 ∧ n ∈ t.resident) ∧
        (∀ pas bs ntok taddr tps q, r1 % 16 = 4 → r2 % 64 = 0 → ownsSeq p n = true → reads r2 16 pas →
          bs = got pas → ntok = leNat (bs.take 8) → taddr = leNat ((bs.drop 8).take 8) → 0 < ntok → ntok ≤ 65536 → taddr % 4 = 0 →
          reads taddr (4 * ntok) tps → seqAt s n = some q → q.st = .ready ∨ q.st = .prefill → q.holder = none →
          ∀ u q2, feedSeq s n q (tokensOf (got tps)) = (u, q2) →
          exec (.sqCtlPush f) s = ret (if q2.st = q2.fill then u else moveSeq u n q2 q2.fill) 0) ∧
        (∀ pas nack q, r1 % 16 = 5 → r2 % 64 = 0 → ownsSeq p n = true → reads r2 8 pas →
          nack = leNat ((got pas).take 8) → 0 < nack → nack ≤ 2 ^ 24 → seqAt s n = some q → nack ≤ q.out.count →
          exec (.sqCtlOutack f) s = ret (setSeq s n { q with out := { q.out with
            head := (q.out.head + nack) % Nat.max q.out.cap 1, count := q.out.count - nack } }) 0)) ∧
     (may 2 → (∀ i x, matchFut s pnum r1 r2 = some (i, x) → r2 < 2 ^ 48 → exec (.futFail f) s = ret (endFut s i x 9 p.fstring) 0) ∧
        (matchFut s pnum r1 r2 = none → r2 < 2 ^ 48 → exec (.futFail f) s = ret s 3)) ∧
     (may 3 → ∀ i x e want cap, e = r2 / 2 ^ 48 → 0 < e → matchFut s pnum r1 (r2 % 2 ^ 48) = some (i, x) →
        (x.st ≠ .taken k → exec (.futExt f) s = ret s 2) ∧
        (x.st = .taken k → want = s.time + 1000 * e → cap = x.openedAt + p.xmax →
          exec (.futExt f) s = ret { s with futs := smIns s.futs i { x with deadline := max x.deadline (min want cap) } } (if cap < want then 1 else 0))) ∧
     (may 1 → ∀ pas bs ntok tps i x, r2 % 16 = 0 → reads r2 24 pas → sound →
        bs = got pas → leNat (bs.take 8) < 2 ^ 48 → ntok = leNat ((bs.drop 8).take 8) → ntok ≤ 65536 → leNat ((bs.drop 16).take 8) % 4 = 0 →
        reads (leNat ((bs.drop 16).take 8)) (4 * ntok) tps → matchFut s pnum r1 (leNat (bs.take 8)) = some (i, x) →
        (x.seq ≠ none ∨ ntok = 0 → exec (.futDone f) s = ret (endFut s i x 0 (tokensOf (got tps))) 0) ∧
        (x.seq = none → ntok ≠ 0 → exec (.futDone f) s = ret s 12)) ∧
     (may 0 → ∀ pas walked, r1 % 64 = 0 → r2 / 2 ^ 16 % 2 ^ 47 = 0 → open' true pas → agentCheck s A pnum p r1 64 2 = .ok pas walked → sound →
        (findCall s p (r2 % 2 ^ 16) (r2.testBit 63) = none → exec (.futTake f) s = ret s 7) ∧
        (∀ c x, findCall s p (r2 % 2 ^ 16) (r2.testBit 63) = some (c, x) → ∃ t,
          exec (.futTake f) s = ret t 0 ∧ futAt t c.future = some { x with st := .taken k } ∧
          (pas.Nodup → pas.length = 64 → (∀ a ∈ pas, controlOffset s pnum a = none) → pas.map (memByte t) = callDesc c.future x))) ∧
     (may 4 → ∀ pas walked, r1 < 2 ^ 20 → r2 % 64 = 0 → open' true pas → agentCheck s A pnum p r2 64 2 = .ok pas walked → sound →
        (ownsSeq p r1 = false → exec (.sqPeek f) s = ret s 5) ∧
        (ownsSeq p r1 = true → ∃ t, exec (.sqPeek f) s = ret t 0 ∧
          (pas.Nodup → pas.length = 64 → (∀ a ∈ pas, controlOffset s pnum a = none) → pas.map (memByte t) = peekBytes s p r1))) ∧
     (may 7 → (8 ≤ r2 → exec (.capProbe f) s = ret s 12) ∧
        (r2 < 8 → checked A = false → exec (.capProbe f) s = ret s (word (2 ^ 62))) ∧
        (r2 < 8 → checked A = true → sound → ∀ walk, walk = agentWalk ⟨s, A, pnum, p, dataAcc A 1, maskPtr A (dataAcc A 1) r1⟩ →
          (∀ e, walk = .exc e → exec (.capProbe f) s = ret s 0) ∧
          (∀ hs, walk = .wait hs → exec (.capProbe f) s = .next (setWants s (coreKey k) hs)) ∧
          (∀ pa held walked, walk = .ok (pa, held) walked →
            (agentPa s A pa = none → exec (.capProbe f) s = ret s 0) ∧
            (∀ b, agentPa s A pa = some b →
              let admits (i : Nat) : Prop := (capAt A i).base ≤ b ∧ b < (capAt A i).base + (capAt A i).len ∧
                Nat.land (capAt A i).rights r2 = r2
              ((∀ i, i < 32 → ¬ admits i) → exec (.capProbe f) s = ret s 0) ∧
              (∀ i, i < 32 → admits i → (∀ j, j < i → ¬ admits j) →
                exec (.capProbe f) s = ret s (word (2 ^ 63 + i * 2 ^ 32 + (capAt A i).tag * 2 ^ 16)))))))) ∧
    (∀ (ep : Nat) (b : List Byte) (i : Nat) (x : Fut), s.parts = [(pnum, p)] → p.conf.uec = [ep] → p.uecen = true → p.st = .running →
      32 ≤ b.length → leNat ((b.drop 14).take 1) = 1 → leNat ((b.drop 15).take 1) = 0 → leNat ((b.drop 16).take 4) = 0 →
      leNat ((b.drop 20).take 12) = 0 → matchFut s pnum (leNat (b.take 8)) (leNat ((b.drop 8).take 6)) = some (i, x) → ∃ t,
      t = endFut s i x 9 p.fstring ∧ exec (.uecCompletion ep b) s = .next { t with replies := t.replies ++ [.status 0] })

/-- R65, R66, R61, R63, R253, R354: a step runs the instruction that it decodes. An event at the head of the agenda runs as `exec`
runs it, with what follows every step. A turn offered to a context outside service whose next bundle, fetched from its buffer,
is one slot word issues the operation that the word decodes to: `exec` of that instruction gives the state from which the step
goes on, the cycle passing to the next context when the bundle is held. An agent core with no interrupt to take runs the Xmerf
instruction that its next word decodes to, takes illegal instruction on a reserved form of custom-0, and runs any other word as
an instruction of its base set; `FENCE.I` leaves it with no held line of code. A 64-bit word put by `withFetchWord` is what
context 0 fetches next. (The agenda is the model's own: log entries 3 and 4; the base set is RISC-V's: log entry 8.) -/
def Obligations.StepRunsInstruction : Prop :=
  (∀ (s : State) (i : Instr) (rest : List Due), s.agenda = .ev i :: rest →
    Machine.step s = finish (begin s rest) (actor i (begin s rest)) (exec i (begin s rest))) ∧
  (∀ (s : State) (k : Nat) (rest : List Due) (w len : Nat) (pas : List Nat) (reads : List Loc) (u u' v : State), s.agenda = .core k :: rest →
    u' = { begin s rest with curCore := k } → (agentAt u' k).dead = false → partOfCore u' k ≠ none → pendingIrq u' (agentAt u' k) = none →
    u = farGone u' k → coreFetch u k = .word w len pas reads → v = fetched (correct u reads) k pas →
    (∀ i j, len = 4 → w % 128 = 0x0B → decodeXmerf (BitVec.ofNat 32 w) = .ok i →
      j = i.refine (agX (agentAt v k) (RTy.unpack (BitVec.ofNat 32 w)).rs1.toNat) → Machine.step s = finish v (actor j v) (exec j v)) ∧
    (∀ e, len = 4 → w % 128 = 0x0B → decodeXmerf (BitVec.ofNat 32 w) = .error e →
      Machine.step s = finish v (some k) (.next (coreTrap v k { cause := 2, tval := w }))) ∧
    (len ≠ 4 ∨ w % 128 ≠ 0x0B → Machine.step s = finish v (some k) (.next (rvWord k w len v))) ∧
    (len = 4 → w = 0x100F → ∃ t, Machine.step s = finish v (some k) (.next t) ∧ (agentAt t k).icode = [] ∧
      (agentAt t k).pc = (agentAt v k).pc + 4)) ∧
  (∀ (s v : State) (sp n cyc : Nat) (ns : List Nat) (rest : List Due) (w : Word) (i : Instr),
    s.agenda = .ev (.turnOffer sp) :: rest → v = begin s rest → cyc = (dieAt v (sp / 384)).cyc → (spinAt v sp).nextCycle ≤ cyc →
    cyc / 1024 ≤ (spinAt v sp).window → rotation v sp = n :: ns → (ctxOf v n).mayOffer ≤ cyc → (ctxOf v n).enterNow = false →
    (ctxOf v n).scOut = 0 → (ctxOf v n).refetch = false → (ctxOf v n).pend = [] → (ctxOf v n).svc = false → (ctxOf v n).held = none →
    v.cur = n →
    fetchBundle v n = .bundle (Bundle.single (word (fetchBundle v n).pc) w) → decodeSlot w = .ok i →
    bundleCharge (Bundle.single 0 w) ((ctxOf v n).lanes / 8) ≤ (ctxOf v n).bud →
    ∃ (u : State) (r : Issued), exec i u = .next r.state ∧
      ctxOf u n = { ctxOf v n with turn := (ctxOf v n).turn + 1, mayOffer := cyc + 4, pc := word (fetchBundle v n).pc
                                   sdl := (countTurn (ctxOf v n)).sdl } ∧
      otherContexts n v u ∧ sameMemory v u ∧ u.tiles = v.tiles ∧ u.parts = v.parts ∧
      ∀ t, t = afterIssue n (Bundle.single (me u).pc w) false (bundleCharge (Bundle.single 0 w) ((ctxOf v n).lanes / 8)) r →
        Machine.step s = finish v none (.next (if heldAtIssue n r = true then offerFrom sp cyc t ns else t))) ∧
  (∀ (s : State) (w : Nat), fetchBundle (s.withFetchWord 64 w) 0 = .bundle (Bundle.single 0 (word w)) ∧
    (s.withFetchWord 64 w).agenda = [.ev (.turnOffer 0)])

/-- R36, R37, R50, R65, R66, R354: words written out from the encoding tables decode to the instructions that they stand for, one
of each format and of the agent core; a word with a bit set in a reserved field, one with a reserved operand specifier and one
of the base instruction set do not decode. -/
def Obligations.DecodedWords : Prop :=
  -- add x5, x6, x7: RRR, guard p0, d 5, a 6, b 7
  decodeSlot 0x00000A0603800000 = .ok (.add ⟨0, false, 5, 6, 7, 0, 0, 0⟩) ∧
  -- addi x10, x1, -10 under !p3: RRI, GP 3, GN 1, imm 0xFFFFFFF6
  decodeSlot 0x021C1401FFFFFFF6 = .ok (.addi ⟨3, true, 10, 1, 0xFFFFFFF6⟩) ∧
  -- mfc x10, WP0: RRI, imm 0x028
  decodeSlot 0x2F00140000000028 = .ok (.mfc ⟨0, false, 10, 0, 0x28⟩) ∧
  -- trap 0x15: RI
  decodeSlot 0xF000000000000015 = .ok (.trap ⟨0, false, 0, 0x15⟩) ∧
  -- br with link x3, offset -2 parcels: BR
  decodeSlot 0x320007FFFFFFFFFE = .ok (.br ⟨0, false, 3, 0x1FFFFFFFFFE⟩) ∧
  -- ld.s64.acq.dev x8, x9, 16: MEM, scope 3, order 1
  decodeSlot 0xA600100900001064 = .ok (.ldS64 ⟨0, false, 8, 9, 16, 3, 1, 0⟩) ∧
  -- mm.f8e4 a2 from the ring ends 128 and 130: ENG, no tokens
  decodeSlot (0x8000000000000000 ||| (128 : Word) <<< 21 ||| (130 : Word) <<< 12 ||| (138 : Word) <<< 3) =
    .ok (.mmF8e4 ⟨0, false, 0, 0, 0, 0, 128, 130, 138, 0⟩) ∧
  -- custom-0, funct7 3, rd 1, rs1 2, rs2 3
  decodeXmerf 0x0631008B = .ok (.futExt ⟨1, 2, 3⟩) ∧
  -- rfs with a reserved bit, add with a reserved destination, ADDI of the base set
  decodeSlot 0xF100000000000001 = .error (.illFormed 0xF1) ∧
  decodeSlot 0x0003FE0603800000 = .error (.illFormed 0x00) ∧
  decodeXmerf 0x00000013 = .error .notCustom0

/-- R36 to R42, R65, R66, R354: encoding and decoding agree. The slot word of a well-formed instruction decodes to that instruction
with every operand field as it was; a slot word that decodes is the word of the instruction read, which is well formed. The word
of an Xmerf instruction decodes to it for every choice of registers; a function of sq.ctl and an item of sq.cfg, which share a
word, are told apart by x[rs1] (R361, R362). -/
def Obligations.EncodeDecode : Prop :=
  (∀ (i : Instr) (w : Word), encode i = .slot w → WellFormed i = true → decodeSlot w = .ok i) ∧
  (∀ (w : Word) (i : Instr), decodeSlot w = .ok i → encode i = .slot w ∧ WellFormed i = true) ∧
  (∀ (i : Instr) (w : BitVec 32), encode i = .riscv w → ∃ j, decodeXmerf w = .ok j ∧ encode j = .riscv w ∧
    ∃ v : Word, v.toNat < 16 ∧ j.refine v = i) ∧
  (∀ (w : BitVec 32) (i : Instr) (v : Word), decodeXmerf w = .ok i → encode i = .riscv w ∧ encode (i.refine v) = .riscv w)

/-- R328: no monitor outlives its wait. After every step that goes on, whatever wrote memory in it, no slice holds a monitor whose
watched entry is usable: V set, and SH clear for an append. -/
def Obligations.MonitorsKept : Prop :=
  ∀ (s t : State), Machine.step s = .next t → ∀ (k : Nat) (m : Monitor), m ∈ (sliceAt t k).monitors → entryUsable t m = false

/-- R4, R24, R48, R87 to R91, R166, R263, R268, R277, R369, R375, R376, R430: what reset leaves, where the spec gives the value:
the control registers that read 0, the measurement registers, FCLK and the power limit, every context free; memory in its
canonical form, no monitor armed, and the control block of a partition as it is configured. (That every byte of memory reads 0 and
every publish bit is clear, of the host's memory and of other devices' too, is the model's choice: log entry 1. The registers to
which the spec gives no reset value are 0 by log entry 2, and this states nothing of them.) -/
def Obligations.ResetState : Prop :=
  (∀ (n r : Nat), r ∈ [0x000, 0x001, 0x002, 0x003, 0x008, 0x009, 0x00A, 0x00B, 0x011, 0x020, 0x021, 0x022, 0x023, 0x024, 0x026, 0x030,
      0x031, 0x032, 0x033] → cregRead State.reset n (ctxOf State.reset n) r = 0) ∧
  (∀ n, (ctxOf State.reset n).phase = .free) ∧ (∀ k, measAt State.reset k = 0) ∧
  State.reset.fclk = 2400 ∧ State.reset.watts = Config.fusedWatts ∧
  (∀ k, (agentAt State.reset k).xcapctl = 0 ∧ (agentAt State.reset k).xcapsel = 0 ∧ (agentAt State.reset k).caps = []) ∧
  memCanonical State.reset ∧ (∀ a, memByte State.reset a = 0 ∧ smGet false State.reset.pub a = false) ∧
  (∀ k, (sliceAt State.reset k).monitors = []) ∧
  (∀ (st : PartSt) (conf : PartConf) (p : Part), p = { st := st, conf := conf } → p.fpnext = 1 ∧ p.apnext = 1 ∧ p.hlhold = 100)

open Sys2Proof.Ordering in
/-- R173 rows 4 and 5, R174, R177: in an allowed execution, a release write that an acquire read of another context takes its value
from carries the writes before it: a read after the acquire finds no older byte than the one written before the release, when
an instance that holds both agents lies within the scope of each. Without the two orders an execution in which the read finds
the older byte is allowed. R176: no write that an RMW is atomic against lies in the coherence order between the
write that it read and its own; so two RMWs of one byte, each atomic against the other, do not read it from one write.
R184, R189: the release of a command's token carries the command's writes in the same way, at the command's completion scope.
(The form of an execution is the model's reading: log entry 38.) -/
def Obligations.MessagePassing : Prop :=
  (∀ (x : Exec) (w f r d lf l : Nat) (ew ef er ed : Event) (i : Inst), allowed x = true → i ∈ instances x →
    x.events[w]? = some ew → x.events[f]? = some ef → x.events[r]? = some er → x.events[d]? = some ed →
    ew.kind = .write → po ew ef = true → ef.releases = true → er.acquires = true → po er ed = true → ed.isRead = true →
    l ∈ ew.wlocs → l ∈ ed.reads → lf ∈ er.reads → x.src r lf = some f → ef.agent ≠ er.agent →
    i.has ef.agent = true → i.has er.agent = true → covers ef.scope ef.agent i = true → covers er.scope er.agent i = true →
    x.coPos l (some w) ≤ x.coPos l (x.src d l)) ∧
  (∃ (x : Exec) (ew ef er ed : Event), allowed x = true ∧ x.events = [ew, ef, er, ed] ∧ po ew ef = true ∧ po er ed = true ∧
    ew.agent ≠ er.agent ∧ ef.order = .rlx ∧ er.order = .rlx ∧ 0 ∈ ew.wlocs ∧ 0 ∈ ed.reads ∧ x.src 2 8 = some 1 ∧ x.src 3 0 = none) ∧
  (∀ (x : Exec) (a b l : Nat) (ea eb : Event), allowed x = true → x.events[a]? = some ea → x.events[b]? = some eb → a ≠ b →
    ea.kind = .rmw → eb.kind = .rmw → l ∈ ea.reads → l ∈ ea.wlocs → l ∈ eb.reads → l ∈ eb.wlocs →
    atomicAgainst ea eb = true → atomicAgainst eb ea = true → x.src a l ≠ x.src b l) ∧
  (∀ (x : Exec) (m w l : Nat) (em ew : Event), allowed x = true → x.events[m]? = some em → x.events[w]? = some ew →
    em.kind = .rmw → l ∈ em.reads → l ∈ em.wlocs → l ∈ ew.wlocs → scopeContains em.scope em.agent ew.agent = true →
    scopeContains ew.scope ew.agent em.agent = true →
    x.coPos l (some w) ≤ x.coPos l (x.src m l) ∨ x.coPos l (some m) ≤ x.coPos l (some w)) ∧
  (∀ (x : Exec) (w f r d lf l : Nat) (ew ef er ed : Event) (i : Inst) (c : Command) (peer : Ordering.Agent) (n : Nat), allowed x = true →
    i ∈ instances x → x.events[w]? = some ew → x.events[f]? = some ef → x.events[r]? = some er → x.events[d]? = some ed →
    ew.made = .engine → ew.kind = .write → ef.made = .sync .token peer n → ef.kind = .write → ef.cmd = ew.cmd → ef.agent = ew.agent →
    x.command ef = some c → er.acquires = true → po er ed = true → ed.isRead = true →
    l ∈ ew.wlocs → l ∈ ed.reads → lf ∈ er.reads → x.src r lf = some f → ef.agent ≠ er.agent →
    i.has ef.agent = true → i.has er.agent = true → covers c.completes ef.agent i = true → covers er.scope er.agent i = true →
    x.coPos l (some w) ≤ x.coPos l (x.src d l))

/-- R11, R42, R45, R49, R65: the frame of the operations of slots S1 and V (opcodes below 0x80). Issued outside service, whatever it
comes to, such an operation stores to no byte of memory or of a stash and changes nothing of the machine but contexts; of
another context it changes at most a channel's queue and whether it waits. Unless it faults, an operation other than `mtc`
leaves the context's ASID, fault record, KVERRPOL, modes, seed, extents and watchpoints as they were, and its stage accumulators
and KVPROG when no result is outstanding. -/
def Obligations.RegisterFrame : Prop :=
  ∀ (s t : State) (i : Instr) (w : Word), encode i = .slot w → (opField w).toNat < 0x80 → (me s).svc = false → exec i s = .next t →
    sameMemory s t ∧ t = { s with ctxs := t.ctxs, agenda := t.agenda, freeCount := t.freeCount } ∧
    (∀ k, k ≠ s.cur → ctxOf t k = { ctxOf s k with ch := (ctxOf t k).ch, phase := (ctxOf t k).phase, why := (ctxOf t k).why
                                                   wait := (ctxOf t k).wait, rst := (ctxOf t k).rst }) ∧
    ((ctxOf t s.cur).svc = false → opField w ≠ 0x30 →
      (ctxOf t s.cur).asid = (me s).asid ∧ (ctxOf t s.cur).fcause = (me s).fcause ∧ (ctxOf t s.cur).fpc = (me s).fpc ∧
      (ctxOf t s.cur).faddr = (me s).faddr ∧ (ctxOf t s.cur).finfo = (me s).finfo ∧
      (ctxOf t s.cur).kverrpol = (me s).kverrpol ∧ (ctxOf t s.cur).rmode = (me s).rmode ∧ (ctxOf t s.cur).seed = (me s).seed ∧
      (ctxOf t s.cur).shape = (me s).shape ∧ (ctxOf t s.cur).watch = (me s).watch ∧
      ((me s).pend = [] → (ctxOf t s.cur).sa = (me s).sa ∧ (ctxOf t s.cur).kvprog = (me s).kvprog))
end

