-- ==== Sys2Proof/Laws/Encoding.lean ====
section
/-! SUPPORT. Laws of encoding: a packed slot word has its opcode and gives its fields back (R36, R37), and an Xmerf word its
register numbers (R354). -/
namespace Sys2Proof

@[simp] theorem opField_RRR_pack (op : BitVec 8) (f : RRR) : opField (f.pack op) = op := by
  change @BitVec.extractLsb' (8+5+1+9+9+9+9+6+8) 56 8 _ = op
  repeat (first
    | refine (BitVec.extractLsb'_append_eq_of_le (by decide)).trans ?_
    | refine (BitVec.extractLsb'_append_eq_of_add_le (by decide)).trans ?_)
  exact BitVec.extractLsb'_eq_self

theorem RRR.pack_gp (op : BitVec 8) (f : RRR) : BitVec.extractLsb' 51 5 (f.pack op) = f.gp := by
  change @BitVec.extractLsb' (8+5+1+9+9+9+9+6+8) 51 5 _ = _
  repeat (first
    | refine (BitVec.extractLsb'_append_eq_of_le (by decide)).trans ?_
    | refine (BitVec.extractLsb'_append_eq_of_add_le (by decide)).trans ?_)
  exact BitVec.extractLsb'_eq_self
theorem RRR.pack_gn (op : BitVec 8) (f : RRR) : BitVec.extractLsb' 50 1 (f.pack op) = BitVec.ofBool f.gn := by
  change @BitVec.extractLsb' (8+5+1+9+9+9+9+6+8) 50 1 _ = _
  repeat (first
    | refine (BitVec.extractLsb'_append_eq_of_le (by decide)).trans ?_
    | refine (BitVec.extractLsb'_append_eq_of_add_le (by decide)).trans ?_)
  exact BitVec.extractLsb'_eq_self
theorem RRR.pack_d (op : BitVec 8) (f : RRR) : BitVec.extractLsb' 41 9 (f.pack op) = f.d := by
  change @BitVec.extractLsb' (8+5+1+9+9+9+9+6+8) 41 9 _ = _
  repeat (first
    | refine (BitVec.extractLsb'_append_eq_of_le (by decide)).trans ?_
    | refine (BitVec.extractLsb'_append_eq_of_add_le (by decide)).trans ?_)
  exact BitVec.extractLsb'_eq_self
theorem RRR.pack_a (op : BitVec 8) (f : RRR) : BitVec.extractLsb' 32 9 (f.pack op) = f.a := by
  change @BitVec.extractLsb' (8+5+1+9+9+9+9+6+8) 32 9 _ = _
  repeat (first
    | refine (BitVec.extractLsb'_append_eq_of_le (by decide)).trans ?_
    | refine (BitVec.extractLsb'_append_eq_of_add_le (by decide)).trans ?_)
  exact BitVec.extractLsb'_eq_self
theorem RRR.pack_b (op : BitVec 8) (f : RRR) : BitVec.extractLsb' 23 9 (f.pack op) = f.b := by
  change @BitVec.extractLsb' (8+5+1+9+9+9+9+6+8) 23 9 _ = _
  repeat (first
    | refine (BitVec.extractLsb'_append_eq_of_le (by decide)).trans ?_
    | refine (BitVec.extractLsb'_append_eq_of_add_le (by decide)).trans ?_)
  exact BitVec.extractLsb'_eq_self
theorem RRR.pack_c (op : BitVec 8) (f : RRR) : BitVec.extractLsb' 14 9 (f.pack op) = f.c := by
  change @BitVec.extractLsb' (8+5+1+9+9+9+9+6+8) 14 9 _ = _
  repeat (first
    | refine (BitVec.extractLsb'_append_eq_of_le (by decide)).trans ?_
    | refine (BitVec.extractLsb'_append_eq_of_add_le (by decide)).trans ?_)
  exact BitVec.extractLsb'_eq_self
theorem RRR.pack_ty (op : BitVec 8) (f : RRR) : BitVec.extractLsb' 8 6 (f.pack op) = f.ty := by
  change @BitVec.extractLsb' (8+5+1+9+9+9+9+6+8) 8 6 _ = _
  repeat (first
    | refine (BitVec.extractLsb'_append_eq_of_le (by decide)).trans ?_
    | refine (BitVec.extractLsb'_append_eq_of_add_le (by decide)).trans ?_)
  exact BitVec.extractLsb'_eq_self
theorem RRR.pack_md (op : BitVec 8) (f : RRR) : BitVec.extractLsb' 0 8 (f.pack op) = f.md := by
  change @BitVec.extractLsb' (8+5+1+9+9+9+9+6+8) 0 8 _ = _
  repeat (first
    | refine (BitVec.extractLsb'_append_eq_of_le (by decide)).trans ?_
    | refine (BitVec.extractLsb'_append_eq_of_add_le (by decide)).trans ?_)
  exact BitVec.extractLsb'_eq_self
theorem RRR.pack_gn_bit (op : BitVec 8) (f : RRR) : (f.pack op).getLsbD 50 = f.gn := by
  have h := congrArg (fun x => x.getLsbD 0) (RRR.pack_gn op f)
  simpa using h
/-- R37: packing keeps every field. -/
@[simp] theorem RRR.unpack_pack (op : BitVec 8) (f : RRR) : RRR.unpack (f.pack op) = f := by
  unfold RRR.unpack
  rw [RRR.pack_gp, RRR.pack_gn_bit, RRR.pack_d, RRR.pack_a, RRR.pack_b, RRR.pack_c, RRR.pack_ty, RRR.pack_md]

@[simp] theorem opField_RRI_pack (op : BitVec 8) (f : RRI) : opField (f.pack op) = op := by
  change @BitVec.extractLsb' (8+5+1+9+9+32) 56 8 _ = op
  repeat (first
    | refine (BitVec.extractLsb'_append_eq_of_le (by decide)).trans ?_
    | refine (BitVec.extractLsb'_append_eq_of_add_le (by decide)).trans ?_)
  exact BitVec.extractLsb'_eq_self

theorem RRI.pack_gp (op : BitVec 8) (f : RRI) : BitVec.extractLsb' 51 5 (f.pack op) = f.gp := by
  change @BitVec.extractLsb' (8+5+1+9+9+32) 51 5 _ = _
  repeat (first
    | refine (BitVec.extractLsb'_append_eq_of_le (by decide)).trans ?_
    | refine (BitVec.extractLsb'_append_eq_of_add_le (by decide)).trans ?_)
  exact BitVec.extractLsb'_eq_self
theorem RRI.pack_gn (op : BitVec 8) (f : RRI) : BitVec.extractLsb' 50 1 (f.pack op) = BitVec.ofBool f.gn := by
  change @BitVec.extractLsb' (8+5+1+9+9+32) 50 1 _ = _
  repeat (first
    | refine (BitVec.extractLsb'_append_eq_of_le (by decide)).trans ?_
    | refine (BitVec.extractLsb'_append_eq_of_add_le (by decide)).trans ?_)
  exact BitVec.extractLsb'_eq_self
theorem RRI.pack_d (op : BitVec 8) (f : RRI) : BitVec.extractLsb' 41 9 (f.pack op) = f.d := by
  change @BitVec.extractLsb' (8+5+1+9+9+32) 41 9 _ = _
  repeat (first
    | refine (BitVec.extractLsb'_append_eq_of_le (by decide)).trans ?_
    | refine (BitVec.extractLsb'_append_eq_of_add_le (by decide)).trans ?_)
  exact BitVec.extractLsb'_eq_self
theorem RRI.pack_a (op : BitVec 8) (f : RRI) : BitVec.extractLsb' 32 9 (f.pack op) = f.a := by
  change @BitVec.extractLsb' (8+5+1+9+9+32) 32 9 _ = _
  repeat (first
    | refine (BitVec.extractLsb'_append_eq_of_le (by decide)).trans ?_
    | refine (BitVec.extractLsb'_append_eq_of_add_le (by decide)).trans ?_)
  exact BitVec.extractLsb'_eq_self
theorem RRI.pack_imm (op : BitVec 8) (f : RRI) : BitVec.extractLsb' 0 32 (f.pack op) = f.imm := by
  change @BitVec.extractLsb' (8+5+1+9+9+32) 0 32 _ = _
  repeat (first
    | refine (BitVec.extractLsb'_append_eq_of_le (by decide)).trans ?_
    | refine (BitVec.extractLsb'_append_eq_of_add_le (by decide)).trans ?_)
  exact BitVec.extractLsb'_eq_self
theorem RRI.pack_gn_bit (op : BitVec 8) (f : RRI) : (f.pack op).getLsbD 50 = f.gn := by
  have h := congrArg (fun x => x.getLsbD 0) (RRI.pack_gn op f)
  simpa using h
/-- R37: packing keeps every field. -/
@[simp] theorem RRI.unpack_pack (op : BitVec 8) (f : RRI) : RRI.unpack (f.pack op) = f := by
  unfold RRI.unpack
  rw [RRI.pack_gp, RRI.pack_gn_bit, RRI.pack_d, RRI.pack_a, RRI.pack_imm]

@[simp] theorem opField_RI_pack (op : BitVec 8) (f : RI) : opField (f.pack op) = op := by
  change @BitVec.extractLsb' (8+5+1+9+41) 56 8 _ = op
  repeat (first
    | refine (BitVec.extractLsb'_append_eq_of_le (by decide)).trans ?_
    | refine (BitVec.extractLsb'_append_eq_of_add_le (by decide)).trans ?_)
  exact BitVec.extractLsb'_eq_self

theorem RI.pack_gp (op : BitVec 8) (f : RI) : BitVec.extractLsb' 51 5 (f.pack op) = f.gp := by
  change @BitVec.extractLsb' (8+5+1+9+41) 51 5 _ = _
  repeat (first
    | refine (BitVec.extractLsb'_append_eq_of_le (by decide)).trans ?_
    | refine (BitVec.extractLsb'_append_eq_of_add_le (by decide)).trans ?_)
  exact BitVec.extractLsb'_eq_self
theorem RI.pack_gn (op : BitVec 8) (f : RI) : BitVec.extractLsb' 50 1 (f.pack op) = BitVec.ofBool f.gn := by
  change @BitVec.extractLsb' (8+5+1+9+41) 50 1 _ = _
  repeat (first
    | refine (BitVec.extractLsb'_append_eq_of_le (by decide)).trans ?_
    | refine (BitVec.extractLsb'_append_eq_of_add_le (by decide)).trans ?_)
  exact BitVec.extractLsb'_eq_self
theorem RI.pack_d (op : BitVec 8) (f : RI) : BitVec.extractLsb' 41 9 (f.pack op) = f.d := by
  change @BitVec.extractLsb' (8+5+1+9+41) 41 9 _ = _
  repeat (first
    | refine (BitVec.extractLsb'_append_eq_of_le (by decide)).trans ?_
    | refine (BitVec.extractLsb'_append_eq_of_add_le (by decide)).trans ?_)
  exact BitVec.extractLsb'_eq_self
theorem RI.pack_imm (op : BitVec 8) (f : RI) : BitVec.extractLsb' 0 41 (f.pack op) = f.imm := by
  change @BitVec.extractLsb' (8+5+1+9+41) 0 41 _ = _
  repeat (first
    | refine (BitVec.extractLsb'_append_eq_of_le (by decide)).trans ?_
    | refine (BitVec.extractLsb'_append_eq_of_add_le (by decide)).trans ?_)
  exact BitVec.extractLsb'_eq_self
theorem RI.pack_gn_bit (op : BitVec 8) (f : RI) : (f.pack op).getLsbD 50 = f.gn := by
  have h := congrArg (fun x => x.getLsbD 0) (RI.pack_gn op f)
  simpa using h
/-- R37: packing keeps every field. -/
@[simp] theorem RI.unpack_pack (op : BitVec 8) (f : RI) : RI.unpack (f.pack op) = f := by
  unfold RI.unpack
  rw [RI.pack_gp, RI.pack_gn_bit, RI.pack_d, RI.pack_imm]

@[simp] theorem opField_BRF_pack (op : BitVec 8) (f : BRF) : opField (f.pack op) = op := by
  change @BitVec.extractLsb' (8+5+1+9+41) 56 8 _ = op
  repeat (first
    | refine (BitVec.extractLsb'_append_eq_of_le (by decide)).trans ?_
    | refine (BitVec.extractLsb'_append_eq_of_add_le (by decide)).trans ?_)
  exact BitVec.extractLsb'_eq_self

theorem BRF.pack_gp (op : BitVec 8) (f : BRF) : BitVec.extractLsb' 51 5 (f.pack op) = f.gp := by
  change @BitVec.extractLsb' (8+5+1+9+41) 51 5 _ = _
  repeat (first
    | refine (BitVec.extractLsb'_append_eq_of_le (by decide)).trans ?_
    | refine (BitVec.extractLsb'_append_eq_of_add_le (by decide)).trans ?_)
  exact BitVec.extractLsb'_eq_self
theorem BRF.pack_gn (op : BitVec 8) (f : BRF) : BitVec.extractLsb' 50 1 (f.pack op) = BitVec.ofBool f.gn := by
  change @BitVec.extractLsb' (8+5+1+9+41) 50 1 _ = _
  repeat (first
    | refine (BitVec.extractLsb'_append_eq_of_le (by decide)).trans ?_
    | refine (BitVec.extractLsb'_append_eq_of_add_le (by decide)).trans ?_)
  exact BitVec.extractLsb'_eq_self
theorem BRF.pack_link (op : BitVec 8) (f : BRF) : BitVec.extractLsb' 41 9 (f.pack op) = f.link := by
  change @BitVec.extractLsb' (8+5+1+9+41) 41 9 _ = _
  repeat (first
    | refine (BitVec.extractLsb'_append_eq_of_le (by decide)).trans ?_
    | refine (BitVec.extractLsb'_append_eq_of_add_le (by decide)).trans ?_)
  exact BitVec.extractLsb'_eq_self
theorem BRF.pack_off (op : BitVec 8) (f : BRF) : BitVec.extractLsb' 0 41 (f.pack op) = f.off := by
  change @BitVec.extractLsb' (8+5+1+9+41) 0 41 _ = _
  repeat (first
    | refine (BitVec.extractLsb'_append_eq_of_le (by decide)).trans ?_
    | refine (BitVec.extractLsb'_append_eq_of_add_le (by decide)).trans ?_)
  exact BitVec.extractLsb'_eq_self
theorem BRF.pack_gn_bit (op : BitVec 8) (f : BRF) : (f.pack op).getLsbD 50 = f.gn := by
  have h := congrArg (fun x => x.getLsbD 0) (BRF.pack_gn op f)
  simpa using h
/-- R37: packing keeps every field. -/
@[simp] theorem BRF.unpack_pack (op : BitVec 8) (f : BRF) : BRF.unpack (f.pack op) = f := by
  unfold BRF.unpack
  rw [BRF.pack_gp, BRF.pack_gn_bit, BRF.pack_link, BRF.pack_off]

@[simp] theorem opField_MEMF_pack (op : BitVec 8) (f : MEMF) : opField (f.pack op) = op := by
  change @BitVec.extractLsb' (8+5+1+9+9+24+3+3+2) 56 8 _ = op
  repeat (first
    | refine (BitVec.extractLsb'_append_eq_of_le (by decide)).trans ?_
    | refine (BitVec.extractLsb'_append_eq_of_add_le (by decide)).trans ?_)
  exact BitVec.extractLsb'_eq_self

theorem MEMF.pack_gp (op : BitVec 8) (f : MEMF) : BitVec.extractLsb' 51 5 (f.pack op) = f.gp := by
  change @BitVec.extractLsb' (8+5+1+9+9+24+3+3+2) 51 5 _ = _
  repeat (first
    | refine (BitVec.extractLsb'_append_eq_of_le (by decide)).trans ?_
    | refine (BitVec.extractLsb'_append_eq_of_add_le (by decide)).trans ?_)
  exact BitVec.extractLsb'_eq_self
theorem MEMF.pack_gn (op : BitVec 8) (f : MEMF) : BitVec.extractLsb' 50 1 (f.pack op) = BitVec.ofBool f.gn := by
  change @BitVec.extractLsb' (8+5+1+9+9+24+3+3+2) 50 1 _ = _
  repeat (first
    | refine (BitVec.extractLsb'_append_eq_of_le (by decide)).trans ?_
    | refine (BitVec.extractLsb'_append_eq_of_add_le (by decide)).trans ?_)
  exact BitVec.extractLsb'_eq_self
theorem MEMF.pack_data (op : BitVec 8) (f : MEMF) : BitVec.extractLsb' 41 9 (f.pack op) = f.data := by
  change @BitVec.extractLsb' (8+5+1+9+9+24+3+3+2) 41 9 _ = _
  repeat (first
    | refine (BitVec.extractLsb'_append_eq_of_le (by decide)).trans ?_
    | refine (BitVec.extractLsb'_append_eq_of_add_le (by decide)).trans ?_)
  exact BitVec.extractLsb'_eq_self
theorem MEMF.pack_base (op : BitVec 8) (f : MEMF) : BitVec.extractLsb' 32 9 (f.pack op) = f.base := by
  change @BitVec.extractLsb' (8+5+1+9+9+24+3+3+2) 32 9 _ = _
  repeat (first
    | refine (BitVec.extractLsb'_append_eq_of_le (by decide)).trans ?_
    | refine (BitVec.extractLsb'_append_eq_of_add_le (by decide)).trans ?_)
  exact BitVec.extractLsb'_eq_self
theorem MEMF.pack_off (op : BitVec 8) (f : MEMF) : BitVec.extractLsb' 8 24 (f.pack op) = f.off := by
  change @BitVec.extractLsb' (8+5+1+9+9+24+3+3+2) 8 24 _ = _
  repeat (first
    | refine (BitVec.extractLsb'_append_eq_of_le (by decide)).trans ?_
    | refine (BitVec.extractLsb'_append_eq_of_add_le (by decide)).trans ?_)
  exact BitVec.extractLsb'_eq_self
theorem MEMF.pack_scope (op : BitVec 8) (f : MEMF) : BitVec.extractLsb' 5 3 (f.pack op) = f.scope := by
  change @BitVec.extractLsb' (8+5+1+9+9+24+3+3+2) 5 3 _ = _
  repeat (first
    | refine (BitVec.extractLsb'_append_eq_of_le (by decide)).trans ?_
    | refine (BitVec.extractLsb'_append_eq_of_add_le (by decide)).trans ?_)
  exact BitVec.extractLsb'_eq_self
theorem MEMF.pack_order (op : BitVec 8) (f : MEMF) : BitVec.extractLsb' 2 3 (f.pack op) = f.order := by
  change @BitVec.extractLsb' (8+5+1+9+9+24+3+3+2) 2 3 _ = _
  repeat (first
    | refine (BitVec.extractLsb'_append_eq_of_le (by decide)).trans ?_
    | refine (BitVec.extractLsb'_append_eq_of_add_le (by decide)).trans ?_)
  exact BitVec.extractLsb'_eq_self
theorem MEMF.pack_policy (op : BitVec 8) (f : MEMF) : BitVec.extractLsb' 0 2 (f.pack op) = f.policy := by
  change @BitVec.extractLsb' (8+5+1+9+9+24+3+3+2) 0 2 _ = _
  repeat (first
    | refine (BitVec.extractLsb'_append_eq_of_le (by decide)).trans ?_
    | refine (BitVec.extractLsb'_append_eq_of_add_le (by decide)).trans ?_)
  exact BitVec.extractLsb'_eq_self
theorem MEMF.pack_gn_bit (op : BitVec 8) (f : MEMF) : (f.pack op).getLsbD 50 = f.gn := by
  have h := congrArg (fun x => x.getLsbD 0) (MEMF.pack_gn op f)
  simpa using h
/-- R37: packing keeps every field. -/
@[simp] theorem MEMF.unpack_pack (op : BitVec 8) (f : MEMF) : MEMF.unpack (f.pack op) = f := by
  unfold MEMF.unpack
  rw [MEMF.pack_gp, MEMF.pack_gn_bit, MEMF.pack_data, MEMF.pack_base, MEMF.pack_off, MEMF.pack_scope, MEMF.pack_order, MEMF.pack_policy]

@[simp] theorem opField_ENGF_pack (op : BitVec 8) (f : ENGF) : opField (f.pack op) = op := by
  change @BitVec.extractLsb' (8+5+1+5+5+5+5+9+9+9+3) 56 8 _ = op
  repeat (first
    | refine (BitVec.extractLsb'_append_eq_of_le (by decide)).trans ?_
    | refine (BitVec.extractLsb'_append_eq_of_add_le (by decide)).trans ?_)
  exact BitVec.extractLsb'_eq_self

theorem ENGF.pack_gp (op : BitVec 8) (f : ENGF) : BitVec.extractLsb' 51 5 (f.pack op) = f.gp := by
  change @BitVec.extractLsb' (8+5+1+5+5+5+5+9+9+9+3) 51 5 _ = _
  repeat (first
    | refine (BitVec.extractLsb'_append_eq_of_le (by decide)).trans ?_
    | refine (BitVec.extractLsb'_append_eq_of_add_le (by decide)).trans ?_)
  exact BitVec.extractLsb'_eq_self
theorem ENGF.pack_gn (op : BitVec 8) (f : ENGF) : BitVec.extractLsb' 50 1 (f.pack op) = BitVec.ofBool f.gn := by
  change @BitVec.extractLsb' (8+5+1+5+5+5+5+9+9+9+3) 50 1 _ = _
  repeat (first
    | refine (BitVec.extractLsb'_append_eq_of_le (by decide)).trans ?_
    | refine (BitVec.extractLsb'_append_eq_of_add_le (by decide)).trans ?_)
  exact BitVec.extractLsb'_eq_self
theorem ENGF.pack_prod (op : BitVec 8) (f : ENGF) : BitVec.extractLsb' 45 5 (f.pack op) = f.prod := by
  change @BitVec.extractLsb' (8+5+1+5+5+5+5+9+9+9+3) 45 5 _ = _
  repeat (first
    | refine (BitVec.extractLsb'_append_eq_of_le (by decide)).trans ?_
    | refine (BitVec.extractLsb'_append_eq_of_add_le (by decide)).trans ?_)
  exact BitVec.extractLsb'_eq_self
theorem ENGF.pack_c1 (op : BitVec 8) (f : ENGF) : BitVec.extractLsb' 40 5 (f.pack op) = f.c1 := by
  change @BitVec.extractLsb' (8+5+1+5+5+5+5+9+9+9+3) 40 5 _ = _
  repeat (first
    | refine (BitVec.extractLsb'_append_eq_of_le (by decide)).trans ?_
    | refine (BitVec.extractLsb'_append_eq_of_add_le (by decide)).trans ?_)
  exact BitVec.extractLsb'_eq_self
theorem ENGF.pack_c2 (op : BitVec 8) (f : ENGF) : BitVec.extractLsb' 35 5 (f.pack op) = f.c2 := by
  change @BitVec.extractLsb' (8+5+1+5+5+5+5+9+9+9+3) 35 5 _ = _
  repeat (first
    | refine (BitVec.extractLsb'_append_eq_of_le (by decide)).trans ?_
    | refine (BitVec.extractLsb'_append_eq_of_add_le (by decide)).trans ?_)
  exact BitVec.extractLsb'_eq_self
theorem ENGF.pack_c3 (op : BitVec 8) (f : ENGF) : BitVec.extractLsb' 30 5 (f.pack op) = f.c3 := by
  change @BitVec.extractLsb' (8+5+1+5+5+5+5+9+9+9+3) 30 5 _ = _
  repeat (first
    | refine (BitVec.extractLsb'_append_eq_of_le (by decide)).trans ?_
    | refine (BitVec.extractLsb'_append_eq_of_add_le (by decide)).trans ?_)
  exact BitVec.extractLsb'_eq_self
theorem ENGF.pack_a (op : BitVec 8) (f : ENGF) : BitVec.extractLsb' 21 9 (f.pack op) = f.a := by
  change @BitVec.extractLsb' (8+5+1+5+5+5+5+9+9+9+3) 21 9 _ = _
  repeat (first
    | refine (BitVec.extractLsb'_append_eq_of_le (by decide)).trans ?_
    | refine (BitVec.extractLsb'_append_eq_of_add_le (by decide)).trans ?_)
  exact BitVec.extractLsb'_eq_self
theorem ENGF.pack_b (op : BitVec 8) (f : ENGF) : BitVec.extractLsb' 12 9 (f.pack op) = f.b := by
  change @BitVec.extractLsb' (8+5+1+5+5+5+5+9+9+9+3) 12 9 _ = _
  repeat (first
    | refine (BitVec.extractLsb'_append_eq_of_le (by decide)).trans ?_
    | refine (BitVec.extractLsb'_append_eq_of_add_le (by decide)).trans ?_)
  exact BitVec.extractLsb'_eq_self
theorem ENGF.pack_c (op : BitVec 8) (f : ENGF) : BitVec.extractLsb' 3 9 (f.pack op) = f.c := by
  change @BitVec.extractLsb' (8+5+1+5+5+5+5+9+9+9+3) 3 9 _ = _
  repeat (first
    | refine (BitVec.extractLsb'_append_eq_of_le (by decide)).trans ?_
    | refine (BitVec.extractLsb'_append_eq_of_add_le (by decide)).trans ?_)
  exact BitVec.extractLsb'_eq_self
theorem ENGF.pack_md (op : BitVec 8) (f : ENGF) : BitVec.extractLsb' 0 3 (f.pack op) = f.md := by
  change @BitVec.extractLsb' (8+5+1+5+5+5+5+9+9+9+3) 0 3 _ = _
  repeat (first
    | refine (BitVec.extractLsb'_append_eq_of_le (by decide)).trans ?_
    | refine (BitVec.extractLsb'_append_eq_of_add_le (by decide)).trans ?_)
  exact BitVec.extractLsb'_eq_self
theorem ENGF.pack_gn_bit (op : BitVec 8) (f : ENGF) : (f.pack op).getLsbD 50 = f.gn := by
  have h := congrArg (fun x => x.getLsbD 0) (ENGF.pack_gn op f)
  simpa using h
/-- R37: packing keeps every field. -/
@[simp] theorem ENGF.unpack_pack (op : BitVec 8) (f : ENGF) : ENGF.unpack (f.pack op) = f := by
  unfold ENGF.unpack
  rw [ENGF.pack_gp, ENGF.pack_gn_bit, ENGF.pack_prod, ENGF.pack_c1, ENGF.pack_c2, ENGF.pack_c3, ENGF.pack_a, ENGF.pack_b, ENGF.pack_c, ENGF.pack_md]

theorem RTy.pack_opcode (f7 : BitVec 7) (f : RTy) : BitVec.extractLsb' 0 7 (f.pack f7) = 0x0B := by
  change @BitVec.extractLsb' (7+5+5+3+5+7) 0 7 _ = _
  repeat (first
    | refine (BitVec.extractLsb'_append_eq_of_le (by decide)).trans ?_
    | refine (BitVec.extractLsb'_append_eq_of_add_le (by decide)).trans ?_)
  exact BitVec.extractLsb'_eq_self
theorem RTy.pack_rd (f7 : BitVec 7) (f : RTy) : BitVec.extractLsb' 7 5 (f.pack f7) = f.rd := by
  change @BitVec.extractLsb' (7+5+5+3+5+7) 7 5 _ = _
  repeat (first
    | refine (BitVec.extractLsb'_append_eq_of_le (by decide)).trans ?_
    | refine (BitVec.extractLsb'_append_eq_of_add_le (by decide)).trans ?_)
  exact BitVec.extractLsb'_eq_self
theorem RTy.pack_funct3 (f7 : BitVec 7) (f : RTy) : BitVec.extractLsb' 12 3 (f.pack f7) = 0 := by
  change @BitVec.extractLsb' (7+5+5+3+5+7) 12 3 _ = _
  repeat (first
    | refine (BitVec.extractLsb'_append_eq_of_le (by decide)).trans ?_
    | refine (BitVec.extractLsb'_append_eq_of_add_le (by decide)).trans ?_)
  exact BitVec.extractLsb'_eq_self
theorem RTy.pack_rs1 (f7 : BitVec 7) (f : RTy) : BitVec.extractLsb' 15 5 (f.pack f7) = f.rs1 := by
  change @BitVec.extractLsb' (7+5+5+3+5+7) 15 5 _ = _
  repeat (first
    | refine (BitVec.extractLsb'_append_eq_of_le (by decide)).trans ?_
    | refine (BitVec.extractLsb'_append_eq_of_add_le (by decide)).trans ?_)
  exact BitVec.extractLsb'_eq_self
theorem RTy.pack_rs2 (f7 : BitVec 7) (f : RTy) : BitVec.extractLsb' 20 5 (f.pack f7) = f.rs2 := by
  change @BitVec.extractLsb' (7+5+5+3+5+7) 20 5 _ = _
  repeat (first
    | refine (BitVec.extractLsb'_append_eq_of_le (by decide)).trans ?_
    | refine (BitVec.extractLsb'_append_eq_of_add_le (by decide)).trans ?_)
  exact BitVec.extractLsb'_eq_self
theorem RTy.pack_funct7 (f7 : BitVec 7) (f : RTy) : BitVec.extractLsb' 25 7 (f.pack f7) = f7 := by
  change @BitVec.extractLsb' (7+5+5+3+5+7) 25 7 _ = _
  repeat (first
    | refine (BitVec.extractLsb'_append_eq_of_le (by decide)).trans ?_
    | refine (BitVec.extractLsb'_append_eq_of_add_le (by decide)).trans ?_)
  exact BitVec.extractLsb'_eq_self
/-- R354: packing keeps the register numbers. -/
@[simp] theorem RTy.unpack_pack (f7 : BitVec 7) (f : RTy) : RTy.unpack (f.pack f7) = f := by
  unfold RTy.unpack
  rw [RTy.pack_rd, RTy.pack_rs1, RTy.pack_rs2]

end Sys2Proof
end

