-- ==== Sys2Proof/Laws/Sparse.lean ====
section
/-! SUPPORT. Laws of sparse maps: a read after a write, and that every operation keeps the canonical form. -/
namespace Sys2Proof.Machine
variable {α : Type}

@[simp] theorem smFind_nil (n : Nat) : smFind ([] : SMap α) n = none := rfl
@[simp] theorem smGet_nil (d : α) (n : Nat) : smGet d [] n = d := rfl

theorem smFind_smIns_same (m : SMap α) (n : Nat) (a : α) : smFind (smIns m n a) n = some a := by
  induction m with
  | nil => simp [smIns, smFind]
  | cons e t ih =>
    obtain ⟨k, b⟩ := e
    simp only [smIns]
    split
    · simp [smFind]
    · split
      · simp [smFind]
      · simp_all [smFind]

theorem smFind_smIns_other (m : SMap α) {n k : Nat} (h : k ≠ n) (a : α) : smFind (smIns m n a) k = smFind m k := by
  induction m with
  | nil => simp [smIns, smFind, h]
  | cons e t ih =>
    obtain ⟨j, b⟩ := e
    simp only [smIns]
    split
    · simp [smFind, h]
    · split
      · subst_vars; simp [smFind, h]
      · simp [smFind, ih]

theorem smFind_smDel_same (m : SMap α) (n : Nat) : smFind (smDel m n) n = none := by
  induction m with
  | nil => rfl
  | cons e t ih =>
    obtain ⟨k, b⟩ := e
    by_cases h : k = n
    · subst h; simpa [smDel] using ih
    · have : smDel ((k, b) :: t) n = (k, b) :: smDel t n := by simp [smDel, h]
      rw [this]; simp [smFind, Ne.symm h, ih]

theorem smFind_smDel_other (m : SMap α) {n k : Nat} (h : k ≠ n) : smFind (smDel m n) k = smFind m k := by
  induction m with
  | nil => rfl
  | cons e t ih =>
    obtain ⟨j, b⟩ := e
    by_cases hj : j = n
    · subst hj
      have : smDel ((j, b) :: t) j = smDel t j := by simp [smDel]
      rw [this, ih]; simp [smFind, h]
    · have : smDel ((j, b) :: t) n = (j, b) :: smDel t n := by simp [smDel, hj]
      rw [this]; simp [smFind, ih]

/-- A read after a write to the same key. -/
@[simp] theorem smGet_smSet_same [DecidableEq α] (d : α) (m : SMap α) (n : Nat) (a : α) :
    smGet d (smSet d m n a) n = a := by
  unfold smSet smGet
  split
  · simp_all [smFind_smDel_same]
  · simp [smFind_smIns_same]

/-- A write leaves every other key alone. -/
@[simp] theorem smGet_smSet_other [DecidableEq α] (d : α) (m : SMap α) {n k : Nat} (h : k ≠ n) (a : α) :
    smGet d (smSet d m n a) k = smGet d m k := by
  unfold smSet smGet
  split
  · simp [smFind_smDel_other m h]
  · simp [smFind_smIns_other m h]

theorem smGet_smSet [DecidableEq α] (d : α) (m : SMap α) (n k : Nat) (a : α) :
    smGet d (smSet d m n a) k = if k = n then a else smGet d m k := by
  split
  · subst_vars; simp
  · simp [*]

/-- What consecutive keys written from n on read as. -/
theorem smGet_smSetList [DecidableEq α] (d : α) (as : List α) (m : SMap α) (n k : Nat) :
    smGet d (smSetList d m n as) k = if n ≤ k ∧ k < n + as.length then as.getD (k - n) d else smGet d m k := by
  induction as generalizing m n with
  | nil => simp [smSetList]
  | cons a as ih =>
    rw [smSetList, ih]
    by_cases h : k = n
    · subst h; simp
    · rw [smGet_smSet_other d m h]
      by_cases h2 : n + 1 ≤ k ∧ k < n + 1 + as.length
      · have h3 : n ≤ k ∧ k < n + (a :: as).length := by simp; omega
        rw [if_pos h2, if_pos h3]
        obtain ⟨j, rfl⟩ : ∃ j, k = n + 1 + j := ⟨k - (n + 1), by omega⟩
        have : n + 1 + j - n = j + 1 := by omega
        simp [this]
      · have h3 : ¬(n ≤ k ∧ k < n + (a :: as).length) := by simp; omega
        rw [if_neg h2, if_neg h3]

/-! ## The canonical form -/

theorem smSortedFrom_mono {m : SMap α} {a b : Nat} (h : smSortedFrom b m = true) (hab : a ≤ b) :
    smSortedFrom a m = true := by
  cases m with
  | nil => rfl
  | cons e t => simp only [smSortedFrom, Bool.and_eq_true, decide_eq_true_eq] at *; exact ⟨by omega, h.2⟩

theorem smSortedFrom_smIns {m : SMap α} {lo n : Nat} (h : smSortedFrom lo m = true) (hn : lo ≤ n) (a : α) :
    smSortedFrom lo (smIns m n a) = true := by
  induction m generalizing lo with
  | nil => simp [smIns, smSortedFrom, hn]
  | cons e t ih =>
    obtain ⟨k, b⟩ := e
    simp only [smSortedFrom, Bool.and_eq_true, decide_eq_true_eq] at h
    simp only [smIns]
    split
    · simp only [smSortedFrom, Bool.and_eq_true, decide_eq_true_eq]; exact ⟨hn, by omega, h.2⟩
    · split
      · subst_vars; simp only [smSortedFrom, Bool.and_eq_true, decide_eq_true_eq]; exact ⟨hn, h.2⟩
      · simp only [smSortedFrom, Bool.and_eq_true, decide_eq_true_eq]; exact ⟨h.1, ih h.2 (by omega)⟩

theorem smSortedFrom_filter {m : SMap α} {lo : Nat} (h : smSortedFrom lo m = true) (p : Nat × α → Bool) :
    smSortedFrom lo (m.filter p) = true := by
  induction m generalizing lo with
  | nil => rfl
  | cons e t ih =>
    simp only [smSortedFrom, Bool.and_eq_true, decide_eq_true_eq] at h
    rw [List.filter_cons]
    split
    · simp only [smSortedFrom, Bool.and_eq_true, decide_eq_true_eq]; exact ⟨h.1, ih h.2⟩
    · exact smSortedFrom_mono (ih h.2) (by omega)

theorem mem_smIns {m : SMap α} {n : Nat} {a : α} {e : Nat × α} (h : e ∈ smIns m n a) : e = (n, a) ∨ e ∈ m := by
  induction m with
  | nil => simpa [smIns] using h
  | cons x t ih =>
    obtain ⟨k, b⟩ := x
    simp only [smIns] at h
    split at h
    · simpa using h
    · split at h
      · rcases List.mem_cons.1 h with h | h <;> simp [h]
      · rcases List.mem_cons.1 h with h | h
        · simp [h]
        · rcases ih h with h | h <;> simp [h]

/-- A canonical map stays canonical when entries are dropped. -/
theorem smWf_filter [DecidableEq α] {d : α} {m : SMap α} (h : smWf d m = true) (p : Nat × α → Bool) :
    smWf d (m.filter p) = true := by
  simp only [smWf, Bool.and_eq_true, List.all_eq_true] at *
  exact ⟨smSortedFrom_filter h.1 p, fun e he => h.2 e (List.mem_of_mem_filter he)⟩

/-- A write keeps the canonical form. -/
theorem smWf_smSet [DecidableEq α] {d : α} {m : SMap α} (h : smWf d m = true) (n : Nat) (a : α) :
    smWf d (smSet d m n a) = true := by
  unfold smSet
  split
  · exact smWf_filter h _
  · simp only [smWf, Bool.and_eq_true, List.all_eq_true] at *
    refine ⟨smSortedFrom_smIns h.1 (Nat.zero_le n) a, fun e he => ?_⟩
    rcases mem_smIns he with rfl | he
    · simpa
    · exact h.2 e he

theorem smWf_smSetList [DecidableEq α] {d : α} (as : List α) {m : SMap α} (h : smWf d m = true) (n : Nat) :
    smWf d (smSetList d m n as) = true := by
  induction as generalizing m n with
  | nil => exact h
  | cons a as ih => exact ih (smWf_smSet h n a) (n + 1)

theorem smFind_mem {m : SMap α} {n : Nat} {a : α} (h : smFind m n = some a) : (n, a) ∈ m := by
  induction m with
  | nil => simp at h
  | cons e t ih =>
    obtain ⟨k, b⟩ := e
    simp only [smFind] at h
    split at h
    · simp_all
    · exact List.mem_cons_of_mem _ (ih h)

end Sys2Proof.Machine
end

