-- ==== Sys2Proof/Laws/State.lean ====
section
/-! SUPPORT. Laws of State: what each update of a unit leaves of every field, and what the units read as after it. -/
namespace Sys2Proof.Machine

/-! ## setCtx and modCtx -/

@[simp] theorem setCtx_time (s : State) (n : Nat) (x : Ctx) : (setCtx s n x).time = s.time := rfl
@[simp] theorem modCtx_time (s : State) (n : Nat) (f : Ctx → Ctx) : (modCtx s n f).time = s.time := rfl
@[simp] theorem setCtx_dies (s : State) (n : Nat) (x : Ctx) : (setCtx s n x).dies = s.dies := rfl
@[simp] theorem modCtx_dies (s : State) (n : Nat) (f : Ctx → Ctx) : (modCtx s n f).dies = s.dies := rfl
@[simp] theorem setCtx_watts (s : State) (n : Nat) (x : Ctx) : (setCtx s n x).watts = s.watts := rfl
@[simp] theorem modCtx_watts (s : State) (n : Nat) (f : Ctx → Ctx) : (modCtx s n f).watts = s.watts := rfl
@[simp] theorem setCtx_fclk (s : State) (n : Nat) (x : Ctx) : (setCtx s n x).fclk = s.fclk := rfl
@[simp] theorem modCtx_fclk (s : State) (n : Nat) (f : Ctx → Ctx) : (modCtx s n f).fclk = s.fclk := rfl
@[simp] theorem setCtx_lim (s : State) (n : Nat) (x : Ctx) : (setCtx s n x).lim = s.lim := rfl
@[simp] theorem modCtx_lim (s : State) (n : Nat) (f : Ctx → Ctx) : (modCtx s n f).lim = s.lim := rfl
@[simp] theorem setCtx_mem (s : State) (n : Nat) (x : Ctx) : (setCtx s n x).mem = s.mem := rfl
@[simp] theorem modCtx_mem (s : State) (n : Nat) (f : Ctx → Ctx) : (modCtx s n f).mem = s.mem := rfl
@[simp] theorem setCtx_pub (s : State) (n : Nat) (x : Ctx) : (setCtx s n x).pub = s.pub := rfl
@[simp] theorem modCtx_pub (s : State) (n : Nat) (f : Ctx → Ctx) : (modCtx s n f).pub = s.pub := rfl
@[simp] theorem setCtx_ctag (s : State) (n : Nat) (x : Ctx) : (setCtx s n x).ctag = s.ctag := rfl
@[simp] theorem modCtx_ctag (s : State) (n : Nat) (f : Ctx → Ctx) : (modCtx s n f).ctag = s.ctag := rfl
@[simp] theorem setCtx_errs (s : State) (n : Nat) (x : Ctx) : (setCtx s n x).errs = s.errs := rfl
@[simp] theorem modCtx_errs (s : State) (n : Nat) (f : Ctx → Ctx) : (modCtx s n f).errs = s.errs := rfl
@[simp] theorem setCtx_serrs (s : State) (n : Nat) (x : Ctx) : (setCtx s n x).serrs = s.serrs := rfl
@[simp] theorem modCtx_serrs (s : State) (n : Nat) (f : Ctx → Ctx) : (modCtx s n f).serrs = s.serrs := rfl
@[simp] theorem setCtx_cerrs (s : State) (n : Nat) (x : Ctx) : (setCtx s n x).cerrs = s.cerrs := rfl
@[simp] theorem modCtx_cerrs (s : State) (n : Nat) (f : Ctx → Ctx) : (modCtx s n f).cerrs = s.cerrs := rfl
@[simp] theorem setCtx_spindles (s : State) (n : Nat) (x : Ctx) : (setCtx s n x).spindles = s.spindles := rfl
@[simp] theorem modCtx_spindles (s : State) (n : Nat) (f : Ctx → Ctx) : (modCtx s n f).spindles = s.spindles := rfl
@[simp] theorem setCtx_tiles (s : State) (n : Nat) (x : Ctx) : (setCtx s n x).tiles = s.tiles := rfl
@[simp] theorem modCtx_tiles (s : State) (n : Nat) (f : Ctx → Ctx) : (modCtx s n f).tiles = s.tiles := rfl
@[simp] theorem setCtx_slices (s : State) (n : Nat) (x : Ctx) : (setCtx s n x).slices = s.slices := rfl
@[simp] theorem modCtx_slices (s : State) (n : Nat) (f : Ctx → Ctx) : (modCtx s n f).slices = s.slices := rfl
@[simp] theorem setCtx_agents (s : State) (n : Nat) (x : Ctx) : (setCtx s n x).agents = s.agents := rfl
@[simp] theorem modCtx_agents (s : State) (n : Nat) (f : Ctx → Ctx) : (modCtx s n f).agents = s.agents := rfl
@[simp] theorem setCtx_parts (s : State) (n : Nat) (x : Ctx) : (setCtx s n x).parts = s.parts := rfl
@[simp] theorem modCtx_parts (s : State) (n : Nat) (f : Ctx → Ctx) : (modCtx s n f).parts = s.parts := rfl
@[simp] theorem setCtx_seqs (s : State) (n : Nat) (x : Ctx) : (setCtx s n x).seqs = s.seqs := rfl
@[simp] theorem modCtx_seqs (s : State) (n : Nat) (f : Ctx → Ctx) : (modCtx s n f).seqs = s.seqs := rfl
@[simp] theorem setCtx_futs (s : State) (n : Nat) (x : Ctx) : (setCtx s n x).futs = s.futs := rfl
@[simp] theorem modCtx_futs (s : State) (n : Nat) (f : Ctx → Ctx) : (modCtx s n f).futs = s.futs := rfl
@[simp] theorem setCtx_seqAge (s : State) (n : Nat) (x : Ctx) : (setCtx s n x).seqAge = s.seqAge := rfl
@[simp] theorem modCtx_seqAge (s : State) (n : Nat) (f : Ctx → Ctx) : (modCtx s n f).seqAge = s.seqAge := rfl
@[simp] theorem setCtx_feeds (s : State) (n : Nat) (x : Ctx) : (setCtx s n x).feeds = s.feeds := rfl
@[simp] theorem modCtx_feeds (s : State) (n : Nat) (f : Ctx → Ctx) : (modCtx s n f).feeds = s.feeds := rfl
@[simp] theorem setCtx_resident (s : State) (n : Nat) (x : Ctx) : (setCtx s n x).resident = s.resident := rfl
@[simp] theorem modCtx_resident (s : State) (n : Nat) (f : Ctx → Ctx) : (modCtx s n f).resident = s.resident := rfl
@[simp] theorem setCtx_experts (s : State) (n : Nat) (x : Ctx) : (setCtx s n x).experts = s.experts := rfl
@[simp] theorem modCtx_experts (s : State) (n : Nat) (f : Ctx → Ctx) : (modCtx s n f).experts = s.experts := rfl
@[simp] theorem setCtx_owners (s : State) (n : Nat) (x : Ctx) : (setCtx s n x).owners = s.owners := rfl
@[simp] theorem modCtx_owners (s : State) (n : Nat) (f : Ctx → Ctx) : (modCtx s n f).owners = s.owners := rfl
@[simp] theorem setCtx_chanOwner (s : State) (n : Nat) (x : Ctx) : (setCtx s n x).chanOwner = s.chanOwner := rfl
@[simp] theorem modCtx_chanOwner (s : State) (n : Nat) (f : Ctx → Ctx) : (modCtx s n f).chanOwner = s.chanOwner := rfl
@[simp] theorem setCtx_launches (s : State) (n : Nat) (x : Ctx) : (setCtx s n x).launches = s.launches := rfl
@[simp] theorem modCtx_launches (s : State) (n : Nat) (f : Ctx → Ctx) : (modCtx s n f).launches = s.launches := rfl
@[simp] theorem setCtx_flights (s : State) (n : Nat) (x : Ctx) : (setCtx s n x).flights = s.flights := rfl
@[simp] theorem modCtx_flights (s : State) (n : Nat) (f : Ctx → Ctx) : (modCtx s n f).flights = s.flights := rfl
@[simp] theorem setCtx_scOut (s : State) (n : Nat) (x : Ctx) : (setCtx s n x).scOut = s.scOut := rfl
@[simp] theorem modCtx_scOut (s : State) (n : Nat) (f : Ctx → Ctx) : (modCtx s n f).scOut = s.scOut := rfl
@[simp] theorem setCtx_scOrder (s : State) (n : Nat) (x : Ctx) : (setCtx s n x).scOrder = s.scOrder := rfl
@[simp] theorem modCtx_scOrder (s : State) (n : Nat) (f : Ctx → Ctx) : (modCtx s n f).scOrder = s.scOrder := rfl
@[simp] theorem setCtx_cmdNext (s : State) (n : Nat) (x : Ctx) : (setCtx s n x).cmdNext = s.cmdNext := rfl
@[simp] theorem modCtx_cmdNext (s : State) (n : Nat) (f : Ctx → Ctx) : (modCtx s n f).cmdNext = s.cmdNext := rfl
@[simp] theorem setCtx_claimAge (s : State) (n : Nat) (x : Ctx) : (setCtx s n x).claimAge = s.claimAge := rfl
@[simp] theorem modCtx_claimAge (s : State) (n : Nat) (f : Ctx → Ctx) : (modCtx s n f).claimAge = s.claimAge := rfl
@[simp] theorem setCtx_launchNext (s : State) (n : Nat) (x : Ctx) : (setCtx s n x).launchNext = s.launchNext := rfl
@[simp] theorem modCtx_launchNext (s : State) (n : Nat) (f : Ctx → Ctx) : (modCtx s n f).launchNext = s.launchNext := rfl
@[simp] theorem setCtx_lossWalks (s : State) (n : Nat) (x : Ctx) : (setCtx s n x).lossWalks = s.lossWalks := rfl
@[simp] theorem modCtx_lossWalks (s : State) (n : Nat) (f : Ctx → Ctx) : (modCtx s n f).lossWalks = s.lossWalks := rfl
@[simp] theorem setCtx_posted (s : State) (n : Nat) (x : Ctx) : (setCtx s n x).posted = s.posted := rfl
@[simp] theorem modCtx_posted (s : State) (n : Nat) (f : Ctx → Ctx) : (modCtx s n f).posted = s.posted := rfl
@[simp] theorem setCtx_replies (s : State) (n : Nat) (x : Ctx) : (setCtx s n x).replies = s.replies := rfl
@[simp] theorem modCtx_replies (s : State) (n : Nat) (f : Ctx → Ctx) : (modCtx s n f).replies = s.replies := rfl
@[simp] theorem setCtx_ilines (s : State) (n : Nat) (x : Ctx) : (setCtx s n x).ilines = s.ilines := rfl
@[simp] theorem modCtx_ilines (s : State) (n : Nat) (f : Ctx → Ctx) : (modCtx s n f).ilines = s.ilines := rfl
@[simp] theorem setCtx_wants (s : State) (n : Nat) (x : Ctx) : (setCtx s n x).wants = s.wants := rfl
@[simp] theorem modCtx_wants (s : State) (n : Nat) (f : Ctx → Ctx) : (modCtx s n f).wants = s.wants := rfl
@[simp] theorem setCtx_wantBy (s : State) (n : Nat) (x : Ctx) : (setCtx s n x).wantBy = s.wantBy := rfl
@[simp] theorem modCtx_wantBy (s : State) (n : Nat) (f : Ctx → Ctx) : (modCtx s n f).wantBy = s.wantBy := rfl
@[simp] theorem setCtx_farCores (s : State) (n : Nat) (x : Ctx) : (setCtx s n x).farCores = s.farCores := rfl
@[simp] theorem modCtx_farCores (s : State) (n : Nat) (f : Ctx → Ctx) : (modCtx s n f).farCores = s.farCores := rfl
@[simp] theorem setCtx_devWrites (s : State) (n : Nat) (x : Ctx) : (setCtx s n x).devWrites = s.devWrites := rfl
@[simp] theorem modCtx_devWrites (s : State) (n : Nat) (f : Ctx → Ctx) : (modCtx s n f).devWrites = s.devWrites := rfl
@[simp] theorem setCtx_publishing (s : State) (n : Nat) (x : Ctx) : (setCtx s n x).publishing = s.publishing := rfl
@[simp] theorem modCtx_publishing (s : State) (n : Nat) (f : Ctx → Ctx) : (modCtx s n f).publishing = s.publishing := rfl
@[simp] theorem setCtx_preFp (s : State) (n : Nat) (x : Ctx) : (setCtx s n x).preFp = s.preFp := rfl
@[simp] theorem modCtx_preFp (s : State) (n : Nat) (f : Ctx → Ctx) : (modCtx s n f).preFp = s.preFp := rfl
@[simp] theorem setCtx_lag (s : State) (n : Nat) (x : Ctx) : (setCtx s n x).lag = s.lag := rfl
@[simp] theorem modCtx_lag (s : State) (n : Nat) (f : Ctx → Ctx) : (modCtx s n f).lag = s.lag := rfl
@[simp] theorem setCtx_hostQueue (s : State) (n : Nat) (x : Ctx) : (setCtx s n x).hostQueue = s.hostQueue := rfl
@[simp] theorem modCtx_hostQueue (s : State) (n : Nat) (f : Ctx → Ctx) : (modCtx s n f).hostQueue = s.hostQueue := rfl
@[simp] theorem setCtx_remoteQueue (s : State) (n : Nat) (x : Ctx) : (setCtx s n x).remoteQueue = s.remoteQueue := rfl
@[simp] theorem modCtx_remoteQueue (s : State) (n : Nat) (f : Ctx → Ctx) : (modCtx s n f).remoteQueue = s.remoteQueue := rfl
@[simp] theorem setCtx_lateRecords (s : State) (n : Nat) (x : Ctx) : (setCtx s n x).lateRecords = s.lateRecords := rfl
@[simp] theorem modCtx_lateRecords (s : State) (n : Nat) (f : Ctx → Ctx) : (modCtx s n f).lateRecords = s.lateRecords := rfl
@[simp] theorem setCtx_preWindows (s : State) (n : Nat) (x : Ctx) : (setCtx s n x).preWindows = s.preWindows := rfl
@[simp] theorem modCtx_preWindows (s : State) (n : Nat) (f : Ctx → Ctx) : (modCtx s n f).preWindows = s.preWindows := rfl
@[simp] theorem setCtx_strikes (s : State) (n : Nat) (x : Ctx) : (setCtx s n x).strikes = s.strikes := rfl
@[simp] theorem modCtx_strikes (s : State) (n : Nat) (f : Ctx → Ctx) : (modCtx s n f).strikes = s.strikes := rfl
@[simp] theorem setCtx_scerrs (s : State) (n : Nat) (x : Ctx) : (setCtx s n x).scerrs = s.scerrs := rfl
@[simp] theorem modCtx_scerrs (s : State) (n : Nat) (f : Ctx → Ctx) : (modCtx s n f).scerrs = s.scerrs := rfl
@[simp] theorem setCtx_mapCount (s : State) (n : Nat) (x : Ctx) : (setCtx s n x).mapCount = s.mapCount := rfl
@[simp] theorem modCtx_mapCount (s : State) (n : Nat) (f : Ctx → Ctx) : (modCtx s n f).mapCount = s.mapCount := rfl
@[simp] theorem setCtx_svcCycle (s : State) (n : Nat) (x : Ctx) : (setCtx s n x).svcCycle = s.svcCycle := rfl
@[simp] theorem modCtx_svcCycle (s : State) (n : Nat) (f : Ctx → Ctx) : (modCtx s n f).svcCycle = s.svcCycle := rfl
@[simp] theorem setCtx_meas (s : State) (n : Nat) (x : Ctx) : (setCtx s n x).meas = s.meas := rfl
@[simp] theorem modCtx_meas (s : State) (n : Nat) (f : Ctx → Ctx) : (modCtx s n f).meas = s.meas := rfl
@[simp] theorem setCtx_boot (s : State) (n : Nat) (x : Ctx) : (setCtx s n x).boot = s.boot := rfl
@[simp] theorem modCtx_boot (s : State) (n : Nat) (f : Ctx → Ctx) : (modCtx s n f).boot = s.boot := rfl
@[simp] theorem setCtx_dom (s : State) (n : Nat) (x : Ctx) : (setCtx s n x).dom = s.dom := rfl
@[simp] theorem modCtx_dom (s : State) (n : Nat) (f : Ctx → Ctx) : (modCtx s n f).dom = s.dom := rfl
@[simp] theorem setCtx_hostUp (s : State) (n : Nat) (x : Ctx) : (setCtx s n x).hostUp = s.hostUp := rfl
@[simp] theorem modCtx_hostUp (s : State) (n : Nat) (f : Ctx → Ctx) : (modCtx s n f).hostUp = s.hostUp := rfl
@[simp] theorem setCtx_hostLost (s : State) (n : Nat) (x : Ctx) : (setCtx s n x).hostLost = s.hostLost := rfl
@[simp] theorem modCtx_hostLost (s : State) (n : Nat) (f : Ctx → Ctx) : (modCtx s n f).hostLost = s.hostLost := rfl
@[simp] theorem setCtx_hostHeld (s : State) (n : Nat) (x : Ctx) : (setCtx s n x).hostHeld = s.hostHeld := rfl
@[simp] theorem modCtx_hostHeld (s : State) (n : Nat) (f : Ctx → Ctx) : (modCtx s n f).hostHeld = s.hostHeld := rfl
@[simp] theorem setCtx_agenda (s : State) (n : Nat) (x : Ctx) : (setCtx s n x).agenda = s.agenda := rfl
@[simp] theorem modCtx_agenda (s : State) (n : Nat) (f : Ctx → Ctx) : (modCtx s n f).agenda = s.agenda := rfl
@[simp] theorem setCtx_cur (s : State) (n : Nat) (x : Ctx) : (setCtx s n x).cur = s.cur := rfl
@[simp] theorem modCtx_cur (s : State) (n : Nat) (f : Ctx → Ctx) : (modCtx s n f).cur = s.cur := rfl
@[simp] theorem setCtx_curCore (s : State) (n : Nat) (x : Ctx) : (setCtx s n x).curCore = s.curCore := rfl
@[simp] theorem modCtx_curCore (s : State) (n : Nat) (f : Ctx → Ctx) : (modCtx s n f).curCore = s.curCore := rfl
@[simp] theorem setCtx_freeCount (s : State) (n : Nat) (x : Ctx) : (setCtx s n x).freeCount = s.freeCount := rfl
@[simp] theorem modCtx_freeCount (s : State) (n : Nat) (f : Ctx → Ctx) : (modCtx s n f).freeCount = s.freeCount := rfl

@[simp] theorem ctxOf_setCtx_same (s : State) (n : Nat) (x : Ctx) : ctxOf (setCtx s n x) n = x := by simp [ctxOf, setCtx]
@[simp] theorem ctxOf_setCtx_other (s : State) {n k : Nat} (h : k ≠ n) (x : Ctx) : ctxOf (setCtx s n x) k = ctxOf s k := by simp [ctxOf, setCtx, h]
theorem ctxOf_setCtx (s : State) (n k : Nat) (x : Ctx) : ctxOf (setCtx s n x) k = if k = n then x else ctxOf s k := by simp [ctxOf, setCtx, smGet_smSet]
@[simp] theorem ctxOf_modCtx_same (s : State) (n : Nat) (f : Ctx → Ctx) : ctxOf (modCtx s n f) n = f (ctxOf s n) := by simp [modCtx]
@[simp] theorem ctxOf_modCtx_other (s : State) {n k : Nat} (h : k ≠ n) (f : Ctx → Ctx) : ctxOf (modCtx s n f) k = ctxOf s k := by simp [modCtx, h]
theorem ctxOf_modCtx (s : State) (n k : Nat) (f : Ctx → Ctx) : ctxOf (modCtx s n f) k = if k = n then f (ctxOf s n) else ctxOf s k := by simp [modCtx, ctxOf_setCtx]
@[simp] theorem tileAt_setCtx (s : State) (n k : Nat) (x : Ctx) : tileAt (setCtx s n x) k = tileAt s k := rfl
@[simp] theorem tileAt_modCtx (s : State) (n k : Nat) (f : Ctx → Ctx) : tileAt (modCtx s n f) k = tileAt s k := rfl
@[simp] theorem spinAt_setCtx (s : State) (n k : Nat) (x : Ctx) : spinAt (setCtx s n x) k = spinAt s k := rfl
@[simp] theorem spinAt_modCtx (s : State) (n k : Nat) (f : Ctx → Ctx) : spinAt (modCtx s n f) k = spinAt s k := rfl
@[simp] theorem sliceAt_setCtx (s : State) (n k : Nat) (x : Ctx) : sliceAt (setCtx s n x) k = sliceAt s k := rfl
@[simp] theorem sliceAt_modCtx (s : State) (n k : Nat) (f : Ctx → Ctx) : sliceAt (modCtx s n f) k = sliceAt s k := rfl
@[simp] theorem agentAt_setCtx (s : State) (n k : Nat) (x : Ctx) : agentAt (setCtx s n x) k = agentAt s k := rfl
@[simp] theorem agentAt_modCtx (s : State) (n k : Nat) (f : Ctx → Ctx) : agentAt (modCtx s n f) k = agentAt s k := rfl
@[simp] theorem dieAt_setCtx (s : State) (n k : Nat) (x : Ctx) : dieAt (setCtx s n x) k = dieAt s k := rfl
@[simp] theorem dieAt_modCtx (s : State) (n k : Nat) (f : Ctx → Ctx) : dieAt (modCtx s n f) k = dieAt s k := rfl
@[simp] theorem partAt_setCtx (s : State) (n k : Nat) (x : Ctx) : partAt (setCtx s n x) k = partAt s k := rfl
@[simp] theorem partAt_modCtx (s : State) (n k : Nat) (f : Ctx → Ctx) : partAt (modCtx s n f) k = partAt s k := rfl

/-! ## setTile and modTile -/

@[simp] theorem setTile_time (s : State) (n : Nat) (x : Tile) : (setTile s n x).time = s.time := rfl
@[simp] theorem modTile_time (s : State) (n : Nat) (f : Tile → Tile) : (modTile s n f).time = s.time := rfl
@[simp] theorem setTile_dies (s : State) (n : Nat) (x : Tile) : (setTile s n x).dies = s.dies := rfl
@[simp] theorem modTile_dies (s : State) (n : Nat) (f : Tile → Tile) : (modTile s n f).dies = s.dies := rfl
@[simp] theorem setTile_watts (s : State) (n : Nat) (x : Tile) : (setTile s n x).watts = s.watts := rfl
@[simp] theorem modTile_watts (s : State) (n : Nat) (f : Tile → Tile) : (modTile s n f).watts = s.watts := rfl
@[simp] theorem setTile_fclk (s : State) (n : Nat) (x : Tile) : (setTile s n x).fclk = s.fclk := rfl
@[simp] theorem modTile_fclk (s : State) (n : Nat) (f : Tile → Tile) : (modTile s n f).fclk = s.fclk := rfl
@[simp] theorem setTile_lim (s : State) (n : Nat) (x : Tile) : (setTile s n x).lim = s.lim := rfl
@[simp] theorem modTile_lim (s : State) (n : Nat) (f : Tile → Tile) : (modTile s n f).lim = s.lim := rfl
@[simp] theorem setTile_mem (s : State) (n : Nat) (x : Tile) : (setTile s n x).mem = s.mem := rfl
@[simp] theorem modTile_mem (s : State) (n : Nat) (f : Tile → Tile) : (modTile s n f).mem = s.mem := rfl
@[simp] theorem setTile_pub (s : State) (n : Nat) (x : Tile) : (setTile s n x).pub = s.pub := rfl
@[simp] theorem modTile_pub (s : State) (n : Nat) (f : Tile → Tile) : (modTile s n f).pub = s.pub := rfl
@[simp] theorem setTile_ctag (s : State) (n : Nat) (x : Tile) : (setTile s n x).ctag = s.ctag := rfl
@[simp] theorem modTile_ctag (s : State) (n : Nat) (f : Tile → Tile) : (modTile s n f).ctag = s.ctag := rfl
@[simp] theorem setTile_errs (s : State) (n : Nat) (x : Tile) : (setTile s n x).errs = s.errs := rfl
@[simp] theorem modTile_errs (s : State) (n : Nat) (f : Tile → Tile) : (modTile s n f).errs = s.errs := rfl
@[simp] theorem setTile_serrs (s : State) (n : Nat) (x : Tile) : (setTile s n x).serrs = s.serrs := rfl
@[simp] theorem modTile_serrs (s : State) (n : Nat) (f : Tile → Tile) : (modTile s n f).serrs = s.serrs := rfl
@[simp] theorem setTile_cerrs (s : State) (n : Nat) (x : Tile) : (setTile s n x).cerrs = s.cerrs := rfl
@[simp] theorem modTile_cerrs (s : State) (n : Nat) (f : Tile → Tile) : (modTile s n f).cerrs = s.cerrs := rfl
@[simp] theorem setTile_ctxs (s : State) (n : Nat) (x : Tile) : (setTile s n x).ctxs = s.ctxs := rfl
@[simp] theorem modTile_ctxs (s : State) (n : Nat) (f : Tile → Tile) : (modTile s n f).ctxs = s.ctxs := rfl
@[simp] theorem setTile_spindles (s : State) (n : Nat) (x : Tile) : (setTile s n x).spindles = s.spindles := rfl
@[simp] theorem modTile_spindles (s : State) (n : Nat) (f : Tile → Tile) : (modTile s n f).spindles = s.spindles := rfl
@[simp] theorem setTile_slices (s : State) (n : Nat) (x : Tile) : (setTile s n x).slices = s.slices := rfl
@[simp] theorem modTile_slices (s : State) (n : Nat) (f : Tile → Tile) : (modTile s n f).slices = s.slices := rfl
@[simp] theorem setTile_agents (s : State) (n : Nat) (x : Tile) : (setTile s n x).agents = s.agents := rfl
@[simp] theorem modTile_agents (s : State) (n : Nat) (f : Tile → Tile) : (modTile s n f).agents = s.agents := rfl
@[simp] theorem setTile_parts (s : State) (n : Nat) (x : Tile) : (setTile s n x).parts = s.parts := rfl
@[simp] theorem modTile_parts (s : State) (n : Nat) (f : Tile → Tile) : (modTile s n f).parts = s.parts := rfl
@[simp] theorem setTile_seqs (s : State) (n : Nat) (x : Tile) : (setTile s n x).seqs = s.seqs := rfl
@[simp] theorem modTile_seqs (s : State) (n : Nat) (f : Tile → Tile) : (modTile s n f).seqs = s.seqs := rfl
@[simp] theorem setTile_futs (s : State) (n : Nat) (x : Tile) : (setTile s n x).futs = s.futs := rfl
@[simp] theorem modTile_futs (s : State) (n : Nat) (f : Tile → Tile) : (modTile s n f).futs = s.futs := rfl
@[simp] theorem setTile_seqAge (s : State) (n : Nat) (x : Tile) : (setTile s n x).seqAge = s.seqAge := rfl
@[simp] theorem modTile_seqAge (s : State) (n : Nat) (f : Tile → Tile) : (modTile s n f).seqAge = s.seqAge := rfl
@[simp] theorem setTile_feeds (s : State) (n : Nat) (x : Tile) : (setTile s n x).feeds = s.feeds := rfl
@[simp] theorem modTile_feeds (s : State) (n : Nat) (f : Tile → Tile) : (modTile s n f).feeds = s.feeds := rfl
@[simp] theorem setTile_resident (s : State) (n : Nat) (x : Tile) : (setTile s n x).resident = s.resident := rfl
@[simp] theorem modTile_resident (s : State) (n : Nat) (f : Tile → Tile) : (modTile s n f).resident = s.resident := rfl
@[simp] theorem setTile_experts (s : State) (n : Nat) (x : Tile) : (setTile s n x).experts = s.experts := rfl
@[simp] theorem modTile_experts (s : State) (n : Nat) (f : Tile → Tile) : (modTile s n f).experts = s.experts := rfl
@[simp] theorem setTile_owners (s : State) (n : Nat) (x : Tile) : (setTile s n x).owners = s.owners := rfl
@[simp] theorem modTile_owners (s : State) (n : Nat) (f : Tile → Tile) : (modTile s n f).owners = s.owners := rfl
@[simp] theorem setTile_chanOwner (s : State) (n : Nat) (x : Tile) : (setTile s n x).chanOwner = s.chanOwner := rfl
@[simp] theorem modTile_chanOwner (s : State) (n : Nat) (f : Tile → Tile) : (modTile s n f).chanOwner = s.chanOwner := rfl
@[simp] theorem setTile_launches (s : State) (n : Nat) (x : Tile) : (setTile s n x).launches = s.launches := rfl
@[simp] theorem modTile_launches (s : State) (n : Nat) (f : Tile → Tile) : (modTile s n f).launches = s.launches := rfl
@[simp] theorem setTile_flights (s : State) (n : Nat) (x : Tile) : (setTile s n x).flights = s.flights := rfl
@[simp] theorem modTile_flights (s : State) (n : Nat) (f : Tile → Tile) : (modTile s n f).flights = s.flights := rfl
@[simp] theorem setTile_scOut (s : State) (n : Nat) (x : Tile) : (setTile s n x).scOut = s.scOut := rfl
@[simp] theorem modTile_scOut (s : State) (n : Nat) (f : Tile → Tile) : (modTile s n f).scOut = s.scOut := rfl
@[simp] theorem setTile_scOrder (s : State) (n : Nat) (x : Tile) : (setTile s n x).scOrder = s.scOrder := rfl
@[simp] theorem modTile_scOrder (s : State) (n : Nat) (f : Tile → Tile) : (modTile s n f).scOrder = s.scOrder := rfl
@[simp] theorem setTile_cmdNext (s : State) (n : Nat) (x : Tile) : (setTile s n x).cmdNext = s.cmdNext := rfl
@[simp] theorem modTile_cmdNext (s : State) (n : Nat) (f : Tile → Tile) : (modTile s n f).cmdNext = s.cmdNext := rfl
@[simp] theorem setTile_claimAge (s : State) (n : Nat) (x : Tile) : (setTile s n x).claimAge = s.claimAge := rfl
@[simp] theorem modTile_claimAge (s : State) (n : Nat) (f : Tile → Tile) : (modTile s n f).claimAge = s.claimAge := rfl
@[simp] theorem setTile_launchNext (s : State) (n : Nat) (x : Tile) : (setTile s n x).launchNext = s.launchNext := rfl
@[simp] theorem modTile_launchNext (s : State) (n : Nat) (f : Tile → Tile) : (modTile s n f).launchNext = s.launchNext := rfl
@[simp] theorem setTile_lossWalks (s : State) (n : Nat) (x : Tile) : (setTile s n x).lossWalks = s.lossWalks := rfl
@[simp] theorem modTile_lossWalks (s : State) (n : Nat) (f : Tile → Tile) : (modTile s n f).lossWalks = s.lossWalks := rfl
@[simp] theorem setTile_posted (s : State) (n : Nat) (x : Tile) : (setTile s n x).posted = s.posted := rfl
@[simp] theorem modTile_posted (s : State) (n : Nat) (f : Tile → Tile) : (modTile s n f).posted = s.posted := rfl
@[simp] theorem setTile_replies (s : State) (n : Nat) (x : Tile) : (setTile s n x).replies = s.replies := rfl
@[simp] theorem modTile_replies (s : State) (n : Nat) (f : Tile → Tile) : (modTile s n f).replies = s.replies := rfl
@[simp] theorem setTile_ilines (s : State) (n : Nat) (x : Tile) : (setTile s n x).ilines = s.ilines := rfl
@[simp] theorem modTile_ilines (s : State) (n : Nat) (f : Tile → Tile) : (modTile s n f).ilines = s.ilines := rfl
@[simp] theorem setTile_wants (s : State) (n : Nat) (x : Tile) : (setTile s n x).wants = s.wants := rfl
@[simp] theorem modTile_wants (s : State) (n : Nat) (f : Tile → Tile) : (modTile s n f).wants = s.wants := rfl
@[simp] theorem setTile_wantBy (s : State) (n : Nat) (x : Tile) : (setTile s n x).wantBy = s.wantBy := rfl
@[simp] theorem modTile_wantBy (s : State) (n : Nat) (f : Tile → Tile) : (modTile s n f).wantBy = s.wantBy := rfl
@[simp] theorem setTile_farCores (s : State) (n : Nat) (x : Tile) : (setTile s n x).farCores = s.farCores := rfl
@[simp] theorem modTile_farCores (s : State) (n : Nat) (f : Tile → Tile) : (modTile s n f).farCores = s.farCores := rfl
@[simp] theorem setTile_devWrites (s : State) (n : Nat) (x : Tile) : (setTile s n x).devWrites = s.devWrites := rfl
@[simp] theorem modTile_devWrites (s : State) (n : Nat) (f : Tile → Tile) : (modTile s n f).devWrites = s.devWrites := rfl
@[simp] theorem setTile_publishing (s : State) (n : Nat) (x : Tile) : (setTile s n x).publishing = s.publishing := rfl
@[simp] theorem modTile_publishing (s : State) (n : Nat) (f : Tile → Tile) : (modTile s n f).publishing = s.publishing := rfl
@[simp] theorem setTile_preFp (s : State) (n : Nat) (x : Tile) : (setTile s n x).preFp = s.preFp := rfl
@[simp] theorem modTile_preFp (s : State) (n : Nat) (f : Tile → Tile) : (modTile s n f).preFp = s.preFp := rfl
@[simp] theorem setTile_lag (s : State) (n : Nat) (x : Tile) : (setTile s n x).lag = s.lag := rfl
@[simp] theorem modTile_lag (s : State) (n : Nat) (f : Tile → Tile) : (modTile s n f).lag = s.lag := rfl
@[simp] theorem setTile_hostQueue (s : State) (n : Nat) (x : Tile) : (setTile s n x).hostQueue = s.hostQueue := rfl
@[simp] theorem modTile_hostQueue (s : State) (n : Nat) (f : Tile → Tile) : (modTile s n f).hostQueue = s.hostQueue := rfl
@[simp] theorem setTile_remoteQueue (s : State) (n : Nat) (x : Tile) : (setTile s n x).remoteQueue = s.remoteQueue := rfl
@[simp] theorem modTile_remoteQueue (s : State) (n : Nat) (f : Tile → Tile) : (modTile s n f).remoteQueue = s.remoteQueue := rfl
@[simp] theorem setTile_lateRecords (s : State) (n : Nat) (x : Tile) : (setTile s n x).lateRecords = s.lateRecords := rfl
@[simp] theorem modTile_lateRecords (s : State) (n : Nat) (f : Tile → Tile) : (modTile s n f).lateRecords = s.lateRecords := rfl
@[simp] theorem setTile_preWindows (s : State) (n : Nat) (x : Tile) : (setTile s n x).preWindows = s.preWindows := rfl
@[simp] theorem modTile_preWindows (s : State) (n : Nat) (f : Tile → Tile) : (modTile s n f).preWindows = s.preWindows := rfl
@[simp] theorem setTile_strikes (s : State) (n : Nat) (x : Tile) : (setTile s n x).strikes = s.strikes := rfl
@[simp] theorem modTile_strikes (s : State) (n : Nat) (f : Tile → Tile) : (modTile s n f).strikes = s.strikes := rfl
@[simp] theorem setTile_scerrs (s : State) (n : Nat) (x : Tile) : (setTile s n x).scerrs = s.scerrs := rfl
@[simp] theorem modTile_scerrs (s : State) (n : Nat) (f : Tile → Tile) : (modTile s n f).scerrs = s.scerrs := rfl
@[simp] theorem setTile_mapCount (s : State) (n : Nat) (x : Tile) : (setTile s n x).mapCount = s.mapCount := rfl
@[simp] theorem modTile_mapCount (s : State) (n : Nat) (f : Tile → Tile) : (modTile s n f).mapCount = s.mapCount := rfl
@[simp] theorem setTile_svcCycle (s : State) (n : Nat) (x : Tile) : (setTile s n x).svcCycle = s.svcCycle := rfl
@[simp] theorem modTile_svcCycle (s : State) (n : Nat) (f : Tile → Tile) : (modTile s n f).svcCycle = s.svcCycle := rfl
@[simp] theorem setTile_meas (s : State) (n : Nat) (x : Tile) : (setTile s n x).meas = s.meas := rfl
@[simp] theorem modTile_meas (s : State) (n : Nat) (f : Tile → Tile) : (modTile s n f).meas = s.meas := rfl
@[simp] theorem setTile_boot (s : State) (n : Nat) (x : Tile) : (setTile s n x).boot = s.boot := rfl
@[simp] theorem modTile_boot (s : State) (n : Nat) (f : Tile → Tile) : (modTile s n f).boot = s.boot := rfl
@[simp] theorem setTile_dom (s : State) (n : Nat) (x : Tile) : (setTile s n x).dom = s.dom := rfl
@[simp] theorem modTile_dom (s : State) (n : Nat) (f : Tile → Tile) : (modTile s n f).dom = s.dom := rfl
@[simp] theorem setTile_hostUp (s : State) (n : Nat) (x : Tile) : (setTile s n x).hostUp = s.hostUp := rfl
@[simp] theorem modTile_hostUp (s : State) (n : Nat) (f : Tile → Tile) : (modTile s n f).hostUp = s.hostUp := rfl
@[simp] theorem setTile_hostLost (s : State) (n : Nat) (x : Tile) : (setTile s n x).hostLost = s.hostLost := rfl
@[simp] theorem modTile_hostLost (s : State) (n : Nat) (f : Tile → Tile) : (modTile s n f).hostLost = s.hostLost := rfl
@[simp] theorem setTile_hostHeld (s : State) (n : Nat) (x : Tile) : (setTile s n x).hostHeld = s.hostHeld := rfl
@[simp] theorem modTile_hostHeld (s : State) (n : Nat) (f : Tile → Tile) : (modTile s n f).hostHeld = s.hostHeld := rfl
@[simp] theorem setTile_agenda (s : State) (n : Nat) (x : Tile) : (setTile s n x).agenda = s.agenda := rfl
@[simp] theorem modTile_agenda (s : State) (n : Nat) (f : Tile → Tile) : (modTile s n f).agenda = s.agenda := rfl
@[simp] theorem setTile_cur (s : State) (n : Nat) (x : Tile) : (setTile s n x).cur = s.cur := rfl
@[simp] theorem modTile_cur (s : State) (n : Nat) (f : Tile → Tile) : (modTile s n f).cur = s.cur := rfl
@[simp] theorem setTile_curCore (s : State) (n : Nat) (x : Tile) : (setTile s n x).curCore = s.curCore := rfl
@[simp] theorem modTile_curCore (s : State) (n : Nat) (f : Tile → Tile) : (modTile s n f).curCore = s.curCore := rfl
@[simp] theorem setTile_freeCount (s : State) (n : Nat) (x : Tile) : (setTile s n x).freeCount = s.freeCount := rfl
@[simp] theorem modTile_freeCount (s : State) (n : Nat) (f : Tile → Tile) : (modTile s n f).freeCount = s.freeCount := rfl

@[simp] theorem tileAt_setTile_same (s : State) (n : Nat) (x : Tile) : tileAt (setTile s n x) n = x := by simp [tileAt, setTile]
@[simp] theorem tileAt_setTile_other (s : State) {n k : Nat} (h : k ≠ n) (x : Tile) : tileAt (setTile s n x) k = tileAt s k := by simp [tileAt, setTile, h]
theorem tileAt_setTile (s : State) (n k : Nat) (x : Tile) : tileAt (setTile s n x) k = if k = n then x else tileAt s k := by simp [tileAt, setTile, smGet_smSet]
@[simp] theorem tileAt_modTile_same (s : State) (n : Nat) (f : Tile → Tile) : tileAt (modTile s n f) n = f (tileAt s n) := by simp [modTile]
@[simp] theorem tileAt_modTile_other (s : State) {n k : Nat} (h : k ≠ n) (f : Tile → Tile) : tileAt (modTile s n f) k = tileAt s k := by simp [modTile, h]
theorem tileAt_modTile (s : State) (n k : Nat) (f : Tile → Tile) : tileAt (modTile s n f) k = if k = n then f (tileAt s n) else tileAt s k := by simp [modTile, tileAt_setTile]
@[simp] theorem ctxOf_setTile (s : State) (n k : Nat) (x : Tile) : ctxOf (setTile s n x) k = ctxOf s k := rfl
@[simp] theorem ctxOf_modTile (s : State) (n k : Nat) (f : Tile → Tile) : ctxOf (modTile s n f) k = ctxOf s k := rfl
@[simp] theorem spinAt_setTile (s : State) (n k : Nat) (x : Tile) : spinAt (setTile s n x) k = spinAt s k := rfl
@[simp] theorem spinAt_modTile (s : State) (n k : Nat) (f : Tile → Tile) : spinAt (modTile s n f) k = spinAt s k := rfl
@[simp] theorem sliceAt_setTile (s : State) (n k : Nat) (x : Tile) : sliceAt (setTile s n x) k = sliceAt s k := rfl
@[simp] theorem sliceAt_modTile (s : State) (n k : Nat) (f : Tile → Tile) : sliceAt (modTile s n f) k = sliceAt s k := rfl
@[simp] theorem agentAt_setTile (s : State) (n k : Nat) (x : Tile) : agentAt (setTile s n x) k = agentAt s k := rfl
@[simp] theorem agentAt_modTile (s : State) (n k : Nat) (f : Tile → Tile) : agentAt (modTile s n f) k = agentAt s k := rfl
@[simp] theorem dieAt_setTile (s : State) (n k : Nat) (x : Tile) : dieAt (setTile s n x) k = dieAt s k := rfl
@[simp] theorem dieAt_modTile (s : State) (n k : Nat) (f : Tile → Tile) : dieAt (modTile s n f) k = dieAt s k := rfl
@[simp] theorem partAt_setTile (s : State) (n k : Nat) (x : Tile) : partAt (setTile s n x) k = partAt s k := rfl
@[simp] theorem partAt_modTile (s : State) (n k : Nat) (f : Tile → Tile) : partAt (modTile s n f) k = partAt s k := rfl

/-! ## setSpin and modSpin -/

@[simp] theorem setSpin_time (s : State) (n : Nat) (x : Spindle) : (setSpin s n x).time = s.time := rfl
@[simp] theorem modSpin_time (s : State) (n : Nat) (f : Spindle → Spindle) : (modSpin s n f).time = s.time := rfl
@[simp] theorem setSpin_dies (s : State) (n : Nat) (x : Spindle) : (setSpin s n x).dies = s.dies := rfl
@[simp] theorem modSpin_dies (s : State) (n : Nat) (f : Spindle → Spindle) : (modSpin s n f).dies = s.dies := rfl
@[simp] theorem setSpin_watts (s : State) (n : Nat) (x : Spindle) : (setSpin s n x).watts = s.watts := rfl
@[simp] theorem modSpin_watts (s : State) (n : Nat) (f : Spindle → Spindle) : (modSpin s n f).watts = s.watts := rfl
@[simp] theorem setSpin_fclk (s : State) (n : Nat) (x : Spindle) : (setSpin s n x).fclk = s.fclk := rfl
@[simp] theorem modSpin_fclk (s : State) (n : Nat) (f : Spindle → Spindle) : (modSpin s n f).fclk = s.fclk := rfl
@[simp] theorem setSpin_lim (s : State) (n : Nat) (x : Spindle) : (setSpin s n x).lim = s.lim := rfl
@[simp] theorem modSpin_lim (s : State) (n : Nat) (f : Spindle → Spindle) : (modSpin s n f).lim = s.lim := rfl
@[simp] theorem setSpin_mem (s : State) (n : Nat) (x : Spindle) : (setSpin s n x).mem = s.mem := rfl
@[simp] theorem modSpin_mem (s : State) (n : Nat) (f : Spindle → Spindle) : (modSpin s n f).mem = s.mem := rfl
@[simp] theorem setSpin_pub (s : State) (n : Nat) (x : Spindle) : (setSpin s n x).pub = s.pub := rfl
@[simp] theorem modSpin_pub (s : State) (n : Nat) (f : Spindle → Spindle) : (modSpin s n f).pub = s.pub := rfl
@[simp] theorem setSpin_ctag (s : State) (n : Nat) (x : Spindle) : (setSpin s n x).ctag = s.ctag := rfl
@[simp] theorem modSpin_ctag (s : State) (n : Nat) (f : Spindle → Spindle) : (modSpin s n f).ctag = s.ctag := rfl
@[simp] theorem setSpin_errs (s : State) (n : Nat) (x : Spindle) : (setSpin s n x).errs = s.errs := rfl
@[simp] theorem modSpin_errs (s : State) (n : Nat) (f : Spindle → Spindle) : (modSpin s n f).errs = s.errs := rfl
@[simp] theorem setSpin_serrs (s : State) (n : Nat) (x : Spindle) : (setSpin s n x).serrs = s.serrs := rfl
@[simp] theorem modSpin_serrs (s : State) (n : Nat) (f : Spindle → Spindle) : (modSpin s n f).serrs = s.serrs := rfl
@[simp] theorem setSpin_cerrs (s : State) (n : Nat) (x : Spindle) : (setSpin s n x).cerrs = s.cerrs := rfl
@[simp] theorem modSpin_cerrs (s : State) (n : Nat) (f : Spindle → Spindle) : (modSpin s n f).cerrs = s.cerrs := rfl
@[simp] theorem setSpin_ctxs (s : State) (n : Nat) (x : Spindle) : (setSpin s n x).ctxs = s.ctxs := rfl
@[simp] theorem modSpin_ctxs (s : State) (n : Nat) (f : Spindle → Spindle) : (modSpin s n f).ctxs = s.ctxs := rfl
@[simp] theorem setSpin_tiles (s : State) (n : Nat) (x : Spindle) : (setSpin s n x).tiles = s.tiles := rfl
@[simp] theorem modSpin_tiles (s : State) (n : Nat) (f : Spindle → Spindle) : (modSpin s n f).tiles = s.tiles := rfl
@[simp] theorem setSpin_slices (s : State) (n : Nat) (x : Spindle) : (setSpin s n x).slices = s.slices := rfl
@[simp] theorem modSpin_slices (s : State) (n : Nat) (f : Spindle → Spindle) : (modSpin s n f).slices = s.slices := rfl
@[simp] theorem setSpin_agents (s : State) (n : Nat) (x : Spindle) : (setSpin s n x).agents = s.agents := rfl
@[simp] theorem modSpin_agents (s : State) (n : Nat) (f : Spindle → Spindle) : (modSpin s n f).agents = s.agents := rfl
@[simp] theorem setSpin_parts (s : State) (n : Nat) (x : Spindle) : (setSpin s n x).parts = s.parts := rfl
@[simp] theorem modSpin_parts (s : State) (n : Nat) (f : Spindle → Spindle) : (modSpin s n f).parts = s.parts := rfl
@[simp] theorem setSpin_seqs (s : State) (n : Nat) (x : Spindle) : (setSpin s n x).seqs = s.seqs := rfl
@[simp] theorem modSpin_seqs (s : State) (n : Nat) (f : Spindle → Spindle) : (modSpin s n f).seqs = s.seqs := rfl
@[simp] theorem setSpin_futs (s : State) (n : Nat) (x : Spindle) : (setSpin s n x).futs = s.futs := rfl
@[simp] theorem modSpin_futs (s : State) (n : Nat) (f : Spindle → Spindle) : (modSpin s n f).futs = s.futs := rfl
@[simp] theorem setSpin_seqAge (s : State) (n : Nat) (x : Spindle) : (setSpin s n x).seqAge = s.seqAge := rfl
@[simp] theorem modSpin_seqAge (s : State) (n : Nat) (f : Spindle → Spindle) : (modSpin s n f).seqAge = s.seqAge := rfl
@[simp] theorem setSpin_feeds (s : State) (n : Nat) (x : Spindle) : (setSpin s n x).feeds = s.feeds := rfl
@[simp] theorem modSpin_feeds (s : State) (n : Nat) (f : Spindle → Spindle) : (modSpin s n f).feeds = s.feeds := rfl
@[simp] theorem setSpin_resident (s : State) (n : Nat) (x : Spindle) : (setSpin s n x).resident = s.resident := rfl
@[simp] theorem modSpin_resident (s : State) (n : Nat) (f : Spindle → Spindle) : (modSpin s n f).resident = s.resident := rfl
@[simp] theorem setSpin_experts (s : State) (n : Nat) (x : Spindle) : (setSpin s n x).experts = s.experts := rfl
@[simp] theorem modSpin_experts (s : State) (n : Nat) (f : Spindle → Spindle) : (modSpin s n f).experts = s.experts := rfl
@[simp] theorem setSpin_owners (s : State) (n : Nat) (x : Spindle) : (setSpin s n x).owners = s.owners := rfl
@[simp] theorem modSpin_owners (s : State) (n : Nat) (f : Spindle → Spindle) : (modSpin s n f).owners = s.owners := rfl
@[simp] theorem setSpin_chanOwner (s : State) (n : Nat) (x : Spindle) : (setSpin s n x).chanOwner = s.chanOwner := rfl
@[simp] theorem modSpin_chanOwner (s : State) (n : Nat) (f : Spindle → Spindle) : (modSpin s n f).chanOwner = s.chanOwner := rfl
@[simp] theorem setSpin_launches (s : State) (n : Nat) (x : Spindle) : (setSpin s n x).launches = s.launches := rfl
@[simp] theorem modSpin_launches (s : State) (n : Nat) (f : Spindle → Spindle) : (modSpin s n f).launches = s.launches := rfl
@[simp] theorem setSpin_flights (s : State) (n : Nat) (x : Spindle) : (setSpin s n x).flights = s.flights := rfl
@[simp] theorem modSpin_flights (s : State) (n : Nat) (f : Spindle → Spindle) : (modSpin s n f).flights = s.flights := rfl
@[simp] theorem setSpin_scOut (s : State) (n : Nat) (x : Spindle) : (setSpin s n x).scOut = s.scOut := rfl
@[simp] theorem modSpin_scOut (s : State) (n : Nat) (f : Spindle → Spindle) : (modSpin s n f).scOut = s.scOut := rfl
@[simp] theorem setSpin_scOrder (s : State) (n : Nat) (x : Spindle) : (setSpin s n x).scOrder = s.scOrder := rfl
@[simp] theorem modSpin_scOrder (s : State) (n : Nat) (f : Spindle → Spindle) : (modSpin s n f).scOrder = s.scOrder := rfl
@[simp] theorem setSpin_cmdNext (s : State) (n : Nat) (x : Spindle) : (setSpin s n x).cmdNext = s.cmdNext := rfl
@[simp] theorem modSpin_cmdNext (s : State) (n : Nat) (f : Spindle → Spindle) : (modSpin s n f).cmdNext = s.cmdNext := rfl
@[simp] theorem setSpin_claimAge (s : State) (n : Nat) (x : Spindle) : (setSpin s n x).claimAge = s.claimAge := rfl
@[simp] theorem modSpin_claimAge (s : State) (n : Nat) (f : Spindle → Spindle) : (modSpin s n f).claimAge = s.claimAge := rfl
@[simp] theorem setSpin_launchNext (s : State) (n : Nat) (x : Spindle) : (setSpin s n x).launchNext = s.launchNext := rfl
@[simp] theorem modSpin_launchNext (s : State) (n : Nat) (f : Spindle → Spindle) : (modSpin s n f).launchNext = s.launchNext := rfl
@[simp] theorem setSpin_lossWalks (s : State) (n : Nat) (x : Spindle) : (setSpin s n x).lossWalks = s.lossWalks := rfl
@[simp] theorem modSpin_lossWalks (s : State) (n : Nat) (f : Spindle → Spindle) : (modSpin s n f).lossWalks = s.lossWalks := rfl
@[simp] theorem setSpin_posted (s : State) (n : Nat) (x : Spindle) : (setSpin s n x).posted = s.posted := rfl
@[simp] theorem modSpin_posted (s : State) (n : Nat) (f : Spindle → Spindle) : (modSpin s n f).posted = s.posted := rfl
@[simp] theorem setSpin_replies (s : State) (n : Nat) (x : Spindle) : (setSpin s n x).replies = s.replies := rfl
@[simp] theorem modSpin_replies (s : State) (n : Nat) (f : Spindle → Spindle) : (modSpin s n f).replies = s.replies := rfl
@[simp] theorem setSpin_ilines (s : State) (n : Nat) (x : Spindle) : (setSpin s n x).ilines = s.ilines := rfl
@[simp] theorem modSpin_ilines (s : State) (n : Nat) (f : Spindle → Spindle) : (modSpin s n f).ilines = s.ilines := rfl
@[simp] theorem setSpin_wants (s : State) (n : Nat) (x : Spindle) : (setSpin s n x).wants = s.wants := rfl
@[simp] theorem modSpin_wants (s : State) (n : Nat) (f : Spindle → Spindle) : (modSpin s n f).wants = s.wants := rfl
@[simp] theorem setSpin_wantBy (s : State) (n : Nat) (x : Spindle) : (setSpin s n x).wantBy = s.wantBy := rfl
@[simp] theorem modSpin_wantBy (s : State) (n : Nat) (f : Spindle → Spindle) : (modSpin s n f).wantBy = s.wantBy := rfl
@[simp] theorem setSpin_farCores (s : State) (n : Nat) (x : Spindle) : (setSpin s n x).farCores = s.farCores := rfl
@[simp] theorem modSpin_farCores (s : State) (n : Nat) (f : Spindle → Spindle) : (modSpin s n f).farCores = s.farCores := rfl
@[simp] theorem setSpin_devWrites (s : State) (n : Nat) (x : Spindle) : (setSpin s n x).devWrites = s.devWrites := rfl
@[simp] theorem modSpin_devWrites (s : State) (n : Nat) (f : Spindle → Spindle) : (modSpin s n f).devWrites = s.devWrites := rfl
@[simp] theorem setSpin_publishing (s : State) (n : Nat) (x : Spindle) : (setSpin s n x).publishing = s.publishing := rfl
@[simp] theorem modSpin_publishing (s : State) (n : Nat) (f : Spindle → Spindle) : (modSpin s n f).publishing = s.publishing := rfl
@[simp] theorem setSpin_preFp (s : State) (n : Nat) (x : Spindle) : (setSpin s n x).preFp = s.preFp := rfl
@[simp] theorem modSpin_preFp (s : State) (n : Nat) (f : Spindle → Spindle) : (modSpin s n f).preFp = s.preFp := rfl
@[simp] theorem setSpin_lag (s : State) (n : Nat) (x : Spindle) : (setSpin s n x).lag = s.lag := rfl
@[simp] theorem modSpin_lag (s : State) (n : Nat) (f : Spindle → Spindle) : (modSpin s n f).lag = s.lag := rfl
@[simp] theorem setSpin_hostQueue (s : State) (n : Nat) (x : Spindle) : (setSpin s n x).hostQueue = s.hostQueue := rfl
@[simp] theorem modSpin_hostQueue (s : State) (n : Nat) (f : Spindle → Spindle) : (modSpin s n f).hostQueue = s.hostQueue := rfl
@[simp] theorem setSpin_remoteQueue (s : State) (n : Nat) (x : Spindle) : (setSpin s n x).remoteQueue = s.remoteQueue := rfl
@[simp] theorem modSpin_remoteQueue (s : State) (n : Nat) (f : Spindle → Spindle) : (modSpin s n f).remoteQueue = s.remoteQueue := rfl
@[simp] theorem setSpin_lateRecords (s : State) (n : Nat) (x : Spindle) : (setSpin s n x).lateRecords = s.lateRecords := rfl
@[simp] theorem modSpin_lateRecords (s : State) (n : Nat) (f : Spindle → Spindle) : (modSpin s n f).lateRecords = s.lateRecords := rfl
@[simp] theorem setSpin_preWindows (s : State) (n : Nat) (x : Spindle) : (setSpin s n x).preWindows = s.preWindows := rfl
@[simp] theorem modSpin_preWindows (s : State) (n : Nat) (f : Spindle → Spindle) : (modSpin s n f).preWindows = s.preWindows := rfl
@[simp] theorem setSpin_strikes (s : State) (n : Nat) (x : Spindle) : (setSpin s n x).strikes = s.strikes := rfl
@[simp] theorem modSpin_strikes (s : State) (n : Nat) (f : Spindle → Spindle) : (modSpin s n f).strikes = s.strikes := rfl
@[simp] theorem setSpin_scerrs (s : State) (n : Nat) (x : Spindle) : (setSpin s n x).scerrs = s.scerrs := rfl
@[simp] theorem modSpin_scerrs (s : State) (n : Nat) (f : Spindle → Spindle) : (modSpin s n f).scerrs = s.scerrs := rfl
@[simp] theorem setSpin_mapCount (s : State) (n : Nat) (x : Spindle) : (setSpin s n x).mapCount = s.mapCount := rfl
@[simp] theorem modSpin_mapCount (s : State) (n : Nat) (f : Spindle → Spindle) : (modSpin s n f).mapCount = s.mapCount := rfl
@[simp] theorem setSpin_svcCycle (s : State) (n : Nat) (x : Spindle) : (setSpin s n x).svcCycle = s.svcCycle := rfl
@[simp] theorem modSpin_svcCycle (s : State) (n : Nat) (f : Spindle → Spindle) : (modSpin s n f).svcCycle = s.svcCycle := rfl
@[simp] theorem setSpin_meas (s : State) (n : Nat) (x : Spindle) : (setSpin s n x).meas = s.meas := rfl
@[simp] theorem modSpin_meas (s : State) (n : Nat) (f : Spindle → Spindle) : (modSpin s n f).meas = s.meas := rfl
@[simp] theorem setSpin_boot (s : State) (n : Nat) (x : Spindle) : (setSpin s n x).boot = s.boot := rfl
@[simp] theorem modSpin_boot (s : State) (n : Nat) (f : Spindle → Spindle) : (modSpin s n f).boot = s.boot := rfl
@[simp] theorem setSpin_dom (s : State) (n : Nat) (x : Spindle) : (setSpin s n x).dom = s.dom := rfl
@[simp] theorem modSpin_dom (s : State) (n : Nat) (f : Spindle → Spindle) : (modSpin s n f).dom = s.dom := rfl
@[simp] theorem setSpin_hostUp (s : State) (n : Nat) (x : Spindle) : (setSpin s n x).hostUp = s.hostUp := rfl
@[simp] theorem modSpin_hostUp (s : State) (n : Nat) (f : Spindle → Spindle) : (modSpin s n f).hostUp = s.hostUp := rfl
@[simp] theorem setSpin_hostLost (s : State) (n : Nat) (x : Spindle) : (setSpin s n x).hostLost = s.hostLost := rfl
@[simp] theorem modSpin_hostLost (s : State) (n : Nat) (f : Spindle → Spindle) : (modSpin s n f).hostLost = s.hostLost := rfl
@[simp] theorem setSpin_hostHeld (s : State) (n : Nat) (x : Spindle) : (setSpin s n x).hostHeld = s.hostHeld := rfl
@[simp] theorem modSpin_hostHeld (s : State) (n : Nat) (f : Spindle → Spindle) : (modSpin s n f).hostHeld = s.hostHeld := rfl
@[simp] theorem setSpin_agenda (s : State) (n : Nat) (x : Spindle) : (setSpin s n x).agenda = s.agenda := rfl
@[simp] theorem modSpin_agenda (s : State) (n : Nat) (f : Spindle → Spindle) : (modSpin s n f).agenda = s.agenda := rfl
@[simp] theorem setSpin_cur (s : State) (n : Nat) (x : Spindle) : (setSpin s n x).cur = s.cur := rfl
@[simp] theorem modSpin_cur (s : State) (n : Nat) (f : Spindle → Spindle) : (modSpin s n f).cur = s.cur := rfl
@[simp] theorem setSpin_curCore (s : State) (n : Nat) (x : Spindle) : (setSpin s n x).curCore = s.curCore := rfl
@[simp] theorem modSpin_curCore (s : State) (n : Nat) (f : Spindle → Spindle) : (modSpin s n f).curCore = s.curCore := rfl
@[simp] theorem setSpin_freeCount (s : State) (n : Nat) (x : Spindle) : (setSpin s n x).freeCount = s.freeCount := rfl
@[simp] theorem modSpin_freeCount (s : State) (n : Nat) (f : Spindle → Spindle) : (modSpin s n f).freeCount = s.freeCount := rfl

@[simp] theorem spinAt_setSpin_same (s : State) (n : Nat) (x : Spindle) : spinAt (setSpin s n x) n = x := by simp [spinAt, setSpin]
@[simp] theorem spinAt_setSpin_other (s : State) {n k : Nat} (h : k ≠ n) (x : Spindle) : spinAt (setSpin s n x) k = spinAt s k := by simp [spinAt, setSpin, h]
theorem spinAt_setSpin (s : State) (n k : Nat) (x : Spindle) : spinAt (setSpin s n x) k = if k = n then x else spinAt s k := by simp [spinAt, setSpin, smGet_smSet]
@[simp] theorem spinAt_modSpin_same (s : State) (n : Nat) (f : Spindle → Spindle) : spinAt (modSpin s n f) n = f (spinAt s n) := by simp [modSpin]
@[simp] theorem spinAt_modSpin_other (s : State) {n k : Nat} (h : k ≠ n) (f : Spindle → Spindle) : spinAt (modSpin s n f) k = spinAt s k := by simp [modSpin, h]
theorem spinAt_modSpin (s : State) (n k : Nat) (f : Spindle → Spindle) : spinAt (modSpin s n f) k = if k = n then f (spinAt s n) else spinAt s k := by simp [modSpin, spinAt_setSpin]
@[simp] theorem ctxOf_setSpin (s : State) (n k : Nat) (x : Spindle) : ctxOf (setSpin s n x) k = ctxOf s k := rfl
@[simp] theorem ctxOf_modSpin (s : State) (n k : Nat) (f : Spindle → Spindle) : ctxOf (modSpin s n f) k = ctxOf s k := rfl
@[simp] theorem tileAt_setSpin (s : State) (n k : Nat) (x : Spindle) : tileAt (setSpin s n x) k = tileAt s k := rfl
@[simp] theorem tileAt_modSpin (s : State) (n k : Nat) (f : Spindle → Spindle) : tileAt (modSpin s n f) k = tileAt s k := rfl
@[simp] theorem sliceAt_setSpin (s : State) (n k : Nat) (x : Spindle) : sliceAt (setSpin s n x) k = sliceAt s k := rfl
@[simp] theorem sliceAt_modSpin (s : State) (n k : Nat) (f : Spindle → Spindle) : sliceAt (modSpin s n f) k = sliceAt s k := rfl
@[simp] theorem agentAt_setSpin (s : State) (n k : Nat) (x : Spindle) : agentAt (setSpin s n x) k = agentAt s k := rfl
@[simp] theorem agentAt_modSpin (s : State) (n k : Nat) (f : Spindle → Spindle) : agentAt (modSpin s n f) k = agentAt s k := rfl
@[simp] theorem dieAt_setSpin (s : State) (n k : Nat) (x : Spindle) : dieAt (setSpin s n x) k = dieAt s k := rfl
@[simp] theorem dieAt_modSpin (s : State) (n k : Nat) (f : Spindle → Spindle) : dieAt (modSpin s n f) k = dieAt s k := rfl
@[simp] theorem partAt_setSpin (s : State) (n k : Nat) (x : Spindle) : partAt (setSpin s n x) k = partAt s k := rfl
@[simp] theorem partAt_modSpin (s : State) (n k : Nat) (f : Spindle → Spindle) : partAt (modSpin s n f) k = partAt s k := rfl

/-! ## setSlice and modSlice -/

@[simp] theorem setSlice_time (s : State) (n : Nat) (x : Slice) : (setSlice s n x).time = s.time := rfl
@[simp] theorem modSlice_time (s : State) (n : Nat) (f : Slice → Slice) : (modSlice s n f).time = s.time := rfl
@[simp] theorem setSlice_dies (s : State) (n : Nat) (x : Slice) : (setSlice s n x).dies = s.dies := rfl
@[simp] theorem modSlice_dies (s : State) (n : Nat) (f : Slice → Slice) : (modSlice s n f).dies = s.dies := rfl
@[simp] theorem setSlice_watts (s : State) (n : Nat) (x : Slice) : (setSlice s n x).watts = s.watts := rfl
@[simp] theorem modSlice_watts (s : State) (n : Nat) (f : Slice → Slice) : (modSlice s n f).watts = s.watts := rfl
@[simp] theorem setSlice_fclk (s : State) (n : Nat) (x : Slice) : (setSlice s n x).fclk = s.fclk := rfl
@[simp] theorem modSlice_fclk (s : State) (n : Nat) (f : Slice → Slice) : (modSlice s n f).fclk = s.fclk := rfl
@[simp] theorem setSlice_lim (s : State) (n : Nat) (x : Slice) : (setSlice s n x).lim = s.lim := rfl
@[simp] theorem modSlice_lim (s : State) (n : Nat) (f : Slice → Slice) : (modSlice s n f).lim = s.lim := rfl
@[simp] theorem setSlice_mem (s : State) (n : Nat) (x : Slice) : (setSlice s n x).mem = s.mem := rfl
@[simp] theorem modSlice_mem (s : State) (n : Nat) (f : Slice → Slice) : (modSlice s n f).mem = s.mem := rfl
@[simp] theorem setSlice_pub (s : State) (n : Nat) (x : Slice) : (setSlice s n x).pub = s.pub := rfl
@[simp] theorem modSlice_pub (s : State) (n : Nat) (f : Slice → Slice) : (modSlice s n f).pub = s.pub := rfl
@[simp] theorem setSlice_ctag (s : State) (n : Nat) (x : Slice) : (setSlice s n x).ctag = s.ctag := rfl
@[simp] theorem modSlice_ctag (s : State) (n : Nat) (f : Slice → Slice) : (modSlice s n f).ctag = s.ctag := rfl
@[simp] theorem setSlice_errs (s : State) (n : Nat) (x : Slice) : (setSlice s n x).errs = s.errs := rfl
@[simp] theorem modSlice_errs (s : State) (n : Nat) (f : Slice → Slice) : (modSlice s n f).errs = s.errs := rfl
@[simp] theorem setSlice_serrs (s : State) (n : Nat) (x : Slice) : (setSlice s n x).serrs = s.serrs := rfl
@[simp] theorem modSlice_serrs (s : State) (n : Nat) (f : Slice → Slice) : (modSlice s n f).serrs = s.serrs := rfl
@[simp] theorem setSlice_cerrs (s : State) (n : Nat) (x : Slice) : (setSlice s n x).cerrs = s.cerrs := rfl
@[simp] theorem modSlice_cerrs (s : State) (n : Nat) (f : Slice → Slice) : (modSlice s n f).cerrs = s.cerrs := rfl
@[simp] theorem setSlice_ctxs (s : State) (n : Nat) (x : Slice) : (setSlice s n x).ctxs = s.ctxs := rfl
@[simp] theorem modSlice_ctxs (s : State) (n : Nat) (f : Slice → Slice) : (modSlice s n f).ctxs = s.ctxs := rfl
@[simp] theorem setSlice_spindles (s : State) (n : Nat) (x : Slice) : (setSlice s n x).spindles = s.spindles := rfl
@[simp] theorem modSlice_spindles (s : State) (n : Nat) (f : Slice → Slice) : (modSlice s n f).spindles = s.spindles := rfl
@[simp] theorem setSlice_tiles (s : State) (n : Nat) (x : Slice) : (setSlice s n x).tiles = s.tiles := rfl
@[simp] theorem modSlice_tiles (s : State) (n : Nat) (f : Slice → Slice) : (modSlice s n f).tiles = s.tiles := rfl
@[simp] theorem setSlice_agents (s : State) (n : Nat) (x : Slice) : (setSlice s n x).agents = s.agents := rfl
@[simp] theorem modSlice_agents (s : State) (n : Nat) (f : Slice → Slice) : (modSlice s n f).agents = s.agents := rfl
@[simp] theorem setSlice_parts (s : State) (n : Nat) (x : Slice) : (setSlice s n x).parts = s.parts := rfl
@[simp] theorem modSlice_parts (s : State) (n : Nat) (f : Slice → Slice) : (modSlice s n f).parts = s.parts := rfl
@[simp] theorem setSlice_seqs (s : State) (n : Nat) (x : Slice) : (setSlice s n x).seqs = s.seqs := rfl
@[simp] theorem modSlice_seqs (s : State) (n : Nat) (f : Slice → Slice) : (modSlice s n f).seqs = s.seqs := rfl
@[simp] theorem setSlice_futs (s : State) (n : Nat) (x : Slice) : (setSlice s n x).futs = s.futs := rfl
@[simp] theorem modSlice_futs (s : State) (n : Nat) (f : Slice → Slice) : (modSlice s n f).futs = s.futs := rfl
@[simp] theorem setSlice_seqAge (s : State) (n : Nat) (x : Slice) : (setSlice s n x).seqAge = s.seqAge := rfl
@[simp] theorem modSlice_seqAge (s : State) (n : Nat) (f : Slice → Slice) : (modSlice s n f).seqAge = s.seqAge := rfl
@[simp] theorem setSlice_feeds (s : State) (n : Nat) (x : Slice) : (setSlice s n x).feeds = s.feeds := rfl
@[simp] theorem modSlice_feeds (s : State) (n : Nat) (f : Slice → Slice) : (modSlice s n f).feeds = s.feeds := rfl
@[simp] theorem setSlice_resident (s : State) (n : Nat) (x : Slice) : (setSlice s n x).resident = s.resident := rfl
@[simp] theorem modSlice_resident (s : State) (n : Nat) (f : Slice → Slice) : (modSlice s n f).resident = s.resident := rfl
@[simp] theorem setSlice_experts (s : State) (n : Nat) (x : Slice) : (setSlice s n x).experts = s.experts := rfl
@[simp] theorem modSlice_experts (s : State) (n : Nat) (f : Slice → Slice) : (modSlice s n f).experts = s.experts := rfl
@[simp] theorem setSlice_owners (s : State) (n : Nat) (x : Slice) : (setSlice s n x).owners = s.owners := rfl
@[simp] theorem modSlice_owners (s : State) (n : Nat) (f : Slice → Slice) : (modSlice s n f).owners = s.owners := rfl
@[simp] theorem setSlice_chanOwner (s : State) (n : Nat) (x : Slice) : (setSlice s n x).chanOwner = s.chanOwner := rfl
@[simp] theorem modSlice_chanOwner (s : State) (n : Nat) (f : Slice → Slice) : (modSlice s n f).chanOwner = s.chanOwner := rfl
@[simp] theorem setSlice_launches (s : State) (n : Nat) (x : Slice) : (setSlice s n x).launches = s.launches := rfl
@[simp] theorem modSlice_launches (s : State) (n : Nat) (f : Slice → Slice) : (modSlice s n f).launches = s.launches := rfl
@[simp] theorem setSlice_flights (s : State) (n : Nat) (x : Slice) : (setSlice s n x).flights = s.flights := rfl
@[simp] theorem modSlice_flights (s : State) (n : Nat) (f : Slice → Slice) : (modSlice s n f).flights = s.flights := rfl
@[simp] theorem setSlice_scOut (s : State) (n : Nat) (x : Slice) : (setSlice s n x).scOut = s.scOut := rfl
@[simp] theorem modSlice_scOut (s : State) (n : Nat) (f : Slice → Slice) : (modSlice s n f).scOut = s.scOut := rfl
@[simp] theorem setSlice_scOrder (s : State) (n : Nat) (x : Slice) : (setSlice s n x).scOrder = s.scOrder := rfl
@[simp] theorem modSlice_scOrder (s : State) (n : Nat) (f : Slice → Slice) : (modSlice s n f).scOrder = s.scOrder := rfl
@[simp] theorem setSlice_cmdNext (s : State) (n : Nat) (x : Slice) : (setSlice s n x).cmdNext = s.cmdNext := rfl
@[simp] theorem modSlice_cmdNext (s : State) (n : Nat) (f : Slice → Slice) : (modSlice s n f).cmdNext = s.cmdNext := rfl
@[simp] theorem setSlice_claimAge (s : State) (n : Nat) (x : Slice) : (setSlice s n x).claimAge = s.claimAge := rfl
@[simp] theorem modSlice_claimAge (s : State) (n : Nat) (f : Slice → Slice) : (modSlice s n f).claimAge = s.claimAge := rfl
@[simp] theorem setSlice_launchNext (s : State) (n : Nat) (x : Slice) : (setSlice s n x).launchNext = s.launchNext := rfl
@[simp] theorem modSlice_launchNext (s : State) (n : Nat) (f : Slice → Slice) : (modSlice s n f).launchNext = s.launchNext := rfl
@[simp] theorem setSlice_lossWalks (s : State) (n : Nat) (x : Slice) : (setSlice s n x).lossWalks = s.lossWalks := rfl
@[simp] theorem modSlice_lossWalks (s : State) (n : Nat) (f : Slice → Slice) : (modSlice s n f).lossWalks = s.lossWalks := rfl
@[simp] theorem setSlice_posted (s : State) (n : Nat) (x : Slice) : (setSlice s n x).posted = s.posted := rfl
@[simp] theorem modSlice_posted (s : State) (n : Nat) (f : Slice → Slice) : (modSlice s n f).posted = s.posted := rfl
@[simp] theorem setSlice_replies (s : State) (n : Nat) (x : Slice) : (setSlice s n x).replies = s.replies := rfl
@[simp] theorem modSlice_replies (s : State) (n : Nat) (f : Slice → Slice) : (modSlice s n f).replies = s.replies := rfl
@[simp] theorem setSlice_ilines (s : State) (n : Nat) (x : Slice) : (setSlice s n x).ilines = s.ilines := rfl
@[simp] theorem modSlice_ilines (s : State) (n : Nat) (f : Slice → Slice) : (modSlice s n f).ilines = s.ilines := rfl
@[simp] theorem setSlice_wants (s : State) (n : Nat) (x : Slice) : (setSlice s n x).wants = s.wants := rfl
@[simp] theorem modSlice_wants (s : State) (n : Nat) (f : Slice → Slice) : (modSlice s n f).wants = s.wants := rfl
@[simp] theorem setSlice_wantBy (s : State) (n : Nat) (x : Slice) : (setSlice s n x).wantBy = s.wantBy := rfl
@[simp] theorem modSlice_wantBy (s : State) (n : Nat) (f : Slice → Slice) : (modSlice s n f).wantBy = s.wantBy := rfl
@[simp] theorem setSlice_farCores (s : State) (n : Nat) (x : Slice) : (setSlice s n x).farCores = s.farCores := rfl
@[simp] theorem modSlice_farCores (s : State) (n : Nat) (f : Slice → Slice) : (modSlice s n f).farCores = s.farCores := rfl
@[simp] theorem setSlice_devWrites (s : State) (n : Nat) (x : Slice) : (setSlice s n x).devWrites = s.devWrites := rfl
@[simp] theorem modSlice_devWrites (s : State) (n : Nat) (f : Slice → Slice) : (modSlice s n f).devWrites = s.devWrites := rfl
@[simp] theorem setSlice_publishing (s : State) (n : Nat) (x : Slice) : (setSlice s n x).publishing = s.publishing := rfl
@[simp] theorem modSlice_publishing (s : State) (n : Nat) (f : Slice → Slice) : (modSlice s n f).publishing = s.publishing := rfl
@[simp] theorem setSlice_preFp (s : State) (n : Nat) (x : Slice) : (setSlice s n x).preFp = s.preFp := rfl
@[simp] theorem modSlice_preFp (s : State) (n : Nat) (f : Slice → Slice) : (modSlice s n f).preFp = s.preFp := rfl
@[simp] theorem setSlice_lag (s : State) (n : Nat) (x : Slice) : (setSlice s n x).lag = s.lag := rfl
@[simp] theorem modSlice_lag (s : State) (n : Nat) (f : Slice → Slice) : (modSlice s n f).lag = s.lag := rfl
@[simp] theorem setSlice_hostQueue (s : State) (n : Nat) (x : Slice) : (setSlice s n x).hostQueue = s.hostQueue := rfl
@[simp] theorem modSlice_hostQueue (s : State) (n : Nat) (f : Slice → Slice) : (modSlice s n f).hostQueue = s.hostQueue := rfl
@[simp] theorem setSlice_remoteQueue (s : State) (n : Nat) (x : Slice) : (setSlice s n x).remoteQueue = s.remoteQueue := rfl
@[simp] theorem modSlice_remoteQueue (s : State) (n : Nat) (f : Slice → Slice) : (modSlice s n f).remoteQueue = s.remoteQueue := rfl
@[simp] theorem setSlice_lateRecords (s : State) (n : Nat) (x : Slice) : (setSlice s n x).lateRecords = s.lateRecords := rfl
@[simp] theorem modSlice_lateRecords (s : State) (n : Nat) (f : Slice → Slice) : (modSlice s n f).lateRecords = s.lateRecords := rfl
@[simp] theorem setSlice_preWindows (s : State) (n : Nat) (x : Slice) : (setSlice s n x).preWindows = s.preWindows := rfl
@[simp] theorem modSlice_preWindows (s : State) (n : Nat) (f : Slice → Slice) : (modSlice s n f).preWindows = s.preWindows := rfl
@[simp] theorem setSlice_strikes (s : State) (n : Nat) (x : Slice) : (setSlice s n x).strikes = s.strikes := rfl
@[simp] theorem modSlice_strikes (s : State) (n : Nat) (f : Slice → Slice) : (modSlice s n f).strikes = s.strikes := rfl
@[simp] theorem setSlice_scerrs (s : State) (n : Nat) (x : Slice) : (setSlice s n x).scerrs = s.scerrs := rfl
@[simp] theorem modSlice_scerrs (s : State) (n : Nat) (f : Slice → Slice) : (modSlice s n f).scerrs = s.scerrs := rfl
@[simp] theorem setSlice_mapCount (s : State) (n : Nat) (x : Slice) : (setSlice s n x).mapCount = s.mapCount := rfl
@[simp] theorem modSlice_mapCount (s : State) (n : Nat) (f : Slice → Slice) : (modSlice s n f).mapCount = s.mapCount := rfl
@[simp] theorem setSlice_svcCycle (s : State) (n : Nat) (x : Slice) : (setSlice s n x).svcCycle = s.svcCycle := rfl
@[simp] theorem modSlice_svcCycle (s : State) (n : Nat) (f : Slice → Slice) : (modSlice s n f).svcCycle = s.svcCycle := rfl
@[simp] theorem setSlice_meas (s : State) (n : Nat) (x : Slice) : (setSlice s n x).meas = s.meas := rfl
@[simp] theorem modSlice_meas (s : State) (n : Nat) (f : Slice → Slice) : (modSlice s n f).meas = s.meas := rfl
@[simp] theorem setSlice_boot (s : State) (n : Nat) (x : Slice) : (setSlice s n x).boot = s.boot := rfl
@[simp] theorem modSlice_boot (s : State) (n : Nat) (f : Slice → Slice) : (modSlice s n f).boot = s.boot := rfl
@[simp] theorem setSlice_dom (s : State) (n : Nat) (x : Slice) : (setSlice s n x).dom = s.dom := rfl
@[simp] theorem modSlice_dom (s : State) (n : Nat) (f : Slice → Slice) : (modSlice s n f).dom = s.dom := rfl
@[simp] theorem setSlice_hostUp (s : State) (n : Nat) (x : Slice) : (setSlice s n x).hostUp = s.hostUp := rfl
@[simp] theorem modSlice_hostUp (s : State) (n : Nat) (f : Slice → Slice) : (modSlice s n f).hostUp = s.hostUp := rfl
@[simp] theorem setSlice_hostLost (s : State) (n : Nat) (x : Slice) : (setSlice s n x).hostLost = s.hostLost := rfl
@[simp] theorem modSlice_hostLost (s : State) (n : Nat) (f : Slice → Slice) : (modSlice s n f).hostLost = s.hostLost := rfl
@[simp] theorem setSlice_hostHeld (s : State) (n : Nat) (x : Slice) : (setSlice s n x).hostHeld = s.hostHeld := rfl
@[simp] theorem modSlice_hostHeld (s : State) (n : Nat) (f : Slice → Slice) : (modSlice s n f).hostHeld = s.hostHeld := rfl
@[simp] theorem setSlice_agenda (s : State) (n : Nat) (x : Slice) : (setSlice s n x).agenda = s.agenda := rfl
@[simp] theorem modSlice_agenda (s : State) (n : Nat) (f : Slice → Slice) : (modSlice s n f).agenda = s.agenda := rfl
@[simp] theorem setSlice_cur (s : State) (n : Nat) (x : Slice) : (setSlice s n x).cur = s.cur := rfl
@[simp] theorem modSlice_cur (s : State) (n : Nat) (f : Slice → Slice) : (modSlice s n f).cur = s.cur := rfl
@[simp] theorem setSlice_curCore (s : State) (n : Nat) (x : Slice) : (setSlice s n x).curCore = s.curCore := rfl
@[simp] theorem modSlice_curCore (s : State) (n : Nat) (f : Slice → Slice) : (modSlice s n f).curCore = s.curCore := rfl
@[simp] theorem setSlice_freeCount (s : State) (n : Nat) (x : Slice) : (setSlice s n x).freeCount = s.freeCount := rfl
@[simp] theorem modSlice_freeCount (s : State) (n : Nat) (f : Slice → Slice) : (modSlice s n f).freeCount = s.freeCount := rfl

@[simp] theorem sliceAt_setSlice_same (s : State) (n : Nat) (x : Slice) : sliceAt (setSlice s n x) n = x := by simp [sliceAt, setSlice]
@[simp] theorem sliceAt_setSlice_other (s : State) {n k : Nat} (h : k ≠ n) (x : Slice) : sliceAt (setSlice s n x) k = sliceAt s k := by simp [sliceAt, setSlice, h]
theorem sliceAt_setSlice (s : State) (n k : Nat) (x : Slice) : sliceAt (setSlice s n x) k = if k = n then x else sliceAt s k := by simp [sliceAt, setSlice, smGet_smSet]
@[simp] theorem sliceAt_modSlice_same (s : State) (n : Nat) (f : Slice → Slice) : sliceAt (modSlice s n f) n = f (sliceAt s n) := by simp [modSlice]
@[simp] theorem sliceAt_modSlice_other (s : State) {n k : Nat} (h : k ≠ n) (f : Slice → Slice) : sliceAt (modSlice s n f) k = sliceAt s k := by simp [modSlice, h]
theorem sliceAt_modSlice (s : State) (n k : Nat) (f : Slice → Slice) : sliceAt (modSlice s n f) k = if k = n then f (sliceAt s n) else sliceAt s k := by simp [modSlice, sliceAt_setSlice]
@[simp] theorem ctxOf_setSlice (s : State) (n k : Nat) (x : Slice) : ctxOf (setSlice s n x) k = ctxOf s k := rfl
@[simp] theorem ctxOf_modSlice (s : State) (n k : Nat) (f : Slice → Slice) : ctxOf (modSlice s n f) k = ctxOf s k := rfl
@[simp] theorem tileAt_setSlice (s : State) (n k : Nat) (x : Slice) : tileAt (setSlice s n x) k = tileAt s k := rfl
@[simp] theorem tileAt_modSlice (s : State) (n k : Nat) (f : Slice → Slice) : tileAt (modSlice s n f) k = tileAt s k := rfl
@[simp] theorem spinAt_setSlice (s : State) (n k : Nat) (x : Slice) : spinAt (setSlice s n x) k = spinAt s k := rfl
@[simp] theorem spinAt_modSlice (s : State) (n k : Nat) (f : Slice → Slice) : spinAt (modSlice s n f) k = spinAt s k := rfl
@[simp] theorem agentAt_setSlice (s : State) (n k : Nat) (x : Slice) : agentAt (setSlice s n x) k = agentAt s k := rfl
@[simp] theorem agentAt_modSlice (s : State) (n k : Nat) (f : Slice → Slice) : agentAt (modSlice s n f) k = agentAt s k := rfl
@[simp] theorem dieAt_setSlice (s : State) (n k : Nat) (x : Slice) : dieAt (setSlice s n x) k = dieAt s k := rfl
@[simp] theorem dieAt_modSlice (s : State) (n k : Nat) (f : Slice → Slice) : dieAt (modSlice s n f) k = dieAt s k := rfl
@[simp] theorem partAt_setSlice (s : State) (n k : Nat) (x : Slice) : partAt (setSlice s n x) k = partAt s k := rfl
@[simp] theorem partAt_modSlice (s : State) (n k : Nat) (f : Slice → Slice) : partAt (modSlice s n f) k = partAt s k := rfl

/-! ## setAgent and modAgent -/

@[simp] theorem setAgent_time (s : State) (n : Nat) (x : Agent) : (setAgent s n x).time = s.time := rfl
@[simp] theorem modAgent_time (s : State) (n : Nat) (f : Agent → Agent) : (modAgent s n f).time = s.time := rfl
@[simp] theorem setAgent_dies (s : State) (n : Nat) (x : Agent) : (setAgent s n x).dies = s.dies := rfl
@[simp] theorem modAgent_dies (s : State) (n : Nat) (f : Agent → Agent) : (modAgent s n f).dies = s.dies := rfl
@[simp] theorem setAgent_watts (s : State) (n : Nat) (x : Agent) : (setAgent s n x).watts = s.watts := rfl
@[simp] theorem modAgent_watts (s : State) (n : Nat) (f : Agent → Agent) : (modAgent s n f).watts = s.watts := rfl
@[simp] theorem setAgent_fclk (s : State) (n : Nat) (x : Agent) : (setAgent s n x).fclk = s.fclk := rfl
@[simp] theorem modAgent_fclk (s : State) (n : Nat) (f : Agent → Agent) : (modAgent s n f).fclk = s.fclk := rfl
@[simp] theorem setAgent_lim (s : State) (n : Nat) (x : Agent) : (setAgent s n x).lim = s.lim := rfl
@[simp] theorem modAgent_lim (s : State) (n : Nat) (f : Agent → Agent) : (modAgent s n f).lim = s.lim := rfl
@[simp] theorem setAgent_mem (s : State) (n : Nat) (x : Agent) : (setAgent s n x).mem = s.mem := rfl
@[simp] theorem modAgent_mem (s : State) (n : Nat) (f : Agent → Agent) : (modAgent s n f).mem = s.mem := rfl
@[simp] theorem setAgent_pub (s : State) (n : Nat) (x : Agent) : (setAgent s n x).pub = s.pub := rfl
@[simp] theorem modAgent_pub (s : State) (n : Nat) (f : Agent → Agent) : (modAgent s n f).pub = s.pub := rfl
@[simp] theorem setAgent_ctag (s : State) (n : Nat) (x : Agent) : (setAgent s n x).ctag = s.ctag := rfl
@[simp] theorem modAgent_ctag (s : State) (n : Nat) (f : Agent → Agent) : (modAgent s n f).ctag = s.ctag := rfl
@[simp] theorem setAgent_errs (s : State) (n : Nat) (x : Agent) : (setAgent s n x).errs = s.errs := rfl
@[simp] theorem modAgent_errs (s : State) (n : Nat) (f : Agent → Agent) : (modAgent s n f).errs = s.errs := rfl
@[simp] theorem setAgent_serrs (s : State) (n : Nat) (x : Agent) : (setAgent s n x).serrs = s.serrs := rfl
@[simp] theorem modAgent_serrs (s : State) (n : Nat) (f : Agent → Agent) : (modAgent s n f).serrs = s.serrs := rfl
@[simp] theorem setAgent_cerrs (s : State) (n : Nat) (x : Agent) : (setAgent s n x).cerrs = s.cerrs := rfl
@[simp] theorem modAgent_cerrs (s : State) (n : Nat) (f : Agent → Agent) : (modAgent s n f).cerrs = s.cerrs := rfl
@[simp] theorem setAgent_ctxs (s : State) (n : Nat) (x : Agent) : (setAgent s n x).ctxs = s.ctxs := rfl
@[simp] theorem modAgent_ctxs (s : State) (n : Nat) (f : Agent → Agent) : (modAgent s n f).ctxs = s.ctxs := rfl
@[simp] theorem setAgent_spindles (s : State) (n : Nat) (x : Agent) : (setAgent s n x).spindles = s.spindles := rfl
@[simp] theorem modAgent_spindles (s : State) (n : Nat) (f : Agent → Agent) : (modAgent s n f).spindles = s.spindles := rfl
@[simp] theorem setAgent_tiles (s : State) (n : Nat) (x : Agent) : (setAgent s n x).tiles = s.tiles := rfl
@[simp] theorem modAgent_tiles (s : State) (n : Nat) (f : Agent → Agent) : (modAgent s n f).tiles = s.tiles := rfl
@[simp] theorem setAgent_slices (s : State) (n : Nat) (x : Agent) : (setAgent s n x).slices = s.slices := rfl
@[simp] theorem modAgent_slices (s : State) (n : Nat) (f : Agent → Agent) : (modAgent s n f).slices = s.slices := rfl
@[simp] theorem setAgent_parts (s : State) (n : Nat) (x : Agent) : (setAgent s n x).parts = s.parts := rfl
@[simp] theorem modAgent_parts (s : State) (n : Nat) (f : Agent → Agent) : (modAgent s n f).parts = s.parts := rfl
@[simp] theorem setAgent_seqs (s : State) (n : Nat) (x : Agent) : (setAgent s n x).seqs = s.seqs := rfl
@[simp] theorem modAgent_seqs (s : State) (n : Nat) (f : Agent → Agent) : (modAgent s n f).seqs = s.seqs := rfl
@[simp] theorem setAgent_futs (s : State) (n : Nat) (x : Agent) : (setAgent s n x).futs = s.futs := rfl
@[simp] theorem modAgent_futs (s : State) (n : Nat) (f : Agent → Agent) : (modAgent s n f).futs = s.futs := rfl
@[simp] theorem setAgent_seqAge (s : State) (n : Nat) (x : Agent) : (setAgent s n x).seqAge = s.seqAge := rfl
@[simp] theorem modAgent_seqAge (s : State) (n : Nat) (f : Agent → Agent) : (modAgent s n f).seqAge = s.seqAge := rfl
@[simp] theorem setAgent_feeds (s : State) (n : Nat) (x : Agent) : (setAgent s n x).feeds = s.feeds := rfl
@[simp] theorem modAgent_feeds (s : State) (n : Nat) (f : Agent → Agent) : (modAgent s n f).feeds = s.feeds := rfl
@[simp] theorem setAgent_resident (s : State) (n : Nat) (x : Agent) : (setAgent s n x).resident = s.resident := rfl
@[simp] theorem modAgent_resident (s : State) (n : Nat) (f : Agent → Agent) : (modAgent s n f).resident = s.resident := rfl
@[simp] theorem setAgent_experts (s : State) (n : Nat) (x : Agent) : (setAgent s n x).experts = s.experts := rfl
@[simp] theorem modAgent_experts (s : State) (n : Nat) (f : Agent → Agent) : (modAgent s n f).experts = s.experts := rfl
@[simp] theorem setAgent_owners (s : State) (n : Nat) (x : Agent) : (setAgent s n x).owners = s.owners := rfl
@[simp] theorem modAgent_owners (s : State) (n : Nat) (f : Agent → Agent) : (modAgent s n f).owners = s.owners := rfl
@[simp] theorem setAgent_chanOwner (s : State) (n : Nat) (x : Agent) : (setAgent s n x).chanOwner = s.chanOwner := rfl
@[simp] theorem modAgent_chanOwner (s : State) (n : Nat) (f : Agent → Agent) : (modAgent s n f).chanOwner = s.chanOwner := rfl
@[simp] theorem setAgent_launches (s : State) (n : Nat) (x : Agent) : (setAgent s n x).launches = s.launches := rfl
@[simp] theorem modAgent_launches (s : State) (n : Nat) (f : Agent → Agent) : (modAgent s n f).launches = s.launches := rfl
@[simp] theorem setAgent_flights (s : State) (n : Nat) (x : Agent) : (setAgent s n x).flights = s.flights := rfl
@[simp] theorem modAgent_flights (s : State) (n : Nat) (f : Agent → Agent) : (modAgent s n f).flights = s.flights := rfl
@[simp] theorem setAgent_scOut (s : State) (n : Nat) (x : Agent) : (setAgent s n x).scOut = s.scOut := rfl
@[simp] theorem modAgent_scOut (s : State) (n : Nat) (f : Agent → Agent) : (modAgent s n f).scOut = s.scOut := rfl
@[simp] theorem setAgent_scOrder (s : State) (n : Nat) (x : Agent) : (setAgent s n x).scOrder = s.scOrder := rfl
@[simp] theorem modAgent_scOrder (s : State) (n : Nat) (f : Agent → Agent) : (modAgent s n f).scOrder = s.scOrder := rfl
@[simp] theorem setAgent_cmdNext (s : State) (n : Nat) (x : Agent) : (setAgent s n x).cmdNext = s.cmdNext := rfl
@[simp] theorem modAgent_cmdNext (s : State) (n : Nat) (f : Agent → Agent) : (modAgent s n f).cmdNext = s.cmdNext := rfl
@[simp] theorem setAgent_claimAge (s : State) (n : Nat) (x : Agent) : (setAgent s n x).claimAge = s.claimAge := rfl
@[simp] theorem modAgent_claimAge (s : State) (n : Nat) (f : Agent → Agent) : (modAgent s n f).claimAge = s.claimAge := rfl
@[simp] theorem setAgent_launchNext (s : State) (n : Nat) (x : Agent) : (setAgent s n x).launchNext = s.launchNext := rfl
@[simp] theorem modAgent_launchNext (s : State) (n : Nat) (f : Agent → Agent) : (modAgent s n f).launchNext = s.launchNext := rfl
@[simp] theorem setAgent_lossWalks (s : State) (n : Nat) (x : Agent) : (setAgent s n x).lossWalks = s.lossWalks := rfl
@[simp] theorem modAgent_lossWalks (s : State) (n : Nat) (f : Agent → Agent) : (modAgent s n f).lossWalks = s.lossWalks := rfl
@[simp] theorem setAgent_posted (s : State) (n : Nat) (x : Agent) : (setAgent s n x).posted = s.posted := rfl
@[simp] theorem modAgent_posted (s : State) (n : Nat) (f : Agent → Agent) : (modAgent s n f).posted = s.posted := rfl
@[simp] theorem setAgent_replies (s : State) (n : Nat) (x : Agent) : (setAgent s n x).replies = s.replies := rfl
@[simp] theorem modAgent_replies (s : State) (n : Nat) (f : Agent → Agent) : (modAgent s n f).replies = s.replies := rfl
@[simp] theorem setAgent_ilines (s : State) (n : Nat) (x : Agent) : (setAgent s n x).ilines = s.ilines := rfl
@[simp] theorem modAgent_ilines (s : State) (n : Nat) (f : Agent → Agent) : (modAgent s n f).ilines = s.ilines := rfl
@[simp] theorem setAgent_wants (s : State) (n : Nat) (x : Agent) : (setAgent s n x).wants = s.wants := rfl
@[simp] theorem modAgent_wants (s : State) (n : Nat) (f : Agent → Agent) : (modAgent s n f).wants = s.wants := rfl
@[simp] theorem setAgent_wantBy (s : State) (n : Nat) (x : Agent) : (setAgent s n x).wantBy = s.wantBy := rfl
@[simp] theorem modAgent_wantBy (s : State) (n : Nat) (f : Agent → Agent) : (modAgent s n f).wantBy = s.wantBy := rfl
@[simp] theorem setAgent_farCores (s : State) (n : Nat) (x : Agent) : (setAgent s n x).farCores = s.farCores := rfl
@[simp] theorem modAgent_farCores (s : State) (n : Nat) (f : Agent → Agent) : (modAgent s n f).farCores = s.farCores := rfl
@[simp] theorem setAgent_devWrites (s : State) (n : Nat) (x : Agent) : (setAgent s n x).devWrites = s.devWrites := rfl
@[simp] theorem modAgent_devWrites (s : State) (n : Nat) (f : Agent → Agent) : (modAgent s n f).devWrites = s.devWrites := rfl
@[simp] theorem setAgent_publishing (s : State) (n : Nat) (x : Agent) : (setAgent s n x).publishing = s.publishing := rfl
@[simp] theorem modAgent_publishing (s : State) (n : Nat) (f : Agent → Agent) : (modAgent s n f).publishing = s.publishing := rfl
@[simp] theorem setAgent_preFp (s : State) (n : Nat) (x : Agent) : (setAgent s n x).preFp = s.preFp := rfl
@[simp] theorem modAgent_preFp (s : State) (n : Nat) (f : Agent → Agent) : (modAgent s n f).preFp = s.preFp := rfl
@[simp] theorem setAgent_lag (s : State) (n : Nat) (x : Agent) : (setAgent s n x).lag = s.lag := rfl
@[simp] theorem modAgent_lag (s : State) (n : Nat) (f : Agent → Agent) : (modAgent s n f).lag = s.lag := rfl
@[simp] theorem setAgent_hostQueue (s : State) (n : Nat) (x : Agent) : (setAgent s n x).hostQueue = s.hostQueue := rfl
@[simp] theorem modAgent_hostQueue (s : State) (n : Nat) (f : Agent → Agent) : (modAgent s n f).hostQueue = s.hostQueue := rfl
@[simp] theorem setAgent_remoteQueue (s : State) (n : Nat) (x : Agent) : (setAgent s n x).remoteQueue = s.remoteQueue := rfl
@[simp] theorem modAgent_remoteQueue (s : State) (n : Nat) (f : Agent → Agent) : (modAgent s n f).remoteQueue = s.remoteQueue := rfl
@[simp] theorem setAgent_lateRecords (s : State) (n : Nat) (x : Agent) : (setAgent s n x).lateRecords = s.lateRecords := rfl
@[simp] theorem modAgent_lateRecords (s : State) (n : Nat) (f : Agent → Agent) : (modAgent s n f).lateRecords = s.lateRecords := rfl
@[simp] theorem setAgent_preWindows (s : State) (n : Nat) (x : Agent) : (setAgent s n x).preWindows = s.preWindows := rfl
@[simp] theorem modAgent_preWindows (s : State) (n : Nat) (f : Agent → Agent) : (modAgent s n f).preWindows = s.preWindows := rfl
@[simp] theorem setAgent_strikes (s : State) (n : Nat) (x : Agent) : (setAgent s n x).strikes = s.strikes := rfl
@[simp] theorem modAgent_strikes (s : State) (n : Nat) (f : Agent → Agent) : (modAgent s n f).strikes = s.strikes := rfl
@[simp] theorem setAgent_scerrs (s : State) (n : Nat) (x : Agent) : (setAgent s n x).scerrs = s.scerrs := rfl
@[simp] theorem modAgent_scerrs (s : State) (n : Nat) (f : Agent → Agent) : (modAgent s n f).scerrs = s.scerrs := rfl
@[simp] theorem setAgent_mapCount (s : State) (n : Nat) (x : Agent) : (setAgent s n x).mapCount = s.mapCount := rfl
@[simp] theorem modAgent_mapCount (s : State) (n : Nat) (f : Agent → Agent) : (modAgent s n f).mapCount = s.mapCount := rfl
@[simp] theorem setAgent_svcCycle (s : State) (n : Nat) (x : Agent) : (setAgent s n x).svcCycle = s.svcCycle := rfl
@[simp] theorem modAgent_svcCycle (s : State) (n : Nat) (f : Agent → Agent) : (modAgent s n f).svcCycle = s.svcCycle := rfl
@[simp] theorem setAgent_meas (s : State) (n : Nat) (x : Agent) : (setAgent s n x).meas = s.meas := rfl
@[simp] theorem modAgent_meas (s : State) (n : Nat) (f : Agent → Agent) : (modAgent s n f).meas = s.meas := rfl
@[simp] theorem setAgent_boot (s : State) (n : Nat) (x : Agent) : (setAgent s n x).boot = s.boot := rfl
@[simp] theorem modAgent_boot (s : State) (n : Nat) (f : Agent → Agent) : (modAgent s n f).boot = s.boot := rfl
@[simp] theorem setAgent_dom (s : State) (n : Nat) (x : Agent) : (setAgent s n x).dom = s.dom := rfl
@[simp] theorem modAgent_dom (s : State) (n : Nat) (f : Agent → Agent) : (modAgent s n f).dom = s.dom := rfl
@[simp] theorem setAgent_hostUp (s : State) (n : Nat) (x : Agent) : (setAgent s n x).hostUp = s.hostUp := rfl
@[simp] theorem modAgent_hostUp (s : State) (n : Nat) (f : Agent → Agent) : (modAgent s n f).hostUp = s.hostUp := rfl
@[simp] theorem setAgent_hostLost (s : State) (n : Nat) (x : Agent) : (setAgent s n x).hostLost = s.hostLost := rfl
@[simp] theorem modAgent_hostLost (s : State) (n : Nat) (f : Agent → Agent) : (modAgent s n f).hostLost = s.hostLost := rfl
@[simp] theorem setAgent_hostHeld (s : State) (n : Nat) (x : Agent) : (setAgent s n x).hostHeld = s.hostHeld := rfl
@[simp] theorem modAgent_hostHeld (s : State) (n : Nat) (f : Agent → Agent) : (modAgent s n f).hostHeld = s.hostHeld := rfl
@[simp] theorem setAgent_agenda (s : State) (n : Nat) (x : Agent) : (setAgent s n x).agenda = s.agenda := rfl
@[simp] theorem modAgent_agenda (s : State) (n : Nat) (f : Agent → Agent) : (modAgent s n f).agenda = s.agenda := rfl
@[simp] theorem setAgent_cur (s : State) (n : Nat) (x : Agent) : (setAgent s n x).cur = s.cur := rfl
@[simp] theorem modAgent_cur (s : State) (n : Nat) (f : Agent → Agent) : (modAgent s n f).cur = s.cur := rfl
@[simp] theorem setAgent_curCore (s : State) (n : Nat) (x : Agent) : (setAgent s n x).curCore = s.curCore := rfl
@[simp] theorem modAgent_curCore (s : State) (n : Nat) (f : Agent → Agent) : (modAgent s n f).curCore = s.curCore := rfl
@[simp] theorem setAgent_freeCount (s : State) (n : Nat) (x : Agent) : (setAgent s n x).freeCount = s.freeCount := rfl
@[simp] theorem modAgent_freeCount (s : State) (n : Nat) (f : Agent → Agent) : (modAgent s n f).freeCount = s.freeCount := rfl

@[simp] theorem agentAt_setAgent_same (s : State) (n : Nat) (x : Agent) : agentAt (setAgent s n x) n = x := by simp [agentAt, setAgent]
@[simp] theorem agentAt_setAgent_other (s : State) {n k : Nat} (h : k ≠ n) (x : Agent) : agentAt (setAgent s n x) k = agentAt s k := by simp [agentAt, setAgent, h]
theorem agentAt_setAgent (s : State) (n k : Nat) (x : Agent) : agentAt (setAgent s n x) k = if k = n then x else agentAt s k := by simp [agentAt, setAgent, smGet_smSet]
@[simp] theorem agentAt_modAgent_same (s : State) (n : Nat) (f : Agent → Agent) : agentAt (modAgent s n f) n = f (agentAt s n) := by simp [modAgent]
@[simp] theorem agentAt_modAgent_other (s : State) {n k : Nat} (h : k ≠ n) (f : Agent → Agent) : agentAt (modAgent s n f) k = agentAt s k := by simp [modAgent, h]
theorem agentAt_modAgent (s : State) (n k : Nat) (f : Agent → Agent) : agentAt (modAgent s n f) k = if k = n then f (agentAt s n) else agentAt s k := by simp [modAgent, agentAt_setAgent]
@[simp] theorem ctxOf_setAgent (s : State) (n k : Nat) (x : Agent) : ctxOf (setAgent s n x) k = ctxOf s k := rfl
@[simp] theorem ctxOf_modAgent (s : State) (n k : Nat) (f : Agent → Agent) : ctxOf (modAgent s n f) k = ctxOf s k := rfl
@[simp] theorem tileAt_setAgent (s : State) (n k : Nat) (x : Agent) : tileAt (setAgent s n x) k = tileAt s k := rfl
@[simp] theorem tileAt_modAgent (s : State) (n k : Nat) (f : Agent → Agent) : tileAt (modAgent s n f) k = tileAt s k := rfl
@[simp] theorem spinAt_setAgent (s : State) (n k : Nat) (x : Agent) : spinAt (setAgent s n x) k = spinAt s k := rfl
@[simp] theorem spinAt_modAgent (s : State) (n k : Nat) (f : Agent → Agent) : spinAt (modAgent s n f) k = spinAt s k := rfl
@[simp] theorem sliceAt_setAgent (s : State) (n k : Nat) (x : Agent) : sliceAt (setAgent s n x) k = sliceAt s k := rfl
@[simp] theorem sliceAt_modAgent (s : State) (n k : Nat) (f : Agent → Agent) : sliceAt (modAgent s n f) k = sliceAt s k := rfl
@[simp] theorem dieAt_setAgent (s : State) (n k : Nat) (x : Agent) : dieAt (setAgent s n x) k = dieAt s k := rfl
@[simp] theorem dieAt_modAgent (s : State) (n k : Nat) (f : Agent → Agent) : dieAt (modAgent s n f) k = dieAt s k := rfl
@[simp] theorem partAt_setAgent (s : State) (n k : Nat) (x : Agent) : partAt (setAgent s n x) k = partAt s k := rfl
@[simp] theorem partAt_modAgent (s : State) (n k : Nat) (f : Agent → Agent) : partAt (modAgent s n f) k = partAt s k := rfl

/-! ## setDie and modDie -/

@[simp] theorem setDie_time (s : State) (n : Nat) (x : Die) : (setDie s n x).time = s.time := rfl
@[simp] theorem setDie_watts (s : State) (n : Nat) (x : Die) : (setDie s n x).watts = s.watts := rfl
@[simp] theorem setDie_fclk (s : State) (n : Nat) (x : Die) : (setDie s n x).fclk = s.fclk := rfl
@[simp] theorem setDie_lim (s : State) (n : Nat) (x : Die) : (setDie s n x).lim = s.lim := rfl
@[simp] theorem setDie_mem (s : State) (n : Nat) (x : Die) : (setDie s n x).mem = s.mem := rfl
@[simp] theorem setDie_pub (s : State) (n : Nat) (x : Die) : (setDie s n x).pub = s.pub := rfl
@[simp] theorem setDie_ctag (s : State) (n : Nat) (x : Die) : (setDie s n x).ctag = s.ctag := rfl
@[simp] theorem setDie_errs (s : State) (n : Nat) (x : Die) : (setDie s n x).errs = s.errs := rfl
@[simp] theorem setDie_serrs (s : State) (n : Nat) (x : Die) : (setDie s n x).serrs = s.serrs := rfl
@[simp] theorem setDie_cerrs (s : State) (n : Nat) (x : Die) : (setDie s n x).cerrs = s.cerrs := rfl
@[simp] theorem setDie_ctxs (s : State) (n : Nat) (x : Die) : (setDie s n x).ctxs = s.ctxs := rfl
@[simp] theorem setDie_spindles (s : State) (n : Nat) (x : Die) : (setDie s n x).spindles = s.spindles := rfl
@[simp] theorem setDie_tiles (s : State) (n : Nat) (x : Die) : (setDie s n x).tiles = s.tiles := rfl
@[simp] theorem setDie_slices (s : State) (n : Nat) (x : Die) : (setDie s n x).slices = s.slices := rfl
@[simp] theorem setDie_agents (s : State) (n : Nat) (x : Die) : (setDie s n x).agents = s.agents := rfl
@[simp] theorem setDie_parts (s : State) (n : Nat) (x : Die) : (setDie s n x).parts = s.parts := rfl
@[simp] theorem setDie_seqs (s : State) (n : Nat) (x : Die) : (setDie s n x).seqs = s.seqs := rfl
@[simp] theorem setDie_futs (s : State) (n : Nat) (x : Die) : (setDie s n x).futs = s.futs := rfl
@[simp] theorem setDie_seqAge (s : State) (n : Nat) (x : Die) : (setDie s n x).seqAge = s.seqAge := rfl
@[simp] theorem setDie_feeds (s : State) (n : Nat) (x : Die) : (setDie s n x).feeds = s.feeds := rfl
@[simp] theorem setDie_resident (s : State) (n : Nat) (x : Die) : (setDie s n x).resident = s.resident := rfl
@[simp] theorem setDie_experts (s : State) (n : Nat) (x : Die) : (setDie s n x).experts = s.experts := rfl
@[simp] theorem setDie_owners (s : State) (n : Nat) (x : Die) : (setDie s n x).owners = s.owners := rfl
@[simp] theorem setDie_chanOwner (s : State) (n : Nat) (x : Die) : (setDie s n x).chanOwner = s.chanOwner := rfl
@[simp] theorem setDie_launches (s : State) (n : Nat) (x : Die) : (setDie s n x).launches = s.launches := rfl
@[simp] theorem setDie_flights (s : State) (n : Nat) (x : Die) : (setDie s n x).flights = s.flights := rfl
@[simp] theorem setDie_scOut (s : State) (n : Nat) (x : Die) : (setDie s n x).scOut = s.scOut := rfl
@[simp] theorem setDie_scOrder (s : State) (n : Nat) (x : Die) : (setDie s n x).scOrder = s.scOrder := rfl
@[simp] theorem setDie_cmdNext (s : State) (n : Nat) (x : Die) : (setDie s n x).cmdNext = s.cmdNext := rfl
@[simp] theorem setDie_claimAge (s : State) (n : Nat) (x : Die) : (setDie s n x).claimAge = s.claimAge := rfl
@[simp] theorem setDie_launchNext (s : State) (n : Nat) (x : Die) : (setDie s n x).launchNext = s.launchNext := rfl
@[simp] theorem setDie_lossWalks (s : State) (n : Nat) (x : Die) : (setDie s n x).lossWalks = s.lossWalks := rfl
@[simp] theorem setDie_posted (s : State) (n : Nat) (x : Die) : (setDie s n x).posted = s.posted := rfl
@[simp] theorem setDie_replies (s : State) (n : Nat) (x : Die) : (setDie s n x).replies = s.replies := rfl
@[simp] theorem setDie_ilines (s : State) (n : Nat) (x : Die) : (setDie s n x).ilines = s.ilines := rfl
@[simp] theorem setDie_wants (s : State) (n : Nat) (x : Die) : (setDie s n x).wants = s.wants := rfl
@[simp] theorem setDie_wantBy (s : State) (n : Nat) (x : Die) : (setDie s n x).wantBy = s.wantBy := rfl
@[simp] theorem setDie_farCores (s : State) (n : Nat) (x : Die) : (setDie s n x).farCores = s.farCores := rfl
@[simp] theorem setDie_devWrites (s : State) (n : Nat) (x : Die) : (setDie s n x).devWrites = s.devWrites := rfl
@[simp] theorem setDie_publishing (s : State) (n : Nat) (x : Die) : (setDie s n x).publishing = s.publishing := rfl
@[simp] theorem setDie_preFp (s : State) (n : Nat) (x : Die) : (setDie s n x).preFp = s.preFp := rfl
@[simp] theorem setDie_lag (s : State) (n : Nat) (x : Die) : (setDie s n x).lag = s.lag := rfl
@[simp] theorem setDie_hostQueue (s : State) (n : Nat) (x : Die) : (setDie s n x).hostQueue = s.hostQueue := rfl
@[simp] theorem setDie_remoteQueue (s : State) (n : Nat) (x : Die) : (setDie s n x).remoteQueue = s.remoteQueue := rfl
@[simp] theorem setDie_lateRecords (s : State) (n : Nat) (x : Die) : (setDie s n x).lateRecords = s.lateRecords := rfl
@[simp] theorem setDie_preWindows (s : State) (n : Nat) (x : Die) : (setDie s n x).preWindows = s.preWindows := rfl
@[simp] theorem setDie_strikes (s : State) (n : Nat) (x : Die) : (setDie s n x).strikes = s.strikes := rfl
@[simp] theorem setDie_scerrs (s : State) (n : Nat) (x : Die) : (setDie s n x).scerrs = s.scerrs := rfl
@[simp] theorem setDie_mapCount (s : State) (n : Nat) (x : Die) : (setDie s n x).mapCount = s.mapCount := rfl
@[simp] theorem setDie_svcCycle (s : State) (n : Nat) (x : Die) : (setDie s n x).svcCycle = s.svcCycle := rfl
@[simp] theorem setDie_meas (s : State) (n : Nat) (x : Die) : (setDie s n x).meas = s.meas := rfl
@[simp] theorem setDie_boot (s : State) (n : Nat) (x : Die) : (setDie s n x).boot = s.boot := rfl
@[simp] theorem setDie_dom (s : State) (n : Nat) (x : Die) : (setDie s n x).dom = s.dom := rfl
@[simp] theorem setDie_hostUp (s : State) (n : Nat) (x : Die) : (setDie s n x).hostUp = s.hostUp := rfl
@[simp] theorem setDie_hostLost (s : State) (n : Nat) (x : Die) : (setDie s n x).hostLost = s.hostLost := rfl
@[simp] theorem setDie_hostHeld (s : State) (n : Nat) (x : Die) : (setDie s n x).hostHeld = s.hostHeld := rfl
@[simp] theorem setDie_agenda (s : State) (n : Nat) (x : Die) : (setDie s n x).agenda = s.agenda := rfl
@[simp] theorem setDie_cur (s : State) (n : Nat) (x : Die) : (setDie s n x).cur = s.cur := rfl
@[simp] theorem setDie_curCore (s : State) (n : Nat) (x : Die) : (setDie s n x).curCore = s.curCore := rfl
@[simp] theorem setDie_freeCount (s : State) (n : Nat) (x : Die) : (setDie s n x).freeCount = s.freeCount := rfl

@[simp] theorem dieAt_setDie_same (s : State) (n : Nat) (x : Die) : dieAt (setDie s n x) n = x := by simp [dieAt, setDie]
@[simp] theorem dieAt_setDie_other (s : State) {n k : Nat} (h : k ≠ n) (x : Die) : dieAt (setDie s n x) k = dieAt s k := by simp [dieAt, setDie, h]
theorem dieAt_setDie (s : State) (n k : Nat) (x : Die) : dieAt (setDie s n x) k = if k = n then x else dieAt s k := by simp [dieAt, setDie, smGet_smSet]
@[simp] theorem ctxOf_setDie (s : State) (n k : Nat) (x : Die) : ctxOf (setDie s n x) k = ctxOf s k := rfl
@[simp] theorem tileAt_setDie (s : State) (n k : Nat) (x : Die) : tileAt (setDie s n x) k = tileAt s k := rfl
@[simp] theorem spinAt_setDie (s : State) (n k : Nat) (x : Die) : spinAt (setDie s n x) k = spinAt s k := rfl
@[simp] theorem sliceAt_setDie (s : State) (n k : Nat) (x : Die) : sliceAt (setDie s n x) k = sliceAt s k := rfl
@[simp] theorem agentAt_setDie (s : State) (n k : Nat) (x : Die) : agentAt (setDie s n x) k = agentAt s k := rfl
@[simp] theorem partAt_setDie (s : State) (n k : Nat) (x : Die) : partAt (setDie s n x) k = partAt s k := rfl

/-! ## setPart -/

@[simp] theorem setPart_time (s : State) (p : Nat) (x : Part) : (setPart s p x).time = s.time := rfl
@[simp] theorem setPart_dies (s : State) (p : Nat) (x : Part) : (setPart s p x).dies = s.dies := rfl
@[simp] theorem setPart_watts (s : State) (p : Nat) (x : Part) : (setPart s p x).watts = s.watts := rfl
@[simp] theorem setPart_fclk (s : State) (p : Nat) (x : Part) : (setPart s p x).fclk = s.fclk := rfl
@[simp] theorem setPart_lim (s : State) (p : Nat) (x : Part) : (setPart s p x).lim = s.lim := rfl
@[simp] theorem setPart_mem (s : State) (p : Nat) (x : Part) : (setPart s p x).mem = s.mem := rfl
@[simp] theorem setPart_pub (s : State) (p : Nat) (x : Part) : (setPart s p x).pub = s.pub := rfl
@[simp] theorem setPart_ctag (s : State) (p : Nat) (x : Part) : (setPart s p x).ctag = s.ctag := rfl
@[simp] theorem setPart_errs (s : State) (p : Nat) (x : Part) : (setPart s p x).errs = s.errs := rfl
@[simp] theorem setPart_serrs (s : State) (p : Nat) (x : Part) : (setPart s p x).serrs = s.serrs := rfl
@[simp] theorem setPart_cerrs (s : State) (p : Nat) (x : Part) : (setPart s p x).cerrs = s.cerrs := rfl
@[simp] theorem setPart_ctxs (s : State) (p : Nat) (x : Part) : (setPart s p x).ctxs = s.ctxs := rfl
@[simp] theorem setPart_spindles (s : State) (p : Nat) (x : Part) : (setPart s p x).spindles = s.spindles := rfl
@[simp] theorem setPart_tiles (s : State) (p : Nat) (x : Part) : (setPart s p x).tiles = s.tiles := rfl
@[simp] theorem setPart_slices (s : State) (p : Nat) (x : Part) : (setPart s p x).slices = s.slices := rfl
@[simp] theorem setPart_agents (s : State) (p : Nat) (x : Part) : (setPart s p x).agents = s.agents := rfl
@[simp] theorem setPart_seqs (s : State) (p : Nat) (x : Part) : (setPart s p x).seqs = s.seqs := rfl
@[simp] theorem setPart_futs (s : State) (p : Nat) (x : Part) : (setPart s p x).futs = s.futs := rfl
@[simp] theorem setPart_seqAge (s : State) (p : Nat) (x : Part) : (setPart s p x).seqAge = s.seqAge := rfl
@[simp] theorem setPart_feeds (s : State) (p : Nat) (x : Part) : (setPart s p x).feeds = s.feeds := rfl
@[simp] theorem setPart_resident (s : State) (p : Nat) (x : Part) : (setPart s p x).resident = s.resident := rfl
@[simp] theorem setPart_experts (s : State) (p : Nat) (x : Part) : (setPart s p x).experts = s.experts := rfl
@[simp] theorem setPart_owners (s : State) (p : Nat) (x : Part) : (setPart s p x).owners = s.owners := rfl
@[simp] theorem setPart_chanOwner (s : State) (p : Nat) (x : Part) : (setPart s p x).chanOwner = s.chanOwner := rfl
@[simp] theorem setPart_launches (s : State) (p : Nat) (x : Part) : (setPart s p x).launches = s.launches := rfl
@[simp] theorem setPart_flights (s : State) (p : Nat) (x : Part) : (setPart s p x).flights = s.flights := rfl
@[simp] theorem setPart_scOut (s : State) (p : Nat) (x : Part) : (setPart s p x).scOut = s.scOut := rfl
@[simp] theorem setPart_scOrder (s : State) (p : Nat) (x : Part) : (setPart s p x).scOrder = s.scOrder := rfl
@[simp] theorem setPart_cmdNext (s : State) (p : Nat) (x : Part) : (setPart s p x).cmdNext = s.cmdNext := rfl
@[simp] theorem setPart_claimAge (s : State) (p : Nat) (x : Part) : (setPart s p x).claimAge = s.claimAge := rfl
@[simp] theorem setPart_launchNext (s : State) (p : Nat) (x : Part) : (setPart s p x).launchNext = s.launchNext := rfl
@[simp] theorem setPart_lossWalks (s : State) (p : Nat) (x : Part) : (setPart s p x).lossWalks = s.lossWalks := rfl
@[simp] theorem setPart_posted (s : State) (p : Nat) (x : Part) : (setPart s p x).posted = s.posted := rfl
@[simp] theorem setPart_replies (s : State) (p : Nat) (x : Part) : (setPart s p x).replies = s.replies := rfl
@[simp] theorem setPart_ilines (s : State) (p : Nat) (x : Part) : (setPart s p x).ilines = s.ilines := rfl
@[simp] theorem setPart_wants (s : State) (p : Nat) (x : Part) : (setPart s p x).wants = s.wants := rfl
@[simp] theorem setPart_wantBy (s : State) (p : Nat) (x : Part) : (setPart s p x).wantBy = s.wantBy := rfl
@[simp] theorem setPart_farCores (s : State) (p : Nat) (x : Part) : (setPart s p x).farCores = s.farCores := rfl
@[simp] theorem setPart_devWrites (s : State) (p : Nat) (x : Part) : (setPart s p x).devWrites = s.devWrites := rfl
@[simp] theorem setPart_publishing (s : State) (p : Nat) (x : Part) : (setPart s p x).publishing = s.publishing := rfl
@[simp] theorem setPart_preFp (s : State) (p : Nat) (x : Part) : (setPart s p x).preFp = s.preFp := rfl
@[simp] theorem setPart_lag (s : State) (p : Nat) (x : Part) : (setPart s p x).lag = s.lag := rfl
@[simp] theorem setPart_hostQueue (s : State) (p : Nat) (x : Part) : (setPart s p x).hostQueue = s.hostQueue := rfl
@[simp] theorem setPart_remoteQueue (s : State) (p : Nat) (x : Part) : (setPart s p x).remoteQueue = s.remoteQueue := rfl
@[simp] theorem setPart_lateRecords (s : State) (p : Nat) (x : Part) : (setPart s p x).lateRecords = s.lateRecords := rfl
@[simp] theorem setPart_preWindows (s : State) (p : Nat) (x : Part) : (setPart s p x).preWindows = s.preWindows := rfl
@[simp] theorem setPart_strikes (s : State) (p : Nat) (x : Part) : (setPart s p x).strikes = s.strikes := rfl
@[simp] theorem setPart_scerrs (s : State) (p : Nat) (x : Part) : (setPart s p x).scerrs = s.scerrs := rfl
@[simp] theorem setPart_mapCount (s : State) (p : Nat) (x : Part) : (setPart s p x).mapCount = s.mapCount := rfl
@[simp] theorem setPart_svcCycle (s : State) (p : Nat) (x : Part) : (setPart s p x).svcCycle = s.svcCycle := rfl
@[simp] theorem setPart_meas (s : State) (p : Nat) (x : Part) : (setPart s p x).meas = s.meas := rfl
@[simp] theorem setPart_boot (s : State) (p : Nat) (x : Part) : (setPart s p x).boot = s.boot := rfl
@[simp] theorem setPart_dom (s : State) (p : Nat) (x : Part) : (setPart s p x).dom = s.dom := rfl
@[simp] theorem setPart_hostUp (s : State) (p : Nat) (x : Part) : (setPart s p x).hostUp = s.hostUp := rfl
@[simp] theorem setPart_hostLost (s : State) (p : Nat) (x : Part) : (setPart s p x).hostLost = s.hostLost := rfl
@[simp] theorem setPart_hostHeld (s : State) (p : Nat) (x : Part) : (setPart s p x).hostHeld = s.hostHeld := rfl
@[simp] theorem setPart_agenda (s : State) (p : Nat) (x : Part) : (setPart s p x).agenda = s.agenda := rfl
@[simp] theorem setPart_cur (s : State) (p : Nat) (x : Part) : (setPart s p x).cur = s.cur := rfl
@[simp] theorem setPart_curCore (s : State) (p : Nat) (x : Part) : (setPart s p x).curCore = s.curCore := rfl
@[simp] theorem setPart_freeCount (s : State) (p : Nat) (x : Part) : (setPart s p x).freeCount = s.freeCount := rfl
@[simp] theorem ctxOf_setPart (s : State) (p k : Nat) (x : Part) : ctxOf (setPart s p x) k = ctxOf s k := rfl
@[simp] theorem tileAt_setPart (s : State) (p k : Nat) (x : Part) : tileAt (setPart s p x) k = tileAt s k := rfl
@[simp] theorem spinAt_setPart (s : State) (p k : Nat) (x : Part) : spinAt (setPart s p x) k = spinAt s k := rfl
@[simp] theorem sliceAt_setPart (s : State) (p k : Nat) (x : Part) : sliceAt (setPart s p x) k = sliceAt s k := rfl
@[simp] theorem agentAt_setPart (s : State) (p k : Nat) (x : Part) : agentAt (setPart s p x) k = agentAt s k := rfl
@[simp] theorem dieAt_setPart (s : State) (p k : Nat) (x : Part) : dieAt (setPart s p x) k = dieAt s k := rfl
@[simp] theorem partAt_setPart_same (s : State) (p : Nat) (x : Part) : partAt (setPart s p x) p = some x := smFind_smIns_same _ _ _
@[simp] theorem partAt_setPart_other (s : State) {p q : Nat} (h : q ≠ p) (x : Part) : partAt (setPart s p x) q = partAt s q :=
  smFind_smIns_other _ h _

/-! ## Every register holds its reset value -/

@[simp] theorem ctxOf_reset (n : Nat) : ctxOf State.reset n = {} := rfl
@[simp] theorem tileAt_reset (n : Nat) : tileAt State.reset n = {} := rfl
@[simp] theorem spinAt_reset (n : Nat) : spinAt State.reset n = {} := rfl
@[simp] theorem agentAt_reset (n : Nat) : agentAt State.reset n = {} := rfl
@[simp] theorem partAt_reset (n : Nat) : partAt State.reset n = none := rfl

end Sys2Proof.Machine
end

