-- ==== Sys2Proof/Laws/Issue.lean ====
section
/-! SUPPORT. Laws of issue: what a bundle of one operation comes to when its operation passes, is nullified, faults or is held
(R40, R44, R53 to R63). -/
namespace Sys2Proof.Machine
open Sys2Proof.Safety

theorem landDue_settled {s : State} {n k : Nat} (h : (ctxOf s n).pend = []) : landDue s n k = s := by
  simp [landDue, h]
theorem landLoose_settled {s : State} {n : Nat} (h : (ctxOf s n).pend = []) : landLoose s n = s := by
  simp [landLoose, h]
theorem landEvery_settled {s : State} {n : Nat} (h : (ctxOf s n).pend = []) : landEvery s n = s := by
  simp [landEvery, h]
theorem landThose_settled {s : State} {n : Nat} {test : Pending → Bool} (h : (ctxOf s n).pend = []) : landThose s n test = s := by
  simp [landThose, h]
theorem readView_settled {s : State} {n : Nat} (h : (ctxOf s n).pend = []) : readView s n = (ctxOf s n, s) := by
  simp [readView, h]

/-- R31, R64: the bundle of one operation has a header that raises nothing. -/
theorem single_hdrOk (a w : Word) : hdrOk (Bundle.single a w).hdr = true := by
  have h : ∀ k : Slot, hdrOk (BitVec.ofNat 16 (2 ^ (15 - k.num) + 2 ^ 10)) = true := by intro k; cases k <;> decide
  exact h _
/-- R111: STOP is set in it. -/
@[simp] theorem single_stop (a w : Word) : (Bundle.single a w).stop = true := by
  have h : ∀ k : Slot, (BitVec.ofNat 16 (2 ^ (15 - k.num) + 2 ^ 10)).getLsbD 10 = true := by intro k; cases k <;> decide
  exact h _
@[simp] theorem single_addr (a w : Word) : (Bundle.single a w).addr = a := rfl
@[simp] theorem single_len (a w : Word) : (Bundle.single a w).len = 12 := rfl
@[simp] theorem single_dict (a w : Word) : (Bundle.single a w).dict = none := rfl

/-- R64: an operation alone in its bundle stands in a slot that admits it. -/
theorem home_admits (op : BitVec 8) : slotAdmits (homeSlot op) op = true := by
  have h : op.toNat < 256 := op.isLt
  simp only [homeSlot]
  by_cases h1 : op.toNat < 0x40
  · simp [slotAdmits, h1]
  by_cases h2 : op.toNat < 0x80
  · simp [slotAdmits, h1, h2]; omega
  by_cases h3 : op.toNat < 0xA0
  · simp [slotAdmits, h1, h2, h3]; omega
  by_cases h4 : op.toNat < 0xD0
  · simp [slotAdmits, h1, h2, h3, h4]; omega
  · simp [slotAdmits, h1, h2, h3, h4]; omega
theorem home_ne_s1 (op : BitVec 8) : homeSlot op ≠ .s1 := by
  simp only [homeSlot]
  by_cases h1 : op.toNat < 0x40
  · simp [h1]
  by_cases h2 : op.toNat < 0x80
  · simp [h1, h2]
  by_cases h3 : op.toNat < 0xA0
  · simp [h1, h2, h3]
  by_cases h4 : op.toNat < 0xD0 <;> simp [h1, h2, h3, h4]

/-- R60: an operation alone in its bundle has no other of the M or X slot beside it. -/
theorem mates_lone (n : Nat) (c : Ctx) (b : Bundle) (w : Word) (op : Op) (a : Acc) :
    (if homeSlot (opField w) = .m then mates n c b [⟨homeSlot (opField w), w, op⟩] a else []) = [] := by
  split
  · rename_i h
    simp [mates, h]
  · rfl

/-- R397: the first operation of a bundle has none before it that breaks. -/
@[simp] theorem breaks_first (s : State) (pops pushes : List Nat) (taken : Bool) (o : SlotOp) (r : OpRes) :
    breaks ⟨s, [], pops, pushes, taken⟩ o r = r := by
  cases r <;> simp [breaks]
/-- R40: an operation whose guard reads 1 executes. -/
theorem executes_of_guard {c : Ctx} {o : SlotOp} (h : guardOf c o.word = true) : executes c o = true := by simp [executes, h]
/-- R40, R53: an operation whose guard reads 0 does not, but for an attention instruction under way. -/
theorem executes_of_not_guard {c : Ctx} {o : SlotOp} (h : guardOf c o.word = false) (hx : o.op.progress = true → c.attnRun = false) :
    executes c o = false := by
  unfold executes
  rw [h]
  cases hp : o.op.progress
  · simp
  · simp [hx hp]

/-- The one operation of a bundle, by how it runs. -/
def loneRes (s : State) (w : Word) (op : Op) : OpRes :=
  if executes (me s) ⟨homeSlot (opField w), w, op⟩ then runOp s.cur (me s) (Bundle.single (me s).pc w) [] ⟨s, [], [], [], false⟩ ⟨homeSlot (opField w), w, op⟩
  else OpRes.ofRes ⟨s, [], [], [], false⟩ (homeSlot (opField w)) [] []
    (op.null (loneView s w (op.srcs.map (readS (me s)))) s)

/-- What follows the one operation. -/
def loneNext (s : State) (w : Word) : OpRes → State
  | .ok a =>
    match a.effs.findSome? fun e => e.2.last with
    | some f => takeFault s s.cur 0xFB 0 f (me s).pc
    | none => passBundle s.cur (Bundle.single (me s).pc w) a
  | .hold why wt req => parkHeld (req s) s.cur (Bundle.single (me s).pc w) why wt
  | .stay req => modCtx (req s) s.cur fun c => { c with held := some (Bundle.single (me s).pc w) }
  | .stop done f => loneFault (done s) w f
  | .fault f => loneFault s w f

/-- R53 to R63: a legal operation alone in its bundle is run, and its context goes on as the result says. -/
theorem issueOne_eq {s : State} {w : Word} {op : Op} (hr : Ready s) (hl : slotLegal w = true) (hf : opField w ≠ 0xFF)
    (hd : ∀ done f, loneRes s w op ≠ .stop done f) :
    issueOne w op s = .next (loneNext s w (loneRes s w op)) := by
  obtain ⟨hi, hp⟩ := hr
  unfold issueOne needLive
  simp only [hi, if_true]
  refine congrArg Host.Outcome.next ?_
  unfold runBundle
  simp only [me] at hp
  simp only [landDue_settled hp, landLoose_settled hp, landThose_settled hp, ite_self, hp, bne_self_eq_false, Bool.and_false]
  have hh := single_hdrOk (me s).pc w
  simp only [me] at hh
  simp only [hh, single_dict, Bool.not_true, Bool.false_eq_true, and_false, if_false]
  have ho : clashes ⟨homeSlot (opField w), w, op⟩ [⟨homeSlot (opField w), w, op⟩] = false := by simp [clashes]
  have ht : tryBundle s s.cur (Bundle.single (ctxOf s s.cur).pc w) [⟨homeSlot (opField w), w, op⟩] =
      match loneRes s w op with
      | .ok a => (.ok a, ⟨.s0, 0, { run := fun _ s => .ok s {} }⟩)
      | r => (r, ⟨homeSlot (opField w), w, op⟩) := by
    unfold tryBundle
    rw [readView_settled hp]
    simp only [runOps, home_admits, hl, ho, hf, ne_eq, Bool.not_true, Bool.false_eq_true, or_self,
      and_false, false_and, if_false, not_false_eq_true]
    rw [mates_lone]
    simp only [breaks_first]
    rfl
  rw [ht]
  have hpl : ∀ ws, overlaps (ctxOf s s.cur).pend ws = false := by intro ws; rw [hp]; rfl
  cases hres : loneRes s w op with
  | ok a => simp only [loneNext]; cases a.effs.findSome? (fun e => e.2.last) <;> rfl
  | hold why wt req => rfl
  | stay req => rfl
  | stop d f => exact absurd hres (hd d f)
  | fault f => rfl

/-- R44: the destination that pushes to a channel. -/
theorem pushOf_eq {op : Op} {d : BitVec 9} (hd : op.dests = dstS d) :
    pushOf op = if 96 ≤ d.toNat ∧ d.toNat < 112 then some (d.toNat - 96) else none := by
  unfold pushOf; rw [hd]; unfold dstS
  by_cases h1 : d.toNat < 64
  · have h2 : ¬(96 ≤ d.toNat ∧ d.toNat < 112) := by omega
    simp [h1, h2]
  · by_cases h3 : d.toNat < 96
    · have h2 : ¬(96 ≤ d.toNat ∧ d.toNat < 112) := by omega
      simp [h1, h3, h2]
    · by_cases h4 : 96 ≤ d.toNat ∧ d.toNat < 112
      · simp [h1, h3, h4]
      · simp only [h1, h3, h4, if_false, List.findSome?_nil]

/-- What an operation waits for on the channel it pushes to. -/
def pushReady (s : State) (op : Op) : Prop := ∀ ch, pushOf op = some ch → chanPush s (me s) ch 0 = .word 0

theorem pushReady_of_room {s : State} {op : Op} {d : BitVec 9} (hd : op.dests = dstS d) (h : Room s d) : pushReady s op := by
  intro ch hc
  rw [pushOf_eq hd] at hc
  split at hc
  · rename_i hx
    simp only [Option.some.injEq] at hc
    subst hc; exact h hx.1 hx.2
  · simp at hc
theorem pushReady_of_none {s : State} {op : Op} (h : pushOf op = none) : pushReady s op := by
  intro ch hc; simp [h] at hc

/-- An enabled operation whose sources read and whose channel has room runs. -/
theorem loneRes_run {s : State} {w : Word} {op : Op} {args : List Word} {pops : List Nat}
    (hg : guardOf (me s) w = true) (hs : op.service = true → (me s).svc = true) (hk : op.control = true → localOf s.cur = 0)
    (hc : op.claim = true → (me s).hasClaim = true)
    (ha : Reads s op.srcs args pops) (hp : pushReady s op) :
    loneRes s w op = OpRes.ofRes ⟨s, [], [], [], false⟩ (homeSlot (opField w)) pops (pushOf op).toList
      (op.run (loneView s w args) s) := by
  unfold loneRes
  rw [if_pos (executes_of_guard (o := ⟨homeSlot (opField w), w, op⟩) hg)]
  unfold runOp
  have h1 : ((op.service && !(me s).svc) || (op.control && localOf s.cur != 0)) = false := by
    have a1 : (op.service && !(me s).svc) = false := by
      cases h : op.service
      · rfl
      · simp [hs h]
    have a2 : (op.control && localOf s.cur != 0) = false := by
      cases h : op.control
      · rfl
      · simp [hk h]
    rw [a1, a2]; rfl
  have h2 : (op.claim && !(me s).hasClaim) = false := by
    cases h : op.claim
    · rfl
    · simp [hc h]
  rw [h1, h2]
  unfold Reads at ha
  simp only [Bool.false_eq_true, if_false, ha]
  cases hpo : pushOf op with
  | none => rfl
  | some ch => simp only [List.count_nil, hp ch hpo]; rfl

/-- R57: an operation that passes. -/
theorem lone_ok {s t : State} {w : Word} {op : Op} {args : List Word} {pops : List Nat} {e : Eff}
    (hr : Ready s) (hl : slotLegal w = true) (hf : opField w ≠ 0xFF) (hg : guardOf (me s) w = true)
    (hs : op.service = true → (me s).svc = true) (hk : op.control = true → localOf s.cur = 0)
    (hc : op.claim = true → (me s).hasClaim = true)
    (ha : Reads s op.srcs args pops) (hp : pushReady s op) (hrun : op.run (loneView s w args) s = .ok t e)
    (hz : e.last = none) : issueOne w op s = .next (lonePass s t w pops e) := by
  have h := loneRes_run (w := w) hg hs hk hc ha hp
  rw [hrun] at h
  have h1 : ¬(homeSlot (opField w) = Slot.s1 ∧ False ∧ e.jump.isSome = true) := by simp
  have h2 : loneRes s w op = .ok ⟨t, [(homeSlot (opField w), e)], pops, (pushOf op).toList,
      decide (homeSlot (opField w) = .s0) && (e.jump.isSome || e.taken)⟩ := by
    rw [h]; unfold OpRes.ofRes; simp
  rw [issueOne_eq hr hl hf (by rw [h2]; intro _ _ h; cases h), h2]
  simp only [loneNext, List.findSome?_cons, hz, List.findSome?_nil]
  rfl

/-- R40: a nullified operation does nothing. -/
theorem lone_null {s : State} {w : Word} {op : Op} (hr : Ready s) (hl : slotLegal w = true) (hf : opField w ≠ 0xFF)
    (hg : guardOf (me s) w = false) (hx : op.progress = true → (me s).attnRun = false) (hn : ∀ v s, op.null v s = .ok s {}) :
    issueOne w op s = .next (lonePass s s w [] {}) := by
  have h2 : loneRes s w op = .ok ⟨s, [(homeSlot (opField w), {})], [], [], false⟩ := by
    unfold loneRes; rw [if_neg (by simp [executes_of_not_guard (o := ⟨homeSlot (opField w), w, op⟩) hg hx]), hn]; unfold OpRes.ofRes; simp
  rw [issueOne_eq hr hl hf (by rw [h2]; intro _ _ h; cases h), h2]
  rfl

/-- R63: an operation that faults. -/
theorem lone_fault {s : State} {w : Word} {op : Op} {args : List Word} {pops : List Nat} {f : FaultInfo}
    (hr : Ready s) (hl : slotLegal w = true) (hf : opField w ≠ 0xFF) (hg : guardOf (me s) w = true)
    (hs : op.service = true → (me s).svc = true) (hk : op.control = true → localOf s.cur = 0)
    (hc : op.claim = true → (me s).hasClaim = true)
    (ha : Reads s op.srcs args pops) (hp : pushReady s op) (hrun : op.run (loneView s w args) s = .fault f) :
    issueOne w op s = .next (loneFault s w f) := by
  have h := loneRes_run (w := w) hg hs hk hc ha hp
  rw [hrun] at h
  rw [issueOne_eq hr hl hf (by rw [h]; intro _ _ h; cases h), h]
  rfl

/-- R66: a service operation outside service raises F_PRIV. -/
theorem lone_priv {s : State} {w : Word} {op : Op} (hr : Ready s) (hl : slotLegal w = true) (hf : opField w ≠ 0xFF)
    (hg : guardOf (me s) w = true) (hs : op.service = true) (hv : (me s).svc = false) :
    issueOne w op s = .next (loneFault s w ⟨0x0A, 0, 0, none, []⟩) := by
  have h : loneRes s w op = .fault ⟨0x0A, 0, 0, none, []⟩ := by
    unfold loneRes runOp; rw [if_pos (executes_of_guard (o := ⟨homeSlot (opField w), w, op⟩) hg)]; simp [hs, hv]
  rw [issueOne_eq hr hl hf (by rw [h]; intro _ _ h; cases h), h]
  rfl

/-- R42: a vector operation without a claim raises F_NOCLAIM. -/
theorem lone_noclaim {s : State} {w : Word} {op : Op} (hr : Ready s) (hl : slotLegal w = true) (hf : opField w ≠ 0xFF)
    (hg : guardOf (me s) w = true) (hs : op.service = true → (me s).svc = true) (hk : op.control = true → localOf s.cur = 0)
    (hc : op.claim = true)
    (hv : (me s).hasClaim = false) : issueOne w op s = .next (loneFault s w ⟨0x0C, 0, 0, none, []⟩) := by
  have h1 : ((op.service && !(me s).svc) || (op.control && localOf s.cur != 0)) = false := by
    have a1 : (op.service && !(me s).svc) = false := by
      cases h : op.service
      · rfl
      · simp [hs h]
    have a2 : (op.control && localOf s.cur != 0) = false := by
      cases h : op.control
      · rfl
      · simp [hk h]
    rw [a1, a2]; rfl
  have h : loneRes s w op = .fault ⟨0x0C, 0, 0, none, []⟩ := by
    unfold loneRes runOp; rw [if_pos (executes_of_guard (o := ⟨homeSlot (opField w), w, op⟩) hg), h1]; simp [hc, hv]
  rw [issueOne_eq hr hl hf (by rw [h]; intro _ _ h; cases h), h]
  rfl

/-- R252: an operation that is held parks its context. -/
theorem lone_hold {s : State} {w : Word} {op : Op} {args : List Word} {pops : List Nat} {why : Why} {wt : Wait} {req : State → State}
    (hr : Ready s) (hl : slotLegal w = true) (hf : opField w ≠ 0xFF) (hg : guardOf (me s) w = true)
    (hs : op.service = true → (me s).svc = true) (hk : op.control = true → localOf s.cur = 0)
    (hc : op.claim = true → (me s).hasClaim = true)
    (ha : Reads s op.srcs args pops) (hp : pushReady s op) (hrun : op.run (loneView s w args) s = .hold why wt req) :
    issueOne w op s = .next (lonePark s (req s) w why wt) := by
  have h := loneRes_run (w := w) hg hs hk hc ha hp
  rw [hrun] at h
  rw [issueOne_eq hr hl hf (by rw [h]; intro _ _ h; cases h), h]
  rfl

/-! ## Guards by format -/

theorem guardOf_eq (c : Ctx) (w : Word) : guardOf c w = xor (getP c (w.extractLsb' 51 5).toNat) (w.getLsbD 50) := rfl
@[simp] theorem guardOf_RRR (c : Ctx) (op : BitVec 8) (f : RRR) : guardOf c (f.pack op) = xor (getP c f.gp.toNat) f.gn := by
  rw [guardOf_eq, RRR.pack_gp, RRR.pack_gn_bit]
@[simp] theorem guardOf_RRI (c : Ctx) (op : BitVec 8) (f : RRI) : guardOf c (f.pack op) = xor (getP c f.gp.toNat) f.gn := by
  rw [guardOf_eq, RRI.pack_gp, RRI.pack_gn_bit]
@[simp] theorem guardOf_RI (c : Ctx) (op : BitVec 8) (f : RI) : guardOf c (f.pack op) = xor (getP c f.gp.toNat) f.gn := by
  rw [guardOf_eq, RI.pack_gp, RI.pack_gn_bit]
@[simp] theorem guardOf_BRF (c : Ctx) (op : BitVec 8) (f : BRF) : guardOf c (f.pack op) = xor (getP c f.gp.toNat) f.gn := by
  rw [guardOf_eq, BRF.pack_gp, BRF.pack_gn_bit]
@[simp] theorem guardOf_MEMF (c : Ctx) (op : BitVec 8) (f : MEMF) : guardOf c (f.pack op) = xor (getP c f.gp.toNat) f.gn := by
  rw [guardOf_eq, MEMF.pack_gp, MEMF.pack_gn_bit]
@[simp] theorem guardOf_ENGF (c : Ctx) (op : BitVec 8) (f : ENGF) : guardOf c (f.pack op) = xor (getP c f.gp.toNat) f.gn := by
  rw [guardOf_eq, ENGF.pack_gp, ENGF.pack_gn_bit]

/-! ## Scalar operations pass -/

/-- An operation that computes a scalar passes. -/
theorem scalar_passes {s : State} {w : Word} {d : BitVec 9} {srcs : List (BitVec 9)} {args : List Word} {pops : List Nat}
    {bound : Nat} {g : View → Word} {v : Word}
    (hr : Ready s) (hl : slotLegal w = true) (hf : opField w ≠ 0xFF) (hg : guardOf (me s) w = true)
    (ha : Reads s srcs args pops) (hd : Room s d)
    (hv : g (loneView s w args) = v) :
    issueOne w (scalarOp d srcs bound g) s = .next (lonePass s s w pops (landS (me s) d v bound)) := by
  refine lone_ok hr hl hf hg (by intro h; cases h) (by intro h; cases h) (by intro h; cases h) ha (pushReady_of_room rfl hd) ?_ rfl
  rw [← hv]; rfl

/-- An operation of two scalar sources passes. -/
theorem bin_passes {s : State} {f : RRR} {op : BitVec 8} {a b v : Word} {pops : List Nat} {bound : Nat} {g : Word → Word → Word}
    (hr : Ready s) (hl : slotLegal (f.pack op) = true) (hf : op ≠ 0xFF) (hg : Enabled s f.gp f.gn)
    (ha : Reads s [f.a, f.b] [a, b] pops) (hd : Room s f.d) (hv : g a b = v) :
    issueOne (f.pack op) (binOp f bound g) s = .next (lonePass s s (f.pack op) pops (landS (me s) f.d v bound)) :=
  scalar_passes hr hl (by rw [opField_RRR_pack]; exact hf) (by simpa [Enabled] using hg) ha hd hv

/-- An operation of a source and an immediate passes. -/
theorem imm_passes {s : State} {f : RRI} {op : BitVec 8} {a v : Word} {pops : List Nat} {g : Word → Word}
    (hr : Ready s) (hl : slotLegal (f.pack op) = true) (hf : op ≠ 0xFF) (hg : Enabled s f.gp f.gn)
    (ha : Reads s [f.a] [a] pops) (hd : Room s f.d) (hv : g a = v) :
    issueOne (f.pack op) (immOp f g) s = .next (lonePass s s (f.pack op) pops (landS (me s) f.d v 1)) :=
  scalar_passes hr hl (by rw [opField_RRI_pack]; exact hf) (by simpa [Enabled] using hg) ha hd hv

/-- An operation of one scalar source passes. -/
theorem un_passes {s : State} {f : RRR} {op : BitVec 8} {a v : Word} {pops : List Nat} {g : Word → Word}
    (hr : Ready s) (hl : slotLegal (f.pack op) = true) (hf : op ≠ 0xFF) (hg : Enabled s f.gp f.gn)
    (ha : Reads s [f.a] [a] pops) (hd : Room s f.d) (hv : g a = v) :
    issueOne (f.pack op) (unOp f g) s = .next (lonePass s s (f.pack op) pops (landS (me s) f.d v 1)) :=
  scalar_passes hr hl (by rw [opField_RRR_pack]; exact hf) (by simpa [Enabled] using hg) ha hd hv

/-! ## Vector operations pass -/

/-- No vector destination is a channel. -/
theorem pushOf_dstV {op : Op} {d : BitVec 9} (h : op.dests = dstV d) : pushOf op = none := by
  unfold pushOf; rw [h]; unfold dstV
  by_cases h1 : d.toNat < 384
  · simp [h1]
  · by_cases h2 : d.toNat < 392 <;> simp [h1, h2]

/-- An operation that reads no scalar passes when the context holds the claim that it needs. -/
theorem claim_passes {s t : State} {w : Word} {op : Op} {e : Eff} (hr : Ready s) (hl : slotLegal w = true)
    (hf : opField w ≠ 0xFF) (hg : guardOf (me s) w = true) (hc : (me s).hasClaim = true) (hs : op.service = false)
    (hk : op.control = false) (hz : e.last = none) (ha : op.srcs = []) (hp : pushOf op = none) (hrun : op.run (loneView s w []) s = .ok t e) :
    issueOne w op s = .next (lonePass s t w [] e) :=
  lone_ok hr hl hf hg (by simp [hs]) (by simp [hk]) (fun _ => hc) (by rw [ha]; rfl) (pushReady_of_none hp) hrun hz

/-- R113, R114: an element-wise vector operation passes. -/
theorem vec_passes {s : State} {f : RRR} {op : BitVec 8} {w bound : Nat} {sr : View → Bool} {g : View → Nat → Nat → RR}
    (hr : Ready s) (hl : slotLegal (f.pack op) = true) (hf : op ≠ 0xFF) (hg : Enabled s f.gp f.gn)
    (hc : (me s).hasClaim = true) :
    issueOne (f.pack op) (vecOp f w bound sr g) s =
      .next (vecPass s (f.pack op) f w bound (sr (loneView s (f.pack op) [])) (g (loneView s (f.pack op) []))) :=
  claim_passes hr hl (by rw [opField_RRR_pack]; exact hf) (by simpa [Enabled] using hg) hc rfl rfl rfl rfl (pushOf_dstV rfl) rfl

end Sys2Proof.Machine
end

