-- ==== Sys2Proof/Laws/Access.lean ====
section
/-! SUPPORT. Laws of accesses: an operation whose access is performed goes on with the places of its bytes (R207 to R209), and what
a bundle leaves does not depend on its STOP bit being given twice. -/
namespace Sys2Proof.Machine
open Sys2Proof.Safety

/-- R111: a lone bundle has STOP set already. -/
theorem lonePass_stop (s t : State) (w : Word) (pops : List Nat) (e : Eff) (b : Bool) :
    lonePass s t w pops { e with stop := b } = lonePass s t w pops e := by
  unfold lonePass passBundle
  simp only [single_stop, Bool.true_or, if_true]
  rfl

theorem lonePass_heldStop (s t : State) (w : Word) (pops : List Nat) (v : View) (e : Eff) :
    lonePass s t w pops (heldStop v e) = lonePass s t w pops e := lonePass_stop s t w pops e _

/-- R59: a lone bundle has no MA. -/
@[simp] theorem single_ma (a w : Word) : (Bundle.single a w).ma = false := by
  have h : ∀ k : Slot, (BitVec.ofNat 16 (2 ^ (15 - k.num) + 2 ^ 10)).getLsbD 8 = false := by intro k; cases k <;> decide
  exact h _

theorem withPlaces_ok {s t : State} {w : Word} {args : List Word} {watch sys : Bool} {need : Need} {nc : Bool} {ea n : Nat}
    {locs : List Loc} {k : State → List Loc → Res} (h : Placed s watch need nc ea n t locs) :
    withPlaces watch sys (loneView s w args) s need nc ea n k = k t locs := by
  have hm : maWaits s (loneView s w args) ea n = false := by simp only [maWaits, loneView, single_ma, Bool.false_and]
  unfold withPlaces
  unfold Placed at h
  simp only [hm, Bool.false_eq_true, if_false]
  change (match access s (homeReq s need nc watch) ea n with | .ok s locs => k s locs | .hold _ _ => _ | .fault f => _) = _
  rw [h]

end Sys2Proof.Machine
end

