-- ==== Sys2Proof/Laws/Meaning.lean ====
section
/-! SUPPORT. Laws of meanings: what a slot instruction does is what the machine finds by the opcode of its word (R65, R66). -/
set_option maxRecDepth 20000
namespace Sys2Proof.Machine

/-- R65, R66: an instruction issues its word with the meaning that the word's opcode names. -/
def ByOpcode (i : Instr) : Prop :=
  ∀ w, encode i = .slot w → WellFormed i = true → ∀ s, exec i s = issueOne w (slotMeaning w) s

theorem meaning_RRR (op : BitVec 8) (f : RRR) (h : op ≠ 0xFA) : slotMeaning (f.pack op) = slotCoreAt op.toNat (f.pack op) := by
  rw [slotMeaning, slotCore, opField_RRR_pack, if_neg h]
theorem meaning_RRI (op : BitVec 8) (f : RRI) (h : op ≠ 0xFA) : slotMeaning (f.pack op) = slotCoreAt op.toNat (f.pack op) := by
  rw [slotMeaning, slotCore, opField_RRI_pack, if_neg h]
theorem meaning_RI (op : BitVec 8) (f : RI) (h : op ≠ 0xFA) : slotMeaning (f.pack op) = slotCoreAt op.toNat (f.pack op) := by
  rw [slotMeaning, slotCore, opField_RI_pack, if_neg h]
theorem meaning_BRF (op : BitVec 8) (f : BRF) (h : op ≠ 0xFA) : slotMeaning (f.pack op) = slotCoreAt op.toNat (f.pack op) := by
  rw [slotMeaning, slotCore, opField_BRF_pack, if_neg h]
theorem meaning_MEMF (op : BitVec 8) (f : MEMF) (h : op ≠ 0xFA) : slotMeaning (f.pack op) = slotCoreAt op.toNat (f.pack op) := by
  rw [slotMeaning, slotCore, opField_MEMF_pack, if_neg h]
theorem meaning_ENGF (op : BitVec 8) (f : ENGF) (h : op ≠ 0xFA) : slotMeaning (f.pack op) = slotCoreAt op.toNat (f.pack op) := by
  rw [slotMeaning, slotCore, opField_ENGF_pack, if_neg h]

theorem byOpcode_add (f : RRR) : ByOpcode (.add f) := by
  intro w h _ s; cases h
  have e : slotMeaning (f.pack 0x00) = opAdd f := by
    rw [meaning_RRR 0x00 f (by decide)]
    show opAdd (RRR.unpack (f.pack 0x00)) = _; rw [RRR.unpack_pack]
  rw [e]; rfl
theorem byOpcode_sub (f : RRR) : ByOpcode (.sub f) := by
  intro w h _ s; cases h
  have e : slotMeaning (f.pack 0x01) = opSub f := by
    rw [meaning_RRR 0x01 f (by decide)]
    show opSub (RRR.unpack (f.pack 0x01)) = _; rw [RRR.unpack_pack]
  rw [e]; rfl
theorem byOpcode_addi (f : RRI) : ByOpcode (.addi f) := by
  intro w h _ s; cases h
  have e : slotMeaning (f.pack 0x02) = opAddi f := by
    rw [meaning_RRI 0x02 f (by decide)]
    show opAddi (RRI.unpack (f.pack 0x02)) = _; rw [RRI.unpack_pack]
  rw [e]; rfl
theorem byOpcode_mul (f : RRR) : ByOpcode (.mul f) := by
  intro w h _ s; cases h
  have e : slotMeaning (f.pack 0x03) = opMul f := by
    rw [meaning_RRR 0x03 f (by decide)]
    show opMul (RRR.unpack (f.pack 0x03)) = _; rw [RRR.unpack_pack]
  rw [e]; rfl
theorem byOpcode_mulhS (f : RRR) : ByOpcode (.mulhS f) := by
  intro w h _ s; cases h
  have e : slotMeaning (f.pack 0x04) = opMulhS f := by
    rw [meaning_RRR 0x04 f (by decide)]
    show opMulhS (RRR.unpack (f.pack 0x04)) = _; rw [RRR.unpack_pack]
  rw [e]; rfl
theorem byOpcode_mulhZ (f : RRR) : ByOpcode (.mulhZ f) := by
  intro w h _ s; cases h
  have e : slotMeaning (f.pack 0x05) = opMulhZ f := by
    rw [meaning_RRR 0x05 f (by decide)]
    show opMulhZ (RRR.unpack (f.pack 0x05)) = _; rw [RRR.unpack_pack]
  rw [e]; rfl
theorem byOpcode_divS (f : RRR) : ByOpcode (.divS f) := by
  intro w h _ s; cases h
  have e : slotMeaning (f.pack 0x06) = opDivS f := by
    rw [meaning_RRR 0x06 f (by decide)]
    show opDivS (RRR.unpack (f.pack 0x06)) = _; rw [RRR.unpack_pack]
  rw [e]; rfl
theorem byOpcode_divZ (f : RRR) : ByOpcode (.divZ f) := by
  intro w h _ s; cases h
  have e : slotMeaning (f.pack 0x07) = opDivZ f := by
    rw [meaning_RRR 0x07 f (by decide)]
    show opDivZ (RRR.unpack (f.pack 0x07)) = _; rw [RRR.unpack_pack]
  rw [e]; rfl
theorem byOpcode_remS (f : RRR) : ByOpcode (.remS f) := by
  intro w h _ s; cases h
  have e : slotMeaning (f.pack 0x08) = opRemS f := by
    rw [meaning_RRR 0x08 f (by decide)]
    show opRemS (RRR.unpack (f.pack 0x08)) = _; rw [RRR.unpack_pack]
  rw [e]; rfl
theorem byOpcode_remZ (f : RRR) : ByOpcode (.remZ f) := by
  intro w h _ s; cases h
  have e : slotMeaning (f.pack 0x09) = opRemZ f := by
    rw [meaning_RRR 0x09 f (by decide)]
    show opRemZ (RRR.unpack (f.pack 0x09)) = _; rw [RRR.unpack_pack]
  rw [e]; rfl
theorem byOpcode_addsS (f : RRR) : ByOpcode (.addsS f) := by
  intro w h _ s; cases h
  have e : slotMeaning (f.pack 0x0A) = opAddsS f := by
    rw [meaning_RRR 0x0A f (by decide)]
    show opAddsS (RRR.unpack (f.pack 0x0A)) = _; rw [RRR.unpack_pack]
  rw [e]; rfl
theorem byOpcode_addsZ (f : RRR) : ByOpcode (.addsZ f) := by
  intro w h _ s; cases h
  have e : slotMeaning (f.pack 0x0B) = opAddsZ f := by
    rw [meaning_RRR 0x0B f (by decide)]
    show opAddsZ (RRR.unpack (f.pack 0x0B)) = _; rw [RRR.unpack_pack]
  rw [e]; rfl
theorem byOpcode_subsS (f : RRR) : ByOpcode (.subsS f) := by
  intro w h _ s; cases h
  have e : slotMeaning (f.pack 0x0C) = opSubsS f := by
    rw [meaning_RRR 0x0C f (by decide)]
    show opSubsS (RRR.unpack (f.pack 0x0C)) = _; rw [RRR.unpack_pack]
  rw [e]; rfl
theorem byOpcode_subsZ (f : RRR) : ByOpcode (.subsZ f) := by
  intro w h _ s; cases h
  have e : slotMeaning (f.pack 0x0D) = opSubsZ f := by
    rw [meaning_RRR 0x0D f (by decide)]
    show opSubsZ (RRR.unpack (f.pack 0x0D)) = _; rw [RRR.unpack_pack]
  rw [e]; rfl
theorem byOpcode_minS (f : RRR) : ByOpcode (.minS f) := by
  intro w h _ s; cases h
  have e : slotMeaning (f.pack 0x0E) = opMinS f := by
    rw [meaning_RRR 0x0E f (by decide)]
    show opMinS (RRR.unpack (f.pack 0x0E)) = _; rw [RRR.unpack_pack]
  rw [e]; rfl
theorem byOpcode_minZ (f : RRR) : ByOpcode (.minZ f) := by
  intro w h _ s; cases h
  have e : slotMeaning (f.pack 0x0F) = opMinZ f := by
    rw [meaning_RRR 0x0F f (by decide)]
    show opMinZ (RRR.unpack (f.pack 0x0F)) = _; rw [RRR.unpack_pack]
  rw [e]; rfl
theorem byOpcode_maxS (f : RRR) : ByOpcode (.maxS f) := by
  intro w h _ s; cases h
  have e : slotMeaning (f.pack 0x10) = opMaxS f := by
    rw [meaning_RRR 0x10 f (by decide)]
    show opMaxS (RRR.unpack (f.pack 0x10)) = _; rw [RRR.unpack_pack]
  rw [e]; rfl
theorem byOpcode_maxZ (f : RRR) : ByOpcode (.maxZ f) := by
  intro w h _ s; cases h
  have e : slotMeaning (f.pack 0x11) = opMaxZ f := by
    rw [meaning_RRR 0x11 f (by decide)]
    show opMaxZ (RRR.unpack (f.pack 0x11)) = _; rw [RRR.unpack_pack]
  rw [e]; rfl
theorem byOpcode_and (f : RRR) : ByOpcode (.and f) := by
  intro w h _ s; cases h
  have e : slotMeaning (f.pack 0x12) = opAnd f := by
    rw [meaning_RRR 0x12 f (by decide)]
    show opAnd (RRR.unpack (f.pack 0x12)) = _; rw [RRR.unpack_pack]
  rw [e]; rfl
theorem byOpcode_or (f : RRR) : ByOpcode (.or f) := by
  intro w h _ s; cases h
  have e : slotMeaning (f.pack 0x13) = opOr f := by
    rw [meaning_RRR 0x13 f (by decide)]
    show opOr (RRR.unpack (f.pack 0x13)) = _; rw [RRR.unpack_pack]
  rw [e]; rfl
theorem byOpcode_xor (f : RRR) : ByOpcode (.xor f) := by
  intro w h _ s; cases h
  have e : slotMeaning (f.pack 0x14) = opXor f := by
    rw [meaning_RRR 0x14 f (by decide)]
    show opXor (RRR.unpack (f.pack 0x14)) = _; rw [RRR.unpack_pack]
  rw [e]; rfl
theorem byOpcode_andn (f : RRR) : ByOpcode (.andn f) := by
  intro w h _ s; cases h
  have e : slotMeaning (f.pack 0x15) = opAndn f := by
    rw [meaning_RRR 0x15 f (by decide)]
    show opAndn (RRR.unpack (f.pack 0x15)) = _; rw [RRR.unpack_pack]
  rw [e]; rfl
theorem byOpcode_andi (f : RRI) : ByOpcode (.andi f) := by
  intro w h _ s; cases h
  have e : slotMeaning (f.pack 0x16) = opAndi f := by
    rw [meaning_RRI 0x16 f (by decide)]
    show opAndi (RRI.unpack (f.pack 0x16)) = _; rw [RRI.unpack_pack]
  rw [e]; rfl
theorem byOpcode_ori (f : RRI) : ByOpcode (.ori f) := by
  intro w h _ s; cases h
  have e : slotMeaning (f.pack 0x17) = opOri f := by
    rw [meaning_RRI 0x17 f (by decide)]
    show opOri (RRI.unpack (f.pack 0x17)) = _; rw [RRI.unpack_pack]
  rw [e]; rfl
theorem byOpcode_xori (f : RRI) : ByOpcode (.xori f) := by
  intro w h _ s; cases h
  have e : slotMeaning (f.pack 0x18) = opXori f := by
    rw [meaning_RRI 0x18 f (by decide)]
    show opXori (RRI.unpack (f.pack 0x18)) = _; rw [RRI.unpack_pack]
  rw [e]; rfl
theorem byOpcode_shl (f : RRR) : ByOpcode (.shl f) := by
  intro w h _ s; cases h
  have e : slotMeaning (f.pack 0x19) = opShl f := by
    rw [meaning_RRR 0x19 f (by decide)]
    show opShl (RRR.unpack (f.pack 0x19)) = _; rw [RRR.unpack_pack]
  rw [e]; rfl
theorem byOpcode_shrZ (f : RRR) : ByOpcode (.shrZ f) := by
  intro w h _ s; cases h
  have e : slotMeaning (f.pack 0x1A) = opShrZ f := by
    rw [meaning_RRR 0x1A f (by decide)]
    show opShrZ (RRR.unpack (f.pack 0x1A)) = _; rw [RRR.unpack_pack]
  rw [e]; rfl
theorem byOpcode_shrS (f : RRR) : ByOpcode (.shrS f) := by
  intro w h _ s; cases h
  have e : slotMeaning (f.pack 0x1B) = opShrS f := by
    rw [meaning_RRR 0x1B f (by decide)]
    show opShrS (RRR.unpack (f.pack 0x1B)) = _; rw [RRR.unpack_pack]
  rw [e]; rfl
theorem byOpcode_shli (f : RRI) : ByOpcode (.shli f) := by
  intro w h _ s; cases h
  have e : slotMeaning (f.pack 0x1C) = opShli f := by
    rw [meaning_RRI 0x1C f (by decide)]
    show opShli (RRI.unpack (f.pack 0x1C)) = _; rw [RRI.unpack_pack]
  rw [e]; rfl
theorem byOpcode_shriZ (f : RRI) : ByOpcode (.shriZ f) := by
  intro w h _ s; cases h
  have e : slotMeaning (f.pack 0x1D) = opShriZ f := by
    rw [meaning_RRI 0x1D f (by decide)]
    show opShriZ (RRI.unpack (f.pack 0x1D)) = _; rw [RRI.unpack_pack]
  rw [e]; rfl
theorem byOpcode_shriS (f : RRI) : ByOpcode (.shriS f) := by
  intro w h _ s; cases h
  have e : slotMeaning (f.pack 0x1E) = opShriS f := by
    rw [meaning_RRI 0x1E f (by decide)]
    show opShriS (RRI.unpack (f.pack 0x1E)) = _; rw [RRI.unpack_pack]
  rw [e]; rfl
theorem byOpcode_rot (f : RRR) : ByOpcode (.rot f) := by
  intro w h _ s; cases h
  have e : slotMeaning (f.pack 0x1F) = opRot f := by
    rw [meaning_RRR 0x1F f (by decide)]
    show opRot (RRR.unpack (f.pack 0x1F)) = _; rw [RRR.unpack_pack]
  rw [e]; rfl
theorem byOpcode_shadd (f : RRR) : ByOpcode (.shadd f) := by
  intro w h _ s; cases h
  have e : slotMeaning (f.pack 0x20) = opShadd f := by
    rw [meaning_RRR 0x20 f (by decide)]
    show opShadd (RRR.unpack (f.pack 0x20)) = _; rw [RRR.unpack_pack]
  rw [e]; rfl
theorem byOpcode_movi (f : RI) : ByOpcode (.movi f) := by
  intro w h _ s; cases h
  have e : slotMeaning (f.pack 0x21) = opMovi f := by
    rw [meaning_RI 0x21 f (by decide)]
    show opMovi (RI.unpack (f.pack 0x21)) = _; rw [RI.unpack_pack]
  rw [e]; rfl
theorem byOpcode_movhi (f : RI) : ByOpcode (.movhi f) := by
  intro w h _ s; cases h
  have e : slotMeaning (f.pack 0x22) = opMovhi f := by
    rw [meaning_RI 0x22 f (by decide)]
    show opMovhi (RI.unpack (f.pack 0x22)) = _; rw [RI.unpack_pack]
  rw [e]; rfl
theorem byOpcode_bfxS (f : RRI) : ByOpcode (.bfxS f) := by
  intro w h _ s; cases h
  have e : slotMeaning (f.pack 0x23) = opBfxS f := by
    rw [meaning_RRI 0x23 f (by decide)]
    show opBfxS (RRI.unpack (f.pack 0x23)) = _; rw [RRI.unpack_pack]
  rw [e]; rfl
theorem byOpcode_bfxZ (f : RRI) : ByOpcode (.bfxZ f) := by
  intro w h _ s; cases h
  have e : slotMeaning (f.pack 0x24) = opBfxZ f := by
    rw [meaning_RRI 0x24 f (by decide)]
    show opBfxZ (RRI.unpack (f.pack 0x24)) = _; rw [RRI.unpack_pack]
  rw [e]; rfl
theorem byOpcode_bfi (f : RRI) : ByOpcode (.bfi f) := by
  intro w h _ s; cases h
  have e : slotMeaning (f.pack 0x25) = opBfi f := by
    rw [meaning_RRI 0x25 f (by decide)]
    show opBfi (RRI.unpack (f.pack 0x25)) = _; rw [RRI.unpack_pack]
  rw [e]; rfl
theorem byOpcode_clz (f : RRR) : ByOpcode (.clz f) := by
  intro w h _ s; cases h
  have e : slotMeaning (f.pack 0x26) = opClz f := by
    rw [meaning_RRR 0x26 f (by decide)]
    show opClz (RRR.unpack (f.pack 0x26)) = _; rw [RRR.unpack_pack]
  rw [e]; rfl
theorem byOpcode_ctz (f : RRR) : ByOpcode (.ctz f) := by
  intro w h _ s; cases h
  have e : slotMeaning (f.pack 0x27) = opCtz f := by
    rw [meaning_RRR 0x27 f (by decide)]
    show opCtz (RRR.unpack (f.pack 0x27)) = _; rw [RRR.unpack_pack]
  rw [e]; rfl
theorem byOpcode_popc (f : RRR) : ByOpcode (.popc f) := by
  intro w h _ s; cases h
  have e : slotMeaning (f.pack 0x28) = opPopc f := by
    rw [meaning_RRR 0x28 f (by decide)]
    show opPopc (RRR.unpack (f.pack 0x28)) = _; rw [RRR.unpack_pack]
  rw [e]; rfl
theorem byOpcode_clmul (f : RRR) : ByOpcode (.clmul f) := by
  intro w h _ s; cases h
  have e : slotMeaning (f.pack 0x29) = opClmul f := by
    rw [meaning_RRR 0x29 f (by decide)]
    show opClmul (RRR.unpack (f.pack 0x29)) = _; rw [RRR.unpack_pack]
  rw [e]; rfl
theorem byOpcode_clmulh (f : RRR) : ByOpcode (.clmulh f) := by
  intro w h _ s; cases h
  have e : slotMeaning (f.pack 0x2A) = opClmulh f := by
    rw [meaning_RRR 0x2A f (by decide)]
    show opClmulh (RRR.unpack (f.pack 0x2A)) = _; rw [RRR.unpack_pack]
  rw [e]; rfl
theorem byOpcode_bswap (f : RRR) : ByOpcode (.bswap f) := by
  intro w h _ s; cases h
  have e : slotMeaning (f.pack 0x2B) = opBswap f := by
    rw [meaning_RRR 0x2B f (by decide)]
    show opBswap (RRR.unpack (f.pack 0x2B)) = _; rw [RRR.unpack_pack]
  rw [e]; rfl
theorem byOpcode_brev (f : RRR) : ByOpcode (.brev f) := by
  intro w h _ s; cases h
  have e : slotMeaning (f.pack 0x37) = opBrev f := by
    rw [meaning_RRR 0x37 f (by decide)]
    show opBrev (RRR.unpack (f.pack 0x37)) = _; rw [RRR.unpack_pack]
  rw [e]; rfl
theorem byOpcode_cmp (f : RRR) : ByOpcode (.cmp f) := by
  intro w h _ s; cases h
  have e : slotMeaning (f.pack 0x2C) = opCmp f := by
    rw [meaning_RRR 0x2C f (by decide)]
    show opCmp (RRR.unpack (f.pack 0x2C)) = _; rw [RRR.unpack_pack]
  rw [e]; rfl
theorem byOpcode_cmpi (f : RRI) : ByOpcode (.cmpi f) := by
  intro w h _ s; cases h
  have e : slotMeaning (f.pack 0x2D) = opCmpi f := by
    rw [meaning_RRI 0x2D f (by decide)]
    show opCmpi (RRI.unpack (f.pack 0x2D)) = _; rw [RRI.unpack_pack]
  rw [e]; rfl
theorem byOpcode_pbool (f : RRR) : ByOpcode (.pbool f) := by
  intro w h _ s; cases h
  have e : slotMeaning (f.pack 0x2E) = opPbool f := by
    rw [meaning_RRR 0x2E f (by decide)]
    show opPbool (RRR.unpack (f.pack 0x2E)) = _; rw [RRR.unpack_pack]
  rw [e]; rfl
theorem byOpcode_mfc (f : RRI) : ByOpcode (.mfc f) := by
  intro w h _ s; cases h
  have e : slotMeaning (f.pack 0x2F) = opMfc f := by
    rw [meaning_RRI 0x2F f (by decide)]
    show opMfc (RRI.unpack (f.pack 0x2F)) = _; rw [RRI.unpack_pack]
  rw [e]; rfl
theorem byOpcode_mtc (f : RRI) : ByOpcode (.mtc f) := by
  intro w h _ s; cases h
  have e : slotMeaning (f.pack 0x30) = opMtc f := by
    rw [meaning_RRI 0x30 f (by decide)]
    show opMtc (RRI.unpack (f.pack 0x30)) = _; rw [RRI.unpack_pack]
  rw [e]; rfl
theorem byOpcode_sel (f : RRR) : ByOpcode (.sel f) := by
  intro w h _ s; cases h
  have e : slotMeaning (f.pack 0x31) = opSel f := by
    rw [meaning_RRR 0x31 f (by decide)]
    show opSel (RRR.unpack (f.pack 0x31)) = _; rw [RRR.unpack_pack]
  rw [e]; rfl
theorem byOpcode_br (f : BRF) : ByOpcode (.br f) := by
  intro w h _ s; cases h
  have e : slotMeaning (f.pack 0x32) = opBr f := by
    rw [meaning_BRF 0x32 f (by decide)]
    show opBr (BRF.unpack (f.pack 0x32)) = _; rw [BRF.unpack_pack]
  rw [e]; rfl
theorem byOpcode_bri (f : RRR) : ByOpcode (.bri f) := by
  intro w h _ s; cases h
  have e : slotMeaning (f.pack 0x33) = opBri f := by
    rw [meaning_RRR 0x33 f (by decide)]
    show opBri (RRR.unpack (f.pack 0x33)) = _; rw [RRR.unpack_pack]
  rw [e]; rfl
theorem byOpcode_loop (f : BRF) : ByOpcode (.loop f) := by
  intro w h _ s; cases h
  have e : slotMeaning (f.pack 0x34) = opLoop f := by
    rw [meaning_BRF 0x34 f (by decide)]
    show opLoop (BRF.unpack (f.pack 0x34)) = _; rw [BRF.unpack_pack]
  rw [e]; rfl
theorem byOpcode_loopRot (f : BRF) : ByOpcode (.loopRot f) := by
  intro w h _ s; cases h
  have e : slotMeaning (f.pack 0x35) = opLoopRot f := by
    rw [meaning_BRF 0x35 f (by decide)]
    show opLoopRot (BRF.unpack (f.pack 0x35)) = _; rw [BRF.unpack_pack]
  rw [e]; rfl
theorem byOpcode_loopW (f : BRF) : ByOpcode (.loopW f) := by
  intro w h _ s; cases h
  have e : slotMeaning (f.pack 0x36) = opLoopW f := by
    rw [meaning_BRF 0x36 f (by decide)]
    show opLoopW (BRF.unpack (f.pack 0x36)) = _; rw [BRF.unpack_pack]
  rw [e]; rfl
theorem byOpcode_addw (f : RRR) : ByOpcode (.addw f) := by
  intro w h _ s; cases h
  have e : slotMeaning (f.pack 0x38) = opAddw f := by
    rw [meaning_RRR 0x38 f (by decide)]
    show opAddw (RRR.unpack (f.pack 0x38)) = _; rw [RRR.unpack_pack]
  rw [e]; rfl
theorem byOpcode_subw (f : RRR) : ByOpcode (.subw f) := by
  intro w h _ s; cases h
  have e : slotMeaning (f.pack 0x39) = opSubw f := by
    rw [meaning_RRR 0x39 f (by decide)]
    show opSubw (RRR.unpack (f.pack 0x39)) = _; rw [RRR.unpack_pack]
  rw [e]; rfl
theorem byOpcode_mulw (f : RRR) : ByOpcode (.mulw f) := by
  intro w h _ s; cases h
  have e : slotMeaning (f.pack 0x3A) = opMulw f := by
    rw [meaning_RRR 0x3A f (by decide)]
    show opMulw (RRR.unpack (f.pack 0x3A)) = _; rw [RRR.unpack_pack]
  rw [e]; rfl
theorem byOpcode_shlw (f : RRR) : ByOpcode (.shlw f) := by
  intro w h _ s; cases h
  have e : slotMeaning (f.pack 0x3B) = opShlw f := by
    rw [meaning_RRR 0x3B f (by decide)]
    show opShlw (RRR.unpack (f.pack 0x3B)) = _; rw [RRR.unpack_pack]
  rw [e]; rfl
theorem byOpcode_shrwZ (f : RRR) : ByOpcode (.shrwZ f) := by
  intro w h _ s; cases h
  have e : slotMeaning (f.pack 0x3C) = opShrwZ f := by
    rw [meaning_RRR 0x3C f (by decide)]
    show opShrwZ (RRR.unpack (f.pack 0x3C)) = _; rw [RRR.unpack_pack]
  rw [e]; rfl
theorem byOpcode_shrwS (f : RRR) : ByOpcode (.shrwS f) := by
  intro w h _ s; cases h
  have e : slotMeaning (f.pack 0x3D) = opShrwS f := by
    rw [meaning_RRR 0x3D f (by decide)]
    show opShrwS (RRR.unpack (f.pack 0x3D)) = _; rw [RRR.unpack_pack]
  rw [e]; rfl
theorem byOpcode_addiw (f : RRI) : ByOpcode (.addiw f) := by
  intro w h _ s; cases h
  have e : slotMeaning (f.pack 0x3E) = opAddiw f := by
    rw [meaning_RRI 0x3E f (by decide)]
    show opAddiw (RRI.unpack (f.pack 0x3E)) = _; rw [RRI.unpack_pack]
  rw [e]; rfl
theorem byOpcode_nop (f : RRR) : ByOpcode (.nop f) := by
  intro w h _ s; cases h
  have e : slotMeaning (f.pack 0x3F) = opNop f := by
    rw [meaning_RRR 0x3F f (by decide)]
    show opNop (RRR.unpack (f.pack 0x3F)) = _; rw [RRR.unpack_pack]
  rw [e]; rfl
theorem byOpcode_vaddS32 (f : RRR) : ByOpcode (.vaddS32 f) := by
  intro w h _ s; cases h
  have e : slotMeaning (f.pack 0x40) = opVaddS32 f := by
    rw [meaning_RRR 0x40 f (by decide)]
    show opVaddS32 (RRR.unpack (f.pack 0x40)) = _; rw [RRR.unpack_pack]
  rw [e]; rfl
theorem byOpcode_vaddS16 (f : RRR) : ByOpcode (.vaddS16 f) := by
  intro w h _ s; cases h
  have e : slotMeaning (f.pack 0x41) = opVaddS16 f := by
    rw [meaning_RRR 0x41 f (by decide)]
    show opVaddS16 (RRR.unpack (f.pack 0x41)) = _; rw [RRR.unpack_pack]
  rw [e]; rfl
theorem byOpcode_vaddS8 (f : RRR) : ByOpcode (.vaddS8 f) := by
  intro w h _ s; cases h
  have e : slotMeaning (f.pack 0x42) = opVaddS8 f := by
    rw [meaning_RRR 0x42 f (by decide)]
    show opVaddS8 (RRR.unpack (f.pack 0x42)) = _; rw [RRR.unpack_pack]
  rw [e]; rfl
theorem byOpcode_vsubS32 (f : RRR) : ByOpcode (.vsubS32 f) := by
  intro w h _ s; cases h
  have e : slotMeaning (f.pack 0x43) = opVsubS32 f := by
    rw [meaning_RRR 0x43 f (by decide)]
    show opVsubS32 (RRR.unpack (f.pack 0x43)) = _; rw [RRR.unpack_pack]
  rw [e]; rfl
theorem byOpcode_vsubS16 (f : RRR) : ByOpcode (.vsubS16 f) := by
  intro w h _ s; cases h
  have e : slotMeaning (f.pack 0x44) = opVsubS16 f := by
    rw [meaning_RRR 0x44 f (by decide)]
    show opVsubS16 (RRR.unpack (f.pack 0x44)) = _; rw [RRR.unpack_pack]
  rw [e]; rfl
theorem byOpcode_vsubS8 (f : RRR) : ByOpcode (.vsubS8 f) := by
  intro w h _ s; cases h
  have e : slotMeaning (f.pack 0x45) = opVsubS8 f := by
    rw [meaning_RRR 0x45 f (by decide)]
    show opVsubS8 (RRR.unpack (f.pack 0x45)) = _; rw [RRR.unpack_pack]
  rw [e]; rfl
theorem byOpcode_vmulS32 (f : RRR) : ByOpcode (.vmulS32 f) := by
  intro w h _ s; cases h
  have e : slotMeaning (f.pack 0x46) = opVmulS32 f := by
    rw [meaning_RRR 0x46 f (by decide)]
    show opVmulS32 (RRR.unpack (f.pack 0x46)) = _; rw [RRR.unpack_pack]
  rw [e]; rfl
theorem byOpcode_vmulS16 (f : RRR) : ByOpcode (.vmulS16 f) := by
  intro w h _ s; cases h
  have e : slotMeaning (f.pack 0x47) = opVmulS16 f := by
    rw [meaning_RRR 0x47 f (by decide)]
    show opVmulS16 (RRR.unpack (f.pack 0x47)) = _; rw [RRR.unpack_pack]
  rw [e]; rfl
theorem byOpcode_vminS32 (f : RRR) : ByOpcode (.vminS32 f) := by
  intro w h _ s; cases h
  have e : slotMeaning (f.pack 0x48) = opVminS32 f := by
    rw [meaning_RRR 0x48 f (by decide)]
    show opVminS32 (RRR.unpack (f.pack 0x48)) = _; rw [RRR.unpack_pack]
  rw [e]; rfl
theorem byOpcode_vmaxS32 (f : RRR) : ByOpcode (.vmaxS32 f) := by
  intro w h _ s; cases h
  have e : slotMeaning (f.pack 0x49) = opVmaxS32 f := by
    rw [meaning_RRR 0x49 f (by decide)]
    show opVmaxS32 (RRR.unpack (f.pack 0x49)) = _; rw [RRR.unpack_pack]
  rw [e]; rfl
theorem byOpcode_vminS16 (f : RRR) : ByOpcode (.vminS16 f) := by
  intro w h _ s; cases h
  have e : slotMeaning (f.pack 0x4A) = opVminS16 f := by
    rw [meaning_RRR 0x4A f (by decide)]
    show opVminS16 (RRR.unpack (f.pack 0x4A)) = _; rw [RRR.unpack_pack]
  rw [e]; rfl
theorem byOpcode_vmaxS16 (f : RRR) : ByOpcode (.vmaxS16 f) := by
  intro w h _ s; cases h
  have e : slotMeaning (f.pack 0x4B) = opVmaxS16 f := by
    rw [meaning_RRR 0x4B f (by decide)]
    show opVmaxS16 (RRR.unpack (f.pack 0x4B)) = _; rw [RRR.unpack_pack]
  rw [e]; rfl
theorem byOpcode_vand (f : RRR) : ByOpcode (.vand f) := by
  intro w h _ s; cases h
  have e : slotMeaning (f.pack 0x4C) = opVand f := by
    rw [meaning_RRR 0x4C f (by decide)]
    show opVand (RRR.unpack (f.pack 0x4C)) = _; rw [RRR.unpack_pack]
  rw [e]; rfl
theorem byOpcode_vor (f : RRR) : ByOpcode (.vor f) := by
  intro w h _ s; cases h
  have e : slotMeaning (f.pack 0x4D) = opVor f := by
    rw [meaning_RRR 0x4D f (by decide)]
    show opVor (RRR.unpack (f.pack 0x4D)) = _; rw [RRR.unpack_pack]
  rw [e]; rfl
theorem byOpcode_vxor (f : RRR) : ByOpcode (.vxor f) := by
  intro w h _ s; cases h
  have e : slotMeaning (f.pack 0x4E) = opVxor f := by
    rw [meaning_RRR 0x4E f (by decide)]
    show opVxor (RRR.unpack (f.pack 0x4E)) = _; rw [RRR.unpack_pack]
  rw [e]; rfl
theorem byOpcode_vshlS32 (f : RRR) : ByOpcode (.vshlS32 f) := by
  intro w h _ s; cases h
  have e : slotMeaning (f.pack 0x4F) = opVshlS32 f := by
    rw [meaning_RRR 0x4F f (by decide)]
    show opVshlS32 (RRR.unpack (f.pack 0x4F)) = _; rw [RRR.unpack_pack]
  rw [e]; rfl
theorem byOpcode_vshrS32 (f : RRR) : ByOpcode (.vshrS32 f) := by
  intro w h _ s; cases h
  have e : slotMeaning (f.pack 0x50) = opVshrS32 f := by
    rw [meaning_RRR 0x50 f (by decide)]
    show opVshrS32 (RRR.unpack (f.pack 0x50)) = _; rw [RRR.unpack_pack]
  rw [e]; rfl
theorem byOpcode_vshlS16 (f : RRR) : ByOpcode (.vshlS16 f) := by
  intro w h _ s; cases h
  have e : slotMeaning (f.pack 0x51) = opVshlS16 f := by
    rw [meaning_RRR 0x51 f (by decide)]
    show opVshlS16 (RRR.unpack (f.pack 0x51)) = _; rw [RRR.unpack_pack]
  rw [e]; rfl
theorem byOpcode_vshrS16 (f : RRR) : ByOpcode (.vshrS16 f) := by
  intro w h _ s; cases h
  have e : slotMeaning (f.pack 0x52) = opVshrS16 f := by
    rw [meaning_RRR 0x52 f (by decide)]
    show opVshrS16 (RRR.unpack (f.pack 0x52)) = _; rw [RRR.unpack_pack]
  rw [e]; rfl
theorem byOpcode_vmacwS16 (f : RRR) : ByOpcode (.vmacwS16 f) := by
  intro w h _ s; cases h
  have e : slotMeaning (f.pack 0x53) = opVmacwS16 f := by
    rw [meaning_RRR 0x53 f (by decide)]
    show opVmacwS16 (RRR.unpack (f.pack 0x53)) = _; rw [RRR.unpack_pack]
  rw [e]; rfl
theorem byOpcode_vdotS8 (f : RRR) : ByOpcode (.vdotS8 f) := by
  intro w h _ s; cases h
  have e : slotMeaning (f.pack 0x54) = opVdotS8 f := by
    rw [meaning_RRR 0x54 f (by decide)]
    show opVdotS8 (RRR.unpack (f.pack 0x54)) = _; rw [RRR.unpack_pack]
  rw [e]; rfl
theorem byOpcode_vdotS16 (f : RRR) : ByOpcode (.vdotS16 f) := by
  intro w h _ s; cases h
  have e : slotMeaning (f.pack 0x55) = opVdotS16 f := by
    rw [meaning_RRR 0x55 f (by decide)]
    show opVdotS16 (RRR.unpack (f.pack 0x55)) = _; rw [RRR.unpack_pack]
  rw [e]; rfl
theorem byOpcode_vclmul (f : RRR) : ByOpcode (.vclmul f) := by
  intro w h _ s; cases h
  have e : slotMeaning (f.pack 0x56) = opVclmul f := by
    rw [meaning_RRR 0x56 f (by decide)]
    show opVclmul (RRR.unpack (f.pack 0x56)) = _; rw [RRR.unpack_pack]
  rw [e]; rfl
theorem byOpcode_vclmulh (f : RRR) : ByOpcode (.vclmulh f) := by
  intro w h _ s; cases h
  have e : slotMeaning (f.pack 0x57) = opVclmulh f := by
    rw [meaning_RRR 0x57 f (by decide)]
    show opVclmulh (RRR.unpack (f.pack 0x57)) = _; rw [RRR.unpack_pack]
  rw [e]; rfl
theorem byOpcode_vcmpS32 (f : RRR) : ByOpcode (.vcmpS32 f) := by
  intro w h _ s; cases h
  have e : slotMeaning (f.pack 0x58) = opVcmpS32 f := by
    rw [meaning_RRR 0x58 f (by decide)]
    show opVcmpS32 (RRR.unpack (f.pack 0x58)) = _; rw [RRR.unpack_pack]
  rw [e]; rfl
theorem byOpcode_vcmpS16 (f : RRR) : ByOpcode (.vcmpS16 f) := by
  intro w h _ s; cases h
  have e : slotMeaning (f.pack 0x59) = opVcmpS16 f := by
    rw [meaning_RRR 0x59 f (by decide)]
    show opVcmpS16 (RRR.unpack (f.pack 0x59)) = _; rw [RRR.unpack_pack]
  rw [e]; rfl
theorem byOpcode_vsel (f : RRR) : ByOpcode (.vsel f) := by
  intro w h _ s; cases h
  have e : slotMeaning (f.pack 0x5A) = opVsel f := by
    rw [meaning_RRR 0x5A f (by decide)]
    show opVsel (RRR.unpack (f.pack 0x5A)) = _; rw [RRR.unpack_pack]
  rw [e]; rfl
theorem byOpcode_vaddF32 (f : RRR) : ByOpcode (.vaddF32 f) := by
  intro w h _ s; cases h
  have e : slotMeaning (f.pack 0x5B) = opVaddF32 f := by
    rw [meaning_RRR 0x5B f (by decide)]
    show opVaddF32 (RRR.unpack (f.pack 0x5B)) = _; rw [RRR.unpack_pack]
  rw [e]; rfl
theorem byOpcode_vsubF32 (f : RRR) : ByOpcode (.vsubF32 f) := by
  intro w h _ s; cases h
  have e : slotMeaning (f.pack 0x5C) = opVsubF32 f := by
    rw [meaning_RRR 0x5C f (by decide)]
    show opVsubF32 (RRR.unpack (f.pack 0x5C)) = _; rw [RRR.unpack_pack]
  rw [e]; rfl
theorem byOpcode_vmulF32 (f : RRR) : ByOpcode (.vmulF32 f) := by
  intro w h _ s; cases h
  have e : slotMeaning (f.pack 0x5D) = opVmulF32 f := by
    rw [meaning_RRR 0x5D f (by decide)]
    show opVmulF32 (RRR.unpack (f.pack 0x5D)) = _; rw [RRR.unpack_pack]
  rw [e]; rfl
theorem byOpcode_vfmaF32 (f : RRR) : ByOpcode (.vfmaF32 f) := by
  intro w h _ s; cases h
  have e : slotMeaning (f.pack 0x5E) = opVfmaF32 f := by
    rw [meaning_RRR 0x5E f (by decide)]
    show opVfmaF32 (RRR.unpack (f.pack 0x5E)) = _; rw [RRR.unpack_pack]
  rw [e]; rfl
theorem byOpcode_vminF32 (f : RRR) : ByOpcode (.vminF32 f) := by
  intro w h _ s; cases h
  have e : slotMeaning (f.pack 0x5F) = opVminF32 f := by
    rw [meaning_RRR 0x5F f (by decide)]
    show opVminF32 (RRR.unpack (f.pack 0x5F)) = _; rw [RRR.unpack_pack]
  rw [e]; rfl
theorem byOpcode_vmaxF32 (f : RRR) : ByOpcode (.vmaxF32 f) := by
  intro w h _ s; cases h
  have e : slotMeaning (f.pack 0x60) = opVmaxF32 f := by
    rw [meaning_RRR 0x60 f (by decide)]
    show opVmaxF32 (RRR.unpack (f.pack 0x60)) = _; rw [RRR.unpack_pack]
  rw [e]; rfl
theorem byOpcode_vcmpF32 (f : RRR) : ByOpcode (.vcmpF32 f) := by
  intro w h _ s; cases h
  have e : slotMeaning (f.pack 0x61) = opVcmpF32 f := by
    rw [meaning_RRR 0x61 f (by decide)]
    show opVcmpF32 (RRR.unpack (f.pack 0x61)) = _; rw [RRR.unpack_pack]
  rw [e]; rfl
theorem byOpcode_vaddBf16 (f : RRR) : ByOpcode (.vaddBf16 f) := by
  intro w h _ s; cases h
  have e : slotMeaning (f.pack 0x62) = opVaddBf16 f := by
    rw [meaning_RRR 0x62 f (by decide)]
    show opVaddBf16 (RRR.unpack (f.pack 0x62)) = _; rw [RRR.unpack_pack]
  rw [e]; rfl
theorem byOpcode_vmulBf16 (f : RRR) : ByOpcode (.vmulBf16 f) := by
  intro w h _ s; cases h
  have e : slotMeaning (f.pack 0x63) = opVmulBf16 f := by
    rw [meaning_RRR 0x63 f (by decide)]
    show opVmulBf16 (RRR.unpack (f.pack 0x63)) = _; rw [RRR.unpack_pack]
  rw [e]; rfl
theorem byOpcode_vfmaBf16 (f : RRR) : ByOpcode (.vfmaBf16 f) := by
  intro w h _ s; cases h
  have e : slotMeaning (f.pack 0x64) = opVfmaBf16 f := by
    rw [meaning_RRR 0x64 f (by decide)]
    show opVfmaBf16 (RRR.unpack (f.pack 0x64)) = _; rw [RRR.unpack_pack]
  rw [e]; rfl
theorem byOpcode_vaddF16 (f : RRR) : ByOpcode (.vaddF16 f) := by
  intro w h _ s; cases h
  have e : slotMeaning (f.pack 0x65) = opVaddF16 f := by
    rw [meaning_RRR 0x65 f (by decide)]
    show opVaddF16 (RRR.unpack (f.pack 0x65)) = _; rw [RRR.unpack_pack]
  rw [e]; rfl
theorem byOpcode_vmulF16 (f : RRR) : ByOpcode (.vmulF16 f) := by
  intro w h _ s; cases h
  have e : slotMeaning (f.pack 0x66) = opVmulF16 f := by
    rw [meaning_RRR 0x66 f (by decide)]
    show opVmulF16 (RRR.unpack (f.pack 0x66)) = _; rw [RRR.unpack_pack]
  rw [e]; rfl
theorem byOpcode_vfmaF16 (f : RRR) : ByOpcode (.vfmaF16 f) := by
  intro w h _ s; cases h
  have e : slotMeaning (f.pack 0x67) = opVfmaF16 f := by
    rw [meaning_RRR 0x67 f (by decide)]
    show opVfmaF16 (RRR.unpack (f.pack 0x67)) = _; rw [RRR.unpack_pack]
  rw [e]; rfl
theorem byOpcode_vcvtF32 (f : RRR) : ByOpcode (.vcvtF32 f) := by
  intro w h _ s; cases h
  have e : slotMeaning (f.pack 0x68) = opVcvtF32 f := by
    rw [meaning_RRR 0x68 f (by decide)]
    show opVcvtF32 (RRR.unpack (f.pack 0x68)) = _; rw [RRR.unpack_pack]
  rw [e]; rfl
theorem byOpcode_vcvtBf16 (f : RRR) : ByOpcode (.vcvtBf16 f) := by
  intro w h _ s; cases h
  have e : slotMeaning (f.pack 0x69) = opVcvtBf16 f := by
    rw [meaning_RRR 0x69 f (by decide)]
    show opVcvtBf16 (RRR.unpack (f.pack 0x69)) = _; rw [RRR.unpack_pack]
  rw [e]; rfl
theorem byOpcode_vcvtF16 (f : RRR) : ByOpcode (.vcvtF16 f) := by
  intro w h _ s; cases h
  have e : slotMeaning (f.pack 0x6A) = opVcvtF16 f := by
    rw [meaning_RRR 0x6A f (by decide)]
    show opVcvtF16 (RRR.unpack (f.pack 0x6A)) = _; rw [RRR.unpack_pack]
  rw [e]; rfl
theorem byOpcode_vcvtF8e4 (f : RRR) : ByOpcode (.vcvtF8e4 f) := by
  intro w h _ s; cases h
  have e : slotMeaning (f.pack 0x6B) = opVcvtF8e4 f := by
    rw [meaning_RRR 0x6B f (by decide)]
    show opVcvtF8e4 (RRR.unpack (f.pack 0x6B)) = _; rw [RRR.unpack_pack]
  rw [e]; rfl
theorem byOpcode_vcvtF8e5 (f : RRR) : ByOpcode (.vcvtF8e5 f) := by
  intro w h _ s; cases h
  have e : slotMeaning (f.pack 0x6C) = opVcvtF8e5 f := by
    rw [meaning_RRR 0x6C f (by decide)]
    show opVcvtF8e5 (RRR.unpack (f.pack 0x6C)) = _; rw [RRR.unpack_pack]
  rw [e]; rfl
theorem byOpcode_vcvtS32 (f : RRR) : ByOpcode (.vcvtS32 f) := by
  intro w h _ s; cases h
  have e : slotMeaning (f.pack 0x6D) = opVcvtS32 f := by
    rw [meaning_RRR 0x6D f (by decide)]
    show opVcvtS32 (RRR.unpack (f.pack 0x6D)) = _; rw [RRR.unpack_pack]
  rw [e]; rfl
theorem byOpcode_vcvtS16 (f : RRR) : ByOpcode (.vcvtS16 f) := by
  intro w h _ s; cases h
  have e : slotMeaning (f.pack 0x6E) = opVcvtS16 f := by
    rw [meaning_RRR 0x6E f (by decide)]
    show opVcvtS16 (RRR.unpack (f.pack 0x6E)) = _; rw [RRR.unpack_pack]
  rw [e]; rfl
theorem byOpcode_vcvtS8 (f : RRR) : ByOpcode (.vcvtS8 f) := by
  intro w h _ s; cases h
  have e : slotMeaning (f.pack 0x6F) = opVcvtS8 f := by
    rw [meaning_RRR 0x6F f (by decide)]
    show opVcvtS8 (RRR.unpack (f.pack 0x6F)) = _; rw [RRR.unpack_pack]
  rw [e]; rfl
theorem byOpcode_vexp2 (f : RRR) : ByOpcode (.vexp2 f) := by
  intro w h _ s; cases h
  have e : slotMeaning (f.pack 0x70) = opVexp2 f := by
    rw [meaning_RRR 0x70 f (by decide)]
    show opVexp2 (RRR.unpack (f.pack 0x70)) = _; rw [RRR.unpack_pack]
  rw [e]; rfl
theorem byOpcode_vlog2 (f : RRR) : ByOpcode (.vlog2 f) := by
  intro w h _ s; cases h
  have e : slotMeaning (f.pack 0x71) = opVlog2 f := by
    rw [meaning_RRR 0x71 f (by decide)]
    show opVlog2 (RRR.unpack (f.pack 0x71)) = _; rw [RRR.unpack_pack]
  rw [e]; rfl
theorem byOpcode_vrcp (f : RRR) : ByOpcode (.vrcp f) := by
  intro w h _ s; cases h
  have e : slotMeaning (f.pack 0x72) = opVrcp f := by
    rw [meaning_RRR 0x72 f (by decide)]
    show opVrcp (RRR.unpack (f.pack 0x72)) = _; rw [RRR.unpack_pack]
  rw [e]; rfl
theorem byOpcode_vrsqrt (f : RRR) : ByOpcode (.vrsqrt f) := by
  intro w h _ s; cases h
  have e : slotMeaning (f.pack 0x73) = opVrsqrt f := by
    rw [meaning_RRR 0x73 f (by decide)]
    show opVrsqrt (RRR.unpack (f.pack 0x73)) = _; rw [RRR.unpack_pack]
  rw [e]; rfl
theorem byOpcode_vtanh (f : RRR) : ByOpcode (.vtanh f) := by
  intro w h _ s; cases h
  have e : slotMeaning (f.pack 0x74) = opVtanh f := by
    rw [meaning_RRR 0x74 f (by decide)]
    show opVtanh (RRR.unpack (f.pack 0x74)) = _; rw [RRR.unpack_pack]
  rw [e]; rfl
theorem byOpcode_vexp (f : RRR) : ByOpcode (.vexp f) := by
  intro w h _ s; cases h
  have e : slotMeaning (f.pack 0x75) = opVexp f := by
    rw [meaning_RRR 0x75 f (by decide)]
    show opVexp (RRR.unpack (f.pack 0x75)) = _; rw [RRR.unpack_pack]
  rw [e]; rfl
theorem byOpcode_vlog (f : RRR) : ByOpcode (.vlog f) := by
  intro w h _ s; cases h
  have e : slotMeaning (f.pack 0x76) = opVlog f := by
    rw [meaning_RRR 0x76 f (by decide)]
    show opVlog (RRR.unpack (f.pack 0x76)) = _; rw [RRR.unpack_pack]
  rw [e]; rfl
theorem byOpcode_vredF32 (f : RRR) : ByOpcode (.vredF32 f) := by
  intro w h _ s; cases h
  have e : slotMeaning (f.pack 0x77) = opVredF32 f := by
    rw [meaning_RRR 0x77 f (by decide)]
    show opVredF32 (RRR.unpack (f.pack 0x77)) = _; rw [RRR.unpack_pack]
  rw [e]; rfl
theorem byOpcode_vredS32 (f : RRR) : ByOpcode (.vredS32 f) := by
  intro w h _ s; cases h
  have e : slotMeaning (f.pack 0x78) = opVredS32 f := by
    rw [meaning_RRR 0x78 f (by decide)]
    show opVredS32 (RRR.unpack (f.pack 0x78)) = _; rw [RRR.unpack_pack]
  rw [e]; rfl
theorem byOpcode_vscanF32 (f : RRR) : ByOpcode (.vscanF32 f) := by
  intro w h _ s; cases h
  have e : slotMeaning (f.pack 0x79) = opVscanF32 f := by
    rw [meaning_RRR 0x79 f (by decide)]
    show opVscanF32 (RRR.unpack (f.pack 0x79)) = _; rw [RRR.unpack_pack]
  rw [e]; rfl
theorem byOpcode_vscanS32 (f : RRR) : ByOpcode (.vscanS32 f) := by
  intro w h _ s; cases h
  have e : slotMeaning (f.pack 0x7A) = opVscanS32 f := by
    rw [meaning_RRR 0x7A f (by decide)]
    show opVscanS32 (RRR.unpack (f.pack 0x7A)) = _; rw [RRR.unpack_pack]
  rw [e]; rfl
theorem byOpcode_vperm (f : RRR) : ByOpcode (.vperm f) := by
  intro w h _ s; cases h
  have e : slotMeaning (f.pack 0x7B) = opVperm f := by
    rw [meaning_RRR 0x7B f (by decide)]
    show opVperm (RRR.unpack (f.pack 0x7B)) = _; rw [RRR.unpack_pack]
  rw [e]; rfl
theorem byOpcode_vsplat (f : RRI) : ByOpcode (.vsplat f) := by
  intro w h _ s; cases h
  have e : slotMeaning (f.pack 0x7C) = opVsplat f := by
    rw [meaning_RRI 0x7C f (by decide)]
    show opVsplat (RRI.unpack (f.pack 0x7C)) = _; rw [RRI.unpack_pack]
  rw [e]; rfl
theorem byOpcode_vslide (f : RRI) : ByOpcode (.vslide f) := by
  intro w h _ s; cases h
  have e : slotMeaning (f.pack 0x7D) = opVslide f := by
    rw [meaning_RRI 0x7D f (by decide)]
    show opVslide (RRI.unpack (f.pack 0x7D)) = _; rw [RRI.unpack_pack]
  rw [e]; rfl
theorem byOpcode_vzip (f : RRR) : ByOpcode (.vzip f) := by
  intro w h hw s; cases h
  have hm : ∀ m : BitVec 8, mdIn m 0xF7 = true → bit (m.toNat % 16) 3 = false := by decide
  have h2 := hw; simp only [WellFormed, RRR.ok, Bool.and_eq_true] at h2
  have hk : bit f.opm 3 = false := hm _ h2.1.2
  have e : slotMeaning (f.pack 0x7E) = opVzip f := by
    rw [meaning_RRR _ f (by decide)]
    change (if bit (RRR.unpack (f.pack 0x7E)).opm 3 = true then _ else _) = _
    rw [RRR.unpack_pack, hk]; rfl
  rw [e]; rfl
theorem byOpcode_vpack (f : RRR) : ByOpcode (.vpack f) := by
  intro w h hw s; cases h
  have hm : ∀ n : Nat, n < 16 → 8 ≤ n → bit n 3 = true := by decide
  have h2 := hw; simp only [WellFormed, Bool.and_eq_true, decide_eq_true_eq] at h2
  have hk : bit f.opm 3 = true := hm _ (Nat.mod_lt _ (by decide)) h2.2.2
  have e : slotMeaning (f.pack 0x7E) = opVpack f := by
    rw [meaning_RRR _ f (by decide)]
    change (if bit (RRR.unpack (f.pack 0x7E)).opm 3 = true then _ else _) = _
    rw [RRR.unpack_pack, hk]; rfl
  rw [e]; rfl
theorem byOpcode_vext (f : RRI) : ByOpcode (.vext f) := by
  intro w h _ s; cases h
  have e : slotMeaning (f.pack 0x7F) = opVext f := by
    rw [meaning_RRI 0x7F f (by decide)]
    show opVext (RRI.unpack (f.pack 0x7F)) = _; rw [RRI.unpack_pack]
  rw [e]; rfl
theorem byOpcode_mmF8e4 (f : ENGF) : ByOpcode (.mmF8e4 f) := by
  intro w h _ s; cases h
  have e : slotMeaning (f.pack 0x80) = opMmF8e4 f := by
    rw [meaning_ENGF 0x80 f (by decide)]
    show opMmF8e4 (ENGF.unpack (f.pack 0x80)) = _; rw [ENGF.unpack_pack]
  rw [e]; rfl
theorem byOpcode_mmF8e5 (f : ENGF) : ByOpcode (.mmF8e5 f) := by
  intro w h _ s; cases h
  have e : slotMeaning (f.pack 0x81) = opMmF8e5 f := by
    rw [meaning_ENGF 0x81 f (by decide)]
    show opMmF8e5 (ENGF.unpack (f.pack 0x81)) = _; rw [ENGF.unpack_pack]
  rw [e]; rfl
theorem byOpcode_mmF6e3 (f : ENGF) : ByOpcode (.mmF6e3 f) := by
  intro w h _ s; cases h
  have e : slotMeaning (f.pack 0x82) = opMmF6e3 f := by
    rw [meaning_ENGF 0x82 f (by decide)]
    show opMmF6e3 (ENGF.unpack (f.pack 0x82)) = _; rw [ENGF.unpack_pack]
  rw [e]; rfl
theorem byOpcode_mmF6e2 (f : ENGF) : ByOpcode (.mmF6e2 f) := by
  intro w h _ s; cases h
  have e : slotMeaning (f.pack 0x83) = opMmF6e2 f := by
    rw [meaning_ENGF 0x83 f (by decide)]
    show opMmF6e2 (ENGF.unpack (f.pack 0x83)) = _; rw [ENGF.unpack_pack]
  rw [e]; rfl
theorem byOpcode_mmF4 (f : ENGF) : ByOpcode (.mmF4 f) := by
  intro w h _ s; cases h
  have e : slotMeaning (f.pack 0x84) = opMmF4 f := by
    rw [meaning_ENGF 0x84 f (by decide)]
    show opMmF4 (ENGF.unpack (f.pack 0x84)) = _; rw [ENGF.unpack_pack]
  rw [e]; rfl
theorem byOpcode_mmBf16 (f : ENGF) : ByOpcode (.mmBf16 f) := by
  intro w h _ s; cases h
  have e : slotMeaning (f.pack 0x85) = opMmBf16 f := by
    rw [meaning_ENGF 0x85 f (by decide)]
    show opMmBf16 (ENGF.unpack (f.pack 0x85)) = _; rw [ENGF.unpack_pack]
  rw [e]; rfl
theorem byOpcode_mmF16 (f : ENGF) : ByOpcode (.mmF16 f) := by
  intro w h _ s; cases h
  have e : slotMeaning (f.pack 0x86) = opMmF16 f := by
    rw [meaning_ENGF 0x86 f (by decide)]
    show opMmF16 (ENGF.unpack (f.pack 0x86)) = _; rw [ENGF.unpack_pack]
  rw [e]; rfl
theorem byOpcode_mmS8 (f : ENGF) : ByOpcode (.mmS8 f) := by
  intro w h _ s; cases h
  have e : slotMeaning (f.pack 0x87) = opMmS8 f := by
    rw [meaning_ENGF 0x87 f (by decide)]
    show opMmS8 (ENGF.unpack (f.pack 0x87)) = _; rw [ENGF.unpack_pack]
  rw [e]; rfl
theorem byOpcode_mmS4 (f : ENGF) : ByOpcode (.mmS4 f) := by
  intro w h _ s; cases h
  have e : slotMeaning (f.pack 0x88) = opMmS4 f := by
    rw [meaning_ENGF 0x88 f (by decide)]
    show opMmS4 (ENGF.unpack (f.pack 0x88)) = _; rw [ENGF.unpack_pack]
  rw [e]; rfl
theorem byOpcode_mmMx (f : ENGF) : ByOpcode (.mmMx f) := by
  intro w h _ s; cases h
  have e : slotMeaning (f.pack 0x89) = opMmMx f := by
    rw [meaning_ENGF 0x89 f (by decide)]
    show opMmMx (ENGF.unpack (f.pack 0x89)) = _; rw [ENGF.unpack_pack]
  rw [e]; rfl
theorem byOpcode_mmGrp (f : ENGF) : ByOpcode (.mmGrp f) := by
  intro w h _ s; cases h
  have e : slotMeaning (f.pack 0x8A) = opMmGrp f := by
    rw [meaning_ENGF 0x8A f (by decide)]
    show opMmGrp (ENGF.unpack (f.pack 0x8A)) = _; rw [ENGF.unpack_pack]
  rw [e]; rfl
theorem byOpcode_mmPriv (f : ENGF) : ByOpcode (.mmPriv f) := by
  intro w h _ s; cases h
  have e : slotMeaning (f.pack 0x8B) = opMmPriv f := by
    rw [meaning_ENGF 0x8B f (by decide)]
    show opMmPriv (ENGF.unpack (f.pack 0x8B)) = _; rw [ENGF.unpack_pack]
  rw [e]; rfl
theorem byOpcode_elLd (f : ENGF) : ByOpcode (.elLd f) := by
  intro w h _ s; cases h
  have e : slotMeaning (f.pack 0x8C) = opElLd f := by
    rw [meaning_ENGF 0x8C f (by decide)]
    show opElLd (ENGF.unpack (f.pack 0x8C)) = _; rw [ENGF.unpack_pack]
  rw [e]; rfl
theorem byOpcode_rgCfg (f : RRR) : ByOpcode (.rgCfg f) := by
  intro w h _ s; cases h
  have e : slotMeaning (f.pack 0x8D) = opRgCfg f := by
    rw [meaning_RRR 0x8D f (by decide)]
    show opRgCfg (RRR.unpack (f.pack 0x8D)) = _; rw [RRR.unpack_pack]
  rw [e]; rfl
theorem byOpcode_rgAdv (f : ENGF) : ByOpcode (.rgAdv f) := by
  intro w h _ s; cases h
  have e : slotMeaning (f.pack 0x8E) = opRgAdv f := by
    rw [meaning_ENGF 0x8E f (by decide)]
    show opRgAdv (ENGF.unpack (f.pack 0x8E)) = _; rw [ENGF.unpack_pack]
  rw [e]; rfl
theorem byOpcode_accZero (f : ENGF) : ByOpcode (.accZero f) := by
  intro w h _ s; cases h
  have e : slotMeaning (f.pack 0x8F) = opAccZero f := by
    rw [meaning_ENGF 0x8F f (by decide)]
    show opAccZero (ENGF.unpack (f.pack 0x8F)) = _; rw [ENGF.unpack_pack]
  rw [e]; rfl
theorem byOpcode_accSt (f : ENGF) : ByOpcode (.accSt f) := by
  intro w h _ s; cases h
  have e : slotMeaning (f.pack 0x90) = opAccSt f := by
    rw [meaning_ENGF 0x90 f (by decide)]
    show opAccSt (ENGF.unpack (f.pack 0x90)) = _; rw [ENGF.unpack_pack]
  rw [e]; rfl
theorem byOpcode_accLd (f : ENGF) : ByOpcode (.accLd f) := by
  intro w h _ s; cases h
  have e : slotMeaning (f.pack 0x91) = opAccLd f := by
    rw [meaning_ENGF 0x91 f (by decide)]
    show opAccLd (ENGF.unpack (f.pack 0x91)) = _; rw [ENGF.unpack_pack]
  rw [e]; rfl
theorem byOpcode_accMv (f : ENGF) : ByOpcode (.accMv f) := by
  intro w h _ s; cases h
  have e : slotMeaning (f.pack 0x92) = opAccMv f := by
    rw [meaning_ENGF 0x92 f (by decide)]
    show opAccMv (ENGF.unpack (f.pack 0x92)) = _; rw [ENGF.unpack_pack]
  rw [e]; rfl
theorem byOpcode_cvRun (f : ENGF) : ByOpcode (.cvRun f) := by
  intro w h _ s; cases h
  have e : slotMeaning (f.pack 0x93) = opCvRun f := by
    rw [meaning_ENGF 0x93 f (by decide)]
    show opCvRun (ENGF.unpack (f.pack 0x93)) = _; rw [ENGF.unpack_pack]
  rw [e]; rfl
theorem byOpcode_cvCfg (f : RRR) : ByOpcode (.cvCfg f) := by
  intro w h _ s; cases h
  have e : slotMeaning (f.pack 0x94) = opCvCfg f := by
    rw [meaning_RRR 0x94 f (by decide)]
    show opCvCfg (RRR.unpack (f.pack 0x94)) = _; rw [RRR.unpack_pack]
  rw [e]; rfl
theorem byOpcode_saLd (f : RRR) : ByOpcode (.saLd f) := by
  intro w h _ s; cases h
  have e : slotMeaning (f.pack 0x95) = opSaLd f := by
    rw [meaning_RRR 0x95 f (by decide)]
    show opSaLd (RRR.unpack (f.pack 0x95)) = _; rw [RRR.unpack_pack]
  rw [e]; rfl
theorem byOpcode_saMmBf16 (f : RRR) : ByOpcode (.saMmBf16 f) := by
  intro w h _ s; cases h
  have e : slotMeaning (f.pack 0x96) = opSaMmBf16 f := by
    rw [meaning_RRR 0x96 f (by decide)]
    show opSaMmBf16 (RRR.unpack (f.pack 0x96)) = _; rw [RRR.unpack_pack]
  rw [e]; rfl
theorem byOpcode_saMmF8 (f : RRR) : ByOpcode (.saMmF8 f) := by
  intro w h _ s; cases h
  have e : slotMeaning (f.pack 0x97) = opSaMmF8 f := by
    rw [meaning_RRR 0x97 f (by decide)]
    show opSaMmF8 (RRR.unpack (f.pack 0x97)) = _; rw [RRR.unpack_pack]
  rw [e]; rfl
theorem byOpcode_saSt (f : RRR) : ByOpcode (.saSt f) := by
  intro w h _ s; cases h
  have e : slotMeaning (f.pack 0x98) = opSaSt f := by
    rw [meaning_RRR 0x98 f (by decide)]
    show opSaSt (RRR.unpack (f.pack 0x98)) = _; rw [RRR.unpack_pack]
  rw [e]; rfl
theorem byOpcode_saZero (f : RRR) : ByOpcode (.saZero f) := by
  intro w h _ s; cases h
  have e : slotMeaning (f.pack 0x99) = opSaZero f := by
    rw [meaning_RRR 0x99 f (by decide)]
    show opSaZero (RRR.unpack (f.pack 0x99)) = _; rw [RRR.unpack_pack]
  rw [e]; rfl
theorem byOpcode_saMv (f : RRR) : ByOpcode (.saMv f) := by
  intro w h _ s; cases h
  have e : slotMeaning (f.pack 0x9A) = opSaMv f := by
    rw [meaning_RRR 0x9A f (by decide)]
    show opSaMv (RRR.unpack (f.pack 0x9A)) = _; rw [RRR.unpack_pack]
  rw [e]; rfl
theorem byOpcode_attnInit (f : RRR) : ByOpcode (.attnInit f) := by
  intro w h _ s; cases h
  have e : slotMeaning (f.pack 0x9B) = opAttnInit f := by
    rw [meaning_RRR 0x9B f (by decide)]
    show opAttnInit (RRR.unpack (f.pack 0x9B)) = _; rw [RRR.unpack_pack]
  rw [e]; rfl
theorem byOpcode_attnQk (f : RRR) : ByOpcode (.attnQk f) := by
  intro w h _ s; cases h
  have e : slotMeaning (f.pack 0x9C) = opAttnQk f := by
    rw [meaning_RRR 0x9C f (by decide)]
    show opAttnQk (RRR.unpack (f.pack 0x9C)) = _; rw [RRR.unpack_pack]
  rw [e]; rfl
theorem byOpcode_attnSmx (f : RRR) : ByOpcode (.attnSmx f) := by
  intro w h _ s; cases h
  have e : slotMeaning (f.pack 0x9D) = opAttnSmx f := by
    rw [meaning_RRR 0x9D f (by decide)]
    show opAttnSmx (RRR.unpack (f.pack 0x9D)) = _; rw [RRR.unpack_pack]
  rw [e]; rfl
theorem byOpcode_attnPv (f : RRR) : ByOpcode (.attnPv f) := by
  intro w h _ s; cases h
  have e : slotMeaning (f.pack 0x9E) = opAttnPv f := by
    rw [meaning_RRR 0x9E f (by decide)]
    show opAttnPv (RRR.unpack (f.pack 0x9E)) = _; rw [RRR.unpack_pack]
  rw [e]; rfl
theorem byOpcode_grpIdx (f : ENGF) : ByOpcode (.grpIdx f) := by
  intro w h _ s; cases h
  have e : slotMeaning (f.pack 0x9F) = opGrpIdx f := by
    rw [meaning_ENGF 0x9F f (by decide)]
    show opGrpIdx (ENGF.unpack (f.pack 0x9F)) = _; rw [ENGF.unpack_pack]
  rw [e]; rfl
theorem byOpcode_ldS8 (f : MEMF) : ByOpcode (.ldS8 f) := by
  intro w h _ s; cases h
  have e : slotMeaning (f.pack 0xA0) = opLdS8 f := by
    rw [meaning_MEMF 0xA0 f (by decide)]
    show opLdS8 (MEMF.unpack (f.pack 0xA0)) = _; rw [MEMF.unpack_pack]
  rw [e]; rfl
theorem byOpcode_ldZ8 (f : MEMF) : ByOpcode (.ldZ8 f) := by
  intro w h _ s; cases h
  have e : slotMeaning (f.pack 0xA1) = opLdZ8 f := by
    rw [meaning_MEMF 0xA1 f (by decide)]
    show opLdZ8 (MEMF.unpack (f.pack 0xA1)) = _; rw [MEMF.unpack_pack]
  rw [e]; rfl
theorem byOpcode_ldS16 (f : MEMF) : ByOpcode (.ldS16 f) := by
  intro w h _ s; cases h
  have e : slotMeaning (f.pack 0xA2) = opLdS16 f := by
    rw [meaning_MEMF 0xA2 f (by decide)]
    show opLdS16 (MEMF.unpack (f.pack 0xA2)) = _; rw [MEMF.unpack_pack]
  rw [e]; rfl
theorem byOpcode_ldZ16 (f : MEMF) : ByOpcode (.ldZ16 f) := by
  intro w h _ s; cases h
  have e : slotMeaning (f.pack 0xA3) = opLdZ16 f := by
    rw [meaning_MEMF 0xA3 f (by decide)]
    show opLdZ16 (MEMF.unpack (f.pack 0xA3)) = _; rw [MEMF.unpack_pack]
  rw [e]; rfl
theorem byOpcode_ldS32 (f : MEMF) : ByOpcode (.ldS32 f) := by
  intro w h _ s; cases h
  have e : slotMeaning (f.pack 0xA4) = opLdS32 f := by
    rw [meaning_MEMF 0xA4 f (by decide)]
    show opLdS32 (MEMF.unpack (f.pack 0xA4)) = _; rw [MEMF.unpack_pack]
  rw [e]; rfl
theorem byOpcode_ldZ32 (f : MEMF) : ByOpcode (.ldZ32 f) := by
  intro w h _ s; cases h
  have e : slotMeaning (f.pack 0xA5) = opLdZ32 f := by
    rw [meaning_MEMF 0xA5 f (by decide)]
    show opLdZ32 (MEMF.unpack (f.pack 0xA5)) = _; rw [MEMF.unpack_pack]
  rw [e]; rfl
theorem byOpcode_ldS64 (f : MEMF) : ByOpcode (.ldS64 f) := by
  intro w h _ s; cases h
  have e : slotMeaning (f.pack 0xA6) = opLdS64 f := by
    rw [meaning_MEMF 0xA6 f (by decide)]
    show opLdS64 (MEMF.unpack (f.pack 0xA6)) = _; rw [MEMF.unpack_pack]
  rw [e]; rfl
theorem byOpcode_stS8 (f : MEMF) : ByOpcode (.stS8 f) := by
  intro w h _ s; cases h
  have e : slotMeaning (f.pack 0xA7) = opStS8 f := by
    rw [meaning_MEMF 0xA7 f (by decide)]
    show opStS8 (MEMF.unpack (f.pack 0xA7)) = _; rw [MEMF.unpack_pack]
  rw [e]; rfl
theorem byOpcode_stS16 (f : MEMF) : ByOpcode (.stS16 f) := by
  intro w h _ s; cases h
  have e : slotMeaning (f.pack 0xA8) = opStS16 f := by
    rw [meaning_MEMF 0xA8 f (by decide)]
    show opStS16 (MEMF.unpack (f.pack 0xA8)) = _; rw [MEMF.unpack_pack]
  rw [e]; rfl
theorem byOpcode_stS32 (f : MEMF) : ByOpcode (.stS32 f) := by
  intro w h _ s; cases h
  have e : slotMeaning (f.pack 0xA9) = opStS32 f := by
    rw [meaning_MEMF 0xA9 f (by decide)]
    show opStS32 (MEMF.unpack (f.pack 0xA9)) = _; rw [MEMF.unpack_pack]
  rw [e]; rfl
theorem byOpcode_stS64 (f : MEMF) : ByOpcode (.stS64 f) := by
  intro w h _ s; cases h
  have e : slotMeaning (f.pack 0xAA) = opStS64 f := by
    rw [meaning_MEMF 0xAA f (by decide)]
    show opStS64 (MEMF.unpack (f.pack 0xAA)) = _; rw [MEMF.unpack_pack]
  rw [e]; rfl
theorem byOpcode_vldS32 (f : MEMF) : ByOpcode (.vldS32 f) := by
  intro w h _ s; cases h
  have e : slotMeaning (f.pack 0xAB) = opVldS32 f := by
    rw [meaning_MEMF 0xAB f (by decide)]
    show opVldS32 (MEMF.unpack (f.pack 0xAB)) = _; rw [MEMF.unpack_pack]
  rw [e]; rfl
theorem byOpcode_vstS32 (f : MEMF) : ByOpcode (.vstS32 f) := by
  intro w h _ s; cases h
  have e : slotMeaning (f.pack 0xAC) = opVstS32 f := by
    rw [meaning_MEMF 0xAC f (by decide)]
    show opVstS32 (MEMF.unpack (f.pack 0xAC)) = _; rw [MEMF.unpack_pack]
  rw [e]; rfl
theorem byOpcode_vldS16 (f : MEMF) : ByOpcode (.vldS16 f) := by
  intro w h _ s; cases h
  have e : slotMeaning (f.pack 0xAD) = opVldS16 f := by
    rw [meaning_MEMF 0xAD f (by decide)]
    show opVldS16 (MEMF.unpack (f.pack 0xAD)) = _; rw [MEMF.unpack_pack]
  rw [e]; rfl
theorem byOpcode_vstS16 (f : MEMF) : ByOpcode (.vstS16 f) := by
  intro w h _ s; cases h
  have e : slotMeaning (f.pack 0xAE) = opVstS16 f := by
    rw [meaning_MEMF 0xAE f (by decide)]
    show opVstS16 (MEMF.unpack (f.pack 0xAE)) = _; rw [MEMF.unpack_pack]
  rw [e]; rfl
theorem byOpcode_smMap (f : RRR) : ByOpcode (.smMap f) := by
  intro w h _ s; cases h
  have e : slotMeaning (f.pack 0xAF) = opSmMap f := by
    rw [meaning_RRR 0xAF f (by decide)]
    show opSmMap (RRR.unpack (f.pack 0xAF)) = _; rw [RRR.unpack_pack]
  rw [e]; rfl
theorem byOpcode_smUnmap (f : RRR) : ByOpcode (.smUnmap f) := by
  intro w h _ s; cases h
  have e : slotMeaning (f.pack 0xB0) = opSmUnmap f := by
    rw [meaning_RRR 0xB0 f (by decide)]
    show opSmUnmap (RRR.unpack (f.pack 0xB0)) = _; rw [RRR.unpack_pack]
  rw [e]; rfl
theorem byOpcode_smPin (f : RRR) : ByOpcode (.smPin f) := by
  intro w h _ s; cases h
  have e : slotMeaning (f.pack 0xB1) = opSmPin f := by
    rw [meaning_RRR 0xB1 f (by decide)]
    show opSmPin (RRR.unpack (f.pack 0xB1)) = _; rw [RRR.unpack_pack]
  rw [e]; rfl
theorem byOpcode_smUnpin (f : RRR) : ByOpcode (.smUnpin f) := by
  intro w h _ s; cases h
  have e : slotMeaning (f.pack 0xB2) = opSmUnpin f := by
    rw [meaning_RRR 0xB2 f (by decide)]
    show opSmUnpin (RRR.unpack (f.pack 0xB2)) = _; rw [RRR.unpack_pack]
  rw [e]; rfl
theorem byOpcode_smFlush (f : RRR) : ByOpcode (.smFlush f) := by
  intro w h _ s; cases h
  have e : slotMeaning (f.pack 0xCF) = opSmFlush f := by
    rw [meaning_RRR 0xCF f (by decide)]
    show opSmFlush (RRR.unpack (f.pack 0xCF)) = _; rw [RRR.unpack_pack]
  rw [e]; rfl
theorem byOpcode_cpGet (f : ENGF) : ByOpcode (.cpGet f) := by
  intro w h _ s; cases h
  have e : slotMeaning (f.pack 0xB3) = opCpGet f := by
    rw [meaning_ENGF 0xB3 f (by decide)]
    show opCpGet (ENGF.unpack (f.pack 0xB3)) = _; rw [ENGF.unpack_pack]
  rw [e]; rfl
theorem byOpcode_cpPut (f : ENGF) : ByOpcode (.cpPut f) := by
  intro w h _ s; cases h
  have e : slotMeaning (f.pack 0xB4) = opCpPut f := by
    rw [meaning_ENGF 0xB4 f (by decide)]
    show opCpPut (ENGF.unpack (f.pack 0xB4)) = _; rw [ENGF.unpack_pack]
  rw [e]; rfl
theorem byOpcode_cpRput (f : ENGF) : ByOpcode (.cpRput f) := by
  intro w h _ s; cases h
  have e : slotMeaning (f.pack 0xB5) = opCpRput f := by
    rw [meaning_ENGF 0xB5 f (by decide)]
    show opCpRput (ENGF.unpack (f.pack 0xB5)) = _; rw [ENGF.unpack_pack]
  rw [e]; rfl
theorem byOpcode_cpGth (f : ENGF) : ByOpcode (.cpGth f) := by
  intro w h _ s; cases h
  have e : slotMeaning (f.pack 0xB6) = opCpGth f := by
    rw [meaning_ENGF 0xB6 f (by decide)]
    show opCpGth (ENGF.unpack (f.pack 0xB6)) = _; rw [ENGF.unpack_pack]
  rw [e]; rfl
theorem byOpcode_barInit (f : RRR) : ByOpcode (.barInit f) := by
  intro w h _ s; cases h
  have e : slotMeaning (f.pack 0xB7) = opBarInit f := by
    rw [meaning_RRR 0xB7 f (by decide)]
    show opBarInit (RRR.unpack (f.pack 0xB7)) = _; rw [RRR.unpack_pack]
  rw [e]; rfl
theorem byOpcode_barArr (f : RRR) : ByOpcode (.barArr f) := by
  intro w h _ s; cases h
  have e : slotMeaning (f.pack 0xB8) = opBarArr f := by
    rw [meaning_RRR 0xB8 f (by decide)]
    show opBarArr (RRR.unpack (f.pack 0xB8)) = _; rw [RRR.unpack_pack]
  rw [e]; rfl
theorem byOpcode_barWait (f : RRR) : ByOpcode (.barWait f) := by
  intro w h _ s; cases h
  have e : slotMeaning (f.pack 0xB9) = opBarWait f := by
    rw [meaning_RRR 0xB9 f (by decide)]
    show opBarWait (RRR.unpack (f.pack 0xB9)) = _; rw [RRR.unpack_pack]
  rw [e]; rfl
theorem byOpcode_barTest (f : RRR) : ByOpcode (.barTest f) := by
  intro w h _ s; cases h
  have e : slotMeaning (f.pack 0xCE) = opBarTest f := by
    rw [meaning_RRR 0xCE f (by decide)]
    show opBarTest (RRR.unpack (f.pack 0xCE)) = _; rw [RRR.unpack_pack]
  rw [e]; rfl
theorem byOpcode_amoAdd (f : MEMF) : ByOpcode (.amoAdd f) := by
  intro w h _ s; cases h
  have e : slotMeaning (f.pack 0xBA) = opAmoAdd f := by
    rw [meaning_MEMF 0xBA f (by decide)]
    show opAmoAdd (MEMF.unpack (f.pack 0xBA)) = _; rw [MEMF.unpack_pack]
  rw [e]; rfl
theorem byOpcode_amoAnd (f : MEMF) : ByOpcode (.amoAnd f) := by
  intro w h _ s; cases h
  have e : slotMeaning (f.pack 0xBB) = opAmoAnd f := by
    rw [meaning_MEMF 0xBB f (by decide)]
    show opAmoAnd (MEMF.unpack (f.pack 0xBB)) = _; rw [MEMF.unpack_pack]
  rw [e]; rfl
theorem byOpcode_amoOr (f : MEMF) : ByOpcode (.amoOr f) := by
  intro w h _ s; cases h
  have e : slotMeaning (f.pack 0xBC) = opAmoOr f := by
    rw [meaning_MEMF 0xBC f (by decide)]
    show opAmoOr (MEMF.unpack (f.pack 0xBC)) = _; rw [MEMF.unpack_pack]
  rw [e]; rfl
theorem byOpcode_amoXor (f : MEMF) : ByOpcode (.amoXor f) := by
  intro w h _ s; cases h
  have e : slotMeaning (f.pack 0xBD) = opAmoXor f := by
    rw [meaning_MEMF 0xBD f (by decide)]
    show opAmoXor (MEMF.unpack (f.pack 0xBD)) = _; rw [MEMF.unpack_pack]
  rw [e]; rfl
theorem byOpcode_amoMinS (f : MEMF) : ByOpcode (.amoMinS f) := by
  intro w h _ s; cases h
  have e : slotMeaning (f.pack 0xBE) = opAmoMinS f := by
    rw [meaning_MEMF 0xBE f (by decide)]
    show opAmoMinS (MEMF.unpack (f.pack 0xBE)) = _; rw [MEMF.unpack_pack]
  rw [e]; rfl
theorem byOpcode_amoMinZ (f : MEMF) : ByOpcode (.amoMinZ f) := by
  intro w h _ s; cases h
  have e : slotMeaning (f.pack 0xBF) = opAmoMinZ f := by
    rw [meaning_MEMF 0xBF f (by decide)]
    show opAmoMinZ (MEMF.unpack (f.pack 0xBF)) = _; rw [MEMF.unpack_pack]
  rw [e]; rfl
theorem byOpcode_amoMaxS (f : MEMF) : ByOpcode (.amoMaxS f) := by
  intro w h _ s; cases h
  have e : slotMeaning (f.pack 0xC0) = opAmoMaxS f := by
    rw [meaning_MEMF 0xC0 f (by decide)]
    show opAmoMaxS (MEMF.unpack (f.pack 0xC0)) = _; rw [MEMF.unpack_pack]
  rw [e]; rfl
theorem byOpcode_amoMaxZ (f : MEMF) : ByOpcode (.amoMaxZ f) := by
  intro w h _ s; cases h
  have e : slotMeaning (f.pack 0xC1) = opAmoMaxZ f := by
    rw [meaning_MEMF 0xC1 f (by decide)]
    show opAmoMaxZ (MEMF.unpack (f.pack 0xC1)) = _; rw [MEMF.unpack_pack]
  rw [e]; rfl
theorem byOpcode_amoSwap (f : MEMF) : ByOpcode (.amoSwap f) := by
  intro w h _ s; cases h
  have e : slotMeaning (f.pack 0xC2) = opAmoSwap f := by
    rw [meaning_MEMF 0xC2 f (by decide)]
    show opAmoSwap (MEMF.unpack (f.pack 0xC2)) = _; rw [MEMF.unpack_pack]
  rw [e]; rfl
theorem byOpcode_amoCas (f : MEMF) : ByOpcode (.amoCas f) := by
  intro w h _ s; cases h
  have e : slotMeaning (f.pack 0xC3) = opAmoCas f := by
    rw [meaning_MEMF 0xC3 f (by decide)]
    show opAmoCas (MEMF.unpack (f.pack 0xC3)) = _; rw [MEMF.unpack_pack]
  rw [e]; rfl
theorem byOpcode_amoAddF32 (f : MEMF) : ByOpcode (.amoAddF32 f) := by
  intro w h _ s; cases h
  have e : slotMeaning (f.pack 0xC4) = opAmoAddF32 f := by
    rw [meaning_MEMF 0xC4 f (by decide)]
    show opAmoAddF32 (MEMF.unpack (f.pack 0xC4)) = _; rw [MEMF.unpack_pack]
  rw [e]; rfl
theorem byOpcode_fence (f : MEMF) : ByOpcode (.fence f) := by
  intro w h _ s; cases h
  have e : slotMeaning (f.pack 0xC5) = opFence f := by
    rw [meaning_MEMF 0xC5 f (by decide)]
    show opFence (MEMF.unpack (f.pack 0xC5)) = _; rw [MEMF.unpack_pack]
  rw [e]; rfl
theorem byOpcode_cpub (f : MEMF) : ByOpcode (.cpub f) := by
  intro w h _ s; cases h
  have e : slotMeaning (f.pack 0xC6) = opCpub f := by
    rw [meaning_MEMF 0xC6 f (by decide)]
    show opCpub (MEMF.unpack (f.pack 0xC6)) = _; rw [MEMF.unpack_pack]
  rw [e]; rfl
theorem byOpcode_ifence (f : RRR) : ByOpcode (.ifence f) := by
  intro w h _ s; cases h
  have e : slotMeaning (f.pack 0xC7) = opIfence f := by
    rw [meaning_RRR 0xC7 f (by decide)]
    show opIfence (RRR.unpack (f.pack 0xC7)) = _; rw [RRR.unpack_pack]
  rw [e]; rfl
theorem byOpcode_tokWait (f : ENGF) : ByOpcode (.tokWait f) := by
  intro w h _ s; cases h
  have e : slotMeaning (f.pack 0xC8) = opTokWait f := by
    rw [meaning_ENGF 0xC8 f (by decide)]
    show opTokWait (ENGF.unpack (f.pack 0xC8)) = _; rw [ENGF.unpack_pack]
  rw [e]; rfl
theorem byOpcode_tokTest (f : RRR) : ByOpcode (.tokTest f) := by
  intro w h _ s; cases h
  have e : slotMeaning (f.pack 0xC9) = opTokTest f := by
    rw [meaning_RRR 0xC9 f (by decide)]
    show opTokTest (RRR.unpack (f.pack 0xC9)) = _; rw [RRR.unpack_pack]
  rw [e]; rfl
theorem byOpcode_kvLdk (f : RRR) : ByOpcode (.kvLdk f) := by
  intro w h _ s; cases h
  have e : slotMeaning (f.pack 0xCA) = opKvLdk f := by
    rw [meaning_RRR 0xCA f (by decide)]
    show opKvLdk (RRR.unpack (f.pack 0xCA)) = _; rw [RRR.unpack_pack]
  rw [e]; rfl
theorem byOpcode_kvLdv (f : RRR) : ByOpcode (.kvLdv f) := by
  intro w h _ s; cases h
  have e : slotMeaning (f.pack 0xCB) = opKvLdv f := by
    rw [meaning_RRR 0xCB f (by decide)]
    show opKvLdv (RRR.unpack (f.pack 0xCB)) = _; rw [RRR.unpack_pack]
  rw [e]; rfl
theorem byOpcode_kvApp (f : RRR) : ByOpcode (.kvApp f) := by
  intro w h _ s; cases h
  have e : slotMeaning (f.pack 0xCC) = opKvApp f := by
    rw [meaning_RRR 0xCC f (by decide)]
    show opKvApp (RRR.unpack (f.pack 0xCC)) = _; rw [RRR.unpack_pack]
  rw [e]; rfl
theorem byOpcode_pref (f : MEMF) : ByOpcode (.pref f) := by
  intro w h _ s; cases h
  have e : slotMeaning (f.pack 0xCD) = opPref f := by
    rw [meaning_MEMF 0xCD f (by decide)]
    show opPref (MEMF.unpack (f.pack 0xCD)) = _; rw [MEMF.unpack_pack]
  rw [e]; rfl
theorem byOpcode_hstart (f : RRR) : ByOpcode (.hstart f) := by
  intro w h _ s; cases h
  have e : slotMeaning (f.pack 0xD0) = opHstart f := by
    rw [meaning_RRR 0xD0 f (by decide)]
    show opHstart (RRR.unpack (f.pack 0xD0)) = _; rw [RRR.unpack_pack]
  rw [e]; rfl
theorem byOpcode_hreap (f : RRR) : ByOpcode (.hreap f) := by
  intro w h _ s; cases h
  have e : slotMeaning (f.pack 0xD1) = opHreap f := by
    rw [meaning_RRR 0xD1 f (by decide)]
    show opHreap (RRR.unpack (f.pack 0xD1)) = _; rw [RRR.unpack_pack]
  rw [e]; rfl
theorem byOpcode_hstat (f : RRR) : ByOpcode (.hstat f) := by
  intro w h _ s; cases h
  have e : slotMeaning (f.pack 0xD2) = opHstat f := by
    rw [meaning_RRR 0xD2 f (by decide)]
    show opHstat (RRR.unpack (f.pack 0xD2)) = _; rw [RRR.unpack_pack]
  rw [e]; rfl
theorem byOpcode_vclaim (f : RRI) : ByOpcode (.vclaim f) := by
  intro w h _ s; cases h
  have e : slotMeaning (f.pack 0xD3) = opVclaim f := by
    rw [meaning_RRI 0xD3 f (by decide)]
    show opVclaim (RRI.unpack (f.pack 0xD3)) = _; rw [RRI.unpack_pack]
  rw [e]; rfl
theorem byOpcode_vrel (f : RRR) : ByOpcode (.vrel f) := by
  intro w h _ s; cases h
  have e : slotMeaning (f.pack 0xD4) = opVrel f := by
    rw [meaning_RRR 0xD4 f (by decide)]
    show opVrel (RRR.unpack (f.pack 0xD4)) = _; rw [RRR.unpack_pack]
  rw [e]; rfl
theorem byOpcode_vgrow (f : RRI) : ByOpcode (.vgrow f) := by
  intro w h _ s; cases h
  have e : slotMeaning (f.pack 0xD5) = opVgrow f := by
    rw [meaning_RRI 0xD5 f (by decide)]
    show opVgrow (RRI.unpack (f.pack 0xD5)) = _; rw [RRI.unpack_pack]
  rw [e]; rfl
theorem byOpcode_vstat (f : RRR) : ByOpcode (.vstat f) := by
  intro w h _ s; cases h
  have e : slotMeaning (f.pack 0xEF) = opVstat f := by
    rw [meaning_RRR 0xEF f (by decide)]
    show opVstat (RRR.unpack (f.pack 0xEF)) = _; rw [RRR.unpack_pack]
  rw [e]; rfl
theorem byOpcode_fork (f : RRR) : ByOpcode (.fork f) := by
  intro w h _ s; cases h
  have e : slotMeaning (f.pack 0xD6) = opFork f := by
    rw [meaning_RRR 0xD6 f (by decide)]
    show opFork (RRR.unpack (f.pack 0xD6)) = _; rw [RRR.unpack_pack]
  rw [e]; rfl
theorem byOpcode_forkR (f : RRR) : ByOpcode (.forkR f) := by
  intro w h _ s; cases h
  have e : slotMeaning (f.pack 0xD7) = opForkR f := by
    rw [meaning_RRR 0xD7 f (by decide)]
    show opForkR (RRR.unpack (f.pack 0xD7)) = _; rw [RRR.unpack_pack]
  rw [e]; rfl
theorem byOpcode_join (f : RRR) : ByOpcode (.join f) := by
  intro w h _ s; cases h
  have e : slotMeaning (f.pack 0xD8) = opJoin f := by
    rw [meaning_RRR 0xD8 f (by decide)]
    show opJoin (RRR.unpack (f.pack 0xD8)) = _; rw [RRR.unpack_pack]
  rw [e]; rfl
theorem byOpcode_jtest (f : RRR) : ByOpcode (.jtest f) := by
  intro w h _ s; cases h
  have e : slotMeaning (f.pack 0xD9) = opJtest f := by
    rw [meaning_RRR 0xD9 f (by decide)]
    show opJtest (RRR.unpack (f.pack 0xD9)) = _; rw [RRR.unpack_pack]
  rw [e]; rfl
theorem byOpcode_tend (f : RRR) : ByOpcode (.tend f) := by
  intro w h hw s; cases h
  have hk : f.md.toNat % 4 = 1 := by
    have h2 := hw; simp only [WellFormed, Bool.and_eq_true, decide_eq_true_eq] at h2
    rw [h2.2]; rfl
  have e : slotMeaning (f.pack 0xEE) = opTend f := by
    rw [meaning_RRR _ f (by decide)]
    change (match (RRR.unpack (f.pack 0xEE)).md.toNat % 4 with | 0 => _ | 1 => _ | 2 => _ | _ => _) = _
    rw [RRR.unpack_pack, hk]; rfl
  rw [e]; rfl
theorem byOpcode_hend (f : RRR) : ByOpcode (.hend f) := by
  intro w h hw s; cases h
  have hk : f.md.toNat % 4 = 2 := by
    have h2 := hw; simp only [WellFormed, Bool.and_eq_true, decide_eq_true_eq] at h2
    rw [h2.2]; rfl
  have e : slotMeaning (f.pack 0xEE) = opHend f := by
    rw [meaning_RRR _ f (by decide)]
    change (match (RRR.unpack (f.pack 0xEE)).md.toNat % 4 with | 0 => _ | 1 => _ | 2 => _ | _ => _) = _
    rw [RRR.unpack_pack, hk]; rfl
  rw [e]; rfl
theorem byOpcode_sleep (f : RRR) : ByOpcode (.sleep f) := by
  intro w h hw s; cases h
  have hk : f.md.toNat % 4 = 0 := by
    have hm : ∀ m : BitVec 8, mdIn m 0xF0 = true → m.toNat % 4 = 0 := by decide
    have h2 := hw; simp only [WellFormed, RRR.ok, Bool.and_eq_true] at h2
    exact hm _ h2.2
  have e : slotMeaning (f.pack 0xEE) = opSleep f := by
    rw [meaning_RRR _ f (by decide)]
    change (match (RRR.unpack (f.pack 0xEE)).md.toNat % 4 with | 0 => _ | 1 => _ | 2 => _ | _ => _) = _
    rw [RRR.unpack_pack, hk]; rfl
  rw [e]; rfl
theorem byOpcode_chbind (f : RRR) : ByOpcode (.chbind f) := by
  intro w h _ s; cases h
  have e : slotMeaning (f.pack 0xDA) = opChbind f := by
    rw [meaning_RRR 0xDA f (by decide)]
    show opChbind (RRR.unpack (f.pack 0xDA)) = _; rw [RRR.unpack_pack]
  rw [e]; rfl
theorem byOpcode_chunbind (f : RRR) : ByOpcode (.chunbind f) := by
  intro w h _ s; cases h
  have e : slotMeaning (f.pack 0xDB) = opChunbind f := by
    rw [meaning_RRR 0xDB f (by decide)]
    show opChunbind (RRR.unpack (f.pack 0xDB)) = _; rw [RRR.unpack_pack]
  rw [e]; rfl
theorem byOpcode_chstat (f : RRR) : ByOpcode (.chstat f) := by
  intro w h _ s; cases h
  have e : slotMeaning (f.pack 0xDC) = opChstat f := by
    rw [meaning_RRR 0xDC f (by decide)]
    show opChstat (RRR.unpack (f.pack 0xDC)) = _; rw [RRR.unpack_pack]
  rw [e]; rfl
theorem byOpcode_amsend (f : RRR) : ByOpcode (.amsend f) := by
  intro w h _ s; cases h
  have e : slotMeaning (f.pack 0xDD) = opAmsend f := by
    rw [meaning_RRR 0xDD f (by decide)]
    show opAmsend (RRR.unpack (f.pack 0xDD)) = _; rw [RRR.unpack_pack]
  rw [e]; rfl
theorem byOpcode_amsendW (f : RRR) : ByOpcode (.amsendW f) := by
  intro w h _ s; cases h
  have e : slotMeaning (f.pack 0xDE) = opAmsendW f := by
    rw [meaning_RRR 0xDE f (by decide)]
    show opAmsendW (RRR.unpack (f.pack 0xDE)) = _; rw [RRR.unpack_pack]
  rw [e]; rfl
theorem byOpcode_amrecv (f : RRI) : ByOpcode (.amrecv f) := by
  intro w h _ s; cases h
  have e : slotMeaning (f.pack 0xDF) = opAmrecv f := by
    rw [meaning_RRI 0xDF f (by decide)]
    show opAmrecv (RRI.unpack (f.pack 0xDF)) = _; rw [RRI.unpack_pack]
  rw [e]; rfl
theorem byOpcode_amret (f : RRR) : ByOpcode (.amret f) := by
  intro w h _ s; cases h
  have e : slotMeaning (f.pack 0xE0) = opAmret f := by
    rw [meaning_RRR 0xE0 f (by decide)]
    show opAmret (RRR.unpack (f.pack 0xE0)) = _; rw [RRR.unpack_pack]
  rw [e]; rfl
theorem byOpcode_mbstat (f : RRI) : ByOpcode (.mbstat f) := by
  intro w h _ s; cases h
  have e : slotMeaning (f.pack 0xE1) = opMbstat f := by
    rw [meaning_RRI 0xE1 f (by decide)]
    show opMbstat (RRI.unpack (f.pack 0xE1)) = _; rw [RRI.unpack_pack]
  rw [e]; rfl
theorem byOpcode_fcall (f : RRR) : ByOpcode (.fcall f) := by
  intro w h _ s; cases h
  have e : slotMeaning (f.pack 0xE2) = opFcall f := by
    rw [meaning_RRR 0xE2 f (by decide)]
    show opFcall (RRR.unpack (f.pack 0xE2)) = _; rw [RRR.unpack_pack]
  rw [e]; rfl
theorem byOpcode_fwait (f : RRR) : ByOpcode (.fwait f) := by
  intro w h _ s; cases h
  have e : slotMeaning (f.pack 0xE3) = opFwait f := by
    rw [meaning_RRR 0xE3 f (by decide)]
    show opFwait (RRR.unpack (f.pack 0xE3)) = _; rw [RRR.unpack_pack]
  rw [e]; rfl
theorem byOpcode_fpoll (f : RRR) : ByOpcode (.fpoll f) := by
  intro w h _ s; cases h
  have e : slotMeaning (f.pack 0xE4) = opFpoll f := by
    rw [meaning_RRR 0xE4 f (by decide)]
    show opFpoll (RRR.unpack (f.pack 0xE4)) = _; rw [RRR.unpack_pack]
  rw [e]; rfl
theorem byOpcode_fdrop (f : RRR) : ByOpcode (.fdrop f) := by
  intro w h _ s; cases h
  have e : slotMeaning (f.pack 0xE5) = opFdrop f := by
    rw [meaning_RRR 0xE5 f (by decide)]
    show opFdrop (RRR.unpack (f.pack 0xE5)) = _; rw [RRR.unpack_pack]
  rw [e]; rfl
theorem byOpcode_sqBatch (f : RRR) : ByOpcode (.sqBatch f) := by
  intro w h _ s; cases h
  have e : slotMeaning (f.pack 0xE6) = opSqBatch f := by
    rw [meaning_RRR 0xE6 f (by decide)]
    show opSqBatch (RRR.unpack (f.pack 0xE6)) = _; rw [RRR.unpack_pack]
  rw [e]; rfl
theorem byOpcode_sqEmit (f : RRR) : ByOpcode (.sqEmit f) := by
  intro w h _ s; cases h
  have e : slotMeaning (f.pack 0xE7) = opSqEmit f := by
    rw [meaning_RRR 0xE7 f (by decide)]
    show opSqEmit (RRR.unpack (f.pack 0xE7)) = _; rw [RRR.unpack_pack]
  rw [e]; rfl
theorem byOpcode_sqPfq (f : RRR) : ByOpcode (.sqPfq f) := by
  intro w h _ s; cases h
  have e : slotMeaning (f.pack 0xE8) = opSqPfq f := by
    rw [meaning_RRR 0xE8 f (by decide)]
    show opSqPfq (RRR.unpack (f.pack 0xE8)) = _; rw [RRR.unpack_pack]
  rw [e]; rfl
theorem byOpcode_adpClaim (f : RRR) : ByOpcode (.adpClaim f) := by
  intro w h _ s; cases h
  have e : slotMeaning (f.pack 0xE9) = opAdpClaim f := by
    rw [meaning_RRR 0xE9 f (by decide)]
    show opAdpClaim (RRR.unpack (f.pack 0xE9)) = _; rw [RRR.unpack_pack]
  rw [e]; rfl
theorem byOpcode_adpBind (f : RRR) : ByOpcode (.adpBind f) := by
  intro w h _ s; cases h
  have e : slotMeaning (f.pack 0xEA) = opAdpBind f := by
    rw [meaning_RRR 0xEA f (by decide)]
    show opAdpBind (RRR.unpack (f.pack 0xEA)) = _; rw [RRR.unpack_pack]
  rw [e]; rfl
theorem byOpcode_launch (f : RRR) : ByOpcode (.launch f) := by
  intro w h _ s; cases h
  have e : slotMeaning (f.pack 0xEB) = opLaunch f := by
    rw [meaning_RRR 0xEB f (by decide)]
    show opLaunch (RRR.unpack (f.pack 0xEB)) = _; rw [RRR.unpack_pack]
  rw [e]; rfl
theorem byOpcode_sdisp (f : RRI) : ByOpcode (.sdisp f) := by
  intro w h _ s; cases h
  have e : slotMeaning (f.pack 0xEC) = opSdisp f := by
    rw [meaning_RRI 0xEC f (by decide)]
    show opSdisp (RRI.unpack (f.pack 0xEC)) = _; rw [RRI.unpack_pack]
  rw [e]; rfl
theorem byOpcode_sdispTbl (f : RRR) : ByOpcode (.sdispTbl f) := by
  intro w h _ s; cases h
  have e : slotMeaning (f.pack 0xED) = opSdispTbl f := by
    rw [meaning_RRR 0xED f (by decide)]
    show opSdispTbl (RRR.unpack (f.pack 0xED)) = _; rw [RRR.unpack_pack]
  rw [e]; rfl
theorem byOpcode_trap (f : RI) : ByOpcode (.trap f) := by
  intro w h _ s; cases h
  have e : slotMeaning (f.pack 0xF0) = opTrap f := by
    rw [meaning_RI 0xF0 f (by decide)]
    show opTrap (RI.unpack (f.pack 0xF0)) = _; rw [RI.unpack_pack]
  rw [e]; rfl
theorem byOpcode_rfs (f : RRR) : ByOpcode (.rfs f) := by
  intro w h _ s; cases h
  have e : slotMeaning (f.pack 0xF1) = opRfs f := by
    rw [meaning_RRR 0xF1 f (by decide)]
    show opRfs (RRR.unpack (f.pack 0xF1)) = _; rw [RRR.unpack_pack]
  rw [e]; rfl
theorem byOpcode_csave (f : RRR) : ByOpcode (.csave f) := by
  intro w h _ s; cases h
  have e : slotMeaning (f.pack 0xF2) = opCsave f := by
    rw [meaning_RRR 0xF2 f (by decide)]
    show opCsave (RRR.unpack (f.pack 0xF2)) = _; rw [RRR.unpack_pack]
  rw [e]; rfl
theorem byOpcode_cload (f : RRR) : ByOpcode (.cload f) := by
  intro w h _ s; cases h
  have e : slotMeaning (f.pack 0xF3) = opCload f := by
    rw [meaning_RRR 0xF3 f (by decide)]
    show opCload (RRR.unpack (f.pack 0xF3)) = _; rw [RRR.unpack_pack]
  rw [e]; rfl
theorem byOpcode_ctxkill (f : RRR) : ByOpcode (.ctxkill f) := by
  intro w h _ s; cases h
  have e : slotMeaning (f.pack 0xF4) = opCtxkill f := by
    rw [meaning_RRR 0xF4 f (by decide)]
    show opCtxkill (RRR.unpack (f.pack 0xF4)) = _; rw [RRR.unpack_pack]
  rw [e]; rfl
theorem byOpcode_pctlQrec (f : RRI) : ByOpcode (.pctlQrec f) := by
  intro w h hw s; cases h
  have hk : f.imm.toNat % 256 = 0 := by
    have h2 := hw; simp only [WellFormed, Bool.and_eq_true, decide_eq_true_eq] at h2
    exact h2.2.1
  have e : slotMeaning (f.pack 0xF5) = opPctlQrec f := by
    rw [meaning_RRI _ f (by decide)]
    change (match (RRI.unpack (f.pack 0xF5)).imm.toNat % 256 with | 0 => _ | 1 => _ | 2 => _ | 3 => _ | _ => _) = _
    rw [RRI.unpack_pack, hk]; rfl
  rw [e]; rfl
theorem byOpcode_pctlQskip (f : RRI) : ByOpcode (.pctlQskip f) := by
  intro w h hw s; cases h
  have hk : f.imm.toNat % 256 = 1 := by
    have h2 := hw; simp only [WellFormed, Bool.and_eq_true, decide_eq_true_eq] at h2
    exact h2.2.1
  have e : slotMeaning (f.pack 0xF5) = opPctlQskip f := by
    rw [meaning_RRI _ f (by decide)]
    change (match (RRI.unpack (f.pack 0xF5)).imm.toNat % 256 with | 0 => _ | 1 => _ | 2 => _ | 3 => _ | _ => _) = _
    rw [RRI.unpack_pack, hk]; rfl
  rw [e]; rfl
theorem byOpcode_pctlPost (f : RRI) : ByOpcode (.pctlPost f) := by
  intro w h hw s; cases h
  have hk : f.imm.toNat % 256 = 2 := by
    have h2 := hw; simp only [WellFormed, Bool.and_eq_true, decide_eq_true_eq] at h2
    rw [h2.2]; rfl
  have e : slotMeaning (f.pack 0xF5) = opPctlPost f := by
    rw [meaning_RRI _ f (by decide)]
    change (match (RRI.unpack (f.pack 0xF5)).imm.toNat % 256 with | 0 => _ | 1 => _ | 2 => _ | 3 => _ | _ => _) = _
    rw [RRI.unpack_pack, hk]; rfl
  rw [e]; rfl
theorem byOpcode_pctlPark (f : RRI) : ByOpcode (.pctlPark f) := by
  intro w h hw s; cases h
  have hk : f.imm.toNat % 256 = 3 := by
    have h2 := hw; simp only [WellFormed, Bool.and_eq_true, decide_eq_true_eq] at h2
    rw [h2.2]; rfl
  have e : slotMeaning (f.pack 0xF5) = opPctlPark f := by
    rw [meaning_RRI _ f (by decide)]
    change (match (RRI.unpack (f.pack 0xF5)).imm.toNat % 256 with | 0 => _ | 1 => _ | 2 => _ | 3 => _ | _ => _) = _
    rw [RRI.unpack_pack, hk]; rfl
  rw [e]; rfl
theorem byOpcode_xinvPage (f : RRR) : ByOpcode (.xinvPage f) := by
  intro w h hw s; cases h
  have hk : f.md.toNat % 4 = 0 := by
    have h2 := hw; simp only [WellFormed] at h2
    have h3 := h2; simp only [RRR.ok, mdIn, Bool.and_eq_true, beq_iff_eq] at h3
    have hm : ∀ m : BitVec 8, m &&& ~~~(0x00 : BitVec 8) = 0 → m.toNat % 4 = 0 := by decide
    exact hm _ h3.2
  have e : slotMeaning (f.pack 0xF6) = opXinvPage f := by
    rw [meaning_RRR _ f (by decide)]
    change (match (RRR.unpack (f.pack 0xF6)).md.toNat % 4 with | 0 => _ | 1 => _ | 2 => _ | _ => _) = _
    rw [RRR.unpack_pack, hk]; rfl
  rw [e]; rfl
theorem byOpcode_xinvAsid (f : RRR) : ByOpcode (.xinvAsid f) := by
  intro w h hw s; cases h
  have hk : f.md.toNat % 4 = 1 := by
    have h2 := hw; simp only [WellFormed, Bool.and_eq_true, decide_eq_true_eq] at h2
    rw [h2.2]; rfl
  have e : slotMeaning (f.pack 0xF6) = opXinvAsid f := by
    rw [meaning_RRR _ f (by decide)]
    change (match (RRR.unpack (f.pack 0xF6)).md.toNat % 4 with | 0 => _ | 1 => _ | 2 => _ | _ => _) = _
    rw [RRR.unpack_pack, hk]; rfl
  rw [e]; rfl
theorem byOpcode_xinvQ (f : RRR) : ByOpcode (.xinvQ f) := by
  intro w h hw s; cases h
  have hk : f.md.toNat % 4 = 2 := by
    have h2 := hw; simp only [WellFormed, Bool.and_eq_true, decide_eq_true_eq] at h2
    rcases h2.2 with h3 | h3 <;> rw [h3] <;> rfl
  have e : slotMeaning (f.pack 0xF6) = opXinvQ f := by
    rw [meaning_RRR _ f (by decide)]
    change (match (RRR.unpack (f.pack 0xF6)).md.toNat % 4 with | 0 => _ | 1 => _ | 2 => _ | _ => _) = _
    rw [RRR.unpack_pack, hk]; rfl
  rw [e]; rfl
theorem byOpcode_kvinv (f : RRR) : ByOpcode (.kvinv f) := by
  intro w h _ s; cases h
  have e : slotMeaning (f.pack 0xF7) = opKvinv f := by
    rw [meaning_RRR 0xF7 f (by decide)]
    show opKvinv (RRR.unpack (f.pack 0xF7)) = _; rw [RRR.unpack_pack]
  rw [e]; rfl
theorem byOpcode_asidSet (f : RRR) : ByOpcode (.asidSet f) := by
  intro w h _ s; cases h
  have e : slotMeaning (f.pack 0xF8) = opAsidSet f := by
    rw [meaning_RRR 0xF8 f (by decide)]
    show opAsidSet (RRR.unpack (f.pack 0xF8)) = _; rw [RRR.unpack_pack]
  rw [e]; rfl
theorem byOpcode_asidRet (f : RRR) : ByOpcode (.asidRet f) := by
  intro w h _ s; cases h
  have e : slotMeaning (f.pack 0xF9) = opAsidRet f := by
    rw [meaning_RRR 0xF9 f (by decide)]
    show opAsidRet (RRR.unpack (f.pack 0xF9)) = _; rw [RRR.unpack_pack]
  rw [e]; rfl
theorem byOpcode_dset (f : RRR) : ByOpcode (.dset f) := by
  intro w h _ s; cases h
  have e : slotMeaning (f.pack 0xFA) = opDset f := by
    rw [slotMeaning, if_pos (by rw [opField_RRR_pack]), RRR.unpack_pack]
  rw [e]; rfl
theorem byOpcode_bkpt (f : RI) : ByOpcode (.bkpt f) := by
  intro w h _ s; cases h
  have e : slotMeaning (f.pack 0xFB) = opBkpt f := by
    rw [meaning_RI 0xFB f (by decide)]
    show opBkpt (RI.unpack (f.pack 0xFB)) = _; rw [RI.unpack_pack]
  rw [e]; rfl
theorem byOpcode_wpset (f : RRR) : ByOpcode (.wpset f) := by
  intro w h _ s; cases h
  have e : slotMeaning (f.pack 0xFC) = opWpset f := by
    rw [meaning_RRR 0xFC f (by decide)]
    show opWpset (RRR.unpack (f.pack 0xFC)) = _; rw [RRR.unpack_pack]
  rw [e]; rfl
theorem byOpcode_dbgRd (f : RRR) : ByOpcode (.dbgRd f) := by
  intro w h _ s; cases h
  have e : slotMeaning (f.pack 0xFD) = opDbgRd f := by
    rw [meaning_RRR 0xFD f (by decide)]
    show opDbgRd (RRR.unpack (f.pack 0xFD)) = _; rw [RRR.unpack_pack]
  rw [e]; rfl
theorem byOpcode_dbgWr (f : RRR) : ByOpcode (.dbgWr f) := by
  intro w h _ s; cases h
  have e : slotMeaning (f.pack 0xFE) = opDbgWr f := by
    rw [meaning_RRR 0xFE f (by decide)]
    show opDbgWr (RRR.unpack (f.pack 0xFE)) = _; rw [RRR.unpack_pack]
  rw [e]; rfl
theorem byOpcode_ill (f : RRR) : ByOpcode (.ill f) := by
  intro w h _ s; cases h
  have e : slotMeaning (f.pack 0xFF) = opIll f := by
    rw [meaning_RRR 0xFF f (by decide)]
    show opIll (RRR.unpack (f.pack 0xFF)) = _; rw [RRR.unpack_pack]
  rw [e]; rfl

/-- R65, R66: so for every slot instruction. -/
theorem byOpcode (i : Instr) : ByOpcode i :=
  match i with
  | .deviceReset => fun _ h => nomatch h
  | .turnOffer _ => fun _ h => nomatch h
  | .fetchComplete _ => fun _ h => nomatch h
  | .resultLand _ _ => fun _ h => nomatch h
  | .budgetRefill _ => fun _ h => nomatch h
  | .serviceDeadline _ => fun _ h => nomatch h
  | .serviceEntry _ => fun _ h => nomatch h
  | .homeAnswer _ => fun _ h => nomatch h
  | .monitorWake _ _ => fun _ h => nomatch h
  | .kvWalkAnswer _ => fun _ h => nomatch h
  | .leaseGrant _ _ => fun _ h => nomatch h
  | .leaseExpiry _ _ => fun _ h => nomatch h
  | .writebackStart _ _ => fun _ h => nomatch h
  | .writebackAccept _ _ => fun _ h => nomatch h
  | .scAnnounceArrive => fun _ h => nomatch h
  | .engineCmdStart _ _ => fun _ h => nomatch h
  | .engineCmdComplete _ _ => fun _ h => nomatch h
  | .copyDeliver _ _ => fun _ h => nomatch h
  | .copyComplete _ _ => fun _ h => nomatch h
  | .messageArrive _ => fun _ h => nomatch h
  | .amsendAnswer _ => fun _ h => nomatch h
  | .peerSpindleAnswer _ => fun _ h => nomatch h
  | .chuckAnswer _ => fun _ h => nomatch h
  | .claimGrant _ => fun _ h => nomatch h
  | .taskTake _ => fun _ h => nomatch h
  | .sleepDeadline _ => fun _ h => nomatch h
  | .futureDeadline _ => fun _ h => nomatch h
  | .asidSweepDone _ _ => fun _ h => nomatch h
  | .faceplateSlotWrite _ _ _ => fun _ h => nomatch h
  | .faceplateAccept _ => fun _ h => nomatch h
  | .streamASlotWrite _ _ _ => fun _ h => nomatch h
  | .hsNop _ _ => fun _ h => nomatch h
  | .hsLaunch _ _ => fun _ h => nomatch h
  | .hsMark _ _ => fun _ h => nomatch h
  | .hsPublish _ _ => fun _ h => nomatch h
  | .launchStart _ _ => fun _ h => nomatch h
  | .launchEnd _ => fun _ h => nomatch h
  | .partitionConfigure _ _ => fun _ h => nomatch h
  | .partitionClearDone _ => fun _ h => nomatch h
  | .partitionReset _ => fun _ h => nomatch h
  | .partitionRemove _ => fun _ h => nomatch h
  | .heartbeatMiss _ _ => fun _ h => nomatch h
  | .lossWalkEnd _ _ _ => fun _ h => nomatch h
  | .patrolScrub _ => fun _ h => nomatch h
  | .etfenLinkDown _ _ => fun _ h => nomatch h
  | .etfenRouteReturn _ => fun _ h => nomatch h
  | .etfenRequest _ => fun _ h => nomatch h
  | .hostLinkLoss => fun _ h => nomatch h
  | .hostLinkRecover => fun _ h => nomatch h
  | .hostHoldExpiry _ => fun _ h => nomatch h
  | .hostAccess _ => fun _ h => nomatch h
  | .hostWindowWrite _ _ _ _ _ _ => fun _ h => nomatch h
  | .supplySag _ => fun _ h => nomatch h
  | .supplyRecover _ => fun _ h => nomatch h
  | .powerLimitWrite _ => fun _ h => nomatch h
  | .powerClockAdjust _ => fun _ h => nomatch h
  | .llclrWrite _ _ => fun _ h => nomatch h
  | .fmtcWrite _ _ => fun _ h => nomatch h
  | .registerWrite _ _ => fun _ h => nomatch h
  | .uecCompletion _ _ => fun _ h => nomatch h
  | .attestReport _ _ _ => fun _ h => nomatch h
  | .measExtend _ _ => fun _ h => nomatch h
  | .agentAccess _ _ => fun _ h => nomatch h
  | .learoHalt _ => fun _ h => nomatch h
  | .learoResume _ => fun _ h => nomatch h
  | .learoStep _ => fun _ h => nomatch h
  | .learoDbgen _ _ => fun _ h => nomatch h
  | .learoFreeze _ => fun _ h => nomatch h
  | .learoThaw _ => fun _ h => nomatch h
  | .learoRdq _ _ => fun _ h => nomatch h
  | .learoRestart _ _ => fun _ h => nomatch h
  | .learoSkip _ _ => fun _ h => nomatch h
  | .learoRdctx _ _ => fun _ h => nomatch h
  | .learoWrctx _ _ _ => fun _ h => nomatch h
  | .learoRdstash _ _ _ => fun _ h => nomatch h
  | .learoWrstash _ _ _ => fun _ h => nomatch h
  | .learoKill _ => fun _ h => nomatch h
  | .learoMsg _ _ => fun _ h => nomatch h
  | .learoSwap _ _ => fun _ h => nomatch h
  | .spreset _ => fun _ h => nomatch h
  | .spretire _ => fun _ h => nomatch h
  | .managementMailboxImage _ => fun _ h => nomatch h
  | .railCurrentLimit _ => fun _ h => nomatch h
  | .futTake _ => fun _ h => nomatch h
  | .futDone _ => fun _ h => nomatch h
  | .futFail _ => fun _ h => nomatch h
  | .futExt _ => fun _ h => nomatch h
  | .sqPeek _ => fun _ h => nomatch h
  | .sqCtlCreate _ => fun _ h => nomatch h
  | .sqCtlRetire _ => fun _ h => nomatch h
  | .sqCtlFree _ => fun _ h => nomatch h
  | .sqCtlAdpres _ => fun _ h => nomatch h
  | .sqCtlPush _ => fun _ h => nomatch h
  | .sqCtlOutack _ => fun _ h => nomatch h
  | .sqCfgCallTokenRange _ => fun _ h => nomatch h
  | .sqCfgCto _ => fun _ h => nomatch h
  | .sqCfgTimeoutString _ => fun _ h => nomatch h
  | .sqCfgFailureString _ => fun _ h => nomatch h
  | .sqCfgXmax _ => fun _ h => nomatch h
  | .sqCfgKvrt _ => fun _ h => nomatch h
  | .sqCfgUecen _ => fun _ h => nomatch h
  | .capProbe _ => fun _ h => nomatch h
  | .add f => byOpcode_add f
  | .sub f => byOpcode_sub f
  | .addi f => byOpcode_addi f
  | .mul f => byOpcode_mul f
  | .mulhS f => byOpcode_mulhS f
  | .mulhZ f => byOpcode_mulhZ f
  | .divS f => byOpcode_divS f
  | .divZ f => byOpcode_divZ f
  | .remS f => byOpcode_remS f
  | .remZ f => byOpcode_remZ f
  | .addsS f => byOpcode_addsS f
  | .addsZ f => byOpcode_addsZ f
  | .subsS f => byOpcode_subsS f
  | .subsZ f => byOpcode_subsZ f
  | .minS f => byOpcode_minS f
  | .minZ f => byOpcode_minZ f
  | .maxS f => byOpcode_maxS f
  | .maxZ f => byOpcode_maxZ f
  | .and f => byOpcode_and f
  | .or f => byOpcode_or f
  | .xor f => byOpcode_xor f
  | .andn f => byOpcode_andn f
  | .andi f => byOpcode_andi f
  | .ori f => byOpcode_ori f
  | .xori f => byOpcode_xori f
  | .shl f => byOpcode_shl f
  | .shrZ f => byOpcode_shrZ f
  | .shrS f => byOpcode_shrS f
  | .shli f => byOpcode_shli f
  | .shriZ f => byOpcode_shriZ f
  | .shriS f => byOpcode_shriS f
  | .rot f => byOpcode_rot f
  | .shadd f => byOpcode_shadd f
  | .movi f => byOpcode_movi f
  | .movhi f => byOpcode_movhi f
  | .bfxS f => byOpcode_bfxS f
  | .bfxZ f => byOpcode_bfxZ f
  | .bfi f => byOpcode_bfi f
  | .clz f => byOpcode_clz f
  | .ctz f => byOpcode_ctz f
  | .popc f => byOpcode_popc f
  | .clmul f => byOpcode_clmul f
  | .clmulh f => byOpcode_clmulh f
  | .bswap f => byOpcode_bswap f
  | .brev f => byOpcode_brev f
  | .cmp f => byOpcode_cmp f
  | .cmpi f => byOpcode_cmpi f
  | .pbool f => byOpcode_pbool f
  | .mfc f => byOpcode_mfc f
  | .mtc f => byOpcode_mtc f
  | .sel f => byOpcode_sel f
  | .br f => byOpcode_br f
  | .bri f => byOpcode_bri f
  | .loop f => byOpcode_loop f
  | .loopRot f => byOpcode_loopRot f
  | .loopW f => byOpcode_loopW f
  | .addw f => byOpcode_addw f
  | .subw f => byOpcode_subw f
  | .mulw f => byOpcode_mulw f
  | .shlw f => byOpcode_shlw f
  | .shrwZ f => byOpcode_shrwZ f
  | .shrwS f => byOpcode_shrwS f
  | .addiw f => byOpcode_addiw f
  | .nop f => byOpcode_nop f
  | .vaddS32 f => byOpcode_vaddS32 f
  | .vaddS16 f => byOpcode_vaddS16 f
  | .vaddS8 f => byOpcode_vaddS8 f
  | .vsubS32 f => byOpcode_vsubS32 f
  | .vsubS16 f => byOpcode_vsubS16 f
  | .vsubS8 f => byOpcode_vsubS8 f
  | .vmulS32 f => byOpcode_vmulS32 f
  | .vmulS16 f => byOpcode_vmulS16 f
  | .vminS32 f => byOpcode_vminS32 f
  | .vmaxS32 f => byOpcode_vmaxS32 f
  | .vminS16 f => byOpcode_vminS16 f
  | .vmaxS16 f => byOpcode_vmaxS16 f
  | .vand f => byOpcode_vand f
  | .vor f => byOpcode_vor f
  | .vxor f => byOpcode_vxor f
  | .vshlS32 f => byOpcode_vshlS32 f
  | .vshrS32 f => byOpcode_vshrS32 f
  | .vshlS16 f => byOpcode_vshlS16 f
  | .vshrS16 f => byOpcode_vshrS16 f
  | .vmacwS16 f => byOpcode_vmacwS16 f
  | .vdotS8 f => byOpcode_vdotS8 f
  | .vdotS16 f => byOpcode_vdotS16 f
  | .vclmul f => byOpcode_vclmul f
  | .vclmulh f => byOpcode_vclmulh f
  | .vcmpS32 f => byOpcode_vcmpS32 f
  | .vcmpS16 f => byOpcode_vcmpS16 f
  | .vsel f => byOpcode_vsel f
  | .vaddF32 f => byOpcode_vaddF32 f
  | .vsubF32 f => byOpcode_vsubF32 f
  | .vmulF32 f => byOpcode_vmulF32 f
  | .vfmaF32 f => byOpcode_vfmaF32 f
  | .vminF32 f => byOpcode_vminF32 f
  | .vmaxF32 f => byOpcode_vmaxF32 f
  | .vcmpF32 f => byOpcode_vcmpF32 f
  | .vaddBf16 f => byOpcode_vaddBf16 f
  | .vmulBf16 f => byOpcode_vmulBf16 f
  | .vfmaBf16 f => byOpcode_vfmaBf16 f
  | .vaddF16 f => byOpcode_vaddF16 f
  | .vmulF16 f => byOpcode_vmulF16 f
  | .vfmaF16 f => byOpcode_vfmaF16 f
  | .vcvtF32 f => byOpcode_vcvtF32 f
  | .vcvtBf16 f => byOpcode_vcvtBf16 f
  | .vcvtF16 f => byOpcode_vcvtF16 f
  | .vcvtF8e4 f => byOpcode_vcvtF8e4 f
  | .vcvtF8e5 f => byOpcode_vcvtF8e5 f
  | .vcvtS32 f => byOpcode_vcvtS32 f
  | .vcvtS16 f => byOpcode_vcvtS16 f
  | .vcvtS8 f => byOpcode_vcvtS8 f
  | .vexp2 f => byOpcode_vexp2 f
  | .vlog2 f => byOpcode_vlog2 f
  | .vrcp f => byOpcode_vrcp f
  | .vrsqrt f => byOpcode_vrsqrt f
  | .vtanh f => byOpcode_vtanh f
  | .vexp f => byOpcode_vexp f
  | .vlog f => byOpcode_vlog f
  | .vredF32 f => byOpcode_vredF32 f
  | .vredS32 f => byOpcode_vredS32 f
  | .vscanF32 f => byOpcode_vscanF32 f
  | .vscanS32 f => byOpcode_vscanS32 f
  | .vperm f => byOpcode_vperm f
  | .vsplat f => byOpcode_vsplat f
  | .vslide f => byOpcode_vslide f
  | .vzip f => byOpcode_vzip f
  | .vpack f => byOpcode_vpack f
  | .vext f => byOpcode_vext f
  | .mmF8e4 f => byOpcode_mmF8e4 f
  | .mmF8e5 f => byOpcode_mmF8e5 f
  | .mmF6e3 f => byOpcode_mmF6e3 f
  | .mmF6e2 f => byOpcode_mmF6e2 f
  | .mmF4 f => byOpcode_mmF4 f
  | .mmBf16 f => byOpcode_mmBf16 f
  | .mmF16 f => byOpcode_mmF16 f
  | .mmS8 f => byOpcode_mmS8 f
  | .mmS4 f => byOpcode_mmS4 f
  | .mmMx f => byOpcode_mmMx f
  | .mmGrp f => byOpcode_mmGrp f
  | .mmPriv f => byOpcode_mmPriv f
  | .elLd f => byOpcode_elLd f
  | .rgCfg f => byOpcode_rgCfg f
  | .rgAdv f => byOpcode_rgAdv f
  | .accZero f => byOpcode_accZero f
  | .accSt f => byOpcode_accSt f
  | .accLd f => byOpcode_accLd f
  | .accMv f => byOpcode_accMv f
  | .cvRun f => byOpcode_cvRun f
  | .cvCfg f => byOpcode_cvCfg f
  | .saLd f => byOpcode_saLd f
  | .saMmBf16 f => byOpcode_saMmBf16 f
  | .saMmF8 f => byOpcode_saMmF8 f
  | .saSt f => byOpcode_saSt f
  | .saZero f => byOpcode_saZero f
  | .saMv f => byOpcode_saMv f
  | .attnInit f => byOpcode_attnInit f
  | .attnQk f => byOpcode_attnQk f
  | .attnSmx f => byOpcode_attnSmx f
  | .attnPv f => byOpcode_attnPv f
  | .grpIdx f => byOpcode_grpIdx f
  | .ldS8 f => byOpcode_ldS8 f
  | .ldZ8 f => byOpcode_ldZ8 f
  | .ldS16 f => byOpcode_ldS16 f
  | .ldZ16 f => byOpcode_ldZ16 f
  | .ldS32 f => byOpcode_ldS32 f
  | .ldZ32 f => byOpcode_ldZ32 f
  | .ldS64 f => byOpcode_ldS64 f
  | .stS8 f => byOpcode_stS8 f
  | .stS16 f => byOpcode_stS16 f
  | .stS32 f => byOpcode_stS32 f
  | .stS64 f => byOpcode_stS64 f
  | .vldS32 f => byOpcode_vldS32 f
  | .vstS32 f => byOpcode_vstS32 f
  | .vldS16 f => byOpcode_vldS16 f
  | .vstS16 f => byOpcode_vstS16 f
  | .smMap f => byOpcode_smMap f
  | .smUnmap f => byOpcode_smUnmap f
  | .smPin f => byOpcode_smPin f
  | .smUnpin f => byOpcode_smUnpin f
  | .smFlush f => byOpcode_smFlush f
  | .cpGet f => byOpcode_cpGet f
  | .cpPut f => byOpcode_cpPut f
  | .cpRput f => byOpcode_cpRput f
  | .cpGth f => byOpcode_cpGth f
  | .barInit f => byOpcode_barInit f
  | .barArr f => byOpcode_barArr f
  | .barWait f => byOpcode_barWait f
  | .barTest f => byOpcode_barTest f
  | .amoAdd f => byOpcode_amoAdd f
  | .amoAnd f => byOpcode_amoAnd f
  | .amoOr f => byOpcode_amoOr f
  | .amoXor f => byOpcode_amoXor f
  | .amoMinS f => byOpcode_amoMinS f
  | .amoMinZ f => byOpcode_amoMinZ f
  | .amoMaxS f => byOpcode_amoMaxS f
  | .amoMaxZ f => byOpcode_amoMaxZ f
  | .amoSwap f => byOpcode_amoSwap f
  | .amoCas f => byOpcode_amoCas f
  | .amoAddF32 f => byOpcode_amoAddF32 f
  | .fence f => byOpcode_fence f
  | .cpub f => byOpcode_cpub f
  | .ifence f => byOpcode_ifence f
  | .tokWait f => byOpcode_tokWait f
  | .tokTest f => byOpcode_tokTest f
  | .kvLdk f => byOpcode_kvLdk f
  | .kvLdv f => byOpcode_kvLdv f
  | .kvApp f => byOpcode_kvApp f
  | .pref f => byOpcode_pref f
  | .hstart f => byOpcode_hstart f
  | .hreap f => byOpcode_hreap f
  | .hstat f => byOpcode_hstat f
  | .vclaim f => byOpcode_vclaim f
  | .vrel f => byOpcode_vrel f
  | .vgrow f => byOpcode_vgrow f
  | .vstat f => byOpcode_vstat f
  | .fork f => byOpcode_fork f
  | .forkR f => byOpcode_forkR f
  | .join f => byOpcode_join f
  | .jtest f => byOpcode_jtest f
  | .tend f => byOpcode_tend f
  | .hend f => byOpcode_hend f
  | .sleep f => byOpcode_sleep f
  | .chbind f => byOpcode_chbind f
  | .chunbind f => byOpcode_chunbind f
  | .chstat f => byOpcode_chstat f
  | .amsend f => byOpcode_amsend f
  | .amsendW f => byOpcode_amsendW f
  | .amrecv f => byOpcode_amrecv f
  | .amret f => byOpcode_amret f
  | .mbstat f => byOpcode_mbstat f
  | .fcall f => byOpcode_fcall f
  | .fwait f => byOpcode_fwait f
  | .fpoll f => byOpcode_fpoll f
  | .fdrop f => byOpcode_fdrop f
  | .sqBatch f => byOpcode_sqBatch f
  | .sqEmit f => byOpcode_sqEmit f
  | .sqPfq f => byOpcode_sqPfq f
  | .adpClaim f => byOpcode_adpClaim f
  | .adpBind f => byOpcode_adpBind f
  | .launch f => byOpcode_launch f
  | .sdisp f => byOpcode_sdisp f
  | .sdispTbl f => byOpcode_sdispTbl f
  | .trap f => byOpcode_trap f
  | .rfs f => byOpcode_rfs f
  | .csave f => byOpcode_csave f
  | .cload f => byOpcode_cload f
  | .ctxkill f => byOpcode_ctxkill f
  | .pctlQrec f => byOpcode_pctlQrec f
  | .pctlQskip f => byOpcode_pctlQskip f
  | .pctlPost f => byOpcode_pctlPost f
  | .pctlPark f => byOpcode_pctlPark f
  | .xinvPage f => byOpcode_xinvPage f
  | .xinvAsid f => byOpcode_xinvAsid f
  | .xinvQ f => byOpcode_xinvQ f
  | .kvinv f => byOpcode_kvinv f
  | .asidSet f => byOpcode_asidSet f
  | .asidRet f => byOpcode_asidRet f
  | .dset f => byOpcode_dset f
  | .bkpt f => byOpcode_bkpt f
  | .wpset f => byOpcode_wpset f
  | .dbgRd f => byOpcode_dbgRd f
  | .dbgWr f => byOpcode_dbgWr f
  | .ill f => byOpcode_ill f

end Sys2Proof.Machine
end

