-- ==== Sys2Proof/Laws/Memory.lean ====
section
/-! SUPPORT. Laws of memory: a read after a write, what each shared operation over memory leaves, and that every one of them keeps
memory in its canonical form. -/
namespace Sys2Proof.Machine
open Sys2Proof.Safety

/-! ## What a write leaves (R2, R196, R405) -/

theorem memByte_putByte (s : State) (a k : Nat) (b : Byte) : memByte (putByte s a b) k = if k = a then b else memByte s k :=
  smGet_smSet ..

theorem memByte_putBytes (bs : List Byte) (s : State) (a k : Nat) :
    memByte (putBytes s a bs) k = if a ≤ k ∧ k < a + bs.length then bs.getD (k - a) 0 else memByte s k := by
  induction bs generalizing s a with
  | nil => simp only [putBytes, List.length_nil]; rw [if_neg (by omega)]
  | cons b bs ih =>
    simp only [putBytes, ih, memByte_putByte, List.length_cons]
    by_cases h : k = a
    · subst h
      rw [if_neg (by omega), if_pos (by omega)]
      simp
    · by_cases h2 : a ≤ k ∧ k < a + (bs.length + 1)
      · rw [if_pos (by omega), if_pos h2]
        obtain ⟨j, hj⟩ : ∃ j, k - a = j + 1 := ⟨k - a - 1, by omega⟩
        rw [hj, show k - (a + 1) = j by omega]
        simp
      · rw [if_neg (by omega), if_neg h2, if_neg h]

@[simp] theorem memByte_clearErrs (s : State) (a n k : Nat) : memByte (clearErrs s a n) k = memByte s k := rfl
@[simp] theorem clearErrs_mem (s : State) (a n : Nat) : (clearErrs s a n).mem = s.mem := rfl
@[simp] theorem clearErrs_tiles (s : State) (a n : Nat) : (clearErrs s a n).tiles = s.tiles := rfl
@[simp] theorem clearErrs_ctxs (s : State) (a n : Nat) : (clearErrs s a n).ctxs = s.ctxs := rfl

/-- R405: ending the errors of the words that a write covers changes error marks alone. -/
theorem clearWordErrs_eq (s : State) (ls : List Loc) : ∃ es ss cs ks, clearWordErrs s ls = { s with errs := es, serrs := ss, cerrs := cs, scerrs := ks } := by
  unfold clearWordErrs
  split
  · exact ⟨_, _, _, _, rfl⟩
  · rename_i h
    clear h
    generalize wholeWords ls = w
    induction w generalizing s with
    | nil => exact ⟨_, _, _, _, rfl⟩
    | cons l w ih =>
      rw [List.foldl_cons]
      cases l with
      | mem a => obtain ⟨es, ss, cs, ks, h⟩ := ih { s with errs := smDel s.errs (a / 8), cerrs := smDel s.cerrs (a / 8) }; exact ⟨es, ss, cs, ks, h⟩
      | stash t o p => obtain ⟨es, ss, cs, ks, h⟩ := ih { s with serrs := smDel s.serrs (stashWordKey t o), scerrs := s.scerrs.filter (· != stashWordKey t o) }; exact ⟨es, ss, cs, ks, h⟩
@[simp] theorem clearWordErrs_mem (s : State) (ls : List Loc) : (clearWordErrs s ls).mem = s.mem := by
  obtain ⟨_, _, _, _, h⟩ := clearWordErrs_eq s ls
  rw [h]
@[simp] theorem readLoc_clearWordErrs (s : State) (ls : List Loc) (l : Loc) : readLoc (clearWordErrs s ls) l = readLoc s l := by
  obtain ⟨_, _, _, _, h⟩ := clearWordErrs_eq s ls
  rw [h]
  cases l <;> rfl

/-- The storage behind a place: two places with one storage are one byte. -/
def Loc.cell : Loc → Option Nat × Nat
  | .stash t o _ => (some t, o)
  | .mem a => (none, a)

theorem stashByte_putStash (s : State) (t o t2 o2 : Nat) (b : Byte) :
    stashByte (putStash s t o b) t2 o2 = if t2 = t ∧ o2 = o then b else stashByte s t2 o2 := by
  unfold stashByte putStash
  by_cases h : t2 = t
  · subst h
    simp only [modTile, tileAt_setTile_same, smGet_smSet, true_and]
  · simp only [modTile, tileAt_setTile_other _ h, h, false_and, if_false]

/-- A write to a place, then a read: the byte written where the storage is the same, the byte before elsewhere. -/
theorem readLoc_writeLoc (s : State) (l k : Loc) (b : Byte) :
    readLoc (writeLoc s l b) k = if k.cell = l.cell then b else readLoc s k := by
  cases l with
  | mem a =>
    cases k with
    | mem c => simpa [writeLoc, readLoc, Loc.cell] using memByte_putByte s a c b
    | stash t o p => simp [Loc.cell]; rfl
  | stash t o p =>
    have h (u : Nat) (c : Nat) : readLoc (writeLoc s (.stash t o p) b) (.stash u c none) = stashByte (putStash s t o b) u c := by cases p <;> rfl
    cases k with
    | mem c => simp only [Loc.cell]; cases p <;> simp [writeLoc, readLoc] <;> rfl
    | stash u c q => simpa [readLoc, Loc.cell, Prod.ext_iff] using (h u c).trans (stashByte_putStash s t o u c b)

/-- Bytes written to places, then one read elsewhere: as before. -/
theorem readLoc_writeLocs_other (ls : List Loc) (s : State) (bs : List Byte) (k : Loc) (h : ∀ l ∈ ls, k.cell ≠ l.cell) :
    readLoc (writeLocs s ls bs) k = readLoc s k := by
  induction ls generalizing s bs with
  | nil => rfl
  | cons l ls ih =>
    cases bs with
    | nil => rfl
    | cons b bs =>
      simp only [writeLocs]
      rw [ih _ _ fun x hx => h x (List.mem_cons_of_mem _ hx), readLoc_writeLoc, if_neg (h l (List.mem_cons_self ..))]

/-- Bytes written to places of different storage, then read back. -/
theorem readLocs_writeLocs (ls : List Loc) (s : State) (bs : List Byte) (hn : (ls.map Loc.cell).Nodup) (hl : ls.length = bs.length) :
    readLocs (writeLocs s ls bs) ls = bs := by
  induction ls generalizing s bs with
  | nil => cases bs <;> simp_all [readLocs]
  | cons l ls ih =>
    cases bs with
    | nil => simp at hl
    | cons b bs =>
      rw [List.map_cons, List.nodup_cons] at hn
      simp only [writeLocs, readLocs, List.map_cons]
      have h := ih (writeLoc s l b) bs hn.2 (by simpa using hl)
      unfold readLocs at h
      rw [h, readLoc_writeLocs_other _ _ _ _ fun x hx e => hn.1 (List.mem_map.mpr ⟨x, hx, e.symm⟩), readLoc_writeLoc, if_pos rfl]

theorem readLocs_storeLocs (ls : List Loc) (s : State) (bs : List Byte) (hn : (ls.map Loc.cell).Nodup) (hl : ls.length = bs.length) :
    readLocs (storeLocs s ls bs) ls = bs := by
  refine Eq.trans ?_ (readLocs_writeLocs ls s bs hn hl)
  exact List.map_congr_left fun l _ => readLoc_clearWordErrs (writeLocs s ls bs) ls l
theorem readLoc_storeLocs_other (ls : List Loc) (s : State) (bs : List Byte) (k : Loc) (h : ∀ l ∈ ls, k.cell ≠ l.cell) :
    readLoc (storeLocs s ls bs) k = readLoc s k := (readLoc_clearWordErrs ..).trans (readLoc_writeLocs_other ls s bs k h)

/-! ## The canonical form -/

theorem canonical_reset : memCanonical State.reset := rfl
theorem canonical_putByte {s : State} (h : memCanonical s) (a : Nat) (b : Byte) : memCanonical (putByte s a b) := smWf_smSet h a b
theorem canonical_putBytes (bs : List Byte) {s : State} (h : memCanonical s) (a : Nat) : memCanonical (putBytes s a bs) := by
  induction bs generalizing s a with
  | nil => exact h
  | cons b bs ih => exact ih (canonical_putByte h a b) (a + 1)
theorem canonical_writeLoc {s : State} (h : memCanonical s) (l : Loc) (b : Byte) : memCanonical (writeLoc s l b) := by
  cases l with
  | mem a => exact canonical_putByte h a b
  | stash t o p => cases p <;> exact h
theorem canonical_writeLocs (ls : List Loc) {s : State} (h : memCanonical s) (bs : List Byte) : memCanonical (writeLocs s ls bs) := by
  induction ls generalizing s bs with
  | nil => exact h
  | cons l ls ih =>
    cases bs with
    | nil => exact h
    | cons b bs => exact ih (canonical_writeLoc h l b) bs
theorem canonical_storeLocs {s : State} (h : memCanonical s) (ls : List Loc) (bs : List Byte) : memCanonical (storeLocs s ls bs) := by
  unfold memCanonical storeLocs
  rw [clearWordErrs_mem]
  exact canonical_writeLocs ls h bs
theorem canonical_putHomeAs (back : Bool) {s : State} (h : memCanonical s) (pnum pa : Nat) (bs : List Byte) :
    memCanonical (putHomeAs back s pnum pa bs) := by
  unfold putHomeAs
  split
  · exact h
  · have hb := canonical_putBytes bs h pa
    cases back <;> exact hb
theorem canonical_putHome {s : State} (h : memCanonical s) (pnum pa : Nat) (bs : List Byte) : memCanonical (putHome s pnum pa bs) :=
  canonical_putHomeAs false h pnum pa bs
theorem canonical_devWrite {s : State} (h : memCanonical s) (w : DevWrite) : memCanonical (devWrite s w) := by
  unfold devWrite
  split
  · unfold devPut
    refine canonical_putHome ?_ ..
    split
    · unfold modPart
      split <;> exact h
    · exact h
  · exact h
theorem canonical_mirror {s : State} (h : memCanonical s) (part : Nat) (p : Part) (cls : Nat) (i0 i1 : Word) :
    memCanonical (mirror s part p cls i0 i1) := by
  simp only [mirror]
  split
  · exact h
  · exact canonical_devWrite (s := setPart s part _) h _
theorem canonical_mirrorIf {s : State} (h : memCanonical s) (c : Prop) [Decidable c] (part : Nat) (p : Part) (cls : Nat) (i0 i1 : Word) :
    memCanonical (if c then mirror s part p cls i0 i1 else s) := by
  split
  · exact canonical_mirror h ..
  · exact h
theorem canonical_posted {s : State} (h : memCanonical s) (l : List Posted) : memCanonical { s with posted := l } := h
theorem canonical_sendMsi {s : State} (h : memCanonical s) (part cls : Nat) (p : Part) (c : Prop) [Decidable c] :
    memCanonical (if c then sendMsi s part cls p else s) := by
  split <;> exact h
theorem canonical_post {s : State} (h : memCanonical s) (part cls : Nat) (i0 i1 : Word) : memCanonical (post s part cls i0 i1) := by
  unfold post
  split
  · exact h
  · exact canonical_mirrorIf (canonical_sendMsi (canonical_posted h _) ..) ..
theorem canonical_addLoss {s : State} (h : memCanonical s) (pnum pline : Nat) : memCanonical (addLoss s pnum pline) := by
  unfold addLoss
  split
  · exact h
  · split
    · exact h
    · split
      · exact h
      · exact canonical_post (s := setPart s pnum _) h ..
theorem canonical_writeBackData {s : State} (h : memCanonical s) (tile off pline : Nat) : memCanonical (writeBackData s tile off pline) := by
  unfold writeBackData
  dsimp only
  split
  · exact canonical_putHomeAs true h ..
  · exact canonical_addLoss h ..
theorem canonical_zeroChannels {s : State} (h : memCanonical s) (chs : List Nat) : memCanonical (zeroChannels s chs) := smWf_filter h _
theorem canonical_putImage {s : State} (h : memCanonical s) (pages : List AreaPage) (img : SMap Byte) : memCanonical (putImage s pages img) := by
  unfold putImage
  induction img generalizing s with
  | nil => exact h
  | cons e img ih =>
    rw [List.foldl_cons]
    apply ih
    split
    · exact canonical_putByte h ..
    · exact h
theorem canonical_writeArea {s : State} (h : memCanonical s) (pages : List AreaPage) (img : SMap Byte) : memCanonical (writeArea s pages img) := by
  unfold writeArea
  apply canonical_putImage
  have hs : memCanonical { s with mem := s.mem.filter fun e => (pageHolding pages e.1).isNone
                                  pub := s.pub.filter fun e => (pageHolding pages (e.1 * 128)).isNone } := smWf_filter h _
  have hf : ∀ (gs : List AreaPage) (t : State), memCanonical t → memCanonical (gs.foldl (fun s g => clearErrs s g.pa g.len) t) := by
    intro gs
    induction gs with
    | nil => exact fun _ ht => ht
    | cons g gs ih => exact fun t ht => ih (clearErrs t g.pa g.len) ht
  exact hf pages _ hs

end Sys2Proof.Machine
end

