-- ==== Sys2Proof/Laws/PerInstr.lean ====
section
/-! SUPPORT. Laws per instruction: the slot word of a well-formed instruction is one that raises no F_ILLOP (R38 to R42), by its
constructor. -/
set_option maxRecDepth 20000
namespace Sys2Proof.Laws.Legal

/-- R40: the slot word of a well-formed instruction is legal. -/
def Statement (i : Instr) : Prop := ∀ w, encode i = .slot w → WellFormed i = true → slotLegal w = true

theorem legal_RRR (op : BitVec 8) (f : RRR) : slotLegal (f.pack op) = slotLegalAt op.toNat (f.pack op) := by
  rw [slotLegal, opField_RRR_pack]
theorem legal_RRI (op : BitVec 8) (f : RRI) : slotLegal (f.pack op) = slotLegalAt op.toNat (f.pack op) := by
  rw [slotLegal, opField_RRI_pack]
theorem legal_RI (op : BitVec 8) (f : RI) : slotLegal (f.pack op) = slotLegalAt op.toNat (f.pack op) := by
  rw [slotLegal, opField_RI_pack]
theorem legal_BRF (op : BitVec 8) (f : BRF) : slotLegal (f.pack op) = slotLegalAt op.toNat (f.pack op) := by
  rw [slotLegal, opField_BRF_pack]
theorem legal_MEMF (op : BitVec 8) (f : MEMF) : slotLegal (f.pack op) = slotLegalAt op.toNat (f.pack op) := by
  rw [slotLegal, opField_MEMF_pack]
theorem legal_ENGF (op : BitVec 8) (f : ENGF) : slotLegal (f.pack op) = slotLegalAt op.toNat (f.pack op) := by
  rw [slotLegal, opField_ENGF_pack]

theorem deviceReset : Statement .deviceReset := by
  intro w h; cases h
theorem turnOffer (spindle : Nat) : Statement (.turnOffer spindle) := by
  intro w h; cases h
theorem fetchComplete (ctx : Nat) : Statement (.fetchComplete ctx) := by
  intro w h; cases h
theorem resultLand (ctx index : Nat) : Statement (.resultLand ctx index) := by
  intro w h; cases h
theorem budgetRefill (spindle : Nat) : Statement (.budgetRefill spindle) := by
  intro w h; cases h
theorem serviceDeadline (ctx : Nat) : Statement (.serviceDeadline ctx) := by
  intro w h; cases h
theorem serviceEntry (ctx : Nat) : Statement (.serviceEntry ctx) := by
  intro w h; cases h
theorem homeAnswer (ctx : Nat) : Statement (.homeAnswer ctx) := by
  intro w h; cases h
theorem monitorWake (slice entry : Nat) : Statement (.monitorWake slice entry) := by
  intro w h; cases h
theorem kvWalkAnswer (ctx : Nat) : Statement (.kvWalkAnswer ctx) := by
  intro w h; cases h
theorem leaseGrant (tile line : Nat) : Statement (.leaseGrant tile line) := by
  intro w h; cases h
theorem leaseExpiry (tile line : Nat) : Statement (.leaseExpiry tile line) := by
  intro w h; cases h
theorem writebackStart (tile line : Nat) : Statement (.writebackStart tile line) := by
  intro w h; cases h
theorem writebackAccept (tile line : Nat) : Statement (.writebackAccept tile line) := by
  intro w h; cases h
theorem scAnnounceArrive : Statement .scAnnounceArrive := by
  intro w h; cases h
theorem engineCmdStart (spindle q : Nat) : Statement (.engineCmdStart spindle q) := by
  intro w h; cases h
theorem engineCmdComplete (spindle q : Nat) : Statement (.engineCmdComplete spindle q) := by
  intro w h; cases h
theorem copyDeliver (spindle channel : Nat) : Statement (.copyDeliver spindle channel) := by
  intro w h; cases h
theorem copyComplete (spindle channel : Nat) : Statement (.copyComplete spindle channel) := by
  intro w h; cases h
theorem messageArrive (sender : Nat) : Statement (.messageArrive sender) := by
  intro w h; cases h
theorem amsendAnswer (sender : Nat) : Statement (.amsendAnswer sender) := by
  intro w h; cases h
theorem peerSpindleAnswer (ctx : Nat) : Statement (.peerSpindleAnswer ctx) := by
  intro w h; cases h
theorem chuckAnswer (ctx : Nat) : Statement (.chuckAnswer ctx) := by
  intro w h; cases h
theorem claimGrant (ctx : Nat) : Statement (.claimGrant ctx) := by
  intro w h; cases h
theorem taskTake (ctx : Nat) : Statement (.taskTake ctx) := by
  intro w h; cases h
theorem sleepDeadline (ctx : Nat) : Statement (.sleepDeadline ctx) := by
  intro w h; cases h
theorem futureDeadline (index : Nat) : Statement (.futureDeadline index) := by
  intro w h; cases h
theorem asidSweepDone (part asid : Nat) : Statement (.asidSweepDone part asid) := by
  intro w h; cases h
theorem faceplateSlotWrite (part offset : Nat) (value : Word) : Statement (.faceplateSlotWrite part offset value) := by
  intro w h; cases h
theorem faceplateAccept (part : Nat) : Statement (.faceplateAccept part) := by
  intro w h; cases h
theorem streamASlotWrite (core offset : Nat) (value : Word) : Statement (.streamASlotWrite core offset value) := by
  intro w h; cases h
theorem hsNop (part : Nat) (stream : Stream) : Statement (.hsNop part stream) := by
  intro w h; cases h
theorem hsLaunch (part : Nat) (stream : Stream) : Statement (.hsLaunch part stream) := by
  intro w h; cases h
theorem hsMark (part : Nat) (stream : Stream) : Statement (.hsMark part stream) := by
  intro w h; cases h
theorem hsPublish (part : Nat) (stream : Stream) : Statement (.hsPublish part stream) := by
  intro w h; cases h
theorem launchStart (part : Nat) (stream : Stream) : Statement (.launchStart part stream) := by
  intro w h; cases h
theorem launchEnd (launch : Nat) : Statement (.launchEnd launch) := by
  intro w h; cases h
theorem partitionConfigure (part : Nat) (conf : PartConf) : Statement (.partitionConfigure part conf) := by
  intro w h; cases h
theorem partitionClearDone (part : Nat) : Statement (.partitionClearDone part) := by
  intro w h; cases h
theorem partitionReset (part : Nat) : Statement (.partitionReset part) := by
  intro w h; cases h
theorem partitionRemove (part : Nat) : Statement (.partitionRemove part) := by
  intro w h; cases h
theorem heartbeatMiss (kind : UnitKind) (unit : Nat) : Statement (.heartbeatMiss kind unit) := by
  intro w h; cases h
theorem lossWalkEnd (part : Nat) (kind : UnitKind) (unit : Nat) : Statement (.lossWalkEnd part kind unit) := by
  intro w h; cases h
theorem patrolScrub (block : Nat) : Statement (.patrolScrub block) := by
  intro w h; cases h
theorem etfenLinkDown (port : Nat) (unreachable : List Nat) : Statement (.etfenLinkDown port unreachable) := by
  intro w h; cases h
theorem etfenRouteReturn (device : Nat) : Statement (.etfenRouteReturn device) := by
  intro w h; cases h
theorem etfenRequest (req : RemoteReq) : Statement (.etfenRequest req) := by
  intro w h; cases h
theorem hostLinkLoss : Statement .hostLinkLoss := by
  intro w h; cases h
theorem hostLinkRecover : Statement .hostLinkRecover := by
  intro w h; cases h
theorem hostHoldExpiry (part : Nat) : Statement (.hostHoldExpiry part) := by
  intro w h; cases h
theorem hostAccess (req : HostReq) : Statement (.hostAccess req) := by
  intro w h; cases h
theorem hostWindowWrite (part window : Nat) (base size : Nat) (r w : Bool) : Statement (.hostWindowWrite part window base size r w) := by
  intro w h; cases h
theorem supplySag (die : Nat) : Statement (.supplySag die) := by
  intro w h; cases h
theorem supplyRecover (die : Nat) : Statement (.supplyRecover die) := by
  intro w h; cases h
theorem powerLimitWrite (value : Word) : Statement (.powerLimitWrite value) := by
  intro w h; cases h
theorem powerClockAdjust (mhz : Nat) : Statement (.powerClockAdjust mhz) := by
  intro w h; cases h
theorem llclrWrite (part : Nat) (value : Word) : Statement (.llclrWrite part value) := by
  intro w h; cases h
theorem fmtcWrite (part : Nat) (value : Word) : Statement (.fmtcWrite part value) := by
  intro w h; cases h
theorem registerWrite (target : RegTarget) (value : Word) : Statement (.registerWrite target value) := by
  intro w h; cases h
theorem uecCompletion (endpoint : Nat) (payload : List Byte) : Statement (.uecCompletion endpoint payload) := by
  intro w h; cases h
theorem attestReport (requester : Option Nat) (scope : Nat) (nonce : List Byte) : Statement (.attestReport requester scope nonce) := by
  intro w h; cases h
theorem measExtend (part : Nat) (digest : List Byte) : Statement (.measExtend part digest) := by
  intro w h; cases h
theorem agentAccess (core : Nat) (acc : AgentAcc) : Statement (.agentAccess core acc) := by
  intro w h; cases h
theorem learoHalt (ctx : Nat) : Statement (.learoHalt ctx) := by
  intro w h; cases h
theorem learoResume (ctx : Nat) : Statement (.learoResume ctx) := by
  intro w h; cases h
theorem learoStep (ctx : Nat) : Statement (.learoStep ctx) := by
  intro w h; cases h
theorem learoDbgen (ctx : Nat) (on : Bool) : Statement (.learoDbgen ctx on) := by
  intro w h; cases h
theorem learoFreeze (tile : Nat) : Statement (.learoFreeze tile) := by
  intro w h; cases h
theorem learoThaw (tile : Nat) : Statement (.learoThaw tile) := by
  intro w h; cases h
theorem learoRdq (spindle q : Nat) : Statement (.learoRdq spindle q) := by
  intro w h; cases h
theorem learoRestart (spindle q : Nat) : Statement (.learoRestart spindle q) := by
  intro w h; cases h
theorem learoSkip (spindle q : Nat) : Statement (.learoSkip spindle q) := by
  intro w h; cases h
theorem learoRdctx (ctx : Nat) (sel : Word) : Statement (.learoRdctx ctx sel) := by
  intro w h; cases h
theorem learoWrctx (ctx : Nat) (sel value : Word) : Statement (.learoWrctx ctx sel value) := by
  intro w h; cases h
theorem learoRdstash (tile offset len : Nat) : Statement (.learoRdstash tile offset len) := by
  intro w h; cases h
theorem learoWrstash (tile offset : Nat) (data : List Byte) : Statement (.learoWrstash tile offset data) := by
  intro w h; cases h
theorem learoKill (ctx : Nat) : Statement (.learoKill ctx) := by
  intro w h; cases h
theorem learoMsg (ctx : Nat) (area : Word) : Statement (.learoMsg ctx area) := by
  intro w h; cases h
theorem learoSwap (ctx : Nat) (area : Word) : Statement (.learoSwap ctx area) := by
  intro w h; cases h
theorem spreset (spindle : Nat) : Statement (.spreset spindle) := by
  intro w h; cases h
theorem spretire (spindle : Nat) : Statement (.spretire spindle) := by
  intro w h; cases h
theorem managementMailboxImage (image : Image) : Statement (.managementMailboxImage image) := by
  intro w h; cases h
theorem railCurrentLimit (die : Nat) : Statement (.railCurrentLimit die) := by
  intro w h; cases h
theorem futTake (f : RTy) : Statement (.futTake f) := by
  intro w h; cases h
theorem futDone (f : RTy) : Statement (.futDone f) := by
  intro w h; cases h
theorem futFail (f : RTy) : Statement (.futFail f) := by
  intro w h; cases h
theorem futExt (f : RTy) : Statement (.futExt f) := by
  intro w h; cases h
theorem sqPeek (f : RTy) : Statement (.sqPeek f) := by
  intro w h; cases h
theorem sqCtlCreate (f : RTy) : Statement (.sqCtlCreate f) := by
  intro w h; cases h
theorem sqCtlRetire (f : RTy) : Statement (.sqCtlRetire f) := by
  intro w h; cases h
theorem sqCtlFree (f : RTy) : Statement (.sqCtlFree f) := by
  intro w h; cases h
theorem sqCtlAdpres (f : RTy) : Statement (.sqCtlAdpres f) := by
  intro w h; cases h
theorem sqCtlPush (f : RTy) : Statement (.sqCtlPush f) := by
  intro w h; cases h
theorem sqCtlOutack (f : RTy) : Statement (.sqCtlOutack f) := by
  intro w h; cases h
theorem sqCfgCallTokenRange (f : RTy) : Statement (.sqCfgCallTokenRange f) := by
  intro w h; cases h
theorem sqCfgCto (f : RTy) : Statement (.sqCfgCto f) := by
  intro w h; cases h
theorem sqCfgTimeoutString (f : RTy) : Statement (.sqCfgTimeoutString f) := by
  intro w h; cases h
theorem sqCfgFailureString (f : RTy) : Statement (.sqCfgFailureString f) := by
  intro w h; cases h
theorem sqCfgXmax (f : RTy) : Statement (.sqCfgXmax f) := by
  intro w h; cases h
theorem sqCfgKvrt (f : RTy) : Statement (.sqCfgKvrt f) := by
  intro w h; cases h
theorem sqCfgUecen (f : RTy) : Statement (.sqCfgUecen f) := by
  intro w h; cases h
theorem capProbe (f : RTy) : Statement (.capProbe f) := by
  intro w h; cases h
theorem add (f : RRR) : Statement (.add f) := by
  intro w h hw; cases h
  rw [legal_RRR]; rw [← RRR.unpack_pack 0x00 f] at hw; exact hw
theorem sub (f : RRR) : Statement (.sub f) := by
  intro w h hw; cases h
  rw [legal_RRR]; rw [← RRR.unpack_pack 0x01 f] at hw; exact hw
theorem addi (f : RRI) : Statement (.addi f) := by
  intro w h hw; cases h
  rw [legal_RRI]; rw [← RRI.unpack_pack 0x02 f] at hw; exact hw
theorem mul (f : RRR) : Statement (.mul f) := by
  intro w h hw; cases h
  rw [legal_RRR]; rw [← RRR.unpack_pack 0x03 f] at hw; exact hw
theorem mulhS (f : RRR) : Statement (.mulhS f) := by
  intro w h hw; cases h
  rw [legal_RRR]; rw [← RRR.unpack_pack 0x04 f] at hw; exact hw
theorem mulhZ (f : RRR) : Statement (.mulhZ f) := by
  intro w h hw; cases h
  rw [legal_RRR]; rw [← RRR.unpack_pack 0x05 f] at hw; exact hw
theorem divS (f : RRR) : Statement (.divS f) := by
  intro w h hw; cases h
  rw [legal_RRR]; rw [← RRR.unpack_pack 0x06 f] at hw; exact hw
theorem divZ (f : RRR) : Statement (.divZ f) := by
  intro w h hw; cases h
  rw [legal_RRR]; rw [← RRR.unpack_pack 0x07 f] at hw; exact hw
theorem remS (f : RRR) : Statement (.remS f) := by
  intro w h hw; cases h
  rw [legal_RRR]; rw [← RRR.unpack_pack 0x08 f] at hw; exact hw
theorem remZ (f : RRR) : Statement (.remZ f) := by
  intro w h hw; cases h
  rw [legal_RRR]; rw [← RRR.unpack_pack 0x09 f] at hw; exact hw
theorem addsS (f : RRR) : Statement (.addsS f) := by
  intro w h hw; cases h
  rw [legal_RRR]; rw [← RRR.unpack_pack 0x0A f] at hw; exact hw
theorem addsZ (f : RRR) : Statement (.addsZ f) := by
  intro w h hw; cases h
  rw [legal_RRR]; rw [← RRR.unpack_pack 0x0B f] at hw; exact hw
theorem subsS (f : RRR) : Statement (.subsS f) := by
  intro w h hw; cases h
  rw [legal_RRR]; rw [← RRR.unpack_pack 0x0C f] at hw; exact hw
theorem subsZ (f : RRR) : Statement (.subsZ f) := by
  intro w h hw; cases h
  rw [legal_RRR]; rw [← RRR.unpack_pack 0x0D f] at hw; exact hw
theorem minS (f : RRR) : Statement (.minS f) := by
  intro w h hw; cases h
  rw [legal_RRR]; rw [← RRR.unpack_pack 0x0E f] at hw; exact hw
theorem minZ (f : RRR) : Statement (.minZ f) := by
  intro w h hw; cases h
  rw [legal_RRR]; rw [← RRR.unpack_pack 0x0F f] at hw; exact hw
theorem maxS (f : RRR) : Statement (.maxS f) := by
  intro w h hw; cases h
  rw [legal_RRR]; rw [← RRR.unpack_pack 0x10 f] at hw; exact hw
theorem maxZ (f : RRR) : Statement (.maxZ f) := by
  intro w h hw; cases h
  rw [legal_RRR]; rw [← RRR.unpack_pack 0x11 f] at hw; exact hw
theorem and (f : RRR) : Statement (.and f) := by
  intro w h hw; cases h
  rw [legal_RRR]; rw [← RRR.unpack_pack 0x12 f] at hw; exact hw
theorem or (f : RRR) : Statement (.or f) := by
  intro w h hw; cases h
  rw [legal_RRR]; rw [← RRR.unpack_pack 0x13 f] at hw; exact hw
theorem xor (f : RRR) : Statement (.xor f) := by
  intro w h hw; cases h
  rw [legal_RRR]; rw [← RRR.unpack_pack 0x14 f] at hw; exact hw
theorem andn (f : RRR) : Statement (.andn f) := by
  intro w h hw; cases h
  rw [legal_RRR]; rw [← RRR.unpack_pack 0x15 f] at hw; exact hw
theorem andi (f : RRI) : Statement (.andi f) := by
  intro w h hw; cases h
  rw [legal_RRI]; rw [← RRI.unpack_pack 0x16 f] at hw; exact hw
theorem ori (f : RRI) : Statement (.ori f) := by
  intro w h hw; cases h
  rw [legal_RRI]; rw [← RRI.unpack_pack 0x17 f] at hw; exact hw
theorem xori (f : RRI) : Statement (.xori f) := by
  intro w h hw; cases h
  rw [legal_RRI]; rw [← RRI.unpack_pack 0x18 f] at hw; exact hw
theorem shl (f : RRR) : Statement (.shl f) := by
  intro w h hw; cases h
  rw [legal_RRR]; rw [← RRR.unpack_pack 0x19 f] at hw; exact hw
theorem shrZ (f : RRR) : Statement (.shrZ f) := by
  intro w h hw; cases h
  rw [legal_RRR]; rw [← RRR.unpack_pack 0x1A f] at hw; exact hw
theorem shrS (f : RRR) : Statement (.shrS f) := by
  intro w h hw; cases h
  rw [legal_RRR]; rw [← RRR.unpack_pack 0x1B f] at hw; exact hw
theorem shli (f : RRI) : Statement (.shli f) := by
  intro w h hw; cases h
  rw [legal_RRI]; rw [← RRI.unpack_pack 0x1C f] at hw; exact hw
theorem shriZ (f : RRI) : Statement (.shriZ f) := by
  intro w h hw; cases h
  rw [legal_RRI]; rw [← RRI.unpack_pack 0x1D f] at hw; exact hw
theorem shriS (f : RRI) : Statement (.shriS f) := by
  intro w h hw; cases h
  rw [legal_RRI]; rw [← RRI.unpack_pack 0x1E f] at hw; exact hw
theorem rot (f : RRR) : Statement (.rot f) := by
  intro w h hw; cases h
  rw [legal_RRR]; rw [← RRR.unpack_pack 0x1F f] at hw; exact hw
theorem shadd (f : RRR) : Statement (.shadd f) := by
  intro w h hw; cases h
  rw [legal_RRR]; rw [← RRR.unpack_pack 0x20 f] at hw; exact hw
theorem movi (f : RI) : Statement (.movi f) := by
  intro w h hw; cases h
  rw [legal_RI]; rw [← RI.unpack_pack 0x21 f] at hw; exact hw
theorem movhi (f : RI) : Statement (.movhi f) := by
  intro w h hw; cases h
  rw [legal_RI]; rw [← RI.unpack_pack 0x22 f] at hw; exact hw
theorem bfxS (f : RRI) : Statement (.bfxS f) := by
  intro w h hw; cases h
  rw [legal_RRI]; rw [← RRI.unpack_pack 0x23 f] at hw; exact hw
theorem bfxZ (f : RRI) : Statement (.bfxZ f) := by
  intro w h hw; cases h
  rw [legal_RRI]; rw [← RRI.unpack_pack 0x24 f] at hw; exact hw
theorem bfi (f : RRI) : Statement (.bfi f) := by
  intro w h hw; cases h
  rw [legal_RRI]; rw [← RRI.unpack_pack 0x25 f] at hw; exact hw
theorem clz (f : RRR) : Statement (.clz f) := by
  intro w h hw; cases h
  rw [legal_RRR]; rw [← RRR.unpack_pack 0x26 f] at hw; exact hw
theorem ctz (f : RRR) : Statement (.ctz f) := by
  intro w h hw; cases h
  rw [legal_RRR]; rw [← RRR.unpack_pack 0x27 f] at hw; exact hw
theorem popc (f : RRR) : Statement (.popc f) := by
  intro w h hw; cases h
  rw [legal_RRR]; rw [← RRR.unpack_pack 0x28 f] at hw; exact hw
theorem clmul (f : RRR) : Statement (.clmul f) := by
  intro w h hw; cases h
  rw [legal_RRR]; rw [← RRR.unpack_pack 0x29 f] at hw; exact hw
theorem clmulh (f : RRR) : Statement (.clmulh f) := by
  intro w h hw; cases h
  rw [legal_RRR]; rw [← RRR.unpack_pack 0x2A f] at hw; exact hw
theorem bswap (f : RRR) : Statement (.bswap f) := by
  intro w h hw; cases h
  rw [legal_RRR]; rw [← RRR.unpack_pack 0x2B f] at hw; exact hw
theorem brev (f : RRR) : Statement (.brev f) := by
  intro w h hw; cases h
  rw [legal_RRR]; rw [← RRR.unpack_pack 0x37 f] at hw; exact hw
theorem cmp (f : RRR) : Statement (.cmp f) := by
  intro w h hw; cases h
  rw [legal_RRR]; rw [← RRR.unpack_pack 0x2C f] at hw; exact hw
theorem cmpi (f : RRI) : Statement (.cmpi f) := by
  intro w h hw; cases h
  rw [legal_RRI]; rw [← RRI.unpack_pack 0x2D f] at hw; exact hw
theorem pbool (f : RRR) : Statement (.pbool f) := by
  intro w h hw; cases h
  rw [legal_RRR]; rw [← RRR.unpack_pack 0x2E f] at hw; exact hw
theorem mfc (f : RRI) : Statement (.mfc f) := by
  intro w h hw; cases h
  rw [legal_RRI]; rw [← RRI.unpack_pack 0x2F f] at hw; exact hw
theorem mtc (f : RRI) : Statement (.mtc f) := by
  intro w h hw; cases h
  rw [legal_RRI]; rw [← RRI.unpack_pack 0x30 f] at hw; exact hw
theorem sel (f : RRR) : Statement (.sel f) := by
  intro w h hw; cases h
  rw [legal_RRR]; rw [← RRR.unpack_pack 0x31 f] at hw; exact hw
theorem br (f : BRF) : Statement (.br f) := by
  intro w h hw; cases h
  rw [legal_BRF]; rw [← BRF.unpack_pack 0x32 f] at hw; exact hw
theorem bri (f : RRR) : Statement (.bri f) := by
  intro w h hw; cases h
  rw [legal_RRR]; rw [← RRR.unpack_pack 0x33 f] at hw; exact hw
theorem loop (f : BRF) : Statement (.loop f) := by
  intro w h hw; cases h
  rw [legal_BRF]; rw [← BRF.unpack_pack 0x34 f] at hw; exact hw
theorem loopRot (f : BRF) : Statement (.loopRot f) := by
  intro w h hw; cases h
  rw [legal_BRF]; rw [← BRF.unpack_pack 0x35 f] at hw; exact hw
theorem loopW (f : BRF) : Statement (.loopW f) := by
  intro w h hw; cases h
  rw [legal_BRF]; rw [← BRF.unpack_pack 0x36 f] at hw; exact hw
theorem addw (f : RRR) : Statement (.addw f) := by
  intro w h hw; cases h
  rw [legal_RRR]; rw [← RRR.unpack_pack 0x38 f] at hw; exact hw
theorem subw (f : RRR) : Statement (.subw f) := by
  intro w h hw; cases h
  rw [legal_RRR]; rw [← RRR.unpack_pack 0x39 f] at hw; exact hw
theorem mulw (f : RRR) : Statement (.mulw f) := by
  intro w h hw; cases h
  rw [legal_RRR]; rw [← RRR.unpack_pack 0x3A f] at hw; exact hw
theorem shlw (f : RRR) : Statement (.shlw f) := by
  intro w h hw; cases h
  rw [legal_RRR]; rw [← RRR.unpack_pack 0x3B f] at hw; exact hw
theorem shrwZ (f : RRR) : Statement (.shrwZ f) := by
  intro w h hw; cases h
  rw [legal_RRR]; rw [← RRR.unpack_pack 0x3C f] at hw; exact hw
theorem shrwS (f : RRR) : Statement (.shrwS f) := by
  intro w h hw; cases h
  rw [legal_RRR]; rw [← RRR.unpack_pack 0x3D f] at hw; exact hw
theorem addiw (f : RRI) : Statement (.addiw f) := by
  intro w h hw; cases h
  rw [legal_RRI]; rw [← RRI.unpack_pack 0x3E f] at hw; exact hw
theorem nop (f : RRR) : Statement (.nop f) := by
  intro w h hw; cases h
  rw [legal_RRR]; rw [← RRR.unpack_pack 0x3F f] at hw; exact hw
theorem vaddS32 (f : RRR) : Statement (.vaddS32 f) := by
  intro w h hw; cases h
  rw [legal_RRR]; rw [← RRR.unpack_pack 0x40 f] at hw; exact hw
theorem vaddS16 (f : RRR) : Statement (.vaddS16 f) := by
  intro w h hw; cases h
  rw [legal_RRR]; rw [← RRR.unpack_pack 0x41 f] at hw; exact hw
theorem vaddS8 (f : RRR) : Statement (.vaddS8 f) := by
  intro w h hw; cases h
  rw [legal_RRR]; rw [← RRR.unpack_pack 0x42 f] at hw; exact hw
theorem vsubS32 (f : RRR) : Statement (.vsubS32 f) := by
  intro w h hw; cases h
  rw [legal_RRR]; rw [← RRR.unpack_pack 0x43 f] at hw; exact hw
theorem vsubS16 (f : RRR) : Statement (.vsubS16 f) := by
  intro w h hw; cases h
  rw [legal_RRR]; rw [← RRR.unpack_pack 0x44 f] at hw; exact hw
theorem vsubS8 (f : RRR) : Statement (.vsubS8 f) := by
  intro w h hw; cases h
  rw [legal_RRR]; rw [← RRR.unpack_pack 0x45 f] at hw; exact hw
theorem vmulS32 (f : RRR) : Statement (.vmulS32 f) := by
  intro w h hw; cases h
  rw [legal_RRR]; rw [← RRR.unpack_pack 0x46 f] at hw; exact hw
theorem vmulS16 (f : RRR) : Statement (.vmulS16 f) := by
  intro w h hw; cases h
  rw [legal_RRR]; rw [← RRR.unpack_pack 0x47 f] at hw; exact hw
theorem vminS32 (f : RRR) : Statement (.vminS32 f) := by
  intro w h hw; cases h
  rw [legal_RRR]; rw [← RRR.unpack_pack 0x48 f] at hw; exact hw
theorem vmaxS32 (f : RRR) : Statement (.vmaxS32 f) := by
  intro w h hw; cases h
  rw [legal_RRR]; rw [← RRR.unpack_pack 0x49 f] at hw; exact hw
theorem vminS16 (f : RRR) : Statement (.vminS16 f) := by
  intro w h hw; cases h
  rw [legal_RRR]; rw [← RRR.unpack_pack 0x4A f] at hw; exact hw
theorem vmaxS16 (f : RRR) : Statement (.vmaxS16 f) := by
  intro w h hw; cases h
  rw [legal_RRR]; rw [← RRR.unpack_pack 0x4B f] at hw; exact hw
theorem vand (f : RRR) : Statement (.vand f) := by
  intro w h hw; cases h
  rw [legal_RRR]; rw [← RRR.unpack_pack 0x4C f] at hw; exact hw
theorem vor (f : RRR) : Statement (.vor f) := by
  intro w h hw; cases h
  rw [legal_RRR]; rw [← RRR.unpack_pack 0x4D f] at hw; exact hw
theorem vxor (f : RRR) : Statement (.vxor f) := by
  intro w h hw; cases h
  rw [legal_RRR]; rw [← RRR.unpack_pack 0x4E f] at hw; exact hw
theorem vshlS32 (f : RRR) : Statement (.vshlS32 f) := by
  intro w h hw; cases h
  rw [legal_RRR]; rw [← RRR.unpack_pack 0x4F f] at hw; exact hw
theorem vshrS32 (f : RRR) : Statement (.vshrS32 f) := by
  intro w h hw; cases h
  rw [legal_RRR]; rw [← RRR.unpack_pack 0x50 f] at hw; exact hw
theorem vshlS16 (f : RRR) : Statement (.vshlS16 f) := by
  intro w h hw; cases h
  rw [legal_RRR]; rw [← RRR.unpack_pack 0x51 f] at hw; exact hw
theorem vshrS16 (f : RRR) : Statement (.vshrS16 f) := by
  intro w h hw; cases h
  rw [legal_RRR]; rw [← RRR.unpack_pack 0x52 f] at hw; exact hw
theorem vmacwS16 (f : RRR) : Statement (.vmacwS16 f) := by
  intro w h hw; cases h
  rw [legal_RRR]; rw [← RRR.unpack_pack 0x53 f] at hw; exact hw
theorem vdotS8 (f : RRR) : Statement (.vdotS8 f) := by
  intro w h hw; cases h
  rw [legal_RRR]; rw [← RRR.unpack_pack 0x54 f] at hw; exact hw
theorem vdotS16 (f : RRR) : Statement (.vdotS16 f) := by
  intro w h hw; cases h
  rw [legal_RRR]; rw [← RRR.unpack_pack 0x55 f] at hw; exact hw
theorem vclmul (f : RRR) : Statement (.vclmul f) := by
  intro w h hw; cases h
  rw [legal_RRR]; rw [← RRR.unpack_pack 0x56 f] at hw; exact hw
theorem vclmulh (f : RRR) : Statement (.vclmulh f) := by
  intro w h hw; cases h
  rw [legal_RRR]; rw [← RRR.unpack_pack 0x57 f] at hw; exact hw
theorem vcmpS32 (f : RRR) : Statement (.vcmpS32 f) := by
  intro w h hw; cases h
  rw [legal_RRR]; rw [← RRR.unpack_pack 0x58 f] at hw; exact hw
theorem vcmpS16 (f : RRR) : Statement (.vcmpS16 f) := by
  intro w h hw; cases h
  rw [legal_RRR]; rw [← RRR.unpack_pack 0x59 f] at hw; exact hw
theorem vsel (f : RRR) : Statement (.vsel f) := by
  intro w h hw; cases h
  rw [legal_RRR]; rw [← RRR.unpack_pack 0x5A f] at hw; exact hw
theorem vaddF32 (f : RRR) : Statement (.vaddF32 f) := by
  intro w h hw; cases h
  rw [legal_RRR]; rw [← RRR.unpack_pack 0x5B f] at hw; exact hw
theorem vsubF32 (f : RRR) : Statement (.vsubF32 f) := by
  intro w h hw; cases h
  rw [legal_RRR]; rw [← RRR.unpack_pack 0x5C f] at hw; exact hw
theorem vmulF32 (f : RRR) : Statement (.vmulF32 f) := by
  intro w h hw; cases h
  rw [legal_RRR]; rw [← RRR.unpack_pack 0x5D f] at hw; exact hw
theorem vfmaF32 (f : RRR) : Statement (.vfmaF32 f) := by
  intro w h hw; cases h
  rw [legal_RRR]; rw [← RRR.unpack_pack 0x5E f] at hw; exact hw
theorem vminF32 (f : RRR) : Statement (.vminF32 f) := by
  intro w h hw; cases h
  rw [legal_RRR]; rw [← RRR.unpack_pack 0x5F f] at hw; exact hw
theorem vmaxF32 (f : RRR) : Statement (.vmaxF32 f) := by
  intro w h hw; cases h
  rw [legal_RRR]; rw [← RRR.unpack_pack 0x60 f] at hw; exact hw
theorem vcmpF32 (f : RRR) : Statement (.vcmpF32 f) := by
  intro w h hw; cases h
  rw [legal_RRR]; rw [← RRR.unpack_pack 0x61 f] at hw; exact hw
theorem vaddBf16 (f : RRR) : Statement (.vaddBf16 f) := by
  intro w h hw; cases h
  rw [legal_RRR]; rw [← RRR.unpack_pack 0x62 f] at hw; exact hw
theorem vmulBf16 (f : RRR) : Statement (.vmulBf16 f) := by
  intro w h hw; cases h
  rw [legal_RRR]; rw [← RRR.unpack_pack 0x63 f] at hw; exact hw
theorem vfmaBf16 (f : RRR) : Statement (.vfmaBf16 f) := by
  intro w h hw; cases h
  rw [legal_RRR]; rw [← RRR.unpack_pack 0x64 f] at hw; exact hw
theorem vaddF16 (f : RRR) : Statement (.vaddF16 f) := by
  intro w h hw; cases h
  rw [legal_RRR]; rw [← RRR.unpack_pack 0x65 f] at hw; exact hw
theorem vmulF16 (f : RRR) : Statement (.vmulF16 f) := by
  intro w h hw; cases h
  rw [legal_RRR]; rw [← RRR.unpack_pack 0x66 f] at hw; exact hw
theorem vfmaF16 (f : RRR) : Statement (.vfmaF16 f) := by
  intro w h hw; cases h
  rw [legal_RRR]; rw [← RRR.unpack_pack 0x67 f] at hw; exact hw
theorem vcvtF32 (f : RRR) : Statement (.vcvtF32 f) := by
  intro w h hw; cases h
  rw [legal_RRR]; rw [← RRR.unpack_pack 0x68 f] at hw; exact hw
theorem vcvtBf16 (f : RRR) : Statement (.vcvtBf16 f) := by
  intro w h hw; cases h
  rw [legal_RRR]; rw [← RRR.unpack_pack 0x69 f] at hw; exact hw
theorem vcvtF16 (f : RRR) : Statement (.vcvtF16 f) := by
  intro w h hw; cases h
  rw [legal_RRR]; rw [← RRR.unpack_pack 0x6A f] at hw; exact hw
theorem vcvtF8e4 (f : RRR) : Statement (.vcvtF8e4 f) := by
  intro w h hw; cases h
  rw [legal_RRR]; rw [← RRR.unpack_pack 0x6B f] at hw; exact hw
theorem vcvtF8e5 (f : RRR) : Statement (.vcvtF8e5 f) := by
  intro w h hw; cases h
  rw [legal_RRR]; rw [← RRR.unpack_pack 0x6C f] at hw; exact hw
theorem vcvtS32 (f : RRR) : Statement (.vcvtS32 f) := by
  intro w h hw; cases h
  rw [legal_RRR]; rw [← RRR.unpack_pack 0x6D f] at hw; exact hw
theorem vcvtS16 (f : RRR) : Statement (.vcvtS16 f) := by
  intro w h hw; cases h
  rw [legal_RRR]; rw [← RRR.unpack_pack 0x6E f] at hw; exact hw
theorem vcvtS8 (f : RRR) : Statement (.vcvtS8 f) := by
  intro w h hw; cases h
  rw [legal_RRR]; rw [← RRR.unpack_pack 0x6F f] at hw; exact hw
theorem vexp2 (f : RRR) : Statement (.vexp2 f) := by
  intro w h hw; cases h
  rw [legal_RRR]; rw [← RRR.unpack_pack 0x70 f] at hw; exact hw
theorem vlog2 (f : RRR) : Statement (.vlog2 f) := by
  intro w h hw; cases h
  rw [legal_RRR]; rw [← RRR.unpack_pack 0x71 f] at hw; exact hw
theorem vrcp (f : RRR) : Statement (.vrcp f) := by
  intro w h hw; cases h
  rw [legal_RRR]; rw [← RRR.unpack_pack 0x72 f] at hw; exact hw
theorem vrsqrt (f : RRR) : Statement (.vrsqrt f) := by
  intro w h hw; cases h
  rw [legal_RRR]; rw [← RRR.unpack_pack 0x73 f] at hw; exact hw
theorem vtanh (f : RRR) : Statement (.vtanh f) := by
  intro w h hw; cases h
  rw [legal_RRR]; rw [← RRR.unpack_pack 0x74 f] at hw; exact hw
theorem vexp (f : RRR) : Statement (.vexp f) := by
  intro w h hw; cases h
  rw [legal_RRR]; rw [← RRR.unpack_pack 0x75 f] at hw; exact hw
theorem vlog (f : RRR) : Statement (.vlog f) := by
  intro w h hw; cases h
  rw [legal_RRR]; rw [← RRR.unpack_pack 0x76 f] at hw; exact hw
theorem vredF32 (f : RRR) : Statement (.vredF32 f) := by
  intro w h hw; cases h
  rw [legal_RRR]; rw [← RRR.unpack_pack 0x77 f] at hw; exact hw
theorem vredS32 (f : RRR) : Statement (.vredS32 f) := by
  intro w h hw; cases h
  rw [legal_RRR]; rw [← RRR.unpack_pack 0x78 f] at hw; exact hw
theorem vscanF32 (f : RRR) : Statement (.vscanF32 f) := by
  intro w h hw; cases h
  rw [legal_RRR]; rw [← RRR.unpack_pack 0x79 f] at hw; exact hw
theorem vscanS32 (f : RRR) : Statement (.vscanS32 f) := by
  intro w h hw; cases h
  rw [legal_RRR]; rw [← RRR.unpack_pack 0x7A f] at hw; exact hw
theorem vperm (f : RRR) : Statement (.vperm f) := by
  intro w h hw; cases h
  rw [legal_RRR]; rw [← RRR.unpack_pack 0x7B f] at hw; exact hw
theorem vsplat (f : RRI) : Statement (.vsplat f) := by
  intro w h hw; cases h
  rw [legal_RRI]; rw [← RRI.unpack_pack 0x7C f] at hw; exact hw
theorem vslide (f : RRI) : Statement (.vslide f) := by
  intro w h hw; cases h
  rw [legal_RRI]; rw [← RRI.unpack_pack 0x7D f] at hw; exact hw
theorem vzip (f : RRR) : Statement (.vzip f) := by
  intro w h hw; cases h
  have hm : ∀ m : BitVec 8, mdIn m 0xF7 = true → bit (m.toNat % 16) 3 = false := by decide
  have h2 := hw; simp only [WellFormed, RRR.ok, Bool.and_eq_true] at h2
  have hk : bit f.opm 3 = false := hm _ h2.1.2
  rw [legal_RRR]
  change (if bit (RRR.unpack (f.pack 0x7E)).opm 3 = true then _ else _) = true
  rw [RRR.unpack_pack, hk]; exact hw
theorem vpack (f : RRR) : Statement (.vpack f) := by
  intro w h hw; cases h
  have hm : ∀ n : Nat, n < 16 → 8 ≤ n → bit n 3 = true := by decide
  have h2 := hw; simp only [WellFormed, Bool.and_eq_true, decide_eq_true_eq] at h2
  have hk : bit f.opm 3 = true := hm _ (Nat.mod_lt _ (by decide)) h2.2.2
  rw [legal_RRR]
  change (if bit (RRR.unpack (f.pack 0x7E)).opm 3 = true then _ else _) = true
  rw [RRR.unpack_pack, hk]; exact hw
theorem vext (f : RRI) : Statement (.vext f) := by
  intro w h hw; cases h
  rw [legal_RRI]; rw [← RRI.unpack_pack 0x7F f] at hw; exact hw
theorem mmF8e4 (f : ENGF) : Statement (.mmF8e4 f) := by
  intro w h hw; cases h
  rw [legal_ENGF]; rw [← ENGF.unpack_pack 0x80 f] at hw; exact hw
theorem mmF8e5 (f : ENGF) : Statement (.mmF8e5 f) := by
  intro w h hw; cases h
  rw [legal_ENGF]; rw [← ENGF.unpack_pack 0x81 f] at hw; exact hw
theorem mmF6e3 (f : ENGF) : Statement (.mmF6e3 f) := by
  intro w h hw; cases h
  rw [legal_ENGF]; rw [← ENGF.unpack_pack 0x82 f] at hw; exact hw
theorem mmF6e2 (f : ENGF) : Statement (.mmF6e2 f) := by
  intro w h hw; cases h
  rw [legal_ENGF]; rw [← ENGF.unpack_pack 0x83 f] at hw; exact hw
theorem mmF4 (f : ENGF) : Statement (.mmF4 f) := by
  intro w h hw; cases h
  rw [legal_ENGF]; rw [← ENGF.unpack_pack 0x84 f] at hw; exact hw
theorem mmBf16 (f : ENGF) : Statement (.mmBf16 f) := by
  intro w h hw; cases h
  rw [legal_ENGF]; rw [← ENGF.unpack_pack 0x85 f] at hw; exact hw
theorem mmF16 (f : ENGF) : Statement (.mmF16 f) := by
  intro w h hw; cases h
  rw [legal_ENGF]; rw [← ENGF.unpack_pack 0x86 f] at hw; exact hw
theorem mmS8 (f : ENGF) : Statement (.mmS8 f) := by
  intro w h hw; cases h
  rw [legal_ENGF]; rw [← ENGF.unpack_pack 0x87 f] at hw; exact hw
theorem mmS4 (f : ENGF) : Statement (.mmS4 f) := by
  intro w h hw; cases h
  rw [legal_ENGF]; rw [← ENGF.unpack_pack 0x88 f] at hw; exact hw
theorem mmMx (f : ENGF) : Statement (.mmMx f) := by
  intro w h hw; cases h
  rw [legal_ENGF]; rw [← ENGF.unpack_pack 0x89 f] at hw; exact hw
theorem mmGrp (f : ENGF) : Statement (.mmGrp f) := by
  intro w h hw; cases h
  rw [legal_ENGF]; rw [← ENGF.unpack_pack 0x8A f] at hw; exact hw
theorem mmPriv (f : ENGF) : Statement (.mmPriv f) := by
  intro w h hw; cases h
  rw [legal_ENGF]; rw [← ENGF.unpack_pack 0x8B f] at hw; exact hw
theorem elLd (f : ENGF) : Statement (.elLd f) := by
  intro w h hw; cases h
  rw [legal_ENGF]; rw [← ENGF.unpack_pack 0x8C f] at hw; exact hw
theorem rgCfg (f : RRR) : Statement (.rgCfg f) := by
  intro w h hw; cases h
  rw [legal_RRR]; rw [← RRR.unpack_pack 0x8D f] at hw; exact hw
theorem rgAdv (f : ENGF) : Statement (.rgAdv f) := by
  intro w h hw; cases h
  rw [legal_ENGF]; rw [← ENGF.unpack_pack 0x8E f] at hw; exact hw
theorem accZero (f : ENGF) : Statement (.accZero f) := by
  intro w h hw; cases h
  rw [legal_ENGF]; rw [← ENGF.unpack_pack 0x8F f] at hw; exact hw
theorem accSt (f : ENGF) : Statement (.accSt f) := by
  intro w h hw; cases h
  rw [legal_ENGF]; rw [← ENGF.unpack_pack 0x90 f] at hw; exact hw
theorem accLd (f : ENGF) : Statement (.accLd f) := by
  intro w h hw; cases h
  rw [legal_ENGF]; rw [← ENGF.unpack_pack 0x91 f] at hw; exact hw
theorem accMv (f : ENGF) : Statement (.accMv f) := by
  intro w h hw; cases h
  rw [legal_ENGF]; rw [← ENGF.unpack_pack 0x92 f] at hw; exact hw
theorem cvRun (f : ENGF) : Statement (.cvRun f) := by
  intro w h hw; cases h
  rw [legal_ENGF]; rw [← ENGF.unpack_pack 0x93 f] at hw; exact hw
theorem cvCfg (f : RRR) : Statement (.cvCfg f) := by
  intro w h hw; cases h
  rw [legal_RRR]; rw [← RRR.unpack_pack 0x94 f] at hw; exact hw
theorem saLd (f : RRR) : Statement (.saLd f) := by
  intro w h hw; cases h
  rw [legal_RRR]; rw [← RRR.unpack_pack 0x95 f] at hw; exact hw
theorem saMmBf16 (f : RRR) : Statement (.saMmBf16 f) := by
  intro w h hw; cases h
  rw [legal_RRR]; rw [← RRR.unpack_pack 0x96 f] at hw; exact hw
theorem saMmF8 (f : RRR) : Statement (.saMmF8 f) := by
  intro w h hw; cases h
  rw [legal_RRR]; rw [← RRR.unpack_pack 0x97 f] at hw; exact hw
theorem saSt (f : RRR) : Statement (.saSt f) := by
  intro w h hw; cases h
  rw [legal_RRR]; rw [← RRR.unpack_pack 0x98 f] at hw; exact hw
theorem saZero (f : RRR) : Statement (.saZero f) := by
  intro w h hw; cases h
  rw [legal_RRR]; rw [← RRR.unpack_pack 0x99 f] at hw; exact hw
theorem saMv (f : RRR) : Statement (.saMv f) := by
  intro w h hw; cases h
  rw [legal_RRR]; rw [← RRR.unpack_pack 0x9A f] at hw; exact hw
theorem attnInit (f : RRR) : Statement (.attnInit f) := by
  intro w h hw; cases h
  rw [legal_RRR]; rw [← RRR.unpack_pack 0x9B f] at hw; exact hw
theorem attnQk (f : RRR) : Statement (.attnQk f) := by
  intro w h hw; cases h
  rw [legal_RRR]; rw [← RRR.unpack_pack 0x9C f] at hw; exact hw
theorem attnSmx (f : RRR) : Statement (.attnSmx f) := by
  intro w h hw; cases h
  rw [legal_RRR]; rw [← RRR.unpack_pack 0x9D f] at hw; exact hw
theorem attnPv (f : RRR) : Statement (.attnPv f) := by
  intro w h hw; cases h
  rw [legal_RRR]; rw [← RRR.unpack_pack 0x9E f] at hw; exact hw
theorem grpIdx (f : ENGF) : Statement (.grpIdx f) := by
  intro w h hw; cases h
  rw [legal_ENGF]; rw [← ENGF.unpack_pack 0x9F f] at hw; exact hw
theorem ldS8 (f : MEMF) : Statement (.ldS8 f) := by
  intro w h hw; cases h
  rw [legal_MEMF]; rw [← MEMF.unpack_pack 0xA0 f] at hw; exact hw
theorem ldZ8 (f : MEMF) : Statement (.ldZ8 f) := by
  intro w h hw; cases h
  rw [legal_MEMF]; rw [← MEMF.unpack_pack 0xA1 f] at hw; exact hw
theorem ldS16 (f : MEMF) : Statement (.ldS16 f) := by
  intro w h hw; cases h
  rw [legal_MEMF]; rw [← MEMF.unpack_pack 0xA2 f] at hw; exact hw
theorem ldZ16 (f : MEMF) : Statement (.ldZ16 f) := by
  intro w h hw; cases h
  rw [legal_MEMF]; rw [← MEMF.unpack_pack 0xA3 f] at hw; exact hw
theorem ldS32 (f : MEMF) : Statement (.ldS32 f) := by
  intro w h hw; cases h
  rw [legal_MEMF]; rw [← MEMF.unpack_pack 0xA4 f] at hw; exact hw
theorem ldZ32 (f : MEMF) : Statement (.ldZ32 f) := by
  intro w h hw; cases h
  rw [legal_MEMF]; rw [← MEMF.unpack_pack 0xA5 f] at hw; exact hw
theorem ldS64 (f : MEMF) : Statement (.ldS64 f) := by
  intro w h hw; cases h
  rw [legal_MEMF]; rw [← MEMF.unpack_pack 0xA6 f] at hw; exact hw
theorem stS8 (f : MEMF) : Statement (.stS8 f) := by
  intro w h hw; cases h
  rw [legal_MEMF]; rw [← MEMF.unpack_pack 0xA7 f] at hw; exact hw
theorem stS16 (f : MEMF) : Statement (.stS16 f) := by
  intro w h hw; cases h
  rw [legal_MEMF]; rw [← MEMF.unpack_pack 0xA8 f] at hw; exact hw
theorem stS32 (f : MEMF) : Statement (.stS32 f) := by
  intro w h hw; cases h
  rw [legal_MEMF]; rw [← MEMF.unpack_pack 0xA9 f] at hw; exact hw
theorem stS64 (f : MEMF) : Statement (.stS64 f) := by
  intro w h hw; cases h
  rw [legal_MEMF]; rw [← MEMF.unpack_pack 0xAA f] at hw; exact hw
theorem vldS32 (f : MEMF) : Statement (.vldS32 f) := by
  intro w h hw; cases h
  rw [legal_MEMF]; rw [← MEMF.unpack_pack 0xAB f] at hw; exact hw
theorem vstS32 (f : MEMF) : Statement (.vstS32 f) := by
  intro w h hw; cases h
  rw [legal_MEMF]; rw [← MEMF.unpack_pack 0xAC f] at hw; exact hw
theorem vldS16 (f : MEMF) : Statement (.vldS16 f) := by
  intro w h hw; cases h
  rw [legal_MEMF]; rw [← MEMF.unpack_pack 0xAD f] at hw; exact hw
theorem vstS16 (f : MEMF) : Statement (.vstS16 f) := by
  intro w h hw; cases h
  rw [legal_MEMF]; rw [← MEMF.unpack_pack 0xAE f] at hw; exact hw
theorem smMap (f : RRR) : Statement (.smMap f) := by
  intro w h hw; cases h
  rw [legal_RRR]; rw [← RRR.unpack_pack 0xAF f] at hw; exact hw
theorem smUnmap (f : RRR) : Statement (.smUnmap f) := by
  intro w h hw; cases h
  rw [legal_RRR]; rw [← RRR.unpack_pack 0xB0 f] at hw; exact hw
theorem smPin (f : RRR) : Statement (.smPin f) := by
  intro w h hw; cases h
  rw [legal_RRR]; rw [← RRR.unpack_pack 0xB1 f] at hw; exact hw
theorem smUnpin (f : RRR) : Statement (.smUnpin f) := by
  intro w h hw; cases h
  rw [legal_RRR]; rw [← RRR.unpack_pack 0xB2 f] at hw; exact hw
theorem smFlush (f : RRR) : Statement (.smFlush f) := by
  intro w h hw; cases h
  rw [legal_RRR]; rw [← RRR.unpack_pack 0xCF f] at hw; exact hw
theorem cpGet (f : ENGF) : Statement (.cpGet f) := by
  intro w h hw; cases h
  rw [legal_ENGF]; rw [← ENGF.unpack_pack 0xB3 f] at hw; exact hw
theorem cpPut (f : ENGF) : Statement (.cpPut f) := by
  intro w h hw; cases h
  rw [legal_ENGF]; rw [← ENGF.unpack_pack 0xB4 f] at hw; exact hw
theorem cpRput (f : ENGF) : Statement (.cpRput f) := by
  intro w h hw; cases h
  rw [legal_ENGF]; rw [← ENGF.unpack_pack 0xB5 f] at hw; exact hw
theorem cpGth (f : ENGF) : Statement (.cpGth f) := by
  intro w h hw; cases h
  rw [legal_ENGF]; rw [← ENGF.unpack_pack 0xB6 f] at hw; exact hw
theorem barInit (f : RRR) : Statement (.barInit f) := by
  intro w h hw; cases h
  rw [legal_RRR]; rw [← RRR.unpack_pack 0xB7 f] at hw; exact hw
theorem barArr (f : RRR) : Statement (.barArr f) := by
  intro w h hw; cases h
  rw [legal_RRR]; rw [← RRR.unpack_pack 0xB8 f] at hw; exact hw
theorem barWait (f : RRR) : Statement (.barWait f) := by
  intro w h hw; cases h
  rw [legal_RRR]; rw [← RRR.unpack_pack 0xB9 f] at hw; exact hw
theorem barTest (f : RRR) : Statement (.barTest f) := by
  intro w h hw; cases h
  rw [legal_RRR]; rw [← RRR.unpack_pack 0xCE f] at hw; exact hw
theorem amoAdd (f : MEMF) : Statement (.amoAdd f) := by
  intro w h hw; cases h
  rw [legal_MEMF]; rw [← MEMF.unpack_pack 0xBA f] at hw; exact hw
theorem amoAnd (f : MEMF) : Statement (.amoAnd f) := by
  intro w h hw; cases h
  rw [legal_MEMF]; rw [← MEMF.unpack_pack 0xBB f] at hw; exact hw
theorem amoOr (f : MEMF) : Statement (.amoOr f) := by
  intro w h hw; cases h
  rw [legal_MEMF]; rw [← MEMF.unpack_pack 0xBC f] at hw; exact hw
theorem amoXor (f : MEMF) : Statement (.amoXor f) := by
  intro w h hw; cases h
  rw [legal_MEMF]; rw [← MEMF.unpack_pack 0xBD f] at hw; exact hw
theorem amoMinS (f : MEMF) : Statement (.amoMinS f) := by
  intro w h hw; cases h
  rw [legal_MEMF]; rw [← MEMF.unpack_pack 0xBE f] at hw; exact hw
theorem amoMinZ (f : MEMF) : Statement (.amoMinZ f) := by
  intro w h hw; cases h
  rw [legal_MEMF]; rw [← MEMF.unpack_pack 0xBF f] at hw; exact hw
theorem amoMaxS (f : MEMF) : Statement (.amoMaxS f) := by
  intro w h hw; cases h
  rw [legal_MEMF]; rw [← MEMF.unpack_pack 0xC0 f] at hw; exact hw
theorem amoMaxZ (f : MEMF) : Statement (.amoMaxZ f) := by
  intro w h hw; cases h
  rw [legal_MEMF]; rw [← MEMF.unpack_pack 0xC1 f] at hw; exact hw
theorem amoSwap (f : MEMF) : Statement (.amoSwap f) := by
  intro w h hw; cases h
  rw [legal_MEMF]; rw [← MEMF.unpack_pack 0xC2 f] at hw; exact hw
theorem amoCas (f : MEMF) : Statement (.amoCas f) := by
  intro w h hw; cases h
  rw [legal_MEMF]; rw [← MEMF.unpack_pack 0xC3 f] at hw; exact hw
theorem amoAddF32 (f : MEMF) : Statement (.amoAddF32 f) := by
  intro w h hw; cases h
  rw [legal_MEMF]; rw [← MEMF.unpack_pack 0xC4 f] at hw; exact hw
theorem fence (f : MEMF) : Statement (.fence f) := by
  intro w h hw; cases h
  rw [legal_MEMF]; rw [← MEMF.unpack_pack 0xC5 f] at hw; exact hw
theorem cpub (f : MEMF) : Statement (.cpub f) := by
  intro w h hw; cases h
  rw [legal_MEMF]; rw [← MEMF.unpack_pack 0xC6 f] at hw; exact hw
theorem ifence (f : RRR) : Statement (.ifence f) := by
  intro w h hw; cases h
  rw [legal_RRR]; rw [← RRR.unpack_pack 0xC7 f] at hw; exact hw
theorem tokWait (f : ENGF) : Statement (.tokWait f) := by
  intro w h hw; cases h
  rw [legal_ENGF]; rw [← ENGF.unpack_pack 0xC8 f] at hw; exact hw
theorem tokTest (f : RRR) : Statement (.tokTest f) := by
  intro w h hw; cases h
  rw [legal_RRR]; rw [← RRR.unpack_pack 0xC9 f] at hw; exact hw
theorem kvLdk (f : RRR) : Statement (.kvLdk f) := by
  intro w h hw; cases h
  rw [legal_RRR]; rw [← RRR.unpack_pack 0xCA f] at hw; exact hw
theorem kvLdv (f : RRR) : Statement (.kvLdv f) := by
  intro w h hw; cases h
  rw [legal_RRR]; rw [← RRR.unpack_pack 0xCB f] at hw; exact hw
theorem kvApp (f : RRR) : Statement (.kvApp f) := by
  intro w h hw; cases h
  rw [legal_RRR]; rw [← RRR.unpack_pack 0xCC f] at hw; exact hw
theorem pref (f : MEMF) : Statement (.pref f) := by
  intro w h hw; cases h
  rw [legal_MEMF]; rw [← MEMF.unpack_pack 0xCD f] at hw; exact hw
theorem hstart (f : RRR) : Statement (.hstart f) := by
  intro w h hw; cases h
  rw [legal_RRR]; rw [← RRR.unpack_pack 0xD0 f] at hw; exact hw
theorem hreap (f : RRR) : Statement (.hreap f) := by
  intro w h hw; cases h
  rw [legal_RRR]; rw [← RRR.unpack_pack 0xD1 f] at hw; exact hw
theorem hstat (f : RRR) : Statement (.hstat f) := by
  intro w h hw; cases h
  rw [legal_RRR]; rw [← RRR.unpack_pack 0xD2 f] at hw; exact hw
theorem vclaim (f : RRI) : Statement (.vclaim f) := by
  intro w h hw; cases h
  rw [legal_RRI]; rw [← RRI.unpack_pack 0xD3 f] at hw; exact hw
theorem vrel (f : RRR) : Statement (.vrel f) := by
  intro w h hw; cases h
  rw [legal_RRR]; rw [← RRR.unpack_pack 0xD4 f] at hw; exact hw
theorem vgrow (f : RRI) : Statement (.vgrow f) := by
  intro w h hw; cases h
  rw [legal_RRI]; rw [← RRI.unpack_pack 0xD5 f] at hw; exact hw
theorem vstat (f : RRR) : Statement (.vstat f) := by
  intro w h hw; cases h
  rw [legal_RRR]; rw [← RRR.unpack_pack 0xEF f] at hw; exact hw
theorem fork (f : RRR) : Statement (.fork f) := by
  intro w h hw; cases h
  rw [legal_RRR]; rw [← RRR.unpack_pack 0xD6 f] at hw; exact hw
theorem forkR (f : RRR) : Statement (.forkR f) := by
  intro w h hw; cases h
  rw [legal_RRR]; rw [← RRR.unpack_pack 0xD7 f] at hw; exact hw
theorem join (f : RRR) : Statement (.join f) := by
  intro w h hw; cases h
  rw [legal_RRR]; rw [← RRR.unpack_pack 0xD8 f] at hw; exact hw
theorem jtest (f : RRR) : Statement (.jtest f) := by
  intro w h hw; cases h
  rw [legal_RRR]; rw [← RRR.unpack_pack 0xD9 f] at hw; exact hw
theorem tend (f : RRR) : Statement (.tend f) := by
  intro w h hw; cases h
  have hk : f.md.toNat % 4 = 1 := by
    have h2 := hw; simp only [WellFormed, Bool.and_eq_true, decide_eq_true_eq] at h2
    rw [h2.2]; rfl
  rw [legal_RRR]
  change (match (RRR.unpack (f.pack 0xEE)).md.toNat % 4 with | 0 => _ | 1 => _ | 2 => _ | _ => _) = true
  rw [RRR.unpack_pack, hk]; exact hw
theorem hend (f : RRR) : Statement (.hend f) := by
  intro w h hw; cases h
  have hk : f.md.toNat % 4 = 2 := by
    have h2 := hw; simp only [WellFormed, Bool.and_eq_true, decide_eq_true_eq] at h2
    rw [h2.2]; rfl
  rw [legal_RRR]
  change (match (RRR.unpack (f.pack 0xEE)).md.toNat % 4 with | 0 => _ | 1 => _ | 2 => _ | _ => _) = true
  rw [RRR.unpack_pack, hk]; exact hw
theorem sleep (f : RRR) : Statement (.sleep f) := by
  intro w h hw; cases h
  have hk : f.md.toNat % 4 = 0 := by
    have hm : ∀ m : BitVec 8, mdIn m 0xF0 = true → m.toNat % 4 = 0 := by decide
    have h2 := hw; simp only [WellFormed, RRR.ok, Bool.and_eq_true] at h2
    exact hm _ h2.2
  rw [legal_RRR]
  change (match (RRR.unpack (f.pack 0xEE)).md.toNat % 4 with | 0 => _ | 1 => _ | 2 => _ | _ => _) = true
  rw [RRR.unpack_pack, hk]; exact hw
theorem chbind (f : RRR) : Statement (.chbind f) := by
  intro w h hw; cases h
  rw [legal_RRR]; rw [← RRR.unpack_pack 0xDA f] at hw; exact hw
theorem chunbind (f : RRR) : Statement (.chunbind f) := by
  intro w h hw; cases h
  rw [legal_RRR]; rw [← RRR.unpack_pack 0xDB f] at hw; exact hw
theorem chstat (f : RRR) : Statement (.chstat f) := by
  intro w h hw; cases h
  rw [legal_RRR]; rw [← RRR.unpack_pack 0xDC f] at hw; exact hw
theorem amsend (f : RRR) : Statement (.amsend f) := by
  intro w h hw; cases h
  rw [legal_RRR]; rw [← RRR.unpack_pack 0xDD f] at hw; exact hw
theorem amsendW (f : RRR) : Statement (.amsendW f) := by
  intro w h hw; cases h
  rw [legal_RRR]; rw [← RRR.unpack_pack 0xDE f] at hw; exact hw
theorem amrecv (f : RRI) : Statement (.amrecv f) := by
  intro w h hw; cases h
  rw [legal_RRI]; rw [← RRI.unpack_pack 0xDF f] at hw; exact hw
theorem amret (f : RRR) : Statement (.amret f) := by
  intro w h hw; cases h
  rw [legal_RRR]; rw [← RRR.unpack_pack 0xE0 f] at hw; exact hw
theorem mbstat (f : RRI) : Statement (.mbstat f) := by
  intro w h hw; cases h
  rw [legal_RRI]; rw [← RRI.unpack_pack 0xE1 f] at hw; exact hw
theorem fcall (f : RRR) : Statement (.fcall f) := by
  intro w h hw; cases h
  rw [legal_RRR]; rw [← RRR.unpack_pack 0xE2 f] at hw; exact hw
theorem fwait (f : RRR) : Statement (.fwait f) := by
  intro w h hw; cases h
  rw [legal_RRR]; rw [← RRR.unpack_pack 0xE3 f] at hw; exact hw
theorem fpoll (f : RRR) : Statement (.fpoll f) := by
  intro w h hw; cases h
  rw [legal_RRR]; rw [← RRR.unpack_pack 0xE4 f] at hw; exact hw
theorem fdrop (f : RRR) : Statement (.fdrop f) := by
  intro w h hw; cases h
  rw [legal_RRR]; rw [← RRR.unpack_pack 0xE5 f] at hw; exact hw
theorem sqBatch (f : RRR) : Statement (.sqBatch f) := by
  intro w h hw; cases h
  rw [legal_RRR]; rw [← RRR.unpack_pack 0xE6 f] at hw; exact hw
theorem sqEmit (f : RRR) : Statement (.sqEmit f) := by
  intro w h hw; cases h
  rw [legal_RRR]; rw [← RRR.unpack_pack 0xE7 f] at hw; exact hw
theorem sqPfq (f : RRR) : Statement (.sqPfq f) := by
  intro w h hw; cases h
  rw [legal_RRR]; rw [← RRR.unpack_pack 0xE8 f] at hw; exact hw
theorem adpClaim (f : RRR) : Statement (.adpClaim f) := by
  intro w h hw; cases h
  rw [legal_RRR]; rw [← RRR.unpack_pack 0xE9 f] at hw; exact hw
theorem adpBind (f : RRR) : Statement (.adpBind f) := by
  intro w h hw; cases h
  rw [legal_RRR]; rw [← RRR.unpack_pack 0xEA f] at hw; exact hw
theorem launch (f : RRR) : Statement (.launch f) := by
  intro w h hw; cases h
  rw [legal_RRR]; rw [← RRR.unpack_pack 0xEB f] at hw; exact hw
theorem sdisp (f : RRI) : Statement (.sdisp f) := by
  intro w h hw; cases h
  rw [legal_RRI]; rw [← RRI.unpack_pack 0xEC f] at hw; exact hw
theorem sdispTbl (f : RRR) : Statement (.sdispTbl f) := by
  intro w h hw; cases h
  rw [legal_RRR]; rw [← RRR.unpack_pack 0xED f] at hw; exact hw
theorem trap (f : RI) : Statement (.trap f) := by
  intro w h hw; cases h
  rw [legal_RI]; rw [← RI.unpack_pack 0xF0 f] at hw; exact hw
theorem rfs (f : RRR) : Statement (.rfs f) := by
  intro w h hw; cases h
  rw [legal_RRR]; rw [← RRR.unpack_pack 0xF1 f] at hw; exact hw
theorem csave (f : RRR) : Statement (.csave f) := by
  intro w h hw; cases h
  rw [legal_RRR]; rw [← RRR.unpack_pack 0xF2 f] at hw; exact hw
theorem cload (f : RRR) : Statement (.cload f) := by
  intro w h hw; cases h
  rw [legal_RRR]; rw [← RRR.unpack_pack 0xF3 f] at hw; exact hw
theorem ctxkill (f : RRR) : Statement (.ctxkill f) := by
  intro w h hw; cases h
  rw [legal_RRR]; rw [← RRR.unpack_pack 0xF4 f] at hw; exact hw
theorem pctlQrec (f : RRI) : Statement (.pctlQrec f) := by
  intro w h hw; cases h
  have hk : f.imm.toNat % 256 = 0 := by
    have h2 := hw; simp only [WellFormed, Bool.and_eq_true, decide_eq_true_eq] at h2
    exact h2.2.1
  rw [legal_RRI]
  change (match (RRI.unpack (f.pack 0xF5)).imm.toNat % 256 with | 0 => _ | 1 => _ | 2 => _ | 3 => _ | _ => _) = true
  have e : WellFormed (.pctlQrec f) = (Cls.x.has f.d && Cls.xs.has f.a && decide (f.imm.toNat % 256 = 0 ∧ f.imm.toNat < 11 * 256)) := rfl
  rw [e, hk] at hw; rw [RRI.unpack_pack, hk]; exact hw
theorem pctlQskip (f : RRI) : Statement (.pctlQskip f) := by
  intro w h hw; cases h
  have hk : f.imm.toNat % 256 = 1 := by
    have h2 := hw; simp only [WellFormed, Bool.and_eq_true, decide_eq_true_eq] at h2
    exact h2.2.1
  rw [legal_RRI]
  change (match (RRI.unpack (f.pack 0xF5)).imm.toNat % 256 with | 0 => _ | 1 => _ | 2 => _ | 3 => _ | _ => _) = true
  have e : WellFormed (.pctlQskip f) = (Cls.x.has f.d && Cls.xs.has f.a && decide (f.imm.toNat % 256 = 1 ∧ f.imm.toNat < 11 * 256)) := rfl
  rw [e, hk] at hw; rw [RRI.unpack_pack, hk]; exact hw
theorem pctlPost (f : RRI) : Statement (.pctlPost f) := by
  intro w h hw; cases h
  have hk : f.imm.toNat % 256 = 2 := by
    have h2 := hw; simp only [WellFormed, Bool.and_eq_true, decide_eq_true_eq] at h2
    rw [h2.2]; rfl
  rw [legal_RRI]
  change (match (RRI.unpack (f.pack 0xF5)).imm.toNat % 256 with | 0 => _ | 1 => _ | 2 => _ | 3 => _ | _ => _) = true
  rw [RRI.unpack_pack, hk]; exact hw
theorem pctlPark (f : RRI) : Statement (.pctlPark f) := by
  intro w h hw; cases h
  have hk : f.imm.toNat % 256 = 3 := by
    have h2 := hw; simp only [WellFormed, Bool.and_eq_true, decide_eq_true_eq] at h2
    rw [h2.2]; rfl
  rw [legal_RRI]
  change (match (RRI.unpack (f.pack 0xF5)).imm.toNat % 256 with | 0 => _ | 1 => _ | 2 => _ | 3 => _ | _ => _) = true
  rw [RRI.unpack_pack, hk]; exact hw
theorem xinvPage (f : RRR) : Statement (.xinvPage f) := by
  intro w h hw; cases h
  have hk : f.md.toNat % 4 = 0 := by
    have h2 := hw; simp only [WellFormed] at h2
    have h3 := h2; simp only [RRR.ok, mdIn, Bool.and_eq_true, beq_iff_eq] at h3
    have hm : ∀ m : BitVec 8, m &&& ~~~(0x00 : BitVec 8) = 0 → m.toNat % 4 = 0 := by decide
    exact hm _ h3.2
  rw [legal_RRR]
  change (match (RRR.unpack (f.pack 0xF6)).md.toNat % 4 with | 0 => _ | 1 => _ | 2 => _ | _ => _) = true
  rw [RRR.unpack_pack, hk]; exact hw
theorem xinvAsid (f : RRR) : Statement (.xinvAsid f) := by
  intro w h hw; cases h
  have hk : f.md.toNat % 4 = 1 := by
    have h2 := hw; simp only [WellFormed, Bool.and_eq_true, decide_eq_true_eq] at h2
    rw [h2.2]; rfl
  rw [legal_RRR]
  change (match (RRR.unpack (f.pack 0xF6)).md.toNat % 4 with | 0 => _ | 1 => _ | 2 => _ | _ => _) = true
  rw [RRR.unpack_pack, hk]; exact hw
theorem xinvQ (f : RRR) : Statement (.xinvQ f) := by
  intro w h hw; cases h
  have hk : f.md.toNat % 4 = 2 := by
    have h2 := hw; simp only [WellFormed, Bool.and_eq_true, decide_eq_true_eq] at h2
    rcases h2.2 with h3 | h3 <;> rw [h3] <;> rfl
  rw [legal_RRR]
  change (match (RRR.unpack (f.pack 0xF6)).md.toNat % 4 with | 0 => _ | 1 => _ | 2 => _ | _ => _) = true
  rw [RRR.unpack_pack, hk]; exact hw
theorem kvinv (f : RRR) : Statement (.kvinv f) := by
  intro w h hw; cases h
  rw [legal_RRR]; rw [← RRR.unpack_pack 0xF7 f] at hw; exact hw
theorem asidSet (f : RRR) : Statement (.asidSet f) := by
  intro w h hw; cases h
  rw [legal_RRR]; rw [← RRR.unpack_pack 0xF8 f] at hw; exact hw
theorem asidRet (f : RRR) : Statement (.asidRet f) := by
  intro w h hw; cases h
  rw [legal_RRR]; rw [← RRR.unpack_pack 0xF9 f] at hw; exact hw
theorem dset (f : RRR) : Statement (.dset f) := by
  intro w h hw; cases h
  rw [legal_RRR]; rw [← RRR.unpack_pack 0xFA f] at hw; exact hw
theorem bkpt (f : RI) : Statement (.bkpt f) := by
  intro w h hw; cases h
  rw [legal_RI]; rw [← RI.unpack_pack 0xFB f] at hw; exact hw
theorem wpset (f : RRR) : Statement (.wpset f) := by
  intro w h hw; cases h
  rw [legal_RRR]; rw [← RRR.unpack_pack 0xFC f] at hw; exact hw
theorem dbgRd (f : RRR) : Statement (.dbgRd f) := by
  intro w h hw; cases h
  rw [legal_RRR]; rw [← RRR.unpack_pack 0xFD f] at hw; exact hw
theorem dbgWr (f : RRR) : Statement (.dbgWr f) := by
  intro w h hw; cases h
  rw [legal_RRR]; rw [← RRR.unpack_pack 0xFE f] at hw; exact hw
theorem ill (f : RRR) : Statement (.ill f) := by
  intro w h hw; cases h
  rw [legal_RRR]; rw [← RRR.unpack_pack 0xFF f] at hw; exact hw

/-- R40: the slot word of any well-formed instruction is legal. -/
theorem legal (i : Instr) : Statement i :=
  match i with
  | .deviceReset => deviceReset
  | .turnOffer spindle => turnOffer spindle
  | .fetchComplete ctx => fetchComplete ctx
  | .resultLand ctx index => resultLand ctx index
  | .budgetRefill spindle => budgetRefill spindle
  | .serviceDeadline ctx => serviceDeadline ctx
  | .serviceEntry ctx => serviceEntry ctx
  | .homeAnswer ctx => homeAnswer ctx
  | .monitorWake slice entry => monitorWake slice entry
  | .kvWalkAnswer ctx => kvWalkAnswer ctx
  | .leaseGrant tile line => leaseGrant tile line
  | .leaseExpiry tile line => leaseExpiry tile line
  | .writebackStart tile line => writebackStart tile line
  | .writebackAccept tile line => writebackAccept tile line
  | .scAnnounceArrive => scAnnounceArrive
  | .engineCmdStart spindle q => engineCmdStart spindle q
  | .engineCmdComplete spindle q => engineCmdComplete spindle q
  | .copyDeliver spindle channel => copyDeliver spindle channel
  | .copyComplete spindle channel => copyComplete spindle channel
  | .messageArrive sender => messageArrive sender
  | .amsendAnswer sender => amsendAnswer sender
  | .peerSpindleAnswer ctx => peerSpindleAnswer ctx
  | .chuckAnswer ctx => chuckAnswer ctx
  | .claimGrant ctx => claimGrant ctx
  | .taskTake ctx => taskTake ctx
  | .sleepDeadline ctx => sleepDeadline ctx
  | .futureDeadline index => futureDeadline index
  | .asidSweepDone part asid => asidSweepDone part asid
  | .faceplateSlotWrite part offset value => faceplateSlotWrite part offset value
  | .faceplateAccept part => faceplateAccept part
  | .streamASlotWrite core offset value => streamASlotWrite core offset value
  | .hsNop part stream => hsNop part stream
  | .hsLaunch part stream => hsLaunch part stream
  | .hsMark part stream => hsMark part stream
  | .hsPublish part stream => hsPublish part stream
  | .launchStart part stream => launchStart part stream
  | .launchEnd launch => launchEnd launch
  | .partitionConfigure part conf => partitionConfigure part conf
  | .partitionClearDone part => partitionClearDone part
  | .partitionReset part => partitionReset part
  | .partitionRemove part => partitionRemove part
  | .heartbeatMiss kind unit => heartbeatMiss kind unit
  | .lossWalkEnd part kind unit => lossWalkEnd part kind unit
  | .patrolScrub block => patrolScrub block
  | .etfenLinkDown port unreachable => etfenLinkDown port unreachable
  | .etfenRouteReturn device => etfenRouteReturn device
  | .etfenRequest req => etfenRequest req
  | .hostLinkLoss => hostLinkLoss
  | .hostLinkRecover => hostLinkRecover
  | .hostHoldExpiry part => hostHoldExpiry part
  | .hostAccess req => hostAccess req
  | .hostWindowWrite part window base size r w => hostWindowWrite part window base size r w
  | .supplySag die => supplySag die
  | .supplyRecover die => supplyRecover die
  | .powerLimitWrite value => powerLimitWrite value
  | .powerClockAdjust mhz => powerClockAdjust mhz
  | .llclrWrite part value => llclrWrite part value
  | .fmtcWrite part value => fmtcWrite part value
  | .registerWrite target value => registerWrite target value
  | .uecCompletion endpoint payload => uecCompletion endpoint payload
  | .attestReport requester scope nonce => attestReport requester scope nonce
  | .measExtend part digest => measExtend part digest
  | .agentAccess core acc => agentAccess core acc
  | .learoHalt ctx => learoHalt ctx
  | .learoResume ctx => learoResume ctx
  | .learoStep ctx => learoStep ctx
  | .learoDbgen ctx on => learoDbgen ctx on
  | .learoFreeze tile => learoFreeze tile
  | .learoThaw tile => learoThaw tile
  | .learoRdq spindle q => learoRdq spindle q
  | .learoRestart spindle q => learoRestart spindle q
  | .learoSkip spindle q => learoSkip spindle q
  | .learoRdctx ctx sel => learoRdctx ctx sel
  | .learoWrctx ctx sel value => learoWrctx ctx sel value
  | .learoRdstash tile offset len => learoRdstash tile offset len
  | .learoWrstash tile offset data => learoWrstash tile offset data
  | .learoKill ctx => learoKill ctx
  | .learoMsg ctx area => learoMsg ctx area
  | .learoSwap ctx area => learoSwap ctx area
  | .spreset spindle => spreset spindle
  | .spretire spindle => spretire spindle
  | .managementMailboxImage image => managementMailboxImage image
  | .railCurrentLimit die => railCurrentLimit die
  | .futTake f => futTake f
  | .futDone f => futDone f
  | .futFail f => futFail f
  | .futExt f => futExt f
  | .sqPeek f => sqPeek f
  | .sqCtlCreate f => sqCtlCreate f
  | .sqCtlRetire f => sqCtlRetire f
  | .sqCtlFree f => sqCtlFree f
  | .sqCtlAdpres f => sqCtlAdpres f
  | .sqCtlPush f => sqCtlPush f
  | .sqCtlOutack f => sqCtlOutack f
  | .sqCfgCallTokenRange f => sqCfgCallTokenRange f
  | .sqCfgCto f => sqCfgCto f
  | .sqCfgTimeoutString f => sqCfgTimeoutString f
  | .sqCfgFailureString f => sqCfgFailureString f
  | .sqCfgXmax f => sqCfgXmax f
  | .sqCfgKvrt f => sqCfgKvrt f
  | .sqCfgUecen f => sqCfgUecen f
  | .capProbe f => capProbe f
  | .add f => add f
  | .sub f => sub f
  | .addi f => addi f
  | .mul f => mul f
  | .mulhS f => mulhS f
  | .mulhZ f => mulhZ f
  | .divS f => divS f
  | .divZ f => divZ f
  | .remS f => remS f
  | .remZ f => remZ f
  | .addsS f => addsS f
  | .addsZ f => addsZ f
  | .subsS f => subsS f
  | .subsZ f => subsZ f
  | .minS f => minS f
  | .minZ f => minZ f
  | .maxS f => maxS f
  | .maxZ f => maxZ f
  | .and f => and f
  | .or f => or f
  | .xor f => xor f
  | .andn f => andn f
  | .andi f => andi f
  | .ori f => ori f
  | .xori f => xori f
  | .shl f => shl f
  | .shrZ f => shrZ f
  | .shrS f => shrS f
  | .shli f => shli f
  | .shriZ f => shriZ f
  | .shriS f => shriS f
  | .rot f => rot f
  | .shadd f => shadd f
  | .movi f => movi f
  | .movhi f => movhi f
  | .bfxS f => bfxS f
  | .bfxZ f => bfxZ f
  | .bfi f => bfi f
  | .clz f => clz f
  | .ctz f => ctz f
  | .popc f => popc f
  | .clmul f => clmul f
  | .clmulh f => clmulh f
  | .bswap f => bswap f
  | .brev f => brev f
  | .cmp f => cmp f
  | .cmpi f => cmpi f
  | .pbool f => pbool f
  | .mfc f => mfc f
  | .mtc f => mtc f
  | .sel f => sel f
  | .br f => br f
  | .bri f => bri f
  | .loop f => loop f
  | .loopRot f => loopRot f
  | .loopW f => loopW f
  | .addw f => addw f
  | .subw f => subw f
  | .mulw f => mulw f
  | .shlw f => shlw f
  | .shrwZ f => shrwZ f
  | .shrwS f => shrwS f
  | .addiw f => addiw f
  | .nop f => nop f
  | .vaddS32 f => vaddS32 f
  | .vaddS16 f => vaddS16 f
  | .vaddS8 f => vaddS8 f
  | .vsubS32 f => vsubS32 f
  | .vsubS16 f => vsubS16 f
  | .vsubS8 f => vsubS8 f
  | .vmulS32 f => vmulS32 f
  | .vmulS16 f => vmulS16 f
  | .vminS32 f => vminS32 f
  | .vmaxS32 f => vmaxS32 f
  | .vminS16 f => vminS16 f
  | .vmaxS16 f => vmaxS16 f
  | .vand f => vand f
  | .vor f => vor f
  | .vxor f => vxor f
  | .vshlS32 f => vshlS32 f
  | .vshrS32 f => vshrS32 f
  | .vshlS16 f => vshlS16 f
  | .vshrS16 f => vshrS16 f
  | .vmacwS16 f => vmacwS16 f
  | .vdotS8 f => vdotS8 f
  | .vdotS16 f => vdotS16 f
  | .vclmul f => vclmul f
  | .vclmulh f => vclmulh f
  | .vcmpS32 f => vcmpS32 f
  | .vcmpS16 f => vcmpS16 f
  | .vsel f => vsel f
  | .vaddF32 f => vaddF32 f
  | .vsubF32 f => vsubF32 f
  | .vmulF32 f => vmulF32 f
  | .vfmaF32 f => vfmaF32 f
  | .vminF32 f => vminF32 f
  | .vmaxF32 f => vmaxF32 f
  | .vcmpF32 f => vcmpF32 f
  | .vaddBf16 f => vaddBf16 f
  | .vmulBf16 f => vmulBf16 f
  | .vfmaBf16 f => vfmaBf16 f
  | .vaddF16 f => vaddF16 f
  | .vmulF16 f => vmulF16 f
  | .vfmaF16 f => vfmaF16 f
  | .vcvtF32 f => vcvtF32 f
  | .vcvtBf16 f => vcvtBf16 f
  | .vcvtF16 f => vcvtF16 f
  | .vcvtF8e4 f => vcvtF8e4 f
  | .vcvtF8e5 f => vcvtF8e5 f
  | .vcvtS32 f => vcvtS32 f
  | .vcvtS16 f => vcvtS16 f
  | .vcvtS8 f => vcvtS8 f
  | .vexp2 f => vexp2 f
  | .vlog2 f => vlog2 f
  | .vrcp f => vrcp f
  | .vrsqrt f => vrsqrt f
  | .vtanh f => vtanh f
  | .vexp f => vexp f
  | .vlog f => vlog f
  | .vredF32 f => vredF32 f
  | .vredS32 f => vredS32 f
  | .vscanF32 f => vscanF32 f
  | .vscanS32 f => vscanS32 f
  | .vperm f => vperm f
  | .vsplat f => vsplat f
  | .vslide f => vslide f
  | .vzip f => vzip f
  | .vpack f => vpack f
  | .vext f => vext f
  | .mmF8e4 f => mmF8e4 f
  | .mmF8e5 f => mmF8e5 f
  | .mmF6e3 f => mmF6e3 f
  | .mmF6e2 f => mmF6e2 f
  | .mmF4 f => mmF4 f
  | .mmBf16 f => mmBf16 f
  | .mmF16 f => mmF16 f
  | .mmS8 f => mmS8 f
  | .mmS4 f => mmS4 f
  | .mmMx f => mmMx f
  | .mmGrp f => mmGrp f
  | .mmPriv f => mmPriv f
  | .elLd f => elLd f
  | .rgCfg f => rgCfg f
  | .rgAdv f => rgAdv f
  | .accZero f => accZero f
  | .accSt f => accSt f
  | .accLd f => accLd f
  | .accMv f => accMv f
  | .cvRun f => cvRun f
  | .cvCfg f => cvCfg f
  | .saLd f => saLd f
  | .saMmBf16 f => saMmBf16 f
  | .saMmF8 f => saMmF8 f
  | .saSt f => saSt f
  | .saZero f => saZero f
  | .saMv f => saMv f
  | .attnInit f => attnInit f
  | .attnQk f => attnQk f
  | .attnSmx f => attnSmx f
  | .attnPv f => attnPv f
  | .grpIdx f => grpIdx f
  | .ldS8 f => ldS8 f
  | .ldZ8 f => ldZ8 f
  | .ldS16 f => ldS16 f
  | .ldZ16 f => ldZ16 f
  | .ldS32 f => ldS32 f
  | .ldZ32 f => ldZ32 f
  | .ldS64 f => ldS64 f
  | .stS8 f => stS8 f
  | .stS16 f => stS16 f
  | .stS32 f => stS32 f
  | .stS64 f => stS64 f
  | .vldS32 f => vldS32 f
  | .vstS32 f => vstS32 f
  | .vldS16 f => vldS16 f
  | .vstS16 f => vstS16 f
  | .smMap f => smMap f
  | .smUnmap f => smUnmap f
  | .smPin f => smPin f
  | .smUnpin f => smUnpin f
  | .smFlush f => smFlush f
  | .cpGet f => cpGet f
  | .cpPut f => cpPut f
  | .cpRput f => cpRput f
  | .cpGth f => cpGth f
  | .barInit f => barInit f
  | .barArr f => barArr f
  | .barWait f => barWait f
  | .barTest f => barTest f
  | .amoAdd f => amoAdd f
  | .amoAnd f => amoAnd f
  | .amoOr f => amoOr f
  | .amoXor f => amoXor f
  | .amoMinS f => amoMinS f
  | .amoMinZ f => amoMinZ f
  | .amoMaxS f => amoMaxS f
  | .amoMaxZ f => amoMaxZ f
  | .amoSwap f => amoSwap f
  | .amoCas f => amoCas f
  | .amoAddF32 f => amoAddF32 f
  | .fence f => fence f
  | .cpub f => cpub f
  | .ifence f => ifence f
  | .tokWait f => tokWait f
  | .tokTest f => tokTest f
  | .kvLdk f => kvLdk f
  | .kvLdv f => kvLdv f
  | .kvApp f => kvApp f
  | .pref f => pref f
  | .hstart f => hstart f
  | .hreap f => hreap f
  | .hstat f => hstat f
  | .vclaim f => vclaim f
  | .vrel f => vrel f
  | .vgrow f => vgrow f
  | .vstat f => vstat f
  | .fork f => fork f
  | .forkR f => forkR f
  | .join f => join f
  | .jtest f => jtest f
  | .tend f => tend f
  | .hend f => hend f
  | .sleep f => sleep f
  | .chbind f => chbind f
  | .chunbind f => chunbind f
  | .chstat f => chstat f
  | .amsend f => amsend f
  | .amsendW f => amsendW f
  | .amrecv f => amrecv f
  | .amret f => amret f
  | .mbstat f => mbstat f
  | .fcall f => fcall f
  | .fwait f => fwait f
  | .fpoll f => fpoll f
  | .fdrop f => fdrop f
  | .sqBatch f => sqBatch f
  | .sqEmit f => sqEmit f
  | .sqPfq f => sqPfq f
  | .adpClaim f => adpClaim f
  | .adpBind f => adpBind f
  | .launch f => launch f
  | .sdisp f => sdisp f
  | .sdispTbl f => sdispTbl f
  | .trap f => trap f
  | .rfs f => rfs f
  | .csave f => csave f
  | .cload f => cload f
  | .ctxkill f => ctxkill f
  | .pctlQrec f => pctlQrec f
  | .pctlQskip f => pctlQskip f
  | .pctlPost f => pctlPost f
  | .pctlPark f => pctlPark f
  | .xinvPage f => xinvPage f
  | .xinvAsid f => xinvAsid f
  | .xinvQ f => xinvQ f
  | .kvinv f => kvinv f
  | .asidSet f => asidSet f
  | .asidRet f => asidRet f
  | .dset f => dset f
  | .bkpt f => bkpt f
  | .wpset f => wpset f
  | .dbgRd f => dbgRd f
  | .dbgWr f => dbgWr f
  | .ill f => ill f

end Sys2Proof.Laws.Legal
end

