-- ==== Sys2Proof/Tests/Slice0.lean ====
section
/-! SUPPORT. Small tests of the model: the checks of well-formedness, words written out from the encoding tables, one step on a
small state; the expected values are worked by hand from the rules cited. -/
set_option maxRecDepth 40000
namespace Sys2Proof.Tests
open Sys2Proof Sys2Proof.Machine Sys2Proof.Safety

/-! ## Small states -/

/-- A control context in rotation: x1 = 5, x2 = 3, a claim of 8 lanes. -/
def ctx0 : Ctx :=
  { phase := .live, x := [(1, 5), (2, 3)], ebud := word (96 * 65536 + 96), claim := some ⟨.held, 8, 64, 8, false, 0, 0⟩ }
/-- The machine with context 0 in rotation, in a partition of its own. -/
def live : State := { ctxs := [(0, ctx0)], parts := [(0, soloPart)] }
/-- The same with context 0 changed. -/
def liveWith (f : Ctx → Ctx) : State := { ctxs := [(0, f ctx0)], parts := [(0, soloPart)] }
/-- The context in service. -/
def inService : State := liveWith fun c => { c with phase := .inService, svc := true }

theorem live_ready : Ready live := ⟨by decide, rfl⟩
theorem inService_ready : Ready inService := ⟨by decide, rfl⟩

/-- The registers of context 0 after an instruction that goes on. -/
def after (i : Instr) (s : State) : Option Ctx :=
  match exec i s with
  | .next t => some (ctxOf t 0)
  | _ => none

theorem test_reset_memory : smWf (0 : Byte) State.reset.mem = true := by decide

/-! ## Well-formedness: one term that each check refuses -/

-- R38, R100: field c is reserved in add
theorem test_wf_reserved_field : WellFormed (.add ⟨0, false, 3, 1, 2, 1, 0, 0⟩) = false := by decide
-- R38: the type field of an operation that names no second type
theorem test_wf_type : WellFormed (.add ⟨0, false, 3, 1, 2, 0, 1, 0⟩) = false := by decide
-- R113: a mod bit that the entry does not define
theorem test_wf_mod : WellFormed (.vminS32 ⟨0, false, 1, 2, 3, 0, 0, 1⟩) = false := by decide
-- R42: a q latch as a destination
theorem test_wf_class : WellFormed (.add ⟨0, false, 112, 1, 2, 0, 0, 0⟩) = false := by decide
-- R119: OPM 2 of vadd
theorem test_wf_form : WellFormed (.vaddS32 ⟨0, false, 1, 2, 3, 0, 0, 2⟩) = false := by decide
-- R105: lsb + len above 64
theorem test_wf_bitfield : WellFormed (.bfxZ ⟨0, false, 1, 2, 0x3F01⟩) = false := by decide
-- R49: control register 0x006 is not listed
theorem test_wf_creg : WellFormed (.mfc ⟨0, false, 1, 0, 6⟩) = false := by decide
-- R283: a floor that is no multiple of 8
theorem test_wf_claim : WellFormed (.vclaim ⟨0, false, 1, 0, 0x4004⟩) = false := by decide
-- R181: `.sc` at `.dom`
theorem test_wf_order : WellFormed (.ldS64 ⟨0, false, 1, 2, 0, 4, 4, 0⟩) = false := by decide
-- R235: SZ above 1
theorem test_wf_amo : WellFormed (.amoAdd ⟨0, false, 1, 2, 0, 1, 0, 2⟩) = false := by decide
-- R238: a fence of order `.rlx`
theorem test_wf_fence : WellFormed (.fence ⟨0, false, 0, 0, 0, 3, 0, 0⟩) = false := by decide
-- R239: a cpub with an order
theorem test_wf_cpub : WellFormed (.cpub ⟨0, false, 1, 2, 0, 1, 1, 0⟩) = false := by decide
-- R223: a pref with a scope
theorem test_wf_pref : WellFormed (.pref ⟨0, false, 0, 2, 0, 1, 0, 0⟩) = false := by decide
-- R241: a tok.wait that produces a token
theorem test_wf_tokwait : WellFormed (.tokWait ⟨0, false, 1, 2, 0, 0, 0, 0, 0, 0⟩) = false := by decide
-- R157: mm.grp with mod 3
theorem test_wf_mmgrp : WellFormed (.mmGrp ⟨0, false, 0, 0, 0, 0, 128, 1, 130, 3⟩) = false := by decide
-- R161: sa.mv to a vector from a vector
theorem test_wf_samv : WellFormed (.saMv ⟨0, false, 1, 2, 0, 0, 0, 0⟩) = false := by decide
-- R121: vand of a mask and a vector
theorem test_wf_vlog : WellFormed (.vand ⟨0, false, 384, 384, 1, 0, 0, 0⟩) = false := by decide
-- R130: a conversion whose source type is its destination type
theorem test_wf_vcvt : WellFormed (.vcvtF32 ⟨0, false, 1, 2, 0, 0, 0x10, 0⟩) = false := by decide
-- R149: a ring of a type that is not listed
theorem test_wf_ring : WellFormed (.rgCfg ⟨0, false, 120, 1, 2, 0, 0x10, 0⟩) = false := by decide
-- R158: a conversion descriptor of destination type 0x02
theorem test_wf_cvcfg : WellFormed (.cvCfg ⟨0, false, 0, 1, 2, 0, 2, 0⟩) = false := by decide
-- R281: a `hend` with another form's mod
theorem test_wf_hend : WellFormed (.hend ⟨0, false, 0, 0, 0, 0, 0, 1⟩) = false := by decide
-- R387: a queue above 10
theorem test_wf_pctl : WellFormed (.pctlQrec ⟨0, false, 1, 2, 0xB00⟩) = false := by decide
-- R42: an odd register where an even pair is named
theorem test_wf_pair : WellFormed (.dbgRd ⟨0, false, 3, 1, 0, 0, 0, 0⟩) = false := by decide

/-! ## Decoding: words written out from R36, R37 and the opcode map -/

-- R107: cmp.lt.s p3, x1, x2
theorem test_decode_cmp : decodeSlot 0x2C00860101000002 = .ok (.cmp ⟨0, false, 67, 1, 2, 0, 0, 2⟩) := rfl
-- R104: the example word of movi x5
theorem test_decode_movi : decodeSlot 0x21000B6789ABCDEF = .ok (.movi ⟨0, false, 5, 0x16789ABCDEF⟩) := rfl
-- R104: the example word of movhi x5, 0x91A2
theorem test_decode_movhi : decodeSlot 0x22000A00000091A2 = .ok (.movhi ⟨0, false, 5, 0x91A2⟩) := rfl
-- R274: the example word of br x31, back
theorem test_decode_br : decodeSlot 0x32003FFFFFFFFFFA = .ok (.br ⟨0, false, 31, 0x1FFFFFFFFFA⟩) := rfl
-- R119: vadds.z8 v1, v2, v3 under m1, zeroing: mod 0x33
theorem test_decode_vadd : decodeSlot 0x4200020201800033 = .ok (.vaddS8 ⟨0, false, 1, 2, 3, 0, 0, 0x33⟩) := rfl
-- R128: vfma.f32 v1, v2, v3, v4
theorem test_decode_vfma : decodeSlot 0x5E00020201810007 = .ok (.vfmaF32 ⟨0, false, 1, 2, 3, 4, 0, 7⟩) := rfl
-- R130: vcvt to BF16 from FP32, the high half
theorem test_decode_vcvt : decodeSlot 0x6900020200005000 = .ok (.vcvtBf16 ⟨0, false, 1, 2, 0, 1, 0x10, 0⟩) := rfl
-- R134: vred.f32 v1, v2
theorem test_decode_vred : decodeSlot 0x7700020200000000 = .ok (.vredF32 ⟨0, false, 1, 2, 0, 0, 0, 0⟩) := rfl
-- R139: vpack.z16 v1, v2, v3: mod 0x09
theorem test_decode_vpack : decodeSlot 0x7E00020201800009 = .ok (.vpack ⟨0, false, 1, 2, 3, 0, 0, 9⟩) := rfl
-- R139: vzip.z16 v1, v2, v3: mod 0x01
theorem test_decode_vzip : decodeSlot 0x7E00020201800001 = .ok (.vzip ⟨0, false, 1, 2, 3, 0, 0, 1⟩) := rfl
-- R212: st.s8.rel.tile x7, [x8 - 1]
theorem test_decode_st : decodeSlot 0xA7000E08FFFFFF28 = .ok (.stS8 ⟨0, false, 7, 8, 0xFFFFFF, 1, 2, 0⟩) := rfl
-- R235: amo.cas on an even pair, 32 bits
theorem test_decode_amo : decodeSlot 0xC30010090000006D = .ok (.amoCas ⟨0, false, 8, 9, 0, 3, 3, 1⟩) := rfl
-- R238: fence.dev.ar
theorem test_decode_fence : decodeSlot 0xC50000000000006C = .ok (.fence ⟨0, false, 0, 0, 0, 3, 3, 0⟩) := rfl
-- R241: tok.wait k1, k2
theorem test_decode_tokWait : decodeSlot 0xC800011000000000 = .ok (.tokWait ⟨0, false, 0, 1, 2, 0, 0, 0, 0, 0⟩) := rfl
-- R224: cp.get on channel 2, producing k5
theorem test_decode_cpGet : decodeSlot 0xB300A00000202022 = .ok (.cpGet ⟨0, false, 5, 0, 0, 0, 1, 2, 4, 2⟩) := rfl
-- R215: sm.map x1, x2, x3
theorem test_decode_smMap : decodeSlot 0xAF00020201800000 = .ok (.smMap ⟨0, false, 1, 2, 3, 0, 0, 0⟩) := rfl
-- R233: bar.arr x1, x2, x3
theorem test_decode_bar : decodeSlot 0xB800020201800000 = .ok (.barArr ⟨0, false, 1, 2, 3, 0, 0, 0⟩) := rfl
-- R243: kv.ldk.f32
theorem test_decode_kv : decodeSlot 0xCA0000010100D000 = .ok (.kvLdk ⟨0, false, 0, 1, 2, 3, 0x10, 0⟩) := rfl
-- R278: hstart x1, x2, x3, x4
theorem test_decode_hstart : decodeSlot 0xD000020201810000 = .ok (.hstart ⟨0, false, 1, 2, 3, 4, 0, 0⟩) := rfl
-- R283: vclaim x1, 8, 64
theorem test_decode_vclaim : decodeSlot 0xD300020000004008 = .ok (.vclaim ⟨0, false, 1, 0, 0x4008⟩) := rfl
-- R287: fork x1, x2, x3, x4
theorem test_decode_fork : decodeSlot 0xD600020201810000 = .ok (.fork ⟨0, false, 1, 2, 3, 4, 0, 0⟩) := rfl
-- R281: sleep x1, mask 0xF: mod 0xF0
theorem test_decode_sleep : decodeSlot 0xEE000001000000F0 = .ok (.sleep ⟨0, false, 0, 1, 0, 0, 0, 0xF0⟩) := rfl
-- R281: tend x1, x2, x3: mod 1
theorem test_decode_tend : decodeSlot 0xEE0000010100C001 = .ok (.tend ⟨0, false, 0, 1, 2, 3, 0, 1⟩) := rfl
-- R281: hend: mod 2
theorem test_decode_hend : decodeSlot 0xEE00000000000002 = .ok (.hend ⟨0, false, 0, 0, 0, 0, 0, 2⟩) := rfl
-- R294: chbind x1, ch15, x2
theorem test_decode_chbind : decodeSlot 0xDA0002020000000F = .ok (.chbind ⟨0, false, 1, 2, 0, 0, 0, 15⟩) := rfl
-- R299: amrecv of mailbox mask 1
theorem test_decode_amrecv : decodeSlot 0xDF00000000000001 = .ok (.amrecv ⟨0, false, 0, 0, 1⟩) := rfl
-- R303: fcall x1, x2, x3
theorem test_decode_fcall : decodeSlot 0xE200020201800000 = .ok (.fcall ⟨0, false, 1, 2, 3, 0, 0, 0⟩) := rfl
-- R309: sq.batch x1, x2, x3, x4
theorem test_decode_sqBatch : decodeSlot 0xE600020201810000 = .ok (.sqBatch ⟨0, false, 1, 2, 3, 4, 0, 0⟩) := rfl
-- R315: launch x1, x2
theorem test_decode_launch : decodeSlot 0xEB00020200000000 = .ok (.launch ⟨0, false, 1, 2, 0, 0, 0, 0⟩) := rfl
-- R387: pctl.park x1, x2
theorem test_decode_pctl : decodeSlot 0xF500020200000003 = .ok (.pctlPark ⟨0, false, 1, 2, 3⟩) := rfl
-- R340: xinv.q, mod 6
theorem test_decode_xinvQ : decodeSlot 0xF600040302000006 = .ok (.xinvQ ⟨0, false, 2, 3, 4, 0, 0, 6⟩) := rfl
-- R399: dset x1, x2, x3
theorem test_decode_dset : decodeSlot 0xFA00020201800000 = .ok (.dset ⟨0, false, 1, 2, 3, 0, 0, 0⟩) := rfl
-- R66: ill
theorem test_decode_ill : decodeSlot 0xFF00000000000000 = .ok (.ill ⟨0, false, 0, 0, 0, 0, 0, 0⟩) := rfl

/-! ## One step on a small state -/

-- R102: −7 divided by 2 is −3, toward zero
theorem test_div : (after (.divS ⟨0, false, 3, 1, 2, 0, 0, 0⟩) (liveWith fun c => { c with x := [(1, -7), (2, 2)] })).map
    (fun c => getX c 3) = some (-3) := by decide
-- R101: the sum of two large numbers is clamped, and SATF.IS is set
theorem test_adds : (after (.addsS ⟨0, false, 3, 1, 1, 0, 0, 0⟩) (liveWith fun c => { c with x := [(1, 0x4000000000000000)] })).map
    (fun c => (getX c 3, c.satf)) = some (0x7FFFFFFFFFFFFFFF, 1) := by decide
-- R104: the two words of the example build 0x0123_4567_89AB_CDEF
theorem test_movhi : (after (.movhi ⟨0, false, 5, 0x91A2⟩) (liveWith fun c => { c with x := [(5, 0xFFFFFF6789ABCDEF)] })).map
    (fun c => getX c 5) = some 0x0123456789ABCDEF := by decide
-- R45: a write to x0 is discarded, and the latch of S0 holds it
theorem test_x0 : (after (.addi ⟨0, false, 0, 1, 7⟩) live).map (fun c => (getX c 0, getQ c 0, c.pc)) =
    some (0, .scalar 12, 12) := by decide
-- R47: with ROT.XO 1, x32 names physical register 63
theorem test_rot : (after (.addi ⟨0, false, 32, 1, 1⟩) (liveWith fun c => { c with rot := 0x10000 })).map
    (fun c => getX c 63) = some 6 := by decide
-- R40: under !p0 nothing is written
theorem test_null : (after (.addi ⟨0, true, 3, 1, 7⟩) live).map (fun c => (getX c 3, c.pc)) = some (0, 12) := by decide
-- R107: 5 < 3 is false, so p1 reads 0; p2 := 3 < 5
theorem test_cmp : (after (.cmp ⟨0, false, 66, 2, 1, 0, 0, 2⟩) live).map (fun c => (getP c 1, getP c 2)) = some (false, true) := by decide
-- R274: a taken branch leaves the next address in its link
theorem test_br : (after (.br ⟨0, false, 31, 0x1FFFFFFFFFA⟩) (liveWith fun c => { c with pc := 0x100 })).map
    (fun c => (c.pc, getX c 31)) = some (0xF4, 0x10C) := by decide
-- R276: loop.rot with SV 1, ITER 2 and 2 stages
theorem test_looprot : (after (.loopRot ⟨0, false, 0, 0⟩) (liveWith fun c => { c with span := 0x101, iter := 2, pc := 0x40 })).map
    (fun c => (c.span, c.iter, c.rot, c.pc)) = some (0x103, 1, 0x10001, 0x40) := by decide
-- R87: a write of 6 to RM stores 0
theorem test_mtc : (after (.mtc ⟨0, false, 0, 1, 8⟩) (liveWith fun c => { c with x := [(1, 14)] })).map (fun c => c.rmode) = some 8 := by
  decide
-- R66: rfs outside service raises F_PRIV, and the context enters service with kind FAULT
theorem test_priv : (after (.rfs ⟨0, false, 0, 0, 0, 0, 0, 0⟩) live).map
    (fun c => (c.svc, c.pc, c.fcause.toNat % 256, c.fpc)) = some (true, 0x40, 0x0A, 0) := by decide
-- R380, R381: trap enters service with kind 2, and resumes after its bundle
theorem test_trap : (after (.trap ⟨0, false, 0, 0x15⟩) live).map (fun c => (c.svc, c.pc, c.fpc)) = some (true, 0x80, 12) := by decide
-- R66: ill raises F_ILLOP
theorem test_ill : (after (.ill ⟨0, false, 0, 0, 0, 0, 0, 0⟩) live).map (fun c => c.fcause.toNat % 256) = some 8 := by decide
-- R119: each lane of 5 and 3 added, broadcast
theorem test_vadd : (after (.vaddS32 ⟨0, false, 1, 400 + 1, 400 + 2, 0, 0, 0⟩) live).map
    (fun c => (getV c 1 0, getV c 1 7, getV c 1 8)) = some (8, 8, 0) := by decide
-- R286: 8 lanes of the context, 120 free on the tile, one live claim
theorem test_vstat : (after (.vstat ⟨0, false, 3, 0, 0, 0, 0, 0⟩) live).map (fun c => getX c 3) =
    some (0x400808 + 120 * 2 ^ 32 + 2 ^ 40) := by decide
-- R296: an unbound channel
theorem test_chstat : (after (.chstat ⟨0, false, 3, 0, 0, 0, 0, 0⟩) live).map (fun c => getX c 3) = some 0 := by decide
-- R280: context 0 is live
theorem test_hstat : (after (.hstat ⟨0, false, 3, 0, 0, 0, 0, 0⟩) live).map (fun c => getX c 3) = some 1 := by decide
-- R242: k1 is bound to nothing
theorem test_toktest : (after (.tokTest ⟨0, false, 65, 1, 0, 0, 0, 0⟩) live).map (fun c => getP c 1) = some true := by decide
-- R16: an access at a non-canonical address raises F_ADDR with the address
theorem test_addr : (after (.ldS64 ⟨0, false, 3, 1, 0, 0, 0, 0⟩) (liveWith fun c => { c with x := [(1, 0x0200000000000000)] })).map
    (fun c => (c.fcause.toNat % 256, c.faddr)) = some (0x10, 0x0200000000000000) := by decide
-- R235: a misaligned atomic raises F_ALIGN
theorem test_align : (after (.amoAdd ⟨0, false, 3, 1, 0, 0, 0, 0⟩) live).map (fun c => (c.fcause.toNat % 256, c.faddr)) =
    some (0x15, 5) := by decide
-- R430: a supply sag is counted
theorem test_sag : (match exec (.supplySag 1) live with | .next t => some (dieAt t 1).events | _ => none) = some 1 := by decide

end Sys2Proof.Tests
end

