-- ==== Sys2Proof/Tests/WitnessScalar.lean ====
section
/-! SUPPORT. Witnesses: states and operands that meet the hypotheses of the statements about the scalar operations. -/
set_option maxRecDepth 40000
namespace Sys2Proof.Tests
open Sys2Proof Sys2Proof.Machine Sys2Proof.Safety

/-- An operation under p0 that reads x1 and x2 and writes x0. -/
def f12 : RRR := ⟨0, false, 0, 1, 2, 0, 0, 0⟩
/-- An operation under p0 that reads x1 and writes x63. -/
def i1 (imm : BitVec 32) : RRI := ⟨0, false, 63, 1, imm⟩

/-- What the statements ask of the state for an operation of two scalar sources, and of one. -/
abbrev Two (f : RRR) : Prop := Ready live ∧ Enabled live f.gp f.gn ∧ Reads live [f.a, f.b] [5, 3] [] ∧ Room live f.d
abbrev One (f : RRI) : Prop := Ready live ∧ Enabled live f.gp f.gn ∧ Reads live [f.a] [5] [] ∧ Room live f.d
/-- What the statements ask of the state for a vector operation. -/
abbrev Vec (f : RRR) : Prop := Ready live ∧ Enabled live f.gp f.gn ∧ (me live).hasClaim = true
theorem meets_two : Two f12 := ⟨live_ready, rfl, rfl, fun h _ => absurd h (by decide)⟩
theorem meets_one (imm : BitVec 32) : One (i1 imm) :=
  ⟨live_ready, rfl, rfl, fun h _ => absurd h (show ¬96 ≤ (63 : BitVec 9).toNat by decide)⟩

theorem meets_ArithmeticResults : Two f12 ∧ (∀ imm, One (i1 imm)) ∧
    (∀ i ∈ [Instr.add f12, .sub f12, .mul f12, .mulhS f12, .mulhZ f12, .shadd f12, .addw f12, .subw f12, .mulw f12, .minS f12,
      .minZ f12, .maxS f12, .maxZ f12], WellFormed i = true) ∧
    (∀ i ∈ [Instr.addi (i1 0x80000000), .andi (i1 0), .ori (i1 0), .xori (i1 0xFFFFFFFF), .shli (i1 63), .shriZ (i1 63),
      .shriS (i1 63), .addiw (i1 0)], WellFormed i = true) ∧
    (∃ f : RRR, f.c = 0 ∧ 3 < f.md.toNat ∧ Ready live) :=
  ⟨meets_two, meets_one, by decide, by decide, ⟨0, false, 0, 0, 0, 0, 0, 4⟩, rfl, by decide, live_ready⟩

theorem meets_DivisionSaturation : Two f12 ∧
    (∀ i ∈ [Instr.divS f12, .divZ f12, .remS f12, .remZ f12, .addsS f12, .subsS f12, .addsZ f12, .subsZ f12], WellFormed i = true) ∧
    (∃ f : RRR, f.c = 0 ∧ f.md ≠ 0 ∧ Ready live) := ⟨meets_two, by decide, ⟨0, false, 0, 0, 0, 0, 0, 1⟩, rfl, by decide, live_ready⟩

theorem meets_LogicShiftResults : Two f12 ∧
    ∀ i ∈ [Instr.and f12, .or f12, .xor f12, .andn f12, .shl f12, .shrZ f12, .shrS f12, .rot f12, .shlw f12, .shrwZ f12, .shrwS f12],
      WellFormed i = true := ⟨meets_two, by decide⟩

theorem meets_FieldAndBitResults : Two f12 ∧ (∀ imm, One (i1 imm)) ∧
    (∃ f : RI, Ready live ∧ Enabled live f.gp f.gn ∧ Room live f.d ∧ WellFormed (.movi f) = true) ∧
    (∃ f : RI, Ready live ∧ Enabled live f.gp f.gn ∧ Room live f.d ∧ WellFormed (.movhi f) = true) ∧
    -- a field of all 64 bits, and one of bit 63 alone
    (∀ i ∈ [Instr.bfxZ (i1 0x3F00), .bfxS (i1 0x3F00), .bfi (i1 0x3F00), .bfxZ (i1 0x3F), .bfxS (i1 0x3F), .bfi (i1 0x3F)],
      WellFormed i = true) ∧
    (∃ f : RRR, Ready live ∧ Reads live [f.a] [5] [] ∧ Enabled live f.gp f.gn ∧ Room live f.d ∧
      ∀ i ∈ [Instr.clz f, .ctz f, .popc f, .bswap f, .brev f], WellFormed i = true) ∧
    (∀ i ∈ [Instr.clmul f12, .clmulh f12], WellFormed i = true) :=
  ⟨meets_two, meets_one, ⟨⟨0, false, 63, 0x1FFFFFFFFFF⟩, live_ready, rfl, fun h _ => absurd h (by decide), by decide⟩,
   ⟨⟨0, false, 0, 0x7FFFFF⟩, live_ready, rfl, fun h _ => absurd h (by decide), by decide⟩, by decide,
   ⟨⟨0, false, 0, 1, 0, 0, 0, 0⟩, live_ready, rfl, rfl, fun h _ => absurd h (by decide), by decide⟩, by decide⟩

theorem meets_PredicateResults : Ready live ∧ Enabled live 0 false ∧ Reads live [1, 2] [5, 3] [] ∧ Reads live [1] [5] [] ∧
    (∀ k < 8, WellFormed (.cmp ⟨0, false, 64, 1, 2, 0, 0, BitVec.ofNat 8 k⟩) = true ∧
      WellFormed (.cmpi ⟨0, false, 95, 1, BitVec.ofNat 32 (k * 2 ^ 28)⟩) = true) ∧
    (∃ f : RRR, Ready live ∧ Enabled live f.gp f.gn ∧ Reads live [f.a, f.b] [5, 3] [] ∧ Room live f.d ∧ WellFormed (.sel f) = true) ∧
    (∃ f : RRR, Enabled live f.gp f.gn ∧ WellFormed (.pbool f) = true) ∧
    (∃ f : RRR, Enabled live f.gp f.gn ∧ WellFormed (.nop f) = true) ∧
    (∃ f : RRR, 7 < f.md.toNat ∧ 15 < f.md.toNat ∧ f.md ≠ 0) :=
  ⟨live_ready, rfl, rfl, rfl, by decide, ⟨⟨0, false, 0, 1, 2, 95, 0, 0⟩, live_ready, rfl, rfl, fun h _ => absurd h (by decide), by decide⟩,
   ⟨⟨0, false, 95, 64, 95, 0, 0, 15⟩, rfl, by decide⟩, ⟨⟨0, false, 0, 0, 0, 0, 0, 0⟩, rfl, by decide⟩,
   ⟨0, false, 0, 0, 0, 0, 0, 16⟩, by decide⟩

theorem meets_BranchResults : Ready live ∧ Enabled live 0 false ∧
    (∀ l ∈ [(0 : BitVec 9), 63], WellFormed (.br ⟨0, false, l, 0⟩) = true) ∧
    (∃ f : RRR, Enabled live f.gp f.gn ∧ Reads live [f.a] [5] [] ∧ WellFormed (.bri f) = true) ∧
    (∃ f : BRF, Enabled live f.gp f.gn ∧ WellFormed (.loop f) = true ∧ WellFormed (.loopRot f) = true) ∧
    (∃ f : BRF, Enabled live f.gp f.gn ∧ WellFormed (.loopW f) = true) :=
  ⟨live_ready, rfl, by decide, ⟨⟨0, false, 0, 1, 0, 0, 0, 0⟩, rfl, rfl, by decide⟩, ⟨⟨0, false, 0, 0⟩, rfl, by decide⟩,
   ⟨⟨0, false, 95, 0⟩, rfl, by decide⟩⟩

/-! ## Control registers, destinations, channels, guards -/

theorem meets_ControlRegisterMoves : Ready live ∧
    (∃ f : RRI, Enabled live f.gp f.gn ∧ Room live f.d ∧ WellFormed (.mfc f) = true) ∧
    -- ASID, refused outside service and written in it
    (∃ f : RRI, Enabled live f.gp f.gn ∧ Reads live [f.a] [5] [] ∧ WellFormed (.mtc f) = true ∧ cregService f.imm.toNat = true ∧
      (me live).svc = false) ∧
    (∃ f : RRI, Ready inService ∧ Enabled inService f.gp f.gn ∧ Reads inService [f.a] [5] [] ∧ WellFormed (.mtc f) = true ∧
      cregService f.imm.toNat = true ∧ (me inService).svc = true) :=
  ⟨live_ready, ⟨⟨0, false, 0, 0, 0x33⟩, rfl, fun h _ => absurd h (by decide), by decide⟩, ⟨⟨0, false, 0, 1, 0x19⟩, rfl, rfl, by decide⟩,
   ⟨⟨0, false, 0, 1, 0x19⟩, inService_ready, rfl, rfl, by decide⟩⟩

theorem meets_ScalarDestinations : Ready live ∧ (0 : BitVec 9).toNat < 64 ∧ (63 : BitVec 9).toNat < 64 ∧
    64 ≤ (64 : BitVec 9).toNat ∧ (95 : BitVec 9).toNat < 96 := ⟨live_ready, by decide⟩

/-- Context 0's channel 0 bound to channel 1 of context 1, a word received. -/
def chans : State :=
  { ctxs := [(0, { ctx0 with ch := [(0, ⟨.established, 1, 1, [9]⟩)] }), (1, { ctx0 with ch := [(1, ⟨.established, 0, 0, []⟩)] })]
    parts := [(0, soloPart)] }
theorem chans_ready : Ready chans := ⟨by decide, rfl⟩

theorem meets_ChannelOperands : Ready chans ∧ Ready live ∧
    (∃ e pe, e = getCh (me chans) 0 ∧ pe = getCh (ctxOf chans e.peer) e.pch ∧ e.peer ≠ chans.cur ∧ e.st = .established ∧
      pe.st = .established ∧ pe.peer = chans.cur ∧ pe.pch = 0 ∧ e.queue = [9]) ∧
    (∃ f : RRR, f.a = BitVec.ofNat 9 (96 + 15) ∧ Enabled live f.gp f.gn ∧ WellFormed (.add f) = true ∧
      (getCh (me live) 15).st = .unbound) ∧
    (∃ s, Ready s ∧ (getCh (me s) 0).st = .waiting) :=
  ⟨chans_ready, live_ready, ⟨_, _, rfl, rfl, by decide, rfl, rfl, rfl, rfl, rfl⟩, ⟨⟨0, false, 0, 111, 0, 0, 0, 0⟩, rfl, rfl, by decide, rfl⟩,
   ⟨liveWith fun c => { c with ch := [(0, ⟨.waiting, 1, 1, []⟩)] }, ⟨by decide, rfl⟩, rfl⟩⟩
-- a destination that is a channel has room at its peer
theorem meets_room : Room chans 96 := fun _ _ => rfl

theorem meets_GuardAndLevel : Ready live ∧
    (∃ i w, encode i = .slot w ∧ WellFormed i = true ∧ opField w ≠ 0xFF ∧ guardOf (me live) w = false ∧ opField w = 0) ∧
    (∃ i w, encode i = .slot w ∧ WellFormed i = true ∧ guardOf (me live) w = true ∧ (me live).svc = false ∧ opField w = 0xF1) ∧
    (∃ s i w, Ready s ∧ encode i = .slot w ∧ WellFormed i = true ∧ guardOf (me s) w = true ∧ (me s).hasClaim = false ∧
      opField w = 0x7F) ∧
    (∃ i w, encode i = .slot w ∧ decodeSlot w = .error (.illFormed 0)) ∧ (∃ i w, encode i = .slot w ∧ opField w = 0xFF) :=
  ⟨live_ready, ⟨.add ⟨0, true, 3, 1, 2, 0, 0, 0⟩, _, rfl, by decide, by decide, by decide, by decide⟩,
   ⟨.rfs ⟨0, false, 0, 0, 0, 0, 0, 0⟩, _, rfl, by decide, by decide, by decide, by decide⟩,
   ⟨liveWith fun c => { c with claim := none }, .vext ⟨0, false, 1, 2, 0⟩, _, ⟨by decide, rfl⟩, rfl, by decide, by decide, by decide, by decide⟩,
   ⟨.add ⟨0, false, 3, 1, 2, 1, 0, 0⟩, _, rfl, rfl⟩, ⟨.ill ⟨0, false, 0, 0, 0, 0, 0, 0⟩, _, rfl, by decide⟩⟩

/-! ## Vector operations -/

/-- An operation under p0 on v1, v2 and v3 that writes v383. -/
def v123 : RRR := ⟨0, false, 383, 1, 2, 0, 0, 0⟩
theorem meets_vec : Vec v123 := ⟨live_ready, rfl, rfl⟩

theorem meets_VectorElements : ∃ (c : Ctx) (w i : Nat), (w = 8 ∨ w = 16 ∨ w = 32) ∧ i < c.lanes * 32 / w ∧ w = 8 ∧ i = 31 :=
  ⟨ctx0, 8, 31, by decide⟩
theorem meets_VectorDestination : Ready live ∧ (383 : BitVec 9).toNat < 384 ∧ (List.replicate 8 (1 : Lane)).length = (me live).lanes :=
  ⟨live_ready, by decide⟩
theorem meets_IntegerVectorResults : Vec v123 ∧ v123.d.toNat < 384 ∧
    ∀ i ∈ [Instr.vaddS32 v123, .vaddS16 v123, .vaddS8 v123, .vsubS32 v123, .vsubS16 v123, .vsubS8 v123, .vmulS32 v123, .vmulS16 v123,
      .vminS32 v123, .vmaxS32 v123, .vminS16 v123, .vmaxS16 v123, .vand v123, .vor v123, .vxor v123, .vshlS32 v123, .vshrS32 v123,
      .vshlS16 v123, .vshrS16 v123, .vmacwS16 { v123 with c := 3 }, .vdotS8 { v123 with c := 3 }, .vdotS16 { v123 with c := 3 },
      .vclmul v123, .vclmulh v123], WellFormed i = true := ⟨meets_vec, by decide⟩
theorem meets_MaskAndMoveResults :
    (∃ f : RRR, Vec f ∧ 384 ≤ f.d.toNat ∧
      ∀ i ∈ [Instr.vcmpS32 f, .vcmpS16 f, .vcmpF32 f], WellFormed i = true) ∧
    (∃ f : RRR, Vec f ∧ 384 ≤ f.d.toNat ∧ ∀ i ∈ [Instr.vand f, .vor f, .vxor f], WellFormed i = true) ∧
    (∀ i ∈ [Instr.vsel { v123 with c := 391 }, .vperm v123, .vzip v123, .vpack { v123 with md := 12 }, .vsplat ⟨0, false, 1, 0, 7⟩,
      .vslide ⟨0, false, 1, 2, 0x28000⟩, .vext ⟨0, false, 1, 2, 0x2FF⟩], WellFormed i = true) :=
  ⟨⟨⟨0, false, 391, 1, 2, 0, 0, 0⟩, ⟨live_ready, rfl, rfl⟩, by decide⟩, ⟨⟨0, false, 384, 391, 384, 0, 0, 0⟩, ⟨live_ready, rfl, rfl⟩, by decide⟩,
   by decide⟩
theorem meets_FloatVectorResults : Vec v123 ∧
    (∀ i ∈ [Instr.vaddF32 v123, .vsubF32 v123, .vmulF32 v123, .vfmaF32 { v123 with c := 3 }, .vaddBf16 v123, .vmulBf16 v123,
      .vfmaBf16 { v123 with c := 3 }, .vaddF16 v123, .vmulF16 v123, .vfmaF16 { v123 with c := 3 }, .vminF32 v123, .vmaxF32 v123],
      WellFormed i = true) ∧
    ∀ i ∈ [Instr.vexp2 { v123 with b := 0 }, .vlog2 { v123 with b := 0 }, .vrcp { v123 with b := 0 }, .vrsqrt { v123 with b := 0 },
      .vtanh { v123 with b := 0 }, .vexp { v123 with b := 0 }, .vlog { v123 with b := 0 }], WellFormed i = true :=
  ⟨meets_vec, by decide⟩
theorem meets_ConversionResults : Vec v123 ∧
    (∀ i ∈ [Instr.vcvtBf16 { v123 with b := 0, ty := 0x10, c := 1 }, .vcvtF16 { v123 with b := 0, ty := 0x10 },
      .vcvtF8e4 { v123 with b := 0, ty := 0x12 }, .vcvtF8e5 { v123 with b := 0, ty := 0x12 },
      .vcvtF32 { v123 with b := 0, ty := 0x12 }, .vcvtS32 { v123 with b := 0, ty := 0x10 }, .vcvtS16 { v123 with b := 0, ty := 0x10 },
      .vcvtS8 { v123 with b := 0, ty := 0x10, c := 3 }], WellFormed i = true) ∧
    rmOf 0 (me live).rm ≠ RM.sr := ⟨meets_vec, by decide⟩
theorem meets_ReductionResults : Vec v123 ∧
    ∀ i ∈ [Instr.vredS32 { v123 with b := 0 }, .vredF32 { v123 with b := 0 }, .vredF32 { v123 with b := 0, md := 1 },
      .vredF32 { v123 with b := 0, md := 2 }, .vscanS32 { v123 with b := 0 }, .vscanF32 { v123 with b := 0 }], WellFormed i = true :=
  ⟨meets_vec, by decide⟩

end Sys2Proof.Tests
end

