-- ==== Sys2Proof/Tests/WitnessMemory.lean ====
section
/-! SUPPORT. Witnesses: states and operands that meet the hypotheses of the statements about memory, stash and KV operations. -/
set_option maxRecDepth 100000
namespace Sys2Proof.Tests
open Sys2Proof Sys2Proof.Machine Sys2Proof.Safety

/-- A launch under ASID 7. -/
def launch7 : Launch := ⟨0, .H, (List.replicate 5 0) ++ [0x700] ++ List.replicate 10 0, [0], 0, [], 0, false⟩
/-- Bytes of dwords at addresses. -/
def dwords (l : List (Nat × Nat)) : List Host.Cell :=
  l.foldl (fun m e => smSetList 0 m e.1 (leBytes 8 e.2)) []
/-- Context 0 with registers x1 and x2, tile 0 with a scratch mapping of 256 bytes at 0x1000. -/
def scratchWith (f : Ctx → Ctx) : State :=
  { ctxs := [(0, f { ctx0 with asid := 7 })], parts := [(0, { soloPart with conf := { soloPart.conf with hbm := [0, 1] }, kvrt := 0x1000 })]
    dom := { devnum := some 0 }, launches := [(1, launch7)]
    tiles := [(0, { launch := some 1, maps := [(0, ⟨0x1000, 256, 0, 2, false, 0, 0⟩)] })]
    mem := dwords [(0x1000, 0x2001), (0x2008, 0x3000), (0x3000, 0x4001), (0x3008, 0x80000000), (0x4000, 0x3F800000), (0x4010, 0x3F800000),
      (0x4038, 0x7dfa40798205bf86)] }
def scratch : State := scratchWith fun c => { c with x := [(1, 0x10F8), (2, 3)] }
theorem scratch_ready : Ready scratch := ⟨by decide, rfl⟩

/-- The places of n bytes of the mapping. -/
def places (o n : Nat) : List Loc := (List.range n).map fun i => .stash 0 (o + i) none


/-- Loads and stores at x1, vectors 24 bytes below it. -/
def m1 (data : BitVec 9) (off : BitVec 24) (policy : BitVec 2) : MEMF := ⟨0, false, data, 1, off, 0, 0, policy⟩
theorem m1_at (d : BitVec 9) (p : BitVec 2) : Enabled scratch (m1 d 0 p).gp (m1 d 0 p).gn ∧ Reads scratch [(m1 d 0 p).base] [0x10F8] [] :=
  ⟨rfl, rfl⟩
theorem room0 (s : State) : Room s 0 := fun h _ => absurd h (by decide)

-- the last bytes of the mapping
theorem meets_LoadStoreResults : Ready scratch ∧ Room scratch (m1 0 0 0).data ∧
    (Enabled scratch (m1 0 0 0).gp (m1 0 0 0).gn ∧ Reads scratch [(m1 0 0 0).base] [0x10F8] []) ∧
    Reads scratch [(m1 2 0 0).data, (m1 2 0 0).base] [3, 0x10F8] [] ∧
    (∀ i ∈ [Instr.ldS8 (m1 0 0 0), .ldZ8 (m1 0 0 0), .ldS16 (m1 0 0 0), .ldZ16 (m1 0 0 0), .ldS32 (m1 0 0 0), .ldZ32 (m1 0 0 0),
      .ldS64 (m1 0 0 0), .stS8 (m1 2 0 0), .stS16 (m1 2 0 0), .stS32 (m1 2 0 0), .stS64 (m1 2 0 0)], WellFormed i = true) ∧
    (∀ n ∈ [1, 2, 4, 8], Placed scratch true .load ((m1 0 0 0).policy == 3) (address (m1 0 0 0) 0x10F8) n scratch (places 0xF8 n) ∧
      Placed scratch true .store ((m1 2 0 0).policy == 3) (address (m1 2 0 0) 0x10F8) n scratch (places 0xF8 n)) := by
  refine ⟨scratch_ready, room0 _, m1_at 0 0, rfl, by decide, ?_⟩
  simp only [List.forall_mem_cons, List.not_mem_nil, false_imp_iff, implies_true, and_true]
  exact ⟨⟨rfl, rfl⟩, ⟨rfl, rfl⟩, ⟨rfl, rfl⟩, ⟨rfl, rfl⟩⟩

theorem meets_VectorMemoryResults : Ready scratch ∧ (me scratch).hasClaim = true ∧
    (Enabled scratch 0 false ∧ Reads scratch [(m1 383 (-24) 0).base] [0x10F8] []) ∧
    (∀ i ∈ [Instr.vldS32 (m1 383 (-24) 0), .vldS16 (m1 383 (-24) 0), .vstS32 (m1 383 (-24) 0), .vstS16 (m1 383 (-24) 0)],
      WellFormed i = true) ∧
    (∀ n ∈ [4, 2], Placed scratch true .load false (address (m1 383 (-24) 0) 0x10F8) (n * (me scratch).lanes) scratch (places 0xE0 (n * 8)) ∧
      Placed scratch true .store false (address (m1 383 (-24) 0) 0x10F8) (n * (me scratch).lanes) scratch (places 0xE0 (n * 8))) := by
  refine ⟨scratch_ready, rfl, ⟨rfl, rfl⟩, by decide, ?_⟩
  simp only [List.forall_mem_cons, List.not_mem_nil, false_imp_iff, implies_true, and_true]
  exact ⟨⟨rfl, rfl⟩, ⟨rfl, rfl⟩⟩

theorem meets_AtomicResults : Ready scratch ∧ Room scratch 0 ∧ (Enabled scratch 0 false ∧ Reads scratch [(m1 0 0 0).base] [0x10F8] []) ∧
    -- 8 bytes, 4 bytes, and a misaligned address
    (∀ f ∈ [m1 0 0 0, m1 0 0 1, m1 0 1 0], ∀ i ∈ [Instr.amoAdd f, .amoAnd f, .amoOr f, .amoXor f, .amoMinS f, .amoMinZ f, .amoMaxS f,
      .amoMaxZ f, .amoSwap f, .amoCas f], WellFormed i = true) ∧ WellFormed (.amoAddF32 (m1 0 4 0)) = true ∧
    WellFormed (.amoAddF32 (m1 0 1 0)) = true ∧
    address (m1 0 0 0) 0x10F8 % 8 = 0 ∧ address (m1 0 0 1) 0x10F8 % 4 = 0 ∧ address (m1 0 4 0) 0x10F8 % 4 = 0 ∧
    address (m1 0 1 0) 0x10F8 % 8 ≠ 0 ∧ address (m1 0 1 0) 0x10F8 % 4 ≠ 0 ∧
    Placed scratch true .amo false (address (m1 0 0 0) 0x10F8) 8 scratch (places 0xF8 8) ∧
    Placed scratch true .amo false (address (m1 0 0 1) 0x10F8) 4 scratch (places 0xF8 4) ∧
    Placed scratch true .amo false (address (m1 0 4 0) 0x10F8) 4 scratch (places 0xFC 4) ∧
    (∀ op : AmoOp, ∀ n ∈ [4, 8], amoHostRefused op 0 (places 0xF8 n) = false) :=
  ⟨scratch_ready, room0 _, ⟨rfl, rfl⟩, by decide, by decide, by decide, by decide, by decide, by decide, by decide, by decide, rfl, rfl, rfl,
   fun op n _ => by simp [amoHostRefused]⟩

-- the first and the last byte of the address space, on two lines
theorem meets_StoredBytes : [0, 2 ^ 57 - 1].length = [(1 : Byte), 0].length ∧ [0, 2 ^ 57 - 1].Nodup ∧ memCanonical scratch := by
  exact ⟨rfl, by decide, rfl⟩

theorem meets_ScratchAccess : ∃ (r : Req6) (m : Mapping), 0 < 8 ∧ 0x10F8 + 8 ≤ 2 ^ 57 ∧ mapsServe scratch (tileOf r.ctx) r.asid = true ∧ m.mode = 2 ∧
    m.base ≤ 0x10F8 ∧ 0x10F8 + 8 ≤ m.base + m.len ∧
    (∀ va, m.base ≤ va → va < m.base + m.len → mapAt (tileAt scratch (tileOf r.ctx)) va = some (0, m)) ∧
    (∀ b, r.maps = some b → m.born < b) ∧ (ctxOf scratch r.ctx).watch = [] ∧ scratch.errs = [] ∧ scratch.serrs = [] ∧ scratch.cerrs = [] ∧
    scratch.scerrs = [] := by
  refine ⟨⟨0, 7, .store, false, false, true, some 1⟩, ⟨0x1000, 256, 0, 2, false, 0, 0⟩, by decide, by decide, rfl, rfl, by decide, by decide, ?_, by simp, rfl, rfl, rfl, rfl, rfl⟩
  intro va h1 h2
  have : tileAt scratch 0 = { launch := some 1, maps := [(0, ⟨0x1000, 256, 0, 2, false, 0, 0⟩)] } := rfl
  simp only [show tileOf 0 = 0 from rfl, this, mapAt, List.find?]
  change 0x1000 ≤ va at h1
  change va < 0x1000 + 256 at h2
  rw [show decide (va < 0x1000 + 256) = true from decide_eq_true h2]
  simp [h1]

-- an address of no mapping, whose line must come from its home, and one outside the canonical ranges
theorem meets_AccessHeld : Ready scratch ∧ Room scratch 0 ∧ Enabled scratch 0 false ∧ Reads scratch [(m1 0 0 0).base] [0x10F8] [] ∧
    (∀ i ∈ [Instr.ldS8 (m1 0 0x100 0), .ldZ8 (m1 0 0x100 0), .ldS16 (m1 0 0x100 0), .ldZ16 (m1 0 0x100 0), .ldS32 (m1 0 0x100 0),
      .ldZ32 (m1 0 0x100 0), .ldS64 (m1 0 0x100 0)], WellFormed i = true) ∧
    (∀ n ∈ [1, 2, 4, 8], (∃ t hs, access scratch (homeReq scratch .load ((m1 0 0x100 0).policy == 3) true) (address (m1 0 0x100 0) 0x10F8) n = .hold t hs) ∧
      ∃ x, access scratch (homeReq scratch .load ((m1 0 0x100 0).policy == 3) true) (address (m1 0 0x100 0) 0x4000000000000000) n = .fault x) := by
  refine ⟨scratch_ready, room0 _, rfl, rfl, by decide, ?_⟩
  simp only [List.forall_mem_cons, List.not_mem_nil, false_imp_iff, implies_true, and_true]
  exact ⟨⟨⟨_, _, rfl⟩, ⟨_, rfl⟩⟩, ⟨⟨_, _, rfl⟩, ⟨_, rfl⟩⟩, ⟨⟨_, _, rfl⟩, ⟨_, rfl⟩⟩, ⟨⟨_, _, rfl⟩, ⟨_, rfl⟩⟩⟩


/-- A token of a command that has not completed. -/
def tokens : State := scratchWith fun c => { c with tok := [(3, ⟨9, 8, 0, false⟩)], x := [(1, 0x10F8)] }
/-- An operation on registers under p0. -/
def r3 (d a b c : BitVec 9) : RRR := ⟨0, false, d, a, b, c, 0, 0⟩
theorem meets_FenceTokenResults : Ready scratch ∧ Ready tokens ∧ Enabled scratch 0 false ∧ Enabled tokens 0 false ∧
    WellFormed (.fence ⟨0, false, 0, 0, 0, 3, 3, 0⟩) = true ∧ WellFormed (.pref (m1 0 0 0)) = true ∧ Reads scratch [(m1 0 0 0).base] [0x10F8] [] ∧
    WellFormed (.ifence (r3 0 0 0 0)) = true ∧ WellFormed (.tokTest (r3 64 31 0 0)) = true ∧
    WellFormed (.tokWait ⟨0, false, 0, 3, 31, 0, 0, 0, 0, 0⟩) = true ∧ boundCmds (me scratch) [3, 31, 0] = [] ∧
    boundCmds (me tokens) [3, 31, 0] = [9] ∧ [9] ≠ [] :=
  ⟨scratch_ready, ⟨by decide, rfl⟩, rfl, rfl, by decide, by decide, rfl, by decide, by decide, by decide, rfl, rfl, by decide⟩

/-- Scratch with a page of ASID 7 at 0x2000, writable, at 0x20000, and the home's answer received. -/
def paged (n : Word) : State :=
  let s := scratchWith fun c => { c with x := [(1, 0x2000), (2, n)], answered := [.home] }
  { s with
    mem := dwords [(0x10000, 0x11001), (0x11000, 0x12001), (0x12000, 0x13001), (0x13000, 0x14001), (0x14010, 0x20007)]
    parts := s.parts.map fun e => (e.1, { e.2 with asids := [(7, ⟨.active, 0x10000, [], 0⟩)] }) }
/-- The same with another tile's stash holding stores to the line, and with nothing answered. -/
def pagedDirty : State :=
  { paged 128 with tiles := (paged 128).tiles ++ [(1, { lines := [(0x40, ⟨.D, 100, 64, 0x400, false, false, 0, false, 0, 0⟩)] })] }
def pagedNew : State := scratchWith fun c => { c with x := [(1, 0x2000), (2, 0x1000000)] }
theorem meets_PublishResults_waits : (Ready pagedDirty ∧ Enabled pagedDirty 0 false ∧ Reads pagedDirty [2, 1] [128, 0x2000] [] ∧
      (me pagedDirty).answered.contains .home = true ∧ ∃ p, partAt pagedDirty (partOfCtx pagedDirty pagedDirty.cur) = some p ∧
        publishable pagedDirty p (partOfCtx pagedDirty pagedDirty.cur) (me pagedDirty).asid.toNat
          (lineStarts (address (m1 2 0 0) 0x2000) 128) = .ok [0x20000] ∧
        lineDirty (writeBackHomes pagedDirty (tileOf pagedDirty.cur) [0x20000 / 128]) (0x20000 / 128) = true) ∧
    (Ready pagedNew ∧ Enabled pagedNew 0 false ∧ Reads pagedNew [2, 1] [0x1000000, 0x2000] [] ∧ (0x1000000 : Word) ≠ 0 ∧
      (0x1000000 : Word).toNat ≤ 2 ^ 24 ∧ (me pagedNew).answered.contains .home = false) :=
  ⟨⟨⟨by decide, rfl⟩, rfl, rfl, rfl, _, rfl, rfl, rfl⟩, ⟨by decide, rfl⟩, rfl, rfl, by decide, by decide, rfl⟩
theorem meets_PublishResults : Ready (paged 128) ∧ Ready (paged 0) ∧ Ready (paged 0x1000001) ∧ Enabled (paged 128) 0 false ∧
    WellFormed (.cpub (m1 2 0 0)) = true ∧ Reads (paged 0) [2, 1] [0, 0x2000] [] ∧
    (Reads (paged 0x1000001) [2, 1] [0x1000001, 0x2000] [] ∧ 2 ^ 24 < (0x1000001 : Word).toNat) ∧
    (Reads (paged 128) [2, 1] [128, 0x2000] [] ∧ (128 : Word) ≠ 0 ∧ (128 : Word).toNat ≤ 2 ^ 24 ∧ canonFault (address (m1 2 0 0) 0x2000) 128 = none ∧
      (me (paged 128)).answered.contains .home = true ∧ ∃ p, partAt (paged 128) (partOfCtx (paged 128) (paged 128).cur) = some p ∧
        publishable (paged 128) p (partOfCtx (paged 128) (paged 128).cur) (me (paged 128)).asid.toNat
          (lineStarts (address (m1 2 0 0) 0x2000) 128) = .ok [0x20000] ∧
        lineDirty (writeBackHomes (paged 128) (tileOf (paged 128).cur) [0x20000 / 128]) (0x20000 / 128) = false) :=
  ⟨⟨by decide, rfl⟩, ⟨by decide, rfl⟩, ⟨by decide, rfl⟩, rfl, by decide, rfl, ⟨rfl, by decide⟩, rfl, by decide, by decide, rfl, rfl, _, rfl, rfl, rfl⟩

/-- All 64 entries in use, of 128 bytes each. -/
def fullMaps : State :=
  let s := scratchWith fun c => { c with x := [(1, 0x9000), (2, 0x2000000002000)] }
  { s with tiles := [(0, { launch := some 1, maps := (List.range 64).map fun k => (k, ⟨0x1000 + 128 * k, 128, 128 * k, 2, false, 0, k⟩) })] }
/-- One entry in use; x1 and x2 describe another mapping, x3 names the entry. -/
def oneMap : State := scratchWith fun c => { c with x := [(1, 0x9000), (2, 0x2000000002000)] }
/-- A backed mapping with its first line shared, eight bytes of it pinned or not. -/
def backed (pins : List (Nat × Nat)) : State :=
  let s := scratchWith fun c => { c with x := [(1, 0x1000), (2, 8)], pins := pins }
  { s with tiles := [(0, { launch := some 1, maps := [(0, ⟨0x1000, 256, 0, 0, false, 0, 0⟩)], lines := [(0x20, ⟨.S, 100, 64, 0, false, false, 0, false, 0, 0⟩)] })] }
theorem meets_MappingResults :
    (∀ s ∈ [fullMaps, oneMap], Ready s ∧ Enabled s 0 false ∧ Reads s [1, 2] [0x9000, 0x2000000002000] [] ∧
      mapBad (tileAt s 0) 0x2000000002000 (mapOf 0x9000 0x2000000002000) = false ∧ canonFault 0x9000 128 = none) ∧
    WellFormed (.smMap (r3 5 1 2 0)) = true ∧ (∀ k, k < 64 → (smFind (tileAt fullMaps 0).maps k).isSome) ∧
    (∃ k, k < 64 ∧ smFind (tileAt oneMap 0).maps k = none) ∧
    (Ready scratch ∧ Enabled scratch 0 false ∧ Reads scratch [(0 : BitVec 9)] [0] [] ∧ WellFormed (.smUnmap (r3 0 0 0 0)) = true ∧
      ∃ m, smFind (tileAt scratch 0).maps 0 = some m ∧ mapBusy scratch 0 m = false ∧
        anyLine scratch 0 .D (if m.mode = 2 then [] else mapLines m) = false ∧
        anyLine scratch 0 .B (if m.mode = 2 then [] else mapLines m) = false) ∧
    (∀ pins ∈ [[], [(0x1000, 8)]], Ready (backed pins) ∧ Enabled (backed pins) 0 false ∧ Reads (backed pins) [1, 2] [0x1000, 8] [] ∧
      pinFault (backed pins) (loneView (backed pins) ((r3 0 1 2 0).pack 0xB1) [0x1000, 8]) = none ∧ (me (backed pins)).pins = pins ∧
      partAt (backed pins) 0 ≠ none ∧ (∀ l ∈ touchedLines (tileAt (backed pins) 0) 0x1000 8, lineHeld (backed pins) (tileAt (backed pins) 0) l.1 false = true) ∧
      (touchedLines (tileAt (backed pins) 0) 0x1000 8).map (·.1) = [0x20] ∧
      anyLine (backed pins) 0 .D [0x20] = false ∧ anyLine (backed pins) 0 .B [0x20] = false) ∧
    (WellFormed (.smPin (r3 0 1 2 0)) = true ∧ WellFormed (.smUnpin (r3 0 1 2 0)) = true ∧ WellFormed (.smFlush (r3 0 1 2 0)) = true) := by
  refine ⟨?_, by decide, by decide, ⟨1, by decide⟩, ⟨scratch_ready, rfl, rfl, by decide, _, rfl, rfl, rfl, rfl⟩, ?_, by decide⟩ <;>
    simp only [List.forall_mem_cons, List.not_mem_nil, false_imp_iff, implies_true, and_true]
  · exact ⟨⟨⟨by decide, rfl⟩, rfl, rfl, rfl, rfl⟩, ⟨⟨by decide, rfl⟩, rfl, rfl, rfl, rfl⟩⟩
  · exact ⟨⟨⟨by decide, rfl⟩, rfl, rfl, rfl, rfl, by decide, by decide, rfl, rfl, rfl⟩, ⟨⟨by decide, rfl⟩, rfl, rfl, rfl, rfl, by decide, by decide, rfl, rfl, rfl⟩⟩

/-- A barrier of 16 bytes at 0x1000 with a low dword; x1 its address, x2 and x3 counts. -/
def barrier (low : Nat) (b c : Word) : State :=
  let s := scratchWith fun c' => { c' with x := [(1, 0x1000), (2, b), (3, c)] }
  { s with tiles := s.tiles.map fun e => (e.1, { e.2 with stash := smSetList 0 [] 0 (leBytes 16 low) }) }
theorem meets_BarrierResults :
    -- an initialisation with the greatest counts
    (Ready (barrier 0 65535 0xFFFFFFFFFF) ∧ Enabled (barrier 0 65535 0xFFFFFFFFFF) 0 false ∧
      unmapped (barrier 0 65535 0xFFFFFFFFFF) 0 7 0x1000 16 = none ∧
      Reads (barrier 0 65535 0xFFFFFFFFFF) [1, 2, 3] [0x1000, 65535, 0xFFFFFFFFFF] [] ∧ WellFormed (.barInit (r3 0 1 2 3)) = true ∧
      (0xFFFFFFFFFF : Word).toNat < 2 ^ 40 ∧ Placed (barrier 0 65535 0xFFFFFFFFFF) false .amo false 0x1000 16 (barrier 0 65535 0xFFFFFFFFFF) (places 0 16) ∧
      (Bar.unpack (leNat (readLocs (barrier 0 65535 0xFFFFFFFFFF) (places 0 16)))).bad = false) ∧
    -- an arrival that completes the barrier
    (Ready (barrier 0x400000001 0 0) ∧ Enabled (barrier 0x400000001 0 0) 0 false ∧ Room (barrier 0x400000001 0 0) 5 ∧
      Reads (barrier 0x400000001 0 0) [1, 2] [0x1000, 0] [] ∧ WellFormed (.barArr (r3 5 1 2 0)) = true ∧
      Placed (barrier 0x400000001 0 0) false .amo false 0x1000 16 (barrier 0x400000001 0 0) (places 0 16) ∧
      ∃ x, x = Bar.unpack (leNat (readLocs (barrier 0x400000001 0 0) (places 0 16))) ∧ x.bad = false ∧ x.init = true) ∧
    -- a complete barrier
    (Ready (barrier 0x500010001 0 0) ∧ Enabled (barrier 0x500010001 0 0) 0 false ∧ Reads (barrier 0x500010001 0 0) [1] [0x1000] [] ∧
      Room (barrier 0x500010001 0 0) 5 ∧ WellFormed (.barTest (r3 5 1 0 0)) = true ∧ WellFormed (.barWait (r3 5 1 0 0)) = true ∧
      releasedLow (me (barrier 0x500010001 0 0)).answered = none ∧
      Placed (barrier 0x500010001 0 0) false .load false 0x1000 16 (barrier 0x500010001 0 0) (places 0 16) ∧
      ∃ x, x = Bar.unpack (leNat (readLocs (barrier 0x500010001 0 0) (places 0 16))) ∧ x.bad = false ∧ x.init = true ∧ x.done = true) :=
  ⟨⟨⟨by decide, rfl⟩, rfl, rfl, rfl, by decide, by decide, rfl, rfl⟩,
   ⟨⟨by decide, rfl⟩, rfl, fun h _ => absurd h (by decide), rfl, by decide, rfl, _, rfl, rfl, rfl⟩,
   ⟨⟨by decide, rfl⟩, rfl, rfl, fun h _ => absurd h (by decide), by decide, by decide, rfl, rfl, _, rfl, rfl, rfl, rfl⟩⟩

/-- A copy under a guard; its count is x4, its auxiliary word x5. -/
def cp (gn : Bool) (md : BitVec 3) : ENGF := ⟨0, gn, 0, 0, 0, 0, 1, 2, 4, md⟩
/-- A count in x4. -/
def counted (n : Word) : State := scratchWith fun c => { c with x := [(1, 0x1000), (4, n)] }
theorem meets_CopyCommandsQueue : Ready (counted 64) ∧ Ready (counted 0) ∧ Enabled (counted 64) (cp false 7).gp (cp false 7).gn ∧
    Disabled (counted 64) (cp true 0).gp (cp true 0).gn ∧
    (∀ f ∈ [cp false 7, cp true 0], ∀ i ∈ [Instr.cpGet f, .cpPut f, .cpRput f, .cpGth f], WellFormed i = true) ∧
    (∀ op ∈ [0xB3, 0xB4, 0xB5, 0xB6], copyArgBad op 0x1000 0 0 = true ∧ copyArgBad op 0x1000 0x10001 0 = false) ∧
    (copyEnds 0xB3 0x4000000000000000 0x1000).find? (fun x => !canonical x) = some 0x4000000000000000 ∧
    (∀ x ∈ copyEnds 0xB3 0x1FFFFFFFFFFFFFF 0x1000, canonical x = true) ∧ hasRoom (counted 64) 0 10 = true ∧ hasRoom (counted 64) 0 3 = true :=
  ⟨⟨by decide, rfl⟩, ⟨by decide, rfl⟩, rfl, rfl, by decide, by decide, rfl, by decide, by decide, by decide⟩

/-- The KV space of the partition: sequence 0 of one layer and one head, its block 0 at 0x4000; the walker has answered. x1 is the
mapping, x2 the KVA 0, x3 a descriptor. -/
def kvState (desc : Word) : State := scratchWith fun c => { c with x := [(1, 0x1000), (3, desc)], answered := [.kv] }
def kvPart : Part := { soloPart with conf := { soloPart.conf with hbm := [0, 1] }, kvrt := 0x1000 }
/-- A load of one row with a stride of 128 bytes. -/
def kvRow : Word := 0x200000000
/-- What the walk finds. -/
def kvFound : KvPage := ⟨0x4000, 16, 64, [0x3F800000, 0, 0, 0], [0x3F800000, 0, 0, 0]⟩
/-- The state after the walk. -/
def kvWalked (d : Word) : State :=
  addCache (addCache (kvState d) 0 (.root 0 [0, 0x3000, 0, 0, 0, 0, 0, 0] [32, 64])) 0
    (.block 0 0 0 0 [0x4001, 0x80000000] (memBytes (kvState d) 0x4000 64) [96, 128])
theorem kv_walk_load : kvWalk (kvState kvRow) kvPart 0 0 ⟨64, 1, false⟩ = .ok (kvWalked kvRow, kvFound) := by
  rfl
theorem kv_walk_append : kvWalk (kvState 0) kvPart 0 0 ⟨64, 1, true⟩ = .ok (kvWalked 0, kvFound) := by
  rfl

/-- An operation on rows of a 16-bit type. -/
def kvf : RRR := ⟨0, false, 0, 1, 2, 3, 0x12, 0⟩
theorem meets_KvResults :
    (Ready (kvState kvRow) ∧ Enabled (kvState kvRow) 0 false ∧ Reads (kvState kvRow) [1, 2, 3] [0x1000, 0, kvRow] [] ∧
      (me (kvState kvRow)).answered.contains .kv = true ∧ partAt (kvState kvRow) 0 = some kvPart ∧
      WellFormed (.kvLdk kvf) = true ∧ WellFormed (.kvLdv kvf) = true ∧ kvLdBad 0x12 0x1000 kvRow.toNat = false ∧
      rowsUnmapped (kvState kvRow) (loneView (kvState kvRow) (kvf.pack 0xCA) [0x1000, 0, kvRow]) 128 [0x1000] = none ∧
      (∃ s1 g, kvWalk (kvState kvRow) kvPart 0 0 ⟨64, 1, false⟩ = .ok (s1, g) ∧
        ∀ side : Bool, kvBusy { s1 with freeCount := s1.freeCount + 1 } (g.addr side 0) 64 false = [] ∧
          ∃ s2 vals s3 locs, kvRows { s1 with freeCount := s1.freeCount + 1 } kvPart 0 0 g side [0] [] = .ok (s2, vals) ∧
            placeRows (kvState kvRow) .store 128 s2 [0x1000] = some (s3, locs))) ∧
    (Ready (kvState 0) ∧ Enabled (kvState 0) 0 false ∧ Reads (kvState 0) [1, 2, 3] [0x1000, 0, 0] [] ∧
      (me (kvState 0)).answered.contains .kv = true ∧ WellFormed (.kvApp kvf) = true ∧
      rowsUnmapped (kvState 0) (loneView (kvState 0) (kvf.pack 0xCC) [0x1000, 0, 0]) 256 [0x1000] = none ∧
      ∃ s1 g, kvWalk (kvState 0) kvPart 0 0 ⟨64, 1, true⟩ = .ok (s1, g) ∧
        (∀ side : Bool, kvBusy { s1 with freeCount := s1.freeCount + 1 } (g.addr side 0) 64 true = [] ∧
          payloadFault { s1 with freeCount := s1.freeCount + 1 } kvPart 0 (g.addr side 0) 64 = none) ∧
        ∃ s3 locs, placeRows (kvState 0) .load 256 { s1 with freeCount := s1.freeCount + 1 } [0x1000] = some (s3, locs)) := by
  refine ⟨⟨⟨by decide, rfl⟩, rfl, rfl, rfl, rfl, by decide, by decide, by decide, rfl, _, _, kv_walk_load, fun side => ?_⟩,
    ⟨by decide, rfl⟩, rfl, rfl, rfl, by decide, rfl, _, _, kv_walk_append, fun side => ?_, _, _, rfl⟩
  · cases side
    · exact ⟨rfl, _, _, _, _, rfl, rfl⟩
    · exact ⟨rfl, _, _, _, _, rfl, rfl⟩
  · cases side
    · exact ⟨rfl, rfl⟩
    · exact ⟨rfl, rfl⟩
end Sys2Proof.Tests
end

