-- ==== Sys2Proof/Tests/WitnessEngine.lean ====
section
/-! SUPPORT. Witnesses: states and operands that meet the hypotheses of the statements about engines, stage arrays and attention. -/
set_option maxRecDepth 100000
namespace Sys2Proof.Tests
open Sys2Proof Sys2Proof.Machine Sys2Proof.Safety

/-! ## Engine commands -/

/-- A command whose operands lie in x1, x2 and x3, or a command under a false guard. -/
def en (gn : Bool) (a b c : BitVec 9) (md : BitVec 3) : ENGF := ⟨0, gn, 3, 1, 2, 0, a, b, c, md⟩
/-- The commands, with the queue of each. -/
noncomputable def engines (gn : Bool) : List (Instr × Nat) :=
  [(.mmF8e4 (en gn 144 145 136 0), 0), (.mmF8e5 (en gn 144 145 136 0), 0), (.mmF6e3 (en gn 144 145 136 0), 0),
   (.mmF6e2 (en gn 144 145 136 0), 0), (.mmF4 (en gn 144 145 136 0), 0), (.mmBf16 (en gn 128 129 143 3), 0),
   (.mmF16 (en gn 144 145 136 1), 0), (.mmS8 (en gn 144 145 136 0), 0), (.mmS4 (en gn 144 145 136 0), 0),
   (.mmMx (en gn 144 145 136 0), 0), (.mmGrp (en gn 136 0 143 1), 0), (.mmGrp (en gn 144 0 136 0), 0), (.mmPriv (en gn 144 0 136 0), 0),
   (.elLd (en gn 128 0 144 0), 0), (.rgAdv (en gn 0 0 128 0), 2), (.accZero (en gn 0 0 136 0), 0), (.accSt (en gn 0 3 136 0), 0),
   (.accLd (en gn 0 3 136 0), 0), (.accMv (en gn 136 0 143 0), 0), (.cvRun (en gn 1 2 0 0), 1), (.grpIdx (en gn 0 0 0 0), 0)]
/-- A command waiting in a queue. -/
def cmd0 : Cmd := ⟨1, 0, 0, 0, 0, 0, 0, false, [], 0, 7, none, 0, 0, [], []⟩
/-- Accumulators a0 and a7 of the context or of another, k commands in each queue; x3 describes a row of FP32. -/
def eng (owner k : Nat) : State :=
  let s := scratchWith fun c => { c with x := [(1, 0x1000), (2, 0x1040), (3, 0x40010)], conv := some ⟨0x11, 0x12, 0⟩ }
  { s with tiles := s.tiles.map fun e => (e.1, { e.2 with
      accOwner := [(0, owner), (7, owner)], tensor := ⟨List.replicate k cmd0, false, none, false⟩
      conv := ⟨List.replicate k cmd0, false, none, false⟩, ringq := ⟨List.replicate k cmd0, false, none, false⟩ }) }

theorem meets_EngineCommandsQueue : Ready (eng 0 0) ∧ Ready (eng 0 64) ∧ Ready (eng 1 0) ∧
    (∀ r ∈ engines false, WellFormed r.1 = true) ∧ (∀ r ∈ engines true, WellFormed r.1 = true) ∧
    (Enabled (eng 0 0) 0 false ∧ Disabled (eng 0 0) 0 true ∧ isSealed (eng 0 0) 0 = false ∧ ownsAcc (eng 0 0) 0 136 = true ∧
      ownsAcc (eng 0 0) 0 143 = true ∧ (∀ q ∈ [0, 1, 2], hasRoom (eng 0 0) 0 q = true) ∧ grpPlaceBad 0 = false ∧
      accDescBad true 0 0x40010 = false ∧ accDescBad false 0 0x40010 = false ∧
      ((me (eng 0 0)).conv.any fun d => !convBad d 0) = true) ∧
    -- the greatest number of commands that a queue holds
    (Enabled (eng 0 64) 0 false ∧ isSealed (eng 0 64) 0 = false ∧ ownsAcc (eng 0 64) 0 136 = true ∧ ownsAcc (eng 0 64) 0 143 = true ∧
      ∀ q ∈ [0, 1, 2], hasRoom (eng 0 64) 0 q = false) ∧
    (Enabled (eng 1 0) 0 false ∧ isSealed (eng 1 0) 0 = false ∧ ownsAcc (eng 1 0) 0 136 = false ∧ ownsAcc (eng 1 0) 0 143 = false) ∧
    (10 : Nat) < 11 :=
  ⟨⟨by decide, rfl⟩, ⟨by decide, rfl⟩, ⟨by decide, rfl⟩, by decide, by decide,
   ⟨rfl, rfl, rfl, rfl, rfl, by decide, rfl, rfl, rfl, rfl⟩, ⟨rfl, rfl, rfl, rfl, by decide⟩, ⟨rfl, rfl, rfl, rfl⟩, by decide⟩

theorem meets_MatrixProduct : ∃ a b : Latch, a.roleB = false ∧ b.roleB = true :=
  ⟨⟨0x12, false, 32, List.replicate 8192 0⟩, ⟨0x12, true, 32, List.replicate 4096 0⟩, rfl, rfl⟩

-- two slots of 128 rows of 32 bytes in a mapping of 8,192 bytes
/-- Tile 0 with a scratch mapping of 8,192 bytes at 0x1000. -/
def wide (f : Ctx → Ctx) (stash : SMap Byte) : State :=
  { scratchWith f with tiles := [(0, { launch := some 1, maps := [(0, ⟨0x1000, 0x2000, 0, 2, false, 0, 0⟩)], stash := stash })] }
theorem meets_ConfigurationResults :
    ∃ s, Ready s ∧ Enabled s 0 false ∧ WellFormed (.rgCfg ⟨0, false, 128, 1, 2, 0, 0x13, 0⟩) = true ∧
      readX (me s) 1 = 0x1000 ∧ readX (me s) 2 = 1 ∧ mapsServe s 0 (me s).asid.toNat = true ∧
      (∃ m, mapAt (tileAt s 0) 0x1000 = some (0, m) ∧ 0x1000 + (1 % 2 ^ 5 + 1) * slotSize 0x13 false 32 ≤ m.base + m.len) ∧
      ((tileAt s 0).tensor.cmds ++ (tileAt s 0).ringq.cmds).any (namesRing 0) = false ∧
      Reads s [1, 2] [0x1000, 1] [] ∧ WellFormed (.cvCfg ⟨0, false, 0, 1, 2, 0, 0x12, 0⟩) = true :=
  ⟨wide (fun c => { c with x := [(1, 0x1000), (2, 1)] }) [], ⟨by decide, rfl⟩, rfl, by decide, rfl, rfl, rfl, ⟨_, rfl, by decide⟩, rfl, rfl, by decide⟩

/-! ## Stage arrays -/

/-- Stage operand buffers of a type; x1 and x2 give 16 rows. -/
def stage (ty : Nat) : State := wide (fun c => { c with x := [(1, 0x1000), (2, 64)], saA := ⟨ty, []⟩, saB := ⟨ty, []⟩ }) []
/-- The addresses of the 16 rows. -/
def stageRows : List Nat := (List.range 16).map fun r => (0x1000 + r * 64) % 2 ^ 64
theorem meets_StageResults : Ready (stage 0x12) ∧ Ready (stage 0x14) ∧ Enabled (stage 0x12) 0 false ∧ Enabled (stage 0x14) 0 false ∧
    Reads (stage 0x12) [1, 2] [0x1000, 64] [] ∧ (0x1000 : Word).toNat % 64 = 0 ∧ (64 : Word).toNat % 64 = 0 ∧ (me (stage 0x12)).hasClaim = true ∧
    (WellFormed (.saLd ⟨0, false, 0, 1, 2, 0, 0x12, 1⟩) = true ∧
      rowsUnmapped (stage 0x12) (loneView (stage 0x12) 0 [0x1000, 64]) 64 stageRows = none ∧
      ∃ t locs, placeRows (stage 0x12) .load 64 (stage 0x12) stageRows = some (t, locs)) ∧
    (WellFormed (.saSt ⟨0, false, 0, 1, 2, 151, 0x12, 0⟩) = true ∧ elemBytes 0x12 64 = 128 ∧
      rowsUnmapped (stage 0x12) (loneView (stage 0x12) 0 [0x1000, 64]) 128 stageRows = none ∧
      ∃ t locs, placeRows (stage 0x12) .store 128 (stage 0x12) stageRows = some (t, locs)) ∧
    (WellFormed (.saMmBf16 ⟨0, false, 148, 0, 0, 0, 0, 7⟩) = true ∧ (me (stage 0x12)).saA.ty ∈ [0x12] ∧ (me (stage 0x12)).saB.ty ∈ [0x12]) ∧
    (WellFormed (.saMmF8 ⟨0, false, 151, 0, 0, 0, 0, 0⟩) = true ∧ (me (stage 0x14)).saA.ty ∈ [0x13, 0x14] ∧
      (me (stage 0x14)).saB.ty ∈ [0x13, 0x14] ∧ (me (stage 0x14)).hasClaim = true) ∧
    (∀ i ∈ [Instr.saZero ⟨0, false, 148, 0, 0, 0, 0, 1⟩, .saZero ⟨0, false, 151, 0, 0, 0, 0, 0⟩, .saMv ⟨0, false, 151, 383, 0, 0, 0, 0x7F⟩,
      .saMv ⟨0, false, 383, 148, 0, 0, 0, 0⟩], WellFormed i = true) :=
  ⟨⟨by decide, rfl⟩, ⟨by decide, rfl⟩, rfl, rfl, rfl, by decide, by decide, rfl, ⟨by decide, rfl, _, _, rfl⟩, ⟨by decide, rfl, rfl, _, _, rfl⟩,
   ⟨by decide, by decide, by decide⟩, ⟨by decide, by decide, by decide, rfl⟩, by decide⟩

/-! ## Attention -/

/-- One query row of 64 channels against 32 positions of sequence 0. -/
def attn32 : List Word := [0, 0x3F80000000000020, 0x1000, 0x1100, 0x1900, 0x2000, 0x3F800000, 0]
/-- The descriptor latched; a range from x1 to x2 or x3, of one step or of two. -/
def attends (run : Bool) : State :=
  wide (fun c => { c with x := [(2, 16), (3, 17)], attn := some attn32, attnRun := run, attnEnd := if run then 16 else 0, answered := if run then [.kv] else [] }) []
/-- The state in which a step runs. -/
def stepping : State := { attends true with freeCount := (attends true).freeCount + 2 }
def attnEng : Eng := ⟨0, 0, 0, 7, true⟩
/-- A step is done that is no other outcome. -/
theorem done_of {r : StepRes} (h : (match r with | .done _ => true | _ => false) = true) : ∃ t, r = .done t := by
  cases r <;> simp_all
theorem attn_qk : ∃ t, qkStep stepping attnEng (attnOf attn32) 0 16 = .done t := done_of rfl
theorem attn_smx : ∃ t, smxStep stepping attnEng (attnOf attn32) 0 16 = .done t := done_of rfl
theorem attn_pv : ∃ t, pvStep stepping attnEng (attnOf attn32) 0 16 = .done t := done_of rfl

/-- The descriptor in the stash, x1 its address. -/
def describes : State := wide (fun c => { c with x := [(1, 0x2800)] }) (smSetList 0 [] 0x1800 (attn32.flatMap fun w => leBytes 8 w.toNat))
/-- An attention instruction over x0 and a register. -/
def at_ (b : BitVec 9) : RRR := ⟨0, false, 0, 0, b, 0, 0, 0⟩
theorem meets_AttentionResults :
    (Ready describes ∧ Enabled describes 0 false ∧ Reads describes [1] [0x2800] [] ∧
      (∀ md ∈ [(0 : BitVec 8), 3], WellFormed (.attnInit ⟨0, false, 0, 1, 0, 0, 0, md⟩) = true) ∧ (me describes).hasClaim = true ∧
      rowsUnmapped describes (loneView describes 0 [0x2800]) 64 [0x2800] = none ∧
      ∃ t locs d, placeRows describes .load 64 describes [0x2800] = some (t, locs) ∧
        d = (chunks 8 8 (readLocs t locs)).map (fun b => word (leNat b)) ∧ attnBad d = false ∧
        (∀ e ∈ (attnOf d).extents, unmapped t (tileOf describes.cur) (me describes).asid.toNat e.1 e.2 = none) ∧ d = attn32) ∧
    (∀ b ∈ [(0 : BitVec 9), 2, 3], ∀ i ∈ [Instr.attnQk (at_ b), .attnSmx (at_ b), .attnPv (at_ b)], WellFormed i = true) ∧
    (∀ r ∈ [(0 : BitVec 9), 2, 3], ∀ run : Bool, Reads (attends run) [0, r] [0, readX (me (attends run)) r.toNat] []) ∧
    (∀ run : Bool, Ready (attends run) ∧ Enabled (attends run) 0 false ∧ (me (attends run)).hasClaim = true ∧ (me (attends run)).attn = some attn32 ∧
      (∀ op ∈ [0x9C, 0x9D, 0x9E],
        (if (me (attends run)).attnRun || ((me (attends run)).kvAct && (me (attends run)).kvOp == op) then (me (attends run)).kvPosn else 0) = 0) ∧
      (me (attends run)).attnRun = run ∧ (if (me (attends run)).attnRun then (me (attends run)).attnEnd else 16) = 16) ∧
    -- at the end of the range; a range of one step; one of two
    ((17 : Word).toNat ≤ (attnOf attn32).npos ∧ stepEnd (attnOf attn32) 0 16 = 16 ∧ stepEnd (attnOf attn32) 0 17 = 16 ∧
      (me (attends true)).answered.contains .kv = true ∧
      (∃ t, qkStep stepping attnEng (attnOf attn32) 0 16 = .done t) ∧ (∃ t, smxStep stepping attnEng (attnOf attn32) 0 16 = .done t) ∧
      ∃ t, pvStep stepping attnEng (attnOf attn32) 0 16 = .done t) := by
  refine ⟨⟨⟨by decide, rfl⟩, rfl, rfl, by decide, rfl, rfl, _, _, _, rfl, rfl, by decide, ?_, by decide⟩, by decide, ?_, ?_, ?_⟩
  · intro e he
    simp only [AttnDesc.extents, List.mem_cons, List.not_mem_nil, or_false] at he
    rcases he with rfl | rfl | rfl | rfl <;> rfl
  · simp only [List.forall_mem_cons, List.not_mem_nil, false_imp_iff, implies_true, and_true]
    exact ⟨fun run => by cases run <;> rfl, fun run => by cases run <;> rfl, fun run => by cases run <;> rfl⟩
  · intro run
    cases run <;> exact ⟨⟨by decide, rfl⟩, rfl, rfl, rfl, by decide, rfl, rfl⟩
  · exact ⟨by decide, by decide, by decide, rfl, attn_qk, attn_smx, attn_pv⟩

end Sys2Proof.Tests
end

