-- ==== Sys2Proof/Tests/WitnessTask.lean ====
section
/-! SUPPORT. Witnesses: states and operands that meet the hypotheses of the statements about contexts, claims, tasks and launches. -/
set_option maxRecDepth 100000
namespace Sys2Proof.Tests
open Sys2Proof Sys2Proof.Machine Sys2Proof.Safety

/-! ## Contexts -/

/-- Contexts 0 and 1 of a launch, context n issuing; x1 to x3 of each, helper 1 in a phase. -/
def helped (n : Nat) (p : Phase) (x1 x2 : Word) : State :=
  { scratchWith (fun c => { c with x := [(1, x1), (2, x2), (3, 77)] }) with
    cur := n
    ctxs := [(0, { ctx0 with asid := 7, x := [(1, x1), (2, x2), (3, 77)] }), (1, { ctx0 with phase := p, asid := 7, x := [(1, x1)] })] }
/-- What the statements ask of a state for an operation on x1, x2 and x3. -/
abbrev Three (s : State) (a b c : Word) : Prop := Ready s ∧ Enabled s 0 false ∧ Reads s [1, 2, 3] [a, b, c] []
/-- And for one on x1. -/
abbrev Only (s : State) (a : Word) : Prop := Ready s ∧ Enabled s 0 false ∧ Reads s [1] [a] []

/-- A message in mailbox 3. -/
def mailed : State := scratchWith fun c => { c with mb := [(3, ⟨[⟨1, 2, 3⟩], []⟩)] }
/-- Device time 100 and a deadline in x1. -/
def timed (d : Word) : State := { scratchWith (fun c => { c with x := [(1, d)] }) with time := 100 }

theorem meets_ContextResults :
    (WellFormed (.hstart (r3 5 1 2 3)) = true ∧ (∀ s, Room s 5) ∧
      (Ready (helped 1 .live 1 0) ∧ Enabled (helped 1 .live 1 0) 0 false ∧ Reads (helped 1 .live 1 0) [1, 2, 3] [1, 0, 0] [] ∧
        (helped 1 .live 1 0).cur % 16 ≠ 0) ∧
      (Three (helped 0 .free 16 0) 16 0 77 ∧ (helped 0 .free 16 0).cur % 16 = 0 ∧ (16 : Word).toNat % 16 = 0) ∧
      (Three (helped 0 .reaped 1 0) 1 0 77 ∧ (1 : Word).toNat % 16 ≠ 0 ∧ (ctxOf (helped 0 .reaped 1 0) 1).phase ≠ .free) ∧
      (Three (helped 0 .free 17 0) 17 0 77 ∧ Three (helped 0 .free 17 0x5000) 17 0x5000 77 ∧ (17 : Word).toNat % 16 = 1 ∧
        (ctxOf (helped 0 .free 17 0) 1).phase = .free ∧ launchOf (helped 0 .free 17 0) 1 = some launch7 ∧
        launchOf (helped 0 .free 17 0x5000) 1 = some launch7)) ∧
    (WellFormed (.hreap (r3 5 1 0 0)) = true ∧ WellFormed (.hreap { r3 5 1 0 0 with md := 1 }) = true ∧
      (∀ p ∈ [Phase.reaped, .free, .parked], Only (helped 0 p 1 0) 1 ∧ (ctxOf (helped 0 p 1 0) 1).phase = p)) ∧
    (WellFormed (.hstat (r3 5 1 0 0)) = true ∧ Only (helped 0 .parked 16 0) 16 ∧ Only (helped 0 .parked 15 0) 15) ∧
    ((∀ md ∈ [(0 : BitVec 8), 0x80, 0xF0], WellFormed (.sleep { r3 0 1 0 0 with md := md }) = true) ∧
      (Only (timed 0) 0 ∧ (0 : BitVec 8).toNat / 16 % 16 = 0) ∧
      (Only mailed 5 ∧ (8 : Nat).testBit 3 = true ∧ (getMb (me mailed) 3).msgs ≠ []) ∧
      (Only (timed 100) 100 ∧ (100 : Word).toNat ≤ (timed 100).time) ∧
      (Only (timed 101) 101 ∧ (timed 101).time < (101 : Word).toNat ∧ ∀ k, k < 4 → (getMb (me (timed 101)) k).msgs = [] ∧ (getMb (me (timed 101)) k).refs = [])) ∧
    (WellFormed (.hend { r3 0 0 0 0 with md := 2 }) = true ∧ (helped 1 .live 1 0).cur % 16 ≠ 0 ∧
      helpersDone (helped 0 .reaped 1 0) 0 = true ∧ helpersDone (helped 0 .parked 1 0) 0 = false) := by
  refine ⟨⟨by decide, fun s h _ => absurd h (by decide), ⟨⟨by decide, rfl⟩, rfl, rfl, by decide⟩, ⟨⟨⟨by decide, rfl⟩, rfl, rfl⟩, by decide, by decide⟩,
    ⟨⟨⟨by decide, rfl⟩, rfl, rfl⟩, by decide, by decide⟩,
    ⟨⟨⟨by decide, rfl⟩, rfl, rfl⟩, ⟨⟨by decide, rfl⟩, rfl, rfl⟩, by decide, rfl, rfl, rfl⟩⟩, ⟨by decide, by decide, ?_⟩,
    ⟨by decide, ⟨⟨by decide, rfl⟩, rfl, rfl⟩, ⟨⟨by decide, rfl⟩, rfl, rfl⟩⟩,
    ⟨by decide, ⟨⟨⟨by decide, rfl⟩, rfl, rfl⟩, by decide⟩, ⟨⟨⟨by decide, rfl⟩, rfl, rfl⟩, by decide, by decide⟩,
      ⟨⟨⟨by decide, rfl⟩, rfl, rfl⟩, by decide⟩, ⟨⟨⟨by decide, rfl⟩, rfl, rfl⟩, by decide, by decide⟩⟩, by decide, by decide, rfl, rfl⟩
  simp only [List.forall_mem_cons, List.not_mem_nil, false_imp_iff, implies_true, and_true]
  exact ⟨⟨⟨⟨by decide, rfl⟩, rfl, rfl⟩, rfl⟩, ⟨⟨⟨by decide, rfl⟩, rfl, rfl⟩, rfl⟩, ⟨⟨⟨by decide, rfl⟩, rfl, rfl⟩, rfl⟩⟩

/-! ## Claims -/

/-- Context 0 with a claim, and k other contexts of the tile with one each. -/
def claimants (own : Option Claim) (k : Nat) (c : Claim) : State :=
  { scratchWith id with ctxs := (0, { ctx0 with asid := 7, claim := own }) :: (List.range k).map fun i => (i + 1, { ctx0 with claim := some c }) }
/-- A sealed launch. -/
def sealedState : State :=
  { claimants none 0 ⟨.held, 8, 8, 8, false, 0, 0⟩ with
    launches := [(1, { launch7 with recd := (List.replicate 5 0) ++ [0x700, 0, 0, 0, 0x100000000] ++ List.replicate 6 0 })] }
/-- Others with a claim of 8 lanes each; two with 64; a claim of the context's own. -/
def sixteen : State := claimants none 16 ⟨.held, 8, 8, 8, false, 0, 0⟩
def fifteen : State := claimants none 15 ⟨.held, 8, 8, 8, false, 0, 0⟩
def taken : State := claimants none 2 ⟨.held, 8, 64, 64, false, 0, 0⟩
def holding : State := claimants (some ⟨.held, 8, 64, 8, false, 0, 0⟩) 1 ⟨.held, 8, 8, 8, false, 0, 0⟩
/-- The other claims of tile 0, and its free lanes. -/
def others0 (s : State) : List (Nat × Claim) := (tileClaims s 0).filter fun e => e.1 != 0
def free0 (s : State) : Nat := 128 - ((tileClaims s 0).map fun e => if e.2.phase = .saved then 0 else e.2.lanes).sum
/-- What the statement asks of a state. -/
abbrev Claiming (s : State) : Prop := Ready s ∧ Enabled s 0 false ∧ (me s).answered = []
theorem claiming_refused : (Claiming sealedState ∧ isSealed sealedState 0 = true ∧ 8 ≠ 64) ∧
    (Claiming sixteen ∧ isSealed sixteen 0 = false ∧ 16 ≤ (others0 sixteen).length) ∧
    (Claiming fifteen ∧ isSealed fifteen 0 = false ∧ 128 < ((others0 fifteen).map fun e => e.2.floor).sum + 64) :=
  ⟨⟨⟨⟨by decide, rfl⟩, rfl, rfl⟩, rfl, by decide⟩, ⟨⟨⟨by decide, rfl⟩, rfl, rfl⟩, rfl, by decide⟩,
   ⟨⟨⟨by decide, rfl⟩, rfl, rfl⟩, rfl, by decide⟩⟩
theorem claiming_taken : (Claiming taken ∧ isSealed taken 0 = false ∧ (others0 taken).length < 16 ∧ ((others0 taken).map fun e => e.2.floor).sum + 8 ≤ 128 ∧
    (me taken).claim = none ∧ free0 taken < 8) := ⟨⟨⟨by decide, rfl⟩, rfl, rfl⟩, rfl, by decide, by decide, rfl, by decide⟩
theorem claiming_held : (Claiming holding ∧ (me holding).hasClaim = true ∧ WellFormed (.vgrow ⟨0, false, 63, 0, 0⟩) = true ∧
      (me holding).claim = some ⟨.held, 8, 64, 8, false, 0, 0⟩ ∧ isSealed holding 0 = false ∧
      (tileClaims holding 0).all (fun e => e.2.phase != .waiting) = true ∧
      WellFormed (.vrel (r3 0 0 0 0)) = true ∧ Room holding 5 ∧ WellFormed (.vstat (r3 5 0 0 0)) = true) :=
  ⟨⟨⟨by decide, rfl⟩, rfl, rfl⟩, rfl, by decide, rfl, rfl, by decide, by decide, fun h _ => absurd h (by decide), by decide⟩
theorem claiming_last : (others0 fifteen).length < 16 ∧ ((others0 fifteen).map fun e => e.2.floor).sum + 8 ≤ 128 ∧ (me fifteen).claim = none ∧
    8 ≤ free0 fifteen ∧ (tileClaims fifteen 0).all (fun e => e.2.phase != .waiting) = true := ⟨by decide, by decide, rfl, by decide, by decide⟩
-- floor 8 with ceiling 64, and floor and ceiling 64; the last eight lanes free; none free
theorem meets_ClaimResults :
    (∀ i ∈ [Instr.vclaim ⟨0, false, 63, 0, 0x4008⟩, .vclaim ⟨0, false, 63, 0, 0x4040⟩], WellFormed i = true) ∧ (63 : BitVec 9).toNat < 64 ∧
    ((Claiming sealedState ∧ isSealed sealedState 0 = true ∧ 8 ≠ 64) ∧
      (Claiming sixteen ∧ isSealed sixteen 0 = false ∧ 16 ≤ (others0 sixteen).length) ∧
      (Claiming fifteen ∧ isSealed fifteen 0 = false ∧ 128 < ((others0 fifteen).map fun e => e.2.floor).sum + 64)) ∧
    ((others0 fifteen).length < 16 ∧ ((others0 fifteen).map fun e => e.2.floor).sum + 8 ≤ 128 ∧ (me fifteen).claim = none ∧ 8 ≤ free0 fifteen ∧
      (tileClaims fifteen 0).all (fun e => e.2.phase != .waiting) = true) ∧
    (Claiming taken ∧ isSealed taken 0 = false ∧ (others0 taken).length < 16 ∧ ((others0 taken).map fun e => e.2.floor).sum + 8 ≤ 128 ∧
      (me taken).claim = none ∧ free0 taken < 8) ∧
    (Claiming holding ∧ (me holding).hasClaim = true ∧ WellFormed (.vgrow ⟨0, false, 63, 0, 0⟩) = true ∧
      (me holding).claim = some ⟨.held, 8, 64, 8, false, 0, 0⟩ ∧ isSealed holding 0 = false ∧
      (tileClaims holding 0).all (fun e => e.2.phase != .waiting) = true ∧
      WellFormed (.vrel (r3 0 0 0 0)) = true ∧ Room holding 5 ∧ WellFormed (.vstat (r3 5 0 0 0)) = true) :=
  ⟨by decide, by decide, claiming_refused, claiming_last, claiming_taken, claiming_held⟩

/-! ## Tasks -/

/-- Three operands, k tasks in the deque of spindle 0, r ranges in the tile, dwords in the stash, and a task name. -/
def tasks (x1 x2 x3 : Word) (k r : Nat) (ws : List Word) (name : Word) : State :=
  let s := scratchWith fun c => { c with x := [(1, x1), (2, x2), (3, x3)], taskn := name }
  { s with
    tiles := s.tiles.map fun e => (e.1, { e.2 with stash := smSetList 0 [] 0 (ws.flatMap fun w => leBytes 8 w.toNat)
                                                   ranges := List.replicate r ⟨0, 0, 256, true⟩ })
    spindles := [(0, { deque := List.replicate k ⟨0x6000, 1, 0x1000, 5⟩ })] }
theorem meets_TaskResults :
    (let s := tasks 0x5000 9 0x10F8 31 256 [] 5
     Three s 0x5000 9 0x10F8 ∧ Room s 5 ∧ isSealed s 0 = false ∧ launchOf s 0 = some launch7 ∧ WellFormed (.fork (r3 5 1 2 3)) = true ∧
       (0x10F8 : Word).toNat % 8 = 0 ∧ dequesFull launch7 (spinAt s 0) = false ∧ (tileAt s 0).ranges.length ≤ 256 ∧
       ∃ t locs, Placed s false .amo true 0x10F8 8 t locs ∧
         (spinAt (storeLocs t locs (leBytes 8 ((leNat (readLocs t locs) + 1) % 2 ^ 64))) 0).deque.length < 32) ∧
    (let s := tasks 0x5000 9 0x10F8 32 0 [] 5
     Three s 0x5000 9 0x10F8 ∧ launchOf s 0 = some launch7 ∧ dequesFull launch7 (spinAt s 0) = true) ∧
    (let s := tasks 0x5000 9 0x10F8 0 257 [] 5
     Three s 0x5000 9 0x10F8 ∧ launchOf s 0 = some launch7 ∧ 256 < (tileAt s 0).ranges.length) ∧
    -- one range of 255 other entries
    (let s := tasks 0x5000 9 0x1000 31 255 [0x10F8, 1, 0x2000, 1] 5
     Three s 0x5000 9 0x1000 ∧ isSealed s 0 = false ∧ launchOf s 0 = some launch7 ∧ WellFormed (.forkR (r3 5 1 2 3)) = true ∧
       (0x1000 : Word).toNat % 16 = 0 ∧ dequesFull launch7 (spinAt s 0) = false ∧ unmapped s 0 7 0x1000 16 = none ∧
       ∃ h bs rs locs, Placed s false .load false 0x1000 16 s h ∧ leNat ((readLocs s h).drop 8) = 1 ∧
         word (leNat ((readLocs s h).take 8)) = 0x10F8 ∧ unmapped s 0 7 0x1010 16 = none ∧
         access s (homeReq s .load false false) 0x1010 16 = .ok s bs ∧
         allSome ((chunks 16 1 (readLocs s bs)).map rangeOf) = some rs ∧ (tileAt s 0).ranges.length + rs.length ≤ 256 ∧
         access s (homeReq s .amo true false) 0x10F8 8 = .ok s locs ∧
         (spinAt (storeLocs s locs (leBytes 8 ((leNat (readLocs s locs) + 1) % 2 ^ 64))) 0).deque.length < 32) ∧
    (WellFormed (.jtest (r3 5 1 0 0)) = true ∧ WellFormed (.join (r3 0 1 0 0)) = true ∧ (0x1000 : Word).toNat % 8 = 0) ∧
    (let s := tasks 0x1000 9 0 0 0 [0] 5
     Only s 0x1000 ∧ Room s 5 ∧ ∃ locs, Placed s false .load true 0x1000 8 s locs ∧ leNat (readLocs s locs) = 0) ∧
    (let s := tasks 0x1000 9 0 0 0 [2] 5
     Only s 0x1000 ∧ ∃ locs, Placed s false .load true 0x1000 8 s locs ∧ leNat (readLocs s locs) ≠ 0 ∧ findTask s 0 false = .none) ∧
    (let s := tasks 0x1000 9 0 2 0 [2] 5
     Only s 0x1000 ∧ ∃ locs, Placed s false .load true 0x1000 8 s locs ∧ leNat (readLocs s locs) ≠ 0 ∧
       findTask s 0 false = .found 0 (.hw 0) ⟨0x6000, 1, 0x1000, 5⟩) ∧
    (WellFormed (.tend { r3 0 1 2 3 with md := 1 }) = true ∧ (5 : Word) ≠ BitVec.allOnes 64 ∧
      ∀ c ∈ [(0 : Word), 0x7000], ∀ name ∈ [(5 : Word), BitVec.allOnes 64],
        Three (tasks 0x1000 9 c 0 0 [2] name) 0x1000 9 c ∧ (me (tasks 0x1000 9 c 0 0 [2] name)).taskn = name ∧
        ∃ t locs, Placed (tasks 0x1000 9 c 0 0 [2] name) false .amo true 0x1000 8 t locs) := by
  refine ⟨⟨⟨⟨by decide, rfl⟩, rfl, rfl⟩, fun h _ => absurd h (by decide), rfl, rfl, by decide, by decide, by decide, by decide, _, _, rfl, by decide⟩,
    ⟨⟨⟨by decide, rfl⟩, rfl, rfl⟩, rfl, by decide⟩, ⟨⟨⟨by decide, rfl⟩, rfl, rfl⟩, rfl, by decide⟩,
    ⟨⟨⟨by decide, rfl⟩, rfl, rfl⟩, rfl, rfl, by decide, by decide, by decide, rfl, _, _, _, _, rfl, rfl, rfl, rfl, rfl, rfl, by decide, rfl, by decide⟩,
    ⟨by decide, by decide, by decide⟩, ⟨⟨⟨by decide, rfl⟩, rfl, rfl⟩, fun h _ => absurd h (by decide), _, rfl, rfl⟩,
    ⟨⟨⟨by decide, rfl⟩, rfl, rfl⟩, _, rfl, by decide, rfl⟩, ⟨⟨⟨by decide, rfl⟩, rfl, rfl⟩, _, rfl, by decide, rfl⟩, by decide, by decide, ?_⟩
  simp only [List.forall_mem_cons, List.not_mem_nil, false_imp_iff, implies_true, and_true]
  exact ⟨⟨⟨⟨⟨by decide, rfl⟩, rfl, rfl⟩, rfl, _, _, rfl⟩, ⟨⟨⟨by decide, rfl⟩, rfl, rfl⟩, rfl, _, _, rfl⟩⟩,
    ⟨⟨⟨⟨by decide, rfl⟩, rfl, rfl⟩, rfl, _, _, rfl⟩, ⟨⟨⟨by decide, rfl⟩, rfl, rfl⟩, rfl, _, _, rfl⟩⟩⟩

/-! ## Launches and dispatch -/

/-- k records in stream D; a table at 0x1000 of one bucket, whose body is at 0x6000, installed as TBL0. -/
def tabled (k : Nat) : State :=
  let s := tasks 0x1000 0 0 0 0 [1, 0, 0, 0x6000, 7] 5
  { s with parts := s.parts.map fun e => (e.1, { e.2 with streamD := List.replicate k (.launch []) })
           ctxs := s.ctxs.map fun e => (e.1, { e.2 with tbl := [(0, 0x1000)] }) }
theorem meets_LaunchResults :
    (∀ k ∈ [63, 64], Only (tabled k) 0x1000 ∧ WellFormed (.launch (r3 5 1 0 0)) = true ∧ Room (tabled k) 5 ∧ (0x1000 : Word).toNat % 64 = 0 ∧
      ∃ locs p, Placed (tabled k) false .load false 0x1000 128 (tabled k) locs ∧ partAt (tabled k) (partOfCtx (tabled k) 0) = some p ∧
        p.streamD.length = k) ∧
    (WellFormed (.sdispTbl { r3 0 1 0 0 with md := 3 }) = true ∧ (0x1000 : Word).toNat % 8 = 0 ∧ unmapped (tabled 0) 0 7 0x1000 8 = none ∧
      ∃ h locs, Placed (tabled 0) false .load false 0x1000 8 (tabled 0) h ∧ leNat (readLocs (tabled 0) h) = 1 ∧
        unmapped (tabled 0) 0 7 0x1008 32 = none ∧ access (tabled 0) (homeReq (tabled 0) .load false false) 0x1008 32 = .ok (tabled 0) locs ∧
        (∀ e ∈ chunks 32 1 (readLocs (tabled 0) locs), leNat ((e.drop 24).take 8) / 2 ^ 16 = 0) ∧
        (∀ i, i < 4 → (smGet 0 (me (tabled 0)).shape i).toNat ≤ leNat (((readLocs (tabled 0) locs).drop (4 * i)).take 4))) ∧
    (Ready (tabled 0) ∧ Enabled (tabled 0) 0 false ∧ Room (tabled 0) 5 ∧ WellFormed (.sdisp ⟨0, false, 5, 0, 3⟩) = true ∧
      WellFormed (.sdisp ⟨0, false, 5, 0, 0⟩) = true ∧ smFind (me (tabled 0)).tbl 3 = none ∧ smFind (me (tabled 0)).tbl 0 = some 0x1000 ∧
      isSealed (tabled 0) 0 = false) := by
  refine ⟨?_, ⟨by decide, by decide, rfl, _, _, rfl, rfl, rfl, rfl, by decide, by decide⟩,
    ⟨by decide, rfl⟩, rfl, fun h _ => absurd h (by decide), by decide, by decide, rfl, rfl, rfl⟩
  simp only [List.forall_mem_cons, List.not_mem_nil, false_imp_iff, implies_true, and_true]
  exact ⟨⟨⟨⟨by decide, rfl⟩, rfl, rfl⟩, by decide, fun h _ => absurd h (by decide), by decide, _, _, rfl, rfl, rfl⟩,
    ⟨⟨⟨by decide, rfl⟩, rfl, rfl⟩, by decide, fun h _ => absurd h (by decide), by decide, _, _, rfl, rfl, rfl⟩⟩

end Sys2Proof.Tests
end

