-- ==== Sys2Proof/Tests/WitnessMessage.lean ====
section
/-! SUPPORT. Witnesses: states and operands that meet the hypotheses of the statements about channels, messages, futures and
sequences. -/
set_option maxRecDepth 100000
namespace Sys2Proof.Tests
open Sys2Proof Sys2Proof.Machine Sys2Proof.Safety

/-! ## Channels -/

/-- Context 0 with channel 15 at e and the operand 16 in x1, its peer 16 with channel 0 at pe; the peer's spindle has answered or is
dead. -/
def pair (e pe : Channel) (ph : Phase) (answered dead : Bool) : State :=
  { scratchWith id with
    ctxs := [(0, { ctx0 with asid := 7, x := [(1, 16)], ch := [(15, e)], answered := if answered then [.peer] else [] }),
             (16, { ctx0 with phase := ph, ch := [(0, pe)] })]
    spindles := [(1, { dead := dead })] }
/-- An operation on channel 15. -/
def ch15 (d a : BitVec 9) : RRR := ⟨0, false, d, a, 0, 0, 0, 15⟩
theorem meets_ChannelResults :
    (WellFormed (.chbind (ch15 5 1)) = true ∧ WellFormed (.chunbind (ch15 5 0)) = true ∧ WellFormed (.chstat (ch15 5 0)) = true ∧
      (5 : BitVec 9).toNat < 64 ∧ (16 : Word).toNat < 2 ^ 20 ∧ (16 : Word).toNat.testBit 15 = false ∧ ∀ s, Room s 5) ∧
    (Only (pair ⟨.gone, 16, 0, []⟩ Channel.none .live true false) 16 ∧ samePart (pair ⟨.gone, 16, 0, []⟩ Channel.none .live true false) 0 16 = true ∧
      (getCh (me (pair ⟨.gone, 16, 0, []⟩ Channel.none .live true false)) 15).st ≠ .unbound) ∧
    (Only (pair Channel.none Channel.none .live false false) 16 ∧ samePart (pair Channel.none Channel.none .live false false) 0 16 = true ∧
      (getCh (me (pair Channel.none Channel.none .live false false)) 15).st = .unbound ∧
      (me (pair Channel.none Channel.none .live false false)).answered.contains .peer = false) ∧
    (Only (pair Channel.none Channel.none .live true true) 16 ∧ (spinAt (pair Channel.none Channel.none .live true true) 1).dead = true ∧
      (me (pair Channel.none Channel.none .live true true)).answered.contains .peer = true) ∧
    (Only (pair Channel.none Channel.none .free true false) 16 ∧ (ctxOf (pair Channel.none Channel.none .free true false) 16).phase = .free) ∧
    (Only (pair Channel.none Channel.none .reaped true false) 16 ∧ (ctxOf (pair Channel.none Channel.none .reaped true false) 16).phase = .reaped) ∧
    (Only (pair Channel.none Channel.none .live true false) 16 ∧ (spinAt (pair Channel.none Channel.none .live true false) 1).dead = false ∧
      (ctxOf (pair Channel.none Channel.none .live true false) 16).phase = .live ∧ 16 ≠ (pair Channel.none Channel.none .live true false).cur ∧
      (getCh (ctxOf (pair Channel.none Channel.none .live true false) 16) 0).st ≠ .waiting) ∧
    (Only (pair Channel.none ⟨.waiting, 0, 15, []⟩ .parked true false) 16 ∧
      getCh (ctxOf (pair Channel.none ⟨.waiting, 0, 15, []⟩ .parked true false) 16) 0 = ⟨.waiting, 0, 15, []⟩) ∧
    (Only (pair ⟨.established, 16, 0, [4]⟩ ⟨.established, 0, 15, []⟩ .live true false) 16 ∧
      (getCh (me (pair ⟨.established, 16, 0, [4]⟩ ⟨.established, 0, 15, []⟩ .live true false)) 15).peer = 16 ∧
      (ctxOf (pair ⟨.established, 16, 0, [4]⟩ ⟨.established, 0, 15, []⟩ .live true false) 16).pend = [] ∧
      getCh (ctxOf (pair ⟨.established, 16, 0, [4]⟩ ⟨.established, 0, 15, []⟩ .live true false) 16) 0 = ⟨.established, 0, 15, []⟩) :=
  ⟨⟨by decide, by decide, by decide, by decide, by decide, by decide, fun s h _ => absurd h (by decide)⟩,
   ⟨⟨⟨by decide, rfl⟩, rfl, rfl⟩, rfl, by decide⟩, ⟨⟨⟨by decide, rfl⟩, rfl, rfl⟩, rfl, rfl, rfl⟩, ⟨⟨⟨by decide, rfl⟩, rfl, rfl⟩, rfl, rfl⟩,
   ⟨⟨⟨by decide, rfl⟩, rfl, rfl⟩, rfl⟩, ⟨⟨⟨by decide, rfl⟩, rfl, rfl⟩, rfl⟩, ⟨⟨⟨by decide, rfl⟩, rfl, rfl⟩, rfl, rfl, by decide, by decide⟩,
   ⟨⟨⟨by decide, rfl⟩, rfl, rfl⟩, rfl⟩, ⟨⟨⟨by decide, rfl⟩, rfl, rfl⟩, rfl, rfl, rfl⟩⟩

/-! ## Messages -/

/-- Context 0 with n messages unanswered, what it has received, answers, and x1 to x3 for a message to mailbox 3 of context 1. -/
def mails (n : Nat) (mb : SMap Mailbox) (as : List Answer) (handler : Bool) : State :=
  { scratchWith (fun c => { c with x := [(1, 0xF0001), (2, 5), (3, 6)], sends := n, mb := mb, answered := as, handler := handler }) with
    launches := [(1, { launch7 with handlers := [0x7000, 0x7100, 0x7200, 0x7300] })] }
theorem meets_MessageResults :
    (WellFormed (.amsend (r3 5 1 2 3)) = true ∧ WellFormed (.amsendW (r3 5 1 2 3)) = true ∧ (∀ s, Room s 5) ∧ (0xF0001 : Word).toNat < 2 ^ 20 ∧
      (0xF0001 : Word).toNat.testBit 15 = false ∧ samePart (mails 15 [] [] false) 0 1 = true) ∧
    (Three (mails 16 [] [] false) 0xF0001 5 6 ∧ 16 ≤ (me (mails 16 [] [] false)).sends) ∧
    (Three (mails 15 [] [] false) 0xF0001 5 6 ∧ (me (mails 15 [] [] false)).sends < 16 ∧ msgStatus (me (mails 15 [] [] false)).answered = none ∧
      ∀ x ∈ (mails 15 [] [] false).flights, x.src ≠ 0) ∧
    (Three (mails 0 [] [.message 4] false) 0xF0001 5 6 ∧ msgStatus (me (mails 0 [] [.message 4] false)).answered = some 4) ∧
    (∀ i ∈ [Instr.amrecv ⟨0, false, 0, 0, 15⟩, .amrecv ⟨0, false, 0, 0, 24⟩, .mbstat ⟨0, false, 5, 0, 3⟩, .amret (r3 0 1 0 0)], WellFormed i = true) ∧
    (Ready (mails 0 [] [] true) ∧ Enabled (mails 0 [] [] true) 0 false ∧ Reads (mails 0 [] [] true) [1] [0xF0001] [] ∧ (me (mails 0 [] [] true)).handler = true) ∧
    (Ready (mails 0 [] [] false) ∧ (me (mails 0 [] [] false)).handler = false ∧ (15 : BitVec 32).toNat.testBit 4 = false ∧
      (24 : BitVec 32).toNat.testBit 4 = true ∧ ∀ k < 4, (getMb (me (mails 0 [] [] false)) k).msgs = [] ∧ (getMb (me (mails 0 [] [] false)) k).refs = []) ∧
    -- a refusal before a message in mailbox 3, and a message alone
    (Ready (mails 0 [(3, ⟨[⟨1, 2, 9⟩], [⟨3, 4, 8, 1⟩]⟩)] [] false) ∧ (15 : BitVec 32).toNat.testBit 3 = true ∧
      (getMb (me (mails 0 [(3, ⟨[⟨1, 2, 9⟩], [⟨3, 4, 8, 1⟩]⟩)] [] false)) 3).refs = [⟨3, 4, 8, 1⟩] ∧
      (∀ j < 3, (getMb (me (mails 0 [(3, ⟨[⟨1, 2, 9⟩], [⟨3, 4, 8, 1⟩]⟩)] [] false)) j).msgs = [] ∧
        (getMb (me (mails 0 [(3, ⟨[⟨1, 2, 9⟩], [⟨3, 4, 8, 1⟩]⟩)] [] false)) j).refs = []) ∧
      (launchOf (mails 0 [(3, ⟨[⟨1, 2, 9⟩], [⟨3, 4, 8, 1⟩]⟩)] [] false) 0).map (fun l => l.handlers.getD 3 0) = some 0x7300) ∧
    (Ready (mails 0 [(0, ⟨[⟨1, 2, 9⟩], []⟩)] [] false) ∧ (getMb (me (mails 0 [(0, ⟨[⟨1, 2, 9⟩], []⟩)] [] false)) 0).refs = [] ∧
      (getMb (me (mails 0 [(0, ⟨[⟨1, 2, 9⟩], []⟩)] [] false)) 0).msgs = [⟨1, 2, 9⟩]) :=
  ⟨⟨by decide, by decide, fun s h _ => absurd h (by decide), by decide, by decide, rfl⟩, ⟨⟨⟨by decide, rfl⟩, rfl, rfl⟩, by decide⟩,
   ⟨⟨⟨by decide, rfl⟩, rfl, rfl⟩, by decide, rfl, by decide⟩, ⟨⟨⟨by decide, rfl⟩, rfl, rfl⟩, rfl⟩, by decide, ⟨⟨by decide, rfl⟩, rfl, rfl, rfl⟩,
   ⟨⟨by decide, rfl⟩, rfl, by decide, by decide, by decide⟩, ⟨⟨by decide, rfl⟩, by decide, rfl, by decide, rfl⟩, ⟨⟨by decide, rfl⟩, rfl, rfl⟩⟩

/-! ## Futures -/

/-- A future of context 0 in a state. -/
def fut0 (st : FutSt) : Fut := ⟨st, 0, 77, 1000, 0, some 0, none, 3, 0, 0, 0, 0⟩
/-- Partition 0 with futures 0 and 1 and adapters, slots and sequences; the Chuck has answered; x1 to x3, dwords in the stash. -/
def chucked (x1 x2 x3 : Word) (ws : List Word) (fs : SMap Fut) (qs : SMap Seq) : State :=
  let s := scratchWith fun c => { c with x := [(1, x1), (2, x2), (3, x3)], answered := [.chuck] }
  { s with
    tiles := s.tiles.map fun e => (e.1, { e.2 with stash := smSetList 0 [] 0 (ws.flatMap fun w => leBytes 8 w.toNat) })
    parts := s.parts.map fun e => (e.1, { e.2 with conf := { e.2.conf with futN := 2, seqN := 16, adpN := 8, slotN := 1024 } })
    futs := fs, seqs := qs, resident := [0] }
/-- What the statements ask of the context. -/
abbrev Answered (s : State) : Prop := Ready s ∧ Enabled s 0 false ∧ Room s 5 ∧ (me s).answered.contains .chuck = true
theorem answered_of (x1 x2 x3 : Word) (ws : List Word) (fs : SMap Fut) (qs : SMap Seq) : Answered (chucked x1 x2 x3 ws fs qs) :=
  ⟨⟨rfl, rfl⟩, rfl, fun h _ => absurd h (by decide), rfl⟩
theorem meets_FutureResults :
    (WellFormed (.fcall (r3 5 1 2 0)) = true ∧ (0x1000 : Word).toNat % 64 = 0 ∧ (0xFFFFFFFFFF : Word).toNat < 2 ^ 40) ∧
    -- the second future free, and none
    (∀ fs ∈ [[(0, fut0 .opened)], [(0, fut0 .opened), (1, fut0 (.ended 3))]],
      Answered (chucked 0x1000 0xFFFFFFFFFF 0 [5] fs []) ∧ Reads (chucked 0x1000 0xFFFFFFFFFF 0 [5] fs []) [1, 2] [0x1000, 0xFFFFFFFFFF] [] ∧
      ∃ locs p, Placed (chucked 0x1000 0xFFFFFFFFFF 0 [5] fs []) false .load false 0x1000 64 (chucked 0x1000 0xFFFFFFFFFF 0 [5] fs []) locs ∧
        callBad (readLocs (chucked 0x1000 0xFFFFFFFFFF 0 [5] fs []) locs) = false ∧
        partAt (chucked 0x1000 0xFFFFFFFFFF 0 [5] fs []) 0 = some p ∧ p.conf.futLo = 0 ∧ p.conf.futN = 2) ∧
    futAt (chucked 0x1000 0xFFFFFFFFFF 0 [5] [(0, fut0 .opened)] []) 1 = none ∧
    (∀ i < 2, futAt (chucked 0x1000 0xFFFFFFFFFF 0 [5] [(0, fut0 .opened), (1, fut0 (.ended 3))] []) i ≠ none) ∧
    (∀ i ∈ [Instr.fwait (r3 5 1 0 0), .fpoll (r3 5 1 0 0), .fdrop (r3 5 1 0 0)], WellFormed i = true) ∧
    (Answered (chucked 1 0 0 [] [(1, fut0 (.ended 3))] []) ∧ Reads (chucked 1 0 0 [] [(1, fut0 (.ended 3))] []) [1] [1] [] ∧
      ownFut (chucked 1 0 0 [] [(1, fut0 (.ended 3))] []) 0 1 = some (fut0 (.ended 3))) ∧
    (Answered (chucked 1 0 0 [] [(1, fut0 (.taken 0))] []) ∧ ownFut (chucked 1 0 0 [] [(1, fut0 (.taken 0))] []) 0 1 = some (fut0 (.taken 0))) ∧
    (Answered (chucked 1 0 0 [] [] []) ∧ Reads (chucked 1 0 0 [] [] []) [1] [1] [] ∧ ownFut (chucked 1 0 0 [] [] []) 0 1 = none) := by
  refine ⟨by decide, ?_, rfl, by decide, by decide, ⟨answered_of .., rfl, rfl⟩, ⟨answered_of .., rfl⟩, ⟨answered_of .., rfl, rfl⟩⟩
  simp only [List.forall_mem_cons, List.not_mem_nil, false_imp_iff, implies_true, and_true]
  exact ⟨⟨answered_of .., rfl, _, _, rfl, rfl, rfl, rfl, rfl⟩, ⟨answered_of .., rfl, _, _, rfl, rfl, rfl, rfl, rfl⟩⟩

/-! ## Sequences and adapters -/

/-- A sequence of partition 0 with three tokens to fill, held by a context or not. -/
def seq0 (st : SeqSt) (h : Option Nat) : Seq := ⟨st, 0, some 0, 5, ⟨0x8000, 4, 2, 3⟩, ⟨0x9000, 4, 0, 0⟩, none, h, true, 9, 1, false⟩
/-- Two sequences, of which sequence 3 has tokens to fill. -/
def batched (x1 x2 x3 : Word) (ws : List Word) (h : Option Nat) : State := chucked x1 x2 x3 ws [] [(3, seq0 .prefill h)]
theorem meets_SequenceResults :
    (WellFormed (.sqBatch (r3 5 1 2 3)) = true ∧ Answered (batched 0x1000 2 3 [] none) ∧ Reads (batched 0x1000 2 3 [] none) [1, 2, 3] [0x1000, 2, 3] [] ∧
      unmapped (batched 0x1000 2 3 [] none) 0 7 0x1000 32 = none ∧
      (∃ locs, Placed (batched 0x1000 2 3 [] none) false .store false 0x1000 32 (batched 0x1000 2 3 [] none) locs) ∧
      ∃ u rows, selectSeqs (batched 0x1000 2 3 [] none) 0 2 (batchable (batched 0x1000 2 3 [] none) 0 3) [] = (u, rows) ∧ rows.length = 1) ∧
    (WellFormed (.sqPfq (r3 5 1 2 3)) = true ∧ Answered (batched 3 0x1000 65536 [] (some 0)) ∧
      Reads (batched 3 0x1000 65536 [] (some 0)) [1, 2, 3] [3, 0x1000, 65536] [] ∧
      seqAt (batched 3 0x1000 65536 [] (some 0)) 3 = some (seq0 .prefill (some 0)) ∧
      partOfCtx (batched 3 0x1000 65536 [] (some 0)) 0 = 0 ∧ unmapped (batched 3 0x1000 65536 [] (some 0)) 0 7 0x1000 12 = none ∧
      (∃ locs, Placed (batched 3 0x1000 65536 [] (some 0)) false .store false 0x1000 12 (batched 3 0x1000 65536 [] (some 0)) locs) ∧
      (∀ x ∈ (List.range 3).map fun i => 0x8000 + 4 * ((2 + i) % Nat.max 4 1), homeConflict (batched 3 0x1000 65536 [] (some 0)) (x / 128) false = false) ∧
      (∃ bs, readTokens (batched 3 0x1000 65536 [] (some 0)) 0 ((List.range 3).map fun i => 0x8000 + 4 * ((2 + i) % Nat.max 4 1)) = .ok bs) ∧
      Reads (batched 4 0x1000 1 [] none) [1, 2, 3] [4, 0x1000, 1] [] ∧ seqAt (batched 4 0x1000 1 [] none) 4 = none) ∧
    (WellFormed (.adpClaim (r3 5 1 2 3)) = true ∧ Answered (chucked 1023 0 8 [] [] []) ∧ Reads (chucked 1023 0 8 [] [] []) [1, 2, 3] [1023, 0, 8] [] ∧
      (∃ p, partAt (chucked 1023 0 8 [] [] []) 0 = some p ∧ ownsSlot p 1023 = true ∧ ownerOk p 0 = true ∧ ownerOk p 8 = true ∧ ownerOk p 1 = true) ∧
      smGet 0 (chucked 1023 0 8 [] [] []).owners 1023 = 0 ∧ Reads (chucked 1023 1 8 [] [] []) [1, 2, 3] [1023, 1, 8] [] ∧
      smGet 0 (chucked 1023 1 8 [] [] []).owners 1023 ≠ 1) ∧
    (WellFormed (.sqEmit (r3 5 1 2 0)) = true ∧ Answered (batched 0x1000 1 0 [0x500000003] (some 0)) ∧
      Reads (batched 0x1000 1 0 [0x500000003] (some 0)) [1, 2] [0x1000, 1] [] ∧
      unmapped (batched 0x1000 1 0 [0x500000003] (some 0)) 0 7 0x1000 16 = none ∧
      ∃ locs, Placed (batched 0x1000 1 0 [0x500000003] (some 0)) false .amo false 0x1000 16 (batched 0x1000 1 0 [0x500000003] (some 0)) locs ∧
        (List.range 1).map (fun i => leNat (((readLocs (batched 0x1000 1 0 [0x500000003] (some 0)) locs).drop (16 * i)).take 8)) = [0x500000003] ∧
        ((0x500000003 : Nat) / 2 ^ 22 % 2 ^ 10 = 0 ∧ ((0x500000003 : Nat).testBit 20 && (0x500000003 : Nat).testBit 21) = false) ∧
        emitWaits (batched 0x1000 1 0 [0x500000003] (some 0)) 0 [0x500000003] = [] ∧ ∃ u sts, emitRows (batched 0x1000 1 0 [0x500000003] (some 0)) 0 [0x500000003] = (u, sts)) ∧
    (WellFormed (.adpBind (r3 5 1 0 0)) = true ∧
      let s := chucked 0x1000 0 0 [1, 0, 0, 0, 0, 0, 0, 0, 0x1003FF, 0x4000000020, 0, 0, 0x2000, 0x3000, 0, 0] [] []
      Answered s ∧ Reads s [1] [0x1000] [] ∧ ∃ locs rlocs p, Placed s false .load false 0x1000 8 s locs ∧ leNat (readLocs s locs) = 1 ∧
        access s (homeReq s .load false false) 0x1040 64 = .ok s rlocs ∧ partAt s 0 = some p ∧
        (∀ r ∈ chunks 64 1 (readLocs s rlocs), expertBad p r = false) ∧ expertClash s ((chunks 64 1 (readLocs s rlocs)).map expertRec) = none ∧
        (∀ e ∈ (chunks 64 1 (readLocs s rlocs)).map expertRec, slotPinned s 0 e.1 = false) ∧ (me s).answered = [.chuck]) := by
  refine ⟨⟨by decide, answered_of .., rfl, rfl, ⟨_, rfl⟩, _, _, rfl, ?_⟩,
    ⟨by decide, answered_of .., rfl, rfl, rfl, rfl, ⟨_, rfl⟩, by decide, ⟨_, rfl⟩, rfl, rfl⟩, ⟨by decide, answered_of .., rfl, ⟨_, rfl, by decide⟩, rfl, rfl, by decide⟩,
    ⟨by decide, answered_of .., rfl, rfl, _, rfl, ?_, by decide, rfl, _, _, rfl⟩, ⟨by decide, answered_of .., rfl, _, _, _, rfl, ?_, rfl, rfl, ?_, ?_, ?_, rfl⟩⟩
  all_goals first | rfl | decide

end Sys2Proof.Tests
end

