-- ==== Sys2Proof/Tests/WitnessService.lean ====
section
/-! SUPPORT. Witnesses: states and operands that meet the hypotheses of the statements about traps, service, translations and saves. -/
set_option maxRecDepth 100000
namespace Sys2Proof.Tests
open Sys2Proof Sys2Proof.Machine Sys2Proof.Safety

/-! ## Traps and the return -/

theorem meets_TrapsAndReturns :
    (Ready live ∧ (me live).svc = false ∧ Ready inService ∧ (me inService).svc = true ∧ Enabled live 0 false ∧ Enabled inService 0 false ∧
      (∀ i ∈ [Instr.trap ⟨0, false, 0, 0xFFFF⟩, .trap ⟨0, false, 0, 0⟩, .bkpt ⟨0, false, 0, 0xFFFF⟩, .rfs (r3 0 0 0 0)], WellFormed i = true) ∧
      (me inService).reqs = [] ∧ ∀ k, (me inService).claim = some k → k.reclaim = false) ∧
    (∀ kind ∈ [1, 6, 7], 0 < kind ∧ kind < 8) ∧
    ((ctxOf live 0).pend = [] ∧ (∀ k, (ctxOf live 0).claim = some k → k.reclaim = false) ∧ (ctxOf live 0).attnRun = false) ∧
    ((me inService).idle = .no ∧ (me inService).wait = .nothing) :=
  ⟨⟨live_ready, rfl, inService_ready, rfl, rfl, rfl, by decide, rfl, fun _ h => by cases h; rfl⟩, by decide,
   ⟨rfl, fun _ h => by cases h; rfl, rfl⟩, ⟨rfl, rfl⟩⟩

/-! ## Service operations -/

/-- Context 0 in service with x1 to x3; context 1 in a phase; a stopped Tensor command of context 0, dwords in the stash. -/
def serving (x1 x2 x3 : Word) (p : Phase) (stop : Option StopRec) (ws : List Word) : State :=
  let s := scratchWith id
  { s with
    ctxs := [(0, { ctx0 with phase := .inService, svc := true, asid := 7, x := [(1, x1), (2, x2), (3, x3)], answered := [.home], heldAt := 1 }),
             (1, { ctx0 with phase := p })]
    tiles := s.tiles.map fun e => (e.1, { e.2 with stash := smSetList 0 [] 0 (ws.flatMap fun w => leBytes 8 w.toNat), dsize := 4
                                                   tensor := { cmds := [cmd0], stop := stop } }) }
/-- What the statements ask of the context. -/
abbrev Serving (s : State) (a b c : Word) : Prop := Three s a b c ∧ Only s a ∧ (me s).svc = true ∧ Room s 5 ∧ Reads s [1, 2] [a, b] [] ∧ Reads s [2] [b] []
theorem serving_of (a b c : Word) (p : Phase) (st : Option StopRec) (ws : List Word) : Serving (serving a b c p st ws) a b c :=
  ⟨⟨⟨rfl, rfl⟩, rfl, rfl⟩, ⟨⟨rfl, rfl⟩, rfl, rfl⟩, rfl, fun h _ => absurd h (by decide), rfl, rfl⟩


theorem service_pctl :
    (∀ i ∈ [Instr.pctlQrec ⟨0, false, 5, 1, 0xA00⟩, .pctlQskip ⟨0, false, 5, 1, 0xA01⟩, .pctlQrec ⟨0, false, 5, 1, 0⟩,
      .pctlQskip ⟨0, false, 5, 1, 1⟩, .pctlPost ⟨0, false, 5, 1, 2⟩, .pctlPark ⟨0, false, 5, 1, 3⟩], WellFormed i = true) ∧
    (∀ a ∈ [(0 : Word), 1, 2, 4, 5], Serving (serving a 0 0 .live none []) a 0 0) ∧
    (Serving (serving 0 0 0 .live (some ⟨1, 0, 0⟩) []) 0 0 0 ∧ (queueAt (serving 0 0 0 .live (some ⟨1, 0, 0⟩) []) 0 0).stop ≠ none ∧
      (queueAt (serving 0 0 0 .live (some ⟨1, 0, 0⟩) []) 0 0).cmds = cmd0 :: [] ∧ cmd0.ctx = 0) ∧
    ((queueAt (serving 0 0 0 .live none []) 0 0).stop = none ∧ (queueAt (serving 0 0 0 .live none []) 0 10).stop = none) :=
  ⟨by decide, fun _ _ => serving_of .., ⟨serving_of .., by decide, rfl, rfl⟩, rfl, rfl⟩

-- the issuing context's own number and 16, then context 1 free, reaped and in a state to be killed
theorem service_ctxkill : WellFormed (.ctxkill (r3 5 1 0 0)) = true ∧
    (Serving (serving 0 0 0 .live none []) 0 0 0 ∧ (0 : Word).toNat = (serving 0 0 0 .live none []).cur % 16) ∧
    (Serving (serving 16 0 0 .live none []) 16 0 0 ∧ 16 ≤ (16 : Word).toNat) ∧
    (∀ p ∈ [Phase.free, .reaped, .parked, .saved], Serving (serving 1 0 0 p none []) 1 0 0) ∧
    (1 : Word).toNat < 16 ∧ (1 : Word).toNat ≠ 0 ∧ (ctxOf (serving 1 0 0 .free none []) 1).phase = .free ∧
    (ctxOf (serving 1 0 0 .reaped none []) 1).phase = .reaped ∧ (ctxOf (serving 1 0 0 .parked none []) 1).phase ∉ ([.free, .reaped] : List Phase) ∧
    (ctxOf (serving 1 0 0 .saved none []) 1).phase ∉ ([.free, .reaped] : List Phase) :=
  ⟨by decide, ⟨serving_of .., rfl⟩, ⟨serving_of .., by decide⟩, fun _ _ => serving_of .., by decide, by decide, rfl, rfl, by decide, by decide⟩

-- watchpoint 3 of context 1, of 8 bytes, of both kinds; disabled
theorem service_wpset : WellFormed (.wpset (r3 5 1 2 3)) = true ∧
    (∀ c ∈ [(0x30000000008 : Word), 0], Serving (serving 0x31 0x1000 c .parked none []) 0x31 0x1000 c ∧
      wpBad (0x31 : Word).toNat (0x1000 : Word).toNat c.toNat = false) ∧
    (ctxOf (serving 0x31 0x1000 0 .parked none []) ((0x31 : Word).toNat % 16)).phase ∉ ([.free, .reaped, .saved] : List Phase) := by
  refine ⟨by decide, ?_, by decide⟩
  simp only [List.forall_mem_cons, List.not_mem_nil, false_imp_iff, implies_true, and_true]
  exact ⟨⟨serving_of .., rfl⟩, serving_of .., rfl⟩

-- an entry of one S1 slot, and one whose header has bit 0 set; entry 3 of 4, and entry 4
theorem service_dset : WellFormed (.dset (r3 5 1 2 0)) = true ∧ (0x1000 : Word).toNat % 8 = 0 ∧
    (Serving (serving 4 0x1000 0 .live none []) 4 0x1000 0 ∧ (tileAt (serving 4 0x1000 0 .live none []) 0).dsize ≤ (4 : Word).toNat) ∧
    (Serving (serving 3 0x1000 0 .live none [0x4000, 0, 0x00000A0603800000, 0, 0, 0]) 3 0x1000 0 ∧
      (3 : Word).toNat < (tileAt (serving 3 0x1000 0 .live none [0x4000, 0, 0x00000A0603800000, 0, 0, 0]) 0).dsize ∧
      ∃ t locs, Placed (serving 3 0x1000 0 .live none [0x4000, 0, 0x00000A0603800000, 0, 0, 0]) false .load false 0x1000 48 t locs ∧
        (chunks 8 6 (readLocs t locs)).map (fun x => word (leNat x)) = [0x4000, 0, 0x00000A0603800000, 0, 0, 0] ∧
        dictReason [0x4000, 0, 0x00000A0603800000, 0, 0, 0] = none) ∧
    (Serving (serving 3 0x1000 0 .live none [1, 0, 0, 0, 0, 0]) 3 0x1000 0 ∧
      ∃ t locs, Placed (serving 3 0x1000 0 .live none [1, 0, 0, 0, 0, 0]) false .load false 0x1000 48 t locs ∧
        (chunks 8 6 (readLocs t locs)).map (fun x => word (leNat x)) = [1, 0, 0, 0, 0, 0] ∧ dictReason [1, 0, 0, 0, 0, 0] = some 1) :=
  ⟨by decide, by decide, ⟨serving_of .., by decide⟩, ⟨serving_of .., by decide, _, _, rfl, rfl, by decide⟩, ⟨serving_of .., _, _, rfl, rfl, by decide⟩⟩

-- x63 of context 1 in service and in rotation, x63 of the issuing context, element 8191 of accumulator 7 of the tile
theorem service_dbg : WellFormed (.dbgRd (r3 62 1 0 0)) = true ∧ WellFormed (.dbgWr (r3 62 1 2 0)) = true ∧ (62 : BitVec 9).toNat < 63 ∧
    Serving (serving 0x3F0001 9 0 .inService none []) 0x3F0001 9 0 ∧ selOf 0x3F0001 = some ⟨1, 0, 63, 0⟩ ∧
    isSealed (serving 0x3F0001 9 0 .inService none []) 0 = false ∧ isSealed (serving 0x3F0001 9 0 .inService none []) 1 = false ∧
    (∀ w, selOk (ctxOf (serving 0x3F0001 9 0 .inService none []) 1) ⟨1, 0, 63, 0⟩ w = true ∧
      selStatus (serving 0x3F0001 9 0 .inService none []) 1 false ⟨1, 0, 63, 0⟩ w = 0) ∧
    (selOk (ctxOf (serving 0x3F0001 9 0 .live none []) 1) ⟨1, 0, 63, 0⟩ false = true ∧
      selStatus (serving 0x3F0001 9 0 .live none []) 1 false ⟨1, 0, 63, 0⟩ false = 2) ∧
    (selOf 0x3F0000 = some ⟨0, 0, 63, 0⟩ ∧ selStatus (serving 0x3F0000 9 0 .live none []) 0 true ⟨0, 0, 63, 0⟩ true = 0) ∧
    (Serving (serving 0x1FFF00070700 9 0 .live none []) 0x1FFF00070700 9 0 ∧ selOf 0x1FFF00070700 = some ⟨0, 7, 7, 8191⟩ ∧
      selOk (ctxOf (serving 0x1FFF00070700 9 0 .live none []) 0) ⟨0, 7, 7, 8191⟩ true = true ∧
      selStatus (serving 0x1FFF00070700 9 0 .live none []) 0 true ⟨0, 7, 7, 8191⟩ true = 0) :=
  ⟨by decide, by decide, by decide, serving_of .., by decide, rfl, rfl, by decide, by decide, ⟨by decide, rfl⟩, serving_of .., by decide, rfl, rfl⟩

theorem meets_ServiceResults : Ready (serving 0 0 0 .live none []) ∧ (me (serving 0 0 0 .live none [])).svc = true ∧
    Serving (serving 0 0 0 .live none []) 0 0 0 ∧ WellFormed (.pctlPark ⟨0, false, 5, 1, 3⟩) = true ∧ WellFormed (.ctxkill (r3 5 1 0 0)) = true ∧
    WellFormed (.wpset (r3 5 1 2 3)) = true ∧ WellFormed (.dset (r3 5 1 2 0)) = true ∧ WellFormed (.dbgRd (r3 62 1 0 0)) = true ∧
    (ctxOf live 0).svc = false ∧ 7 < (ctxOf live 0).lanes :=
  ⟨⟨rfl, rfl⟩, rfl, serving_of .., by decide, by decide, by decide, by decide, by decide, rfl, by decide⟩

/-! ## Translations -/

/-- Serving, with ASID 7 active and ASID 9 retiring; cached leaves, lines of tile 0, dwords in the stash. -/
def translating (x1 x2 : Word) (d : List (Nat × Asid)) (tc : List TEntry) (ls : SMap Line) (ws : List Word) : State :=
  let s := serving x1 x2 0 .live none ws
  { s with
    parts := s.parts.map fun e => (e.1, { e.2 with asids := d })
    tiles := s.tiles.map fun e => (e.1, { e.2 with lines := ls })
    slices := [(0, { tcache := tc })]
    ctxs := [(0, { ctx0 with phase := .inService, svc := true, asid := 7, x := [(1, x1), (2, x2)] })] }
/-- What the statements ask of the context. -/
abbrev Xlat (s : State) (a b : Word) : Prop := Ready s ∧ Enabled s 0 false ∧ (me s).svc = true ∧ Room s 6 ∧
  Reads s [1, 2] [a, b] [] ∧ Reads s [2] [b] [] ∧ Reads s [1] [a] []
theorem xlat_of (a b : Word) (d : List (Nat × Asid)) (tc : List TEntry) (ls : SMap Line) (ws : List Word) : Xlat (translating a b d tc ls ws) a b :=
  ⟨⟨rfl, rfl⟩, rfl, rfl, fun h _ => absurd h (by decide), rfl, rfl, rfl⟩
def act7 : List (Nat × Asid) := [(7, ⟨.active, 0x10000, [], 0⟩)]
def leaf7 : TEntry := ⟨7, 0x2000, 4096, 0x20007, 0, 0x280, [0, 1, 0, 0, 0]⟩
def xlatPart : Part := { soloPart with conf := { soloPart.conf with hbm := [0, 1] }, kvrt := 0x1000, asids := act7 }

theorem translation_xinv :
    (∀ i ∈ [Instr.xinvPage (r3 6 1 2 0), .xinvQ { r3 6 1 2 0 with md := 2 }, .xinvQ { r3 6 1 2 0 with md := 6 }, .xinvAsid { r3 6 0 2 0 with md := 1 }],
      WellFormed i = true) ∧ (6 : BitVec 9).toNat < 63 ∧ (7 : Word).toNat < 2 ^ 16 ∧ asidActive xlatPart 7 = true ∧ canonical (0x2FFF : Word).toNat = true ∧
    -- a lease on a line of the page that is out, one granted since, a page with none; a leaf cached, and none
    (let s := translating 0x2FFF 7 act7 [leaf7] [(0x5F, ⟨.W, 9, 64, 0, false, false, 0, false, 0, 0⟩)] []
     partAt s 0 = some xlatPart ∧ pageSpan s xlatPart 7 0x2FFF = (0x2000, 0x3000) ∧
      leasesOut { s with freeCount := 1 } 0 7 0x2000 0x3000 1 = true ∧ leasesOut s 0 7 0x2000 0x3000 s.freeCount = false) ∧
    (leasesOut { translating 0x2FFF 7 act7 [leaf7] [(0x60, ⟨.W, 9, 64, 0, false, false, 0, false, 0, 0⟩)] [] with freeCount := 1 } 0 7 0x2000 0x3000 1 = false ∧
      cachedLeaf (sliceAt (translating 0x2FFF 7 act7 [leaf7] [] []) (homeSlice xlatPart 0x2FFF 7)) 7 0x2FFF = some leaf7 ∧
      cachedLeaf (sliceAt (translating 0x3000 7 act7 [leaf7] [] []) (homeSlice xlatPart 0x3000 7)) 7 0x3000 = none ∧
      ((2 : BitVec 8).getLsbD 2 = false) ∧ leasesOut (translating 0x2FFF 7 act7 [leaf7] [] []) 0 7 0 (2 ^ 57) 0 = false) :=
  ⟨by decide, by decide, by decide, rfl, rfl, ⟨rfl, rfl, by decide, by decide⟩, by decide, rfl, rfl, rfl, rfl⟩

theorem translation_asid :
    (∀ i ∈ [Instr.kvinv (r3 6 1 0 0), .kvinv { r3 6 1 0 0 with md := 1 }, .kvinv { r3 6 1 0 0 with md := 2 }, .asidRet (r3 6 1 0 0),
      .asidRet { r3 6 1 0 0 with md := 1 }, .asidSet (r3 6 1 2 0)], WellFormed i = true) ∧
    (partAt (translating 9 0 (act7 ++ [(9, ⟨.retiring, 0x10000, [], 0⟩)]) [] [] []) 0 =
        some { xlatPart with asids := act7 ++ [(9, ⟨.retiring, 0x10000, [], 0⟩)] } ∧
      smFind (act7 ++ [(9, ⟨.retiring, 0x10000, [], 0⟩)]) 9 = some ⟨.retiring, 0x10000, [], 0⟩ ∧ smFind act7 7 = some ⟨.active, 0x10000, [], 0⟩ ∧
      smFind act7 (0xFFFF : Word).toNat = none ∧ (0xFFFF : Word).toNat < 2 ^ 16) ∧
    -- a descriptor whose root is 0x10000, and one whose root is not aligned
    ((0x1000 : Word) ≠ 0 ∧ (0x1000 : Word).toNat % 64 = 0 ∧
      (∃ t locs, Placed (translating 9 0x1000 act7 [] [] [0x10000]) false .load true 0x1000 64 t locs ∧
        asidDescOf t (readLocs t locs) = some ⟨.active, 0x10000, List.replicate 64 0, 0⟩) ∧
      (∃ t locs, Placed (translating 9 0x1000 act7 [] [] [0x10001]) false .load true 0x1000 64 t locs ∧ asidDescOf t (readLocs t locs) = none)) :=
  ⟨by decide, ⟨rfl, rfl, rfl, rfl, by decide⟩, by decide, by decide, ⟨_, _, rfl, by decide⟩, ⟨_, _, rfl, by decide⟩⟩

theorem meets_TranslationResults : Xlat (translating 0x2FFF 7 act7 [leaf7] [] []) 0x2FFF 7 ∧
    partAt (translating 0x2FFF 7 act7 [leaf7] [] []) 0 = some xlatPart ∧ asidActive xlatPart (7 : Word).toNat = true ∧
    Xlat (translating 7 0 act7 [] [] []) 7 0 ∧ (me (translating 7 0 act7 [] [] [])).answered = [] ∧
    Xlat (translating 9 0x1000 act7 [] [] [0x10000]) 9 0x1000 ∧ smFind act7 (9 : Word).toNat = none :=
  ⟨xlat_of .., rfl, rfl, xlat_of .., rfl, xlat_of .., rfl⟩

/-! ## Saves -/

/-- Serving, context 1 in a phase with a save area; a page of 2 MiB of ASID 7 at 0, with an image's first dword in the area at
0x100000. -/
def saving (p : Phase) (area : Option Word) : State :=
  let s := serving 1 0x100000 0 p none []
  { s with
    ctxs := s.ctxs.map fun e => if e.1 = 1 then (1, { e.2 with area := area }) else e
    mem := dwords [(0x10000, 0x11001), (0x11000, 0x12001), (0x12000, 0x13001), (0x13000, 0x200007), (0x300000, 0x10001)]
    parts := s.parts.map fun e => (e.1, { e.2 with asids := [(7, ⟨.active, 0x10000, [2], 0⟩)] }) }
def savePart : Part := { xlatPart with asids := [(7, ⟨.active, 0x10000, [2], 0⟩)] }
/-- The pages of the area. -/
def areaPages : List AreaPage := (List.range 33).map fun i => ⟨4096 * i, 0x300000 + 4096 * i, 4096⟩
theorem saving_ready (p : Phase) (a : Option Word) : Ready (saving p a) ∧ Enabled (saving p a) 0 false ∧ (me (saving p a)).svc = true ∧
    Reads (saving p a) [1, 2] [1, 0x100000] [] ∧ partAt (saving p a) 0 = some savePart ∧ (me (saving p a)).answered.contains .home = true :=
  ⟨⟨rfl, rfl⟩, rfl, rfl, rfl, rfl, rfl⟩
theorem saving_store : resolveArea (saving .parked none) savePart 0 7 .store 0x100000 (areaLen (saving .parked none) 1) = .ok areaPages := by decide +kernel
theorem saving_load : resolveArea (saving .saved (some 0x100000)) savePart 0 7 .load 0x100000 (areaLen (saving .saved (some 0x100000)) 1) = .ok areaPages := by decide +kernel
theorem meets_SaveResults :
    (∀ p a, Ready (saving p a) ∧ Enabled (saving p a) 0 false ∧ (me (saving p a)).svc = true ∧ Reads (saving p a) [1, 2] [1, 0x100000] [] ∧
      partAt (saving p a) 0 = some savePart ∧ (me (saving p a)).answered.contains .home = true) ∧ (∀ s, Room s 5) ∧ (1 : Word).toNat < 16 ∧
    (WellFormed (.csave (r3 5 1 2 0)) = true ∧ WellFormed (.csave { r3 5 1 2 0 with md := 1 }) = true ∧ WellFormed (.cload (r3 5 1 2 0)) = true) ∧
    ((0x100000 : Word).toNat % 4096 = 0 ∧ ∀ m ∈ (tileAt (saving .parked none) 0).maps,
      rangesMeet (0x100000 : Word).toNat (areaLen (saving .parked none) 1) m.2.base m.2.len = false) ∧
    (∀ p, (ctxOf (saving p none) 1).phase = p) ∧
    resolveArea (saving .parked none) savePart 0 7 .store 0x100000 (areaLen (saving .parked none) 1) = .ok areaPages ∧
    (let s := saving .saved (some 0x100000)
     (ctxOf s 1).area = some 0x100000 ∧ resolveArea s savePart 0 7 .load 0x100000 (areaLen s 1) = .ok areaPages ∧
      areaError s 0x100000 areaPages = none ∧ imgDword (savedImage s 1 areaPages) 0 % 2 ^ 8 = 1 ∧
      imgDword (savedImage s 1 areaPages) 0 / 2 ^ 16 % 2 ^ 15 = 1) :=
  ⟨saving_ready, fun s h _ => absurd h (by decide), by decide, by decide, ⟨by decide, by decide⟩, fun _ => rfl, saving_store, rfl, saving_load,
   by decide, by decide, by decide⟩

end Sys2Proof.Tests
end

