-- ==== Sys2Proof/Tests/WitnessEvents.lean ====
section
/-! SUPPORT. Witnesses: states that meet the hypotheses of the statements about turns, answers and the events of a tile. -/
set_option maxRecDepth 100000
namespace Sys2Proof.Tests
open Sys2Proof Sys2Proof.Machine Sys2Proof.Safety

/-! ## Turns -/

/-- A turn offered to context 0, which has fetched `add`. -/
def offered : State := State.reset.withFetchWord 64 0x00000A0603800000
/-- Results of a context: to x0 and x63, and a word to channel 15. -/
def lands : State := liveWith fun c => { c with
  pend := [⟨1, 0, 0, [.x 0 7], none, 1, 2, 64, false, none⟩, ⟨1, 0, 1, [.x 63 7], none, 31, 3, 64, false, none⟩, ⟨1, 0, 2, [.push 15 7 1 0], none, 0, 0, 64, false, none⟩] }
/-- The second window begun; context 0 live, context 15 waits for its budget. -/
def refills : State :=
  { live with dies := [(0, { cyc := 1024 })]
              ctxs := [(0, ctx0), (15, { ctx0 with phase := .parked, why := .budget, wait := .budget })] }
/-- COUNT 0 with requests; a context about to enter service. -/
def requested (now : Bool) (rs : List Req) : State := liveWith fun c => { c with sdl := word (5 * 65536), reqs := rs, enterNow := now }
/-- A fetch under way. -/
def fetches : State := liveWith fun c => { c with fetching := true, pc := 0x1000 }

theorem meets_TurnEvents :
    (0 = (dieAt offered (0 / 384)).cyc ∧ (spinAt offered 0).nextCycle ≤ 0 ∧ 0 / 1024 ≤ (spinAt offered 0).window ∧ rotation offered 0 = [0] ∧
      (ctxOf offered 0).mayOffer ≤ 0 ∧ (ctxOf offered 0).enterNow = false ∧ (ctxOf offered 0).scOut = 0 ∧ (ctxOf offered 0).pend = [] ∧
      (ctxOf offered 0).svc = false ∧ (ctxOf offered 0).held = none ∧ ∃ b, fetchBundle offered 0 = .bundle b) ∧
    (∀ i < 3, ∃ p, (ctxOf lands 0).pend[i]? = some p ∧ pushesAfter ((ctxOf lands 0).pend.take i) p = false) ∧
    (∃ p ∈ (ctxOf lands 0).pend, p.writes = [.x 63 7]) ∧ (∃ p ∈ (ctxOf lands 0).pend, p.writes = [.x 0 7]) ∧
    ((spinAt refills 0).window < (dieAt refills (0 / 384)).cyc / 1024 ∧ (ctxOf refills (16 * 0 + 0)).phase ≠ .free ∧
      (ctxOf refills (16 * 0 + 15)).phase ≠ .free ∧ Awaits refills (16 * 0 + 15) .budget) ∧
    (∀ now rs, (ctxOf (requested now rs) 0).phase = .live ∧ (ctxOf (requested now rs) 0).sdl.toNat % 2 ^ 16 = 0 ∧
      (ctxOf (requested now rs) 0).reqs = rs ∧ (ctxOf (requested now rs) 0).enterNow = now) ∧
    (Req.halt ∈ [Req.swap 5, .msg 6, .halt] ∧ Req.halt ∉ [Req.msg 6]) ∧
    ((ctxOf fetches 0).fetching = true ∧ ∃ pc a, fetchBundle fetches 0 = .wait pc a) := by
  refine ⟨⟨by decide, by decide, by decide, by decide, by decide, rfl, rfl, rfl, rfl, rfl, _, rfl⟩, ?_, ⟨_, .tail _ (.head _), rfl⟩, ⟨_, .head _, rfl⟩,
    ⟨by decide, by decide, by decide, rfl, rfl, rfl, rfl⟩, fun _ _ => ⟨rfl, show (word (5 * 65536)).toNat % 2 ^ 16 = 0 by decide, rfl, rfl⟩,
    by decide, rfl, _, _, rfl⟩
  intro i hi
  interval_cases i <;> exact ⟨_, rfl, by decide⟩

/-- A fetch under way of a page of ASID 7 at 0x2000, which may be executed; its line held by another tile's stash, or not. -/
def fetchesPage (held : Bool) : State :=
  let s := paged 0
  { s with ctxs := [(0, { ctx0 with asid := 7, pc := 0x2000, fetching := true })]
           mem := dwords [(0x10000, 0x11001), (0x11000, 0x12001), (0x12000, 0x13001), (0x13000, 0x14001), (0x14010, 0x2000B)]
           tiles := if held then s.tiles ++ [(1, { lines := [(0x40, ⟨.D, 100, 64, 0x400, false, false, 0, false, 0, 0⟩)] })] else s.tiles }
theorem meets_TurnEvents_fetch : (∀ b, (ctxOf (fetchesPage b) 0).fetching = true ∧ fetchBundle (fetchesPage b) 0 = .wait 0x2000 0x2000) ∧
    fetchWaits (fetchesPage false) 0 0x2000 = [] ∧ fetchWaits (fetchesPage true) 0 0x2000 = [0x400] ∧
    (ctxOf offered 0).refetch = false ∧ (∀ p ∈ (ctxOf lands 0).pend, p.exact = false) :=
  ⟨fun b => by cases b <;> exact ⟨rfl, rfl⟩, rfl, rfl, rfl, by decide⟩

/-! ## Answers -/

/-- Context 0 parked for a reason, its bundle held. -/
def awaiting (w : Wait) : State :=
  { liveWith (fun c => { c with phase := .parked, wait := w, held := some (Bundle.single 0 (word 0x00000A0603800000)) }) with time := 100 }
theorem awaiting_awaits (w : Wait) : Awaits (awaiting w) 0 w := ⟨rfl, rfl, rfl, by cases w <;> rfl⟩
/-- Context 0 idle, with a task in its spindle's deque. -/
def idles : State :=
  { tasks 0x1000 9 0 2 0 [2] 5 with ctxs := [(0, { ctx0 with asid := 7, phase := .parked, idle := .idle })] }
/-- A context waits for 32 lanes, of which it has 8, and another for 8. -/
def waits32 : State :=
  { live with ctxs := [(0, { ctx0 with phase := .parked, wait := .claim, claim := some ⟨.waiting, 32, 64, 8, false, 3, 0⟩ }),
                       (1, { ctx0 with phase := .parked, wait := .claim, claim := some ⟨.waiting, 8, 64, 0, false, 4, 0⟩ })] }
/-- A monitor of a kind on the entry at 0x4000, which context 0 awaits; the entry. -/
def watched (kind e : Nat) : State :=
  { awaiting (.monitor 0 0x4000) with slices := [(0, { monitors := [⟨0x4000, kind, [0]⟩] })], mem := dwords [(0x4000, e)] }
/-- A message under way, or its answer, from context 0 to context 1 in a phase, whose mailbox 3 holds k messages. -/
def flight (a : Option Nat) (w : Bool) : Flight := ⟨0, 1, 3, 2, 5, 6, w, false, a⟩
def flies (f : Flight) (p : Phase) (k : Nat) : State :=
  { live with flights := [f]
              ctxs := [(0, { ctx0 with phase := .parked, wait := .answer }),
                       (1, { ctx0 with phase := p, mb := [(3, ⟨List.replicate k ⟨1, 2, 3⟩, []⟩)] })] }
/-- An announced event, 10 ns after its window begins. -/
def announced : State := { live with time := 50, scOut := [⟨3, 0, 0, some 0, 24⟩] }

theorem meets_AnswerEvents :
    ((ctxOf (awaiting (.home [])) 0).held = some (Bundle.single 0 (word 0x00000A0603800000)) ∧ (spinAt (awaiting (.home [])) (0 / 16)).dead = false ∧
      Awaits (awaiting (.home [])) 0 (.home []) ∧ (ctxOf (awaiting .kv) 0).held = some (Bundle.single 0 (word 0x00000A0603800000)) ∧
      Awaits (awaiting .kv) 0 .kv) ∧
    (Awaits (awaiting .peer) 0 .peer ∧ Awaits (awaiting .chuck) 0 .chuck ∧ Awaits (awaiting (.mailbox 8 (some 100))) 0 (.mailbox 8 (some 100)) ∧
      100 ≤ (awaiting (.mailbox 8 (some 100))).time ∧ (ctxOf idles 0).phase = .parked ∧ (ctxOf idles 0).idle = .idle ∧
      findTask idles 0 true = .found 0 (.hw 0) ⟨0x6000, 1, 0x1000, 5⟩) ∧
    (oldestWaiter waits32 (0 / 128) = some (0, ⟨.waiting, 32, 64, 8, false, 3, 0⟩) ∧ 32 ≤ 8 + freeLanes waits32 (0 / 128)) ∧
    (∀ e ∈ [(0, 3), (3, 1)], (sliceAt (watched e.1 e.2) 0).monitors = [⟨0x4000, e.1, [0]⟩] ∧ (memDword (watched e.1 e.2) 0x4000).testBit 0 = true ∧
      (e.1 = 3 → (memDword (watched e.1 e.2) 0x4000).testBit 1 = false) ∧ Awaits (watched e.1 e.2) 0 (.monitor 0 0x4000)) ∧
    ((∀ w p k, (flies (flight none w) p k).flights[0]? = some (flight none w) ∧ arrivable (flies (flight none w) p k).flights 0 = [0] ∧
        (flight none w).orphan = false ∧ (ctxOf (flies (flight none w) p k) (flight none w).dst).phase = p) ∧
      (∀ p ∈ [Phase.live, .parked, .inService, .saved], p ∉ ([.free, .reaped] : List Phase)) ∧
      64 ≤ (getMb (ctxOf (flies (flight none false) .live 64) 1) 3).msgs.length ∧
      (getMb (ctxOf (flies (flight none false) .live 63) 1) 3).msgs.length < 64) ∧
    (∀ w st, (flies (flight (some st) w) .live 0).flights = [flight (some st) w] ∧ (flight (some st) w).answer = some st ∧
      (flight (some st) w).waiting = w ∧ Awaits (flies (flight (some st) w) .live 0) (flight (some st) w).src .answer) ∧
    (scFirst announced.scOut = some ⟨3, 0, 0, some 0, 24⟩ ∧ 24 + 10 ≤ announced.time) := by
  refine ⟨⟨rfl, rfl, awaiting_awaits _, rfl, awaiting_awaits _⟩,
    ⟨awaiting_awaits _, awaiting_awaits _, awaiting_awaits _, by decide, rfl, rfl, rfl⟩, ⟨by decide, by decide⟩, ?_,
    ⟨fun w p k => ⟨rfl, by cases w <;> rfl, rfl, rfl⟩, by decide, by decide, by decide⟩, fun _ _ => ⟨rfl, rfl, rfl, rfl, rfl, rfl, rfl⟩, by decide, by decide⟩
  simp only [List.forall_mem_cons, List.not_mem_nil, false_imp_iff, implies_true, and_true]
  exact ⟨⟨rfl, by decide, by decide, rfl, rfl, rfl, rfl⟩, rfl, by decide, by decide, rfl, rfl, rfl, rfl⟩

-- an `xinv` that waits for a lease of ASID 7, and for none; a saved context with nothing late
theorem meets_AnswerEvents_leases :
    (let s := { awaiting (.leases 7 0x2000 0x3000 1) with
                  launches := [(1, launch7)], dom := { devnum := some 0 }
                  tiles := [(0, { launch := some 1, lines := [(0x5F, ⟨.D, 9, 64, 0x400, false, false, 0, false, 0, 0⟩)] })] }
     Awaits s 0 (.leases 7 0x2000 0x3000 1) ∧ (ctxOf s 0).held = some (Bundle.single 0 (word 0x00000A0603800000)) ∧
      leasesOut s (partOfCtx s 0) 7 0x2000 0x3000 1 = true ∧ leasesOut s (partOfCtx s 0) 7 0x2000 0x3000 0 = false) ∧
    (ctxOf (awaiting .kv) 0).refetch = false ∧ (spinAt idles (0 / 16)).dead = false ∧ smGet [] (flies (flight (some 1) false) .live 0).lag 1 = [] ∧
    (getMb (ctxOf (flies (flight (some 1) false) .live 0) 0) 2).refs.length < 16 :=
  ⟨⟨⟨rfl, rfl, rfl, rfl⟩, rfl, rfl, rfl⟩, rfl, rfl, rfl, by decide⟩

/-! ## Lines -/

/-- A line of a backed mapping at 0x2000, whose page's home is 0x20000. -/
def lined (l : Line) : State :=
  { paged 0 with time := 100, tiles := [(0, { launch := some 1, maps := [(0, ⟨0x2000, 256, 0, 0, false, 0, 0⟩)], lines := [(0x40, l)] })] }
theorem line_ends : (∀ st ∈ [LineSt.S, .W, .D, .B], smFind (tileAt (lined ⟨st, 100, 64, 0x400, true, false, 0, false, 0, 0⟩) 0).lines 0x40 = some ⟨st, 100, 64, 0x400, true, false, 0, false, 0, 0⟩) ∧
    (∀ l, isPinned (lined l) 0 0x40 = false ∧ mapAt (tileAt (lined l) 0) (0x40 * 128) = some (0, ⟨0x2000, 256, 0, 0, false, 0, 0⟩) ∧
      lineErrs (lined l) 0 (stashOff ⟨0x2000, 256, 0, 0, false, 0, 0⟩ (0x40 * 128)) = [] ∧ (lined l).hostUp = true ∧ 100 ≤ (lined l).time ∧
      116 ≤ (lined l).time + 64 / 4) := by
  refine ⟨?_, fun _ => ⟨rfl, rfl, rfl, rfl, by exact le_refl 100, by exact le_refl 116⟩⟩
  simp only [List.forall_mem_cons, List.not_mem_nil, false_imp_iff, implies_true, and_true]
  exact ⟨rfl, rfl, rfl, rfl⟩
/-- A line that waits for its lease. -/
def askedLine (w whole : Bool) : Line := ⟨.F, 0, 0, 0, false, w, 0, whole, 0, 0⟩
theorem line_granted : ∀ w whole, ∃ u p, smFind (tileAt (lined (askedLine w whole)) 0).lines 0x40 = some (askedLine w whole) ∧
    mapAt (tileAt (lined (askedLine w whole)) 0) (0x40 * 128) = some (0, ⟨0x2000, 256, 0, 0, false, 0, 0⟩) ∧
    partAt (lined (askedLine w whole)) ((partOfTile (lined (askedLine w whole)) 0).getD 0) = some p ∧
    (tileAt (lined (askedLine w whole)) 0).launch = some 1 ∧ smFind (lined (askedLine w whole)).launches 1 = some launch7 ∧
    acquireLine (lined (askedLine w whole)) p ⟨0, 0, launch7.lasid, 0, w, [0x40], if (askedLine w whole).whole then [0x40] else []⟩ 0x40
      ⟨0x2000, 256, 0, 0, false, 0, 0⟩ = .ok u [] := by
  intro w whole
  cases w <;> cases whole <;> exact ⟨_, _, rfl, rfl, rfl, rfl, rfl, rfl⟩

/-! ## Queues -/

/-- A command of context 0 with a word, its operands, and how many bytes it has delivered. -/
def cmdOf (w a b c : Word) (n : Bool) (done : Nat) : Cmd := ⟨1, 0, w, a, b, c, 0, n, [], 0, 7, none, 0, done, [], []⟩
/-- `acc.zero` of a7, `rg.adv` of one slot of ring 1, `cp.get`. -/
def wZero : Word := word (0x8F * 2 ^ 56 + 143 * 2 ^ 3)
def wAdv : Word := word (0x8E * 2 ^ 56 + 129 * 2 ^ 3)
def wGet : Word := word (0xB3 * 2 ^ 56)
/-- The command at the head of every queue of spindle 0, which runs or not; ring 1 with one of its two slots in use; a page of ASID 7 at
0x2000, a scratch mapping at 0x1000. -/
def queued (c : Cmd) (run : Bool) : State :=
  { paged 0 with
    tiles := [(0, { launch := some 1, maps := [(0, ⟨0x1000, 256, 0, 2, false, 0, 0⟩)], tensor := ⟨[c], run, none, false⟩, conv := ⟨[c], run, none, false⟩
                    ringq := ⟨[c], run, none, false⟩, rings := [(1, ⟨0, 2, 0x13, false, 32, 0, 1, 1⟩)] })]
    spindles := [(0, { chans := [(0, { q := ⟨[c], run, none, false⟩ }), (7, { q := ⟨[c], run, none, false⟩ })] })] }
theorem queue_heads : ∀ q ∈ [0, 1, 2, 3, 10], ∀ c run, q < 11 ∧ queueAt (queued c run) 0 q = ⟨[c], run, none, false⟩ := by
  simp only [List.forall_mem_cons, List.not_mem_nil, false_imp_iff, implies_true, and_true]
  exact ⟨fun _ _ => ⟨by decide, rfl⟩, fun _ _ => ⟨by decide, rfl⟩, fun _ _ => ⟨by decide, rfl⟩, fun _ _ => ⟨by decide, rfl⟩, fun _ _ => ⟨by decide, rfl⟩⟩
-- a command that starts, one that stops its queue; of a copy the same, of 256 bytes and of 257
theorem queue_checks :
    engCheck (queued (cmdOf wZero 0 0 0 false 0) false) (cmdOf wZero 0 0 0 false 0) = none ∧
    (∃ x, engCheck (queued (cmdOf (wAdv + 8) 0 0 0 false 0) false) (cmdOf (wAdv + 8) 0 0 0 false 0) = some x) ∧
    copyCheck (queued (cmdOf wGet 0x1000 0x2000 256 false 0) false) (cmdOf wGet 0x1000 0x2000 256 false 0) = none ∧
    (∃ x, copyCheck (queued (cmdOf wGet 0x1000 0x2000 257 false 0) false) (cmdOf wGet 0x1000 0x2000 257 false 0) = some x) :=
  ⟨rfl, ⟨_, rfl⟩, rfl, _, rfl⟩
theorem queue_runs :
    (∃ u, engRun (queued (cmdOf wZero 0 0 0 false 0) true) (cmdOf wZero 0 0 0 false 0) = .ok u []) ∧
    (∃ x, engRun (queued (cmdOf (wAdv + 8) 0 0 0 false 0) true) (cmdOf (wAdv + 8) 0 0 0 false 0) = .fault x) ∧
    (opField wZero = 0x8F ∧ (ENGF.unpack wZero).c.toNat - 136 = 7 ∧ opField wAdv = 0x8E ∧ (ENGF.unpack wAdv).c.toNat - 128 = 1 ∧
      smFind (tileAt (queued (cmdOf wAdv 0 0 0 false 0) true) 0).rings 1 = some ⟨0, 2, 0x13, false, 32, 0, 1, 1⟩ ∧
      1 + ((ENGF.unpack wAdv).md.toNat + 1) ≤ 2) ∧
    ((cmdOf wGet 0x1000 0x2000 256 false 256).total ≤ (cmdOf wGet 0x1000 0x2000 256 false 256).done ∧
      ∃ u, copyBarrier (queued (cmdOf wGet 0x1000 0x2000 256 false 256) true) (cmdOf wGet 0x1000 0x2000 256 false 256) = .ok u []) :=
  ⟨⟨_, rfl⟩, ⟨_, rfl⟩, by decide, by decide, _, rfl⟩
-- the last of 256 bytes
theorem queue_delivers : ∃ s1 s2 s3,
    (cmdOf wGet 0x1000 0x2000 256 false 255).done < (cmdOf wGet 0x1000 0x2000 256 false 255).total ∧
    (cmdOf wGet 0x1000 0x2000 256 false 255).op = 0xB3 ∧ (cmdOf wGet 0x1000 0x2000 256 false 255).saved = [] ∧
    homePlace (queued (cmdOf wGet 0x1000 0x2000 256 false 255) true)
      (engOf (queued (cmdOf wGet 0x1000 0x2000 256 false 255) true) (cmdOf wGet 0x1000 0x2000 256 false 255)) false false (0x2000 + 255) = .ok s1 [.mem 0x200FF] ∧
    locError s1 [.mem 0x200FF] false = none ∧ s2 = correct s1 [.mem 0x200FF] ∧
    stashPlaces s2 (engOf (queued (cmdOf wGet 0x1000 0x2000 256 false 255) true) (cmdOf wGet 0x1000 0x2000 256 false 255)) true ((cmdOf wGet 0x1000 0x2000 256 false 255).wholeLine 255) (0x1000 + 255) 1 =
      .ok s3 [.stash 0 255 none] ∧ locError s3 [.stash 0 255 none] true = none ∧ (∀ r ∈ (ctxOf s3 0).pend, r.mate = none) :=
  ⟨_, _, _, by decide, by decide, rfl, rfl, rfl, rfl, rfl, rfl, by decide⟩

/-- `mm.grp.idx` of 1,024 bytes in a backed mapping at 0x2000, whose first line another tile's stash holds. -/
def idxed : State :=
  { queued (cmdOf (word (0x9F * 2 ^ 56)) 0x2000 0 0 false 0) true with
    tiles := (0, { launch := some 1, maps := [(0, ⟨0x2000, 1024, 0, 0, false, 0, 0⟩)] }) ::
      [(1, { lines := [(0x40, ⟨.D, 100, 64, 0x400, false, false, 0, false, 0, 0⟩)] })] }
-- a command that has an effect, one that waits for a line, one that faults
theorem queue_tries :
    (∃ u locs, engTry (mateBefore (queued (cmdOf wZero 0 0 0 false 0) true) (cmdOf wZero 0 0 0 false 0)) (cmdOf wZero 0 0 0 false 0) = .ok u locs) ∧
    (∃ u, engTry (idxed) (cmdOf (word (0x9F * 2 ^ 56)) 0x2000 0 0 false 0) = .hold u [0x400]) ∧
    (∃ x, engTry (mateBefore (queued (cmdOf (wAdv + 8) 0 0 0 false 0) true) (cmdOf (wAdv + 8) 0 0 0 false 0)) (cmdOf (wAdv + 8) 0 0 0 false 0) = .fault x) ∧
    (cmdOf (word (0x9F * 2 ^ 56)) 0x2000 0 0 false 0).mate = [] :=
  ⟨⟨_, _, rfl⟩, ⟨_, rfl⟩, ⟨_, rfl⟩, rfl⟩

/-! ## Futures and ASIDs -/

/-- A future past its deadline, of a sequence or of none. -/
def expired (q : Option Nat) : State :=
  { chucked 0 0 0 [] [(1, { fut0 .opened with seq := q })] [(3, seq0 .calling none)] with time := 1000 }
-- no lease held on the line that the timeout string enters, and one
theorem meets_TileEvents_feeds : (seq0 .calling none).pf.waits (expired (some 3)) 1 = [] ∧
    (seq0 .calling none).pf.waits { expired (some 3) with tiles := [(1, { lines := [(0x40, ⟨.D, 100, 64, 0x100, false, false, 0, false, 0, 0⟩)] })] } 1 = [0x100] :=
  ⟨by decide, by decide⟩
theorem meets_TileEvents : (∀ q, ∃ f, futAt (expired q) 1 = some f ∧ f.deadline ≤ (expired q).time ∧ f.alive = true ∧ f.seq = q) ∧
    seqAt (expired (some 3)) 3 = some (seq0 .calling none) ∧
    (∃ p d, partAt (translating 7 0 [(7, ⟨.retiring, 0x10000, [], 0⟩)] [leaf7] [] []) 0 = some p ∧ smFind p.asids 7 = some d ∧ d.st = .retiring ∧
      leasesOut (translating 7 0 [(7, ⟨.retiring, 0x10000, [], 0⟩)] [leaf7] [] []) 0 7 0 (2 ^ 57) 0 = false) ∧
    (∀ l, isPinned (lined l) 0 0x40 = false) ∧ engCheck (queued (cmdOf wZero 0 0 0 false 0) false) (cmdOf wZero 0 0 0 false 0) = none ∧
    (cmdOf wGet 0x1000 0x2000 256 false 255).done < (cmdOf wGet 0x1000 0x2000 256 false 255).total :=
  ⟨fun _ => ⟨_, rfl, Nat.le_refl 1000, rfl, rfl⟩, rfl, ⟨_, _, rfl, rfl, rfl, rfl⟩, fun _ => rfl, rfl, by decide⟩

end Sys2Proof.Tests
end

