-- ==== Sys2Proof/Tests/WitnessDevice.lean ====
section
/-! SUPPORT. Witnesses: states that meet the hypotheses of the statements about Headstock, partitions and the device. -/
set_option maxRecDepth 100000
namespace Sys2Proof.Tests
open Sys2Proof Sys2Proof.Machine Sys2Proof.Safety

/-! ## Headstock -/

/-- A launch record of one tile and one spindle under ASID 7, its image at 0x100000, its completion record at 0x100; the mask of spindles. -/
def recOf (mask : Word) : List Word := [0x100000, 9, 1, 0, 0, 0x700 + mask, 0, 0, 0, 0x100060, 0x100, 5, 0, 0, 0, 0]
/-- An image of one dictionary entry: a bundle of `add`. -/
def image1 : Image4 := ⟨0x7000, [0x7100, 0, 0, 0], [[0x4000, 0, 0x00000A0603800000, 0, 0, 0]]⟩
/-- Partition 0 with records in stream H; a page of 2 MiB of ASID 7 at 0, the image in it; tile 0 idle. -/
def heads (r : List StreamRec) : State :=
  { saving .live none with
    mem := dwords [(0x10000, 0x11001), (0x11000, 0x12001), (0x12000, 0x13001), (0x13000, 0x200007),
      (0x300000, 0x4C455346), (0x300008, 1), (0x300010, 0x80), (0x300018, 0x7000), (0x300020, 0x40), (0x300040, 0x7100),
      (0x300080, 0x4000), (0x300090, 0x00000A0603800000)]
    parts := [(0, { savePart with streamH := r })], tiles := [(0, {})] }
/-- A slot of a command: its code, its operands, its acceptance record at 0x200000. -/
def slotOf (opc a n : Word) : List Word := [opc, a, n, 0, 0, 0, 0x200000, 1]
/-- Slot 1 of the Faceplate holds HS_NOP under number 1. -/
def plated : State := { heads [] with boot := { step := 6 }, parts := [(0, { savePart with fp := smSetList 0 [] 120 (leBytes 8 1) })] }
theorem meets_Slots : (∀ r, running (heads r) 0 = some { savePart with streamH := r } ∧ ({ savePart with streamH := r } : Part).linkPhase = .up) ∧
    (∃ p, running plated 0 = some p ∧ p.linkPhase = .up ∧ p.streamH.length < 64 ∧ (slotDwords p.fp 1024 1).getD 7 0 = p.fpnext ∧
      (slotDwords p.fp 1024 2).getD 7 0 ≠ p.fpnext ∧ p.fpHeld = [] ∧ 0 < 8 ∧ 6 ≤ plated.boot.step ∧ plated.boot.recovery = false ∧
      0xFFF8 < 2 ^ 16 ∧ 0xFFF8 % 8 = 0 ∧ partOfCore plated 0 = some 0 ∧ (agentAt plated 0).dead = false ∧ 2 ^ 15 ≤ 0xFFF8 ∧
      (slotDwords p.ap 512 1).getD 7 0 ≠ p.apnext) ∧
    (∀ n, ({ savePart with streamH := List.replicate n (.cmd []), streamA := List.replicate n (.cmd []) } : Part).streamH.length = n ∧
      ({ savePart with streamH := List.replicate n (.cmd []), streamA := List.replicate n (.cmd []) } : Part).streamA.length = n) ∧
    ((slotDwords (smSetList 0 [] 120 (leBytes 8 1)) 512 1).getD 7 0 = (1 : Word) ∧ savePart.apnext = 1) := by
  exact ⟨fun _ => ⟨rfl, rfl⟩, ⟨_, rfl, rfl, by decide, by decide, by decide, rfl, by decide, by decide, rfl, by decide, by decide, rfl, rfl, by decide, by decide⟩,
    fun _ => ⟨List.length_replicate, List.length_replicate⟩, by decide, rfl⟩
theorem meets_Commands : (∀ r, ({ savePart with streamH := r } : Part).stream .H = r) ∧
    (cmdOk (slotOf 0 0 0) = true ∧ cmdOk (slotOf 1 0x300000 0) = true ∧ cmdOk (slotOf 2 0 0) = true ∧ cmdOk (slotOf 3 0x300000 0x101) = true) ∧
    (∀ c a n, caddrOf (heads []) (slotOf c a n) = 0x200000) ∧ leasedLines (heads []) 0x200000 16 true = [] ∧
    -- its acceptance record's line held by a stash
    leasedLines { heads [] with tiles := [(0, { lines := [(0x40, ⟨.D, 100, 64, 0x4000, false, false, 0, false, 0, 0⟩)] })] } 0x200000 16 true = [0x4000] ∧
    (leasedLines (heads []) 0x300000 128 false = [] ∧ ∃ r, readRecord (heads []) savePart 0 0x300000 = some r) ∧
    (∀ e ∈ { heads [] with launches := [] }.launches, e.2.part = 0 → e.2.stream ≠ .H) ∧
    ({ heads [] with tiles := [] }.tiles = [] ∧ ownsPa { heads [] with tiles := [] } savePart (0x300000 + 0x101 - 1) = true ∧
      ∀ l ∈ physLines 0x300000 0x101, ownsPa { heads [] with tiles := [] } savePart (128 * l) = true) :=
  ⟨fun _ => rfl, ⟨rfl, rfl, rfl, rfl⟩, fun _ _ _ => show localPa (heads []) (0x200000 : Word).toNat = 0x200000 by decide, by decide, by decide, ⟨by decide, _, rfl⟩, by decide, rfl, rfl, by decide⟩
-- a record with no spindle, and one that passes every check
theorem meets_Starts : (badRecord (recOf 0) = true ∧ ∃ t, complete (heads [.launch (recOf 0)]) 0 (recOf 0) 1 = .ok t) ∧
    (badRecord (recOf 1) = false ∧ ∀ r, tilesOk (heads r) { savePart with streamH := r } (recOf 1) = true) ∧
    (∀ t ∈ recTiles (recOf 1), (tileAt (heads [.launch (recOf 1)]) t).launch = none) ∧
    (0 / 128 ∈ recTiles (recOf 1) ∧ 0 % 16 = 0 ∧ (recMask (recOf 1)).testBit (0 / 16 % 8) = true ∧
      1008 / 128 ∈ recTiles ((recOf 0x80).set 2 0x80) ∧ 1008 % 16 = 0 ∧ (recMask ((recOf 0x80).set 2 0x80)).testBit (1008 / 16 % 8) = true) :=
  ⟨⟨by decide, _, rfl⟩, ⟨by decide, fun _ => rfl⟩, by decide, by decide⟩
theorem meets_Image : readImage (heads [.launch (recOf 1)]) { savePart with streamH := [.launch (recOf 1)] } 0 (recOf 1) = .ok image1 := (rfl)
/-- The image's first line held by another tile's stash. -/
def imageHeld : State :=
  { heads [.launch (recOf 1)] with tiles := [(0, {}), (1, { lines := [(0x40, ⟨.D, 100, 64, 0x6000, false, false, 0, false, 0, 0⟩)] })] }
/-- No image there. -/
def imageless : State :=
  { heads [.launch (recOf 1)] with mem := dwords [(0x10000, 0x11001), (0x11000, 0x12001), (0x12000, 0x13001), (0x13000, 0x200007)] }
theorem ok_of {ε α : Type} {r : Except ε α} (h : (match r with | .ok _ => true | .error _ => false) = true) : ∃ t, r = .ok t := by
  cases r <;> simp_all
/-- A record whose completion record has no page. -/
def recFar : List Word := (recOf 1).set 10 0x40000100
theorem meets_Image_else :
    (readImage imageless { savePart with streamH := [.launch recFar] } 0 recFar = .fail 3 ∧
      ∃ t, complete (imageRead imageless { savePart with streamH := [.launch recFar] } 0 recFar) 0 recFar 3 = .ok t) ∧
    readImage imageHeld { savePart with streamH := [.launch (recOf 1)] } 0 (recOf 1) = .wait [0x6000] ∧
    ∀ t ∈ recTiles (recOf 1), (tileAt imageless t).launch = none ∧ (tileAt imageHeld t).launch = none :=
  ⟨⟨rfl, ok_of rfl⟩, rfl, by decide⟩
/-- Launch 1 is over. -/
def launchDone : State := helped 0 .reaped 0 0 |> fun s => { s with ctxs := [(0, { ctx0 with phase := .reaped })] }
def conf1 : PartConf := ⟨[1, 191], [255], [2, 255], [63], [95], (List.range 8).map (504 + ·), [], 0, 0, 0, 0, 0, 0, 0, 0, 0, [], []⟩
def bootedTo (k : Nat) : State := { live with boot := { step := k } }
theorem meets_HeadstockEvents :
    (∃ u l, smFind launchDone.launches 1 = some l ∧ launchOver launchDone l = true ∧ l.sealed = false ∧
      complete (l.tiles.foldl dropLines launchDone) l.part l.recd (if l.killed then 6 else 0) = .ok u) ∧
    (7 < 8 ∧ 6 ≤ (bootedTo 6).boot.step ∧ (bootedTo 6).boot.recovery = false ∧ partAt (bootedTo 6) 7 = none ∧ confOk (bootedTo 6) conf1 = true ∧
      confOk (bootedTo 6) soloPart.conf = false) ∧
    (∀ st : PartSt, partAt { live with parts := [(0, { soloPart with st := st })] } 0 = some { soloPart with st := st }) ∧
    (partAt live 0 = some soloPart ∧ soloPart.st = .running ∧ live.launches = [] ∧ live.futs = [] ∧ (List.replicate 64 (0 : Byte)).length = 64) ∧
    (∃ p, running plated 0 = some p) ∧ badRecord (recOf 1) = false :=
  ⟨⟨_, _, rfl, by decide, by decide, rfl⟩, ⟨by decide, by decide, rfl, rfl, by decide, by decide⟩, fun _ => rfl, ⟨rfl, rfl, rfl, rfl, rfl⟩, ⟨_, rfl⟩, by decide⟩

/-! ## The device -/

/-- The machine in recovery boot, or not. -/
def recovering (r : Bool) : State := { live with boot := { step := 6, recovery := r } }
/-- Spindle 0 dead or not, its contexts reaped and free. -/
def deadSpindle : State := { live with ctxs := [(0, { ctx0 with phase := .reaped })], spindles := [(0, { dead := true })] }
/-- A launch on tile 0, whose spindle 0 is dead with a live control context. -/
def deadControl : State := { live with spindles := [(0, { dead := true })], tiles := [(0, { launch := some 1 })], launches := [(1, launch7)] }
theorem meets_DeadControl : (spinAt deadControl 0).dead = true ∧ (spinAt deadControl 0).retired = false ∧ ended (ctxOf deadControl (16 * 0)) = false ∧
    (tileAt deadControl (0 / 8)).launch = some 1 ∧ smFind deadControl.launches 1 = some launch7 ∧ (tileAt deadControl 0).dead = false ∧
    (∃ p, (sliceAt live 0).dead = false ∧ partOfUnit live .slice 0 = some 0 ∧ partAt live 0 = some p ∧ p.st = .running) :=
  ⟨rfl, rfl, rfl, rfl, rfl, rfl, _, rfl, rfl, rfl, rfl⟩
/-- A word of memory that cannot be corrected; a line lost; a loss walk under way. -/
def harmed : State :=
  { scratchWith id with errs := [(0x400, ⟨true, false, false, 0⟩)], cerrs := [(0x401, true)], lossWalks := [(0, .tile, 5, 0)]
                        parts := [(0, { kvPart with loss := [7, 9], fmta := 0x4000 })] }
def harmedPart : Part := { kvPart with loss := [7, 9], fmta := 0x4000 }
/-- The host link lost for 100 ms, its lines held. -/
def hostGone : State := { live with hostUp := false, time := 100000000, parts := [(0, { soloPart with linkPhase := .held })] }
theorem meets_DeviceEvents :
    runImage (bareDevice live) 0 = none ∧
    (∀ r, (recovering r).boot.recovery = r ∧ 6 ≤ (recovering r).boot.step) ∧ (List.replicate 64 (0 : Byte)).length = 64 ∧ (8 : Nat) ≠ 6 + 1 ∧
    (dieAt live 3).stretched = false ∧
    (2400 % 25 = 0 ∧ 0 ≤ 2400 ∧ { live with fclk := 2375 }.fclk < 2400 ∧ 0 < live.fclk) ∧
    (partOfCore live 0 = some 0 ∧ (agentAt live 0).dead = false ∧ partOfTile live 0 = some 0 ∧ (tileAt live 0).launch = none ∧
      (tileAt live 0).dead = false ∧ partOfTile live (7 / 8) = some 0 ∧ (spinAt live 7).dead = false ∧ unitDead deadSpindle .spindle 0 = true ∧
      (harmed.lossWalks.find? fun w => w.1 == 0 && w.2.1 == .tile && w.2.2.1 == 5) = some (0, .tile, 5, 0)) ∧
    ((spinAt deadSpindle 0).dead = true ∧ (spinAt deadSpindle 0).retired = false ∧
      ∀ i, i < 16 → (ctxOf deadSpindle (16 * 0 + i)).phase = .free ∨ (ctxOf deadSpindle (16 * 0 + i)).phase = .reaped) ∧
    (partAt harmed 0 = some harmedPart ∧ ownerOf harmed (64 * 0x80) = some 0 ∧ scrubBad harmed 0x80 = true ∧
      (0x380 : Word).toNat / 2 ^ 7 % 2 ^ 50 = 7 ∧ 7 ∈ harmedPart.loss ∧ 8 ∉ harmedPart.loss ∧ harmed.hostUp = true ∧ (harmed.devWrites = [] ∧ homeConflict harmed 7 true = false) ∧
      homeConflict { harmed with tiles := [(1, { lines := [(0x40, ⟨.D, 100, 64, 7, false, false, 0, false, 0, 0⟩)] })] } 7 true = true ∧
      (0x20000 : Word).toNat % 2 ^ 16 = 0 ∧ harmedPart.fmta.toNat / 2 ^ 6 % 2 ^ 51 = 0x100 ∧ ownsPa harmed harmedPart (64 * 0x100) = true ∧
      blockBad harmed 0x100 = false) ∧
    (∃ p, partAt hostGone 0 = some p ∧ hostGone.hostUp = false ∧ p.linkPhase = .held ∧ hostGone.hostLost + 1000000 * p.hlhold ≤ hostGone.time ∧
      ∀ e ∈ hostGone.hostHeld, e.part ≠ 0) ∧
    (17 < 18 ∧ 3 ∈ [3, 4] ∧ 3 ∈ { live with dom := { present := [3] } }.dom.present) ∧
    (live.hostUp = true ∧ hostGone.hostUp = false ∧ hostGone.hostHeld = []) :=
  ⟨rfl, fun _ => ⟨rfl, le_refl 6⟩, rfl, by decide, rfl, by decide, ⟨rfl, rfl, rfl, rfl, rfl, rfl, rfl, rfl, by decide⟩, ⟨rfl, rfl, by decide⟩,
   ⟨rfl, rfl, by decide, by decide, by decide, by decide, rfl, ⟨rfl, rfl⟩, rfl, by decide, by decide, rfl, by decide⟩, ⟨_, rfl, rfl, rfl, by decide, by decide⟩, by decide, rfl, rfl, rfl⟩

end Sys2Proof.Tests
end

