-- ==== Sys2Proof/Tests/WitnessRequest.lean ====
section
/-! SUPPORT. Witnesses: states that meet the hypotheses of the statements about requests from outside and Xmerf instructions. -/
set_option maxRecDepth 100000
namespace Sys2Proof.Tests
open Sys2Proof Sys2Proof.Machine Sys2Proof.Safety

/-! ## Xmerf instructions -/

/-- rd x5, rs1 x1, rs2 x2. -/
def xf : RTy := ⟨5, 1, 2⟩
def xPart : Part :=
  { kvPart with conf := { kvPart.conf with futN := 1024, seqN := 16, adpN := 8, uec := [3], hdm := [(0x2000, 16)] }, tools := [⟨1, 3⟩], xmax := 100000000, uecen := true }
def xAgent (m : Mode) (r1 r2 : Word) : Agent := { x := [(1, r1), (2, r2)], mode := m }
/-- Core 0 in a mode with x1 and x2, dwords at 0x2000, futures and sequences. -/
def xmerf (m : Mode) (r1 r2 : Word) (ws : List Nat) (fs : SMap Fut) (qs : SMap Seq) : State :=
  { live with agents := [(0, xAgent m r1 r2)], parts := [(0, xPart)], dom := { devnum := some 0 }, futs := fs, seqs := qs
              mem := dwords (ws.zipIdx.map fun e => (0x2000 + 8 * e.2, e.1)) }
theorem xmerf_core (m : Mode) (r1 r2 : Word) (ws : List Nat) (fs : SMap Fut) (qs : SMap Seq) :
    agentAt (xmerf m r1 r2 ws fs qs) (xmerf m r1 r2 ws fs qs).curCore = xAgent m r1 r2 ∧ (xAgent m r1 r2).dead = false ∧
    partOfCore (xmerf m r1 r2 ws fs qs) 0 = some 0 ∧ partAt (xmerf m r1 r2 ws fs qs) 0 = some xPart ∧ agX (xAgent m r1 r2) xf.rs1.toNat = r1 ∧
    agX (xAgent m r1 r2) xf.rs2.toNat = r2 ∧ (xAgent m r1 r2).mode = m ∧ (∀ e, (xAgent m r1 r2).xfuten.getLsbD e = false) ∧
    (xmerf m r1 r2 ws fs qs).errs = [] ∧ (xmerf m r1 r2 ws fs qs).serrs = [] ∧ (xmerf m r1 r2 ws fs qs).cerrs = [] ∧ (xmerf m r1 r2 ws fs qs).scerrs = [] ∧ (xAgent m r1 r2).l2Errs = [] ∧ (xAgent m r1 r2).l2Fixed = [] :=
  ⟨rfl, rfl, rfl, rfl, rfl, rfl, rfl, fun _ => BitVec.getLsbD_zero, rfl, rfl, rfl, rfl, rfl, rfl⟩
/-- What a core's check of n bytes at 0x2000 answers. -/
abbrev Checked (r1 r2 : Word) (ws : List Nat) (fs : SMap Fut) (qs : SMap Seq) (va n need : Nat) (pas : List Nat) : Prop :=
  agentCheck (xmerf .M r1 r2 ws fs qs) (xAgent .M r1 r2) 0 xPart va n need = .ok pas []
def from2000 (n : Nat) : List Nat := (List.range n).map (0x2000 + ·)
-- nothing holds the lines of a buffer
theorem xmerf_holds (r1 r2 : Word) (ws : List Nat) (fs : SMap Fut) (qs : SMap Seq) (wr : Bool) :
    coreHolds (xmerf .M r1 r2 ws fs qs) 0 0 (from2000 64) wr = [] :=
  List.filter_eq_nil_iff.mpr fun l _ => by
    have : lineConflict (xmerf .M r1 r2 ws fs qs) (fun _ _ => false) l wr = false := by cases wr <;> rfl
    rw [this]; exact Bool.false_ne_true
-- a buffer is memory, and nothing holds its lines
theorem xmerf_open (r1 r2 : Word) (ws : List Nat) (fs : SMap Fut) (qs : SMap Seq) (wr : Bool) (a : Nat) : a ∈ from2000 264 →
    controlOffset (xmerf .M r1 r2 ws fs qs) 0 a = none ∧ lineConflict (xmerf .M r1 r2 ws fs qs) (fun _ _ => false) (a / 128) wr = false ∧
    l2Bad (xmerf .M r1 r2 ws fs qs) (some 0) (a / 128) = false := by
  intro h
  have hl : lineConflict (xmerf .M r1 r2 ws fs qs) (fun _ _ => false) (a / 128) wr = false := by cases wr <;> rfl
  have hc : ∀ x ∈ from2000 264, controlOffset (xmerf .M r1 r2 ws fs qs) 0 x = none := by
    have : ∀ x ∈ from2000 264, controlOffset (xmerf .M 0 0 [] [] []) 0 x = none := by decide
    exact this
  exact ⟨hc a h, hl, rfl⟩
/-- The sequence 15 in a state, two tokens out. -/
def seqOut (st : SeqSt) : Seq := { seq0 st none with out := ⟨0x9000, 4, 3, 2⟩ }

theorem xmerf_strings : Checked 2 0x2000 [64] [] [] 0x2000 8 1 (from2000 8) ∧
    leNat ((from2000 8).map (memByte (xmerf .M 2 0x2000 [64] [] []))) = 64 ∧ (from2000 8).length = 8 ∧
    ∃ tps, Checked 2 0x2000 [64] [] [] 0x2008 256 1 tps := ⟨rfl, rfl, rfl, _, rfl⟩
theorem xmerf_sequences :
    (∀ st ∈ [SeqSt.ready, .prefill, .retired], seqAt (xmerf .M 0xF00000001 0 [] [] [(15, seqOut st)]) 15 = some (seqOut st) ∧
      (seqOut st).st = st ∧ (seqOut st).holder = none) ∧ ownsSeq xPart 15 = true ∧ ownsSeq xPart 16 = false ∧
    ((0xF00000001 : Word).toNat / 2 ^ 32 = 15 ∧ (0xF00000001 : Word).toNat / 2 ^ 4 % 2 ^ 28 = 0 ∧ (0xF00000001 : Word).toNat < 2 ^ 52 ∧
      (0xF00000001 : Word).toNat % 16 = 1) ∧
    -- create: both queues, and the adapter 7; the sequence free and not
    (∃ q, Checked 0xF00000000 0x2000 [0x4007, 0x8000, 4, 0x9000, 0x1000000, 0xFFFFFF] [] [] 0x2000 48 1 (from2000 48) ∧
      createSeq 0 ((from2000 48).map (memByte (xmerf .M 0xF00000000 0x2000 [0x4007, 0x8000, 4, 0x9000, 0x1000000, 0xFFFFFF] [] []))) = some q ∧
      q.adapter = some 7 ∧ ownsAdapter xPart 7 = true ∧ ownsAdapter xPart 8 = false) ∧
    -- push: one token at 0x3000, into a sequence that is ready
    (Checked 0xF00000004 0x2000 [1, 0x3000] [] [(15, seqOut .ready)] 0x2000 16 1 (from2000 16) ∧
      ((from2000 16).map (memByte (xmerf .M 0xF00000004 0x2000 [1, 0x3000] [] [(15, seqOut .ready)]))) = leBytes 8 1 ++ leBytes 8 0x3000 ∧
      (∃ tps, Checked 0xF00000004 0x2000 [1, 0x3000] [] [(15, seqOut .ready)] 0x3000 4 1 tps) ∧
      ∀ ts, ∃ u q2, feedSeq (xmerf .M 0xF00000004 0x2000 [1, 0x3000] [] [(15, seqOut .ready)]) 15 (seqOut .ready) ts = (u, q2)) ∧
    -- outack: both of the tokens out
    (Checked 0xF00000005 0x2000 [2] [] [(15, seqOut .ready)] 0x2000 8 1 (from2000 8) ∧
      leNat (((from2000 8).map (memByte (xmerf .M 0xF00000005 0x2000 [2] [] [(15, seqOut .ready)]))).take 8) = 2 ∧ 2 ≤ (seqOut .ready).out.count) := by
  refine ⟨?_, rfl, rfl, by decide, ⟨_, rfl, rfl, rfl, rfl, rfl⟩, ⟨rfl, rfl, ⟨_, rfl⟩, fun _ => ⟨_, _, rfl⟩⟩, rfl, rfl, by decide⟩
  simp only [List.forall_mem_cons, List.not_mem_nil, false_imp_iff, implies_true, and_true]
  exact ⟨⟨rfl, rfl, rfl⟩, ⟨rfl, rfl, rfl⟩, rfl, rfl, rfl⟩
/-- Futures: 1 opened or taken by core 0. -/
def fut1 (st : FutSt) : SMap Fut := [(1, fut0 st)]
theorem xmerf_futures :
    (∀ st ∈ [FutSt.opened, .taken 0], matchFut (xmerf .M 1 77 [] (fut1 st) []) 0 1 77 = some (1, fut0 st) ∧ (fut0 st).st = st) ∧
    matchFut (xmerf .M 1 78 [] (fut1 .opened) []) 0 1 78 = none ∧ (77 : Word).toNat < 2 ^ 48 ∧
    ((0xFFFF00000000004D : Word).toNat / 2 ^ 48 = 0xFFFF ∧ (0xFFFF00000000004D : Word).toNat % 2 ^ 48 = 77 ∧
      (xmerf .M 1 77 [] (fut1 (.taken 0)) []).time + 1000 * 0xFFFF ≤ (fut0 (.taken 0)).openedAt + xPart.xmax) ∧
    (Checked 1 0x2000 [77, 0, 0x3000] (fut1 .opened) [] 0x2000 24 1 (from2000 24) ∧
      ((from2000 24).map (memByte (xmerf .M 1 0x2000 [77, 0, 0x3000] (fut1 .opened) []))) = leBytes 8 77 ++ leBytes 8 0 ++ leBytes 8 0x3000) ∧
    (Checked 0x2000 3 [] (fut1 .opened) [] 0x2000 64 2 (from2000 64) ∧ (from2000 64).Nodup ∧ (from2000 64).length = 64 ∧
      findCall (xmerf .M 0x2000 3 [] (fut1 .opened) []) xPart 3 false = some (⟨1, 3⟩, fut0 .opened) ∧
      findCall (xmerf .M 0x2000 4 [] (fut1 .opened) []) xPart 4 false = none ∧
      findCall (xmerf .M 0x2000 (2 ^ 63) [] (fut1 .opened) []) xPart 0 true = some (⟨1, 3⟩, fut0 .opened) ∧
      ((2 ^ 63 : Word).toNat % 2 ^ 16 = 0 ∧ (2 ^ 63 : Word).toNat.testBit 63 = true ∧ (2 ^ 63 : Word).toNat / 2 ^ 16 % 2 ^ 47 = 0)) ∧
    Checked 15 0x2000 [] [] [] 0x2000 64 2 (from2000 64) := by
  refine ⟨?_, rfl, by decide, by decide, ⟨rfl, rfl⟩, ⟨rfl, by decide, rfl, rfl, rfl, rfl, by decide⟩, rfl⟩
  simp only [List.forall_mem_cons, List.not_mem_nil, false_imp_iff, implies_true, and_true]
  exact ⟨⟨rfl, rfl⟩, rfl, rfl⟩
-- futures that a core in U-mode may take, and one of a sequence that is answered with a token at 0x3000
theorem xmerf_user : ({ xAgent .U 1 2 with xfuten := 0x9F } : Agent).xfuten.getLsbD 0 = true ∧ ({ xAgent .U 1 2 with xfuten := 0x9F } : Agent).xfuten.getLsbD 7 = true ∧
    (Checked 1 0x2000 [77, 1, 0x3000] [(1, { fut0 (.taken 0) with seq := some 3 })] [] 0x3000 4 1 ((List.range 4).map (0x3000 + ·)) ∧
      matchFut (xmerf .M 1 0x2000 [77, 1, 0x3000] [(1, { fut0 (.taken 0) with seq := some 3 })] []) 0 1 77 = some (1, { fut0 (.taken 0) with seq := some 3 })) :=
  ⟨by decide, by decide, rfl, rfl⟩
/-- A core in U-mode with checks on, whose entries 30 and 31 admit the byte at 0x2000; PMP lets it read. -/
def capped : Agent :=
  { xAgent .U 0x2000 1 with xfuten := 0x80, xcapctl := 1, caps := [(30, ⟨0x2000, 1, 5, 1⟩), (31, ⟨0, 0x10000, 6, 7⟩)], csr := [(0x3A0, 0x1F), (0x3B0, 0x3FFFFFFFFFFFFF)] }
theorem xmerf_caps : checked capped = true ∧ checked (xAgent .M 0 0) = false ∧ (0x2000 : Word).toNat < 2 ^ 64 ∧
    (∃ held, agentWalk ⟨xmerf .U 0x2000 1 [] [] [], capped, 0, xPart, dataAcc capped 1, maskPtr capped (dataAcc capped 1) 0x2000⟩ = .ok (0x2000, held) []) ∧
    agentPa (xmerf .U 0x2000 1 [] [] []) capped 0x2000 = some 0x2000 ∧
    ((capAt capped 30).base ≤ 0x2000 ∧ 0x2000 < (capAt capped 30).base + (capAt capped 30).len ∧ Nat.land (capAt capped 30).rights 1 = 1 ∧
      ∀ j, j < 30 → ¬ ((capAt capped j).base ≤ 0x2000 ∧ 0x2000 < (capAt capped j).base + (capAt capped j).len ∧ Nat.land (capAt capped j).rights 1 = 1)) ∧
    -- a byte that no entry admits, at no address
    (∀ j, j < 32 → ¬ ((capAt capped j).base ≤ 0x10000 ∧ 0x10000 < (capAt capped j).base + (capAt capped j).len ∧ Nat.land (capAt capped j).rights 1 = 1)) ∧
    agentPa (xmerf .U 0x2000 1 [] [] []) capped (2 ^ 56) = none :=
  ⟨rfl, rfl, by decide, ⟨_, rfl⟩, rfl, by decide, by decide, rfl⟩
/-- Core 0 in HS-mode under Sv39, its table at 0x10000, with all of memory under PMP entry 0; the table's line held by a stash. -/
def pagedCore : Agent := { xAgent .HS 0 0 with csr := [(0x180, word (2 ^ 63 + 0x10)), (0x3A0, 0x1F), (0x3B0, word (2 ^ 54 - 1))] }
def tableHeld : State :=
  { xmerf .HS 0 0 [] [] [] with agents := [(0, pagedCore)], tiles := [(0, { lines := [(0x40, ⟨.D, 100, 64, 0x200, false, false, 0, false, 0, 0⟩)] })] }
-- a walk that a lease holds up
theorem xmerf_waits : agentWalk ⟨tableHeld, agentAt tableHeld 0, 0, xPart, dataAcc (agentAt tableHeld 0) 1, 0x2000⟩ = .wait [0x200] := rfl
/-- A completion of future 1 from endpoint 3. -/
def uecBytes : List Byte := leBytes 8 1 ++ leBytes 6 77 ++ leBytes 1 1 ++ leBytes 17 0
theorem meets_XmerfResults : (∀ m r1 r2 ws fs qs, agentAt (xmerf m r1 r2 ws fs qs) 0 = xAgent m r1 r2 ∧ partAt (xmerf m r1 r2 ws fs qs) 0 = some xPart) ∧
    (∀ m ∈ [Mode.U, .VS, .VU], m ≠ .M ∧ m ≠ .HS) ∧
    Checked 2 0x2000 [64] [] [] 0x2000 8 1 (from2000 8) ∧ Checked 1 0x2000 [77, 0, 0x3000] (fut1 .opened) [] 0x2000 24 1 (from2000 24) ∧
    ((xmerf .M 0 0 [] (fut1 .opened) []).parts = [(0, xPart)] ∧ xPart.conf.uec = [3] ∧ xPart.uecen = true ∧ xPart.st = .running ∧
      32 ≤ uecBytes.length ∧ leNat ((uecBytes.drop 14).take 1) = 1 ∧ leNat ((uecBytes.drop 15).take 1) = 0 ∧
      leNat ((uecBytes.drop 16).take 4) = 0 ∧ leNat ((uecBytes.drop 20).take 12) = 0 ∧
      matchFut (xmerf .M 0 0 [] (fut1 .opened) []) 0 (leNat (uecBytes.take 8)) (leNat ((uecBytes.drop 8).take 6)) = some (1, fut0 .opened)) :=
  ⟨fun _ _ _ _ _ _ => ⟨rfl, rfl⟩, by decide, xmerf_strings.1, xmerf_futures.2.2.2.2.1.1,
   ⟨rfl, rfl, rfl, rfl, by decide, by decide, by decide, by decide, by decide, rfl⟩⟩

/-! ## Requests -/

/-- Context 1 in a phase, halted or not. -/
def ctx1 (p : Phase) (h : Bool) : Ctx := { ctx0 with phase := p, halted := h, svc := h }
-- halted, parked by PARK, and parked by a nested fault
theorem requests_parked : (∀ p, p = .parked ∨ p = .inService → (ctx1 p true).byNested = false ∧ (ctx1 p true).byPark = false) ∧
    (({ ctx1 .parked false with wait := .service true } : Ctx).byPark = true ∧ ({ ctx1 .parked false with wait := .service true } : Ctx).byNested = false) ∧
    ({ ctx1 .parked true with wait := .service false } : Ctx).byNested = true :=
  ⟨by rintro p (rfl | rfl) <;> exact ⟨rfl, rfl⟩, ⟨rfl, rfl⟩, rfl⟩
def asked (p : Phase) (h : Bool) : State := { live with ctxs := [(0, ctx0), (1, ctx1 p h)] }
/-- Memory of partition 0 from 0x2000; nothing leased, nothing lost. -/
def hosted : State := xmerf .M 0 0 [5, 6] [] []
theorem requests_contexts :
    (∀ p h, ctxOf (asked p h) 1 = ctx1 p h ∧ isSealed (asked p h) 1 = false ∧ (spinAt (asked p h) (1 / 16)).dead = false ∧ (ctx1 p h).phase = p ∧
      (ctx1 p h).reqs = [] ∧ (ctx1 p h).halted = h ∧ (ctx1 p h).wait ≠ .service true ∧ ∀ k, (ctx1 p h).claim = some k → k.reclaim = false) ∧
    (∀ p ∈ [Phase.live, .parked, .inService, .saved], p ∉ ([.free, .reaped] : List Phase)) ∧
    (selOf 0x3F0001 = some ⟨1, 0, 63, 0⟩ ∧ (0 : Nat) ≠ 7 ∧ ∀ w, selOk (ctx1 .parked false) ⟨1, 0, 63, 0⟩ w = true) :=
  ⟨fun _ _ => ⟨rfl, rfl, rfl, rfl, rfl, rfl, by simp [ctx1, ctx0], fun _ h => by cases h; rfl⟩, by decide, by decide, by decide, by decide⟩
theorem requests_queues : (∀ st, isSealed (serving 0 0 0 .live st []) (128 * 0) = false ∧ 7 / 8 = 0 ∧ 0 / 8 = 0 ∧ 10 < 11 ∧
      (queueAt (serving 0 0 0 .live st []) 0 0).stop = st) ∧ (some ⟨1, 0, 0⟩ : Option StopRec) ≠ none ∧ 2 ^ 22 - 64 + 64 ≤ 2 ^ 22 :=
  ⟨fun _ => ⟨rfl, by decide, by decide, by decide, rfl⟩, by decide, by decide⟩
theorem requests_access : hosted.parts = [(0, xPart)] ∧ hosted.hostUp = true ∧ hosted.errs = [] ∧ hosted.serrs = [] ∧ hosted.cerrs = [] ∧ hosted.scerrs = [] ∧ hosted.hostQueue = [] ∧
    hosted.remoteQueue = [] ∧ from2000 16 = (List.range 16).map (fun i => localPa hosted (0x2000 + i)) ∧ (List.replicate 16 (7 : Byte)).length = 16 ∧
    (∀ a ∈ from2000 16, ownsPa hosted xPart a = true ∧ inHdm xPart (paLocal a) = true ∧ a / 128 ∉ xPart.loss ∧ homeConflict hosted (a / 128) false = false ∧
      homeConflict hosted (a / 128) true = false) ∧
    (xPart.st = .running ∧ hosted.dom.devnum ≠ none ∧ 5 ∉ hosted.dom.unreachable ∧ 5 ∉ hosted.dom.fenced ∧
      targetCheck hosted xPart 0 .load ((from2000 16).map fun a => (0, a)) = none) :=
  ⟨rfl, rfl, rfl, rfl, rfl, rfl, rfl, rfl, rfl, rfl, by decide, rfl, by decide, by decide, by decide, rfl⟩
-- CSRs of the core's own below its privilege level; a load that PMP refuses, and one whose walk waits
theorem requests_core :
    (∀ m, (agentAt (xmerf m 0 0 [5] [] []) 0).dead = false ∧ partOfCore (xmerf m 0 0 [5] [] []) 0 = some 0 ∧
      partAt (xmerf m 0 0 [5] [] []) 0 = some xPart ∧ (agentAt (xmerf m 0 0 [5] [] []) 0).mode = m) ∧
    (∀ m ∈ [Mode.U, .VS, .VU], m ≠ .M ∧ m ≠ .HS) ∧ csrFault (xAgent .U 0 0) 0x300 true = some 2 ∧ csrFault (xAgent .VS 0 0) 0x200 true = some 22 ∧
    (Checked 0 0 [5] [] [] 0x2000 8 1 (from2000 8) ∧ farGone (xmerf .M 0 0 [5] [] []) 0 = xmerf .M 0 0 [5] [] [] ∧ coreWaits (xmerf .M 0 0 [5] [] []) 0 = false ∧
      coreHolds (xmerf .M 0 0 [5] [] []) 0 0 (from2000 8) false = [] ∧ 0x2000 < 2 ^ 64) ∧
    coreHolds { tableHeld with agents := [(0, xAgent .M 0 0)] } 0 0 [0x10000] false = [0x200] ∧
    (∃ e, agentCheck (xmerf .U 0 0 [] [] []) (xAgent .U 0 0) 0 xPart 0x2000 8 1 = .trap e) ∧
    agentCheck tableHeld (agentAt tableHeld 0) 0 xPart 0x2000 8 1 = .wait [0x200] :=
  ⟨fun _ => ⟨rfl, rfl, rfl, rfl⟩, by decide, by decide, by decide, ⟨rfl, rfl, rfl, rfl, by decide⟩, rfl, ⟨_, rfl⟩, rfl⟩
-- a host write to a line that a stash holds
theorem requests_waits : tableHeld.hostUp = true ∧ tableHeld.hostQueue = [] ∧ hostWaits tableHeld ⟨true, 0x10000, 1, [7]⟩ ≠ [] ∧
    -- and one of 16 bytes that the decoder's range does not hold
    (hostWaits hosted ⟨false, 0x2001, 16, []⟩ = [] ∧ ∀ e ∈ hosted.parts, ∃ a ∈ localBytes hosted 0x2001 16,
      ¬ (ownsPa hosted e.2 a = true ∧ ∃ h ∈ e.2.conf.hdm, h.1 ≤ paLocal a ∧ paLocal a < h.1 + h.2)) :=
  ⟨rfl, rfl, by decide, rfl, by
    intro e he
    obtain rfl := List.mem_singleton.mp he
    exact ⟨0x2010, by decide, by decide⟩⟩
theorem meets_RequestEvents : (ctxOf (asked .live false) 1 = ctx1 .live false ∧ isSealed (asked .live false) 1 = false) ∧
    isSealed (serving 0 0 0 .live none []) (128 * 0) = false ∧ hosted.parts = [(0, xPart)] ∧
    (∃ p, partAt live 0 = some p ∧ p.conf.tiles = [0] ∧ live.serrs = [] ∧ live.hostUp = true ∧
      partAt live 7 = none ∧ booted (recovering false) 6 = true ∧ 15 < 16 ∧ 0x1000 % 4096 = 0 ∧ 0x2000 % 4096 = 0 ∧ 0 < 0x2000) ∧
    -- a dirty line of host memory that a closed window leaves
    (isHost (paLocal (128 * (2 ^ 36 + 1))) = true ∧ inWindows [] (paLocal (128 * (2 ^ 36 + 1)) - 2 ^ 43) = false ∧
      mapAt { launch := some 1, maps := [(0, ⟨0x2000, 256, 0, 0, false, 0, 0⟩)], lines := [(0x40, ⟨.D, 100, 64, 2 ^ 36 + 1, false, false, 0, false, 0, 0⟩)] } (0x40 * 128) =
        some (0, ⟨0x2000, 256, 0, 0, false, 0, 0⟩)) ∧
    Checked 0 0 [5] [] [] 0x2000 8 1 (from2000 8) :=
  ⟨⟨rfl, rfl⟩, rfl, rfl, ⟨_, rfl, rfl, rfl, rfl, rfl, rfl, by decide⟩, ⟨rfl, rfl, rfl⟩, requests_core.2.2.2.2.1.1⟩

end Sys2Proof.Tests
end

