-- ==== Sys2Proof/Tests/WitnessMachine.lean ====
section
/-! SUPPORT. Witnesses: states, words and executions that meet the hypotheses of the statements about the whole machine. -/
set_option maxRecDepth 100000
namespace Sys2Proof.Tests
open Sys2Proof Sys2Proof.Machine Sys2Proof.Safety

/-- Core 0 with a next word: futExt x1, x2, x3; custom-0 with funct3 1; an ADDI; `FENCE.I`. -/
def coredWith (w : Nat) : State := State.reset.withFetchWord 32 w
def cored : State := coredWith 0x0631008B
/-- The state in which a step runs that word. -/
def coredBegun (w : Nat) : State := { begin (coredWith w) [] with curCore := 0 }
/-- A supply sag is next. -/
def sags : State := { watched 3 0 with agenda := [.ev (.supplySag 0)] }
theorem steps_slot : (ctxOf (begin offered []) 0).refetch = false ∧ offered.agenda = .ev (.turnOffer 0) :: [] ∧ (begin offered []).cur = 0 ∧ rotation (begin offered []) 0 = 0 :: [] ∧
    fetchBundle (begin offered []) 0 = .bundle (Bundle.single (word (fetchBundle (begin offered []) 0).pc) 0x00000A0603800000) ∧
    bundleCharge (Bundle.single 0 0x00000A0603800000) ((ctxOf (begin offered []) 0).lanes / 8) ≤ (ctxOf (begin offered []) 0).bud :=
  ⟨rfl, rfl, rfl, rfl, rfl, by decide⟩
theorem steps_word : decodeSlot 0x00000A0603800000 = .ok (.add ⟨0, false, 5, 6, 7, 0, 0, 0⟩) := by rfl
theorem steps_core : ∀ w ∈ [0x0631008B, 0x0000100B, 0x00000013, 0x100F], (coredWith w).agenda = .core 0 :: [] ∧ (agentAt (coredBegun w) 0).dead = false ∧
    partOfCore (coredBegun w) 0 ≠ none ∧ pendingIrq (coredBegun w) (agentAt (coredBegun w) 0) = none ∧ ∃ pas reads, coreFetch (coredBegun w) 0 = .word w 4 pas reads := by
  simp only [List.forall_mem_cons, List.not_mem_nil, false_imp_iff, implies_true, and_true]
  exact ⟨⟨rfl, rfl, by decide, rfl, _, _, rfl⟩, ⟨rfl, rfl, by decide, rfl, _, _, rfl⟩, ⟨rfl, rfl, by decide, rfl, _, _, rfl⟩, rfl, rfl, by decide, rfl, _, _, rfl⟩
theorem steps_core_words : 0x0631008B % 128 = 0x0B ∧ 0x0000100B % 128 = 0x0B ∧ (∃ e, decodeXmerf (BitVec.ofNat 32 0x0000100B) = .error e) ∧
    0x00000013 % 128 ≠ 0x0B := ⟨by decide, by decide, ⟨_, rfl⟩, by decide⟩
theorem meets_StepRunsInstruction : sags.agenda = .ev (.supplySag 0) :: [] ∧ offered.agenda = .ev (.turnOffer 0) :: [] ∧ cored.agenda = .core 0 :: [] ∧
    decodeSlot 0x00000A0603800000 = .ok (.add ⟨0, false, 5, 6, 7, 0, 0, 0⟩) ∧ (decodeXmerf 0x0631008B).isOk = true := ⟨rfl, rfl, rfl, steps_word, rfl⟩

-- an instruction of a slot and one of an agent core, with their words
theorem meets_EncodeDecode : encode (.add ⟨0, false, 5, 6, 7, 0, 0, 0⟩) = .slot 0x00000A0603800000 ∧ WellFormed (.add ⟨0, false, 5, 6, 7, 0, 0, 0⟩) = true ∧
    decodeSlot 0x00000A0603800000 = .ok (.add ⟨0, false, 5, 6, 7, 0, 0, 0⟩) ∧ (∃ i, encode i = .riscv 0x0631008B) ∧
    (∃ i, decodeXmerf 0x0631008B = .ok i) := ⟨rfl, by decide, steps_word, ⟨.futExt ⟨1, 2, 3⟩, rfl⟩, _, rfl⟩

-- a step after which the slice still has its monitor
theorem meets_MonitorsKept : ∃ t, Machine.step sags = .next t ∧ (sliceAt t 0).monitors = [⟨0x4000, 3, [0]⟩] := ⟨_, rfl, rfl⟩

-- `add` outside service
theorem meets_RegisterFrame : encode (.add f12) = .slot (f12.pack 0) ∧ (opField (f12.pack 0)).toNat < 0x80 ∧ (me live).svc = false ∧
    opField (f12.pack 0) ≠ 0x30 ∧ (me live).pend = [] ∧ ∃ t, exec (.add f12) live = .next t ∧ (ctxOf t live.cur).svc = false :=
  ⟨rfl, by decide, rfl, by decide, rfl, _, rfl, rfl⟩

/-! ## Executions -/

open Sys2Proof.Ordering
/-- The word of an M operation of x5 at x6, its scope and order given. -/
def memWord (op : BitVec 8) (scope order : BitVec 3) : Word := MEMF.pack op ⟨0, false, 5, 6, 0, scope, order, 0⟩
/-- The bytes of a store of a value, and the publish bit of its line. -/
def stored (l n : Nat) (v : Byte) : List (Nat × Byte) := (List.range n).map (fun k => (l + k, if k = 0 then v else 0)) ++ [(pubLoc l, 0)]
/-- A bundle with one operation in slot M. -/
def one (i : Nat) (w : Word) : Happening := .issue { issue := i, ops := [{ slot := 2, word := w }] }
/-- Context 0 stores 1 at 0 and then, with an order, at 8; context 1 loads from 8 and then from 0. -/
def passes (rel acq : BitVec 3) (o1 o2 : Order) (data : Option Nat) : Exec :=
  { events := [{ agent := .ctx 0 0, made := .op 2, kind := .write, issue := 0, writes := stored 0 8 1 },
    { agent := .ctx 0 0, made := .op 2, kind := .write, order := o1, issue := 1, writes := stored 8 8 1 },
    { agent := .ctx 0 1, made := .op 2, kind := .read, order := o2, issue := 0, reads := (List.range 8).map (8 + ·) },
    { agent := .ctx 0 1, made := .op 2, kind := .read, issue := 1, reads := List.range 8 }]
    co := (List.range 8).map (fun k => (k, [0])) ++ (List.range 8).map (fun k => (8 + k, [1])) ++ [(2 ^ 64, [0, 1])]
    rf := (List.range 8).map (fun k => (2, 8 + k, some 1)) ++ (List.range 8).map (fun k => (3, k, data))
    threads := [(.ctx 0 0, [one 0 (memWord 0xAA 1 0), one 1 (memWord 0xAA 1 rel)]), (.ctx 0 1, [one 0 (memWord 0xA6 1 acq), one 1 (memWord 0xA6 1 0)])] }
/-- With release and acquire. -/
def passed : Exec := passes 2 1 .rel .acq (some 0)
-- without them the older bytes may be found, with them not
theorem passes_stale : allowed (passes 0 0 .rlx .rlx none) = true := by decide +kernel
theorem passes_fresh : allowed passed = true := by decide +kernel
theorem passes_never : allowed (passes 2 1 .rel .acq none) = false := by decide +kernel
/-- The engine example of 06_ordering_rules.md; `w` tells whether the context waits for the token, `d` what the last load finds. -/
def engineRun (w : Bool) (d : Option Nat) : Exec :=
  { events := [{ agent := .ctx 0 0, made := .op 2, kind := .write, issue := 0, stash := [0, 1, 2, 3], writes := (stored (scratchLoc 0 0) 4 7).take 4 },
    { agent := .queue 0 0 3, made := .engine, kind := .read, cmd := some 0, stash := [0, 1, 2, 3], reads := (List.range 4).map (scratchLoc 0 ·) },
    { agent := .queue 0 0 3, made := .engine, kind := .write, cmd := some 0, writes := stored 0 4 7 },
    { agent := .queue 0 0 3, made := .sync .token (.ctx 0 0) 0, kind := .write, order := .rel, scope := .dev, cmd := some 0, writes := [(syncLoc 0, 1)] },
    { agent := .ctx 0 0, made := .op 2, kind := .write, order := .rel, scope := .dev, issue := 3, writes := stored 128 8 1 },
    { agent := .ctx 0 128, made := .op 2, kind := .read, order := .acq, scope := .dev, issue := 0, reads := (List.range 8).map (128 + ·) },
    { agent := .ctx 0 128, made := .op 2, kind := .read, issue := 1, reads := List.range 4 }] ++
    (if w then [{ agent := .ctx 0 0, made := .sync .token (.queue 0 0 3) 0, kind := .read, order := .acq, scope := .dev, issue := 2, reads := [syncLoc 0] }] else [])
    co := (List.range 4).map (fun k => (scratchLoc 0 k, [0])) ++ (List.range 4).map (fun k => (k, [2])) ++ (List.range 8).map (fun k => (128 + k, [4])) ++
      [(pubLoc 0, [2]), (pubLoc 128, [4]), (syncLoc 0, [3])]
    rf := (List.range 4).map (fun k => (1, scratchLoc 0 k, some 0)) ++ (List.range 8).map (fun k => (5, 128 + k, some 4)) ++
      (List.range 4).map (fun k => (6, k, d)) ++ (if w then [(7, syncLoc 0, some 3)] else [])
    threads := [(.ctx 0 0, [one 0 (memWord 0xA9 1 0)] ++
        (if w then [.issue { issue := 2, ops := [{ slot := 4, word := ENGF.pack 0xC8 ⟨0, false, 0, 1, 0, 0, 0, 0, 0, 0⟩ }] }] else []) ++
        [one 3 (memWord 0xAA 3 2)]), (.ctx 0 128, [one 0 (memWord 0xA6 3 1), one 1 (memWord 0xA4 1 0)])]
    cmds := [{ queue := .queue 0 0 3, place := 0, issuer := .ctx 0 0, issue := 1, op := 0xB4 }] }
-- stale data is forbidden when the token is awaited, and allowed when it is not
theorem engine_awaited : allowed (engineRun true none) = false := by decide +kernel
theorem engine_fresh : allowed (engineRun true (some 2)) = true := by decide +kernel
theorem engine_unawaited : allowed (engineRun false none) = true := by decide +kernel
/-- The same copy, its token awaited; the issuer then loads what it wrote. -/
def tokenRun : Exec :=
  { events := [{ agent := .ctx 0 0, made := .op 2, kind := .write, issue := 0, stash := [0, 1, 2, 3], writes := (stored (scratchLoc 0 0) 4 7).take 4 },
    { agent := .queue 0 0 3, made := .engine, kind := .read, cmd := some 0, stash := [0, 1, 2, 3], reads := (List.range 4).map (scratchLoc 0 ·) },
    { agent := .queue 0 0 3, made := .engine, kind := .write, cmd := some 0, writes := stored 0 4 7 },
    { agent := .queue 0 0 3, made := .sync .token (.ctx 0 0) 0, kind := .write, order := .rel, scope := .dev, cmd := some 0, writes := [(syncLoc 0, 1)] },
    { agent := .ctx 0 0, made := .sync .token (.queue 0 0 3) 0, kind := .read, order := .acq, scope := .dev, issue := 2, reads := [syncLoc 0] },
    { agent := .ctx 0 0, made := .op 2, kind := .read, issue := 3, reads := List.range 4 }]
    co := (List.range 4).map (fun k => (scratchLoc 0 k, [0])) ++ (List.range 4).map (fun k => (k, [2])) ++ [(pubLoc 0, [2]), (syncLoc 0, [3])]
    rf := (List.range 4).map (fun k => (1, scratchLoc 0 k, some 0)) ++ (List.range 4).map (fun k => (5, k, some 2)) ++ [(4, syncLoc 0, some 3)]
    threads := [(.ctx 0 0, [one 0 (memWord 0xA9 1 0), .issue { issue := 2, ops := [{ slot := 4, word := ENGF.pack 0xC8 ⟨0, false, 0, 1, 0, 0, 0, 0, 0, 0⟩ }] },
        one 3 (memWord 0xA4 1 0)])]
    cmds := [{ queue := .queue 0 0 3, place := 0, issuer := .ctx 0 0, issue := 1, op := 0xB4 }] }
theorem token_fresh : allowed tokenRun = true := by decide +kernel
/-- Two swaps at 0, and a store. -/
def rmws : Exec :=
  { events := [{ agent := .ctx 0 0, made := .op 2, kind := .rmw, reads := List.range 8, writes := stored 0 8 1 },
    { agent := .ctx 0 1, made := .op 2, kind := .rmw, reads := List.range 8, writes := stored 0 8 2 },
    { agent := .ctx 0 2, made := .op 2, kind := .write, writes := stored 0 8 3 }]
    co := (List.range 8).map (fun k => (k, [2, 0, 1])) ++ [(2 ^ 64, [2, 0, 1])]
    rf := (List.range 8).map (fun k => (0, k, some 2)) ++ (List.range 8).map (fun k => (1, k, some 0))
    threads := [(.ctx 0 0, [one 0 (memWord 0xC2 1 0)]), (.ctx 0 1, [one 0 (memWord 0xC2 1 0)]), (.ctx 0 2, [one 0 (memWord 0xAA 1 0)])] }
theorem rmws_apart : allowed rmws = true := by decide +kernel
theorem meets_MessagePassing :
    (⟨.tile, .ctx 0 0⟩ ∈ instances passed ∧ ∃ ew ef er ed, passed.events = [ew, ef, er, ed] ∧ ew.kind = .write ∧ po ew ef = true ∧
      ef.releases = true ∧ er.acquires = true ∧ po er ed = true ∧ ed.isRead = true ∧ 0 ∈ ew.wlocs ∧ 0 ∈ ed.reads ∧ 8 ∈ er.reads ∧
      passed.src 2 8 = some 1 ∧ ef.agent ≠ er.agent ∧ Inst.has ⟨.tile, .ctx 0 0⟩ ef.agent = true ∧ Inst.has ⟨.tile, .ctx 0 0⟩ er.agent = true ∧
      covers ef.scope ef.agent ⟨.tile, .ctx 0 0⟩ = true ∧ covers er.scope er.agent ⟨.tile, .ctx 0 0⟩ = true) ∧
    (∃ ea eb ew, rmws.events = [ea, eb, ew] ∧ ea.kind = .rmw ∧ eb.kind = .rmw ∧ 0 ∈ ea.reads ∧ 0 ∈ ea.wlocs ∧ 0 ∈ eb.reads ∧
      0 ∈ eb.wlocs ∧ 0 ∈ ew.wlocs ∧ atomicAgainst ea eb = true ∧ atomicAgainst eb ea = true ∧
      scopeContains ea.scope ea.agent ew.agent = true ∧ scopeContains ew.scope ew.agent ea.agent = true) ∧
    (⟨.dev, .ctx 0 0⟩ ∈ instances tokenRun ∧ ∃ ew ef er ed c, tokenRun.events[2]? = some ew ∧ tokenRun.events[3]? = some ef ∧
      tokenRun.events[4]? = some er ∧ tokenRun.events[5]? = some ed ∧ ew.made = .engine ∧ ew.kind = .write ∧ ef.made = .sync .token (.ctx 0 0) 0 ∧
      ef.kind = .write ∧ ef.cmd = ew.cmd ∧ ef.agent = ew.agent ∧ tokenRun.command ef = some c ∧ er.acquires = true ∧ po er ed = true ∧
      ed.isRead = true ∧ 0 ∈ ew.wlocs ∧ 0 ∈ ed.reads ∧ syncLoc 0 ∈ er.reads ∧ tokenRun.src 4 (syncLoc 0) = some 3 ∧ ef.agent ≠ er.agent ∧
      Inst.has ⟨.dev, .ctx 0 0⟩ ef.agent = true ∧ Inst.has ⟨.dev, .ctx 0 0⟩ er.agent = true ∧
      covers c.completes ef.agent ⟨.dev, .ctx 0 0⟩ = true ∧ covers er.scope er.agent ⟨.dev, .ctx 0 0⟩ = true) :=
  ⟨⟨by decide, _, _, _, _, rfl, by decide⟩, ⟨_, _, _, rfl, by decide⟩, by decide, _, _, _, _, _, rfl, rfl, rfl, rfl, rfl, rfl, rfl, rfl, rfl, rfl, rfl,
   by decide⟩

end Sys2Proof.Tests
end

