-- ==== Sys2Proof/Tests/WitnessForms.lean ====
section
/-! SUPPORT. Witnesses of the further clauses of statements about memory operations, attention, tasks, dispatch, channels and saves. -/
set_option maxRecDepth 100000
namespace Sys2Proof.Tests
open Sys2Proof Sys2Proof.Machine Sys2Proof.Safety

/-! ## Memory operations -/

/-- x1 outside the canonical ranges. -/
def astray : State := scratchWith fun c => { c with x := [(1, 0x4000000000000000)] }
/-- A higher core has announced an event of this window. -/
def announcing : State := { scratch with scOut := [⟨0, 5, 0, none, 0⟩] }
/-- Every operation that loads, stores or does both. -/
noncomputable def memoryOps (f : MEMF) : List Instr :=
  [.ldS8 f, .ldZ8 f, .ldS16 f, .ldZ16 f, .ldS32 f, .ldZ32 f, .ldS64 f, .stS8 f, .stS16 f, .stS32 f, .stS64 f, .amoAdd f, .amoAnd f, .amoOr f,
   .amoXor f, .amoMinS f, .amoMinZ f, .amoMaxS f, .amoMaxZ f, .amoSwap f, .amoCas f, .amoAddF32 f]
-- at 0x11F8 the home is asked; at an address outside the canonical ranges there is a fault; an access of order `.sc` waits
theorem access_forms :
    (∀ i ∈ memoryOps (m1 0 0x100 0), WellFormed i = true) ∧
    (∀ i ∈ [Instr.vldS32 (m1 383 0x100 0), .vstS32 (m1 383 0x100 0), .vldS16 (m1 383 0x100 0), .vstS16 (m1 383 0x100 0)], WellFormed i = true) ∧
    (Ready scratch ∧ (me scratch).hasClaim = true ∧ Reads scratch [0, 1] ([0] ++ [0x10F8]) [] ∧ scHeld scratch 0 0 = false ∧
      ∀ need ∈ [Need.load, .store, .amo], ∀ n ∈ [1, 2, 4, 8, 16, 32],
        ∃ t hs, access scratch (homeReq scratch need false true) (address (m1 0 0x100 0) 0x10F8) n = .hold t hs) ∧
    (Ready astray ∧ (me astray).hasClaim = true ∧ Enabled astray 0 false ∧ Reads astray [0, 1] ([0] ++ [0x4000000000000000]) [] ∧
      address (m1 0 0x100 0) 0x4000000000000000 % 8 = 0 ∧
      ∀ need ∈ [Need.load, .store, .amo], ∀ n ∈ [1, 2, 4, 8, 16, 32],
        ∃ x, access astray (homeReq astray need false true) (address (m1 0 0x100 0) 0x4000000000000000) n = .fault x) ∧
    (Ready announcing ∧ Reads announcing [1] ([] ++ [0x10F8]) [] ∧ WellFormed (.ldS8 ⟨0, false, 0, 1, 0, 3, 4, 0⟩) = true ∧
      WellFormed (.amoAdd ⟨0, false, 0, 1, 0, 3, 4, 0⟩) = true ∧ WellFormed (.fence ⟨0, false, 0, 0, 0, 3, 4, 0⟩) = true ∧ scHeld announcing 0 4 = true) := by
  refine ⟨by decide, by decide, ⟨scratch_ready, rfl, rfl, rfl, ?_⟩, ⟨⟨by decide, rfl⟩, rfl, rfl, rfl, by decide, ?_⟩, ⟨by decide, rfl⟩, rfl, by decide, by decide,
    by decide, rfl⟩ <;>
    simp only [List.forall_mem_cons, List.not_mem_nil, false_imp_iff, implies_true, and_true]
  · exact ⟨⟨⟨_, _, rfl⟩, ⟨_, _, rfl⟩, ⟨_, _, rfl⟩, ⟨_, _, rfl⟩, ⟨_, _, rfl⟩, _, _, rfl⟩, ⟨⟨_, _, rfl⟩, ⟨_, _, rfl⟩, ⟨_, _, rfl⟩, ⟨_, _, rfl⟩, ⟨_, _, rfl⟩, _, _, rfl⟩,
      ⟨_, _, rfl⟩, ⟨_, _, rfl⟩, ⟨_, _, rfl⟩, ⟨_, _, rfl⟩, ⟨_, _, rfl⟩, _, _, rfl⟩
  · exact ⟨⟨⟨_, rfl⟩, ⟨_, rfl⟩, ⟨_, rfl⟩, ⟨_, rfl⟩, ⟨_, rfl⟩, _, rfl⟩, ⟨⟨_, rfl⟩, ⟨_, rfl⟩, ⟨_, rfl⟩, ⟨_, rfl⟩, ⟨_, rfl⟩, _, rfl⟩,
      ⟨_, rfl⟩, ⟨_, rfl⟩, ⟨_, rfl⟩, ⟨_, rfl⟩, ⟨_, rfl⟩, _, rfl⟩

/-- A copy whose home line another tile's stash holds with stores, and one whose home address has no page. -/
def copyHeld (c : Cmd) : State :=
  { queued c true with tiles := (queued c true).tiles ++ [(1, { lines := [(0x40, ⟨.D, 100, 64, 0x400, false, false, 0, false, 0, 0⟩)] })] }
/-- `cp.get` from 0x2000 or 0x3000, `cp.put` to them. -/
def getOf (a : Word) : Cmd := cmdOf wGet 0x1000 a 64 false 0
def putOf (a : Word) : Cmd := cmdOf (word (0xB4 * 2 ^ 56)) a 0x1000 64 false 0
theorem copy_forms :
    ((getOf 0).op = 0xB3 ∧ (putOf 0).op = 0xB4 ∧ (∀ a, (getOf a).nullified = false ∧ (putOf a).nullified = false ∧ (getOf a).done = 0 ∧ (putOf a).done = 0) ∧
      (∀ c : Cmd, (queueAt (copyHeld c) 0 3).cmds = [c] ∧ (queueAt (copyHeld c) 0 3).running = true ∧ (queueAt (copyHeld c) 0 3).frozen = false)) ∧
    (0 < (getOf 0x2000).total ∧ ∃ t, homePlace (copyHeld (getOf 0x2000)) (engOf (copyHeld (getOf 0x2000)) (getOf 0x2000)) false true 0x2000 = .hold t [0x400]) ∧
    (∃ x, homePlace (copyHeld (getOf 0x3000)) (engOf (copyHeld (getOf 0x3000)) (getOf 0x3000)) false true 0x3000 = .fault x) ∧
    (0 < (putOf 0x2000).total ∧
      ∃ u, stashPlaces (copyHeld (putOf 0x2000)) (engOf (copyHeld (putOf 0x2000)) (putOf 0x2000)) false [] 0x1000 1 = .ok u [.stash 0 0 none] ∧
        locError u [.stash 0 0 none] false = none ∧
        ∃ t, homePlace (correct u [.stash 0 0 none]) (engOf (copyHeld (putOf 0x2000)) (putOf 0x2000)) true true 0x2000 = .hold t [0x400]) ∧
    (∃ u, stashPlaces (copyHeld (putOf 0x3000)) (engOf (copyHeld (putOf 0x3000)) (putOf 0x3000)) false [] 0x1000 1 = .ok u [.stash 0 0 none] ∧
      locError u [.stash 0 0 none] false = none ∧
      ∃ x, homePlace (correct u [.stash 0 0 none]) (engOf (copyHeld (putOf 0x3000)) (putOf 0x3000)) true true 0x3000 = .fault x ∧ x.code ≠ 0x31) :=
  ⟨⟨by decide, by decide, fun _ => ⟨rfl, rfl, rfl, rfl⟩, fun _ => ⟨rfl, rfl, rfl⟩⟩, ⟨by decide, _, rfl⟩, ⟨_, rfl⟩,
   ⟨by decide, _, rfl, rfl, _, rfl⟩, _, rfl, rfl, _, rfl, by decide⟩

/-- A backed mapping at 0x2000 whose pages are known, or are not. -/
def prefs (asids : List (Nat × Asid)) (ls : SMap Line) : State :=
  { paged 0 with
    parts := (paged 0).parts.map fun e => (e.1, { e.2 with asids := asids })
    tiles := [(0, { launch := some 1, maps := [(0, ⟨0x2000, 256, 0, 0, false, 0, 0⟩)], lines := ls })] }
theorem pref_forms : ∃ p en lvl ta, Ready (prefs [(7, ⟨.active, 0x10000, [], 0⟩)] []) ∧ Reads (prefs [(7, ⟨.active, 0x10000, [], 0⟩)] []) [1] [0x2000] [] ∧
    mapsServe (prefs [(7, ⟨.active, 0x10000, [], 0⟩)] []) 0 7 = true ∧
    mapAt (tileAt (prefs [(7, ⟨.active, 0x10000, [], 0⟩)] []) 0) 0x2000 = some (0, ⟨0x2000, 256, 0, 0, false, 0, 0⟩) ∧
    smFind (tileAt (prefs [(7, ⟨.active, 0x10000, [], 0⟩)] []) 0).lines (lineOf 0x2000) = none ∧ canonical 0x2000 = true ∧
    partAt (prefs [(7, ⟨.active, 0x10000, [], 0⟩)] []) 0 = some p ∧
    lookup (prefs [(7, ⟨.active, 0x10000, [], 0⟩)] []) p 7 0x2000 .fillR = .leaf en lvl ta ∧
    -- an address of no mapping, one of a scratch mapping, a line that is there, and a page that is not
    mapAt (tileAt (prefs [] []) 0) 0x2100 = none ∧ mapAt (tileAt (paged 0) 0) 0x1000 = some (0, ⟨0x1000, 256, 0, 2, false, 0, 0⟩) ∧
    (smFind (tileAt (prefs [] [(0x40, ⟨.S, 100, 64, 0x400, false, false, 0, false, 0, 0⟩)]) 0).lines 0x40).isSome = true ∧
    mapsServe scratch 0 8 = false ∧ canonical 0x4000000000000000 = false ∧
    (∀ q, partAt (prefs [] []) 0 = some q → ∀ en lvl ta, lookup (prefs [] []) q 7 0x2000 .fillR ≠ .leaf en lvl ta) :=
  ⟨_, _, _, _, ⟨by decide, rfl⟩, rfl, rfl, rfl, rfl, rfl, rfl, rfl, rfl, rfl, rfl, rfl, rfl, by
    intro q hq en lvl ta h
    cases hq
    cases h⟩

/-! ## Attention -/

/-- How a step ends: done, waiting, faulting. -/
def attnStep (r : StepRes) : Nat := match r with | .done _ => 0 | .wait _ _ => 1 | .fault _ => 2
/-- A home line held by another tile's stash with stores. -/
def stepHeld (l : Nat) : State :=
  { stepping with tiles := stepping.tiles ++ [(1, { lines := [(l, ⟨.D, 100, 64, l, false, false, 0, false, 0, 0⟩)] })] }
theorem attention_forms :
    ((me { attends true with ctxs := (attends true).ctxs.map fun e => (e.1, { e.2 with answered := [] }) }).answered.contains .kv = false) ∧
    attnStep (qkStep (stepHeld 0x80) attnEng (attnOf attn32) 0 16) = 1 ∧ attnStep (pvStep (stepHeld 0x88) attnEng (attnOf attn32) 0 16) = 1 ∧
    attnStep (qkStep { stepping with mem := [] } attnEng (attnOf attn32) 0 16) = 2 ∧ attnStep (pvStep { stepping with mem := [] } attnEng (attnOf attn32) 0 16) = 2 ∧
    attnStep (smxStep { stepping with tiles := [(0, { launch := some 1 })] } attnEng (attnOf attn32) 0 16) ≠ 0 :=
  ⟨rfl, rfl, rfl, rfl, rfl, by decide⟩

/-! ## Tasks and dispatch -/

/-- The same tasks in a sealed launch, and with a memory deque in tile 0's stash. -/
def sealTask (s : State) : State := { s with launches := [(1, { launch7 with recd := (List.replicate 5 0) ++ [0x700, 0, 0, 0, 0x100000000] ++ List.replicate 6 0 })] }
def deep : Launch := { launch7 with recd := [0, 0, 0, 0, 0, 0x700, 0, 0x1080, 1] ++ List.replicate 7 0 }
def deepTask (s : State) : State := { s with launches := [(1, deep)] }
/-- Tasks in the spindle's deque. -/
def dequeOf (s : State) : Nat := (spinAt s 0).deque.length
theorem task_forms :
    (Three (sealTask (tasks 0x5000 9 0x10F8 0 0 [] 5)) 0x5000 9 0x10F8 ∧ isSealed (sealTask (tasks 0x5000 9 0x10F8 0 0 [] 5)) 0 = true) ∧
    -- the hardware deque full, the memory deque not
    (let s := deepTask (tasks 0x5000 9 0x10F8 32 0 [] 5)
     Three s 0x5000 9 0x10F8 ∧ isSealed s 0 = false ∧ launchOf s 0 = some deep ∧ dequesFull deep (spinAt s 0) = false ∧
       ∃ t locs last x ls, Placed s false .amo true 0x10F8 8 t locs ∧
         dequeOf (storeLocs t locs (leBytes 8 ((leNat (readLocs t locs) + 1) % 2 ^ 64))) = 32 ∧
         (spinAt (storeLocs t locs (leBytes 8 ((leNat (readLocs t locs) + 1) % 2 ^ 64))) 0).deque.getLast? = some last ∧
         access (storeLocs t locs (leBytes 8 ((leNat (readLocs t locs) + 1) % 2 ^ 64)))
           (homeReq (storeLocs t locs (leBytes 8 ((leNat (readLocs t locs) + 1) % 2 ^ 64))) .store true false)
           (dequeAddr deep (spinAt s 0) 0 (spinAt s 0).memCount) 32 = .ok x ls) ∧
    -- `fork.r` with both deques full, and with 256 ranges there
    (∀ kr ∈ [(32, 0), (31, 256)],
      let s := tasks 0x5000 9 0x1000 kr.1 kr.2 [0x10F8, 1, 0x2000, 1] 5
      Three s 0x5000 9 0x1000 ∧ (dequesFull launch7 (spinAt s 0) = true ∨ 256 < (tileAt s 0).ranges.length + 1) ∧ launchOf s 0 = some launch7 ∧
        ∃ h bs rs, Placed s false .load false 0x1000 16 s h ∧ access s (homeReq s .load false false) 0x1010 16 = .ok s bs ∧
          allSome ((chunks 16 1 (readLocs s bs)).map rangeOf) = some rs ∧ rs.length = 1) := by
  refine ⟨⟨⟨⟨by decide, rfl⟩, rfl, rfl⟩, rfl⟩, ⟨⟨⟨by decide, rfl⟩, rfl, rfl⟩, rfl, rfl, by decide, _, _, _, _, _, rfl, rfl, rfl, rfl⟩, ?_⟩
  simp only [List.forall_mem_cons, List.not_mem_nil, false_imp_iff, implies_true, and_true]
  exact ⟨⟨⟨⟨by decide, rfl⟩, rfl, rfl⟩, by decide, rfl, _, _, _, rfl, rfl, rfl, rfl⟩, ⟨⟨⟨by decide, rfl⟩, rfl, rfl⟩, by decide, rfl, _, _, _, rfl, rfl, rfl, rfl⟩⟩

/-- A table of two buckets: the first admits extents up to 4, the second up to 100; SHAPE0 is n. -/
def twoBuckets (n : Word) : State :=
  let s := tasks 0x1000 0 0 0 0 [2, 4, 0, 0x6000, 7, 100, 0, 0x7000, 9] 5
  { s with ctxs := s.ctxs.map fun e => (e.1, { e.2 with tbl := [(0, 0x1000)], shape := [(0, n)] }) }
/-- The buckets as they are read, and whether one admits the extents. -/
def bucketRows (s : State) (n : Nat) : Option (List (List Byte)) := (readRows s 32 s ((List.range n).map fun j => 0x1008 + 32 * j)).map (·.2)
def fitsAt (s : State) (es : List (List Byte)) (j : Nat) : Bool :=
  (List.range 4).all fun i => decide ((smGet 0 (me s).shape i).toNat ≤ leNat (((es.getD j []).drop (4 * i)).take 4))
theorem dispatch_forms :
    (∀ n ∈ [(4 : Word), 5, 101], Ready (twoBuckets n) ∧ smFind (me (twoBuckets n)).tbl 0 = some 0x1000 ∧ unmapped (twoBuckets n) 0 7 0x1000 8 = none) ∧
    (∃ h, Placed (twoBuckets 5) false .load false 0x1000 8 (twoBuckets 5) h ∧ leNat (readLocs (twoBuckets 5) h) % 2 ^ 9 = 2) ∧
    -- the second bucket, none, and the first in a sealed launch
    (∃ es, bucketRows (twoBuckets 5) 2 = some es ∧ fitsAt (twoBuckets 5) es 0 = false ∧ fitsAt (twoBuckets 5) es 1 = true) ∧
    (∃ es, bucketRows (twoBuckets 101) 2 = some es ∧ fitsAt (twoBuckets 101) es 0 = false ∧ fitsAt (twoBuckets 101) es 1 = false) ∧
    (isSealed (sealTask (twoBuckets 4)) 0 = true ∧ ∃ es, bucketRows (sealTask (twoBuckets 4)) 2 = some es ∧ fitsAt (sealTask (twoBuckets 4)) es 0 = true) :=
  ⟨by
    simp only [List.forall_mem_cons, List.not_mem_nil, false_imp_iff, implies_true, and_true]
    exact ⟨⟨⟨by decide, rfl⟩, rfl, rfl⟩, ⟨⟨by decide, rfl⟩, rfl, rfl⟩, ⟨by decide, rfl⟩, rfl, rfl⟩, ⟨_, rfl, rfl⟩, ⟨_, rfl, rfl, rfl⟩, ⟨_, rfl, rfl, rfl⟩, rfl, _, rfl, rfl⟩

/-! ## Channels, saves, sealed launches, translations -/

/-- Channels 15 and 14 of context 0 bound to each other. -/
def selfBound : State :=
  { scratchWith id with ctxs := [(0, { ctx0 with asid := 7, ch := [(14, ⟨.established, 0, 15, [8]⟩), (15, ⟨.established, 0, 14, [4]⟩)], answered := [.peer] })] }
theorem channel_forms :
    (Ready selfBound ∧ (getCh (me selfBound) 15) = ⟨.established, 0, 14, [4]⟩ ∧ (me selfBound).answered.contains .peer = true ∧
      (spinAt selfBound 0).dead = false ∧ getCh (me selfBound) 14 = ⟨.established, 0, 15, [8]⟩ ∧ 14 ≠ 15) ∧
    (let s := pair ⟨.established, 16, 0, [4]⟩ ⟨.established, 0, 15, []⟩ .live true true
     Ready s ∧ (getCh (me s) 15).st = .established ∧ (me s).answered.contains .peer = true ∧ (spinAt s 1).dead = true) ∧
    (let s := pair ⟨.established, 16, 0, [4]⟩ ⟨.established, 0, 15, []⟩ .live false false
     Ready s ∧ (getCh (me s) 15).st = .established ∧ (me s).answered.contains .peer = false) :=
  ⟨⟨⟨by decide, rfl⟩, rfl, rfl, rfl, rfl, by decide⟩, ⟨⟨by decide, rfl⟩, rfl, rfl, rfl⟩, ⟨by decide, rfl⟩, rfl, rfl⟩

/-- The issuing context saves itself. -/
def savingSelf : State := { saving .live none with ctxs := (saving .live none).ctxs.map fun e => (e.1, { e.2 with x := [(1, 0), (2, 0x100000)] }) }
theorem save_forms : Ready savingSelf ∧ Reads savingSelf [1, 2] [0, 0x100000] [] ∧ (ctxOf savingSelf 0).phase = .inService ∧
    (me savingSelf).answered.contains .home = true ∧
    resolveArea savingSelf savePart 0 7 .store 0x100000 (areaLen savingSelf 0) = .ok areaPages :=
  ⟨⟨rfl, rfl⟩, rfl, rfl, rfl, by decide +kernel⟩

-- a context whose launch is sealed; the bounds of the divisions and of the special functions
def sealedLanes : State := { sealedState with ctxs := [(0, { ctx0 with asid := 7 })] }
theorem sealed_forms : Ready sealedLanes ∧ isSealed sealedLanes 0 = true ∧ isSealed live 0 = false ∧ (63 : BitVec 9).toNat < 64 ∧ (383 : BitVec 9).toNat < 384 ∧
    (List.replicate 8 (1 : Lane)).length = (me sealedLanes).lanes ∧
    -- every form of the integer reductions and scans
    (∀ md ∈ [(0 : BitVec 8), 1, 2, 4, 9, 10, 12], WellFormed (.vredS32 { v123 with b := 0, md := md }) = true) ∧
    (∀ md ∈ [(0 : BitVec 8), 1, 3], WellFormed (.vscanS32 { v123 with b := 0, md := md }) = true) :=
  ⟨⟨by decide, rfl⟩, rfl, rfl, by decide, by decide, rfl, by decide, by decide⟩
-- a KV address whose root is not cached
theorem kvinv_forms : Xlat (translating 0 0 act7 [] [] []) 0 0 ∧ ∃ sl ls d x, sl = kvSlice xlatPart 0 0 0 ∧
    cachedRoot (translating 0 0 act7 [] [] []) sl 0 = none ∧ kvRoot (translating 0 0 act7 [] [] []) xlatPart 0 0 sl = .ok (ls, d) ∧
    kvDescOf (translating 0 0 act7 [] [] []) d = some x := ⟨xlat_of .., _, _, _, _, rfl, rfl, rfl, rfl⟩

end Sys2Proof.Tests
end

section
/-! PROOF. The state right after reset (O58). -/
namespace Sys2Proof.Machine

/-- The control registers to which the spec gives the reset value 0. -/
def zeroAtReset : List Nat :=
  [0x000, 0x001, 0x002, 0x003, 0x008, 0x009, 0x00A, 0x00B, 0x011, 0x020, 0x021, 0x022, 0x023, 0x024, 0x026, 0x030, 0x031, 0x032, 0x033]

/-- R4, R49: they read 0 in every context: each is a field that an unlisted context or die holds at 0. -/
theorem cregRead_reset (n : Nat) {r : Nat} (h : r ∈ zeroAtReset) : cregRead State.reset n (ctxOf State.reset n) r = 0 := by
  rw [ctxOf_reset]
  fin_cases h <;> rfl

/-- R346: the control block of a partition as it is configured. -/
theorem part_configured (st : PartSt) (conf : PartConf) :
    ({ st := st, conf := conf } : Part).fpnext = 1 ∧ ({ st := st, conf := conf } : Part).apnext = 1 ∧
      ({ st := st, conf := conf } : Part).hlhold = 100 := ⟨rfl, rfl, rfl⟩

end Sys2Proof.Machine

namespace Sys2Proof.Scope
open Sys2Proof.Machine

/-- Settles O58: no unit is listed right after reset, so each reads as its default, whose fields hold the reset values. -/
theorem resetState : Obligations.ResetState := by
  refine ⟨fun n r h => cregRead_reset n h, fun n => ?_, fun k => rfl, rfl, rfl, fun k => ?_, canonical_reset, fun a => ⟨rfl, rfl⟩,
    fun k => rfl, ?_⟩
  · rw [ctxOf_reset]
  · rw [agentAt_reset]
    exact ⟨rfl, rfl, rfl⟩
  · rintro st conf p rfl
    exact part_configured st conf

end Sys2Proof.Scope
end

section
/-! PROOF. The frame of a context's own work (R11, R42 to R45, R252 to R259): what landing results, popping and pushing channels,
parking and passing a bundle change, and what they leave as it was. -/
namespace Sys2Proof.Machine

/-! ## What a frame keeps -/

/-- The machine but for its contexts, what acts next, and the count of free values. -/
def State.surroundings (s : State) : State := { s with ctxs := [], agenda := [], freeCount := 0 }

/-- A context but for the queues of its channels and whether it waits: what no other context's operation changes. -/
def Ctx.unlinked (c : Ctx) : Ctx := { c with ch := [], phase := .free, why := .none, wait := .nothing, rst := 0 }

/-- R49: the registers that `mtc`, a fault or a service operation alone writes: ASID, the fault record, KVERRPOL, the modes, the seed,
the extents and the watchpoints. -/
def Ctx.settings (c : Ctx) : Ctx :=
  { asid := c.asid, fcause := c.fcause, fpc := c.fpc, faddr := c.faddr, finfo := c.finfo, kverrpol := c.kverrpol
    rmode := c.rmode, seed := c.seed, shape := c.shape, watch := c.watch }

/-- What a result about the stage accumulators or the attention unit can reach: the two registers, and the results in flight. -/
def Ctx.stageRegs (c : Ctx) : Ctx := { sa := c.sa, kvprog := c.kvprog, pend := c.pend }

/-- R160, R162: a write that reaches neither a stage accumulator nor KVPROG. -/
def RegWrite.offStage : RegWrite → Bool
  | .sa .. | .attn .. => false
  | _ => true
/-- A result with no such write. -/
def Pending.offStage (p : Pending) : Bool := p.writes.all RegWrite.offStage
/-- No result of the context in flight reaches a stage accumulator or KVPROG. -/
def Ctx.quiet (c : Ctx) : Prop := ∀ p ∈ c.pend, p.offStage = true

/-- What the work of a context leaves of its own registers: the service level, the settings when `regs` holds, and, when `stage` holds
and no result in flight reaches them, the stage accumulators and KVPROG, with none in flight afterwards. -/
structure Kept (regs stage : Prop) (c c' : Ctx) : Prop where
  svc : c'.svc = c.svc
  settings : regs → c'.settings = c.settings
  stage : stage → c.quiet → c'.quiet ∧ c'.sa = c.sa ∧ c'.kvprog = c.kvprog

/-- The frame of the work of context n: the rest of the machine is as before, and of other contexts all but their links. -/
structure Outside (n : Nat) (s t : State) : Prop where
  machine : t.surroundings = s.surroundings
  others : ∀ k, k ≠ n → (ctxOf t k).unlinked = (ctxOf s k).unlinked

/-- The frame of work that raises no fault: it keeps the context's own registers too. -/
structure Frame (regs stage : Prop) (n : Nat) (s t : State) : Prop extends Outside n s t where
  own : Kept regs stage (ctxOf s n) (ctxOf t n)

variable {regs stage : Prop} {n : Nat} {s t u : State} {c c' c'' : Ctx}

theorem Kept.refl (c : Ctx) : Kept regs stage c c := ⟨rfl, fun _ => rfl, fun _ h => ⟨h, rfl, rfl⟩⟩

theorem Kept.trans (h : Kept regs stage c c') (k : Kept regs stage c' c'') : Kept regs stage c c'' where
  svc := k.svc.trans h.svc
  settings r := (k.settings r).trans (h.settings r)
  stage r q := by
    obtain ⟨q', hsa, hkv⟩ := h.stage r q
    obtain ⟨q'', ksa, kkv⟩ := k.stage r q'
    exact ⟨q'', ksa.trans hsa, kkv.trans hkv⟩

/-- A change of registers other than those that `Kept` speaks of. -/
theorem Kept.of_eq (hv : c'.svc = c.svc) (hs : c'.settings = c.settings) (hg : c'.stageRegs = c.stageRegs) : Kept regs stage c c' where
  svc := hv
  settings _ := hs
  stage _ q := by
    have hp : c'.pend = c.pend := (congrArg Ctx.pend hg :)
    exact ⟨by rw [Ctx.quiet, hp]; exact q, (congrArg Ctx.sa hg :), (congrArg Ctx.kvprog hg :)⟩

/-- A change of the results in flight alone. -/
theorem Kept.of_pend (hv : c'.svc = c.svc) (hs : c'.settings = c.settings) (hsa : c'.sa = c.sa) (hkv : c'.kvprog = c.kvprog)
    (hp : stage → c.quiet → c'.quiet) : Kept regs stage c c' where
  svc := hv
  settings _ := hs
  stage r q := ⟨hp r q, hsa, hkv⟩

theorem Outside.refl (s : State) : Outside n s s := ⟨rfl, fun _ _ => rfl⟩
theorem Outside.trans (h : Outside n s t) (k : Outside n t u) : Outside n s u :=
  ⟨k.machine.trans h.machine, fun j hj => (k.others j hj).trans (h.others j hj)⟩

theorem Frame.refl (s : State) : Frame regs stage n s s := ⟨Outside.refl s, Kept.refl _⟩
theorem Frame.trans (h : Frame regs stage n s t) (k : Frame regs stage n t u) : Frame regs stage n s u :=
  ⟨h.toOutside.trans k.toOutside, h.own.trans k.own⟩

/-- Work that is done or not. -/
theorem Frame.ite {p : Prop} [Decidable p] (h : Frame regs stage n s t) (k : Frame regs stage n t u) :
    Frame regs stage n s (if p then u else t) := by
  split
  · exact h.trans k
  · exact h

/-- The frame of work in a row. -/
theorem Frame.foldl {α : Type} {f : State → α → State} {l : List α} (h : ∀ a ∈ l, ∀ s, Frame regs stage n s (f s a))
    (s : State) : Frame regs stage n s (l.foldl f s) := by
  induction l generalizing s with
  | nil => exact Frame.refl s
  | cons a l ih => exact (h a (List.mem_cons_self ..) s).trans (ih (fun b hb => h b (List.mem_cons_of_mem _ hb)) _)

/-- What acts next and the count of free values are outside the frame. -/
theorem Frame.of_ctxs (hm : t.surroundings = s.surroundings) (hc : t.ctxs = s.ctxs) : Frame regs stage n s t := by
  have h : ∀ k, ctxOf t k = ctxOf s k := fun k => by rw [ctxOf, ctxOf, hc]
  exact ⟨⟨hm, fun k _ => by rw [h]⟩, by rw [h]; exact Kept.refl _⟩

theorem Outside.setCtx (s : State) (x : Ctx) : Outside n s (setCtx s n x) := ⟨rfl, fun k hk => by rw [ctxOf_setCtx_other s hk]⟩
theorem Frame.setCtx {x : Ctx} (h : Kept regs stage (ctxOf s n) x) : Frame regs stage n s (setCtx s n x) :=
  ⟨Outside.setCtx s x, by rw [ctxOf_setCtx_same]; exact h⟩
theorem Frame.modCtx {f : Ctx → Ctx} (h : Kept regs stage (ctxOf s n) (f (ctxOf s n))) : Frame regs stage n s (modCtx s n f) :=
  Frame.setCtx h

/-- A change of links keeps a context, its own or another. -/
theorem Kept.of_unlinked (h : c'.unlinked = c.unlinked) : Kept regs stage c c' :=
  Kept.of_eq (congrArg Ctx.svc h :) (congrArg Ctx.settings h :) (congrArg Ctx.stageRegs h :)
theorem Frame.setLinks {k : Nat} {x : Ctx} (h : x.unlinked = (ctxOf s k).unlinked) : Frame regs stage n s (Machine.setCtx s k x) := by
  have hu : ∀ j, (ctxOf (Machine.setCtx s k x) j).unlinked = (ctxOf s j).unlinked := fun j => by
    rw [ctxOf_setCtx]
    split
    · next e => rw [e]; exact h
    · rfl
  exact ⟨⟨rfl, fun j _ => hu j⟩, Kept.of_unlinked (hu n)⟩

@[simp] theorem unlinked_putCh (c : Ctx) (k : Nat) (x : Channel) : (putCh c k x).unlinked = c.unlinked := rfl
@[simp] theorem unlinked_wake (c : Ctx) : (wake c).unlinked = c.unlinked := by
  unfold wake
  cases c.phase with
  | parked => dsimp only; split <;> rfl
  | inService => dsimp only; split <;> rfl
  | _ => rfl

/-! ## Landing (R43, R44, R54, R86) -/

theorem pushWord_frame (s : State) (m ch : Nat) (w : Word) (peer pch : Nat) : Frame regs stage n s (pushWord s m ch w peer pch) := by
  unfold pushWord
  dsimp only
  split
  · refine Frame.setLinks ?_
    split <;> simp
  · exact Frame.refl s

theorem putX_kept (c : Ctx) (r : Nat) (w : Word) : Kept regs stage c (putX c r w) := by
  unfold putX
  split <;> exact Kept.of_eq rfl rfl rfl
theorem putP_kept (c : Ctx) (r : Nat) (b : Bool) : Kept regs stage c (putP c r b) := by
  unfold putP
  split
  · exact Kept.refl c
  · split <;> exact Kept.of_eq rfl rfl rfl
theorem putV_kept (c : Ctx) (r l : Nat) (w : Lane) : Kept regs stage c (putV c r l w) := by
  unfold putV
  split <;> exact Kept.of_eq rfl rfl rfl
theorem putM_kept (c : Ctx) (r : Nat) (w : BitVec 256) : Kept regs stage c (putM c r w) := by
  unfold putM
  split <;> exact Kept.of_eq rfl rfl rfl
theorem putBuf_kept (c : Ctx) (b : Bool) (f : StageBuf → StageBuf) : Kept regs stage c (putBuf c b f) := by
  cases b <;> exact Kept.of_eq rfl rfl rfl

/-- R54: a write of a result reaches the stage registers only if its form does. -/
theorem putWrite_kept (c : Ctx) {w : RegWrite} (h : stage → w.offStage = true) : Kept regs stage c (putWrite c w) := by
  cases w with
  | x r w => exact putX_kept c r w
  | p r b => exact putP_kept c r b
  | v r l w => exact putV_kept c r l w
  | mask r w => exact putM_kept c r w
  | push => exact Kept.refl c
  | buf b k w => exact putBuf_kept c b fun x => { x with bytes := smSetList 0 x.bytes (4 * k) (leBytes 4 w.toNat) }
  | bufTy b ty => exact putBuf_kept c b fun x => { x with ty := ty }
  | sa => exact ⟨rfl, fun _ => rfl, fun hs => absurd (h hs) Bool.false_ne_true⟩
  | attn => exact ⟨rfl, fun _ => rfl, fun hs => absurd (h hs) Bool.false_ne_true⟩

theorem landWrites_frame {ws : List RegWrite} (h : stage → ∀ w ∈ ws, w.offStage = true) (s : State) :
    Frame regs stage n s (landWrites s n ws) := by
  induction ws generalizing s with
  | nil => exact Frame.refl s
  | cons w ws ih =>
    have hws := fun r v hv => h r v (List.mem_cons_of_mem _ hv)
    have hw : Frame regs stage n s (modCtx s n fun c => putWrite c w) :=
      Frame.modCtx (putWrite_kept _ fun r => h r w (List.mem_cons_self ..))
    cases w with
    | push ch v peer pch => exact (pushWord_frame s n ch v peer pch).trans (ih hws _)
    | _ => exact hw.trans (ih hws _)

theorem putQ_kept (c : Ctx) (p : Pending) : Kept regs stage c (putQ c p) := by
  unfold putQ
  split
  · exact Kept.refl c
  · split <;> exact Kept.of_eq rfl rfl rfl

theorem landOne_frame {p : Pending} (h : stage → p.offStage = true) (s : State) : Frame regs stage n s (landOne s n p) := by
  have hw : Frame regs stage n s (landWrites s n p.writes) := landWrites_frame (fun r => List.all_eq_true.1 (h r)) s
  have hq : Kept regs stage (ctxOf (landWrites s n p.writes) n) (putQ (ctxOf (landWrites s n p.writes) n) p) := putQ_kept _ p
  exact hw.trans (Frame.setCtx (hq.trans (Kept.of_eq rfl rfl rfl)))

theorem landList_frame {ps : List Pending} (h : stage → ∀ p ∈ ps, p.offStage = true) (s : State) :
    Frame regs stage n s (landList s n ps) := by
  induction ps generalizing s with
  | nil => exact Frame.refl s
  | cons p ps ih =>
    exact (landOne_frame (fun r => h r p (List.mem_cons_self ..)) s).trans (ih (fun r q hq => h r q (List.mem_cons_of_mem _ hq)) _)

/-- Results picked from a list, and results left of it. -/
def Picks (r : List Pending × List Pending) (ps : List Pending) : Prop := (∀ p ∈ r.1, p ∈ ps) ∧ ∀ p ∈ r.2, p ∈ ps

theorem Picks.nil : Picks ([], []) [] := ⟨fun _ h => h, fun _ h => h⟩
theorem Picks.pick {r : List Pending × List Pending} {ps : List Pending} (h : Picks r ps) (p : Pending) :
    Picks (p :: r.1, r.2) (p :: ps) :=
  ⟨fun _ hq => List.mem_cons.2 ((List.mem_cons.1 hq).imp_right (h.1 _)), fun _ hq => List.mem_cons_of_mem _ (h.2 _ hq)⟩
theorem Picks.leave {r : List Pending × List Pending} {ps : List Pending} (h : Picks r ps) (p : Pending) :
    Picks (r.1, p :: r.2) (p :: ps) :=
  ⟨fun _ hq => List.mem_cons_of_mem _ (h.1 _ hq), fun _ hq => List.mem_cons.2 ((List.mem_cons.1 hq).imp_right (h.2 _))⟩

/-- Results in flight land, and others stay: whether any reaches the stage registers is known from the context as it was. -/
theorem landSome_frame {ps qs : List Pending} (h : Picks (ps, qs) (ctxOf s n).pend) :
    Frame regs stage n s (landList (modCtx s n fun c => { c with pend := qs }) n ps) := by
  obtain ⟨hp, hq⟩ := h
  have hm (st : Prop) : Frame regs st n s (modCtx s n fun c => { c with pend := qs }) :=
    Frame.modCtx (Kept.of_pend rfl rfl rfl rfl fun _ h p k => h p (hq p k))
  by_cases h : (ctxOf s n).quiet
  · exact (hm stage).trans (landList_frame (fun _ p k => h p (hp p k)) _)
  · have k := (hm False).trans (landList_frame (ps := ps) False.elim _)
    exact ⟨k.toOutside, k.own.svc, k.own.settings, fun _ q => absurd q h⟩

theorem landEvery_frame (s : State) (n : Nat) : Frame regs stage n s (landEvery s n) := by
  unfold landEvery
  split
  · exact Frame.refl s
  · exact landSome_frame ⟨fun _ h => h, fun _ h => absurd h List.not_mem_nil⟩

theorem splitDue_picks (k : Nat) (ps : List Pending) : Picks (splitDue k ps) ps := by
  induction ps with
  | nil => exact Picks.nil
  | cons p ps ih =>
    unfold splitDue
    dsimp only
    split
    · exact ih.pick p
    · exact ih.leave p

theorem landDue_frame (s : State) (n k : Nat) : Frame regs stage n s (landDue s n k) := by
  unfold landDue
  split
  · exact Frame.refl s
  · exact landSome_frame (splitDue_picks k _)

theorem splitExact_picks (chs : List Nat) (ps : List Pending) : Picks (splitExact chs ps) ps := by
  induction ps generalizing chs with
  | nil => exact Picks.nil
  | cons p ps ih =>
    unfold splitExact
    split
    · exact (ih _).leave p
    · exact (ih _).pick p

theorem landLoose_frame (s : State) (n : Nat) : Frame regs stage n s (landLoose s n) := by
  unfold landLoose
  split
  · exact Frame.refl s
  · exact landSome_frame (splitExact_picks _ _)

theorem landThose_frame (s : State) (n : Nat) (test : Pending → Bool) : Frame regs stage n s (landThose s n test) := by
  unfold landThose
  dsimp only
  split
  · exact landSome_frame ⟨fun _ h => List.mem_of_mem_filter h, fun _ h => List.mem_of_mem_filter h⟩
  · exact Frame.refl s

/-! ## Claims at a re-negotiation point (R116, R259) -/

theorem clip_offStage {p : Pending} (h : p.offStage = true) (lanes : Nat) : (p.clip lanes).offStage = true := by
  rw [Pending.offStage, List.all_eq_true] at h ⊢
  intro w hw
  obtain ⟨v, hv, rfl⟩ := List.mem_map.1 hw
  have hv' := h v (List.mem_of_mem_filter hv)
  cases v <;> exact hv'

theorem shrinkTo_kept (c : Ctx) (lanes : Nat) : Kept regs stage c (shrinkTo c lanes) := by
  unfold shrinkTo
  split
  · exact Kept.refl c
  · refine Kept.of_pend rfl rfl rfl rfl fun _ h p hp => ?_
    obtain ⟨q, hq, rfl⟩ := List.mem_map.1 hp
    exact clip_offStage (h q hq) lanes

theorem claimReady_frame (s : State) (k : Nat) : Frame regs stage n s (claimReady s k) := by
  unfold claimReady
  split
  · split <;> exact Frame.of_ctxs rfl rfl
  · exact Frame.refl s

theorem applyReclaim_frame (s : State) (n : Nat) : Frame regs stage n s (applyReclaim s n) := by
  unfold applyReclaim
  dsimp only
  split
  · split
    · exact (Frame.setCtx (shrinkTo_kept _ _)).trans (claimReady_frame _ _)
    · exact Frame.refl s
  · exact Frame.refl s

/-! ## Parking and faults (R252, R376, R381) -/

theorem parkHeld_frame (s : State) (n : Nat) (b : Bundle) (why : Why) (w : Wait) : Frame regs stage n s (parkHeld s n b why w) :=
  ((landEvery_frame s n).trans (Frame.modCtx (Kept.of_eq rfl rfl rfl))).trans (applyReclaim_frame _ n)

theorem enterService_outside (s : State) (n kind : Nat) (cause fpc faddr finfo : Word) :
    Outside n s (enterService s n kind cause fpc faddr finfo) :=
  ((landEvery_frame (regs := False) (stage := False) s n).trans (applyReclaim_frame _ n)).toOutside.trans (Outside.setCtx _ _)

theorem enterService_svc (s : State) (n kind : Nat) (cause fpc faddr finfo : Word) :
    (ctxOf (enterService s n kind cause fpc faddr finfo) n).svc = true := by
  unfold enterService
  rw [ctxOf_modCtx_same]
  rfl

/-- A fault that arms no monitor and that no corrected error came before (R328, R405). -/
structure FaultInfo.Bare (f : FaultInfo) : Prop where
  mon : f.mon = none
  reads : f.reads = []

/-- R376: outside service such a fault is a service entry. -/
theorem takeFault_enters {f : FaultInfo} (hf : f.Bare) (hv : (ctxOf s n).svc = false) (op slot : Nat) (fpc : Word) :
    ∃ kind cause, takeFault s n op slot f fpc = enterService s n kind cause fpc f.addr f.info := by
  have hr : correct s f.reads = s := by rw [hf.reads]; exact ite_self s
  unfold takeFault
  simp only [hr, hf.mon, hv, Bool.false_eq_true, if_false]
  split <;> exact ⟨_, _, rfl⟩

/-! ## Channel words popped (R44, R293) -/

theorem popChannels_frame (s : State) (n : Nat) (chs : List Nat) : Frame regs stage n s (popChannels s n chs) := by
  induction chs generalizing s with
  | nil => exact Frame.refl s
  | cons ch chs ih =>
    unfold popChannels
    refine ((Frame.setLinks (unlinked_putCh _ _ _)).trans (Frame.setLinks ?_)).trans (ih _)
    dsimp only
    split
    · exact unlinked_wake _
    · rfl

end Sys2Proof.Machine
end

section
/-! PROOF. The frame of a bundle whose operations leave memory and foreign registers alone (R53 to R63). -/
namespace Sys2Proof.Machine
variable {regs stage : Prop} {n : Nat} {s t : State}

/-! ## Reads of a bundle (R54) -/

theorem putWrite_svc (c : Ctx) (w : RegWrite) : (putWrite c w).svc = c.svc :=
  (putWrite_kept (regs := False) (stage := False) c False.elim).svc

theorem earlyWrite_svc (c : Ctx) (ew r : Nat) (w : RegWrite) : (earlyWrite c ew r w).svc = c.svc := by
  unfold earlyWrite
  split
  · next reg l w => exact putWrite_svc c (.v reg l (mixLane (getV c reg l) w ew r))
  · next m w => exact putWrite_svc c (.mask m (w &&& BitVec.ofNat 256 r ||| getM c m &&& ~~~BitVec.ofNat 256 r))
  · exact putWrite_svc c _
  · split
    · exact putWrite_svc c _
    · rfl

theorem earlyWrites_svc (ew : Nat) (ws : List RegWrite) (c : Ctx) (r : Nat) : (earlyWrites c ew r ws).svc = c.svc := by
  induction ws generalizing c r with
  | nil => rfl
  | cons w ws ih => exact (ih _ _).trans (earlyWrite_svc c ew _ w)

theorem earlyLatch_svc (c : Ctx) (p : Pending) (r : Nat) : (earlyLatch c p r).svc = c.svc := by
  have hq (c : Ctx) (p : Pending) : (putQ c p).svc = c.svc := (putQ_kept (regs := False) (stage := False) c p).svc
  unfold earlyLatch
  split
  · exact hq c _
  · split
    · exact hq c p
    · rfl
  · rfl

theorem earlyAll_svc (ps : List Pending) (c : Ctx) (k : Nat) : (earlyAll c k ps).svc = c.svc := by
  induction ps generalizing c k with
  | nil => rfl
  | cons p ps ih =>
    unfold earlyAll
    dsimp only
    split
    · exact ih _ _
    · rw [ih, earlyLatch_svc]
      split
      · exact earlyWrite_svc ..
      · exact earlyWrites_svc ..

/-- R54: what a bundle reads is at its context's service level; only the count of free values moves. -/
theorem readView_spec (s : State) (n : Nat) : (readView s n).1.svc = (ctxOf s n).svc ∧ Frame regs stage n s (readView s n).2 := by
  unfold readView
  dsimp only
  split
  · exact ⟨rfl, Frame.refl s⟩
  · exact ⟨earlyAll_svc _ _ _, Frame.of_ctxs rfl rfl⟩

/-! ## What an operation comes to -/

/-- What an operation leaves that stays within the frame of its context n. -/
structure Eff.Within (regs stage : Prop) (n : Nat) (e : Eff) : Prop where
  writes : stage → ∀ w ∈ e.writes, w.offStage = true
  late : ∀ f, e.late = some f → ∀ s, Frame regs stage n s (f s)
  after : e.after = none
  last : e.last = none

/-- An operation that passes within the frame of the context that issues it, whatever it reads; a service operation (R66) does not
pass outside service and is not spoken of. -/
structure Op.Within (regs stage : Prop) (op : Op) : Prop where
  null : ∀ v s, op.null v s = .ok s {}
  run : op.service = false → ∀ v s, ∃ t e, op.run v s = .ok t e ∧ Frame regs stage v.n s t ∧ e.Within regs stage v.n

/-- What a bundle has come to so far stays within the frame. -/
structure Acc.Within (regs stage : Prop) (n : Nat) (s : State) (a : Acc) : Prop where
  state : Frame regs stage n s a.s
  effs : ∀ e ∈ a.effs, e.2.Within regs stage n

/-- What an operation comes to: it passes, or waits for a channel with no request, or raises a bare fault. -/
def OpRes.Within (regs stage : Prop) (n : Nat) (s : State) : OpRes → Prop
  | .ok a => a.Within regs stage n s
  | .hold _ _ req => req = id
  | .stay _ | .stop _ _ => False
  | .fault f => f.Bare

theorem Eff.within_empty : ({} : Eff).Within regs stage n :=
  ⟨fun _ _ h => absurd h List.not_mem_nil, (fun _ h => by cases h), rfl, rfl⟩

theorem FaultInfo.bare (code : Nat) (addr info : Word) : (⟨code, addr, info, none, []⟩ : FaultInfo).Bare := ⟨rfl, rfl⟩

theorem ofRes_within {a : Acc} {e : Eff} (ha : a.Within regs stage n s) (ht : Frame regs stage n a.s t) (he : e.Within regs stage n)
    (slot : Slot) (pops pushes : List Nat) : (OpRes.ofRes a slot pops pushes (.ok t e)).Within regs stage n s := by
  unfold OpRes.ofRes
  dsimp only
  split
  · exact ha
  · refine ⟨ha.state.trans ht, fun x hx => ?_⟩
    rcases List.mem_append.1 hx with hx | hx
    · exact ha.effs x hx
    · rw [List.mem_singleton.1 hx]; exact he

theorem runOp_within {c : Ctx} {a : Acc} {o : SlotOp} (ho : o.op.Within regs stage) (hv : c.svc = false) (ha : a.Within regs stage n s)
    (b : Bundle) (mate : List (Nat × Nat)) : (runOp n c b mate a o).Within regs stage n s := by
  unfold runOp
  split
  · exact FaultInfo.bare ..
  · next hp =>
    have hs : o.op.service = false := by
      cases h : o.op.service
      · rfl
      · simp [h, hv] at hp
    split
    · exact FaultInfo.bare ..
    · split
      · exact FaultInfo.bare ..
      · rfl
      · split
        · exact FaultInfo.bare ..
        · rfl
        · obtain ⟨t, e, hr, ht, he⟩ := ho.run hs ⟨n, c, _, b, c.answered, o.slot, mate, a.wrote⟩ a.s
          rw [hr]
          exact ofRes_within ha ht he ..

theorem breaks_within {a : Acc} {o : SlotOp} {r : OpRes} (h : r.Within regs stage n s) : (breaks a o r).Within regs stage n s := by
  cases r with
  | stay => exact h.elim
  | _ => exact h

/-- R63: a bundle of such operations comes to such a result. -/
theorem runOps_within {c : Ctx} (hv : c.svc = false) (b : Bundle) (all : List SlotOp) {os : List SlotOp}
    (ho : ∀ o ∈ os, o.op.Within regs stage) {a : Acc} (ha : a.Within regs stage n s) :
    (runOps n c b all os a).1.Within regs stage n s := by
  induction os generalizing a with
  | nil => exact ha
  | cons o os ih =>
    obtain ⟨ho1, hos⟩ := List.forall_mem_cons.1 ho
    unfold runOps
    dsimp only
    split
    · exact FaultInfo.bare ..
    · split
      · exact FaultInfo.bare ..
      · split
        · exact ih hos ha
        · have hr (mate : List (Nat × Nat)) (v : View) {r : OpRes} (e : (if executes c o then breaks a o (runOp n c b mate a o)
              else OpRes.ofRes a o.slot a.pops a.pushes (o.op.null v a.s)) = r) : r.Within regs stage n s := by
            rw [← e]
            split
            · exact breaks_within (runOp_within ho1 hv ha b _)
            · rw [ho1.null]; exact ofRes_within ha (Frame.refl _) Eff.within_empty ..
          split
          · next e => exact ih hos (hr _ _ e)
          · exact hr _ _ rfl

theorem tryBundle_within {ops : List SlotOp} (ho : ∀ o ∈ ops, o.op.Within regs stage) (hv : (ctxOf s n).svc = false) (b : Bundle) :
    (tryBundle s n b ops).1.Within regs stage n s := by
  obtain ⟨hc, hs⟩ := readView_spec (regs := regs) (stage := stage) s n
  exact runOps_within (hc.trans hv) b ops ho ⟨hs, fun _ h => absurd h List.not_mem_nil⟩

/-! ## What becomes of the bundle -/

theorem queueEff_frame {e : Slot × Eff} (he : e.2.Within regs stage n) (s : State) : Frame regs stage n s (queueEff s n e) := by
  unfold queueEff
  split
  · exact Frame.refl s
  · refine Frame.modCtx (Kept.of_pend rfl rfl rfl rfl fun hs hq p hp => ?_)
    rcases List.mem_append.1 hp with hp | hp
    · exact hq p hp
    · rw [List.mem_singleton.1 hp]; exact List.all_eq_true.2 (he.writes hs)

theorem applyLate_frame {e : Slot × Eff} (he : e.2.Within regs stage n) (s : State) : Frame regs stage n s (applyLate s e) := by
  unfold applyLate
  split
  · next f hf => exact he.late f hf s
  · exact Frame.refl s

theorem applyAfter_frame {e : Slot × Eff} (he : e.2.Within regs stage n) (s : State) : Frame regs stage n s (applyAfter s e) := by
  unfold applyAfter
  rw [he.after]
  exact Frame.refl s

theorem stopCtx_frame (s : State) (n : Nat) : Frame regs stage n s (stopCtx s n) := by
  unfold stopCtx
  dsimp only
  split
  · exact landLoose_frame s n
  · exact (landLoose_frame s n).trans (Frame.modCtx (Kept.of_eq rfl rfl rfl))

/-- R57: a bundle that passes keeps the frame that its operations keep. -/
theorem passBundle_frame {a : Acc} (ha : a.Within regs stage n s) (b : Bundle) : Frame regs stage n s (passBundle n b a) := by
  have hlate : Frame regs stage n s (a.effs.foldl applyLate (popChannels a.s n a.pops)) :=
    (ha.state.trans (popChannels_frame a.s n a.pops)).trans (Frame.foldl (fun e h => applyLate_frame (ha.effs e h)) _)
  have hqueue := hlate.trans (Frame.foldl (f := fun s e => queueEff s n e) (fun e h => queueEff_frame (ha.effs e h)) _)
  unfold passBundle
  dsimp only
  refine Frame.trans ?_ (Frame.foldl (fun e h => applyAfter_frame (ha.effs e h)) _)
  exact (hqueue.trans (Frame.modCtx (Kept.of_eq rfl rfl rfl))).ite (stopCtx_frame _ n)

/-- The issue of a bundle whose operations stay within the frame: it enters service by a fault, or keeps the context's registers. -/
def Contained (regs stage : Prop) (n : Nat) (s t : State) : Prop :=
  Outside n s t ∧ ((ctxOf t n).svc = true ∨ Frame regs stage n s t)

theorem Frame.contained (h : Frame regs stage n s t) : Contained regs stage n s t := ⟨h.toOutside, .inr h⟩

theorem takeFault_contained {u : State} {f : FaultInfo} (h : Frame regs stage n s u) (hf : f.Bare) (hv : (ctxOf s n).svc = false)
    (op slot : Nat) (fpc : Word) : Contained regs stage n s (takeFault u n op slot f fpc) := by
  obtain ⟨kind, cause, e⟩ := takeFault_enters hf (h.own.svc.trans hv) op slot fpc
  rw [e]
  exact ⟨h.toOutside.trans (enterService_outside ..), .inl (enterService_svc ..)⟩

/-- R63: an operation's result, its state taken from that of the try. -/
theorem OpRes.Within.of_frame {u : State} {r : OpRes} (h : Frame regs stage n s u) (hr : r.Within regs stage n u) :
    r.Within regs stage n s := by
  cases r with
  | ok a => exact ⟨h.trans hr.state, hr.effs⟩
  | _ => exact hr

/-- R53 to R63: a context outside service issues a bundle of operations that stay within its frame. -/
theorem runBundle_contained {ops : List SlotOp} (ho : ∀ o ∈ ops, o.op.Within regs stage) (hv : (ctxOf s n).svc = false) (b : Bundle) :
    Contained regs stage n s (runBundle s n b ops).state := by
  have hwait {u : State} (h : Frame regs stage n s u) : Contained regs stage n s (modCtx u n fun c => { c with held := some b }) :=
    (h.trans (Frame.modCtx (Kept.of_eq rfl rfl rfl))).contained
  have htry {u : State} (h : Frame regs stage n s u) : (tryBundle u n b ops).1.Within regs stage n s :=
    (tryBundle_within ho (h.own.svc.trans hv) b).of_frame h
  unfold runBundle
  extract_lets s1 waits drains s2 s3 first late s4 r still
  have h1 : Frame regs stage n s s1 := landDue_frame s n _
  have h2 : Frame regs stage n s s2 := h1.ite (landLoose_frame s1 n)
  have h3 : Frame regs stage n s s3 := h2.ite (landThose_frame s2 n _)
  have h4 : Frame regs stage n s s4 := h3.ite (landLoose_frame s3 n)
  have hr : r.1.Within regs stage n s := by
    dsimp only [r]
    split
    · exact htry h4
    · exact htry h3
  split
  · exact hwait h3
  · split
    · exact takeFault_contained h3 (FaultInfo.bare ..) hv ..
    · split
      · exact hwait h4
      · clear_value still r
        obtain ⟨res, o⟩ := r
        cases res with
        | ok a =>
          have hl : (a.effs.findSome? fun e => e.2.last) = none := List.findSome?_eq_none_iff.2 fun e h => (hr.effs e h).last
          dsimp only
          rw [hl]
          exact (passBundle_frame hr b).contained
        | hold why w req =>
          cases hr
          exact (h4.trans (parkHeld_frame s4 n b why w)).contained
        | stay => exact hr.elim
        | stop => exact hr.elim
        | fault f => exact takeFault_contained h4 hr hv ..

end Sys2Proof.Machine
end

section
/-! PROOF. The operations of slots S1 and V stay within the frame of their context (R65), shape by shape. -/
namespace Sys2Proof.Machine
variable {regs stage : Prop} {n : Nat} {s t : State}

/-! ## What they leave (R42, R107, R126, R273) -/

/-- Results of registers, latches and flags, with no late change. -/
theorem Eff.within_of_writes {e : Eff} (hw : ∀ w ∈ e.writes, w.offStage = true) (hl : e.late = none) (ha : e.after = none)
    (hz : e.last = none) : e.Within regs stage n :=
  ⟨fun _ => hw, (fun f h => by rw [hl] at h; cases h), ha, hz⟩

theorem landS_offStage (c : Ctx) (d : BitVec 9) (x : Word) (bound : Nat) : ∀ w ∈ (landS c d x bound).writes, w.offStage = true := by
  unfold landS
  dsimp only
  split
  · exact List.forall_mem_singleton.2 rfl
  · split
    · exact List.forall_mem_singleton.2 rfl
    · exact fun _ h => absurd h List.not_mem_nil
theorem landP_offStage (d : BitVec 9) (b : Bool) (bound : Nat) : ∀ w ∈ (landP d b bound).writes, w.offStage = true :=
  List.forall_mem_singleton.2 rfl
theorem landM_offStage (d : BitVec 9) (m : BitVec 256) (bound : Nat) : ∀ w ∈ (landM d m bound).writes, w.offStage = true :=
  List.forall_mem_singleton.2 rfl
theorem landV_offStage (c : Ctx) (d : BitVec 9) (ls : List Lane) (bound : Nat) :
    ∀ w ∈ (landV c d ls bound).writes, w.offStage = true := by
  intro w h
  obtain ⟨e, _, rfl⟩ := List.mem_map.1 h
  rfl

theorem branchEff_within (v : View) (link : BitVec 9) (target : Word) : (branchEff v link target).Within regs stage n := by
  unfold branchEff
  split
  · exact Eff.within_of_writes (fun _ h => absurd h List.not_mem_nil) rfl rfl rfl
  · exact Eff.within_of_writes (landS_offStage v.c link v.next 1) rfl rfl rfl

/-! ## Scalar operations (R98 to R112) -/

/-- An operation that leaves the machine alone at issue. -/
theorem Op.within_of_pure {op : Op} (hn : ∀ v s, op.null v s = .ok s {}) {e : View → State → Eff}
    (hr : ∀ v s, op.run v s = .ok s (e v s)) (he : ∀ v s, (e v s).Within regs stage v.n) : op.Within regs stage :=
  ⟨hn, fun _ v s => ⟨s, e v s, hr v s, Frame.refl s, he v s⟩⟩

theorem scalarOp_within (d : BitVec 9) (srcs : List (BitVec 9)) (bound : Nat) (g : View → Word) :
    (scalarOp d srcs bound g).Within regs stage :=
  Op.within_of_pure (fun _ _ => rfl) (fun _ _ => rfl) fun v _ => Eff.within_of_writes (landS_offStage v.c d (g v) bound) rfl rfl rfl
theorem satOp_within (f : RRR) (form : Nat) (g : Int → Int → Int) : (satOp f form g).Within regs stage :=
  Op.within_of_pure (fun _ _ => rfl) (fun _ _ => rfl) fun v _ => Eff.within_of_writes (landS_offStage v.c f.d _ 1) rfl rfl rfl
theorem opCmp_within (f : RRR) : (opCmp f).Within regs stage :=
  Op.within_of_pure (fun _ _ => rfl) (fun _ _ => rfl) fun _ _ => Eff.within_of_writes (landP_offStage f.d _ 1) rfl rfl rfl
theorem opCmpi_within (f : RRI) : (opCmpi f).Within regs stage :=
  Op.within_of_pure (fun _ _ => rfl) (fun _ _ => rfl) fun _ _ => Eff.within_of_writes (landP_offStage f.d _ 1) rfl rfl rfl
theorem opPbool_within (f : RRR) : (opPbool f).Within regs stage :=
  Op.within_of_pure (fun _ _ => rfl) (fun _ _ => rfl) fun _ _ => Eff.within_of_writes (landP_offStage f.d _ 1) rfl rfl rfl
theorem opNop_within (f : RRR) : (opNop f).Within regs stage :=
  Op.within_of_pure (fun _ _ => rfl) (fun _ _ => rfl) fun _ _ => Eff.within_empty
theorem opMfc_within (f : RRI) : (opMfc f).Within regs stage :=
  Op.within_of_pure (fun _ _ => rfl) (fun _ _ => rfl) fun v _ => Eff.within_of_writes (landS_offStage v.c f.d _ 1) rfl rfl rfl

/-! ## Control registers, branches and loops (R111, R273 to R277) -/

theorem cregPut_svc (c : Ctx) (r : Nat) (w : Word) : (cregPut c r w).svc = c.svc := by
  unfold cregPut
  split <;> rfl

/-- R111: `mtc` writes its context's registers alone; STOPVEC, which restarts queues, is written in service only (R49). -/
theorem cregWrite_frame {r : Nat} (hs : cregService r = false) (s : State) (w : Word) : Frame False False n s (cregWrite s n r w) := by
  unfold cregWrite
  split
  · next h => rw [h] at hs; cases hs
  · exact Frame.modCtx ⟨cregPut_svc _ r w, False.elim, False.elim⟩

theorem opMtc_within (f : RRI) : (opMtc f).Within False False where
  null _ _ := rfl
  run hs _ s := by
    refine ⟨s, _, rfl, Frame.refl s, False.elim, ?_, rfl, rfl⟩
    rintro _ ⟨⟩ t
    exact cregWrite_frame hs t _

theorem opBr_within (f : BRF) : (opBr f).Within regs stage :=
  Op.within_of_pure (fun _ _ => rfl) (fun _ _ => rfl) fun v _ => branchEff_within v f.link _
theorem opBri_within (f : RRR) : (opBri f).Within regs stage :=
  Op.within_of_pure (fun _ _ => rfl) (fun _ _ => rfl) fun v _ => branchEff_within v f.d _

theorem Eff.within_jump (j : Option Word) : ({ jump := j } : Eff).Within regs stage n :=
  Eff.within_of_writes (fun _ h => absurd h List.not_mem_nil) rfl rfl rfl

theorem opLoop_within (f : BRF) : (opLoop f).Within regs stage where
  null _ _ := rfl
  run _ v s := by
    unfold opLoop
    dsimp only
    split
    · exact ⟨s, _, rfl, Frame.refl s, Eff.within_empty⟩
    · exact ⟨_, _, rfl, Frame.modCtx (Kept.of_eq rfl rfl rfl), Eff.within_jump _⟩

/-- R276: a step of a modulo loop writes SPAN, ROT and ITER. -/
theorem loopEff_within (v : View) (s : State) (f : BRF) (start : Bool) (iter : Word) :
    ∃ t e, loopEff v s f start iter = .ok t e ∧ Frame regs stage v.n s t ∧ e.Within regs stage v.n :=
  ⟨_, _, rfl, Frame.modCtx (Kept.of_eq rfl rfl rfl), Eff.within_jump _⟩

theorem opLoopRot_within (f : BRF) : (opLoopRot f).Within regs stage := ⟨fun _ _ => rfl, fun _ v s => loopEff_within v s f _ _⟩
theorem opLoopW_within (f : BRF) : (opLoopW f).Within regs stage := ⟨fun _ _ => rfl, fun _ v s => loopEff_within v s f _ _⟩

/-! ## Vector operations (R113 to R140) -/

theorem setLfsr_frame (s : State) (n : Nat) (sr : Bool) (st : SMap Lane) : Frame regs stage n s (setLfsr s n sr st) := by
  unfold setLfsr
  split
  · exact Frame.modCtx (Kept.of_eq rfl rfl rfl)
  · exact Frame.refl s

theorem vecOp_within (f : RRR) (w bound : Nat) (sr : View → Bool) (g : View → Nat → Nat → RR) :
    (vecOp f w bound sr g).Within regs stage :=
  ⟨fun _ _ => rfl, fun _ v s =>
    ⟨_, _, rfl, setLfsr_frame s v.n _ _, Eff.within_of_writes (landV_offStage v.c f.d _ bound) rfl rfl rfl⟩⟩
theorem intVec_within (f : RRR) (w bound : Nat) (g : View → Nat → RR) : (intVec f w bound g).Within regs stage :=
  vecOp_within f w bound (fun _ => false) fun v i _ => g v i
theorem binVec_within (f : RRR) (w bound : Nat) (g : Nat → Nat → RR) : (binVec f w bound g).Within regs stage :=
  intVec_within f w bound fun v i => g ((readV v.c f.a).elem w i) ((readV v.c f.b).elem w i)
theorem arithVec_within (f : RRR) (w bound : Nat) (g : Int → Int → Int) : (arithVec f w bound g).Within regs stage := by
  unfold arithVec
  exact binVec_within ..
theorem minVec_within (f : RRR) (w : Nat) : (minVec f w).Within regs stage := binVec_within f w 2 _
theorem maxVec_within (f : RRR) (w : Nat) : (maxVec f w).Within regs stage := binVec_within f w 2 _
theorem shlVec_within (f : RRR) (w : Nat) : (shlVec f w).Within regs stage := binVec_within f w 2 _
theorem shrVec_within (f : RRR) (w : Nat) : (shrVec f w).Within regs stage := binVec_within f w 2 _
theorem dotVec_within (f : RRR) (w : Nat) : (dotVec f w).Within regs stage := intVec_within f 32 3 _
theorem arithF_within (f : RRR) (fm : Fmt) (g : RM → FV → FV → FV × BitVec 5) : (arithF f fm g).Within regs stage :=
  vecOp_within f fm.width 4 (fun v => modeOf f v.c == .sr) _
theorem addVec_within (f : RRR) (fm : Fmt) : (addVec f fm).Within regs stage := by
  unfold addVec
  exact arithF_within ..
theorem mulVec_within (f : RRR) (fm : Fmt) : (mulVec f fm).Within regs stage := by
  unfold mulVec
  exact arithF_within ..
theorem fmaVec_within (f : RRR) (fm : Fmt) : (fmaVec f fm).Within regs stage :=
  vecOp_within f fm.width 4 (fun v => modeOf f v.c == .sr) _
theorem exactF_within (f : RRR) (g : FV → FV → FV) : (exactF f g).Within regs stage := intVec_within f 32 4 _
theorem specVec_within (f : RRR) (g : Bool → FV → RR) : (specVec f g).Within regs stage := intVec_within f 32 6 _
theorem cmpVec_within (f : RRR) (w bound : Nat) (g : View → Nat → Bool) : (cmpVec f w bound g).Within regs stage :=
  Op.within_of_pure (fun _ _ => rfl) (fun _ _ => rfl) fun _ _ => Eff.within_of_writes (landM_offStage f.d _ bound) rfl rfl rfl
theorem plainVec_within (d : BitVec 9) (w bound : Nat) (g : View → Nat → Nat) : (plainVec d w bound g).Within regs stage :=
  Op.within_of_pure (fun _ _ => rfl) (fun _ _ => rfl) fun v _ => Eff.within_of_writes (landV_offStage v.c d _ bound) rfl rfl rfl
theorem logicVec_within (f : RRR) (g : Nat → Nat → Nat) (gm : BitVec 256 → BitVec 256 → BitVec 256) :
    (logicVec f g gm).Within regs stage := by
  unfold logicVec
  split
  · exact Op.within_of_pure (fun _ _ => rfl) (fun _ _ => rfl) fun _ _ => Eff.within_of_writes (landM_offStage f.d _ 2) rfl rfl rfl
  · exact binVec_within ..
theorem vcvtOp_within (f : RRR) (dt : Nat) : (vcvtOp f dt).Within regs stage :=
  ⟨fun _ _ => rfl, fun _ v s =>
    ⟨_, _, rfl, setLfsr_frame s v.n _ _, Eff.within_of_writes (landV_offStage v.c f.d _ 3) rfl rfl rfl⟩⟩
theorem opVredS32_within (f : RRR) : (opVredS32 f).Within regs stage :=
  Op.within_of_pure (fun _ _ => rfl) (fun _ _ => rfl) fun v _ => Eff.within_of_writes (landV_offStage v.c f.d _ 8) rfl rfl rfl
theorem opVscanS32_within (f : RRR) : (opVscanS32 f).Within regs stage :=
  Op.within_of_pure (fun _ _ => rfl) (fun _ _ => rfl) fun v _ => Eff.within_of_writes (landV_offStage v.c f.d _ 8) rfl rfl rfl
theorem opVredF32_within (f : RRR) : (opVredF32 f).Within regs stage where
  null _ _ := rfl
  run _ v s := by
    unfold opVredF32
    dsimp only
    split
    · exact ⟨_, _, rfl, setLfsr_frame s v.n _ _, Eff.within_of_writes (landV_offStage v.c f.d _ 8) rfl rfl rfl⟩
    · exact ⟨_, _, rfl, Frame.refl s, Eff.within_of_writes (landV_offStage v.c f.d _ 8) rfl rfl rfl⟩
theorem opVscanF32_within (f : RRR) : (opVscanF32 f).Within regs stage :=
  ⟨fun _ _ => rfl, fun _ v s =>
    ⟨_, _, rfl, setLfsr_frame s v.n _ _, Eff.within_of_writes (landV_offStage v.c f.d _ 8) rfl rfl rfl⟩⟩

end Sys2Proof.Machine
end

section
/-! PROOF. O60: the operations of slots S1 and V change no memory and no foreign register. -/
namespace Sys2Proof.Machine

/-- R65: the instructions with an opcode below 0x80, by the shape of their operation: each issues an operation within the frame of its
context; `mtc` alone (opcode 0x30) writes the settings. -/
theorem exec_within {i : Instr} {w : Word} (h : encode i = .slot w) (hl : (opField w).toNat < 0x80) :
    ∃ op : Op, (∀ s, exec i s = issueOne w op s) ∧ op.Within (opField w ≠ 0x30) (opField w ≠ 0x30) := by
  cases i
  case mtc f =>
    cases h
    have hf : (opField (f.pack 0x30) ≠ 0x30) = False := by simp
    exact ⟨_, fun _ => rfl, by rw [hf]; exact opMtc_within f⟩
  -- integer and logical operations, immediates, bit fields, counts (R100 to R106) and selection (R109)
  case add | sub | addi | mul | mulhS | mulhZ | divS | divZ | remS | remZ | minS | minZ | maxS | maxZ | and | or | xor | andn | andi | ori
      | xori | shl | shrZ | shrS | shli | shriZ | shriS | rot | shadd | movi | movhi | bfxS | bfxZ | bfi | clz | ctz | popc | clmul
      | clmulh | bswap | brev | sel | addw | subw | mulw | shlw | shrwZ | shrwS | addiw =>
    cases h
    exact ⟨_, fun _ => rfl, scalarOp_within ..⟩
  case addsS | addsZ | subsS | subsZ =>
    cases h
    exact ⟨_, fun _ => rfl, satOp_within ..⟩
  case cmp => cases h; exact ⟨_, fun _ => rfl, opCmp_within _⟩
  case cmpi => cases h; exact ⟨_, fun _ => rfl, opCmpi_within _⟩
  case pbool => cases h; exact ⟨_, fun _ => rfl, opPbool_within _⟩
  case nop => cases h; exact ⟨_, fun _ => rfl, opNop_within _⟩
  case mfc => cases h; exact ⟨_, fun _ => rfl, opMfc_within _⟩
  case br => cases h; exact ⟨_, fun _ => rfl, opBr_within _⟩
  case bri => cases h; exact ⟨_, fun _ => rfl, opBri_within _⟩
  case loop => cases h; exact ⟨_, fun _ => rfl, opLoop_within _⟩
  case loopRot => cases h; exact ⟨_, fun _ => rfl, opLoopRot_within _⟩
  case loopW => cases h; exact ⟨_, fun _ => rfl, opLoopW_within _⟩
  -- integer vectors (R119 to R125)
  case vaddS32 | vaddS16 | vaddS8 | vsubS32 | vsubS16 | vsubS8 | vmulS32 | vmulS16 =>
    cases h
    exact ⟨_, fun _ => rfl, arithVec_within ..⟩
  case vminS32 | vminS16 => cases h; exact ⟨_, fun _ => rfl, minVec_within ..⟩
  case vmaxS32 | vmaxS16 => cases h; exact ⟨_, fun _ => rfl, maxVec_within ..⟩
  case vand | vor | vxor => cases h; exact ⟨_, fun _ => rfl, logicVec_within ..⟩
  case vshlS32 | vshlS16 => cases h; exact ⟨_, fun _ => rfl, shlVec_within ..⟩
  case vshrS32 | vshrS16 => cases h; exact ⟨_, fun _ => rfl, shrVec_within ..⟩
  case vdotS8 | vdotS16 => cases h; exact ⟨_, fun _ => rfl, dotVec_within ..⟩
  case vclmul | vclmulh => cases h; exact ⟨_, fun _ => rfl, binVec_within ..⟩
  -- compares, selection and element moves (R126, R127, R136 to R140)
  case vcmpS32 | vcmpS16 | vcmpF32 => cases h; exact ⟨_, fun _ => rfl, cmpVec_within ..⟩
  case vmacwS16 | vsel | vperm | vzip | vpack => cases h; exact ⟨_, fun _ => rfl, intVec_within ..⟩
  case vsplat | vslide | vext => cases h; exact ⟨_, fun _ => rfl, plainVec_within ..⟩
  -- floating-point vectors (R128 to R133)
  case vaddF32 | vaddBf16 | vaddF16 => cases h; exact ⟨_, fun _ => rfl, addVec_within ..⟩
  case vsubF32 => cases h; exact ⟨_, fun _ => rfl, arithF_within ..⟩
  case vmulF32 | vmulBf16 | vmulF16 => cases h; exact ⟨_, fun _ => rfl, mulVec_within ..⟩
  case vfmaF32 | vfmaBf16 | vfmaF16 => cases h; exact ⟨_, fun _ => rfl, fmaVec_within ..⟩
  case vminF32 | vmaxF32 => cases h; exact ⟨_, fun _ => rfl, exactF_within ..⟩
  case vcvtF32 | vcvtBf16 | vcvtF16 | vcvtF8e4 | vcvtF8e5 | vcvtS32 | vcvtS16 | vcvtS8 =>
    cases h
    exact ⟨_, fun _ => rfl, vcvtOp_within ..⟩
  case vexp2 | vlog2 | vrcp | vrsqrt | vtanh | vexp | vlog => cases h; exact ⟨_, fun _ => rfl, specVec_within ..⟩
  -- reductions and scans (R134, R135)
  case vredS32 => cases h; exact ⟨_, fun _ => rfl, opVredS32_within _⟩
  case vscanS32 => cases h; exact ⟨_, fun _ => rfl, opVscanS32_within _⟩
  case vredF32 => cases h; exact ⟨_, fun _ => rfl, opVredF32_within _⟩
  case vscanF32 => cases h; exact ⟨_, fun _ => rfl, opVscanF32_within _⟩
  -- events and Xmerf instructions have no slot word; the other slot instructions have an opcode from 0x80 on
  all_goals cases h
  all_goals simp at hl

end Sys2Proof.Machine

namespace Sys2Proof.Scope
open Sys2Proof.Machine Sys2Proof.Safety

/-- What a frame says of the machine: its parts but the contexts, what acts next and the count of free values are as before. -/
theorem machine_of_outside {n : Nat} {s t : State} (h : Outside n s t) :
    t = { s with ctxs := t.ctxs, agenda := t.agenda, freeCount := t.freeCount } :=
  calc t = { t.surroundings with ctxs := t.ctxs, agenda := t.agenda, freeCount := t.freeCount } := rfl
    _ = { s.surroundings with ctxs := t.ctxs, agenda := t.agenda, freeCount := t.freeCount } := by rw [h.machine]

/-- What a frame says of another context. -/
theorem other_of_outside {n k : Nat} {s t : State} (h : Outside n s t) (hk : k ≠ n) :
    ctxOf t k = { ctxOf s k with ch := (ctxOf t k).ch, phase := (ctxOf t k).phase, why := (ctxOf t k).why
                                 wait := (ctxOf t k).wait, rst := (ctxOf t k).rst } :=
  calc ctxOf t k = { (ctxOf t k).unlinked with ch := (ctxOf t k).ch, phase := (ctxOf t k).phase, why := (ctxOf t k).why
                                               wait := (ctxOf t k).wait, rst := (ctxOf t k).rst } := rfl
    _ = { (ctxOf s k).unlinked with ch := (ctxOf t k).ch, phase := (ctxOf t k).phase, why := (ctxOf t k).why
                                    wait := (ctxOf t k).wait, rst := (ctxOf t k).rst } := by rw [h.others k hk]

theorem sameMemory_of_outside {n : Nat} {s t : State} (h : Outside n s t) : sameMemory s t := fun a =>
  congrArg (smGet 0 · a) (congrArg State.mem h.machine :)

/-- What the current context's operation comes to when it goes on. -/
theorem issueOne_contained {regs stage : Prop} {s t : State} {w : Word} {op : Op} (ho : op.Within regs stage) (hv : (me s).svc = false)
    (h : issueOne w op s = .next t) : Contained regs stage s.cur s t := by
  unfold issueOne needLive at h
  split at h
  · cases h
    exact runBundle_contained (List.forall_mem_singleton.2 ho) hv _
  · cases h

/-- Settles O60: every operation of slots S1 and V stays within the frame of its context, and so does its bundle. -/
theorem registerFrame : Obligations.RegisterFrame := by
  intro s t i w hw hl hv hx
  obtain ⟨op, hi, ho⟩ := exec_within hw hl
  obtain ⟨hout, hown⟩ := issueOne_contained ho hv ((hi s).symm.trans hx)
  refine ⟨sameMemory_of_outside hout, machine_of_outside hout, fun k hk => other_of_outside hout hk, fun hsvc hm => ?_⟩
  have hk : Kept _ _ (me s) (ctxOf t s.cur) := (hown.resolve_left (by rw [hsvc]; exact Bool.false_ne_true)).own
  have hs := hk.settings hm
  refine ⟨(congrArg Ctx.asid hs :), (congrArg Ctx.fcause hs :), (congrArg Ctx.fpc hs :), (congrArg Ctx.faddr hs :),
    (congrArg Ctx.finfo hs :), (congrArg Ctx.kverrpol hs :), (congrArg Ctx.rmode hs :), (congrArg Ctx.seed hs :),
    (congrArg Ctx.shape hs :), (congrArg Ctx.watch hs :), fun hp => ?_⟩
  exact (hk.stage hm fun p h => by rw [hp] at h; cases h).2

end Sys2Proof.Scope
end

section
/-! PROOF. The matrix product (R92, R93, R152): what one row of the product writes, and what the rows after one another leave. -/
namespace Sys2Proof.Machine
open Sys2Proof.Safety

/-! ## Reading an accumulator's row -/

@[simp] theorem smGetList_length {α : Type} (d : α) (m : SMap α) (n k : Nat) : (smGetList d m n k).length = k := by
  induction k generalizing n with
  | zero => rfl
  | succ k ih => simp [smGetList, ih]

theorem smGetList_getD {α : Type} (d : α) (m : SMap α) {n k j : Nat} (h : j < k) : (smGetList d m n k).getD j d = smGet d m (n + j) := by
  induction k generalizing n j with
  | zero => omega
  | succ k ih =>
    cases j with
    | zero => simp [smGetList]
    | succ j =>
      rw [smGetList, List.getD_cons_succ, ih (by omega)]
      congr 1
      omega

theorem accRow_getD (t : Tile) (k i : Nat) {j : Nat} (h : j < 64) :
    (accRow t k i).getD j 0 = (smGet 0 t.acc (8192 * k + 64 * i + j)).toNat := by
  have hd : (accRow t k i).getD j (0 : Lane).toNat = _ := List.getD_map ..
  rw [← smGetList_getD 0 t.acc h]
  exact hd

/-! ## The rows of an operand tile (R148) -/

@[simp] theorem chunks_length {α : Type} (n k : Nat) (l : List α) : (chunks n k l).length = k := by
  induction k generalizing l with
  | zero => rfl
  | succ k ih => simp [chunks, ih]

@[simp] theorem latchCodes_length (l : Latch) : (latchCodes l).length = tileRows l.roleB := chunks_length ..
@[simp] theorem latchInts_length (l : Latch) : (latchInts l).length = tileRows l.roleB := by simp [latchInts]
@[simp] theorem latchVals_length (l : Latch) : (latchVals l).length = tileRows l.roleB := by
  unfold latchVals
  split <;> simp

/-! ## What a change of one tile leaves -/

/-- All but tile n is as before, of what the statement about products speaks of: the other tiles, the contexts and memory. -/
structure OnlyTile (n : Nat) (s t : State) : Prop where
  others : ∀ k, k ≠ n → tileAt t k = tileAt s k
  ctxs : t.ctxs = s.ctxs
  mem : t.mem = s.mem

theorem OnlyTile.refl (n : Nat) (s : State) : OnlyTile n s s := ⟨fun _ _ => rfl, rfl, rfl⟩
theorem OnlyTile.trans {n : Nat} {s t u : State} (h : OnlyTile n s t) (h' : OnlyTile n t u) : OnlyTile n s u :=
  ⟨fun k hk => (h'.others k hk).trans (h.others k hk), h'.ctxs.trans h.ctxs, h'.mem.trans h.mem⟩
theorem OnlyTile.modTile (s : State) (n : Nat) (f : Tile → Tile) : OnlyTile n s (modTile s n f) :=
  ⟨fun _ hk => tileAt_modTile_other s hk f, rfl, rfl⟩
theorem OnlyTile.sameMemory {n : Nat} {s t : State} (h : OnlyTile n s t) : sameMemory s t := fun a =>
  congrArg (smGet 0 · a) h.mem

/-! ## One row of the product -/

/-- The old value of an accumulator's element, or 0 under Z. -/
def mmOld (s : State) (e : Eng) (z : Bool) (k : Nat) : Nat := if z then 0 else (smGet 0 (tileAt s e.tile).acc k).toNat

theorem mmRow_eq (s : State) (e : Eng) (acc : Nat) (z : Bool) (i : Nat) (cell : Nat → Nat → Nat) :
    mmRow s e acc z false i cell = putAccRow s e.tile acc i ((List.range 64).map fun j =>
      cell j (if z then 0 else (accRow (tileAt s e.tile) acc i).getD j 0)) := rfl

theorem mmRow_only (s : State) (e : Eng) (acc : Nat) (z : Bool) (i : Nat) (cell : Nat → Nat → Nat) :
    OnlyTile e.tile s (mmRow s e acc z false i cell) := by
  rw [mmRow_eq]
  exact OnlyTile.modTile ..

/-- R152: a row of the product writes its 64 elements. -/
theorem mmRow_same (s : State) (e : Eng) (acc : Nat) (z : Bool) (i : Nat) (cell : Nat → Nat → Nat) {j : Nat} (h : j < 64) :
    smGet 0 (tileAt (mmRow s e acc z false i cell) e.tile).acc (8192 * acc + 64 * i + j) =
      BitVec.ofNat 32 (cell j (mmOld s e z (8192 * acc + 64 * i + j))) := by
  rw [mmRow_eq, putAccRow, tileAt_modTile_same, smGet_smSetList, if_pos (by simp; omega), Nat.add_sub_cancel_left]
  rw [List.getD_eq_getElem _ _ (by simpa using h)]
  simp only [List.getElem_map, List.getElem_range, accRow_getD _ _ _ h, mmOld]

/-- R152: every other element reads as before. -/
theorem mmRow_other (s : State) (e : Eng) (acc : Nat) (z : Bool) (i : Nat) (cell : Nat → Nat → Nat) {k : Nat}
    (h : k < 8192 * acc + 64 * i ∨ 8192 * acc + 64 * i + 64 ≤ k) :
    smGet 0 (tileAt (mmRow s e acc z false i cell) e.tile).acc k = smGet 0 (tileAt s e.tile).acc k := by
  rw [mmRow_eq, putAccRow, tileAt_modTile_same, smGet_smSetList, if_neg (by simp; omega)]

/-! ## The rows in order -/

/-- R152: the rows `as` of A from row n on, each multiplied with the rows of B by `dot`. -/
def mmRows {α : Type} (e : Eng) (acc : Nat) (z : Bool) (dot : Nat → List α → List α → Nat) (bs : List (List α)) :
    Nat → State → List (List α) → State
  | _, s, [] => s
  | n, s, r :: as => mmRows e acc z dot bs (n + 1) (mmRow s e acc z false n fun j x => dot x r (bs.getD j [])) as

section
variable {α : Type} (e : Eng) (acc : Nat) (z : Bool) (dot : Nat → List α → List α → Nat) (bs : List (List α))

theorem foldl_mmRow (n : Nat) (s : State) (as : List (List α)) :
    (as.zipIdx n).foldl (fun s r => mmRow s e acc z false r.2 fun j x => dot x r.1 (bs.getD j [])) s =
      mmRows e acc z dot bs n s as := by
  induction as generalizing n s with
  | nil => rfl
  | cons r as ih => exact ih (n + 1) _

theorem mmRows_only (n : Nat) (s : State) (as : List (List α)) : OnlyTile e.tile s (mmRows e acc z dot bs n s as) := by
  induction as generalizing n s with
  | nil => exact OnlyTile.refl ..
  | cons r as ih => exact (mmRow_only ..).trans (ih ..)

/-- Elements outside the rows read as before. -/
theorem mmRows_other (n : Nat) (s : State) (as : List (List α)) {k : Nat}
    (h : k < 8192 * acc + 64 * n ∨ 8192 * acc + 64 * (n + as.length) ≤ k) :
    smGet 0 (tileAt (mmRows e acc z dot bs n s as) e.tile).acc k = smGet 0 (tileAt s e.tile).acc k := by
  induction as generalizing n s with
  | nil => rfl
  | cons r as ih =>
    rw [List.length_cons] at h
    rw [mmRows, ih (n + 1) _ (by omega), mmRow_other _ _ _ _ _ _ (by omega)]

/-- R92, R152: element j of row n + i is the sum of row i of `as` and row j of `bs`, from its old value. -/
theorem mmRows_elem (n : Nat) (s : State) (as : List (List α)) {i j : Nat} (hi : i < as.length) (hj : j < 64) :
    smGet 0 (tileAt (mmRows e acc z dot bs n s as) e.tile).acc (8192 * acc + 64 * (n + i) + j) =
      BitVec.ofNat 32 (dot (mmOld s e z (8192 * acc + 64 * (n + i) + j)) (as.getD i []) (bs.getD j [])) := by
  induction as generalizing n s i with
  | nil => simp at hi
  | cons r as ih =>
    cases i with
    | zero => rw [mmRows, mmRows_other _ _ _ _ _ _ _ _ (by omega), Nat.add_zero, mmRow_same _ _ _ _ _ _ hj, List.getD_cons_zero]
    | succ i =>
      have hold : mmOld (mmRow s e acc z false n fun j x => dot x r (bs.getD j [])) e z (8192 * acc + 64 * (n + 1 + i) + j) =
          mmOld s e z (8192 * acc + 64 * (n + 1 + i) + j) := by
        rw [mmOld, mmRow_other _ _ _ _ _ _ (by omega), mmOld]
      have hrow : n + (i + 1) = n + 1 + i := by omega
      rw [hrow, mmRows, ih _ _ (by simpa using hi), hold, List.getD_cons_succ]

end

/-- R152: what a product of 128 rows of A leaves: the accumulator's elements, the other accumulators, and the rest. -/
structure Product {α : Type} (s t : State) (e : Eng) (acc : Nat) (z : Bool) (dot : Nat → List α → List α → Nat)
    (as bs : List (List α)) : Prop where
  elems : ∀ i j, i < 128 → j < 64 → smGet 0 (tileAt t e.tile).acc (8192 * acc + 64 * i + j) =
    BitVec.ofNat 32 (dot (mmOld s e z (8192 * acc + 64 * i + j)) (as.getD i []) (bs.getD j []))
  accs : ∀ k, k < 8192 * acc ∨ 8192 * acc + 8192 ≤ k → smGet 0 (tileAt t e.tile).acc k = smGet 0 (tileAt s e.tile).acc k
  rest : OnlyTile e.tile s t

theorem mmRows_product {α : Type} (s : State) (e : Eng) (acc : Nat) (z : Bool) (dot : Nat → List α → List α → Nat)
    {as : List (List α)} (bs : List (List α)) (h : as.length = 128) : Product s (mmRows e acc z dot bs 0 s as) e acc z dot as bs where
  elems i j hi hj := by simpa using mmRows_elem e acc z dot bs 0 s as (h ▸ hi) hj
  accs k hk := mmRows_other e acc z dot bs 0 s as (by omega)
  rest := mmRows_only ..

/-- R92: the integer products sum integers. -/
theorem mmAll_int (s : State) (e : Eng) {op : Nat} (acc : Nat) (z : Bool) {a : Latch} (b : Latch) (hop : op = 0x87 ∨ op = 0x88)
    (ha : a.roleB = false) : Product s (mmAll s e op acc z false a b) e acc z dotInt (latchInts a) (latchInts b) := by
  rw [mmAll, if_pos hop, foldl_mmRow]
  exact mmRows_product _ _ _ _ _ _ (by simp [ha, tileRows])

/-- R92, R93: the others sum groups of 16 or 32 products. -/
theorem mmAll_float (s : State) (e : Eng) {op : Nat} (acc : Nat) (z : Bool) {a : Latch} (b : Latch) (hop : ¬(op = 0x87 ∨ op = 0x88))
    (ha : a.roleB = false) : Product s (mmAll s e op acc z false a b) e acc z
      (dotGroups (if elemBits a.ty = 16 ∨ elemBits b.ty = 16 then 16 else 32)) (latchVals a) (latchVals b) := by
  rw [mmAll, if_neg hop, foldl_mmRow]
  exact mmRows_product _ _ _ _ _ _ (by simp [ha, tileRows])

end Sys2Proof.Machine

namespace Sys2Proof.Numbers
open Sys2Proof.Machine Sys2Proof.Safety

/-- Settles O31: the integer and the floating-point product are the same rows in order, with another sum of a row and a column. -/
theorem matrixProduct : Obligations.MatrixProduct := by
  intro s e op acc z a b ha _
  by_cases hop : op = 0x87 ∨ op = 0x88
  · obtain ⟨helems, haccs, hrest⟩ := mmAll_int s e acc z b hop ha
    refine ⟨fun i j hi hj => ?_, haccs, hrest.others, hrest.ctxs, hrest.sameMemory⟩
    rw [if_pos hop]
    exact helems i j hi hj
  · obtain ⟨helems, haccs, hrest⟩ := mmAll_float s e acc z b hop ha
    refine ⟨fun i j hi hj => ?_, haccs, hrest.others, hrest.ctxs, hrest.sameMemory⟩
    rw [if_neg hop]
    exact helems i j hi hj

end Sys2Proof.Numbers
end

section
/-! PROOF. Words as integers, and the wrapping and the saturating sum of two (R119, R123). -/
namespace Sys2Proof.Machine

theorem bit_toNat {n : Nat} (x : BitVec n) (i : Nat) : bit x.toNat i = x.getLsbD i := by
  rw [BitVec.getLsbD, Nat.testBit_eq_decide_div_mod_eq]
  rfl

theorem VSrc.elem_lt (x : VSrc) (w i : Nat) : x.elem w i < 2 ^ w := by
  cases x <;> exact Nat.mod_lt _ (Nat.two_pow_pos w)

/-! ## Words as integers -/

/-- R119: a word read as unsigned or as signed, the least and the greatest value it can have, and a value clamped between them. -/
def val32 (u : Bool) (x : Nat) : Int := if u then (x : Int) else sext x 32
def low32 (u : Bool) : Int := if u then 0 else -2 ^ 31
def high32 (u : Bool) : Int := if u then 2 ^ 32 - 1 else 2 ^ 31 - 1
def clamp32 (u : Bool) (x : Int) : RR :=
  ⟨truncI (max (low32 u) (min (high32 u) x)) 32, 0, if x < low32 u ∨ high32 u < x then sIS else 0⟩

theorem sext_of_lt {x : Nat} (h : x < 2 ^ 32) : sext x 32 = if x < 2 ^ 31 then (x : Int) else x - 2 ^ 32 := by
  rw [sext, Nat.mod_eq_of_lt h]
  split <;> split <;> omega

theorem low32_le_val32 (u : Bool) {x : Nat} (h : x < 2 ^ 32) : low32 u ≤ val32 u x := by
  cases u
  · simp only [low32, val32, Bool.false_eq_true, if_false, sext_of_lt h]
    split <;> omega
  · exact Int.natCast_nonneg x
theorem val32_le_high32 (u : Bool) {x : Nat} (h : x < 2 ^ 32) : val32 u x ≤ high32 u := by
  cases u
  · simp only [high32, val32, Bool.false_eq_true, if_false, sext_of_lt h]
    split <;> omega
  · simp only [high32, val32, if_true]
    omega

/-- A word is what its value is truncated to. -/
theorem truncI_val32 (u : Bool) {x : Nat} (h : x < 2 ^ 32) : truncI (val32 u x) 32 = x := by
  cases u
  · simp only [truncI, val32, Bool.false_eq_true, if_false, sext_of_lt h]
    split <;> omega
  · simp only [truncI, val32, if_true]
    omega

/-- A value of a word is not clamped. -/
theorem clamp32_val32 (u : Bool) {x : Nat} (h : x < 2 ^ 32) : clamp32 u (val32 u x) = ⟨x, 0, 0⟩ := by
  have hl := low32_le_val32 u h
  have hh := val32_le_high32 u h
  rw [clamp32, min_eq_right hh, max_eq_right hl, truncI_val32 u h, if_neg (by omega)]

theorem val32_zero (u : Bool) : val32 u 0 = 0 := by cases u <;> rfl
/-- Flags that are clear or IS stay so when they are ORed. -/
theorem saturated_or : ∀ x y : BitVec 2, x = 0 ∨ x = sIS → y = 0 ∨ y = sIS → x ||| y = 0 ∨ x ||| y = sIS := by decide
theorem clamp32_sf (u : Bool) (x : Int) : (clamp32 u x).sf = 0 ∨ (clamp32 u x).sf = sIS := by
  rw [clamp32]
  split
  · exact .inr rfl
  · exact .inl rfl

/-! ## The sum of two elements by form -/

/-- R119, R123: the sum of two elements in a form. -/
def addForm (form a b : Nat) : RR := intForm form 32 (intElem form 32 a + intElem form 32 b)
/-- The saturating form that reads its elements as unsigned or as signed. -/
def satForm (u : Bool) : Nat := if u then 3 else 1

theorem addForm_wrap (a b : Nat) : addForm 0 a b = ⟨(a + b) % 2 ^ 32, 0, 0⟩ := by
  have h : truncI (sext a 32 + sext b 32) 32 = (a + b) % 2 ^ 32 := by
    simp only [truncI, sext]
    split <;> split <;> omega
  simp [addForm, intForm, intElem, h]

theorem satTo_eq {lo hi : Int} (h : lo ≤ hi) (x : Int) : satTo x lo hi = (max lo (min hi x), decide (x < lo ∨ hi < x)) := by
  unfold satTo
  split
  · simp; omega
  · split <;> simp <;> omega

theorem addForm_sat (u : Bool) (a b : Nat) : addForm (satForm u) a b = clamp32 u (val32 u a + val32 u b) := by
  cases u <;> simp [addForm, satForm, intForm, intElem, clamp32, val32, satTo_eq, low32, high32]

theorem addForm_ff (form a b : Nat) : (addForm form a b).ff = 0 := by
  unfold addForm intForm
  split <;> rfl

end Sys2Proof.Machine
end

section
/-! PROOF. The pairwise tree and the scan (R94, R95): what they make of nodes and steps that add, pick or saturate. -/
namespace Sys2Proof.Machine

/-! ## The pairwise tree (R94) -/

theorem treeLevel_cons (g : Nat → Nat → Nat → RR) (i a b : Nat) (t : List Nat) : treeLevel g i (a :: b :: t) =
    ((g i a b).code :: (treeLevel g (i + 1) t).1, (g i a b).ff ||| (treeLevel g (i + 1) t).2.1,
      (g i a b).sf ||| (treeLevel g (i + 1) t).2.2) := rfl
theorem tree_succ (g : Nat → Nat → Nat → RR) (k : Nat) (l : List Nat) : tree g (k + 1) l =
    ((tree g k (treeLevel g 0 l).1).1, (treeLevel g 0 l).2.1 ||| (tree g k (treeLevel g 0 l).1).2.1,
      (treeLevel g 0 l).2.2 ||| (tree g k (treeLevel g 0 l).1).2.2) := rfl

theorem treeLevel_length (g : Nat → Nat → Nat → RR) (i : Nat) {n : Nat} {l : List Nat} (h : l.length = 2 * n) :
    (treeLevel g i l).1.length = n := by
  induction n generalizing i l with
  | zero =>
    rw [List.length_eq_zero_iff.1 h]
    rfl
  | succ n ih =>
    match l with
    | a :: b :: t =>
      rw [treeLevel_cons, List.length_cons, ih]
      simp only [List.length_cons] at h
      omega

section
variable {g : Nat → Nat → Nat → RR}

/-- What holds of every element, and of a node when it holds of the two that it joins, holds of every element of a level. -/
theorem treeLevel_forall {P : Nat → Prop} (hg : ∀ i a b, P a → P b → P (g i a b).code) (i : Nat) {l : List Nat}
    (h : ∀ x ∈ l, P x) : ∀ x ∈ (treeLevel g i l).1, P x := by
  induction l using List.twoStepInduction generalizing i with
  | nil => exact h
  | singleton x => exact h
  | cons_cons a b t ih =>
    simp only [List.forall_mem_cons] at h
    obtain ⟨ha, hb, ht⟩ := h
    exact List.forall_mem_cons.2 ⟨hg i a b ha hb, ih _ ht⟩

/-- A level of sums modulo n has the sum of its elements. -/
theorem treeLevel_sum {n : Nat} (hg : ∀ i a b, (g i a b).code = (a + b) % n) (i : Nat) (l : List Nat) :
    (treeLevel g i l).1.sum ≡ l.sum [MOD n] := by
  induction l using List.twoStepInduction generalizing i with
  | nil => rfl
  | singleton x => rfl
  | cons_cons a b t ih =>
    rw [treeLevel_cons, List.sum_cons, List.sum_cons, List.sum_cons, hg, ← Nat.add_assoc]
    exact (Nat.mod_modEq _ _).add (ih _)

/-- A level of nodes that are no greater than what they join has an element no greater than each. -/
theorem treeLevel_le {κ : Nat → Int} (hg : ∀ i a b, κ (g i a b).code ≤ κ a ∧ κ (g i a b).code ≤ κ b) (i : Nat) (l : List Nat) :
    ∀ x ∈ l, ∃ y ∈ (treeLevel g i l).1, κ y ≤ κ x := by
  induction l using List.twoStepInduction generalizing i with
  | nil => simp
  | singleton x => exact fun y hy => ⟨y, hy, le_rfl⟩
  | cons_cons a b t ih =>
    obtain ⟨ha, hb⟩ := hg i a b
    rw [treeLevel_cons, List.forall_mem_cons, List.forall_mem_cons]
    refine ⟨⟨_, List.mem_cons_self, ha⟩, ⟨_, List.mem_cons_self, hb⟩, fun x hx => ?_⟩
    obtain ⟨y, hy, hyx⟩ := ih (i + 1) x hx
    exact ⟨y, List.mem_cons_of_mem _ hy, hyx⟩

theorem treeLevel_ff (hg : ∀ i a b, (g i a b).ff = 0) (i : Nat) (l : List Nat) : (treeLevel g i l).2.1 = 0 := by
  induction l using List.twoStepInduction generalizing i with
  | nil => rfl
  | singleton x => rfl
  | cons_cons a b t ih => rw [treeLevel_cons, hg, ih]; rfl
theorem treeLevel_sf (hg : ∀ i a b, (g i a b).sf = 0) (i : Nat) (l : List Nat) : (treeLevel g i l).2.2 = 0 := by
  induction l using List.twoStepInduction generalizing i with
  | nil => rfl
  | singleton x => rfl
  | cons_cons a b t ih => rw [treeLevel_cons, hg, ih]; rfl

theorem tree_ff (hg : ∀ i a b, (g i a b).ff = 0) (k : Nat) (l : List Nat) : (tree g k l).2.1 = 0 := by
  induction k generalizing l with
  | zero => rfl
  | succ k ih => rw [tree_succ, treeLevel_ff hg, ih]; rfl
theorem tree_sf (hg : ∀ i a b, (g i a b).sf = 0) (k : Nat) (l : List Nat) : (tree g k l).2.2 = 0 := by
  induction k generalizing l with
  | zero => rfl
  | succ k ih => rw [tree_succ, treeLevel_sf hg, ih]; rfl

variable {k : Nat} {l : List Nat}

theorem treeLevel_halves (h : l.length = 2 ^ (k + 1)) : (treeLevel g 0 l).1.length = 2 ^ k :=
  treeLevel_length g 0 (by rw [h]; exact Nat.pow_succ')

theorem tree_forall {P : Nat → Prop} (hg : ∀ i a b, P a → P b → P (g i a b).code) (hk : l.length = 2 ^ k) (h : ∀ x ∈ l, P x) :
    P (tree g k l).1 := by
  induction k generalizing l with
  | zero =>
    obtain ⟨x, rfl⟩ := List.length_eq_one_iff.1 hk
    exact h x (List.mem_singleton_self x)
  | succ k ih => exact ih (treeLevel_halves hk) (treeLevel_forall hg 0 h)

/-- R94: the tree of sums modulo n is the sum of the elements modulo n. -/
theorem tree_sum {n : Nat} (hg : ∀ i a b, (g i a b).code = (a + b) % n) (hk : l.length = 2 ^ k) :
    (tree g k l).1 ≡ l.sum [MOD n] := by
  induction k generalizing l with
  | zero =>
    obtain ⟨x, rfl⟩ := List.length_eq_one_iff.1 hk
    rfl
  | succ k ih => exact (ih (treeLevel_halves hk)).trans (treeLevel_sum hg 0 l)

/-- R94: the tree of nodes no greater than what they join is no greater than any element. -/
theorem tree_le {κ : Nat → Int} (hg : ∀ i a b, κ (g i a b).code ≤ κ a ∧ κ (g i a b).code ≤ κ b) (hk : l.length = 2 ^ k) :
    ∀ x ∈ l, κ (tree g k l).1 ≤ κ x := by
  induction k generalizing l with
  | zero =>
    obtain ⟨x, rfl⟩ := List.length_eq_one_iff.1 hk
    exact List.forall_mem_singleton.2 le_rfl
  | succ k ih =>
    intro x hx
    obtain ⟨y, hy, hyx⟩ := treeLevel_le hg 0 l x hx
    exact (ih (treeLevel_halves hk) y hy).trans hyx

end

/-! ## The scan (R95) -/

theorem scanList_cons (g : Nat → Nat → Nat → RR) (i y x : Nat) (xs : List Nat) : scanList g i y (x :: xs) =
    ((g i y x).code :: (scanList g (i + 1) (g i y x).code xs).1, (g i y x).ff ||| (scanList g (i + 1) (g i y x).code xs).2.1,
      (g i y x).sf ||| (scanList g (i + 1) (g i y x).code xs).2.2) := rfl

/-- R95: step j of a scan, from the running value before it, y at first, and its element. -/
def scanStep (g : Nat → Nat → Nat → RR) (i y : Nat) (l : List Nat) (j : Nat) : RR :=
  g (i + j) ((y :: (scanList g i y l).1).getD j 0) (l.getD j 0)

section
variable {g : Nat → Nat → Nat → RR}

theorem scanStep_zero (i y x : Nat) (xs : List Nat) : scanStep g i y (x :: xs) 0 = g i y x := rfl
theorem scanStep_succ (i y x : Nat) (xs : List Nat) (j : Nat) :
    scanStep g i y (x :: xs) (j + 1) = scanStep g (i + 1) (g i y x).code xs j := by
  have hj : i + (j + 1) = i + 1 + j := by omega
  rw [scanStep, scanStep, hj, scanList_cons, List.getD_cons_succ, List.getD_cons_succ]

@[simp] theorem scanList_length (i y : Nat) (l : List Nat) : (scanList g i y l).1.length = l.length := by
  induction l generalizing i y with
  | nil => rfl
  | cons x xs ih => rw [scanList_cons, List.length_cons, ih, List.length_cons]

/-- R95: each running value is the result of its step. -/
theorem scanList_getD (i y : Nat) {l : List Nat} {j : Nat} (h : j < l.length) :
    (scanList g i y l).1.getD j 0 = (scanStep g i y l j).code := by
  induction l generalizing i y j with
  | nil => simp at h
  | cons x xs ih =>
    cases j with
    | zero => rfl
    | succ j => rw [scanStep_succ, scanList_cons, List.getD_cons_succ, ih _ _ (by simpa using h)]

theorem scanList_ff (hg : ∀ i a b, (g i a b).ff = 0) (i y : Nat) (l : List Nat) : (scanList g i y l).2.1 = 0 := by
  induction l generalizing i y with
  | nil => rfl
  | cons x xs ih => rw [scanList_cons, hg, ih]; rfl

/-- R95: a scan saturates exactly when one of its steps does. -/
theorem scanList_sf_eq_zero (i y : Nat) (l : List Nat) :
    (scanList g i y l).2.2 = 0 ↔ ∀ j, j < l.length → (scanStep g i y l j).sf = 0 := by
  induction l generalizing i y with
  | nil => simp [scanList]
  | cons x xs ih =>
    rw [scanList_cons, BitVec.ofNat_eq_ofNat, BitVec.or_eq_zero_iff, List.length_cons, Nat.forall_lt_succ_left]
    simp only [scanStep_zero, scanStep_succ]
    exact and_congr_right' (ih _ _)

theorem scanList_sf (hg : ∀ i a b, (g i a b).sf = 0 ∨ (g i a b).sf = sIS) (i y : Nat) (l : List Nat) :
    (scanList g i y l).2.2 = 0 ∨ (scanList g i y l).2.2 = sIS := by
  induction l generalizing i y with
  | nil => exact .inl rfl
  | cons x xs ih => exact saturated_or _ _ (hg i y x) (ih ..)

end

end Sys2Proof.Machine
end

section
/-! PROOF. The integer and FP32 reductions and scans (R94, R95, R134, R135). -/
namespace Sys2Proof.Machine
open Sys2Proof.Safety

/-! ## The elements of a reduction and of a scan (R94, R95, R113) -/

theorem lanes_le (c : Ctx) : c.lanes ≤ 64 := by
  unfold Ctx.lanes
  split
  · split
    · exact Nat.zero_le _
    · exact Nat.min_le_right ..
  · exact Nat.zero_le _

theorem le_two_pow_logCeil {n : Nat} (h : n ≤ 64) : n ≤ 2 ^ logCeil n := by
  unfold logCeil
  cases hk : (List.range 7).find? fun k => decide (n ≤ 2 ^ k) with
  | none => exact h.trans (by decide)
  | some k => simpa using List.find?_some hk

/-- The elements below n that are governed. -/
def governed (c : Ctx) (f : RRR) (n : Nat) : List Nat :=
  ((List.range n).filter fun i => (getM c f.msk).getLsbD i).map fun i => (readV c f.a).elem 32 i
/-- Element i, or the identity when it is not governed. -/
def masked (c : Ctx) (f : RRR) (d i : Nat) : Nat := if (getM c f.msk).getLsbD i then (readV c f.a).elem 32 i else d

theorem masked_lt (c : Ctx) (f : RRR) {d : Nat} (h : d < 2 ^ 32) (i : Nat) : masked c f d i < 2 ^ 32 := by
  unfold masked
  split
  · exact VSrc.elem_lt ..
  · exact h

/-- The governed elements and the identity are the elements with the identity in place of those that are not governed. -/
theorem mem_governed_or_identity {c : Ctx} {f : RRR} {d n x : Nat} (h : x ∈ (List.range n).map (masked c f d)) :
    x ∈ d :: governed c f n := by
  obtain ⟨i, hi, rfl⟩ := List.mem_map.1 h
  unfold masked
  split
  · next hm => exact List.mem_cons_of_mem _ (List.mem_map_of_mem (List.mem_filter.2 ⟨hi, hm⟩))
  · exact List.mem_cons_self
theorem mem_masked_of_governed {c : Ctx} {f : RRR} (d : Nat) {n x : Nat} (h : x ∈ governed c f n) :
    x ∈ (List.range n).map (masked c f d) := by
  obtain ⟨i, hi, rfl⟩ := List.mem_map.1 h
  obtain ⟨hr, hm⟩ := List.mem_filter.1 hi
  exact List.mem_map.2 ⟨i, hr, if_pos hm⟩

theorem governed_succ_sum (c : Ctx) (f : RRR) (n : Nat) : (governed c f (n + 1)).sum = (governed c f n).sum + masked c f 0 n := by
  unfold governed masked
  rw [List.range_succ, List.filter_append, List.map_append, List.sum_append, List.filter_singleton]
  split <;> simp [*]
theorem masked_sum (c : Ctx) (f : RRR) (n : Nat) : ((List.range n).map (masked c f 0)).sum = (governed c f n).sum := by
  induction n with
  | zero => rfl
  | succ n ih => rw [List.range_succ, List.map_append, List.sum_append, ih, governed_succ_sum]; rfl

/-- R94: the padding of a reduction is the identity. -/
theorem redElems_eq (f : RRR) (v : View) (d : Nat) : redElems f v d =
    (List.range v.c.lanes).map (masked v.c f d) ++ List.replicate (2 ^ logCeil v.c.lanes - v.c.lanes) d := by
  have hk := le_two_pow_logCeil (lanes_le v.c)
  unfold redElems
  obtain ⟨p, hp⟩ := Nat.exists_eq_add_of_le hk
  rw [hp, Nat.add_sub_cancel_left, List.range_add, List.map_append, List.map_map]
  congr 1
  · refine List.map_congr_left fun i hi => ?_
    simp [masked, governOf, List.mem_range.1 hi]
  · simp [Function.comp_def]
theorem redElems_length (f : RRR) (v : View) (d : Nat) : (redElems f v d).length = 2 ^ logCeil v.c.lanes := by
  rw [redElems, List.length_map, List.length_range]
theorem redElems_lt (f : RRR) (v : View) {d : Nat} (h : d < 2 ^ 32) : ∀ x ∈ redElems f v d, x < 2 ^ 32 := by
  simp only [redElems_eq, List.mem_append, List.mem_map, List.mem_replicate]
  rintro x (⟨i, -, rfl⟩ | ⟨-, rfl⟩)
  · exact masked_lt _ _ h i
  · exact h
theorem redElems_sum (f : RRR) (v : View) : (redElems f v 0).sum = (governed v.c f v.c.lanes).sum := by
  rw [redElems_eq, List.sum_append, masked_sum, List.sum_replicate, smul_zero, Nat.add_zero]
theorem mem_redElems {f : RRR} {v : View} {d x : Nat} (h : x ∈ redElems f v d) : x ∈ d :: governed v.c f v.c.lanes := by
  rw [redElems_eq] at h
  rcases List.mem_append.1 h with h | h
  · exact mem_governed_or_identity h
  · exact List.eq_of_mem_replicate h ▸ List.mem_cons_self
theorem redElems_of_governed {f : RRR} {v : View} (d : Nat) {x : Nat} (h : x ∈ governed v.c f v.c.lanes) : x ∈ redElems f v d := by
  rw [redElems_eq]
  exact List.mem_append_left _ (mem_masked_of_governed d h)

@[simp] theorem scanElems_length (f : RRR) (v : View) (d : Nat) : (scanElems f v d).length = v.c.lanes := by
  simp [scanElems]
theorem scanElems_getD (f : RRR) (v : View) (d : Nat) {i : Nat} (h : i < v.c.lanes) :
    (scanElems f v d).getD i 0 = masked v.c f d i := by
  rw [List.getD_eq_getElem _ _ (by simpa using h)]
  simp [scanElems, masked, governOf]

/-! ## What the operations leave to land (R94, R95, R134, R135) -/

/-- R134: the identity and the node of an integer reduction. -/
def redIdentity (f : RRR) : Nat :=
  match bits f.md.toNat 1 0 with
  | 0 => 0 | 1 => (if bit f.md.toNat 3 then 0xFFFFFFFF else 0x7FFFFFFF) | _ => (if bit f.md.toNat 3 then 0 else 0x80000000)
/-- Whether a value of an element is below another's. -/
def less32 (u : Bool) (a b : Nat) : Bool := if u then decide (a < b) else decide (sext a 32 < sext b 32)
def redNode (f : RRR) (_ a b : Nat) : RR :=
  match bits f.md.toNat 1 0 with
  | 0 => addForm (if !bit f.md.toNat 2 then 0 else satForm (bit f.md.toNat 3)) a b
  | 1 => ⟨if less32 (bit f.md.toNat 3) b a then b else a, 0, 0⟩
  | _ => ⟨if less32 (bit f.md.toNat 3) a b then b else a, 0, 0⟩
/-- R135: the step of an integer scan. -/
def scanNode (f : RRR) (_ y x : Nat) : RR := addForm (if !bit f.md.toNat 0 then 0 else satForm (bit f.md.toNat 1)) y x

/-- R94, R134: the code, flags and saturation of an integer reduction. -/
def redS32 (f : RRR) (v : View) : Nat × BitVec 5 × BitVec 2 :=
  tree (redNode f) (logCeil v.c.lanes) (redElems f v (redIdentity f))
/-- R95, R135: the running values, flags and saturation of an integer scan. -/
def scanS32 (f : RRR) (v : View) : List Nat × BitVec 5 × BitVec 2 := scanList (scanNode f) 0 0 (scanElems f v 0)

theorem redNode_ff (f : RRR) (i a b : Nat) : (redNode f i a b).ff = 0 := by
  unfold redNode
  split
  · exact addForm_ff ..
  · rfl
  · rfl

theorem opVredS32_run (f : RRR) (v : View) (s : State) : (opVredS32 f).run v s =
    .ok s { landV v.c f.d (redLanes f v (redS32 f v).1) 8 with sf := (redS32 f v).2.2 } := by
  have hff : (redS32 f v).2.1 = 0 := tree_ff (redNode_ff f) ..
  calc (opVredS32 f).run v s =
      .ok s { landV v.c f.d (redLanes f v (redS32 f v).1) 8 with ff := (redS32 f v).2.1, sf := (redS32 f v).2.2 } := rfl
    _ = _ := by rw [hff]; rfl
theorem opVscanS32_run (f : RRR) (v : View) (s : State) : (opVscanS32 f).run v s =
    .ok s { landV v.c f.d (packLanes 32 (scanS32 f v).1 v.c.lanes) 8 with sf := (scanS32 f v).2.2 } := by
  have hff : (scanS32 f v).2.1 = 0 := scanList_ff (fun _ => addForm_ff _) ..
  calc (opVscanS32 f).run v s =
      .ok s { landV v.c f.d (packLanes 32 (scanS32 f v).1 v.c.lanes) 8 with ff := (scanS32 f v).2.1, sf := (scanS32 f v).2.2 } := rfl
    _ = _ := by rw [hff]; rfl

/-! ## Integer reductions by kind (R134) -/

theorem bits_kind (n : Nat) : bits n 1 0 = n % 4 := by simp [bits]
theorem bit_of_mod_two {n : Nat} (i : Nat) {b : Nat} (h : n / 2 ^ i % 2 = b) : bit n i = (b == 1) := by rw [bit, h]

theorem less32_eq (u : Bool) (a b : Nat) : less32 u a b = decide (val32 u a < val32 u b) := by
  cases u <;> simp [less32, val32]

theorem redIdentity_sum {f : RRR} (h : f.md.toNat % 4 = 0) : redIdentity f = 0 := by
  simp only [redIdentity, bits_kind, h]
theorem redNode_wrap {f : RRR} (h : f.md.toNat % 8 = 0) (i a b : Nat) : redNode f i a b = ⟨(a + b) % 2 ^ 32, 0, 0⟩ := by
  have h4 : f.md.toNat % 4 = 0 := by omega
  have h2 : bit f.md.toNat 2 = false := bit_of_mod_two 2 (b := 0) (by omega)
  simp only [redNode, bits_kind, h4, h2, Bool.not_false, if_true, addForm_wrap]
theorem redNode_sat {f : RRR} (h : f.md.toNat % 8 = 4) : redNode f =
    fun _ a b => clamp32 (f.md.getLsbD 3) (val32 (f.md.getLsbD 3) a + val32 (f.md.getLsbD 3) b) := by
  have h4 : f.md.toNat % 4 = 0 := by omega
  have h2 : bit f.md.toNat 2 = true := bit_of_mod_two 2 (b := 1) (by omega)
  funext i a b
  simp only [redNode, bits_kind, h4, h2, Bool.not_true, Bool.false_eq_true, if_false, addForm_sat, bit_toNat]

/-- The node of a minimum keeps the element of the lesser value, that of a maximum the element whose negated value is lesser. -/
theorem redNode_min {f : RRR} (h : f.md.toNat % 4 = 1) (i a b : Nat) : redNode f i a b =
    ⟨if val32 (f.md.getLsbD 3) b < val32 (f.md.getLsbD 3) a then b else a, 0, 0⟩ := by
  simp only [redNode, bits_kind, h, less32_eq, decide_eq_true_eq, bit_toNat]
theorem redNode_max {f : RRR} (h : f.md.toNat % 4 = 2) (i a b : Nat) : redNode f i a b =
    ⟨if -val32 (f.md.getLsbD 3) b < -val32 (f.md.getLsbD 3) a then b else a, 0, 0⟩ := by
  simp only [redNode, bits_kind, h, less32_eq, decide_eq_true_eq, bit_toNat, neg_lt_neg_iff]

theorem redIdentity_min {f : RRR} (h : f.md.toNat % 4 = 1) :
    redIdentity f = if f.md.getLsbD 3 then 0xFFFFFFFF else 0x7FFFFFFF := by
  simp only [redIdentity, bits_kind, h, bit_toNat]
theorem redIdentity_max {f : RRR} (h : f.md.toNat % 4 = 2) : redIdentity f = if f.md.getLsbD 3 then 0 else 0x80000000 := by
  simp only [redIdentity, bits_kind, h, bit_toNat]

/-- R134: the identity of a minimum has the greatest value, that of a maximum the least. -/
theorem val32_identity_min (u : Bool) : val32 u (if u then 0xFFFFFFFF else 0x7FFFFFFF) = high32 u := by cases u <;> rfl
theorem val32_identity_max (u : Bool) : val32 u (if u then 0 else 0x80000000) = low32 u := by cases u <;> rfl

section
variable {f : RRR} {v : View}

theorem redS32_wrap (h : f.md.toNat % 8 = 0) :
    (redS32 f v).2.2 = 0 ∧ (redS32 f v).1 = (governed v.c f v.c.lanes).sum % 2 ^ 32 := by
  have hid := redIdentity_sum (f := f) (by omega)
  have hlen := redElems_length f v 0
  have hsum : (redS32 f v).1 ≡ (redElems f v 0).sum [MOD 2 ^ 32] := by
    rw [redS32, hid]
    exact tree_sum (fun i a b => by rw [redNode_wrap h]) hlen
  have hlt : (redS32 f v).1 < 2 ^ 32 := by
    rw [redS32, hid]
    refine tree_forall (P := (· < 2 ^ 32)) (fun i a b _ _ => ?_) hlen (redElems_lt f v (by decide))
    rw [redNode_wrap h]
    exact Nat.mod_lt _ (by decide)
  refine ⟨tree_sf (fun i a b => by rw [redNode_wrap h]) .., ?_⟩
  rw [← redElems_sum, ← Nat.mod_eq_of_lt hlt]
  exact hsum

theorem redS32_sat (h : f.md.toNat % 8 = 4) :
    tree (fun _ a b => clamp32 (f.md.getLsbD 3) (val32 (f.md.getLsbD 3) a + val32 (f.md.getLsbD 3) b)) (logCeil v.c.lanes)
      (redElems f v 0) = ((redS32 f v).1, 0, (redS32 f v).2.2) := by
  have hff : (redS32 f v).2.1 = 0 := tree_ff (redNode_ff f) ..
  have hid := redIdentity_sum (f := f) (by omega)
  rw [← hff, ← redNode_sat h, redS32, hid]

theorem lesser_le (κ : Nat → Int) (a b : Nat) :
    κ (if κ b < κ a then b else a) ≤ κ a ∧ κ (if κ b < κ a then b else a) ≤ κ b := by
  split
  · next h => exact ⟨h.le, le_rfl⟩
  · next h => exact ⟨le_rfl, not_lt.1 h⟩

/-- A reduction that keeps the element of the lesser `κ` of two gives the least of the governed elements and the identity, when no
element is above the identity. -/
theorem redS32_least {κ : Nat → Int} (hn : ∀ i a b, redNode f i a b = ⟨if κ b < κ a then b else a, 0, 0⟩)
    (hd : redIdentity f < 2 ^ 32) (hκ : ∀ x, x < 2 ^ 32 → κ x ≤ κ (redIdentity f)) :
    (redS32 f v).2.2 = 0 ∧ (redS32 f v).1 ∈ redIdentity f :: governed v.c f v.c.lanes ∧
      ∀ x ∈ redIdentity f :: governed v.c f v.c.lanes, κ (redS32 f v).1 ≤ κ x := by
  have hlen := redElems_length f v (redIdentity f)
  have hmem : (redS32 f v).1 ∈ redElems f v (redIdentity f) :=
    tree_forall (P := (· ∈ redElems f v (redIdentity f)))
      (fun i a b ha hb => by rw [hn]; split <;> assumption) hlen fun x hx => hx
  have hle : ∀ x ∈ redElems f v (redIdentity f), κ (redS32 f v).1 ≤ κ x :=
    tree_le (fun i a b => hn i a b ▸ lesser_le κ a b) hlen
  refine ⟨tree_sf (fun i a b => by rw [hn]) .., mem_redElems hmem, List.forall_mem_cons.2 ⟨?_, fun x hx => ?_⟩⟩
  · exact hκ _ (redElems_lt f v hd _ hmem)
  · exact hle x (redElems_of_governed _ hx)

theorem redS32_min (h : f.md.toNat % 4 = 1) :
    (redS32 f v).2.2 = 0 ∧
      (redS32 f v).1 ∈ (if f.md.getLsbD 3 then 0xFFFFFFFF else 0x7FFFFFFF) :: governed v.c f v.c.lanes ∧
      ∀ x ∈ (if f.md.getLsbD 3 then 0xFFFFFFFF else 0x7FFFFFFF) :: governed v.c f v.c.lanes,
        val32 (f.md.getLsbD 3) (redS32 f v).1 ≤ val32 (f.md.getLsbD 3) x := by
  rw [← redIdentity_min h]
  refine redS32_least (redNode_min h) ?_ fun x hx => ?_
  · rw [redIdentity_min h]
    split <;> decide
  · rw [redIdentity_min h, val32_identity_min]
    exact val32_le_high32 _ hx

theorem redS32_max (h : f.md.toNat % 4 = 2) :
    (redS32 f v).2.2 = 0 ∧
      (redS32 f v).1 ∈ (if f.md.getLsbD 3 then 0 else 0x80000000) :: governed v.c f v.c.lanes ∧
      ∀ x ∈ (if f.md.getLsbD 3 then 0 else 0x80000000) :: governed v.c f v.c.lanes,
        val32 (f.md.getLsbD 3) x ≤ val32 (f.md.getLsbD 3) (redS32 f v).1 := by
  rw [← redIdentity_max h]
  have hd : redIdentity f < 2 ^ 32 := by
    rw [redIdentity_max h]
    split <;> decide
  have hκ (x : Nat) (hx : x < 2 ^ 32) : -val32 (f.md.getLsbD 3) x ≤ -val32 (f.md.getLsbD 3) (redIdentity f) := by
    rw [redIdentity_max h, val32_identity_max]
    exact neg_le_neg (low32_le_val32 _ hx)
  obtain ⟨hsf, hmem, hle⟩ := redS32_least (v := v) (κ := fun x => -val32 (f.md.getLsbD 3) x) (redNode_max h) hd hκ
  exact ⟨hsf, hmem, fun x hx => neg_le_neg_iff.1 (hle x hx)⟩

/-! ## Integer scans by kind (R135) -/

theorem scanS32_length : (scanS32 f v).1.length = v.c.lanes := by simp [scanS32]

theorem scanS32_getD {j : Nat} (h : j < v.c.lanes) :
    (scanS32 f v).1.getD j 0 = (scanStep (scanNode f) 0 0 (scanElems f v 0) j).code := scanList_getD 0 0 (by simpa using h)

theorem scanStep_first (h : 0 < v.c.lanes) :
    scanStep (scanNode f) 0 0 (scanElems f v 0) 0 = scanNode f 0 0 (masked v.c f 0 0) := by
  rw [scanStep, scanElems_getD f v 0 h]
  rfl
theorem scanStep_next {j : Nat} (h : j + 1 < v.c.lanes) : scanStep (scanNode f) 0 0 (scanElems f v 0) (j + 1) =
    scanNode f (j + 1) ((scanS32 f v).1.getD j 0) (masked v.c f 0 (j + 1)) := by
  rw [scanStep, scanElems_getD f v 0 h, Nat.zero_add, List.getD_cons_succ]
  rfl

theorem scanNode_wrap (h : f.md.toNat % 2 = 0) (i y x : Nat) : scanNode f i y x = ⟨(y + x) % 2 ^ 32, 0, 0⟩ := by
  have h0 : bit f.md.toNat 0 = false := bit_of_mod_two 0 (b := 0) (by omega)
  simp only [scanNode, h0, Bool.not_false, if_true, addForm_wrap]
theorem scanNode_sat (h : f.md.toNat % 2 = 1) (i y x : Nat) :
    scanNode f i y x = clamp32 (f.md.getLsbD 1) (val32 (f.md.getLsbD 1) y + val32 (f.md.getLsbD 1) x) := by
  have h0 : bit f.md.toNat 0 = true := bit_of_mod_two 0 (b := 1) (by omega)
  simp only [scanNode, h0, Bool.not_true, Bool.false_eq_true, if_false, addForm_sat, bit_toNat]

theorem scanS32_wrap (h : f.md.toNat % 2 = 0) : (scanS32 f v).2.2 = 0 ∧
    ∀ i, i < v.c.lanes → (scanS32 f v).1.getD i 0 = (governed v.c f (i + 1)).sum % 2 ^ 32 := by
  refine ⟨(scanList_sf_eq_zero ..).2 fun j _ => by rw [scanStep, scanNode_wrap h], fun i hi => ?_⟩
  induction i with
  | zero => rw [scanS32_getD hi, scanStep_first hi, scanNode_wrap h, governed_succ_sum]; rfl
  | succ i ih => rw [scanS32_getD hi, scanStep_next hi, scanNode_wrap h, ih (by omega), governed_succ_sum v.c f (i + 1), Nat.mod_add_mod]

/-- R135: the step after element i of a saturating scan. -/
def satStep (f : RRR) (v : View) (i : Nat) : RR :=
  clamp32 (f.md.getLsbD 1) (val32 (f.md.getLsbD 1) ((scanS32 f v).1.getD i 0) + val32 (f.md.getLsbD 1) (masked v.c f 0 (i + 1)))

/-- Element 0 of a saturating scan is not clamped, each other is the result of its step. -/
theorem scanStep_sat_first (h : f.md.toNat % 2 = 1) (hv : 0 < v.c.lanes) :
    scanStep (scanNode f) 0 0 (scanElems f v 0) 0 = ⟨masked v.c f 0 0, 0, 0⟩ := by
  rw [scanStep_first hv, scanNode_sat h, val32_zero, zero_add, clamp32_val32 _ (masked_lt v.c f (by decide) 0)]
theorem scanStep_sat_next (h : f.md.toNat % 2 = 1) {j : Nat} (hj : j + 1 < v.c.lanes) :
    scanStep (scanNode f) 0 0 (scanElems f v 0) (j + 1) = satStep f v j := by
  rw [scanStep_next hj, scanNode_sat h, satStep]

theorem scanS32_sat_elems (h : f.md.toNat % 2 = 1) (hv : 0 < v.c.lanes) :
    (scanS32 f v).1.getD 0 0 = masked v.c f 0 0 ∧
      ∀ i, i + 1 < v.c.lanes → (scanS32 f v).1.getD (i + 1) 0 = (satStep f v i).code :=
  ⟨by rw [scanS32_getD hv, scanStep_sat_first h hv], fun i hi => by rw [scanS32_getD hi, scanStep_sat_next h hi]⟩

/-- A saturating scan sets nothing exactly when none of its steps is clamped, and IS otherwise. -/
theorem scanS32_sat_sf (h : f.md.toNat % 2 = 1) (hv : 0 < v.c.lanes) :
    (scanS32 f v).2.2 = 0 ↔ ∀ i, i + 1 < v.c.lanes → (satStep f v i).sf = 0 := by
  rw [scanS32, scanList_sf_eq_zero, scanElems_length]
  constructor
  · intro hs i hi
    rw [← scanStep_sat_next h hi]
    exact hs _ hi
  · intro hs j hj
    cases j with
    | zero => rw [scanStep_sat_first h hv]
    | succ j =>
      rw [scanStep_sat_next h hj]
      exact hs j hj
theorem scanS32_sf (h : f.md.toNat % 2 = 1) : (scanS32 f v).2.2 = 0 ∨ (scanS32 f v).2.2 = sIS :=
  scanList_sf (fun i a b => by rw [scanNode_sat h]; exact clamp32_sf ..) ..

end

/-! ## The instructions -/

/-- R42: an operation that reads no scalar, needs a claim and names a vector destination passes. -/
theorem claimed_passes {s t : State} {f : RRR} {op : BitVec 8} {run : View → State → Res} {e : Eff} (hr : Ready s)
    (hg : Enabled s f.gp f.gn) (hc : (me s).hasClaim = true) (hl : slotLegal (f.pack op) = true) (hf : op ≠ 0xFF)
    (hrun : run (loneView s (f.pack op) []) s = .ok t e) (hz : e.last = none) :
    issueOne (f.pack op) { dests := dstV f.d, claim := true, run := run } s = .next (lonePass s t (f.pack op) [] e) :=
  claim_passes hr hl (by rw [opField_RRR_pack]; exact hf) (by simpa [Enabled] using hg) hc rfl rfl hz rfl (pushOf_dstV rfl) hrun

section
variable {s : State} {f : RRR} (hr : Ready s) (hg : Enabled s f.gp f.gn) (hc : (me s).hasClaim = true)
include hr hg hc

theorem exec_vredS32 (hw : WellFormed (.vredS32 f) = true) : exec (.vredS32 f) s = .next (lonePass s s (f.pack 0x78) []
    { landV (me s) f.d (redLanes f (loneView s (f.pack 0x78) []) (redS32 f (loneView s (f.pack 0x78) [])).1) 8 with
      sf := (redS32 f (loneView s (f.pack 0x78) [])).2.2 }) :=
  claimed_passes hr hg hc (Laws.Legal.vredS32 f _ rfl hw) (by decide) (opVredS32_run ..) rfl

theorem exec_vscanS32 (hw : WellFormed (.vscanS32 f) = true) : exec (.vscanS32 f) s = .next (lonePass s s (f.pack 0x7A) []
    { landV (me s) f.d (packLanes 32 (scanS32 f (loneView s (f.pack 0x7A) [])).1 (me s).lanes) 8 with
      sf := (scanS32 f (loneView s (f.pack 0x7A) [])).2.2 }) :=
  claimed_passes hr hg hc (Laws.Legal.vscanS32 f _ rfl hw) (by decide) (opVscanS32_run ..) rfl

/-- R94: the add tree of an FP32 reduction, and the running sums of an FP32 scan. -/
theorem exec_vredF32_sum (hw : WellFormed (.vredF32 f) = true) (h : f.md.toNat % 4 = 0) :
    let r := treeF (me s) (rmOf 7 (me s).rm) (logCeil (me s).lanes) (me s).lfsr (redElems f (loneView s (f.pack 0x77) []) 0x80000000)
    exec (.vredF32 f) s = .next (lonePass s (setLfsr s s.cur (rmOf 7 (me s).rm == .sr) r.2.2) (f.pack 0x77) []
      { landV (me s) f.d (redLanes f (loneView s (f.pack 0x77) []) r.1) 8 with ff := r.2.1 }) :=
  claimed_passes hr hg hc (Laws.Legal.vredF32 f _ rfl hw) (by decide) (if_pos (by rw [bits_kind, h])) rfl

/-- The tree of an FP32 minimum or maximum. -/
theorem exec_vredF32_pick (hw : WellFormed (.vredF32 f) = true) (h : f.md.toNat % 4 ≠ 0) {pick : FV → FV → FV} {d : Nat}
    (hp : (if f.md.toNat % 4 = 1 then minF else maxF) = pick) (hd : (if f.md.toNat % 4 = 1 then 0x7F800000 else 0xFF800000) = d) :
    exec (.vredF32 f) s = .next (lonePass s s (f.pack 0x77) [] (landV (me s) f.d (redLanes f (loneView s (f.pack 0x77) [])
      (tree (fun _ a b => ⟨codeOf f32 (pick (srcF (me s) f32 a) (srcF (me s) f32 b)), 0, 0⟩) (logCeil (me s).lanes)
        (redElems f (loneView s (f.pack 0x77) []) d)).1) 8)) := by
  rw [← bits_kind] at h hp hd
  subst hp hd
  exact claimed_passes hr hg hc (Laws.Legal.vredF32 f _ rfl hw) (by decide) (if_neg h) rfl

theorem exec_vscanF32 (hw : WellFormed (.vscanF32 f) = true) :
    let r := scanF (me s) (rmOf 7 (me s).rm) 0 none (me s).lfsr (scanElems f (loneView s (f.pack 0x79) []) 0x80000000)
    exec (.vscanF32 f) s = .next (lonePass s (setLfsr s s.cur (rmOf 7 (me s).rm == .sr) r.2.2) (f.pack 0x79) []
      { landV (me s) f.d (packLanes 32 r.1 (me s).lanes) 8 with ff := r.2.1 }) :=
  claimed_passes hr hg hc (Laws.Legal.vscanF32 f _ rfl hw) (by decide) rfl rfl

end

end Sys2Proof.Machine

namespace Sys2Proof.Numbers
open Sys2Proof.Machine Sys2Proof.Safety

/-- Settles O17: each operation passes with its tree or its running values, whose sum, clamps, minimum and maximum the lemmas about
trees and scans give. -/
theorem reductionResults : Obligations.ReductionResults := by
  intro s f hr hg hc
  have hlanes : 0 < (me s).lanes := of_decide_eq_true hc
  refine ⟨fun hw => ?_, fun hw => ?_, fun hw => ?_, fun hw => ?_⟩
  · exact ⟨_, _, exec_vredS32 hr hg hc hw, redS32_wrap, redS32_sat (v := loneView s (f.pack 0x78) []), redS32_min, redS32_max⟩
  · exact ⟨fun h => ⟨_, _, _, rfl, exec_vredF32_sum hr hg hc hw h⟩,
      fun h => exec_vredF32_pick hr hg hc hw (by omega) (if_pos h) (if_pos h),
      fun h => exec_vredF32_pick hr hg hc hw (by omega) (if_neg (by omega)) (if_neg (by omega))⟩
  · refine ⟨_, _, exec_vscanS32 hr hg hc hw, scanS32_length, scanS32_wrap, fun h => ?_⟩
    obtain ⟨hfirst, hnext⟩ := scanS32_sat_elems (v := loneView s (f.pack 0x7A) []) h hlanes
    have hsf := scanS32_sat_sf (v := loneView s (f.pack 0x7A) []) h hlanes
    refine ⟨hfirst, hnext, ?_, hsf.2⟩
    rintro ⟨i, hi, hne⟩
    exact (scanS32_sf h).resolve_left fun h0 => hne (hsf.1 h0 i hi)
  · exact ⟨_, _, _, rfl, exec_vscanF32 hr hg hc hw⟩

end Sys2Proof.Numbers
end

section
/-! PROOF. Reserved fields (R38, R40): an operation whose word is illegal raises F_ILLOP. -/
namespace Sys2Proof.Machine
open Sys2Proof.Safety

/-- R38, R40: an operation whose word is illegal faults whatever its guard reads. -/
theorem lone_illegal {s : State} {w : Word} {op : Op} (hr : Ready s) (hl : slotLegal w = false) :
    issueOne w op s = .next (loneFault s w ⟨0x08, 0, 0, none, []⟩) := by
  obtain ⟨hi, hp⟩ := hr
  have hh := single_hdrOk (me s).pc w
  simp only [me] at hp hh
  have ht : tryBundle s s.cur (Bundle.single (ctxOf s s.cur).pc w) [⟨homeSlot (opField w), w, op⟩] =
      (.fault ⟨0x08, 0, 0, none, []⟩, ⟨homeSlot (opField w), w, op⟩) := by
    unfold tryBundle
    rw [readView_settled hp]
    simp [runOps, home_admits, hl]
  unfold issueOne needLive runBundle
  simp only [hi, if_true, landDue_settled hp, landLoose_settled hp, landThose_settled hp, ite_self, hp, bne_self_eq_false,
    Bool.and_false, hh, single_dict, Bool.not_true, Bool.false_eq_true, and_false, if_false, ht]
  rfl

/-- R113: the bits of a mod field that an operation does not define are zero. -/
theorem and_of_mdIn {md mask : BitVec 8} (h : mdIn md mask = true) : md &&& mask = md := by
  have h0 : md &&& ~~~mask = 0 := by simpa [mdIn] using h
  calc md &&& mask = (md &&& mask) ||| (md &&& ~~~mask) := by rw [h0]; exact BitVec.or_zero.symm
    _ = md := by ext i; simp; cases md[i] <;> cases mask[i] <;> rfl
theorem le_of_mdIn {md mask : BitVec 8} (h : mdIn md mask = true) : md.toNat ≤ mask.toNat := by
  rw [← and_of_mdIn h, BitVec.toNat_and]
  exact Nat.and_le_right

section
variable {f : RRR} {d a b c : Cls} {tys : List (BitVec 6)} {mask : BitVec 8}

/-- R38: what the fields of a legal RRR operation are. -/
theorem ok_fields (h : f.ok d a b c tys mask = true) :
    d.has f.d = true ∧ a.has f.a = true ∧ b.has f.b = true ∧ c.has f.c = true ∧ f.ty ∈ tys ∧ mdIn f.md mask = true := by
  simp only [RRR.ok, Bool.and_eq_true, List.contains_iff_mem] at h
  obtain ⟨⟨⟨⟨⟨hd, ha⟩, hb⟩, hc⟩, ht⟩, hm⟩ := h
  exact ⟨hd, ha, hb, hc, ht, hm⟩
theorem eq_zero_of_has_z {x : BitVec 9} (h : Cls.has .z x = true) : x = 0 := by
  simpa [Cls.has, ← BitVec.toNat_inj] using h

/-- R38, R40: an operation with a field outside its class or a reserved bit set faults. -/
theorem illegal_faults {s : State} {op : BitVec 8} {o : Op} (hr : Ready s)
    (hl : slotLegalAt op.toNat (f.pack op) = (RRR.unpack (f.pack op)).ok d a b c tys mask) (h : ¬f.ok d a b c tys mask = true) :
    issueOne (f.pack op) o s = .next (loneFault s (f.pack op) ⟨0x08, 0, 0, none, []⟩) :=
  lone_illegal hr (by rw [Laws.Legal.legal_RRR, hl, RRR.unpack_pack]; exact Bool.eq_false_iff.2 h)

/-- The same of a reserved field c, or of a mod field that exceeds its defined bits. -/
theorem reserved_faults {s : State} {op : BitVec 8} {o : Op} {k : Nat} (hr : Ready s)
    (hl : slotLegalAt op.toNat (f.pack op) = (RRR.unpack (f.pack op)).ok d a b .z tys mask) (hk : mask.toNat = k)
    (h : f.c ≠ 0 ∨ k < f.md.toNat) :
    issueOne (f.pack op) o s = .next (loneFault s (f.pack op) ⟨0x08, 0, 0, none, []⟩) := by
  refine illegal_faults hr hl fun hok => ?_
  obtain ⟨-, -, -, hc, -, hm⟩ := ok_fields hok
  have hle := le_of_mdIn hm
  exact h.elim (fun h => h (eq_zero_of_has_z hc)) (by omega)

end

/-- R38: the condition of a well-formed operation beyond the classes of its fields. -/
theorem side_of_legal {x : Bool} {p : Prop} [Decidable p] (h : (x && decide p) = true) : p :=
  of_decide_eq_true (Bool.and_eq_true_iff.1 h).2

end Sys2Proof.Machine
end

section
/-! PROOF. Integer arithmetic (R100, R101): the words that the operations compute, as integers and naturals. -/
namespace Sys2Proof.Machine
open Sys2Proof.Safety

theorem shl_eq_mul (a : Word) (k : Nat) : a <<< k = a * BitVec.ofNat 64 (2 ^ k) := by
  apply BitVec.eq_of_toNat_eq
  simp [Nat.shiftLeft_eq]
theorem shl_eq_ofNat {n : Nat} (a : BitVec n) (k : Nat) : a <<< k = BitVec.ofNat n (a.toNat * 2 ^ k) := by
  apply BitVec.eq_of_toNat_eq
  simp [Nat.shiftLeft_eq]
theorem shr_eq_ofNat {n : Nat} (a : BitVec n) (k : Nat) : a >>> k = BitVec.ofNat n (a.toNat / 2 ^ k) := by
  apply BitVec.eq_of_toNat_eq
  have h : a.toNat / 2 ^ k < 2 ^ n := (Nat.div_le_self ..).trans_lt a.isLt
  simp [Nat.shiftRight_eq_div_pow, Nat.mod_eq_of_lt h]
theorem sshr_eq_ofInt {n : Nat} (a : BitVec n) (k : Nat) : a.sshiftRight k = BitVec.ofInt n (a.toInt / 2 ^ k) := by
  rw [BitVec.sshiftRight, Int.shiftRight_eq_div_pow]
  norm_cast

theorem mulhS_eq (a b : Word) :
    ((a.signExtend 128 * b.signExtend 128) >>> 64).setWidth 64 = BitVec.ofInt 64 (a.toInt * b.toInt / 2 ^ 64) := by
  rw [BitVec.signExtend, BitVec.signExtend, ← BitVec.ofInt_mul]
  apply BitVec.eq_of_toNat_eq
  simp only [BitVec.toNat_setWidth, BitVec.toNat_ushiftRight, BitVec.toNat_ofInt, Nat.shiftRight_eq_div_pow]
  generalize a.toInt * b.toInt = p
  omega
theorem mulhZ_eq (a b : Word) :
    ((a.setWidth 128 * b.setWidth 128) >>> 64).setWidth 64 = BitVec.ofNat 64 (a.toNat * b.toNat / 2 ^ 64) := by
  apply BitVec.eq_of_toNat_eq
  simp only [BitVec.toNat_setWidth, BitVec.toNat_ushiftRight, BitVec.toNat_ofNat, BitVec.toNat_mul, Nat.shiftRight_eq_div_pow,
    Nat.mul_mod_mod, Nat.mod_mul_mod]
  generalize a.toNat * b.toNat = p
  omega

theorem sext32_add (a b : Word) : sext32 (a + b) = (BitVec.ofNat 32 (a.toNat + b.toNat)).signExtend 64 := by
  unfold sext32
  congr 1
  bv_omega
theorem sext32_sub (a b : Word) : sext32 (a - b) = (BitVec.ofInt 32 (a.toNat - b.toNat)).signExtend 64 := by
  unfold sext32
  congr 1
  apply BitVec.eq_of_toNat_eq
  simp only [BitVec.toNat_setWidth, BitVec.toNat_sub, BitVec.toNat_ofInt]
  omega
theorem sext32_mul (a b : Word) : sext32 (a * b) = (BitVec.ofNat 32 (a.toNat * b.toNat)).signExtend 64 := by
  unfold sext32
  congr 1
  apply BitVec.eq_of_toNat_eq
  simp only [BitVec.toNat_setWidth, BitVec.toNat_mul, BitVec.toNat_ofNat]
  omega

/-- R103: the count of a shift by an immediate, whose other bits are zero in a well-formed operation. -/
theorem shImm_eq {f : RRI} (h : f.imm.toNat < 64) : shImm f = f.imm.toNat := by
  unfold shImm bits
  omega

theorem minS_eq (a b : Word) : (if b.slt a then b else a) = BitVec.ofInt 64 (min a.toInt b.toInt) := by
  rw [min_comm, min_def_lt, apply_ite (BitVec.ofInt 64)]
  simp [BitVec.slt_iff_toInt_lt]
theorem maxS_eq (a b : Word) : (if a.slt b then b else a) = BitVec.ofInt 64 (max a.toInt b.toInt) := by
  rw [max_def_lt, apply_ite (BitVec.ofInt 64)]
  simp [BitVec.slt_iff_toInt_lt]
theorem minZ_eq (a b : Word) : (if b.ult a then b else a) = BitVec.ofNat 64 (min a.toNat b.toNat) := by
  rw [min_comm, min_def_lt, apply_ite (BitVec.ofNat 64)]
  simp [BitVec.ult_iff_toNat_lt]
theorem maxZ_eq (a b : Word) : (if a.ult b then b else a) = BitVec.ofNat 64 (max a.toNat b.toNat) := by
  rw [max_def_lt, apply_ite (BitVec.ofNat 64)]
  simp [BitVec.ult_iff_toNat_lt]

end Sys2Proof.Machine

namespace Sys2Proof.Scalar
open Sys2Proof.Machine Sys2Proof.Safety

/-- Settles O1: each operation of two sources, and each of a source and an immediate, passes with the word of its rule; one with a
reserved field set faults. -/
theorem arithmeticResults : Obligations.ArithmeticResults := by
  refine ⟨fun s f a b pops hr hg ha hd => ?_, fun s f a pops hr hg ha hd => ?_, fun s f hr => ?_⟩
  · simp only [List.forall_mem_cons]
    exact
      ⟨fun hw => bin_passes hr (Laws.Legal.add f _ rfl hw) (by decide) hg ha hd rfl,
       fun hw => bin_passes hr (Laws.Legal.sub f _ rfl hw) (by decide) hg ha hd rfl,
       fun hw => bin_passes hr (Laws.Legal.mul f _ rfl hw) (by decide) hg ha hd rfl,
       fun hw => bin_passes hr (Laws.Legal.mulhS f _ rfl hw) (by decide) hg ha hd (mulhS_eq a b),
       fun hw => bin_passes hr (Laws.Legal.mulhZ f _ rfl hw) (by decide) hg ha hd (mulhZ_eq a b),
       fun hw => bin_passes hr (Laws.Legal.shadd f _ rfl hw) (by decide) hg ha hd (by rw [shl_eq_mul, bits_kind]),
       fun hw => bin_passes hr (Laws.Legal.addw f _ rfl hw) (by decide) hg ha hd (sext32_add a b),
       fun hw => bin_passes hr (Laws.Legal.subw f _ rfl hw) (by decide) hg ha hd (sext32_sub a b),
       fun hw => bin_passes hr (Laws.Legal.mulw f _ rfl hw) (by decide) hg ha hd (sext32_mul a b),
       fun hw => bin_passes hr (Laws.Legal.minS f _ rfl hw) (by decide) hg ha hd (minS_eq a b),
       fun hw => bin_passes hr (Laws.Legal.minZ f _ rfl hw) (by decide) hg ha hd (minZ_eq a b),
       fun hw => bin_passes hr (Laws.Legal.maxS f _ rfl hw) (by decide) hg ha hd (maxS_eq a b),
       fun hw => bin_passes hr (Laws.Legal.maxZ f _ rfl hw) (by decide) hg ha hd (maxZ_eq a b),
       List.forall_mem_nil _⟩
  · simp only [List.forall_mem_cons]
    exact
      ⟨fun hw => imm_passes hr (Laws.Legal.addi f _ rfl hw) (by decide) hg ha hd rfl,
       fun hw => imm_passes hr (Laws.Legal.andi f _ rfl hw) (by decide) hg ha hd rfl,
       fun hw => imm_passes hr (Laws.Legal.ori f _ rfl hw) (by decide) hg ha hd rfl,
       fun hw => imm_passes hr (Laws.Legal.xori f _ rfl hw) (by decide) hg ha hd rfl,
       fun hw => imm_passes hr (Laws.Legal.shli f _ rfl hw) (by decide) hg ha hd (by rw [shImm_eq (side_of_legal hw), shl_eq_ofNat]),
       fun hw => imm_passes hr (Laws.Legal.shriZ f _ rfl hw) (by decide) hg ha hd (by rw [shImm_eq (side_of_legal hw), shr_eq_ofNat]),
       fun hw => imm_passes hr (Laws.Legal.shriS f _ rfl hw) (by decide) hg ha hd (by rw [shImm_eq (side_of_legal hw), sshr_eq_ofInt]),
       fun hw => imm_passes hr (Laws.Legal.addiw f _ rfl hw) (by decide) hg ha hd rfl,
       List.forall_mem_nil _⟩
  · simp only [List.forall_mem_cons]
    refine ⟨?_, ?_, ?_, ?_, ?_, ?_, ?_, ?_, ?_, List.forall_mem_nil _⟩ <;> exact reserved_faults hr rfl rfl

end Sys2Proof.Scalar
end

section
/-! PROOF. Division, remainder and saturation (R101, R102): the corners that the operations single out are those of the one rule. -/
namespace Sys2Proof.Machine
open Sys2Proof.Safety

/-- R102: the one overflow of a signed division: the quotient of the least integer by −1 wraps to itself, and nothing remains. -/
theorem tdiv_overflow : BitVec.ofInt 64 ((BitVec.intMin 64).toInt.tdiv (BitVec.allOnes 64).toInt) = BitVec.intMin 64 := by decide
theorem tmod_overflow : BitVec.ofInt 64 ((BitVec.intMin 64).toInt.tmod (BitVec.allOnes 64).toInt) = 0 := by decide

theorem divS_eq (a b : Word) :
    divS a b = if b = 0 then BitVec.ofInt 64 (-1) else BitVec.ofInt 64 (a.toInt.tdiv b.toInt) := by
  unfold divS
  refine if_congr Iff.rfl rfl ?_
  split
  · next h => rw [h.1, h.2, tdiv_overflow]
  · rfl
theorem divZ_eq (a b : Word) :
    divZ a b = if b = 0 then BitVec.ofInt 64 (-1) else BitVec.ofNat 64 (a.toNat / b.toNat) := rfl
theorem remS_eq (a b : Word) : remS a b = if b = 0 then a else BitVec.ofInt 64 (a.toInt.tmod b.toInt) := by
  unfold remS
  refine if_congr Iff.rfl rfl ?_
  split
  · next h => rw [h.1, h.2, tmod_overflow]
  · rfl

theorem sext_toNat (a : Word) : sext a.toNat 64 = a.toInt := by
  rw [sext, BitVec.toInt_eq_toNat_cond, Nat.mod_eq_of_lt a.isLt]
theorem word_truncI (x : Int) : word (truncI x 64) = BitVec.ofInt 64 x := by
  apply BitVec.eq_of_toNat_eq
  simp only [word, truncI, BitVec.toNat_ofNat, BitVec.toNat_ofInt]
  omega

/-- R101: the signed saturating form of an exact result, as a word and as a flag. -/
theorem intForm_signed (x : Int) : word (intForm 1 64 x).code = BitVec.ofInt 64 (max (-2 ^ 63) (min (2 ^ 63 - 1) x)) ∧
    (intForm 1 64 x).sf = if x < -2 ^ 63 ∨ 2 ^ 63 ≤ x then sIS else 0 := by
  have hs := satTo_eq (lo := -2 ^ 63) (hi := 2 ^ 63 - 1) (by decide) x
  have hf : intForm 1 64 x = ⟨truncI (satTo x (-2 ^ 63) (2 ^ 63 - 1)).1 64, 0,
    if (satTo x (-2 ^ 63) (2 ^ 63 - 1)).2 then sIS else 0⟩ := rfl
  rw [hf, hs]
  exact ⟨word_truncI _, if_congr (by simp only [decide_eq_true_eq]; omega) rfl rfl⟩
/-- R101: the unsigned saturating form. -/
theorem intForm_unsigned (x : Int) : word (intForm 3 64 x).code = BitVec.ofInt 64 (max 0 (min (2 ^ 64 - 1) x)) ∧
    (intForm 3 64 x).sf = if x < 0 ∨ 2 ^ 64 ≤ x then sIS else 0 := by
  have hs := satTo_eq (lo := 0) (hi := 2 ^ 64 - 1) (by decide) x
  have hf : intForm 3 64 x = ⟨truncI (satTo x 0 (2 ^ 64 - 1)).1 64, 0, if (satTo x 0 (2 ^ 64 - 1)).2 then sIS else 0⟩ := rfl
  rw [hf, hs]
  exact ⟨word_truncI _, if_congr (by simp only [decide_eq_true_eq]; omega) rfl rfl⟩

section
variable {s : State} {f : RRR} {op : BitVec 8} {a b : Word} {pops : List Nat} {g : Int → Int → Int}

/-- A saturating operation passes with the form of the exact result. -/
theorem sat_passes {form : Nat} {x : Int} {w : Word} {sf : BitVec 2}
    (hr : Ready s) (hl : slotLegal (f.pack op) = true) (hf : op ≠ 0xFF) (hg : Enabled s f.gp f.gn)
    (ha : Reads s [f.a, f.b] [a, b] pops) (hd : Room s f.d)
    (hx : g (intElem form 64 a.toNat) (intElem form 64 b.toNat) = x)
    (hv : word (intForm form 64 x).code = w ∧ (intForm form 64 x).sf = sf) :
    issueOne (f.pack op) (satOp f form g) s = .next (lonePass s s (f.pack op) pops { landS (me s) f.d w 1 with sf := sf }) := by
  obtain ⟨rfl, rfl⟩ := hv
  subst hx
  exact lone_ok hr hl (by rw [opField_RRR_pack]; exact hf) (by simpa [Enabled] using hg) nofun nofun nofun ha (pushReady_of_room rfl hd) rfl rfl

theorem satS_passes (hr : Ready s) (hl : slotLegal (f.pack op) = true) (hf : op ≠ 0xFF) (hg : Enabled s f.gp f.gn)
    (ha : Reads s [f.a, f.b] [a, b] pops) (hd : Room s f.d) :
    issueOne (f.pack op) (satOp f 1 g) s = .next (lonePass s s (f.pack op) pops
      { landS (me s) f.d (BitVec.ofInt 64 (max (-2 ^ 63) (min (2 ^ 63 - 1) (g a.toInt b.toInt)))) 1 with
        sf := if g a.toInt b.toInt < -2 ^ 63 ∨ 2 ^ 63 ≤ g a.toInt b.toInt then sIS else 0 }) :=
  sat_passes hr hl hf hg ha hd (by rw [← sext_toNat a, ← sext_toNat b]; rfl) (intForm_signed _)

theorem satZ_passes (hr : Ready s) (hl : slotLegal (f.pack op) = true) (hf : op ≠ 0xFF) (hg : Enabled s f.gp f.gn)
    (ha : Reads s [f.a, f.b] [a, b] pops) (hd : Room s f.d) :
    issueOne (f.pack op) (satOp f 3 g) s = .next (lonePass s s (f.pack op) pops
      { landS (me s) f.d (BitVec.ofInt 64 (max 0 (min (2 ^ 64 - 1) (g a.toNat b.toNat)))) 1 with
        sf := if g a.toNat b.toNat < 0 ∨ 2 ^ 64 ≤ g a.toNat b.toNat then sIS else 0 }) :=
  sat_passes hr hl hf hg ha hd rfl (intForm_unsigned _)

end

end Sys2Proof.Machine

namespace Sys2Proof.Scalar
open Sys2Proof.Machine Sys2Proof.Safety

/-- Settles O2: the quotients and remainders are those of the rule in every corner, and the saturating forms clamp. -/
theorem divisionSaturation : Obligations.DivisionSaturation := by
  refine ⟨fun s f a b pops hr hg ha hd => ?_, fun s f a b pops hr hg ha hd => ⟨?_, ?_⟩, fun s f hr => ?_⟩
  · simp only [List.forall_mem_cons]
    exact
      ⟨fun hw => bin_passes hr (Laws.Legal.divS f _ rfl hw) (by decide) hg ha hd (divS_eq a b),
       fun hw => bin_passes hr (Laws.Legal.divZ f _ rfl hw) (by decide) hg ha hd (divZ_eq a b),
       fun hw => bin_passes hr (Laws.Legal.remS f _ rfl hw) (by decide) hg ha hd (remS_eq a b),
       fun hw => bin_passes hr (Laws.Legal.remZ f _ rfl hw) (by decide) hg ha hd rfl,
       List.forall_mem_nil _⟩
  · simp only [List.forall_mem_cons]
    exact
      ⟨fun hw => satS_passes hr (Laws.Legal.addsS f _ rfl hw) (by decide) hg ha hd,
       fun hw => satS_passes hr (Laws.Legal.subsS f _ rfl hw) (by decide) hg ha hd,
       List.forall_mem_nil _⟩
  · simp only [List.forall_mem_cons]
    exact
      ⟨fun hw => satZ_passes hr (Laws.Legal.addsZ f _ rfl hw) (by decide) hg ha hd,
       fun hw => satZ_passes hr (Laws.Legal.subsZ f _ rfl hw) (by decide) hg ha hd,
       List.forall_mem_nil _⟩
  · simp only [List.forall_mem_cons]
    have faults {op : BitVec 8} {o : Op} (hl : slotLegalAt op.toNat (f.pack op) =
        (RRR.unpack (f.pack op)).ok .xd .xs .xs .z noType 0x00) (h : f.c ≠ 0 ∨ f.md ≠ 0) :
        issueOne (f.pack op) o s = .next (loneFault s (f.pack op) ⟨0x08, 0, 0, none, []⟩) :=
      reserved_faults hr hl rfl (h.imp_right fun hm => Nat.pos_of_ne_zero fun h0 => hm (BitVec.eq_of_toNat_eq h0))
    exact ⟨faults rfl, faults rfl, faults rfl, faults rfl, List.forall_mem_nil _⟩

end Sys2Proof.Scalar
end

section
/-! PROOF. Logic and shifts by a register (R103): the counts and the words of the shifts. -/
namespace Sys2Proof.Machine
open Sys2Proof.Safety

theorem shCount_eq (b : Word) : shCount b = b.toNat % 64 := by simp [shCount, bits]
theorem shCount_lt (b : Word) : shCount b < 64 := Nat.mod_lt _ (by decide)
theorem shCountW_eq (b : Word) : shCountW b = b.toNat % 32 := by simp [shCountW, bits]

theorem sext32_shl (a : Word) (k : Nat) : sext32 (a <<< k) = (BitVec.ofNat 32 (a.toNat * 2 ^ k)).signExtend 64 := by
  unfold sext32
  rw [shl_eq_ofNat]
  congr 1
  apply BitVec.eq_of_toNat_eq
  simp only [BitVec.toNat_setWidth, BitVec.toNat_ofNat]
  omega
theorem shrwZ_eq (a : Word) (k : Nat) :
    (a.setWidth 32 >>> k).signExtend 64 = (BitVec.ofNat 32 (a.toNat % 2 ^ 32 / 2 ^ k)).signExtend 64 := by
  rw [shr_eq_ofNat, BitVec.toNat_setWidth]
theorem shrwS_eq (a : Word) (k : Nat) :
    ((a.setWidth 32).sshiftRight k).signExtend 64 = BitVec.ofInt 64 ((a.setWidth 32).toInt / 2 ^ k) := by
  rw [BitVec.signExtend, BitVec.toInt_sshiftRight, Int.shiftRight_eq_div_pow]
  norm_cast

/-- R103: a rotation is the two parts that the shifts in either direction leave. -/
theorem rot_eq (a : Word) {k : Nat} (h : k < 64) :
    a.rotateRight k = BitVec.ofNat 64 (a.toNat / 2 ^ k) ||| BitVec.ofNat 64 (a.toNat * 2 ^ (64 - k)) := by
  rw [BitVec.rotateRight_eq_rotateRightAux_of_lt h, BitVec.rotateRightAux, shr_eq_ofNat, shl_eq_ofNat]

end Sys2Proof.Machine

namespace Sys2Proof.Scalar
open Sys2Proof.Machine Sys2Proof.Safety

/-- Settles O3: each operation passes with the word of its rule, the counts being the low bits of B. -/
theorem logicShiftResults : Obligations.LogicShiftResults := by
  intro s f a b pops hr hg ha hd
  simp only [List.forall_mem_cons, ← shCount_eq, ← shCountW_eq]
  exact
    ⟨fun hw => bin_passes hr (Laws.Legal.and f _ rfl hw) (by decide) hg ha hd rfl,
     fun hw => bin_passes hr (Laws.Legal.or f _ rfl hw) (by decide) hg ha hd rfl,
     fun hw => bin_passes hr (Laws.Legal.xor f _ rfl hw) (by decide) hg ha hd rfl,
     fun hw => bin_passes hr (Laws.Legal.andn f _ rfl hw) (by decide) hg ha hd rfl,
     fun hw => bin_passes hr (Laws.Legal.shl f _ rfl hw) (by decide) hg ha hd (shl_eq_ofNat a _),
     fun hw => bin_passes hr (Laws.Legal.shrZ f _ rfl hw) (by decide) hg ha hd (shr_eq_ofNat a _),
     fun hw => bin_passes hr (Laws.Legal.shrS f _ rfl hw) (by decide) hg ha hd (sshr_eq_ofInt a _),
     fun hw => bin_passes hr (Laws.Legal.rot f _ rfl hw) (by decide) hg ha hd (rot_eq a (shCount_lt b)),
     fun hw => bin_passes hr (Laws.Legal.shlw f _ rfl hw) (by decide) hg ha hd (sext32_shl a _),
     fun hw => bin_passes hr (Laws.Legal.shrwZ f _ rfl hw) (by decide) hg ha hd (shrwZ_eq a _),
     fun hw => bin_passes hr (Laws.Legal.shrwS f _ rfl hw) (by decide) hg ha hd (shrwS_eq a _),
     List.forall_mem_nil _⟩

end Sys2Proof.Scalar
end

section
/-! PROOF. Immediates, bit fields, counts, reversals and carry-less products (R104 to R106), bit by bit. -/
namespace Sys2Proof.Machine
open Sys2Proof.Safety

theorem bit_eq_testBit (v i : Nat) : bit v i = v.testBit i := by
  rw [Nat.testBit_eq_decide_div_mod_eq]
  rfl

/-! ## Immediates and fields (R104, R105) -/

theorem movhi_eq (imm : BitVec 41) (x : Word) (h : imm.toNat < 2 ^ 23) :
    imm.extractLsb' 0 23 ++ x.extractLsb' 0 41 = word (imm.toNat * 2 ^ 41 + x.toNat % 2 ^ 41) := by
  apply BitVec.eq_of_toNat_eq
  have hx : x.toNat % 2 ^ 41 < 2 ^ 41 := Nat.mod_lt _ (by decide)
  simp only [BitVec.toNat_append, BitVec.extractLsb'_toNat, Nat.shiftRight_zero, word, BitVec.toNat_ofNat]
  rw [Nat.mod_eq_of_lt h, ← Nat.shiftLeft_add_eq_or_of_lt hx, Nat.shiftLeft_eq]
  omega

theorem field_lsb (f : RRI) : bits f.imm.toNat 5 0 = f.imm.toNat % 64 := by simp [bits]
theorem field_len {f : RRI} (h : f.imm.toNat < 2 ^ 14) : bits f.imm.toNat 13 8 + 1 = f.imm.toNat / 2 ^ 8 + 1 := by
  unfold bits
  omega
theorem bfField_eq {f : RRI} (h : f.imm.toNat < 2 ^ 14) (a : Word) :
    bfField f a = a.toNat / 2 ^ (f.imm.toNat % 64) % 2 ^ (f.imm.toNat / 2 ^ 8 + 1) := by
  rw [bfField, bits, field_lsb, ← field_len h]
  congr 2
  omega

theorem sext_mod (x n : Nat) : sext (x % 2 ^ n) n = sext x n := by
  unfold sext
  rw [Nat.mod_mod]

/-- R105: an inserted field has the bits of A, and the others are as before. -/
theorem insertField_getLsbD (lsb len : Nat) (d a : Word) {k : Nat} (hk : k < 64) :
    (insertField lsb len d a).getLsbD k = if lsb ≤ k ∧ k < lsb + len then a.getLsbD (k - lsb) else d.getLsbD k := by
  have hm : (word ((2 ^ len - 1) * 2 ^ lsb)).getLsbD k = decide (lsb ≤ k ∧ k < lsb + len) := by
    rw [word, BitVec.getLsbD_ofNat, Nat.testBit_mul_two_pow, Nat.testBit_two_pow_sub_one]
    simp only [hk, decide_true, Bool.true_and, ← Bool.decide_and]
    exact decide_eq_decide.2 (by omega)
  simp only [insertField, BitVec.getLsbD_or, BitVec.getLsbD_and, BitVec.getLsbD_not, BitVec.getLsbD_shiftLeft, hm, hk, decide_true,
    Bool.true_and]
  by_cases h : lsb ≤ k ∧ k < lsb + len
  · simp [h]
  · simp [h]

/-! ## Counts (R106) -/

/-- R106: below bit n, a value has its leading zeros and then its highest one. -/
theorem clzN_spec {a n : Nat} (h : a < 2 ^ n) :
    clzN a n ≤ n ∧ a < 2 ^ (n - clzN a n) ∧ (clzN a n < n → 2 ^ (n - 1 - clzN a n) ≤ a) := by
  induction n with
  | zero => exact ⟨le_rfl, h, fun h => absurd h (lt_irrefl _)⟩
  | succ n ih =>
    unfold clzN
    split
    · next hb =>
      rw [bit_eq_testBit] at hb
      exact ⟨Nat.zero_le _, h, fun _ => Nat.ge_two_pow_of_testBit hb⟩
    · next hb =>
      rw [bit_eq_testBit, Bool.not_eq_true] at hb
      have hlt : a < 2 ^ n := Nat.lt_pow_two_of_testBit a fun i hi => by
        rcases hi.eq_or_lt with rfl | hi
        · exact hb
        · exact Nat.testBit_lt_two_pow (h.trans_le (Nat.pow_le_pow_right (by decide) hi))
      obtain ⟨hle, hzeros, hone⟩ := ih hlt
      refine ⟨Nat.succ_le_succ hle, ?_, fun hk => ?_⟩
      · rwa [Nat.add_sub_add_right]
      · have he : n + 1 - 1 - (clzN a n + 1) = n - 1 - clzN a n := by omega
        rw [he]
        exact hone (Nat.lt_of_succ_lt_succ hk)

theorem ctzN_le (a n : Nat) : ctzN a n ≤ n := by
  induction n generalizing a with
  | zero => exact le_rfl
  | succ n ih =>
    unfold ctzN
    split
    · exact Nat.zero_le _
    · exact Nat.succ_le_succ (ih _)
theorem two_pow_ctzN_dvd (a n : Nat) : 2 ^ ctzN a n ∣ a := by
  induction n generalizing a with
  | zero => exact Nat.one_dvd a
  | succ n ih =>
    unfold ctzN
    split
    · exact Nat.one_dvd a
    · next hb =>
      have h2 : a = a / 2 * 2 := by
        simp only [bit, pow_zero, Nat.div_one, beq_iff_eq] at hb
        omega
      rw [Nat.pow_succ]
      conv => rhs; rw [h2]
      exact Nat.mul_dvd_mul_right (ih _) 2
theorem testBit_ctzN {a n : Nat} (h : ctzN a n < n) : a.testBit (ctzN a n) = true := by
  induction n generalizing a with
  | zero => exact absurd h (Nat.not_lt_zero _)
  | succ n ih =>
    unfold ctzN at h ⊢
    split
    · next hb => rwa [← bit_eq_testBit]
    · next hb =>
      rw [if_neg hb] at h
      rw [Nat.testBit_succ]
      exact ih (Nat.lt_of_succ_lt_succ h)

theorem popcN_eq (a n : Nat) : popcN a n = (List.range n).countP fun k => a.testBit k := by
  induction n with
  | zero => rfl
  | succ n ih => rw [popcN, ih, bit_eq_testBit, List.range_succ, List.countP_append, List.countP_singleton]

/-! ## Reversals (R106) -/

theorem leBytes_length (n v : Nat) : (leBytes n v).length = n := by
  induction n generalizing v with
  | zero => rfl
  | succ n ih => rw [leBytes, List.length_cons, ih]
theorem leBytes_getD {n v k : Nat} (h : k < n) : (leBytes n v).getD k 0 = BitVec.ofNat 8 (v / 256 ^ k) := by
  induction n generalizing v k with
  | zero => exact absurd h (Nat.not_lt_zero _)
  | succ n ih =>
    cases k with
    | zero => simp [leBytes]
    | succ k => rw [leBytes, List.getD_cons_succ, ih (Nat.lt_of_succ_lt_succ h), Nat.div_div_eq_div_mul, Nat.pow_succ']
theorem leNat_byte (bs : List Byte) (k : Nat) : leNat bs / 256 ^ k % 256 = (bs.getD k 0).toNat := by
  induction bs generalizing k with
  | nil => simp [leNat]
  | cons b bs ih =>
    cases k with
    | zero =>
      have hb := b.isLt
      simp only [leNat, pow_zero, List.getD_cons_zero]
      omega
    | succ k =>
      have hb : (b.toNat + 256 * leNat bs) / 256 = leNat bs := by
        have := b.isLt
        omega
      rw [leNat, Nat.pow_succ', ← Nat.div_div_eq_div_mul, hb, ih, List.getD_cons_succ]

/-- Byte k of a word. -/
theorem word_byte (n : Nat) {k : Nat} (h : k < 8) : (word n).extractLsb' (8 * k) 8 = BitVec.ofNat 8 (n / 256 ^ k) := by
  have hp : (256 : Nat) ^ k = 2 ^ (8 * k) := by rw [Nat.pow_mul]
  ext i hi
  have hlt : 8 * k + i < 64 := by omega
  rw [hp, BitVec.getElem_extractLsb', word, BitVec.getLsbD_ofNat, decide_eq_true hlt, Bool.true_and,
    ← BitVec.getLsbD_eq_getElem, BitVec.getLsbD_ofNat, decide_eq_true hi, Bool.true_and, Nat.testBit_div_two_pow,
    Nat.add_comm i]

/-- R106: byte k of a word with its bytes reversed is byte 7 − k. -/
theorem bswap_byte (a : Word) {k : Nat} (h : k < 8) :
    (word (leNat (leBytes 8 a.toNat).reverse)).extractLsb' (8 * k) 8 = a.extractLsb' (8 * (7 - k)) 8 := by
  have ha : word a.toNat = a := BitVec.ofNat_toNat _ a
  have hlen := leBytes_length 8 a.toNat
  conv => rhs; rw [← ha]
  rw [word_byte _ h, word_byte _ (by omega), ← leBytes_getD (n := 8) (v := a.toNat) (by omega)]
  apply BitVec.eq_of_toNat_eq
  rw [BitVec.toNat_ofNat]
  refine (leNat_byte _ k).trans ?_
  rw [List.getD_eq_getElem _ _ (by simpa [hlen]), List.getElem_reverse, List.getD_eq_getElem _ _ (by omega)]
  simp [hlen]

theorem reverse_bit (a : Word) {k : Nat} (h : k < 64) : a.reverse.getLsbD k = a.getLsbD (63 - k) := by
  rw [BitVec.getLsbD_reverse, BitVec.getMsbD, decide_eq_true h, Bool.true_and]

/-! ## Carry-less products (R106) -/

/-- R106: bit k of a carry-less product is the parity of the partial products that reach it. -/
theorem clmulN_testBit (a b n k : Nat) : (clmulN a b n).testBit k =
    ((List.range n).countP (fun j => b.testBit j && (decide (j ≤ k) && a.testBit (k - j))) % 2 == 1) := by
  induction n with
  | zero => simp [clmulN]
  | succ n ih =>
    rw [clmulN, List.range_succ, List.countP_append, List.countP_singleton, bit_eq_testBit]
    cases hb : b.testBit n with
    | false => simp [ih]
    | true =>
      have hx : Nat.xor (clmulN a b n) (a * 2 ^ n) = clmulN a b n ^^^ a * 2 ^ n := rfl
      rw [if_pos rfl, hx, Nat.testBit_xor, ih, Nat.testBit_mul_two_pow, Bool.true_and]
      have hp := Nat.mod_two_eq_zero_or_one ((List.range n).countP fun j => b.testBit j && (decide (j ≤ k) && a.testBit (k - j)))
      cases decide (n ≤ k) && a.testBit (k - n) <;> rcases hp with hp | hp <;> simp [hp, Nat.add_mod]

theorem word_eq_low_half (n : Nat) : word n = (BitVec.ofNat 128 n).extractLsb' 0 64 := by
  apply BitVec.eq_of_toNat_eq
  simp only [word, BitVec.toNat_ofNat, BitVec.extractLsb'_toNat, Nat.shiftRight_zero]
  omega
theorem word_div_eq_high_half (n : Nat) : word (n / 2 ^ 64) = (BitVec.ofNat 128 n).extractLsb' 64 64 := by
  apply BitVec.eq_of_toNat_eq
  simp only [word, BitVec.toNat_ofNat, BitVec.extractLsb'_toNat, Nat.shiftRight_eq_div_pow]
  omega

/-! ## The operations pass (R104, R105) -/

theorem bfOk_lt {imm : BitVec 32} (h : bfOk imm = true) : imm.toNat < 2 ^ 14 := by
  simp only [bfOk, Bool.and_eq_true, decide_eq_true_eq] at h
  exact h.1.1

section
variable {s : State} {op : BitVec 8} {g : View → Word} {v : Word}

/-- An operation that reads no source passes. -/
theorem move_passes {f : RI} (hr : Ready s) (hl : slotLegal (f.pack op) = true) (hf : op ≠ 0xFF) (hg : Enabled s f.gp f.gn)
    (hd : Room s f.d) (hv : g (loneView s (f.pack op) []) = v) :
    issueOne (f.pack op) (scalarOp f.d [] 1 g) s = .next (lonePass s s (f.pack op) [] (landS (me s) f.d v 1)) :=
  scalar_passes hr hl (by rw [opField_RI_pack]; exact hf) (by simpa [Enabled] using hg) rfl hd hv

/-- An operation of a source and an immediate that reads its destination too passes. -/
theorem insert_passes {f : RRI} {a : Word} {pops : List Nat} (hr : Ready s) (hl : slotLegal (f.pack op) = true) (hf : op ≠ 0xFF)
    (hg : Enabled s f.gp f.gn) (ha : Reads s [f.a] [a] pops) (hd : Room s f.d) (hv : g (loneView s (f.pack op) [a]) = v) :
    issueOne (f.pack op) (scalarOp f.d [f.a] 1 g) s = .next (lonePass s s (f.pack op) pops (landS (me s) f.d v 1)) :=
  scalar_passes hr hl (by rw [opField_RRI_pack]; exact hf) (by simpa [Enabled] using hg) ha hd hv

end

end Sys2Proof.Machine

namespace Sys2Proof.Scalar
open Sys2Proof.Machine Sys2Proof.Safety

/-- Settles O4: each operation passes with its word, whose bits and counts the lemmas above give. -/
theorem fieldAndBitResults : Obligations.FieldAndBitResults := by
  refine ⟨fun s hr => ⟨fun f hg hd => ⟨fun hw => ?_, fun hw => ?_⟩, ?_⟩,
    fun s f hr hg hd => ⟨fun a pops ha => ?_, fun a b pops ha => ?_⟩⟩
  · exact move_passes hr (Laws.Legal.movi f _ rfl hw) (by decide) hg hd rfl
  · exact move_passes hr (Laws.Legal.movhi f _ rfl hw) (by decide) hg hd (movhi_eq f.imm _ (side_of_legal hw))
  · rintro f a pops _ _ hg ha hd rfl rfl
    refine ⟨fun hw => ?_, fun hw => ?_, fun hw => ?_⟩
    · exact imm_passes hr (Laws.Legal.bfxZ f _ rfl hw) (by decide) hg ha hd (by rw [bfField_eq (bfOk_lt (side_of_legal hw))])
    · have hb : f.imm.toNat < 2 ^ 14 := bfOk_lt (side_of_legal hw)
      exact imm_passes hr (Laws.Legal.bfxS f _ rfl hw) (by decide) hg ha hd (by rw [bfField_eq hb, field_len hb, sext_mod])
    · refine ⟨_, fun k => insertField_getLsbD _ _ _ a, ?_⟩
      exact insert_passes hr (Laws.Legal.bfi f _ rfl hw) (by decide) hg ha hd
        (by rw [field_lsb, field_len (bfOk_lt (side_of_legal hw))]; rfl)
  · refine ⟨fun hw => ?_, fun hw => ?_, fun hw => ?_, fun hw => ?_, fun hw => ?_⟩
    · obtain ⟨hle, hzeros, hone⟩ := clzN_spec a.isLt
      exact ⟨_, hle, hzeros, hone, un_passes hr (Laws.Legal.clz f _ rfl hw) (by decide) hg ha hd rfl⟩
    · refine ⟨ctzN a.toNat 64, ctzN_le _ _, dvd_add (two_pow_ctzN_dvd _ _) ?_, testBit_ctzN,
        un_passes hr (Laws.Legal.ctz f _ rfl hw) (by decide) hg ha hd rfl⟩
      split
      · exact Nat.pow_dvd_pow 2 (ctzN_le _ _)
      · exact dvd_zero _
    · exact un_passes hr (Laws.Legal.popc f _ rfl hw) (by decide) hg ha hd (by rw [popcN_eq]; rfl)
    · exact ⟨_, fun k => bswap_byte a, un_passes hr (Laws.Legal.bswap f _ rfl hw) (by decide) hg ha hd rfl⟩
    · exact ⟨_, fun k => reverse_bit a, un_passes hr (Laws.Legal.brev f _ rfl hw) (by decide) hg ha hd rfl⟩
  · refine ⟨BitVec.ofNat 128 (clmulN a.toNat b.toNat 64), fun k hk => ?_, fun hw => ?_, fun hw => ?_⟩
    · rw [BitVec.getLsbD_ofNat, decide_eq_true hk, Bool.true_and, clmulN_testBit]
      rfl
    · exact bin_passes hr (Laws.Legal.clmul f _ rfl hw) (by decide) hg ha hd (word_eq_low_half _)
    · exact bin_passes hr (Laws.Legal.clmulh f _ rfl hw) (by decide) hg ha hd (word_div_eq_high_half _)

end Sys2Proof.Scalar
end

section
/-! PROOF. Predicates and selection (R107 to R109, R112): the conditions, and how an operation with a predicate result passes. -/
namespace Sys2Proof.Machine
open Sys2Proof.Safety

/-- R107: the conditions by their code. -/
def condRows (a b : Word) : List (Nat × Bool) :=
  [(0, decide (a = b)), (1, decide (a ≠ b)), (2, decide (a.toInt < b.toInt)), (3, decide (b.toInt ≤ a.toInt)),
    (4, decide (a.toNat < b.toNat)), (5, decide (b.toNat ≤ a.toNat)), (6, decide (a &&& b ≠ 0)), (7, decide (a &&& b = 0))]

theorem cond_of_mem {a b : Word} : ∀ row ∈ condRows a b, cond row.1 a b = row.2 := by
  simp only [condRows, List.forall_mem_cons]
  refine ⟨rfl, ?_, rfl, ?_, rfl, ?_, ?_, rfl, List.forall_mem_nil _⟩
  · exact (decide_not ..).symm
  · simp [cond, BitVec.slt, ← decide_not]
  · simp [cond, BitVec.ult, ← decide_not]
  · exact (decide_not ..).symm

section
variable {s : State} {op : BitVec 8}

/-- R44: a predicate is no channel. -/
theorem room_of_pred {d : BitVec 9} (h : Cls.has .p d = true) : Room s d := by
  simp only [Cls.has, Bool.and_eq_true, decide_eq_true_eq] at h
  exact fun h96 => absurd h96 (by omega)

/-- R107: an operation that computes a predicate passes. -/
theorem pred_passes {w : Word} {d : BitVec 9} {srcs : List (BitVec 9)} {args : List Word} {pops : List Nat} {g : View → Bool}
    {b : Bool} (hr : Ready s) (hl : slotLegal w = true) (hf : opField w ≠ 0xFF) (hg : guardOf (me s) w = true)
    (ha : Reads s srcs args pops) (hd : Cls.has .p d = true) (hb : g (loneView s w args) = b) :
    issueOne w { srcs := srcs, dests := dstS d, run := fun v s => .ok s (landP d (g v) 1) } s =
      .next (lonePass s s w pops (landP d b 1)) := by
  subst hb
  exact lone_ok hr hl hf hg nofun nofun nofun ha
    (pushReady_of_room rfl (room_of_pred hd)) rfl rfl

theorem cmp_passes {f : RRR} {a b : Word} {pops : List Nat} (hr : Ready s) (hg : Enabled s f.gp f.gn)
    (ha : Reads s [f.a, f.b] [a, b] pops) (hw : WellFormed (.cmp f) = true) :
    exec (.cmp f) s = .next (lonePass s s (f.pack 0x2C) pops (landP f.d (cond f.md.toNat a b) 1)) := by
  obtain ⟨hd, -, -, -, -, hm⟩ := ok_fields hw
  have hcc : bits f.md.toNat 3 0 = f.md.toNat := by
    have h7 : f.md.toNat ≤ 7 := le_of_mdIn hm
    simp only [bits]
    omega
  exact pred_passes hr (Laws.Legal.cmp f _ rfl hw) (by simp) (by simpa [Enabled] using hg) ha hd (by rw [hcc]; rfl)

theorem cmpi_passes {f : RRI} {a : Word} {pops : List Nat} (hr : Ready s) (hg : Enabled s f.gp f.gn)
    (ha : Reads s [f.a] [a] pops) (hw : WellFormed (.cmpi f) = true) :
    exec (.cmpi f) s = .next (lonePass s s (f.pack 0x2D) pops
      (landP f.d (cond (f.imm.toNat / 2 ^ 28) a ((f.imm.extractLsb' 0 28).signExtend 64)) 1)) := by
  have hd : Cls.has .p f.d = true := (Bool.and_eq_true_iff.1 (Bool.and_eq_true_iff.1 hw).1).1
  have hcc : bits f.imm.toNat 31 28 = f.imm.toNat / 2 ^ 28 := Nat.mod_eq_of_lt (by omega)
  exact pred_passes hr (Laws.Legal.cmpi f _ rfl hw) (by simp) (by simpa [Enabled] using hg) ha hd (by rw [hcc]; rfl)

/-- R108: the index into the truth table. -/
theorem pbool_bit (md : BitVec 8) (x y : Bool) :
    bit md.toNat ((if x then 2 else 0) + (if y then 1 else 0)) = md.getLsbD (2 * x.toNat + y.toNat) := by
  rw [bit_toNat]
  cases x <;> cases y <;> rfl

theorem pbool_passes {f : RRR} (hr : Ready s) (hg : Enabled s f.gp f.gn) (hw : WellFormed (.pbool f) = true) :
    exec (.pbool f) s = .next (lonePass s s (f.pack 0x2E) [] (landP f.d
      (f.md.getLsbD (2 * (getP (me s) (f.a.toNat - 64)).toNat + (getP (me s) (f.b.toNat - 64)).toNat)) 1)) := by
  obtain ⟨hd, -⟩ := ok_fields hw
  exact pred_passes hr (Laws.Legal.pbool f _ rfl hw) (by simp) (by simpa [Enabled] using hg) rfl hd (pbool_bit ..)

theorem sel_passes {f : RRR} {a b : Word} {pops : List Nat} (hr : Ready s) (hg : Enabled s f.gp f.gn)
    (ha : Reads s [f.a, f.b] [a, b] pops) (hd : Room s f.d) (hw : WellFormed (.sel f) = true) :
    exec (.sel f) s = .next (lonePass s s (f.pack 0x31) pops
      (landS (me s) f.d (if getP (me s) (f.c.toNat - 64) then a else b) 1)) :=
  scalar_passes hr (Laws.Legal.sel f _ rfl hw) (by simp) (by simpa [Enabled] using hg) ha hd rfl

theorem nop_passes {f : RRR} (hr : Ready s) (hg : Enabled s f.gp f.gn) (hw : WellFormed (.nop f) = true) :
    exec (.nop f) s = .next (lonePass s s (f.pack 0x3F) [] {}) :=
  lone_ok hr (Laws.Legal.nop f _ rfl hw) (by simp) (by simpa [Enabled] using hg) nofun nofun nofun rfl (pushReady_of_none rfl) rfl rfl

/-- R109: of sel, whose field c is a predicate, the mod field is reserved. -/
theorem sel_faults {f : RRR} (hr : Ready s) (h : f.md ≠ 0) :
    exec (.sel f) s = .next (loneFault s (f.pack 0x31) ⟨0x08, 0, 0, none, []⟩) := by
  refine illegal_faults hr rfl fun hok => h ?_
  obtain ⟨-, -, -, -, -, hm⟩ := ok_fields hok
  exact BitVec.eq_of_toNat_eq (Nat.le_zero.1 (le_of_mdIn hm))

/-- R112: of nop every field is reserved. -/
theorem nop_faults {f : RRR} (hr : Ready s) (h : f.d ≠ 0 ∨ f.a ≠ 0 ∨ f.b ≠ 0 ∨ f.c ≠ 0 ∨ f.ty ≠ 0 ∨ f.md ≠ 0) :
    exec (.nop f) s = .next (loneFault s (f.pack 0x3F) ⟨0x08, 0, 0, none, []⟩) := by
  refine illegal_faults hr rfl fun hok => ?_
  obtain ⟨hd, ha, hb, hc, ht, hm⟩ := ok_fields hok
  have hmd : f.md = 0 := BitVec.eq_of_toNat_eq (Nat.le_zero.1 (le_of_mdIn hm))
  simp [eq_zero_of_has_z hd, eq_zero_of_has_z ha, eq_zero_of_has_z hb, eq_zero_of_has_z hc, List.mem_singleton.1 ht, hmd] at h

end

end Sys2Proof.Machine

namespace Sys2Proof.Scalar
open Sys2Proof.Machine Sys2Proof.Safety

/-- Settles O5: each operation passes with its predicate or word, and faults when a reserved field is set. -/
theorem predicateResults : Obligations.PredicateResults := by
  refine fun s hr => ⟨fun f a b pops hg ha => ⟨fun row hrow hcc hw => ?_, fun hd hw => sel_passes hr hg ha hd hw⟩,
    fun f a b pops hg ha hb row hrow hcc hw => ?_, fun f hg => ⟨fun hw => pbool_passes hr hg hw, fun hw => nop_passes hr hg hw⟩,
    fun f => ⟨fun h => reserved_faults hr rfl rfl h.symm, fun h => reserved_faults hr rfl rfl h.symm, sel_faults hr, nop_faults hr⟩⟩
  · rw [cmp_passes hr hg ha hw, hcc, cond_of_mem row hrow]
  · subst hb
    rw [cmpi_passes hr hg ha hw, hcc, cond_of_mem row hrow]

end Sys2Proof.Scalar
end

section
/-! PROOF. Element-wise operations (R81, R113, R114): what the walk over the elements gives, element by element. -/
namespace Sys2Proof.Machine

/-- A walk whose steps append an element gives each element from what it carries after the indices before it. -/
theorem foldl_snoc {α β : Type} {step : List α × β → Nat → List α × β} {e : β → Nat → α} {next : β → Nat → β}
    (h : ∀ x i, step x i = (x.1 ++ [e x.2 i], next x.2 i)) (b : β) (n : Nat) : (List.range n).foldl step ([], b) =
      ((List.range n).map fun i => e ((List.range i).foldl next b) i, (List.range n).foldl next b) := by
  induction n with
  | zero => rfl
  | succ n ih => rw [List.range_succ, List.foldl_append, ih, List.map_append, List.foldl_append]; exact h _ _

theorem getD_map_range {n i : Nat} (h : i < n) (g : Nat → Nat) : ((List.range n).map g).getD i 0 = g i := by
  rw [List.getD_eq_getElem _ _ (by simpa using h), List.getElem_map, List.getElem_range]

/-! ## What one element comes to -/

/-- What a walk carries besides its elements: the flags raised and the lanes' LFSR states. -/
abbrev Carried := BitVec 5 × BitVec 2 × SMap Lane

/-- R113: an element that is not governed. -/
def restElem (c : Ctx) (f : RRR) (w i : Nat) : Nat := if f.zm then 0 else (readV c f.d).elem w i
/-- R113: element i, its lane's LFSR state as carried. -/
def vecElem (c : Ctx) (f : RRR) (w : Nat) (g : Nat → Nat → RR) (x : Carried) (i : Nat) : Nat :=
  if (getM c f.msk).getLsbD i then (g i (lfsrOf x.2.2 (i * w / 32))).code else restElem c f w i
/-- R81, R114: what is carried on after element i. -/
def vecNext (c : Ctx) (f : RRR) (w : Nat) (sr : Bool) (g : Nat → Nat → RR) (x : Carried) (i : Nat) : Carried :=
  (if (getM c f.msk).getLsbD i then x.1 ||| (g i (lfsrOf x.2.2 (i * w / 32))).ff else x.1,
    if (getM c f.msk).getLsbD i then x.2.1 ||| (g i (lfsrOf x.2.2 (i * w / 32))).sf else x.2.1,
    if sr then lfsrNext x.2.2 (i * w / 32) else x.2.2)

section
variable (c : Ctx) (f : RRR) (w : Nat) (g : Nat → Nat → RR)

/-- What is carried after n elements. -/
def carried (sr : Bool) (n : Nat) : Carried := (List.range n).foldl (vecNext c f w sr g) (0, 0, c.lfsr)

theorem carried_succ (sr : Bool) (n : Nat) : carried c f w g sr (n + 1) = vecNext c f w sr g (carried c f w g sr n) n := by
  rw [carried, List.range_succ, List.foldl_append]
  rfl

theorem mapElems_eq (sr : Bool) : mapElems c f w sr g =
    ((List.range (c.lanes * 32 / w)).map fun i => vecElem c f w g (carried c f w g sr i) i,
      carried c f w g sr (c.lanes * 32 / w)) := by
  refine foldl_snoc (fun x i => ?_) (0, 0, c.lfsr) _
  by_cases h : (getM c f.msk).getLsbD i = true
  · simp only [vecElem, vecNext, governOf, h, if_true]
  · simp only [vecElem, vecNext, restElem, governOf, h]
    rfl

/-- R114: with no stochastic rounding the LFSR states stay as they are. -/
theorem carried_lfsr (n : Nat) : (carried c f w g false n).2.2 = c.lfsr := by
  induction n with
  | zero => rfl
  | succ n ih => rw [carried_succ]; exact ih

/-- R113: the flags are those of the governed elements. -/
theorem carried_ff (n : Nat) : (carried c f w g false n).1 = ((List.range n).filter fun j => (getM c f.msk).getLsbD j).foldl
    (fun x j => x ||| (g j (lfsrOf c.lfsr (j * w / 32))).ff) 0 := by
  induction n with
  | zero => rfl
  | succ n ih =>
    rw [carried_succ, vecNext, carried_lfsr, ih, List.range_succ, List.filter_append, List.foldl_append, List.filter_singleton]
    cases (getM c f.msk).getLsbD n <;> rfl

/-- R81: under stochastic rounding of 32-bit elements the lanes below n have taken one step, and no other. -/
theorem carried_step (n l : Nat) : smGet 0 (carried c f 32 g true n).2.2 l =
    if l < n then BitVec.ofNat 32 (lfsrStep (lfsrOf c.lfsr l)) else smGet 0 c.lfsr l := by
  induction n generalizing l with
  | zero => rfl
  | succ n ih =>
    have hs : (carried c f 32 g true (n + 1)).2.2 = lfsrNext (carried c f 32 g true n).2.2 n := by
      rw [carried_succ, vecNext, Nat.mul_div_cancel n (by decide)]
      rfl
    rw [hs, lfsrNext, smGet_smSet]
    by_cases h : l = n
    · subst h
      rw [if_pos rfl, if_pos (Nat.lt_succ_self _), lfsrOf, ih, if_neg (Nat.lt_irrefl _)]
      rfl
    · rw [if_neg h, ih]
      exact if_congr (by omega) rfl rfl

end

end Sys2Proof.Machine

namespace Sys2Proof.Vector
open Sys2Proof.Machine

/-- Settles O11: an element sees its lane's LFSR state as it was, since no element before it has stepped that lane. -/
theorem vectorElements : Obligations.VectorElements := by
  intro c f w g i _ hi
  rw [mapElems_eq, mapElems_eq]
  refine ⟨by simp, ?_, carried_ff c f w g _, carried_lfsr c f w g _, ?_⟩
  · rw [getD_map_range hi, vecElem, carried_lfsr]
    rfl
  · rintro rfl
    have hl : lfsrOf (carried c f 32 g true i).2.2 i = lfsrOf c.lfsr i := by
      rw [lfsrOf, carried_step, if_neg (Nat.lt_irrefl i)]
      rfl
    refine ⟨?_, by rw [carried_step, if_pos hi]⟩
    rw [getD_map_range hi, vecElem, Nat.mul_div_cancel i (by decide), hl]
    rfl

end Sys2Proof.Vector
end

section
/-! PROOF. Integer vector operations (R119 to R125): the element of each rule. -/
namespace Sys2Proof.Machine
open Sys2Proof.Safety

/-! ## Elements by the bits of OPM (R119, R120, R123) -/

/-- R120: an element read as unsigned or as signed. -/
def elemAs (u : Bool) (w x : Nat) : Int := if u then (x : Int) else sext x w

theorem elemLess_eq (f : RRR) (w a b : Nat) :
    elemLess f w a b = decide (elemAs (f.md.getLsbD 1) w a < elemAs (f.md.getLsbD 1) w b) := by
  rw [elemLess, bit_toNat]
  cases f.md.getLsbD 1 <;> simp [elemAs]
theorem macElem_eq (f : RRR) (w x : Nat) : macElem f w x = elemAs (f.md.getLsbD 1) w x := by
  rw [macElem, bit_toNat, elemAs]
theorem macForm_eq (f : RRR) : macForm f = if f.md.getLsbD 0 then (if f.md.getLsbD 1 then 3 else 1) else 0 := by
  rw [macForm, bit_toNat, bit_toNat]
  cases f.md.getLsbD 0 <;> rfl
theorem bits_bit (md : BitVec 8) (i : Nat) : bits md.toNat i i = (md.getLsbD i).toNat := by
  rw [← bit_toNat, bit, bits, Nat.add_sub_cancel_left, pow_one]
  have h2 := Nat.mod_two_eq_zero_or_one (md.toNat / 2 ^ i)
  rcases h2 with h | h <;> rw [h] <;> rfl

theorem arithVec_eq (f : RRR) (w bound : Nat) (g : Int → Int → Int) : arithVec f w bound g = binVec f w bound fun a b =>
    intForm (f.md.toNat % 4) w (g (intElem (f.md.toNat % 4) w a) (intElem (f.md.toNat % 4) w b)) := by
  rw [arithVec, bits_kind]

/-- R122: an element shifted right as it is read; one read as unsigned fits its width. -/
theorem shr_elem (u : Bool) {w x : Nat} (h : x < 2 ^ w) (k : Nat) :
    (if u then x / k else truncI (sext x w / (k : Int)) w) = truncI (elemAs u w x / (k : Int)) w := by
  cases u
  · rfl
  · have hlt : x / k < 2 ^ w := (Nat.div_le_self ..).trans_lt h
    simp only [elemAs, truncI, if_true]
    rw [← Int.natCast_ediv, ← Int.natCast_mod, Int.toNat_natCast, Nat.mod_eq_of_lt hlt]

/-! ## The operations pass -/

section
variable {s : State} {f : RRR} {op : BitVec 8} {w bound : Nat} {r : Nat → RR}
  (hr : Ready s) (hl : slotLegal (f.pack op) = true) (hf : op ≠ 0xFF) (hg : Enabled s f.gp f.gn) (hc : (me s).hasClaim = true)
include hr hl hf hg hc

/-- R113: an operation that takes no LFSR step passes with the elements of its rule. -/
theorem intVec_passes {g : View → Nat → RR} (hv : ∀ i, g (loneView s (f.pack op) []) i = r i) :
    issueOne (f.pack op) (intVec f w bound g) s = .next (vecPass s (f.pack op) f w bound false fun i _ => r i) := by
  rw [← funext hv]
  exact vec_passes hr hl hf hg hc

theorem binVec_passes {g : Nat → Nat → RR} (hv : ∀ i, g ((readV (me s) f.a).elem w i) ((readV (me s) f.b).elem w i) = r i) :
    issueOne (f.pack op) (binVec f w bound g) s = .next (vecPass s (f.pack op) f w bound false fun i _ => r i) :=
  intVec_passes hr hl hf hg hc hv

/-- R119: arithmetic in the form of OPM. -/
theorem arithVec_passes (g : Int → Int → Int) : issueOne (f.pack op) (arithVec f w bound g) s =
    .next (vecPass s (f.pack op) f w bound false fun i _ => intForm (f.md.toNat % 4) w
      (g (intElem (f.md.toNat % 4) w ((readV (me s) f.a).elem w i)) (intElem (f.md.toNat % 4) w ((readV (me s) f.b).elem w i)))) := by
  rw [arithVec_eq]
  exact binVec_passes hr hl hf hg hc fun _ => rfl

/-- R120: minimum and maximum keep the first element unless the second is beyond it. -/
theorem minVec_passes : issueOne (f.pack op) (minVec f w) s = .next (vecPass s (f.pack op) f w 2 false fun i _ =>
    ⟨if elemAs (f.md.getLsbD 1) w ((readV (me s) f.b).elem w i) < elemAs (f.md.getLsbD 1) w ((readV (me s) f.a).elem w i) then
      (readV (me s) f.b).elem w i else (readV (me s) f.a).elem w i, 0, 0⟩) :=
  binVec_passes hr hl hf hg hc fun i => by simp only [elemLess_eq, decide_eq_true_eq]
theorem maxVec_passes : issueOne (f.pack op) (maxVec f w) s = .next (vecPass s (f.pack op) f w 2 false fun i _ =>
    ⟨if elemAs (f.md.getLsbD 1) w ((readV (me s) f.a).elem w i) < elemAs (f.md.getLsbD 1) w ((readV (me s) f.b).elem w i) then
      (readV (me s) f.b).elem w i else (readV (me s) f.a).elem w i, 0, 0⟩) :=
  binVec_passes hr hl hf hg hc fun i => by simp only [elemLess_eq, decide_eq_true_eq]

/-- R121: a bitwise operation on vectors. -/
theorem logicVec_passes (hd : f.d.toNat < 384) (g : Nat → Nat → Nat) (gm : BitVec 256 → BitVec 256 → BitVec 256) :
    issueOne (f.pack op) (logicVec f g gm) s = .next (vecPass s (f.pack op) f 32 2 false fun i _ =>
      ⟨g ((readV (me s) f.a).elem 32 i) ((readV (me s) f.b).elem 32 i), 0, 0⟩) := by
  rw [logicVec, if_neg (Nat.not_le.2 hd)]
  exact binVec_passes hr hl hf hg hc fun _ => rfl

/-- R122: the shifts. -/
theorem shlVec_passes : issueOne (f.pack op) (shlVec f w) s = .next (vecPass s (f.pack op) f w 2 false fun i _ =>
    ⟨(readV (me s) f.a).elem w i * 2 ^ ((readV (me s) f.b).elem w i % w) % 2 ^ w, 0, 0⟩) :=
  binVec_passes hr hl hf hg hc fun _ => rfl
theorem shrVec_passes : issueOne (f.pack op) (shrVec f w) s = .next (vecPass s (f.pack op) f w 2 false fun i _ =>
    ⟨truncI (elemAs (f.md.getLsbD 1) w ((readV (me s) f.a).elem w i) / (2 ^ ((readV (me s) f.b).elem w i % w) : Nat)) w, 0, 0⟩) :=
  binVec_passes hr hl hf hg hc fun i => by rw [bit_toNat, shr_elem _ (VSrc.elem_lt ..)]

/-- R124: a dot product over the elements of a lane, in order. -/
theorem dotVec_passes : issueOne (f.pack op) (dotVec f w) s = .next (vecPass s (f.pack op) f 32 3 false fun i _ =>
    intForm (if f.md.getLsbD 0 then (if f.md.getLsbD 1 then 3 else 1) else 0) 32 ((List.range (32 / w)).foldl (fun x j =>
      x + elemAs (f.md.getLsbD 1) w ((readV (me s) f.a).elem w (32 / w * i + j)) *
        elemAs (f.md.getLsbD 1) w ((readV (me s) f.b).elem w (32 / w * i + j)))
      (elemAs (f.md.getLsbD 1) 32 ((readV (me s) f.c).elem 32 i)))) :=
  intVec_passes hr hl hf hg hc fun i => by simp only [macForm_eq, macElem_eq]; rfl

end

/-- R123: a widening multiply-accumulate. -/
theorem vmacwS16_passes {s : State} {f : RRR} (hr : Ready s) (hg : Enabled s f.gp f.gn) (hc : (me s).hasClaim = true)
    (hw : WellFormed (.vmacwS16 f) = true) :
    exec (.vmacwS16 f) s = .next (vecPass s (f.pack 0x53) f 32 3 false fun i _ =>
      intForm (if f.md.getLsbD 0 then (if f.md.getLsbD 1 then 3 else 1) else 0) 32
        (elemAs (f.md.getLsbD 1) 32 ((readV (me s) f.c).elem 32 i) +
          elemAs (f.md.getLsbD 1) 16 ((readV (me s) f.a).elem 16 (2 * i + (f.md.getLsbD 2).toNat)) *
          elemAs (f.md.getLsbD 1) 16 ((readV (me s) f.b).elem 16 (2 * i + (f.md.getLsbD 2).toNat)))) :=
  intVec_passes hr (Laws.Legal.vmacwS16 f _ rfl hw) (by decide) hg hc fun i => by
    simp only [macForm_eq, macElem_eq, bits_bit]
    rfl

end Sys2Proof.Machine

namespace Sys2Proof.Vector
open Sys2Proof.Machine Sys2Proof.Safety

/-- Settles O13: each operation passes with the elements of its rule, by its family. -/
theorem integerVectorResults : Obligations.IntegerVectorResults := by
  intro s f hr hg hc hd
  simp only [List.forall_mem_cons]
  exact
    ⟨fun hw => arithVec_passes hr (Laws.Legal.vaddS32 f _ rfl hw) (by decide) hg hc _,
     fun hw => arithVec_passes hr (Laws.Legal.vaddS16 f _ rfl hw) (by decide) hg hc _,
     fun hw => arithVec_passes hr (Laws.Legal.vaddS8 f _ rfl hw) (by decide) hg hc _,
     fun hw => arithVec_passes hr (Laws.Legal.vsubS32 f _ rfl hw) (by decide) hg hc _,
     fun hw => arithVec_passes hr (Laws.Legal.vsubS16 f _ rfl hw) (by decide) hg hc _,
     fun hw => arithVec_passes hr (Laws.Legal.vsubS8 f _ rfl hw) (by decide) hg hc _,
     fun hw => arithVec_passes hr (Laws.Legal.vmulS32 f _ rfl hw) (by decide) hg hc _,
     fun hw => arithVec_passes hr (Laws.Legal.vmulS16 f _ rfl hw) (by decide) hg hc _,
     fun hw => minVec_passes hr (Laws.Legal.vminS32 f _ rfl hw) (by decide) hg hc,
     fun hw => maxVec_passes hr (Laws.Legal.vmaxS32 f _ rfl hw) (by decide) hg hc,
     fun hw => minVec_passes hr (Laws.Legal.vminS16 f _ rfl hw) (by decide) hg hc,
     fun hw => maxVec_passes hr (Laws.Legal.vmaxS16 f _ rfl hw) (by decide) hg hc,
     fun hw => logicVec_passes hr (Laws.Legal.vand f _ rfl hw) (by decide) hg hc hd _ _,
     fun hw => logicVec_passes hr (Laws.Legal.vor f _ rfl hw) (by decide) hg hc hd _ _,
     fun hw => logicVec_passes hr (Laws.Legal.vxor f _ rfl hw) (by decide) hg hc hd _ _,
     fun hw => shlVec_passes hr (Laws.Legal.vshlS32 f _ rfl hw) (by decide) hg hc,
     fun hw => shrVec_passes hr (Laws.Legal.vshrS32 f _ rfl hw) (by decide) hg hc,
     fun hw => shlVec_passes hr (Laws.Legal.vshlS16 f _ rfl hw) (by decide) hg hc,
     fun hw => shrVec_passes hr (Laws.Legal.vshrS16 f _ rfl hw) (by decide) hg hc,
     vmacwS16_passes hr hg hc,
     fun hw => dotVec_passes hr (Laws.Legal.vdotS8 f _ rfl hw) (by decide) hg hc,
     fun hw => dotVec_passes hr (Laws.Legal.vdotS16 f _ rfl hw) (by decide) hg hc,
     fun hw => binVec_passes hr (Laws.Legal.vclmul f _ rfl hw) (by decide) hg hc fun _ => rfl,
     fun hw => binVec_passes hr (Laws.Legal.vclmulh f _ rfl hw) (by decide) hg hc fun _ => rfl,
     List.forall_mem_nil _⟩

end Sys2Proof.Vector
end

section
/-! PROOF. Compares, mask logic, selection and element moves (R121, R126, R127, R136 to R140). -/
namespace Sys2Proof.Machine
open Sys2Proof.Safety

/-! ## Masks (R126) -/

/-- A sum of the powers of two below n that a condition picks. -/
def maskSum (p : Nat → Bool) (n : Nat) : Nat := (List.range n).foldl (fun a i => a + if p i then 2 ^ i else 0) 0

theorem maskSum_succ (p : Nat → Bool) (n : Nat) : maskSum p (n + 1) = maskSum p n + if p n then 2 ^ n else 0 := by
  rw [maskSum, List.range_succ, List.foldl_append]
  rfl
theorem maskSum_lt (p : Nat → Bool) (n : Nat) : maskSum p n < 2 ^ n := by
  induction n with
  | zero => exact Nat.one_pos
  | succ n ih =>
    rw [maskSum_succ, Nat.pow_succ]
    split <;> omega

/-- Its bits are those that the condition picks. -/
theorem testBit_maskSum (p : Nat → Bool) (n i : Nat) : (maskSum p n).testBit i = (decide (i < n) && p i) := by
  induction n with
  | zero => simp [maskSum]
  | succ n ih =>
    have hlt := maskSum_lt p n
    have hs : maskSum p (n + 1) = 2 ^ n * (p n).toNat + maskSum p n := by
      rw [maskSum_succ, Nat.add_comm]
      cases p n <;> simp
    rw [hs, Nat.testBit_two_pow_mul_add _ hlt, ih]
    rcases Nat.lt_trichotomy i n with h | rfl | h
    · simp [h, Nat.lt_succ_of_lt h]
    · cases p i <;> simp
    · have hi : i - n ≠ 0 := by omega
      simp [Nat.testBit_bool_toNat, hi, Nat.not_lt.2 h.le, Nat.not_lt.2 h]

/-- R126: what bit i of a compare's mask is. -/
def cmpBit (c : Ctx) (f : RRR) (p : Nat → Bool) (i : Nat) : Bool :=
  if (getM c f.msk).getLsbD i then p i else if f.zm then false else (getM c (f.d.toNat - 384)).getLsbD i

section
variable {s : State} {f : RRR} {op : BitVec 8} {bound : Nat} (hr : Ready s) (hl : slotLegal (f.pack op) = true) (hf : op ≠ 0xFF)
  (hg : Enabled s f.gp f.gn) (hc : (me s).hasClaim = true)
include hr hl hf hg hc

/-- R126: a compare passes with its mask. -/
theorem cmpVec_passes {w : Nat} {g : View → Nat → Bool} {p : Nat → Bool} (hv : ∀ i, g (loneView s (f.pack op) []) i = p i) :
    ∃ m : BitVec 256, (∀ i, i < 256 → m.getLsbD i = (decide (i < (me s).lanes * 32 / w) && cmpBit (me s) f p i)) ∧
      issueOne (f.pack op) (cmpVec f w bound g) s =
        .next (lonePass s s (f.pack op) [] { landM f.d m bound with ew := 1 }) := by
  rw [← funext hv]
  refine ⟨BitVec.ofNat 256 (maskSum (cmpBit (me s) f (g (loneView s (f.pack op) []))) ((me s).lanes * 32 / w)), fun i hi => ?_,
    claimed_passes hr hg hc hl hf rfl rfl⟩
  rw [BitVec.getLsbD_ofNat, decide_eq_true hi, Bool.true_and, testBit_maskSum]

/-- R121: a bitwise operation on masks acts on all their bits. -/
theorem maskLogic_passes (hd : 384 ≤ f.d.toNat) (g : Nat → Nat → Nat) (gm : BitVec 256 → BitVec 256 → BitVec 256) :
    issueOne (f.pack op) (logicVec f g gm) s = .next (lonePass s s (f.pack op) []
      { landM f.d (gm (getM (me s) (f.a.toNat - 384)) (getM (me s) (f.b.toNat - 384))) 2 with ew := 1 }) := by
  rw [logicVec, if_pos hd]
  exact claimed_passes hr hg hc hl hf rfl rfl

end

/-! ## Element moves (R136 to R140) -/

/-- R137, R138, R140: an operation that writes every element passes. -/
theorem plainVec_passes {s : State} {f : RRI} {op : BitVec 8} {w bound : Nat} {g : View → Nat → Nat} {r : Nat → Nat} (hr : Ready s)
    (hl : slotLegal (f.pack op) = true) (hf : op ≠ 0xFF) (hg : Enabled s f.gp f.gn) (hc : (me s).hasClaim = true)
    (hv : ∀ i, g (loneView s (f.pack op) []) i = r i) :
    issueOne (f.pack op) (plainVec f.d w bound g) s = .next (lonePass s s (f.pack op) []
      { landV (me s) f.d (packLanes w ((List.range ((me s).lanes * 32 / w)).map r) (me s).lanes) bound with ew := w }) := by
  rw [← funext hv]
  exact claim_passes hr hl (by rw [opField_RRI_pack]; exact hf) (by simpa [Enabled] using hg) hc rfl rfl rfl rfl (pushOf_dstV rfl) rfl

/-- R139: vzip and vpack share an opcode, and bit 3 of mod tells them apart. -/
theorem zip_mode {f : RRR} (hw : WellFormed (.vzip f) = true) : bit f.md.toNat 3 = false := by
  obtain ⟨-, -, -, -, -, hm⟩ := ok_fields (Bool.and_eq_true_iff.1 hw).1
  rw [bit_toNat, ← and_of_mdIn hm, BitVec.getLsbD_and]
  exact Bool.and_false _
theorem pack_mode {f : RRR} (hw : WellFormed (.vpack f) = true) : bit f.md.toNat 3 = true := by
  have h : f.opm % 4 ≠ 3 ∧ 8 ≤ f.opm := side_of_legal hw
  unfold RRR.opm at h
  rw [bit, beq_iff_eq]
  omega

section
variable {s : State} {f : RRI} (hr : Ready s) (hg : Enabled s f.gp f.gn) (hc : (me s).hasClaim = true)
include hr hg hc

/-- R138: a slide by the signed low half of the immediate. -/
theorem vslide_passes {w : Nat} (hw : WellFormed (.vslide f) = true) (hwd : w = widthCode (f.imm.toNat / 2 ^ 16)) :
    exec (.vslide f) s = .next (lonePass s s (f.pack 0x7D) []
      { landV (me s) f.d (packLanes w ((List.range ((me s).lanes * 32 / w)).map fun i : Nat =>
          if 0 ≤ (i : Int) + sext f.imm.toNat 16 ∧ (i : Int) + sext f.imm.toNat 16 < ((me s).lanes * 32 / w : Nat) then
            (readV (me s) f.a).elem w ((i : Int) + sext f.imm.toNat 16).toNat else 0) (me s).lanes) 3 with ew := w }) := by
  have hlt : f.imm.toNat < 3 * 2 ^ 16 := side_of_legal hw
  have hb : bits f.imm.toNat 17 16 = f.imm.toNat / 2 ^ 16 := Nat.mod_eq_of_lt (by omega)
  rw [← hb] at hwd
  subst hwd
  exact plainVec_passes hr (Laws.Legal.vslide f _ rfl hw) (by decide) hg hc fun _ => rfl

/-- R140: an element taken to element 0. -/
theorem vext_passes {w : Nat} (hw : WellFormed (.vext f) = true) (hwd : w = widthCode (f.imm.toNat / 2 ^ 8)) :
    exec (.vext f) s = .next (lonePass s s (f.pack 0x7F) []
      { landV (me s) f.d (packLanes w ((List.range ((me s).lanes * 32 / w)).map fun i =>
          if i = 0 ∧ f.imm.toNat % 2 ^ 8 < (me s).lanes * 32 / w then (readV (me s) f.a).elem w (f.imm.toNat % 2 ^ 8) else 0)
          (me s).lanes) 3 with ew := w }) := by
  have hlt : f.imm.toNat < 3 * 2 ^ 8 := side_of_legal hw
  have hb : bits f.imm.toNat 9 8 = f.imm.toNat / 2 ^ 8 := Nat.mod_eq_of_lt (by omega)
  have hj : bits f.imm.toNat 7 0 = f.imm.toNat % 2 ^ 8 := by simp [bits]
  rw [← hb] at hwd
  subst hwd
  exact plainVec_passes hr (Laws.Legal.vext f _ rfl hw) (by decide) hg hc fun _ => by rw [hj]; rfl

end

section
variable {s : State} {f : RRR} (hr : Ready s) (hg : Enabled s f.gp f.gn) (hc : (me s).hasClaim = true)
include hr hg hc

/-- R127, R136, R139: selection, permutation, interleaving and packing, by the width w of their elements. -/
theorem vsel_passes {w : Nat} (hw : WellFormed (.vsel f) = true) (hwd : w = widthCode (f.md.toNat % 4)) :
    exec (.vsel f) s = .next (vecPass s (f.pack 0x5A) f w 2 false fun i _ =>
      ⟨if (getM (me s) (f.c.toNat - 384)).getLsbD i then (readV (me s) f.a).elem w i else (readV (me s) f.b).elem w i, 0, 0⟩) := by
  rw [← bits_kind] at hwd
  subst hwd
  exact intVec_passes hr (Laws.Legal.vsel f _ rfl hw) (by decide) hg hc fun _ => rfl
theorem vperm_passes {w : Nat} (hw : WellFormed (.vperm f) = true) (hwd : w = widthCode (f.md.toNat % 4)) :
    exec (.vperm f) s = .next (vecPass s (f.pack 0x7B) f w 3 false fun i _ =>
      ⟨if (readV (me s) f.b).elem w i < (me s).lanes * 32 / w then (readV (me s) f.a).elem w ((readV (me s) f.b).elem w i) else 0,
        0, 0⟩) := by
  rw [← bits_kind] at hwd
  subst hwd
  exact intVec_passes hr (Laws.Legal.vperm f _ rfl hw) (by decide) hg hc fun _ => rfl
theorem vzip_passes {w h : Nat} (hw : WellFormed (.vzip f) = true) (hwd : w = widthCode (f.md.toNat % 4))
    (hh : h = (me s).lanes * 32 / w / 2) : exec (.vzip f) s = .next (vecPass s (f.pack 0x7E) f w 3 false fun i _ =>
      ⟨if i % 2 = 0 then (readV (me s) f.a).elem w ((f.md.getLsbD 2).toNat * h + i / 2)
        else (readV (me s) f.b).elem w ((f.md.getLsbD 2).toNat * h + i / 2), 0, 0⟩) := by
  rw [← bits_kind] at hwd
  subst hwd hh
  exact intVec_passes hr (Laws.Legal.vzip f _ rfl hw) (by decide) hg hc fun i => by
    simp only [zipElem, zip_mode hw, bits_bit, Bool.false_eq_true, if_false]
    rfl
theorem vpack_passes {w h : Nat} (hw : WellFormed (.vpack f) = true) (hwd : w = widthCode (f.md.toNat % 4))
    (hh : h = (me s).lanes * 32 / w / 2) : exec (.vpack f) s = .next (vecPass s (f.pack 0x7E) f w 3 false fun i _ =>
      ⟨if i < h then (readV (me s) f.a).elem w (2 * i + (f.md.getLsbD 2).toNat)
        else (readV (me s) f.b).elem w (2 * (i - h) + (f.md.getLsbD 2).toNat), 0, 0⟩) := by
  rw [← bits_kind] at hwd
  subst hwd hh
  exact intVec_passes hr (Laws.Legal.vpack f _ rfl hw) (by decide) hg hc fun i => by
    simp only [zipElem, pack_mode hw, bits_bit, if_true]
    rfl

end

end Sys2Proof.Machine

namespace Sys2Proof.Vector
open Sys2Proof.Machine Sys2Proof.Safety

/-- Settles O14: each operation passes with its mask or its elements. -/
theorem maskAndMoveResults : Obligations.MaskAndMoveResults := by
  refine ⟨fun s f hr hg hc hd => ⟨?_, ?_⟩, fun s hr hc => ⟨?_, ?_⟩⟩
  · simp only [List.forall_mem_cons]
    exact
      ⟨fun hw => cmpVec_passes hr (Laws.Legal.vcmpS32 f _ rfl hw) (by decide) hg hc fun _ => rfl,
       fun hw => cmpVec_passes hr (Laws.Legal.vcmpS16 f _ rfl hw) (by decide) hg hc fun _ => rfl,
       fun hw => cmpVec_passes hr (Laws.Legal.vcmpF32 f _ rfl hw) (by decide) hg hc fun _ => rfl,
       List.forall_mem_nil _⟩
  · simp only [List.forall_mem_cons]
    exact
      ⟨fun hw => maskLogic_passes hr (Laws.Legal.vand f _ rfl hw) (by decide) hg hc hd _ _,
       fun hw => maskLogic_passes hr (Laws.Legal.vor f _ rfl hw) (by decide) hg hc hd _ _,
       fun hw => maskLogic_passes hr (Laws.Legal.vxor f _ rfl hw) (by decide) hg hc hd _ _,
       List.forall_mem_nil _⟩
  · rintro f w _ h hg hwd rfl hh
    simp only [List.forall_mem_cons]
    exact
      ⟨fun hw => vsel_passes hr hg hc hw hwd, fun hw => vperm_passes hr hg hc hw hwd, fun hw => vzip_passes hr hg hc hw hwd hh,
       fun hw => vpack_passes hr hg hc hw hwd hh, List.forall_mem_nil _⟩
  · rintro f w _ hg rfl
    simp only [List.forall_mem_cons]
    refine ⟨?_, fun hwd hw => vslide_passes hr hg hc hw hwd, fun hwd hw => vext_passes hr hg hc hw hwd, List.forall_mem_nil _⟩
    rintro rfl hw
    exact plainVec_passes hr (Laws.Legal.vsplat f _ rfl hw) (by decide) hg hc fun _ => rfl

end Sys2Proof.Vector
end

section
/-! PROOF. Floating-point vector operations (R128, R129, R133): the mode and the operands of each element. -/
namespace Sys2Proof.Machine
open Sys2Proof.Safety

/-- R128: the mode that RS selects, and the sign that NEG turns. -/
theorem modeOf_eq (f : RRR) (c : Ctx) : modeOf f c = rmOf (f.md.toNat % 8) c.rm := by simp [modeOf, bits]
theorem negF_eq (f : RRR) (x : FV) : negF f x = if f.md.getLsbD 3 then x.flip else x := by rw [negF, bit_toNat]

/-- Element i of a source in a format. -/
def elemF (c : Ctx) (fm : Fmt) (x : BitVec 9) (i : Nat) : FV := srcF c fm ((readV c x).elem fm.width i)

/-- R128: what an operation of format fm leaves whose exact results are `r`, each rounded once in its mode. -/
def roundPass (s : State) (op : BitVec 8) (f : RRR) (fm : Fmt) (r : Nat → FV × BitVec 5) : State :=
  vecPass s (f.pack op) f fm.width 4 (modeOf f (me s) == .sr) fun i l => finF (me s) fm (modeOf f (me s)) l (r i)

section
variable {s : State} {f : RRR} {op : BitVec 8} {fm : Fmt}
  (hr : Ready s) (hl : slotLegal (f.pack op) = true) (hf : op ≠ 0xFF) (hg : Enabled s f.gp f.gn) (hc : (me s).hasClaim = true)
include hr hl hf hg hc

/-- R128: an operation of two elements passes with each exact result rounded once. -/
theorem arithF_passes (g : RM → FV → FV → FV × BitVec 5) : issueOne (f.pack op) (arithF f fm g) s =
    .next (roundPass s op f fm fun i => g (modeOf f (me s)) (elemF (me s) fm f.a i) (elemF (me s) fm f.b i)) :=
  vec_passes hr hl hf hg hc

/-- R128: sums, products, and products added to a third element. -/
theorem addVec_passes : issueOne (f.pack op) (addVec f fm) s = .next (roundPass s op f fm fun i =>
    addF (modeOf f (me s)) (elemF (me s) fm f.a i) (negF f (elemF (me s) fm f.b i))) :=
  arithF_passes hr hl hf hg hc _
theorem mulVec_passes : issueOne (f.pack op) (mulVec f fm) s = .next (roundPass s op f fm fun i =>
    (negF f (mulF (elemF (me s) fm f.a i) (elemF (me s) fm f.b i)).1, (mulF (elemF (me s) fm f.a i) (elemF (me s) fm f.b i)).2)) :=
  arithF_passes hr hl hf hg hc _
theorem fmaVec_passes : issueOne (f.pack op) (fmaVec f fm) s = .next (roundPass s op f fm fun i =>
    fmaF (modeOf f (me s)) (elemF (me s) fm f.a i) (elemF (me s) fm f.b i) (negF f (elemF (me s) fm f.c i))) :=
  vec_passes hr hl hf hg hc

/-- R129, R133: an exact operation, and a special function, of FP32 elements. -/
theorem exactF_passes (g : FV → FV → FV) : issueOne (f.pack op) (exactF f g) s = .next (vecPass s (f.pack op) f 32 4 false fun i _ =>
    ⟨codeOf f32 (g (elemF (me s) f32 f.a i) (elemF (me s) f32 f.b i)), 0, 0⟩) :=
  intVec_passes hr hl hf hg hc fun _ => rfl
theorem specVec_passes (g : Bool → FV → RR) : issueOne (f.pack op) (specVec f g) s =
    .next (vecPass s (f.pack op) f 32 6 false fun i _ => g (me s).fz (elemF (me s) f32 f.a i)) :=
  intVec_passes hr hl hf hg hc fun _ => rfl

end

end Sys2Proof.Machine

namespace Sys2Proof.Vector
open Sys2Proof.Machine Sys2Proof.Safety

/-- Settles O15: each operation passes with the elements of its rule, by its family and format. -/
theorem floatVectorResults : Obligations.FloatVectorResults := by
  refine fun s f hr hg hc => ⟨?_, ?_⟩
  · simp only [List.forall_mem_cons, ← modeOf_eq, ← negF_eq]
    exact
      ⟨fun hw => addVec_passes hr (Laws.Legal.vaddF32 f _ rfl hw) (by decide) hg hc,
       fun hw => arithF_passes hr (Laws.Legal.vsubF32 f _ rfl hw) (by decide) hg hc _,
       fun hw => mulVec_passes hr (Laws.Legal.vmulF32 f _ rfl hw) (by decide) hg hc,
       fun hw => fmaVec_passes hr (Laws.Legal.vfmaF32 f _ rfl hw) (by decide) hg hc,
       fun hw => addVec_passes hr (Laws.Legal.vaddBf16 f _ rfl hw) (by decide) hg hc,
       fun hw => mulVec_passes hr (Laws.Legal.vmulBf16 f _ rfl hw) (by decide) hg hc,
       fun hw => fmaVec_passes hr (Laws.Legal.vfmaBf16 f _ rfl hw) (by decide) hg hc,
       fun hw => addVec_passes hr (Laws.Legal.vaddF16 f _ rfl hw) (by decide) hg hc,
       fun hw => mulVec_passes hr (Laws.Legal.vmulF16 f _ rfl hw) (by decide) hg hc,
       fun hw => fmaVec_passes hr (Laws.Legal.vfmaF16 f _ rfl hw) (by decide) hg hc,
       List.forall_mem_nil _⟩
  · simp only [List.forall_mem_cons]
    exact
      ⟨fun hw => exactF_passes hr (Laws.Legal.vminF32 f _ rfl hw) (by decide) hg hc _,
       fun hw => exactF_passes hr (Laws.Legal.vmaxF32 f _ rfl hw) (by decide) hg hc _,
       fun hw => specVec_passes hr (Laws.Legal.vexp2 f _ rfl hw) (by decide) hg hc _,
       fun hw => specVec_passes hr (Laws.Legal.vlog2 f _ rfl hw) (by decide) hg hc _,
       fun hw => specVec_passes hr (Laws.Legal.vrcp f _ rfl hw) (by decide) hg hc _,
       fun hw => specVec_passes hr (Laws.Legal.vrsqrt f _ rfl hw) (by decide) hg hc _,
       fun hw => specVec_passes hr (Laws.Legal.vtanh f _ rfl hw) (by decide) hg hc _,
       fun hw => specVec_passes hr (Laws.Legal.vexp f _ rfl hw) (by decide) hg hc _,
       fun hw => specVec_passes hr (Laws.Legal.vlog f _ rfl hw) (by decide) hg hc _,
       List.forall_mem_nil _⟩

end Sys2Proof.Vector
end

section
/-! PROOF. Conversions (R130 to R132): what the walk over the destination elements gives. -/
namespace Sys2Proof.Machine
open Sys2Proof.Safety

section
variable (c : Ctx) (f : RRR) (d : Nat)

/-- R131: the source element that destination element j takes. -/
def cvtFrom (j : Nat) : Option Nat := cvtSource (cvtWidth f.ty.toNat) (cvtWidth d) f.c.toNat c.lanes j
/-- R132: source element i converted for destination element j, its lane's LFSR state as carried. -/
def cvtResult (x : Carried) (j i : Nat) : RR :=
  convert c f.ty.toNat d (cvtWidth d) (modeOf f c) (bit f.md.toNat 3) (lfsrOf x.2.2 (j * cvtWidth d / 32))
    ((readV c f.a).elem (cvtWidth f.ty.toNat) i)
/-- R131, R132: destination element j. -/
def cvtElem (x : Carried) (j : Nat) : Nat :=
  match cvtFrom c f d j with
  | none => (readV c f.d).elem (cvtWidth d) j
  | some i => if (getM c f.msk).getLsbD j then (cvtResult c f d x j i).code else restElem c f (cvtWidth d) j
/-- R81, R132: what is carried on after element j. -/
def cvtNext (x : Carried) (j : Nat) : Carried :=
  match cvtFrom c f d j with
  | none => x
  | some i =>
    (if (getM c f.msk).getLsbD j then x.1 ||| (cvtResult c f d x j i).ff else x.1,
      if (getM c f.msk).getLsbD j then x.2.1 ||| (cvtResult c f d x j i).sf else x.2.1,
      if modeOf f c == .sr then lfsrNext x.2.2 (j * cvtWidth d / 32) else x.2.2)

/-- What is carried after n elements. -/
def cvtCarried (n : Nat) : Carried := (List.range n).foldl (cvtNext c f d) (0, 0, c.lfsr)
/-- The elements of the destination. -/
def cvtElems : List Nat := (List.range (c.lanes * 32 / cvtWidth d)).map fun j => cvtElem c f d (cvtCarried c f d j) j

/-- R81: a rounding mode that is not stochastic leaves the LFSR states as they are. -/
theorem cvtCarried_lfsr (h : modeOf f c ≠ .sr) (n : Nat) : (cvtCarried c f d n).2.2 = c.lfsr := by
  have hm : (modeOf f c == .sr) = false := by simpa using h
  induction n with
  | zero => rfl
  | succ n ih =>
    have hs : cvtCarried c f d (n + 1) = cvtNext c f d (cvtCarried c f d n) n := by
      rw [cvtCarried, List.range_succ, List.foldl_append]
      rfl
    rw [hs, cvtNext, hm]
    cases cvtFrom c f d n <;> exact ih

end

/-- R130: what a conversion to type dt leaves, d being the destination type with its signedness. -/
theorem vcvtOp_run {f : RRR} {dt d : Nat} (hd : (if dt ≤ 0x03 ∧ bit f.md.toNat 3 then dt + 4 else dt) = d) (v : View) (s : State) :
    (vcvtOp f dt).run v s =
      let x := cvtCarried v.c f d (v.c.lanes * 32 / cvtWidth d)
      .ok (setLfsr s v.n (modeOf f v.c == .sr) x.2.2)
        { landV v.c f.d (packLanes (cvtWidth d) (cvtElems v.c f d) v.c.lanes) 3 with ff := x.1, sf := x.2.1, ew := cvtWidth d } := by
  unfold vcvtOp
  dsimp only
  rw [hd, foldl_snoc (e := cvtElem v.c f d) (next := cvtNext v.c f d) fun x j => ?_]
  · rfl
  · simp only [cvtElem, cvtNext, cvtFrom]
    cases cvtSource (cvtWidth f.ty.toNat) (cvtWidth d) f.c.toNat v.c.lanes j with
    | none => rfl
    | some i =>
      by_cases h : (getM v.c f.msk).getLsbD j = true
      · simp only [governOf, h, if_true]
        rfl
      · simp only [governOf, h]
        rfl

/-- R130 to R132: a conversion passes with its elements, which the LFSR states reach under stochastic rounding alone. -/
theorem vcvt_passes {s : State} {f : RRR} {op : BitVec 8} {dt d : Nat} (hr : Ready s) (hl : slotLegal (f.pack op) = true)
    (hf : op ≠ 0xFF) (hg : Enabled s f.gp f.gn) (hc : (me s).hasClaim = true)
    (hd : (if dt ≤ 0x03 ∧ bit f.md.toNat 3 then dt + 4 else dt) = d) :
    ∃ es ff sf lf,
      issueOne (f.pack op) (vcvtOp f dt) s = .next (lonePass s (setLfsr s s.cur (modeOf f (me s) == .sr) lf) (f.pack op) []
        { landV (me s) f.d (packLanes (cvtWidth d) es (me s).lanes) 3 with ff := ff, sf := sf, ew := cvtWidth d }) ∧
      es.length = (me s).lanes * 32 / cvtWidth d ∧
      (modeOf f (me s) ≠ .sr → ∀ j, j < (me s).lanes * 32 / cvtWidth d →
        es.getD j 0 = cvtElem (me s) f d (0, 0, (me s).lfsr) j) := by
  refine ⟨cvtElems (me s) f d, _, _, _, claimed_passes hr hg hc hl hf (vcvtOp_run hd _ s) rfl, by simp [cvtElems], fun hm j hj => ?_⟩
  rw [cvtElems, getD_map_range hj]
  simp only [cvtElem, cvtResult, cvtCarried_lfsr _ _ _ hm]

/-- R130: bit 3 of mod chooses the signedness of an integer destination, and of no other. -/
theorem destType_float {dt : Nat} {hi : Bool} (h : 0x10 ≤ dt) :
    (if dt ≤ 0x03 ∧ hi then dt + 4 else dt) = if hi then dt else dt := by
  rw [ite_self, if_neg (by omega)]
theorem destType_int {dt : Nat} {hi : Bool} (h : dt ≤ 0x03) :
    (if dt ≤ 0x03 ∧ hi then dt + 4 else dt) = if hi then dt + 4 else dt := by
  simp only [h, true_and]

end Sys2Proof.Machine

namespace Sys2Proof.Vector
open Sys2Proof.Machine Sys2Proof.Safety

/-- Settles O16: each conversion passes with its elements, of the destination type that bit 3 of mod completes. -/
theorem conversionResults : Obligations.ConversionResults := by
  intro s f hr hg hc
  simp only [List.forall_mem_cons, ← modeOf_eq, ← bit_toNat f.md]
  exact
    ⟨fun hw => vcvt_passes hr (Laws.Legal.vcvtF32 f _ rfl hw) (by decide) hg hc (destType_float (by decide)),
     fun hw => vcvt_passes hr (Laws.Legal.vcvtBf16 f _ rfl hw) (by decide) hg hc (destType_float (by decide)),
     fun hw => vcvt_passes hr (Laws.Legal.vcvtF16 f _ rfl hw) (by decide) hg hc (destType_float (by decide)),
     fun hw => vcvt_passes hr (Laws.Legal.vcvtF8e4 f _ rfl hw) (by decide) hg hc (destType_float (by decide)),
     fun hw => vcvt_passes hr (Laws.Legal.vcvtF8e5 f _ rfl hw) (by decide) hg hc (destType_float (by decide)),
     fun hw => vcvt_passes hr (Laws.Legal.vcvtS32 f _ rfl hw) (by decide) hg hc (destType_int (by decide)),
     fun hw => vcvt_passes hr (Laws.Legal.vcvtS16 f _ rfl hw) (by decide) hg hc (destType_int (by decide)),
     fun hw => vcvt_passes hr (Laws.Legal.vcvtS8 f _ rfl hw) (by decide) hg hc (destType_int (by decide)),
     List.forall_mem_nil _⟩

end Sys2Proof.Vector
end

section
/-! PROOF. O59: two RMWs, each atomic against the other, that read a byte from one writer (R175, R176). -/
namespace Sys2Proof.Ordering
open Sys2Proof.Machine

/-- What a swap of the 8 bytes at 0 writes: the bytes, and the publish bit of their line cleared (R196). -/
def swapWrites (v : Byte) : List (Nat × Byte) := (List.range 8).map (fun k => (k, v)) ++ [(pubLoc 0, 0)]
/-- A bundle with a swap of x5 at x6, `.rlx` at `.tile`, in slot M. -/
def swapBundle : Happening := .issue { issue := 0, ops := [{ slot := 2, word := MEMF.pack 0xC2 ⟨0, false, 5, 6, 0, 1, 0, 0⟩ }] }
/-- Events 0 and 1: two contexts of a tile swap the bytes at 0, each reading them from writer 2, the last of the coherence order, which
is no event of the execution: no rule of the model asks that it be one. -/
def swapsOfPhantom : Exec :=
  { events := [{ agent := .ctx 0 0, made := .op 2, kind := .rmw, reads := List.range 8, writes := swapWrites 1 },
      { agent := .ctx 0 1, made := .op 2, kind := .rmw, reads := List.range 8, writes := swapWrites 2 }]
    co := (List.range 8).map (fun k => (k, [0, 1, 2])) ++ [(pubLoc 0, [0, 1])]
    rf := (List.range 8).map (fun k => (0, k, some 2)) ++ (List.range 8).map (fun k => (1, k, some 2))
    threads := [(.ctx 0 0, [swapBundle]), (.ctx 0 1, [swapBundle])] }

/-- The cycle of each swap's own write, the writer it reads from and its read goes through a node that is not in the graph. -/
theorem swapsOfPhantom_allowed : allowed swapsOfPhantom = true := by decide +kernel

/-- Both swaps take byte 0 from writer 2. -/
theorem swapsOfPhantom_src : swapsOfPhantom.src 0 0 = swapsOfPhantom.src 1 0 := by decide

/-- Refutes O59: its clause that two RMWs of one byte, each atomic against the other, do not read it from one write fails in an
execution whose coherence order ends in a writer that is none of its events; `wellFormed` (R175) asks only that every event that
writes a byte stand in its coherence order, not that every writer there be an event. -/
theorem not_messagePassing : ¬ Obligations.MessagePassing := by
  rintro ⟨-, -, twoRmws, -⟩
  exact twoRmws swapsOfPhantom 0 1 0 _ _ swapsOfPhantom_allowed rfl rfl (by decide) rfl rfl (by decide) (by decide) (by decide)
    (by decide) (by decide) (by decide) swapsOfPhantom_src

end Sys2Proof.Ordering
end

section
/-! PROOF. O21: the bytes and publish bits that a store to memory leaves (R196, R212, R405). -/
namespace Sys2Proof.Machine
open Sys2Proof.Safety

/-- R212: a store to memory leaves every tile and every context as it was. -/
theorem writeLocs_mem_frame (as : List Nat) (s : State) (bs : List Byte) :
    (writeLocs s (as.map .mem) bs).tiles = s.tiles ∧ (writeLocs s (as.map .mem) bs).ctxs = s.ctxs := by
  induction as generalizing s bs with
  | nil => exact ⟨rfl, rfl⟩
  | cons a as ih =>
    cases bs with
    | nil => exact ⟨rfl, rfl⟩
    | cons b bs => exact ih (putByte s a b) bs

/-- R196: the lines stored to lose their publish bits, and no other line does. -/
theorem writeLocs_mem_pub (as : List Nat) (s : State) (bs : List Byte) (hl : as.length = bs.length) (k : Nat) :
    smGet false (writeLocs s (as.map .mem) bs).pub k = (smGet false s.pub k && decide (∀ a ∈ as, a / 128 ≠ k)) := by
  induction as generalizing s bs with
  | nil => simp [writeLocs]
  | cons a as ih =>
    cases bs with
    | nil => cases hl
    | cons b bs =>
      have hpub : smGet false (putByte s a b).pub k = (smGet false s.pub k && decide (a / 128 ≠ k)) := by
        by_cases h : k = a / 128
        · simp [putByte, h]
        · simp [putByte, h, Ne.symm h]
      refine (ih (putByte s a b) bs (Nat.succ.inj hl)).trans ?_
      simp only [hpub, Bool.and_assoc, ← Bool.decide_and, List.forall_mem_cons]

/-- Places of memory of different addresses have different storage. -/
theorem nodup_mem_cells {as : List Nat} (h : as.Nodup) : ((as.map Loc.mem).map Loc.cell).Nodup := by
  rw [List.map_map]
  exact h.map fun a b hab => congrArg Prod.snd hab

/-- R212: each place of memory stored to reads its byte. -/
theorem memByte_storeLocs_mem {as : List Nat} {bs : List Byte} (s : State) (hl : as.length = bs.length) (hn : as.Nodup) {i : Nat}
    (hi : i < as.length) : memByte (storeLocs s (as.map .mem) bs) (as.getD i 0) = bs.getD i 0 := by
  have h := congrArg (·.getD i 0) (readLocs_storeLocs (as.map .mem) s bs (nodup_mem_cells hn) (by simpa using hl))
  have hb : i < bs.length := hl ▸ hi
  simpa [readLocs, readLoc, hi, hb, List.getD_eq_getElem?_getD] using h

/-- Settles O21: what the bytes, the publish bits and the units read as after the store. -/
theorem storedBytes : Obligations.StoredBytes := by
  intro t as bs hl hn
  obtain ⟨_, _, _, _, hclear⟩ := clearWordErrs_eq (writeLocs t (as.map .mem) bs) (as.map .mem)
  have hstore : storeLocs t (as.map .mem) bs = _ := hclear
  obtain ⟨htiles, hctxs⟩ := writeLocs_mem_frame as t bs
  refine ⟨fun i hi => memByte_storeLocs_mem t hl hn hi, fun a ha => ?_, fun k => ?_, ?_, ?_, fun hc => canonical_storeLocs hc _ _⟩
  · refine readLoc_storeLocs_other (as.map .mem) t bs (.mem a) ?_
    rintro l hm heq
    obtain ⟨c, hc, rfl⟩ := List.mem_map.1 hm
    obtain rfl : a = c := congrArg Prod.snd heq
    exact ha hc
  · rw [hstore]
    exact writeLocs_mem_pub as t bs hl k
  · rw [hstore]
    exact hctxs
  · rw [hstore]
    exact htiles

end Sys2Proof.Machine
end

section
/-! PROOF. O48: the wake of a context and what arrives for it (R208, R252, R258, R281, R290, R294, R297, R298, R328). -/
namespace Sys2Proof.Machine
open Sys2Proof.Safety

/-! ## Waking (R252) -/

/-- R252: a context parked outside service, which no claim keeps, rejoins rotation. -/
theorem wake_parked {c : Ctx} (hp : c.phase = .parked) (hv : c.svc = false) (hc : c.awaitsClaim = false) : wake c = rejoined c := by
  simp [wake, hp, hv, hc, rejoined]

/-- R252: a wake changes where a context stands and what it awaits, and nothing else. -/
theorem wake_eq (c : Ctx) : ∃ p y w r, wake c = { c with phase := p, why := y, wait := w, rst := r } := by
  unfold wake
  split
  · split <;> exact ⟨_, _, _, _, rfl⟩
  · exact ⟨_, _, _, _, rfl⟩
  · split <;> exact ⟨_, _, _, _, rfl⟩
  · exact ⟨_, _, _, _, rfl⟩
@[simp] theorem wake_mb (c : Ctx) : (wake c).mb = c.mb := by
  obtain ⟨_, _, _, _, h⟩ := wake_eq c
  rw [h]
@[simp] theorem wake_sends (c : Ctx) : (wake c).sends = c.sends := by
  obtain ⟨_, _, _, _, h⟩ := wake_eq c
  rw [h]
@[simp] theorem wake_claim (c : Ctx) : (wake c).claim = c.claim := by
  obtain ⟨_, _, _, _, h⟩ := wake_eq c
  rw [h]

/-- A context with the answers given to its held bundle. -/
def Ctx.withAnswers (c : Ctx) (as : List Answer) : Ctx := { c with answered := as }

section
variable {s : State} {n : Nat} {w : Wait}

theorem wake_awaits (h : Awaits s n w) : wake (ctxOf s n) = rejoined (ctxOf s n) := wake_parked h.parked h.outside h.claimed
/-- An answer that a context has received does not change whether it wakes. -/
theorem wake_answered (h : Awaits s n w) (as : List Answer) :
    wake ((ctxOf s n).withAnswers as) = rejoined ((ctxOf s n).withAnswers as) :=
  wake_parked (c := (ctxOf s n).withAnswers as) h.parked h.outside h.claimed

/-- R208: a context that rejoins rotation runs its held bundle again. -/
theorem rerun_rejoined {c : Ctx} {b : Bundle} (hb : c.held = some b) (hr : c.refetch = false) (hd : (spinAt s (n / 16)).dead = false) :
    rerun (setCtx s n (rejoined c)) n = (issueBundle (setCtx s n (rejoined c)) n b).2 := by
  have hi : issues (setCtx s n (rejoined c)) n = true := by
    simp [issues, mayIssue, rejoined, spindleOf, hd]
  unfold rerun
  simp [rejoined, hb, hr] at hi ⊢
  simp [hi]

@[simp] theorem ctxOf_setWants (k : Nat) (ls : List Nat) (m : Nat) : ctxOf (setWants s k ls) m = ctxOf s m := rfl
@[simp] theorem spinAt_setWants (k : Nat) (ls : List Nat) (m : Nat) : spinAt (setWants s k ls) m = spinAt s m := rfl
@[simp] theorem ctxOf_serveFar (m : Nat) : ctxOf (serveFar s n) m = ctxOf s m := by
  unfold serveFar
  split <;> rfl
@[simp] theorem spinAt_serveFar (m : Nat) : spinAt (serveFar s n) m = spinAt s m := by
  unfold serveFar
  split <;> rfl

/-! ## Answers of the home and of the KV walker (R208, R337) -/

/-- The context of a held bundle, its answer received, wakes and runs the bundle again. -/
theorem rerun_answered {u : State} {b : Bundle} (h : Awaits s n w) (hu : ctxOf u n = ctxOf s n) (hk : (ctxOf s n).held = some b)
    (hr : (ctxOf s n).refetch = false) (hd : (spinAt u (n / 16)).dead = false) (f : List Answer → List Answer) :
    rerun (modCtx u n fun c => wake (c.withAnswers (f c.answered))) n =
      (issueBundle (setCtx u n (rejoined ((ctxOf s n).withAnswers (f (ctxOf s n).answered)))) n b).2 := by
  have hw : modCtx u n (fun c => wake (c.withAnswers (f c.answered))) =
      setCtx u n (rejoined ((ctxOf s n).withAnswers (f (ctxOf s n).answered))) := by
    rw [modCtx, hu, wake_answered h]
  rw [hw]
  exact rerun_rejoined (c := (ctxOf s n).withAnswers _) hk hr hd

/-- R208: the home answers; the bundle's next wait tells whether lines that it asked for have been refused. -/
theorem exec_homeAnswer {b : Bundle} {ls : List Nat} (h : Awaits s n (.home ls)) (hk : (ctxOf s n).held = some b)
    (hr : (ctxOf s n).refetch = false) (hd : (spinAt s (n / 16)).dead = false) {t : State}
    (ht : t = (issueBundle (setCtx (setWants (serveFar s n) n []) n
      (rejoined ((ctxOf s n).withAnswers (.home :: (ctxOf s n).answered.filter (· != .home))))) n b).2) :
    ((∃ ms, (ctxOf t n).wait = .home ms) → exec (.homeAnswer n) s = .next t) ∧
    ((∀ ms, (ctxOf t n).wait ≠ .home ms) → exec (.homeAnswer n) s = .next (dropRefused t n ls)) := by
  have hrun := rerun_answered (u := setWants (serveFar s n) n []) h (by simp) hk hr (by simpa using hd)
    fun as => .home :: as.filter (· != .home)
  have hx : exec (.homeAnswer n) s = execHomeAnswer n s := rfl
  unfold execHomeAnswer at hx
  rw [h.waits] at hx
  have hx' := hx.trans (congrArg Host.Outcome.next (congrArg (fun t => match (ctxOf t n).wait with | .home _ => t | _ => dropRefused t n ls)
    (hrun.trans ht.symm)))
  refine ⟨fun ⟨ms, hm⟩ => hx'.trans (by rw [hm]), fun hm => hx'.trans (congrArg _ ?_)⟩
  cases hw : (ctxOf t n).wait
  case home ms => exact absurd hw (hm ms)
  all_goals rfl

/-- R340: the home answers once no lease of the range is out. -/
theorem exec_homeAnswer_leases {b : Bundle} {a lo hi k : Nat} (h : Awaits s n (.leases a lo hi k)) (hk : (ctxOf s n).held = some b)
    (hr : (ctxOf s n).refetch = false) (hd : (spinAt s (n / 16)).dead = false) :
    (leasesOut s (partOfCtx s n) a lo hi k = true → exec (.homeAnswer n) s = .next s) ∧
    (leasesOut s (partOfCtx s n) a lo hi k = false → exec (.homeAnswer n) s = .next (issueBundle (setCtx s n
      (rejoined ((ctxOf s n).withAnswers (.home :: (ctxOf s n).answered.filter (· != .home))))) n b).2) := by
  have hrun := rerun_answered h rfl hk hr hd fun as => .home :: as.filter (· != .home)
  have hx : exec (.homeAnswer n) s = execHomeAnswer n s := rfl
  unfold execHomeAnswer at hx
  rw [h.waits] at hx
  exact ⟨fun hl => hx.trans (congrArg _ (if_pos hl)),
    fun hl => hx.trans (congrArg _ ((if_neg (by simp [hl])).trans hrun))⟩

theorem exec_kvWalkAnswer {b : Bundle} (h : Awaits s n .kv) (hk : (ctxOf s n).held = some b) (hr : (ctxOf s n).refetch = false)
    (hd : (spinAt s (n / 16)).dead = false) :
    exec (.kvWalkAnswer n) s = .next (issueBundle
      (setCtx (setWants s n []) n (rejoined ((ctxOf s n).withAnswers (.kv :: (ctxOf s n).answered)))) n b).2 :=
  congrArg Host.Outcome.next ((if_pos h.waits).trans (rerun_answered (u := setWants s n []) h rfl hk hr hd fun as => .kv :: as))

/-! ## Answers of a peer and of the Chuck, and a deadline (R271, R281, R294) -/

theorem exec_peerSpindleAnswer (h : Awaits s n .peer) :
    exec (.peerSpindleAnswer n) s = .next (setCtx s n (rejoined ((ctxOf s n).withAnswers (.peer :: (ctxOf s n).answered)))) :=
  congrArg (fun c => Host.Outcome.next (setCtx s n c)) ((if_pos h.waits).trans (wake_answered h _))

theorem exec_chuckAnswer (h : Awaits s n .chuck) :
    exec (.chuckAnswer n) s = .next (setCtx (setWants s n []) n
      (rejoined ((ctxOf s n).withAnswers (.chuck :: (ctxOf s n).answered.filter (· != .chuck))))) :=
  congrArg (fun c => Host.Outcome.next (setCtx (setWants s n []) n c)) ((if_pos h.waits).trans (wake_answered h _))

theorem exec_sleepDeadline {m d : Nat} (h : Awaits s n (.mailbox m (some d))) (hd : d ≤ s.time) :
    exec (.sleepDeadline n) s = .next (setCtx s n (rejoined (ctxOf s n))) := by
  have hx : exec (.sleepDeadline n) s = execSleepDeadline n s := rfl
  unfold execSleepDeadline at hx
  rw [h.waits] at hx
  exact hx.trans (congrArg _ ((if_pos hd).trans (congrArg (setCtx s n) (wake_awaits h))))

/-! ## A task starts (R290) -/

theorem exec_taskTake {sp : Nat} {pl : TaskPlace} {k : Task} (hd : (spinAt s (n / 16)).dead = false) (hp : (ctxOf s n).phase = .parked)
    (hi : (ctxOf s n).idle = .idle) (hf : findTask s n true = .found sp pl k) :
    exec (.taskTake n) s = .next (modCtx (removeTask (setWants s n []) n sp pl) n fun c => startTask c k) := by
  change execTaskTake n s = _
  simp [execTaskTake, spindleOf, hd, hp, hi, hf]

/-- R290: the registers of a context that has started a task. -/
theorem getX_startTask (c : Ctx) (k : Task) : getX (startTask c k) 1 = k.arg ∧ getX (startTask c k) 2 = k.cnt ∧
    getX (startTask c k) 3 = c.taskn ∧ getX (startTask c k) 4 = 0 := by
  simp [getX, startTask, putX]

/-! ## Claims (R258, R259) -/

/-- R259: the claim of a context may lose lanes and be asked back, but keeps its phase and its bounds. -/
def SameTerms (s t : State) : Prop := ∀ n k, (ctxOf s n).claim = some k → ∃ x, (ctxOf t n).claim = some x ∧ x.phase = k.phase ∧ x.floor = k.floor ∧ x.ceil = k.ceil

theorem SameTerms.refl (s : State) : SameTerms s s := fun _ k h => ⟨k, h, rfl, rfl, rfl⟩
theorem SameTerms.trans {s t u : State} (h : SameTerms s t) (h' : SameTerms t u) : SameTerms s u := by
  intro n k hk
  obtain ⟨x, hx, hp, hf, hc⟩ := h n k hk
  obtain ⟨y, hy, hp', hf', hc'⟩ := h' n x hx
  exact ⟨y, hy, hp'.trans hp, hf'.trans hf, hc'.trans hc⟩
/-- A context's claim exchanged for one of the same terms. -/
theorem SameTerms.setCtx {n : Nat} {k : Claim} (hk : (ctxOf s n).claim = some k) {c : Ctx} {x : Claim} (hx : c.claim = some x)
    (hp : x.phase = k.phase) (hf : x.floor = k.floor) (hc : x.ceil = k.ceil) : SameTerms s (setCtx s n c) := by
  intro m j hj
  by_cases h : m = n
  · subst h
    obtain rfl : k = j := Option.some.inj (hk.symm.trans hj)
    exact ⟨x, by simpa using hx, hp, hf, hc⟩
  · exact ⟨j, by simpa [ctxOf_setCtx_other s h] using hj, rfl, rfl, rfl⟩

theorem shrinkTo_claim {c : Ctx} {k : Claim} (hk : c.claim = some k) (lanes : Nat) :
    (shrinkTo c lanes).claim = some { k with lanes := lanes, reclaim := false, kept := 0 } := by simp only [shrinkTo, hk]

theorem claimReady_terms (s : State) (t : Nat) : SameTerms s (claimReady s t) := by
  unfold claimReady
  split
  · split <;> exact SameTerms.refl s
  · exact SameTerms.refl s
theorem applyReclaim_terms (s : State) (n : Nat) : SameTerms s (applyReclaim s n) := by
  unfold applyReclaim
  dsimp only
  split
  case h_1 k hk =>
    split
    · refine SameTerms.trans ?_ (claimReady_terms _ _)
      exact SameTerms.setCtx hk (shrinkTo_claim hk _) rfl rfl rfl
    · exact SameTerms.refl s
  case h_2 => exact SameTerms.refl s
theorem reclaimFrom_terms (s : State) (n : Nat) : SameTerms s (reclaimFrom s n) := by
  unfold reclaimFrom
  dsimp only
  split
  case h_1 k hk =>
    have hr : SameTerms s (setCtx s n { ctxOf s n with claim := some { k with reclaim := true } }) := SameTerms.setCtx hk rfl rfl rfl rfl
    split
    · split
      · exact hr
      · exact hr.trans (applyReclaim_terms _ n)
    · exact SameTerms.refl s
  case h_2 => exact SameTerms.refl s
/-- R258, R259: settling a tile's claims keeps the terms of every claim. -/
theorem settleClaims_terms (s : State) (t : Nat) : SameTerms s (settleClaims s t) := by
  refine SameTerms.trans ?_ (claimReady_terms _ t)
  generalize tileClaims s t = es
  induction es generalizing s with
  | nil => exact SameTerms.refl s
  | cons e es ih => exact (reclaimFrom_terms s e.1).trans (ih _)

/-- R258: the context of a claim that is granted. -/
def granted (s : State) (n : Nat) (k : Claim) : Ctx :=
  let c := setLanes (ctxOf s n) k (grantLanes s n k)
  if c.wait = .claim then wake (c.withAnswers (.claim :: c.answered)) else c
theorem granted_claim (s : State) (n : Nat) (k : Claim) :
    (granted s n k).claim = some { k with phase := .held, lanes := grantLanes s n k, kept := 0 } := by
  unfold granted
  dsimp only
  split
  · rw [wake_claim]
    rfl
  · rfl

/-- R258: the oldest waiting claim is granted when the free lanes reach its floor. -/
theorem exec_claimGrant {k : Claim} (ho : oldestWaiter s (n / 128) = some (n, k)) (hf : k.floor ≤ k.lanes + freeLanes s (n / 128)) :
    exec (.claimGrant n) s =
      .next (settleClaims (modCtx (setCtx s n (setLanes (ctxOf s n) k (grantLanes s n k))) n fun c =>
        if c.wait = .claim then wake (c.withAnswers (.claim :: c.answered)) else c) (n / 128)) := by
  have hx : exec (.claimGrant n) s = execClaimGrant n s := rfl
  unfold execClaimGrant at hx
  rw [show oldestWaiter s (tileOf n) = some (n, k) from ho] at hx
  exact hx.trans (congrArg _ (if_pos ⟨rfl, hf⟩))

/-- R258: a claim that is granted is held, with its bounds as they were. -/
theorem claimGrant_holds {k : Claim} (ho : oldestWaiter s (n / 128) = some (n, k)) (hf : k.floor ≤ k.lanes + freeLanes s (n / 128)) :
    ∃ t x, exec (.claimGrant n) s = .next t ∧ (ctxOf t n).claim = some x ∧ x.phase = .held ∧ x.floor = k.floor ∧ x.ceil = k.ceil := by
  obtain ⟨x, hx, hp, hfl, hc⟩ := settleClaims_terms (modCtx (setCtx s n (setLanes (ctxOf s n) k (grantLanes s n k))) n fun c =>
    if c.wait = .claim then wake (c.withAnswers (.claim :: c.answered)) else c) (n / 128) n
    { k with phase := .held, lanes := grantLanes s n k, kept := 0 } (by
      rw [ctxOf_modCtx_same, ctxOf_setCtx_same]
      exact granted_claim s n k)
  exact ⟨_, x, exec_claimGrant ho hf, hx, hp, hfl, hc⟩

/-! ## Monitors (R328) -/

/-- The waiters of a slice's monitor on an entry wake, one after the other. -/
def wakeWaiters (sl ea : Nat) (s : State) (ns : List Nat) : State :=
  ns.foldl (fun s n => modCtx s n fun c => if c.wait = .monitor sl ea then wake c else c) s

theorem wakeWaiters_eq (sl ea : Nat) (s : State) (ns : List Nat) : ∃ cs, wakeWaiters sl ea s ns = { s with ctxs := cs } := by
  induction ns generalizing s with
  | nil => exact ⟨_, rfl⟩
  | cons m ns ih =>
    obtain ⟨cs, h⟩ := ih (modCtx s m fun c => if c.wait = .monitor sl ea then wake c else c)
    exact ⟨cs, h⟩
/-- A context that does not await the monitor stays as it is. -/
theorem wakeWaiters_skip {sl ea : Nat} {s : State} {n : Nat} (h : (ctxOf s n).wait ≠ .monitor sl ea) (ns : List Nat) :
    ctxOf (wakeWaiters sl ea s ns) n = ctxOf s n := by
  induction ns generalizing s with
  | nil => rfl
  | cons m ns ih =>
    have hm : ctxOf (modCtx s m fun c => if c.wait = .monitor sl ea then wake c else c) n = ctxOf s n := by
      rw [ctxOf_modCtx]
      split
      case isTrue hn =>
        subst hn
        rw [if_neg h]
      case isFalse => rfl
    exact (ih (hm ▸ h)).trans hm
/-- A waiter that awaits the monitor rejoins rotation, once. -/
theorem wakeWaiters_waiter {sl ea : Nat} {s : State} {n : Nat} (h : Awaits s n (.monitor sl ea)) {ns : List Nat} (hn : n ∈ ns) :
    ctxOf (wakeWaiters sl ea s ns) n = rejoined (ctxOf s n) := by
  induction ns generalizing s with
  | nil => cases hn
  | cons m ns ih =>
    by_cases hm : n = m
    · subst hm
      have hw : ctxOf (modCtx s n fun c => if c.wait = .monitor sl ea then wake c else c) n = rejoined (ctxOf s n) := by
        rw [ctxOf_modCtx_same, if_pos h.waits, wake_awaits h]
      exact (wakeWaiters_skip (by rw [hw]; exact Wait.noConfusion) ns).trans hw
    · have ho : ctxOf (modCtx s m fun c => if c.wait = .monitor sl ea then wake c else c) n = ctxOf s n := ctxOf_modCtx_other s hm _
      have ha : Awaits (modCtx s m fun c => if c.wait = .monitor sl ea then wake c else c) n (.monitor sl ea) :=
        ⟨ho ▸ h.parked, ho ▸ h.waits, ho ▸ h.outside, ho ▸ h.claimed⟩
      exact (ih ha (List.mem_of_ne_of_mem hm hn)).trans (congrArg rejoined ho)

theorem smFind_map_values {α β : Type} (f : α → β) (m : SMap α) (n : Nat) :
    smFind (m.map fun e => (e.1, f e.2)) n = (smFind m n).map f := by
  induction m with
  | nil => rfl
  | cons e m ih =>
    simp only [List.map_cons, smFind]
    split
    · rfl
    · exact ih

/-- R326: a slice without the cached entries that were read from a line. -/
def Slice.withoutLine (line : Nat) (x : Slice) : Slice :=
  { x with tcache := x.tcache.filter fun t => t.tableLine != line, kcache := x.kcache.filter fun k => !k.lines.contains line }
/-- R326: dropping cached entries leaves the monitors of every slice. -/
theorem dropReadFrom_monitors (s : State) (line k : Nat) : (sliceAt (dropReadFrom s line) k).monitors = (sliceAt s k).monitors := by
  change ((smFind (s.slices.map fun e => (e.1, Slice.withoutLine line e.2)) k).getD {}).monitors = ((smFind s.slices k).getD {}).monitors
  rw [smFind_map_values]
  cases smFind s.slices k <;> rfl

/-- R328: a usable entry ends the monitors on it and wakes the contexts that await them. -/
theorem exec_monitorWake {sl ea : Nat} {m : Monitor} (hm : m ∈ (sliceAt s sl).monitors) (he : m.ea = ea) (hu : entryUsable s m = true)
    (hn : n ∈ m.waiters) (h : Awaits s n (.monitor sl ea)) : ∃ t, exec (.monitorWake sl ea) s = .next t ∧
      m ∉ (sliceAt t sl).monitors ∧ ctxOf t n = rejoined (ctxOf s n) ∧ t.mem = s.mem := by
  have hx : exec (.monitorWake sl ea) s = .next (wakeMonitors s sl ea) := rfl
  unfold wakeMonitors at hx
  dsimp only at hx
  generalize hms : ((sliceAt s sl).monitors.filter fun m => m.ea == ea && entryUsable s m) = ms at hx
  have hmem : m ∈ ms := by simp [← hms, hm, he, hu]
  rw [if_neg (List.ne_nil_of_mem hmem)] at hx
  generalize hu0 : modSlice s sl (fun x => { x with monitors := x.monitors.filter fun m => !ms.contains m }) = u at hx
  have hctx : ∀ k, ctxOf u k = ctxOf s k := by simp [← hu0]
  have ha : Awaits u n (.monitor sl ea) := ⟨hctx n ▸ h.parked, hctx n ▸ h.waits, hctx n ▸ h.outside, hctx n ▸ h.claimed⟩
  obtain ⟨cs, hw⟩ := wakeWaiters_eq sl ea u (ms.flatMap (·.waiters))
  refine ⟨_, hx, ?_, ?_, ?_⟩
  · rw [dropReadFrom_monitors]
    change m ∉ (sliceAt (wakeWaiters sl ea u (ms.flatMap (·.waiters))) sl).monitors
    rw [hw]
    change m ∉ (sliceAt u sl).monitors
    simp [← hu0, hmem]
  · exact (wakeWaiters_waiter ha (List.mem_flatMap.2 ⟨m, hmem, hn⟩)).trans (congrArg rejoined (hctx n))
  · change (wakeWaiters sl ea u (ms.flatMap (·.waiters))).mem = s.mem
    rw [hw, ← hu0]
    rfl

end

/-! ## Messages (R297, R298) -/

theorem wakeMail_mb (c : Ctx) (k : Nat) : (wakeMail c k).mb = c.mb := by
  unfold wakeMail
  split
  · split
    · exact wake_mb c
    · rfl
  · rfl
theorem wakeMail_sends (c : Ctx) (k : Nat) : (wakeMail c k).sends = c.sends := by
  unfold wakeMail
  split
  · split
    · exact wake_sends c
    · rfl
  · rfl
theorem getMb_putMb (c : Ctx) (k : Nat) (b : Mailbox) : getMb (putMb c k b) k = b := smGet_smSet_same ..
theorem getMb_wakeMail (c : Ctx) (j k : Nat) : getMb (wakeMail c j) k = getMb c k := congrArg (smGet Mailbox.none · k) (wakeMail_mb c j)

theorem deliverMsg_free {s : State} {f : Flight} (h : (ctxOf s f.dst).phase = .free) : deliverMsg s f = (s, 6) := by
  simp only [deliverMsg, h]
theorem deliverMsg_reaped {s : State} {f : Flight} (h : (ctxOf s f.dst).phase = .reaped) : deliverMsg s f = (s, 5) := by
  simp only [deliverMsg, h]
/-- R297: a message to a context that takes messages is refused when its mailbox is full, and enters it otherwise. -/
theorem deliverMsg_other {s : State} {f : Flight} (h : (ctxOf s f.dst).phase ∉ ([.free, .reaped] : List Phase)) :
    deliverMsg s f =
      if 64 ≤ (getMb (ctxOf s f.dst) f.mb).msgs.length then (s, 1)
      else (setCtx s f.dst (wakeMail (putMb (ctxOf s f.dst) f.mb
        { getMb (ctxOf s f.dst) f.mb with msgs := (getMb (ctxOf s f.dst) f.mb).msgs ++ [⟨f.p0, f.p1, f.src⟩] }) f.mb), 0) := by
  unfold deliverMsg
  cases hp : (ctxOf s f.dst).phase
  case free => simp [hp] at h
  case reaped => simp [hp] at h
  all_goals simp only [hp]

theorem exec_messageArrive {s : State} {n i : Nat} {f : Flight} (ha : arrivable s.flights n = [i]) (hf : s.flights[i]? = some f)
    (ho : f.orphan = false) {u : State} {st : Nat} (hd : deliverMsg { s with freeCount := s.freeCount + 1 } f = (u, st)) :
    exec (.messageArrive n) s = .next { u with flights := u.flights.set i { f with answer := some st } } := by
  have hx : exec (.messageArrive n) s = execMessageArrive n s := rfl
  simpa [execMessageArrive, ha, Nat.mod_one, hf, hd, ho] using hx

/-- R297: a message arrives: it is refused, or enters its mailbox. -/
theorem message_arrives {s : State} {n i : Nat} {f : Flight} (ha : arrivable s.flights n = [i]) (hf : s.flights[i]? = some f)
    (ho : f.orphan = false) : ∃ t st,
    exec (.messageArrive n) s = .next t ∧ t.flights = s.flights.set i { f with answer := some st } ∧
    ((ctxOf s f.dst).phase = .free → st = 6 ∧ t.ctxs = s.ctxs) ∧ ((ctxOf s f.dst).phase = .reaped → st = 5 ∧ t.ctxs = s.ctxs) ∧
    ((ctxOf s f.dst).phase ∉ ([.free, .reaped] : List Phase) →
      (64 ≤ (getMb (ctxOf s f.dst) f.mb).msgs.length → st = 1 ∧ t.ctxs = s.ctxs) ∧
      ((getMb (ctxOf s f.dst) f.mb).msgs.length < 64 → st = 0 ∧
        (getMb (ctxOf t f.dst) f.mb).msgs = (getMb (ctxOf s f.dst) f.mb).msgs ++ [⟨f.p0, f.p1, f.src⟩] ∧ otherContexts f.dst s t)) := by
  by_cases hfree : (ctxOf s f.dst).phase = .free
  · refine ⟨_, _, exec_messageArrive ha hf ho (deliverMsg_free hfree), rfl, ?_⟩
    simp [hfree]
  by_cases hreaped : (ctxOf s f.dst).phase = .reaped
  · refine ⟨_, _, exec_messageArrive ha hf ho (deliverMsg_reaped hreaped), rfl, ?_⟩
    simp [hreaped]
  have hp : (ctxOf s f.dst).phase ∉ ([.free, .reaped] : List Phase) := by simp [hfree, hreaped]
  have hd := deliverMsg_other (s := { s with freeCount := s.freeCount + 1 }) hp
  by_cases hl : 64 ≤ (getMb (ctxOf s f.dst) f.mb).msgs.length
  · exact ⟨_, _, exec_messageArrive ha hf ho (hd.trans (if_pos hl)), rfl, fun h => absurd h hfree, fun h => absurd h hreaped,
      fun _ => ⟨fun _ => ⟨rfl, rfl⟩, fun h => absurd hl (Nat.not_le_of_lt h)⟩⟩
  · refine ⟨_, _, exec_messageArrive ha hf ho (hd.trans (if_neg hl)), rfl, fun h => absurd h hfree, fun h => absurd h hreaped,
      fun _ => ⟨fun h => absurd h hl, fun _ => ⟨rfl, ?_, fun j hj => ctxOf_setCtx_other _ hj _⟩⟩⟩
    refine (congrArg (fun c => (getMb c f.mb).msgs) (ctxOf_setCtx_same _ _ _)).trans ?_
    rw [getMb_wakeMail, getMb_putMb]
    rfl

/-- R298: the answer of the one flight under way returns to its sender. -/
theorem exec_amsendAnswer {s : State} {f : Flight} {st : Nat} (hf : s.flights = [f]) (ha : f.answer = some st)
    (hr : answerable s f = true) :
    exec (.amsendAnswer f.src) s = .next (answerSender { s with flights := [], freeCount := s.freeCount + 1 } f st) := by
  have hx : exec (.amsendAnswer f.src) s = execAmsendAnswer f.src s := rfl
  simpa [execAmsendAnswer, hf, hr, ha, Nat.mod_one] using hx

/-- R298: the sender of a flight that does not wait after its answer: one send less, and the refusal, if it is one, queued. -/
theorem answered_sender (c : Ctx) (f : Flight) (st : Nat) :
    let d := { c with sends := c.sends - 1 }
    let e := if st = 0 then d else wakeMail (putMb d f.rmb
      { getMb d f.rmb with refs := (getMb d f.rmb).refs ++ [⟨f.p0, f.p1, f.dst, st⟩] }) f.rmb
    let r := if e.wait = .answer then wake e else e
    r.sends = c.sends - 1 ∧
      (getMb r f.rmb).refs = (getMb c f.rmb).refs ++ (if st = 0 then [] else [⟨f.p0, f.p1, f.dst, st⟩]) := by
  intro d e r
  have hr : r.sends = e.sends ∧ getMb r f.rmb = getMb e f.rmb := by
    by_cases hw : e.wait = .answer
    · simp only [r, if_pos hw, wake_sends, getMb, wake_mb, and_self]
    · simp only [r, if_neg hw, and_self]
  obtain ⟨hs, hm⟩ := hr
  rw [hs, hm]
  by_cases h0 : st = 0
  · simp only [e, if_pos h0, List.append_nil]
    exact ⟨rfl, rfl⟩
  · simp only [e, if_neg h0, getMb_wakeMail, getMb_putMb, wakeMail_sends]
    exact ⟨rfl, rfl⟩

/-- R298: the answer of the one flight under way wakes the sender that waits for it, or leaves a refusal in its mailbox. -/
theorem answer_returns {s : State} {f : Flight} {st : Nat} (hf : s.flights = [f]) (ha : f.answer = some st)
    (hlag : smGet [] s.lag f.dst = []) (hroom : f.waiting = true ∨ st = 0 ∨ (getMb (ctxOf s f.src) f.rmb).refs.length < 16) :
    ∃ t, exec (.amsendAnswer f.src) s = .next t ∧ t.flights = [] ∧ otherContexts f.src s t ∧
    (f.waiting = true → Awaits s f.src .answer →
      ctxOf t f.src = rejoined { ctxOf s f.src with answered := .message st :: (ctxOf s f.src).answered }) ∧
    (f.waiting = false → (ctxOf t f.src).sends = (ctxOf s f.src).sends - 1 ∧
      (getMb (ctxOf t f.src) f.rmb).refs = (getMb (ctxOf s f.src) f.rmb).refs ++ (if st = 0 then [] else [⟨f.p0, f.p1, f.dst, st⟩])) := by
  have hr : answerable s f = true := by
    simp only [answerable, ha, hlag, Bool.and_eq_true, Bool.or_eq_true, decide_eq_true_eq, beq_iff_eq, or_assoc]
    exact ⟨trivial, hroom⟩
  refine ⟨_, exec_amsendAnswer hf ha hr, rfl, fun j hj => ctxOf_modCtx_other _ hj _, fun hw haw => ?_, fun hw => ?_⟩
  · refine (ctxOf_modCtx_same _ _ _).trans ?_
    exact (if_pos hw).trans ((if_pos haw.waits).trans (wake_answered haw _))
  · rw [answerSender, ctxOf_modCtx_same, if_neg (by simp [hw])]
    exact answered_sender (ctxOf s f.src) f st

/-! ## `.sc` announcements (R182, R183) -/

/-- R183: the first announced event takes effect 10 ns after it was sent. -/
theorem sc_arrives {s : State} {e : ScEvent} (he : scFirst s.scOut = some e) (ht : e.sent + 10 ≤ s.time) : ∃ t,
    exec .scAnnounceArrive s = .next t ∧ t.scOut = s.scOut.erase e ∧ t.scOrder = s.scOrder ++ [e] ∧
    (∀ n, e.ctx = some n → (ctxOf t n).scOut = (ctxOf s n).scOut - 1) := by
  have hx : exec .scAnnounceArrive s = execScAnnounceArrive s := rfl
  unfold execScAnnounceArrive at hx
  rw [he] at hx
  have hx' := hx.trans (congrArg _ (if_neg (Nat.not_lt_of_le ht)))
  cases hc : e.ctx with
  | none =>
    simp only [hc] at hx'
    exact ⟨_, hx', rfl, rfl, fun n h => nomatch h⟩
  | some n =>
    simp only [hc] at hx'
    refine ⟨_, hx', rfl, rfl, fun m hm => ?_⟩
    obtain rfl := Option.some.inj hm
    rw [ctxOf_modCtx_same]
    rfl

/-- Settles O48: each event by what it does to the context that waits for it. -/
theorem answerEvents : Obligations.AnswerEvents := by
  refine ⟨fun s n b hb hd hr => ⟨fun ls t h ht => exec_homeAnswer h hb hr hd ht, fun a lo hi k h => exec_homeAnswer_leases h hb hr hd,
      fun h => exec_kvWalkAnswer h hb hr hd⟩,
    fun s n => ⟨exec_peerSpindleAnswer, exec_chuckAnswer, fun m d => exec_sleepDeadline, ?_⟩,
    fun s n k => claimGrant_holds, ?_, fun s n i f => message_arrives, fun s f st => answer_returns, fun s e => sc_arrives⟩
  · rintro sp pl k u hd hp hi hf rfl
    obtain ⟨h1, h2, h3, h4⟩ := getX_startTask (ctxOf (removeTask (setWants s n []) n sp pl) n) k
    refine ⟨_, exec_taskTake hd hp hi hf, ?_⟩
    rw [ctxOf_modCtx_same]
    exact ⟨rfl, rfl, rfl, h1, h2, h3, h4, fun j hj => ctxOf_modCtx_other _ hj _⟩
  · intro s sl ea m n hm he h0 h1 hn ha
    refine exec_monitorWake hm he ?_ hn ha
    subst he
    by_cases hk : m.kind = 3
    · simp [entryUsable, bit_eq_testBit, h0, hk, h1 hk]
    · simp [entryUsable, bit_eq_testBit, h0, hk]

end Sys2Proof.Machine
end

section
/-! PROOF. O52: the operations over Learo on contexts (R380, R400, R401). -/
namespace Sys2Proof.Machine
open Sys2Proof.Safety

variable {s : State} {n : Nat}

/-! ## Who may be a target (R401) -/

theorem onTarget_refused (hs : isSealed s n = false) (hd : (spinAt s (n / 16)).dead = false) {st : Nat}
    (ht : targetStatus (ctxOf s n) = st) (h0 : st ≠ 0) (k : State → State) : onTarget s n k = reply s (.status st) := by
  simp [onTarget, hs, ctxLost, spindleOf, hd, ht, h0]
theorem onTarget_admitted (hs : isSealed s n = false) (hd : (spinAt s (n / 16)).dead = false)
    (ht : targetStatus (ctxOf s n) = 0) (k : State → State) : onTarget s n k = k s := by
  simp [onTarget, hs, ctxLost, spindleOf, hd, ht]

theorem targetStatus_live {c : Ctx} (h : c.phase = .live) : targetStatus c = 0 := by simp [targetStatus, h]
theorem targetStatus_saved {c : Ctx} (h : c.phase = .saved) : targetStatus c = 0 := by simp [targetStatus, h]
theorem targetStatus_stopped {c : Ctx} (h : c.phase = .parked ∨ c.phase = .inService) : targetStatus c = 0 := by
  rcases h with h | h <;> simp [targetStatus, h]
theorem targetStatus_other {c : Ctx} (h : c.phase ∉ ([.free, .reaped] : List Phase)) : targetStatus c = 0 := by
  cases hp : c.phase <;> simp_all [targetStatus]
/-- R378, R387: a context that PARK or a nested fault keeps is parked. -/
theorem byPark_parked {c : Ctx} (h : c.byPark = true) : c.phase = .parked := by
  simp only [Ctx.byPark, Bool.and_eq_true, beq_iff_eq] at h
  exact h.1
theorem byNested_parked {c : Ctx} (h : c.byNested = true) : c.phase = .parked := by
  simp only [Ctx.byNested, Bool.and_eq_true, beq_iff_eq] at h
  exact h.1

theorem exec_learoKill (hd : (spinAt s (n / 16)).dead = false) :
    exec (.learoKill n) s = .next (onTarget s n fun s => reply (killTarget s n) (.status 0)) :=
  congrArg Host.Outcome.next (if_neg (by simp [ctxLost, spindleOf, hd]))

/-- R401: an operation on a context that is free or reaped is answered with its status. -/
theorem learo_absent (hs : isSealed s n = false) (hd : (spinAt s (n / 16)).dead = false) {st : Nat}
    (ht : targetStatus (ctxOf s n) = st) (h0 : st ≠ 0) (a : Word) :
    ∀ i ∈ ([.learoHalt n, .learoKill n, .learoMsg n a, .learoSwap n a, .learoResume n, .learoStep n] : List Instr),
      exec i s = .next (reply s (.status st)) := by
  have h := onTarget_refused hs hd ht h0
  simp only [List.forall_mem_cons]
  exact ⟨congrArg _ (h _), (exec_learoKill hd).trans (congrArg _ (h _)), congrArg _ (h _), congrArg _ (h _), congrArg _ (h _),
    congrArg _ (h _), List.forall_mem_nil _⟩


theorem resumable_stopped {c : Ctx} (hl : c.phase ≠ .live) (h : c.halted = true ∨ c.byPark = true) : resumable c = true := by
  rcases h with h | h <;> simp [resumable, hl, h]
theorem steppable_halted {c : Ctx} (hl : c.phase ≠ .live) (hh : c.halted = true) (hk : c.byPark = false) (hb : c.byNested = false) :
    steppable c = true := by
  simp [steppable, resumable_stopped hl (.inl hh), hk, hb]
theorem resumable_running {c : Ctx} (hh : c.halted = false) (hk : c.byPark = false) : resumable c = false := by
  simp [resumable, hh, hk]
theorem steppable_running {c : Ctx} (hh : c.halted = false) (hk : c.byPark = false) : steppable c = false := by
  simp [steppable, resumable_running hh hk]
/-- R378, R387: STEP does not act on a context that PARK or a nested fault keeps parked. -/
theorem steppable_kept {c : Ctx} (h : c.byPark = true ∨ c.byNested = true) : steppable c = false := by
  rcases h with h | h <;> simp [steppable, h]

/-! ## Requests (R261, R380) -/

/-- R261: a request at a live context waits for its next bundle boundary. -/
theorem raiseReq_live (hl : (ctxOf s n).phase = .live) (hr : (ctxOf s n).reqs = []) (r : Req) :
    raiseReq s n r = setCtx s n { ctxOf s n with reqs := [r] } := by
  simp [raiseReq, serveAbsent, modCtx, hl, hr]

/-! ## RESUME and STEP (R401, R387) -/

/-- R381: writing x1 to x8 from the service bank leaves the requests and the claim. -/
theorem foldl_putX_requests (f : Nat → Word) (is : List Nat) (c : Ctx) :
    (is.foldl (fun c i => putX c (i + 1) (f i)) c).reqs = c.reqs ∧ (is.foldl (fun c i => putX c (i + 1) (f i)) c).claim = c.claim := by
  induction is generalizing c with
  | nil => exact ⟨rfl, rfl⟩
  | cons i is ih => exact ⟨(ih _).1.trans rfl, (ih _).2.trans rfl⟩
theorem exchange_requests (c : Ctx) : (exchange c).reqs = c.reqs ∧ (exchange c).claim = c.claim := by
  have h := foldl_putX_requests (fun i => c.bank.x.getD i 0) (List.range 8) c
  unfold exchange
  dsimp only
  exact h
/-- R383: a return from service leaves the requests and the claim of a context. -/
theorem returnCtx_requests (c : Ctx) (exch : Bool) : (returnCtx c exch).reqs = c.reqs ∧ (returnCtx c exch).claim = c.claim := by
  have hx : (if exch = true then exchange c else c).reqs = c.reqs ∧ (if exch = true then exchange c else c).claim = c.claim := by
    cases exch
    · exact ⟨rfl, rfl⟩
    · rw [if_pos rfl]
      exact exchange_requests c
  unfold returnCtx
  generalize (if exch = true then exchange c else c) = d at hx ⊢
  exact hx

/-- A context whose rotation gives one bundle, or goes on. -/
def Ctx.stepping (c : Ctx) (step : Bool) : Ctx := { c with step := step }
theorem hasRequest_stepping (c : Ctx) (step : Bool) : hasRequest (c.stepping step) = hasRequest c := rfl

/-- R401: a context that has nothing pending resumes as `rfs` returns, after PARK without the exchange. -/
theorem resume_returns (hp : (ctxOf s n).phase = .parked ∨ (ctxOf s n).phase = .inService) (hb : (ctxOf s n).byNested = false)
    (hr : (ctxOf s n).reqs = []) (hc : ∀ k, (ctxOf s n).claim = some k → k.reclaim = false) (step : Bool) :
    resume s n step =
      reply (modCtx (returnFrom s n ((ctxOf s n).wait != .service true)) n fun c => { c with step := step }) (.status 0) := by
  have hn : ¬((ctxOf s n).phase = .saved ∨ (ctxOf s n).byNested = true) := by
    rcases hp with h | h <;> simp [h, hb]
  have he : (!decide ((ctxOf s n).wait = .service true)) = ((ctxOf s n).wait != .service true) := by
    simp [bne, BEq.beq]
  unfold resume
  rw [if_neg hn]
  dsimp only
  rw [he]
  obtain ⟨hq, hk⟩ := returnCtx_requests (ctxOf s n) ((ctxOf s n).wait != .service true)
  have hnone : hasRequest (ctxOf (modCtx (returnFrom s n ((ctxOf s n).wait != .service true)) n (·.stepping step)) n) = false := by
    rw [ctxOf_modCtx_same, hasRequest_stepping, returnFrom, ctxOf_setCtx_same]
    simp only [hasRequest, hq, hk, hr]
    cases h : (ctxOf s n).claim with
    | none => rfl
    | some k => simp [hc k h]
  exact congrArg (reply · (.status 0)) (if_neg (by rw [← Bool.not_eq_true] at hnone; exact hnone))

/-- R401: a context halted while saved, or while a nested fault keeps it parked, is halted no more. -/
theorem resume_unhalts (h : (ctxOf s n).phase = .saved ∨ (ctxOf s n).byNested = true) (step : Bool) :
    resume s n step = reply (setCtx s n { ctxOf s n with halted := false, step := step }) (.status 0) := if_pos h

variable (hs : isSealed s n = false) (hd : (spinAt s (n / 16)).dead = false)
include hs hd

theorem learoResume_resumes (ht : targetStatus (ctxOf s n) = 0) (hr : resumable (ctxOf s n) = true) :
    exec (.learoResume n) s = .next (resume s n false) :=
  congrArg Host.Outcome.next ((onTarget_admitted hs hd ht _).trans (if_pos hr))
theorem learoResume_busy (ht : targetStatus (ctxOf s n) = 0) (hr : resumable (ctxOf s n) = false) :
    exec (.learoResume n) s = .next (reply s (.status 2)) :=
  congrArg Host.Outcome.next ((onTarget_admitted hs hd ht _).trans (if_neg (by simp [hr])))
theorem learoStep_resumes (ht : targetStatus (ctxOf s n) = 0) (hr : steppable (ctxOf s n) = true) :
    exec (.learoStep n) s = .next (resume s n true) :=
  congrArg Host.Outcome.next ((onTarget_admitted hs hd ht _).trans (if_pos hr))
theorem learoStep_busy (ht : targetStatus (ctxOf s n) = 0) (hr : steppable (ctxOf s n) = false) :
    exec (.learoStep n) s = .next (reply s (.status 2)) :=
  congrArg Host.Outcome.next ((onTarget_admitted hs hd ht _).trans (if_neg (by simp [hr])))

theorem learoSwap_requests (hl : (ctxOf s n).phase = .live) (a : Word) :
    exec (.learoSwap n a) s = .next (reply (raiseReq s n (.swap a)) (.status 0)) :=
  congrArg Host.Outcome.next ((onTarget_admitted hs hd (targetStatus_live hl) _).trans (if_neg (by simp [hl])))

/-- R400: a selector of a context out of rotation, other than of the accumulators, has the status 0. -/
theorem onSel_stopped {a : Word} {x : Sel} (hx : selOf a = some x) (hp : (ctxOf s n).phase = .parked ∨ (ctxOf s n).phase = .inService)
    (h7 : x.space ≠ 7) {wr : Bool} (ho : selOk (ctxOf s n) x wr = true) (k : Sel → State) : onSel s n a wr k = k x := by
  have hst : selStatus s n false x wr = 0 := by
    rcases hp with h | h <;> simp [selStatus, hs, h7, h]
  simp [onSel, hs, ctxLost, spindleOf, hd, hx, ho, hst]

/-- R401: the operations over Learo on a context. -/
theorem learo_context (a : Word) :
    let c : Ctx := ctxOf s n
    let done (t : State) : State := reply t (.status 0)
    (∀ i ∈ ([.learoHalt n, .learoKill n, .learoMsg n a, .learoSwap n a, .learoResume n, .learoStep n] : List Instr),
      (c.phase = .free → exec i s = .next (reply s (.status 6))) ∧ (c.phase = .reaped → exec i s = .next (reply s (.status 5)))) ∧
    (c.phase = .live → c.reqs = [] →
      exec (.learoHalt n) s = .next (done (setCtx s n { c with reqs := [.halt] })) ∧
      exec (.learoMsg n a) s = .next (done (setCtx s n { c with reqs := [.msg a] })) ∧
      exec (.learoSwap n a) s = .next (done (setCtx s n { c with reqs := [.swap a] }))) ∧
    (c.phase = .parked ∨ c.phase = .inService → c.byNested = false → c.reqs = [] → (∀ k, c.claim = some k → k.reclaim = false) →
      (c.halted = true ∨ c.byPark = true → exec (.learoResume n) s =
        .next (done (modCtx (returnFrom s n (c.wait != .service true)) n fun c => { c with step := false }))) ∧
      (c.halted = true → c.byPark = false → exec (.learoStep n) s =
        .next (done (modCtx (returnFrom s n (c.wait != .service true)) n fun c => { c with step := true }))) ∧
      (c.halted = false → c.byPark = false → ∀ i ∈ ([.learoResume n, .learoStep n] : List Instr), exec i s = .next (reply s (.status 2)))) ∧
    (c.byPark = true ∨ c.byNested = true → exec (.learoStep n) s = .next (reply s (.status 2))) ∧
    (c.byNested = true → c.halted = true → exec (.learoResume n) s = .next (done (setCtx s n { c with halted := false, step := false }))) ∧
    (c.phase = .saved → c.halted = true →
      exec (.learoResume n) s = .next (done (setCtx s n { c with halted := false, step := false })) ∧
      exec (.learoStep n) s = .next (done (setCtx s n { c with halted := false, step := true }))) ∧
    (c.phase ∉ ([.free, .reaped] : List Phase) → exec (.learoKill n) s = .next (done (killTarget s n))) ∧
    (∀ on, exec (.learoDbgen n on) s = .next (done (setCtx s n { c with dbg := on }))) ∧
    (∀ x, selOf a = some x → c.phase = .parked ∨ c.phase = .inService → x.space ≠ 7 →
      (selOk c x false = true → exec (.learoRdctx n a) s = .next (reply s (.words 0 [selRead s n x]))) ∧
      (∀ w, selOk c x true = true → exec (.learoWrctx n a w) s = .next (done (selWrite s n x w)))) := by
  intro c done
  refine ⟨fun i hi => ⟨fun hp => ?_, fun hp => ?_⟩, fun hp hr => ?_, fun hp hb hr hc => ?_, fun h => ?_, fun hb hh => ?_, fun hp hh => ?_,
    fun hp => ?_, fun on => ?_, fun x hx hp h7 => ⟨fun ho => ?_, fun w ho => ?_⟩⟩
  · exact learo_absent hs hd (by simp only [targetStatus, hp, c]) (by decide) a i hi
  · exact learo_absent hs hd (by simp only [targetStatus, hp, c]) (by decide) a i hi
  · have ha := onTarget_admitted hs hd (targetStatus_live hp)
    have hq (r : Req) : reply (raiseReq s n r) (.status 0) = done (setCtx s n { c with reqs := [r] }) :=
      congrArg done (raiseReq_live hp hr r)
    exact ⟨congrArg _ ((ha _).trans (hq _)), congrArg _ ((ha _).trans (hq _)), (learoSwap_requests hs hd hp a).trans (congrArg _ (hq _))⟩
  · have ht := targetStatus_stopped hp
    have hl : c.phase ≠ .live := by rcases hp with h | h <;> simp [h]
    have hres (step : Bool) := congrArg (Host.Outcome.next (φ := Fault) (ρ := Refusal)) (resume_returns hp hb hr hc step)
    refine ⟨fun h => (learoResume_resumes hs hd ht (resumable_stopped hl h)).trans (hres false),
      fun hh hk => (learoStep_resumes hs hd ht (steppable_halted hl hh hk hb)).trans (hres true), fun hh hk => ?_⟩
    simp only [List.forall_mem_cons]
    exact ⟨learoResume_busy hs hd ht (resumable_running hh hk), learoStep_busy hs hd ht (steppable_running hh hk), List.forall_mem_nil _⟩
  · have hp : c.phase = .parked := h.elim byPark_parked byNested_parked
    exact learoStep_busy hs hd (targetStatus_stopped (.inl hp)) (steppable_kept h)
  · have hp : c.phase = .parked := byNested_parked hb
    have hl : c.phase ≠ .live := by simp [hp]
    exact (learoResume_resumes hs hd (targetStatus_stopped (.inl hp)) (resumable_stopped hl (.inl hh))).trans
      (congrArg Host.Outcome.next ((resume_unhalts (.inr hb) false)))
  · have hl : c.phase ≠ .live := by simp [hp]
    have hk : c.byPark = false := by simp [Ctx.byPark, hp]
    have hb : c.byNested = false := by simp [Ctx.byNested, hp]
    exact ⟨(learoResume_resumes hs hd (targetStatus_saved hp) (resumable_stopped hl (.inl hh))).trans
        (congrArg Host.Outcome.next (resume_unhalts (.inl hp) false)),
      (learoStep_resumes hs hd (targetStatus_saved hp) (steppable_halted hl hh hk hb)).trans
        (congrArg Host.Outcome.next (resume_unhalts (.inl hp) true))⟩
  · exact (exec_learoKill hd).trans (congrArg Host.Outcome.next (onTarget_admitted hs hd (targetStatus_other hp) _))
  · exact congrArg Host.Outcome.next (if_neg (by simp [hs]))
  · exact congrArg Host.Outcome.next (onSel_stopped hs hd hx hp h7 ho _)
  · exact congrArg Host.Outcome.next (onSel_stopped hs hd hx hp h7 ho _)

end Sys2Proof.Machine
end

section
/-! PROOF. O52: the operations over Learo on queues and stashes (R384, R386, R401, R403). -/
namespace Sys2Proof.Machine
open Sys2Proof.Safety

variable {s : State}

/-! ## The freeze bits of a tile (R401) -/

def Queue.freeze (on : Bool) (q : Queue) : Queue := { q with frozen := on }
def Tile.freeze (on : Bool) (x : Tile) : Tile := { x with tensor := x.tensor.freeze on, conv := x.conv.freeze on, ringq := x.ringq.freeze on }
/-- The freeze bit of one copy channel, and of the eight channels of a spindle. -/
def freezeChan (on : Bool) (sp : Nat) (s : State) (ch : Nat) : State :=
  setCopyChan s sp ch { copyChanAt s sp ch with q := (copyChanAt s sp ch).q.freeze on }
def freezeChans (on : Bool) (t : Nat) (s : State) (i : Nat) : State := (List.range 8).foldl (freezeChan on (8 * t + i)) s

theorem freezeTile_eq (s : State) (t : Nat) (on : Bool) :
    freezeTile s t on = (List.range 8).foldl (freezeChans on t) (modTile s t (Tile.freeze on)) := rfl

theorem tileAt_setCopyChan (s : State) (sp ch : Nat) (x : CopyChan) (k : Nat) : tileAt (setCopyChan s sp ch x) k = tileAt s k :=
  tileAt_modSpin s sp k _
theorem tileAt_foldl_freezeChan (on : Bool) (sp : Nat) (js : List Nat) (s : State) (k : Nat) :
    tileAt (js.foldl (freezeChan on sp) s) k = tileAt s k := by
  induction js generalizing s with
  | nil => rfl
  | cons j js ih => rw [List.foldl_cons, ih, freezeChan, tileAt_setCopyChan]
theorem tileAt_foldl_freezeChans (on : Bool) (t : Nat) (is : List Nat) (s : State) (k : Nat) :
    tileAt (is.foldl (freezeChans on t) s) k = tileAt s k := by
  induction is generalizing s with
  | nil => rfl
  | cons i is ih => rw [List.foldl_cons, ih, freezeChans, tileAt_foldl_freezeChan]

theorem copyChanAt_setCopyChan (s : State) (sp ch : Nat) (x : CopyChan) (sp' ch' : Nat) :
    copyChanAt (setCopyChan s sp ch x) sp' ch' = if sp' = sp ∧ ch' = ch then x else copyChanAt s sp' ch' := by
  unfold copyChanAt setCopyChan
  rw [spinAt_modSpin]
  by_cases h : sp' = sp
  · subst h
    simp [smGet_smSet]
  · simp [h]

theorem freeze_freeze (on : Bool) (q : Queue) : (q.freeze on).freeze on = q.freeze on := rfl

theorem copyChanAt_freezeChan_q (on : Bool) (sp : Nat) (s : State) (ch sp' ch' : Nat) :
    (copyChanAt (freezeChan on sp s ch) sp' ch').q =
      if sp' = sp ∧ ch' = ch then (copyChanAt s sp' ch').q.freeze on else (copyChanAt s sp' ch').q := by
  rw [freezeChan, copyChanAt_setCopyChan]
  split
  · next h => rw [h.1, h.2]
  · rfl

theorem copyChanAt_foldl_freezeChan_q (on : Bool) (sp : Nat) (js : List Nat) (s : State) (sp' ch' : Nat) :
    (copyChanAt (js.foldl (freezeChan on sp) s) sp' ch').q =
      if sp' = sp ∧ ch' ∈ js then (copyChanAt s sp' ch').q.freeze on else (copyChanAt s sp' ch').q := by
  induction js generalizing s with
  | nil => simp
  | cons j js ih =>
    rw [List.foldl_cons, ih, copyChanAt_freezeChan_q]
    by_cases hs : sp' = sp <;> by_cases hj : ch' = j <;> by_cases hm : ch' ∈ js <;> simp [hs, hj, hm, freeze_freeze]

theorem copyChanAt_foldl_freezeChans_q (on : Bool) (t : Nat) (is : List Nat) (s : State) (sp' ch' : Nat) :
    (copyChanAt (is.foldl (freezeChans on t) s) sp' ch').q =
      if (∃ i ∈ is, sp' = 8 * t + i) ∧ ch' < 8 then (copyChanAt s sp' ch').q.freeze on else (copyChanAt s sp' ch').q := by
  induction is generalizing s with
  | nil => simp
  | cons i is ih =>
    rw [List.foldl_cons, ih, freezeChans, copyChanAt_foldl_freezeChan_q]
    simp only [List.mem_range]
    by_cases hs : sp' = 8 * t + i <;> by_cases hj : ch' < 8 <;> by_cases hm : ∃ i ∈ is, sp' = 8 * t + i <;>
      simp_all [freeze_freeze]

/-- R401: a freeze sets the bit of each queue of the tile and keeps its commands. -/
theorem queueAt_freezeTile (s : State) {t sp q : Nat} (hsp : sp / 8 = t) (hq : q < 11) (on : Bool) :
    queueAt (freezeTile s t on) sp q = (queueAt s sp q).freeze on := by
  have ht : tileAt (freezeTile s t on) (tileOfSpindle sp) = (tileAt s (tileOfSpindle sp)).freeze on := by
    rw [freezeTile_eq, tileAt_foldl_freezeChans, show tileOfSpindle sp = t from hsp, tileAt_modTile_same]
  rcases q with _ | _ | _ | ch
  · exact congrArg Tile.tensor ht
  · exact congrArg Tile.conv ht
  · exact congrArg Tile.ringq ht
  · have hmem : (∃ i ∈ List.range 8, sp = 8 * t + i) ∧ ch < 8 := ⟨⟨sp % 8, List.mem_range.2 (by omega), by omega⟩, by omega⟩
    have h := copyChanAt_foldl_freezeChans_q on t (List.range 8) (modTile s t (Tile.freeze on)) sp ch
    rw [if_pos hmem] at h
    exact h

theorem queueAt_reply (s : State) (r : Reply) (sp q : Nat) : queueAt (reply s r) sp q = queueAt s sp q := rfl
theorem stashByte_reply (s : State) (r : Reply) (t o : Nat) : stashByte (reply s r) t o = stashByte s t o := rfl

/-! ## Stopped queues (R386, R403) -/

theorem onQueue_admitted {t sp q : Nat} (hs : isSealed s (128 * t) = false) (hsp : sp / 8 = t) (hq : q < 11) (k : State → State) :
    onQueue s sp q k = k s :=
  if_neg (by simp [tileSealed, tileOfSpindle, hsp, hs]; omega)
theorem restartQueue_stopped {sp q : Nat} (h : (queueAt s sp q).stop.isSome = true) :
    restartQueue s sp q = setQueue s sp q { queueAt s sp q with stop := none, running := false } := if_pos h
theorem skipQueue_stopped {sp q : Nat} (h : (queueAt s sp q).stop.isSome = true) : skipQueue s sp q = finishHead s sp q := if_pos h

/-! ## Stash bytes (R401) -/

/-- The place of a stash offset is the byte of the stash, whatever lies behind it. -/
theorem offsetLoc_stash (s : State) (t off : Nat) : ∃ back, offsetLoc s t off = .stash t off back := by
  unfold offsetLoc
  dsimp only
  split <;> exact ⟨_, rfl⟩
theorem offsetLoc_cell (s : State) (t off : Nat) : (offsetLoc s t off).cell = (some t, off) := by
  obtain ⟨_, h⟩ := offsetLoc_stash s t off
  rw [h, Loc.cell]
theorem readLoc_offsetLoc (u s : State) (t off : Nat) : readLoc u (offsetLoc s t off) = stashByte u t off := by
  obtain ⟨_, h⟩ := offsetLoc_stash s t off
  rw [h, readLoc]

theorem stashByte_storeLocs_offsetLoc (s : State) (t off : Nat) (data : List Byte) {i : Nat} (hi : i < data.length) :
    stashByte (storeLocs s ((List.range data.length).map fun i => offsetLoc s t (off + i)) data) t (off + i) = data.getD i 0 := by
  have hcells : ((List.range data.length).map fun i => offsetLoc s t (off + i)).map Loc.cell =
      (List.range data.length).map fun i => (some t, off + i) := by
    rw [List.map_map]
    exact List.map_congr_left fun i _ => offsetLoc_cell s t (off + i)
  have hnodup : (((List.range data.length).map fun i => offsetLoc s t (off + i)).map Loc.cell).Nodup := by
    rw [hcells]
    exact List.nodup_range.map fun i j h => by simpa using congrArg Prod.snd h
  have hread := readLocs_storeLocs _ s data hnodup (by simp)
  have hi' := congrArg (·.getD i 0) hread
  rw [← hi']
  simp [readLocs, List.getD_eq_getElem?_getD, hi, readLoc_offsetLoc]

section
variable {t : Nat} (hs : isSealed s (128 * t) = false)
include hs

theorem exec_learoFreeze : exec (.learoFreeze t) s = .next (reply (freezeTile s t true) (.status 0)) :=
  congrArg Host.Outcome.next (if_neg (by simp [tileSealed, hs]))
theorem exec_learoThaw : exec (.learoThaw t) s = .next (reply (freezeTile s t false) (.status 0)) :=
  congrArg Host.Outcome.next (if_neg (by simp [tileSealed, hs]))

/-- R401: a freeze and a thaw of a tile set and clear the bit of each queue and keep the commands. -/
theorem learoFreeze_queue {sp q : Nat} (hsp : sp / 8 = t) (hq : q < 11) :
    (∃ u, exec (.learoFreeze t) s = .next u ∧ (queueAt u sp q).frozen = true ∧ (queueAt u sp q).cmds = (queueAt s sp q).cmds) ∧
    (∃ u, exec (.learoThaw t) s = .next u ∧ (queueAt u sp q).frozen = false ∧ (queueAt u sp q).cmds = (queueAt s sp q).cmds) := by
  have hfrozen (on : Bool) : (queueAt (reply (freezeTile s t on) (.status 0)) sp q).frozen = on ∧
      (queueAt (reply (freezeTile s t on) (.status 0)) sp q).cmds = (queueAt s sp q).cmds := by
    rw [queueAt_reply, queueAt_freezeTile s hsp hq on]
    exact ⟨rfl, rfl⟩
  exact ⟨⟨_, exec_learoFreeze hs, hfrozen true⟩, ⟨_, exec_learoThaw hs, hfrozen false⟩⟩

theorem exec_learoRestart {sp q : Nat} (hsp : sp / 8 = t) (hq : q < 11) :
    exec (.learoRestart sp q) s = .next (if (queueAt s sp q).stop.isSome then reply (restartQueue s sp q) (.status 0) else reply s (.status 2)) :=
  congrArg Host.Outcome.next (onQueue_admitted hs hsp hq _)
theorem exec_learoSkip {sp q : Nat} (hsp : sp / 8 = t) (hq : q < 11) :
    exec (.learoSkip sp q) s = .next (if (queueAt s sp q).stop.isSome then reply (skipQueue s sp q) (.status 0) else reply s (.status 2)) :=
  congrArg Host.Outcome.next (onQueue_admitted hs hsp hq _)

/-- R401, R403: a stopped queue restarts or skips its head, and another is answered BUSY. -/
theorem learo_queue {sp q : Nat} (hsp : sp / 8 = t) (hq : q < 11) :
    let done (u : State) : State := reply u (.status 0)
    exec (.learoRdq sp q) s = .next (reply s (.words 0 ((List.range 5).map (stopDword s sp q)))) ∧
    ((queueAt s sp q).stop ≠ none →
      exec (.learoRestart sp q) s = .next (done (setQueue s sp q { queueAt s sp q with stop := none, running := false })) ∧
      exec (.learoSkip sp q) s = .next (done (finishHead s sp q))) ∧
    ((queueAt s sp q).stop = none → ∀ i ∈ ([.learoRestart sp q, .learoSkip sp q] : List Instr), exec i s = .next (reply s (.status 2))) := by
  intro done
  refine ⟨congrArg _ (onQueue_admitted hs hsp hq _), fun h => ?_, fun h => ?_⟩
  · have hsome := Option.isSome_iff_ne_none.2 h
    rw [exec_learoRestart hs hsp hq, exec_learoSkip hs hsp hq, if_pos hsome, if_pos hsome, restartQueue_stopped hsome, skipQueue_stopped hsome]
    exact ⟨rfl, rfl⟩
  · have hnone : ¬(queueAt s sp q).stop.isSome = true := by simp [h]
    simp only [List.forall_mem_cons]
    exact ⟨(exec_learoRestart hs hsp hq).trans (congrArg _ (if_neg hnone)), (exec_learoSkip hs hsp hq).trans (congrArg _ (if_neg hnone)),
      List.forall_mem_nil _⟩

/-- R401: bytes of a stash are read and written. -/
theorem learo_stash (off len : Nat) (data : List Byte) :
    (off + len ≤ 2 ^ 22 → exec (.learoRdstash t off len) s = .next (reply s (.bytes (stashBytes s t off len)))) ∧
    (off + data.length ≤ 2 ^ 22 → ∃ u, exec (.learoWrstash t off data) s = .next u ∧
      ∀ i, i < data.length → stashByte u t (off + i) = data.getD i 0) := by
  have hfits {m : Nat} (h : off + m ≤ 2 ^ 22) : ¬(tileSealed s t = true ∨ stashSize < off + m) := by
    simp only [tileSealed, hs, Bool.false_eq_true, false_or, stashSize]
    omega
  refine ⟨fun h => congrArg _ (if_neg (hfits h)), fun h => ⟨_, congrArg Host.Outcome.next (if_neg (hfits h)), fun i hi => ?_⟩⟩
  rw [stashByte_reply]
  exact stashByte_storeLocs_offsetLoc s t off data hi

end

end Sys2Proof.Machine
end

section
/-! PROOF. O52: accesses of the host and of other devices (R203, R204, R205, R345, R420). -/
namespace Sys2Proof.Machine
open Sys2Proof.Safety

variable {s : State}

/-! ## Places of memory -/

theorem readLocs_memLocs (s : State) (pas : List Nat) : readLocs s (memLocs pas) = pas.map (memByte s) := List.map_map ..
theorem memByte_storeLocs_notMem (s : State) (pas : List Nat) (bs : List Byte) {a : Nat} (h : a ∉ pas) :
    memByte (storeLocs s (memLocs pas) bs) a = memByte s a := by
  refine readLoc_storeLocs_other (memLocs pas) s bs (.mem a) fun l hl heq => h ?_
  obtain ⟨c, hc, rfl⟩ := List.mem_map.1 hl
  obtain rfl : a = c := congrArg Prod.snd heq
  exact hc
theorem memByte_reply (s : State) (r : Reply) (a : Nat) : memByte (reply s r) a = memByte s a := rfl
theorem localBytes_nodup (s : State) (l n : Nat) : (localBytes s l n).Nodup :=
  List.nodup_range.map fun i j h => by simpa [localPa] using h
theorem localBytes_length (s : State) (l n : Nat) : (localBytes s l n).length = n := by simp [localBytes]
theorem localBytes_getD (s : State) (l : Nat) {n i : Nat} (h : i < n) : (localBytes s l n).getD i 0 = localPa s (l + i) :=
  getD_map_range h _

/-- R405: with no bad word there is no error to report and none to correct. -/
theorem locError_none (he : s.errs = []) (hs : s.serrs = []) (ls : List Loc) (wr : Bool) : locError s ls wr = none := if_pos ⟨he, hs⟩
theorem correct_none (hc : s.cerrs = []) (hs : s.scerrs = []) (ls : List Loc) : correct s ls = s := if_pos ⟨hc, hs⟩

/-! ## Leases on the lines of a request (R194) -/

theorem unheldLines {pas : List Nat} {wr : Bool} (h : ∀ a ∈ pas, homeConflict s (a / 128) wr = false) :
    ((pas.map (· / 128)).eraseDups.filter fun l => homeConflict s l wr) = [] := by
  refine List.filter_eq_nil_iff.2 fun l hl => ?_
  obtain ⟨a, ha, rfl⟩ := List.mem_map.1 (List.mem_eraseDups.1 hl)
  simp [h a ha]

/-! ## A host access (R204) -/

/-- The host accesses delivered have been performed. -/
def hostDone (s : State) : State := setWants { s with hostQueue := [] } 90002 []
theorem memByte_hostDone (s : State) (a : Nat) : memByte (hostDone s) a = memByte s a := rfl

theorem exec_hostAccess (hu : s.hostUp = true) (hq : s.hostQueue = []) (r : HostReq) : exec (.hostAccess r) s = .next (drainHost s [r]) := by
  refine congrArg Host.Outcome.next ((if_pos hu).trans ?_)
  rw [hq, List.nil_append]
theorem drainHost_served {r : HostReq} (h : hostWaits s r = []) : drainHost s [r] = hostDone (hostAccess s r) := by
  rw [drainHost, h]
  rfl
theorem drainHost_held {r : HostReq} (h : hostWaits s r ≠ []) :
    drainHost s [r] = setWants { s with hostQueue := [r] } 90002 (hostWaits s r) := by
  cases hw : hostWaits s r with
  | nil => exact absurd hw h
  | cons l ls => simp only [drainHost, hw]

theorem hostAccess_refused {r : HostReq}
    (h : ∀ e ∈ s.parts, ∃ a ∈ localBytes s r.addr (if r.write then r.data.length else r.len), (ownsPa s e.2 a && inHdm e.2 (paLocal a)) = false) :
    hostAccess s r = reply s .refused := by
  have hnone : (s.parts.find? fun e => (localBytes s r.addr (if r.write then r.data.length else r.len)).all fun a =>
      ownsPa s e.2 a && inHdm e.2 (paLocal a)) = none := by
    refine List.find?_eq_none.2 fun e he hall => ?_
    obtain ⟨a, ha, hf⟩ := h e he
    exact absurd (List.all_eq_true.1 hall a ha) (by simp [hf])
  simp only [hostAccess, hnone]

/-- A host access within the one partition's ranges, at no listed line. -/
theorem hostAccess_admitted {k : Nat} {p : Part} (hp : s.parts = [(k, p)]) (he : s.errs = []) (hs : s.serrs = []) {r : HostReq}
    (h : ∀ a ∈ localBytes s r.addr (if r.write then r.data.length else r.len),
      ownsPa s p a = true ∧ inHdm p (paLocal a) = true ∧ a / 128 ∉ p.loss) :
    hostAccess s r =
      if r.write then reply (storeLocs s (memLocs (localBytes s r.addr (if r.write then r.data.length else r.len))) r.data) (.status 0)
      else reply (correct s (memLocs (localBytes s r.addr (if r.write then r.data.length else r.len))))
        (.bytes (readLocs s (memLocs (localBytes s r.addr (if r.write then r.data.length else r.len))))) := by
  unfold hostAccess
  dsimp only
  generalize localBytes s r.addr (if r.write then r.data.length else r.len) = pas at h ⊢
  have hfind : (s.parts.find? fun e => pas.all fun a => ownsPa s e.2 a && inHdm e.2 (paLocal a)) = some (k, p) := by
    rw [hp]
    exact List.find?_cons_of_pos (List.all_eq_true.2 fun a ha => by simp [h a ha])
  have hlisted : (pas.any fun a => p.loss.contains (a / 128)) = false :=
    List.any_eq_false.2 fun a ha => by simp [(h a ha).2.2]
  simp only [hfind, hlisted, locError_none he hs, Option.isSome_none, Bool.or_self, Bool.false_eq_true, if_false]

/-! ## A read of another device (R205, R345) -/

theorem drainRemote_served {r : RemoteReq} (hw : remoteWaits s r = []) (hr : remoteReady s r = true) :
    drainRemote s [r] [] = setWants { remoteRequest (remoteServed s r) r with remoteQueue := [] } 90003 [] := by
  have hgo : ¬((([] : List RemoteReq).any (fun x => x.dev == r.dev) || remoteWaits s r != [] || !remoteReady s r) = true) := by
    simp [hw, hr]
  rw [drainRemote, if_neg hgo]
  rfl
theorem exec_etfenRequest {r : RemoteReq} (hn : s.dom.devnum ≠ none) (hu : r.dev ∉ s.dom.unreachable) (hf : r.dev ∉ s.dom.fenced)
    (hq : s.remoteQueue = []) : exec (.etfenRequest r) s = .next (drainRemote s [r] []) := by
  refine congrArg Host.Outcome.next ((if_neg ?_).trans ?_)
  · simp [hn, hu, hf]
  · rw [hq, List.nil_append]

/-- R205: a read admitted by the partition of the same number is answered with the bytes. -/
theorem remoteRequest_read {dev k addr n : Nat} {p : Part} (hp : running s k = some p) (he : s.errs = []) (hs : s.serrs = [])
    (hc : s.cerrs = []) (hsc : s.scerrs = []) (ho : ∀ a ∈ localBytes s addr n, ownsPa s p a = true)
    (ht : targetCheck s p k .load ((localBytes s addr n).map fun a => (0, a)) = none) :
    remoteRequest s ⟨dev, k, .read, addr, n, []⟩ = reply s (.bytes ((localBytes s addr n).map (memByte s))) := by
  have hall : (!(localBytes s addr n).all (ownsPa s p)) = false := by
    rw [Bool.not_eq_false', List.all_eq_true]
    exact ho
  simp only [remoteRequest, remoteSize, remoteNeed, hp, hall, ht, locError_none he hs, correct_none hc hsc, Bool.false_eq_true, if_false]
  rw [readLocs_memLocs]

/-- R204, R205: accesses from outside to memory of the one partition, with no bad word and no lease against them. -/
theorem outside_access {addr n k : Nat} {data : List Byte} {p : Part} {pas : List Nat} (hp : s.parts = [(k, p)]) (hu : s.hostUp = true)
    (he : s.errs = []) (hs : s.serrs = []) (hc : s.cerrs = []) (hsc : s.scerrs = []) (hpas : pas = localBytes s addr n) (hd : data.length = n)
    (hok : ∀ a ∈ pas, ownsPa s p a = true ∧ inHdm p (paLocal a) = true ∧ a / 128 ∉ p.loss ∧ homeConflict s (a / 128) false = false ∧
      homeConflict s (a / 128) true = false) (hq : s.hostQueue = []) (hrq : s.remoteQueue = []) :
    exec (.hostAccess ⟨false, addr, n, []⟩) s = .next (hostDone (reply s (.bytes (pas.map (memByte s))))) ∧
    (∃ t, exec (.hostAccess ⟨true, addr, n, data⟩) s = .next t ∧ (∀ i, i < n → memByte t (localPa s (addr + i)) = data.getD i 0) ∧
      (∀ a, a ∉ pas → memByte t a = memByte s a)) ∧
    (∀ dev, p.st = .running → s.dom.devnum ≠ none → dev ∉ s.dom.unreachable → dev ∉ s.dom.fenced →
      targetCheck s p k .load (pas.map fun a => (0, a)) = none →
      exec (.etfenRequest ⟨dev, k, .read, addr, n, []⟩) s =
        .next (setWants { reply s (.bytes (pas.map (memByte s))) with remoteQueue := [] } 90003 [])) := by
  subst hpas hd
  have hplace := fun a ha => (⟨(hok a ha).1, (hok a ha).2.1, (hok a ha).2.2.1⟩ : ownsPa s p a = true ∧ inHdm p (paLocal a) = true ∧ a / 128 ∉ p.loss)
  have hrd : hostWaits s ⟨false, addr, data.length, []⟩ = [] := unheldLines fun a ha => (hok a ha).2.2.2.1
  have hwr : hostWaits s ⟨true, addr, data.length, data⟩ = [] := unheldLines fun a ha => (hok a ha).2.2.2.2
  refine ⟨?_, ⟨_, (exec_hostAccess hu hq _).trans (congrArg _ (drainHost_served hwr)), fun i hi => ?_, fun a ha => ?_⟩,
    fun dev hrun hn hur hf ht => ?_⟩
  · rw [exec_hostAccess hu hq, drainHost_served hrd, hostAccess_admitted hp he hs hplace, if_neg Bool.false_ne_true, correct_none hc hsc,
      readLocs_memLocs]
    rfl
  · rw [memByte_hostDone, hostAccess_admitted hp he hs hplace, if_pos rfl, memByte_reply, ← localBytes_getD s addr hi]
    exact memByte_storeLocs_mem s (localBytes_length s addr _) (localBytes_nodup s addr _) (by rw [localBytes_length]; exact hi)
  · rw [memByte_hostDone, hostAccess_admitted hp he hs hplace, if_pos rfl, memByte_reply]
    exact memByte_storeLocs_notMem s _ data ha
  · have hwait : remoteWaits s ⟨dev, k, .read, addr, data.length, []⟩ = [] := unheldLines fun a ha => (hok a ha).2.2.2.1
    have hpart : running s k = some p := by simp [running, partAt, hp, smFind, hrun]
    rw [exec_etfenRequest hn hur hf hrq, drainRemote_served hwait rfl]
    have hread := remoteRequest_read (dev := dev) hpart he hs hc hsc (fun a ha => (hok a ha).1) ht
    exact congrArg (fun t : State => Host.Outcome.next (setWants { t with remoteQueue := [] } 90003 [])) hread

/-- R194, R204: a host access waits for the leases on its lines, and one outside every range is refused. -/
theorem host_waits_or_refuses {r : HostReq} (hu : s.hostUp = true) (hq : s.hostQueue = []) :
    (hostWaits s r ≠ [] → exec (.hostAccess r) s = .next (setWants { s with hostQueue := [r] } 90002 (hostWaits s r))) ∧
    (hostWaits s r = [] → (∀ e ∈ s.parts, ∃ a ∈ localBytes s r.addr (if r.write then r.data.length else r.len),
        ¬ (ownsPa s e.2 a = true ∧ ∃ h ∈ e.2.conf.hdm, h.1 ≤ paLocal a ∧ paLocal a < h.1 + h.2)) →
      exec (.hostAccess r) s = .next (hostDone (reply s .refused))) := by
  refine ⟨fun h => ?_, fun h hout => ?_⟩
  · rw [exec_hostAccess hu hq, drainHost_held h]
  · rw [exec_hostAccess hu hq, drainHost_served h, hostAccess_refused fun e he => ?_]
    obtain ⟨a, ha, hno⟩ := hout e he
    refine ⟨a, ha, Bool.eq_false_iff.2 fun hyes => hno ?_⟩
    simpa [inHdm, List.any_eq_true] using hyes

end Sys2Proof.Machine
end

section
/-! PROOF. O52: registers written by agent cores and the host (R351, R421). -/
namespace Sys2Proof.Machine
open Sys2Proof.Safety

variable {s : State} {k pnum : Nat} {p : Part}

theorem needUnit_live (hd : (agentAt s k).dead = false) (hp : partOfCore s k = some pnum) (o : Host.Outcome State Fault Refusal) :
    needUnit s k o = o := if_neg (by simp [hd, hp])
theorem modPart_present (h : partAt s pnum = some p) (f : Part → Part) : modPart s pnum f = setPart s pnum (f p) := by
  rw [modPart, h]
/-- An exception that is no capability fault and comes of no read traps, and leaves all else alone. -/
theorem coreTrap_plain (s : State) (k c : Nat) : coreTrap s k { cause := c } = setAgent s k (trapCore (agentAt s k) { cause := c }) := by
  unfold coreTrap modAgent
  rw [show correct s ({ cause := c } : Exc).reads = s by unfold correct; split <;> rfl]

/-! ## The Xmerf CSRs (R351) -/

section
variable {num : Nat} (hlo : 0x5C0 ≤ num) (hhi : num < 0x5C9)
include hlo hhi

theorem csrPut_xmerf (a : Agent) (s : State) (w : Word) : csrPut a s num w = csrWrite a num w := by
  interval_cases num <;> rfl
theorem csrFor_xmerf (virt : Bool) : csrFor virt num = num := by
  interval_cases num <;> cases virt <;> rfl
theorem csrGuard_xmerf (a : Agent) : csrGuard a num = none := by
  unfold csrGuard
  rw [csrFor_xmerf hlo hhi]
  interval_cases num <;> simp [stateEnable]
theorem csrExists_xmerf : csrExists num = true := by
  interval_cases num <;> decide

theorem csrFault_xmerf (a : Agent) :
    csrFault a num true = match a.mode with | .M | .HS => none | .VS | .VU => some 22 | .U => some 2 := by
  have hwritable : ¬((!csrExists num) = true ∨ (true = true ∧ bits num 11 10 = 3)) := by
    rw [csrExists_xmerf hlo hhi]
    interval_cases num <;> decide
  have hlevel : bits num 9 8 = 1 := by interval_cases num <;> decide
  unfold csrFault
  rw [if_neg (by simpa using hwritable)]
  cases a.mode <;> simp [hlevel, csrGuard_xmerf hlo hhi, hlo]
  all_goals omega
end

variable (hd : (agentAt s k).dead = false) (hp : partOfCore s k = some pnum)
include hd hp

theorem registerWrite_fault {num c : Nat} (w : Word) (h : csrFault (agentAt s k) num true = some c) :
    exec (.registerWrite (.csr k num) w) s = .next (setAgent s k (trapCore (agentAt s k) { cause := c })) := by
  refine (needUnit_live hd hp _).trans (congrArg _ ?_)
  rw [h]
  exact coreTrap_plain s k c
theorem registerWrite_admitted {num : Nat} (w : Word) (h : csrFault (agentAt s k) num true = none) :
    exec (.registerWrite (.csr k num) w) s =
      .next (setAgent s k (retire (csrPut (agentAt s k) s (csrFor (agentAt s k).mode.virt num) w) 4)) := by
  refine (needUnit_live hd hp _).trans (congrArg _ ?_)
  rw [h]
  rfl

/-- R351, R421: what registers an agent core and the host write. -/
theorem registers_written (hpart : partAt s pnum = some p) (num : Nat) (w : Word) :
    (0x5C0 ≤ num → num < 0x5C9 → (agentAt s k).mode = .M ∨ (agentAt s k).mode = .HS →
      exec (.registerWrite (.csr k num) w) s = .next (setAgent s k (retire (csrWrite (agentAt s k) num w) 4))) ∧
    (0x5C0 ≤ num → num < 0x5C9 → (agentAt s k).mode ≠ .M → (agentAt s k).mode ≠ .HS →
      exec (.registerWrite (.csr k num) w) s = .next (setAgent s k
        (trapCore (agentAt s k) { cause := if (agentAt s k).mode = .VS ∨ (agentAt s k).mode = .VU then 22 else 2 }))) ∧
    (∀ c, csrFault (agentAt s k) num true = some c →
      exec (.registerWrite (.csr k num) w) s = .next (setAgent s k (trapCore (agentAt s k) { cause := c }))) ∧
    exec (.registerWrite (.controlByHost pnum 0x20) w) s = .next (setPart s pnum { p with mrhead := w }) ∧
    exec (.registerWrite (.controlByCore k 0x1030) w) s = .next (setPart s pnum { p with cecnt := w.toNat % 2 ^ 32 }) := by
  refine ⟨fun hlo hhi hm => ?_, fun hlo hhi hM hH => ?_, fun c h => registerWrite_fault hd hp w h,
    congrArg Host.Outcome.next (modPart_present hpart _), ?_⟩
  · have hnone : csrFault (agentAt s k) num true = none := by
      rw [csrFault_xmerf hlo hhi]
      rcases hm with h | h <;> rw [h]
    rw [registerWrite_admitted hd hp w hnone, csrFor_xmerf hlo hhi, csrPut_xmerf hlo hhi]
  · refine registerWrite_fault hd hp w ?_
    rw [csrFault_xmerf hlo hhi]
    cases hmode : (agentAt s k).mode <;> simp_all
  · refine (needUnit_live hd hp _).trans (congrArg _ ?_)
    rw [hp]
    refine (modPart_present hpart _).trans ?_
    simp only [controlByCore, bits, Nat.pow_zero, Nat.div_one]

end Sys2Proof.Machine
end

section
/-! PROOF. O52: a load of an agent core (R203, R345, R352, R405). -/
namespace Sys2Proof.Machine
open Sys2Proof.Safety

variable {s u : State} {k pnum : Nat} {p : Part}

/-! ## What a load leaves unchanged -/

/-- Memory, the domain's registers, and the pc and the L2's corrected errors of core k are the same. -/
structure CoreKeeps (k : Nat) (s t : State) : Prop where
  mem : t.mem = s.mem
  dom : t.dom = s.dom
  pc : (agentAt t k).pc = (agentAt s k).pc
  fixed : (agentAt t k).l2Fixed = (agentAt s k).l2Fixed

theorem CoreKeeps.refl (k : Nat) (s : State) : CoreKeeps k s s := ⟨rfl, rfl, rfl, rfl⟩
theorem CoreKeeps.trans {s t u : State} (h : CoreKeeps k s t) (g : CoreKeeps k t u) : CoreKeeps k s u :=
  ⟨g.mem.trans h.mem, g.dom.trans h.dom, g.pc.trans h.pc, g.fixed.trans h.fixed⟩
theorem coreKeeps_modAgent (s : State) (k : Nat) (f : Agent → Agent) (hpc : (f (agentAt s k)).pc = (agentAt s k).pc)
    (hfix : (f (agentAt s k)).l2Fixed = (agentAt s k).l2Fixed) : CoreKeeps k s (modAgent s k f) := by
  refine ⟨rfl, rfl, ?_, ?_⟩
  · rw [agentAt_modAgent_same, hpc]
  · rw [agentAt_modAgent_same, hfix]
theorem coreKeeps_setWants (k : Nat) (s : State) (who : Nat) (ls : List Nat) : CoreKeeps k s (setWants s who ls) := ⟨rfl, rfl, rfl, rfl⟩
theorem coreKeeps_farGone (k : Nat) (s : State) : CoreKeeps k s (farGone s k) := ⟨rfl, rfl, rfl, rfl⟩

theorem coreKeeps_noteWalk (s : State) (k pnum : Nat) (p : Part) (acc : CoreAcc) (va n : Nat) :
    CoreKeeps k s (noteWalk s k pnum p acc va n) := by
  unfold noteWalk
  dsimp only
  split
  · exact .refl k s
  · exact coreKeeps_modAgent s k _ rfl rfl
theorem coreKeeps_noteL2 (s : State) (k : Nat) (pas : List Nat) : CoreKeeps k s (noteL2 s k pas false) := by
  unfold noteL2
  dsimp only
  generalize ((pas.filter fun a => paDev a == s.dom.devnum.getD 0).map (· / 128)).eraseDups = lines
  induction lines generalizing s with
  | nil => exact .refl k s
  | cons l ls ih => exact (coreKeeps_modAgent s k _ rfl rfl).trans (ih _)

theorem controlRead_of_dom {t : State} (h : t.dom = s.dom) (p : Part) (off : Nat) : controlRead t p off = controlRead s p off := by
  unfold controlRead
  rw [h]
theorem controlOffset_of_dom {t : State} (h : t.dom = s.dom) (pnum pa : Nat) : controlOffset t pnum pa = controlOffset s pnum pa := by
  have hloc (l : Nat) : localPa t l = localPa s l := by rw [localPa, h, localPa]
  simp only [controlOffset, hloc]
/-- The byte that a core reads at a place, by whether it lies in the control block. (Stated of the whole function first: at its
arguments the kernel would evaluate the place.) -/
theorem coreByte_of_offset {x : Found} {a : Nat} {o : Option Nat} (h : controlOffset s x.pnum a = o) :
    coreByte s x a = o.elim (memByte s a) fun off => (leBytes 8 (controlRead s x.p (off / 8 * 8)).toNat).getD (off % 8) 0 := by
  suffices hfun : ∀ f, f = coreByte →
      f s x a = o.elim (memByte s a) fun off => (leBytes 8 (controlRead s x.p (off / 8 * 8)).toNat).getD (off % 8) 0 from hfun _ rfl
  intro f hf
  delta coreByte at hf
  rw [hf]
  dsimp only
  rw [h]
  cases o <;> rfl
/-- The bytes that a core reads depend on memory and the domain's registers alone. -/
theorem CoreKeeps.coreByte {t : State} (h : CoreKeeps k s t) (x : Found) (a : Nat) : coreByte t x a = coreByte s x a := by
  rw [coreByte_of_offset rfl, coreByte_of_offset rfl, controlOffset_of_dom h.dom]
  simp only [controlRead_of_dom h.dom, memByte, h.mem]

theorem correctL2_none (h : (agentAt s k).l2Fixed = []) (pas : List Nat) : correctL2 s k pnum pas = s :=
  if_pos (by rw [h]; rfl)
theorem coreError_none (he : s.errs = []) (hs : s.serrs = []) (hl : (agentAt s k).l2Errs = []) (pas : List Nat) (blind : Bool) :
    coreError s k pnum pas blind = none := by
  have hl2 : l2Error (agentAt s k) (memoryOf s pnum pas) blind = none := if_pos hl
  simp only [coreError, locError_none he hs, hl2]
  rfl

/-! ## The instruction done -/

theorem agX_retire (a : Agent) (n r : Nat) : agX (retire a n) r = agX a r := rfl
theorem agX_setAgX_same (a : Agent) {r : Nat} (h : r ≠ 0) (w : Word) : agX (setAgX a r w) r = w := by
  simp [agX, setAgX, h]
theorem coreDone_result (s : State) (k : Nat) {rd : Nat} (h : rd ≠ 0) (w : Word) : agX (agentAt (coreDone s k rd w) k) rd = w := by
  rw [coreDone, agentAt_modAgent_same, agX_retire, agX_setAgX_same _ h]
theorem coreDone_pc (s : State) (k : Nat) {rd : Nat} (h : rd ≠ 0) (w : Word) :
    (agentAt (coreDone s k rd w) k).pc = (agentAt s k).pc + 4 := by
  rw [coreDone, agentAt_modAgent_same, setAgX, if_neg h]
  rfl
theorem coreDone_mem (s : State) (k rd : Nat) (w : Word) : (coreDone s k rd w).mem = s.mem := rfl

/-! ## A load by what its translation comes to -/

theorem dataAcc_need (a : Agent) (need : Nat) : (dataAcc a need).need = need := by
  unfold dataAcc
  split <;> rfl
theorem dataAcc_kind (a : Agent) (need : Nat) : (dataAcc a need).kind = .plain := by
  unfold dataAcc
  split <;> rfl
theorem agentCheck_load (s : State) (a : Agent) (pnum : Nat) (p : Part) (va n : Nat) :
    agentCheck s a pnum p va n 1 = agentCheckAs s a pnum p (dataAcc a 1) (maskPtr a (dataAcc a 1) va) n := rfl

/-- What a load does at the places it has found. -/
def loadFound (k rd : Nat) (s : State) (x : Found) : State :=
  coreDone (noteL2 s k (x.mem s) false) k rd (word (leNat (coreBytes s x)))

section
variable (hp : partOfCore u k = some pnum) (hpart : partAt u pnum = some p) {va n : Nat} (f : State → Found → State)
include hp hpart

theorem coreMem_trap {e : Exc} (h : agentCheck u (agentAt u k) pnum p va n 1 = .trap e) :
    coreMem u k (dataAcc (agentAt u k) 1) va n false f = coreTrap u k e := by
  rw [agentCheck_load] at h
  simp only [coreMem, hp, hpart, Option.bind_some, Option.map_some, h]
theorem coreMem_wait {hs : List Nat} (h : agentCheck u (agentAt u k) pnum p va n 1 = .wait hs) :
    coreMem u k (dataAcc (agentAt u k) 1) va n false f = setWants u (coreKey k) hs := by
  rw [agentCheck_load] at h
  simp only [coreMem, hp, hpart, Option.bind_some, Option.map_some, h]
theorem coreMem_holds {pas : List Nat} {reads : List Loc} {l : Nat} {ls : List Nat} (h : agentCheck u (agentAt u k) pnum p va n 1 = .ok pas reads)
    (hh : coreHolds u k pnum pas false = l :: ls) :
    coreMem u k (dataAcc (agentAt u k) 1) va n false f = setWants u (coreKey k) (l :: ls) := by
  rw [agentCheck_load] at h
  have hh' : coreHolds u k pnum pas (bit (dataAcc (agentAt u k) 1).need 1) = l :: ls := by rw [dataAcc_need]; exact hh
  simp only [coreMem, hp, hpart, Option.bind_some, Option.map_some, h, hh']
  exact if_neg fun h => by simp [dataAcc_kind] at h
/-- A load that nothing stands against is performed in a state with the same memory, registers and pc. -/
theorem coreMem_performed {pas : List Nat} {reads : List Loc} (h : agentCheck u (agentAt u k) pnum p va n 1 = .ok pas reads)
    (hh : coreHolds u k pnum pas false = []) (he : u.errs = []) (hs : u.serrs = []) (hc : u.cerrs = []) (hsc : u.scerrs = [])
    (hl : (agentAt u k).l2Errs = []) (hf : (agentAt u k).l2Fixed = []) :
    ∃ v, CoreKeeps k u v ∧ coreMem u k (dataAcc (agentAt u k) 1) va n false f = f v ⟨pnum, p, pas⟩ := by
  rw [agentCheck_load] at h
  have hh' : coreHolds u k pnum pas (bit (dataAcc (agentAt u k) 1).need 1) = [] := by rw [dataAcc_need]; exact hh
  refine ⟨noteWalk (setWants u (coreKey k) []) k pnum p (dataAcc (agentAt u k) 1) (maskPtr (agentAt u k) (dataAcc (agentAt u k) 1) va) n,
    (coreKeeps_setWants ..).trans (coreKeeps_noteWalk ..), ?_⟩
  simp only [coreMem, hp, hpart, Option.bind_some, Option.map_some, h, hh', coreError_none he hs hl]
  have hkeep := (coreKeeps_setWants k u (coreKey k) []).trans (coreKeeps_noteWalk _ k pnum p (dataAcc (agentAt u k) 1)
    (maskPtr (agentAt u k) (dataAcc (agentAt u k) 1) va) n)
  have hcer : (noteWalk (setWants u (coreKey k) []) k pnum p (dataAcc (agentAt u k) 1)
      (maskPtr (agentAt u k) (dataAcc (agentAt u k) 1) va) n).cerrs = [] ∧ (noteWalk (setWants u (coreKey k) []) k pnum p (dataAcc (agentAt u k) 1)
      (maskPtr (agentAt u k) (dataAcc (agentAt u k) 1) va) n).scerrs = [] := by
    unfold noteWalk
    dsimp only
    split <;> exact ⟨hc, hsc⟩
  rw [correct_none hcer.1 hcer.2, correctL2_none (hkeep.fixed.trans hf)]

end

theorem exec_coreLoad (hd : (agentAt s k).dead = false) (hp : partOfCore s k = some pnum) (hw : coreWaits s k = false) {va : Nat}
    (hva : va < 2 ^ 64) (n rd : Nat) :
    exec (.agentAccess k ⟨.load, word va, n, [], rd, false, false⟩) s =
      .next (coreMem (farGone s k) k (dataAcc (agentAt (farGone s k) k) 1) va n false (loadFound k rd)) := by
  refine (needUnit_live hd hp _).trans (congrArg _ ?_)
  have hword : (word va).toNat = va := by
    rw [word, BitVec.toNat_ofNat, Nat.mod_eq_of_lt hva]
  unfold agentAccess
  rw [if_neg (by simp [hw])]
  dsimp only
  rw [hword]
  rfl

/-- R203, R345, R352: a load is performed, traps, or waits. -/
theorem core_load (hd : (agentAt s k).dead = false) (hp : partOfCore s k = some pnum) (hpart : partAt s pnum = some p) {va : Nat} (rd n : Nat)
    (hu : u = farGone s k) (hw : coreWaits s k = false) (hva : va < 2 ^ 64) :
    let load : Instr := .agentAccess k ⟨.load, word va, n, [], rd, false, false⟩
    (∀ pas reads, rd ≠ 0 → agentCheck u (agentAt u k) pnum p va n 1 = .ok pas reads → coreHolds u k pnum pas false = [] →
      s.errs = [] → s.serrs = [] → s.cerrs = [] → s.scerrs = [] → (agentAt s k).l2Errs = [] → (agentAt s k).l2Fixed = [] → ∃ t,
      exec load s = .next t ∧ agX (agentAt t k) rd = word (leNat (pas.map (coreByte s ⟨pnum, p, pas⟩))) ∧
      (agentAt t k).pc = (agentAt s k).pc + 4 ∧ t.mem = s.mem) ∧
    (∀ e, agentCheck u (agentAt u k) pnum p va n 1 = .trap e → exec load s = .next (coreTrap u k e)) ∧
    (∀ hs, agentCheck u (agentAt u k) pnum p va n 1 = .wait hs → exec load s = .next (setWants u (coreKey k) hs)) ∧
    (∀ pas reads h hs, agentCheck u (agentAt u k) pnum p va n 1 = .ok pas reads → coreHolds u k pnum pas false = h :: hs →
      exec load s = .next (setWants u (coreKey k) (h :: hs))) := by
  intro load
  have hexec := exec_coreLoad hd hp hw hva n rd
  rw [← hu] at hexec
  have hpu : partOfCore u k = some pnum := by rw [hu]; exact hp
  have hpartu : partAt u pnum = some p := by rw [hu]; exact hpart
  refine ⟨fun pas reads hrd hchk hhold he hs hc hsc hl hf => ?_, fun e h => hexec.trans (congrArg _ (coreMem_trap hpu hpartu _ h)),
    fun hs h => hexec.trans (congrArg _ (coreMem_wait hpu hpartu _ h)),
    fun pas reads l ls h hh => hexec.trans (congrArg _ (coreMem_holds hpu hpartu _ h hh))⟩
  obtain ⟨v, hkeep, hmem⟩ := coreMem_performed hpu hpartu (loadFound k rd) hchk hhold (by rw [hu]; exact he) (by rw [hu]; exact hs)
    (by rw [hu]; exact hc) (by rw [hu]; exact hsc) (by rw [hu]; exact hl) (by rw [hu]; exact hf)
  have hsv : CoreKeeps k s v := by
    rw [hu] at hkeep
    exact (coreKeeps_farGone k s).trans hkeep
  have hnote := coreKeeps_noteL2 v k (Found.mem ⟨pnum, p, pas⟩ v)
  refine ⟨_, hexec.trans (congrArg _ hmem), ?_, ?_, ?_⟩
  · rw [loadFound, coreDone_result _ _ hrd]
    exact congrArg (fun bs => word (leNat bs)) (List.map_congr_left fun a _ => hsv.coreByte _ a)
  · rw [loadFound, coreDone_pc _ _ hrd, hnote.pc, hsv.pc]
  · rw [loadFound, coreDone_mem, hnote.mem, hsv.mem]

theorem leBytes_getD_mod (n off : Nat) : (leBytes 8 n).getD (off % 8) 0 = BitVec.ofNat 8 (n / 2 ^ (8 * (off % 8))) := by
  rw [leBytes_getD (Nat.mod_lt _ (by decide)), show (256 : Nat) = 2 ^ 8 from rfl, ← Nat.pow_mul]
/-- R421: a byte that a core reads lies in a dword of the control block or in memory. -/
theorem coreByte_eq (s : State) (a : Nat) (x : Found) : coreByte s x a =
    match controlOffset s x.pnum a with
    | some off => BitVec.ofNat 8 ((controlRead s x.p (off / 8 * 8)).toNat / 2 ^ (8 * (off % 8)))
    | none => memByte s a := by
  cases h : controlOffset s x.pnum a with
  | none => exact coreByte_of_offset h
  | some off => exact (coreByte_of_offset h).trans (leBytes_getD_mod _ _)

end Sys2Proof.Machine
end

section
/-! PROOF. O52: a host window that is set sheds the lines of the range removed (R367). -/
namespace Sys2Proof.Machine
open Sys2Proof.Safety

variable {s t u : State}

/-- A relation that holds over every step holds over a fold of them. -/
theorem foldl_related {α : Type} {R : State → State → Prop} (hr : ∀ s, R s s) (ht : ∀ s t u, R s t → R t u → R s u) {f : State → α → State}
    (hf : ∀ s a, R s (f s a)) (as : List α) (s : State) : R s (as.foldl f s) := by
  induction as generalizing s with
  | nil => exact hr s
  | cons a as ih => exact ht _ _ _ (hf s a) (ih _)

/-! ## What a write-back may change -/

/-- What a partition is configured with, and its state. -/
def Part.setup (p : Part) : PartConf × PartSt := (p.conf, p.st)

/-- Lines may leave stashes, and no partition's configuration or state changes. -/
structure KeepsParts (s t : State) : Prop where
  lines : ∀ n, (tileAt t n).lines ⊆ (tileAt s n).lines
  setup : ∀ k, (partAt t k).map Part.setup = (partAt s k).map Part.setup

theorem KeepsParts.refl (s : State) : KeepsParts s s := ⟨fun _ => List.Subset.refl _, fun _ => rfl⟩
theorem KeepsParts.trans (h : KeepsParts s t) (g : KeepsParts t u) : KeepsParts s u :=
  ⟨fun n => List.Subset.trans (g.lines n) (h.lines n), fun k => (g.setup k).trans (h.setup k)⟩
theorem KeepsParts.of_eq (ht : t.tiles = s.tiles) (hp : t.parts = s.parts) : KeepsParts s t :=
  ⟨fun n => by rw [tileAt, ht]; exact List.Subset.refl _, fun k => by rw [partAt, hp, partAt]⟩
theorem keepsParts_setPart {k : Nat} {p q : Part} (h : partAt s k = some p) (hq : q.setup = p.setup) : KeepsParts s (setPart s k q) := by
  refine ⟨fun n => List.Subset.refl _, fun j => ?_⟩
  by_cases hj : j = k
  · subst hj
    rw [partAt_setPart_same, h]
    exact congrArg some hq
  · rw [partAt_setPart_other s hj]
theorem keepsParts_modPart (s : State) (k : Nat) (f : Part → Part) (hf : ∀ p, (f p).setup = p.setup) : KeepsParts s (modPart s k f) := by
  cases h : partAt s k with
  | none =>
    rw [modPart, h]
    exact .refl s
  | some p =>
    rw [modPart_present h]
    exact keepsParts_setPart h (hf p)

theorem putBytes_tiles (s : State) (a : Nat) (bs : List Byte) : (putBytes s a bs).tiles = s.tiles := by
  induction bs generalizing s a with
  | nil => rfl
  | cons b bs ih => exact ih _ _
theorem putBytes_parts (s : State) (a : Nat) (bs : List Byte) : (putBytes s a bs).parts = s.parts := by
  induction bs generalizing s a with
  | nil => rfl
  | cons b bs ih => exact ih _ _
theorem putBytes_serrs (s : State) (a : Nat) (bs : List Byte) : (putBytes s a bs).serrs = s.serrs := by
  induction bs generalizing s a with
  | nil => rfl
  | cons b bs ih => exact ih _ _

theorem keepsParts_putHomeAs (back : Bool) (s : State) (pnum pa : Nat) (bs : List Byte) : KeepsParts s (putHomeAs back s pnum pa bs) := by
  unfold putHomeAs
  split
  · exact .of_eq rfl rfl
  · cases back <;> exact .of_eq (putBytes_tiles s pa bs) (putBytes_parts s pa bs)
theorem keepsParts_devWrite (s : State) (w : DevWrite) : KeepsParts s (devWrite s w) := by
  unfold devWrite
  split
  · unfold devPut putHome
    refine KeepsParts.trans ?_ (keepsParts_putHomeAs ..)
    split
    · exact keepsParts_modPart s _ _ fun _ => rfl
    · exact .refl s
  · exact .of_eq rfl rfl
theorem keepsParts_mirror {part : Nat} {p : Part} (h : partAt s part = some p) (cls : Nat) (i0 i1 : Word) :
    KeepsParts s (mirror s part p cls i0 i1) := by
  simp only [mirror]
  split
  · exact keepsParts_setPart h rfl
  · refine .trans ?_ (keepsParts_devWrite _ _)
    exact keepsParts_setPart h rfl
theorem keepsParts_mirrorIf (c : Prop) [Decidable c] {part : Nat} {p : Part} (h : partAt s part = some p) (cls : Nat) (i0 i1 : Word) :
    KeepsParts s (if c then mirror s part p cls i0 i1 else s) := by
  split
  · exact keepsParts_mirror h ..
  · exact .refl s
theorem keepsParts_sendMsiIf (s : State) (c : Prop) [Decidable c] (part cls : Nat) (p : Part) :
    KeepsParts s (if c then sendMsi s part cls p else s) := by
  split <;> exact .of_eq rfl rfl
theorem partAt_sendMsiIf (s : State) (c : Prop) [Decidable c] (part cls : Nat) (p : Part) (k : Nat) :
    partAt (if c then sendMsi s part cls p else s) k = partAt s k := by
  split <;> rfl
theorem keepsParts_post (s : State) (part cls : Nat) (i0 i1 : Word) : KeepsParts s (post s part cls i0 i1) := by
  unfold post
  split
  · exact .refl s
  · next p h =>
    refine .trans (.trans ?_ (keepsParts_sendMsiIf ..)) (keepsParts_mirrorIf _ ?_ ..)
    · exact .of_eq rfl rfl
    · rw [partAt_sendMsiIf]
      exact h
theorem keepsParts_addLoss (s : State) (pnum pline : Nat) : KeepsParts s (addLoss s pnum pline) := by
  unfold addLoss
  split
  · exact .refl s
  · next p h =>
    split
    · exact .refl s
    · split
      · exact .of_eq rfl rfl
      · exact (keepsParts_setPart (q := { p with loss := p.loss ++ [pline] }) h rfl).trans (keepsParts_post ..)
theorem keepsParts_writeBackData (s : State) (tile off pline : Nat) : KeepsParts s (writeBackData s tile off pline) := by
  unfold writeBackData
  dsimp only
  split
  · exact keepsParts_putHomeAs true ..
  · exact (keepsParts_addLoss ..).trans (.of_eq rfl rfl)
theorem keepsParts_dropLine (s : State) (tile v : Nat) : KeepsParts s (dropLine s tile v) := by
  refine ⟨fun n => ?_, fun k => rfl⟩
  rw [dropLine, tileAt_modTile]
  split
  · next h =>
    rw [h]
    exact List.filter_subset_self ..
  · exact List.Subset.refl _

/-! ## The bytes of a write-back -/

/-- With no error in a stash, a change spares the bytes of the lines that are kept, and gives no error. -/
def SparesLines (gone : Nat → Bool) (s t : State) : Prop :=
  s.serrs = [] → t.serrs = [] ∧ ∀ a, gone (a / 128) = false → memByte t a = memByte s a
theorem SparesLines.refl (gone : Nat → Bool) (s : State) : SparesLines gone s s := fun h => ⟨h, fun _ _ => rfl⟩
theorem SparesLines.trans {gone : Nat → Bool} (h : SparesLines gone s t) (g : SparesLines gone t u) : SparesLines gone s u := fun hs =>
  ⟨(g (h hs).1).1, fun a ha => ((g (h hs).1).2 a ha).trans ((h hs).2 a ha)⟩

theorem writeBackData_sound (hs : s.serrs = []) (tile off pline : Nat) :
    writeBackData s tile off pline = putHomeAs true s ((partOfTile s tile).getD 0) (pline * 128) (stashBytes s tile off 128) :=
  if_pos (by rw [lineErrs, hs]; rfl)
theorem putHomeAs_serrs (back : Bool) (s : State) (pnum pa : Nat) (bs : List Byte) : (putHomeAs back s pnum pa bs).serrs = s.serrs := by
  unfold putHomeAs
  split
  · rfl
  · cases back <;> exact putBytes_serrs s pa bs
/-- R418: bytes put at a home are written there, or held while the host's link is lost. -/
theorem memByte_putHomeAs (back : Bool) (s : State) (pnum pa : Nat) (bs : List Byte) (a : Nat) :
    memByte (putHomeAs back s pnum pa bs) a = if isHost (paLocal pa) && !s.hostUp then memByte s a else memByte (putBytes s pa bs) a := by
  unfold putHomeAs
  split
  · rfl
  · cases back <;> rfl
theorem sparesLines_writeBackData {gone : Nat → Bool} (s : State) (tile off : Nat) {pline : Nat} (hg : gone pline = true) :
    SparesLines gone s (writeBackData s tile off pline) := by
  intro hs
  rw [writeBackData_sound hs, putHomeAs_serrs]
  refine ⟨hs, fun a ha => ?_⟩
  rw [memByte_putHomeAs]
  split
  · rfl
  · rw [memByte_putBytes, stashBytes, smGetList_length, if_neg]
    rintro ⟨hlo, hhi⟩
    have hline : a / 128 = pline := by omega
    rw [hline, hg] at ha
    cases ha

/-! ## The lines of a stash -/

/-- R367: a line of host memory that no window holds. -/
def goneLine (ws : SMap Window) (line : Nat) : Bool := isHost (paLocal (128 * line)) && !inWindows ws (paLocal (128 * line) - 2 ^ 43)
/-- R367: a stash line that is to be shed. -/
def shedsLine (ws : SMap Window) (l : Line) : Bool :=
  isHost (paLocal (128 * l.home)) && l.st != .F && !inWindows ws (paLocal (128 * l.home) - 2 ^ 43)
theorem shedsLine_eq (ws : SMap Window) (l : Line) : shedsLine ws l = (l.st != .F && goneLine ws l.home) := by
  rw [shedsLine, goneLine, ← Bool.and_assoc, Bool.and_comm (l.st != .F)]

/-- R367: a line that is dirty is written back. -/
def backLine (s : State) (tile v : Nat) (l : Line) : State :=
  if l.st = .D ∨ l.st = .B then
    match mapAt (tileAt s tile) (v * 128) with
    | some (_, m) => writeBackData s tile (stashOff m (v * 128)) l.home
    | none => s
  else s
def shedLine (ws : SMap Window) (tile : Nat) (s : State) (e : Nat × Line) : State :=
  if shedsLine ws e.2 then dropLine (backLine s tile e.1 e.2) tile e.1 else s
theorem shedHostLines_eq (s : State) (ws : SMap Window) (tile : Nat) :
    shedHostLines s ws tile = (tileAt s tile).lines.foldl (shedLine ws tile) s := rfl

theorem keepsParts_shedLine (ws : SMap Window) (tile : Nat) (s : State) (e : Nat × Line) : KeepsParts s (shedLine ws tile s e) := by
  unfold shedLine backLine
  split
  · refine KeepsParts.trans ?_ (keepsParts_dropLine ..)
    split
    · split
      · exact keepsParts_writeBackData ..
      · exact .refl s
    · exact .refl s
  · exact .refl s
theorem sparesLines_shedLine (ws : SMap Window) (tile : Nat) (s : State) (e : Nat × Line) : SparesLines (goneLine ws) s (shedLine ws tile s e) := by
  unfold shedLine backLine
  split
  · next h =>
    rw [shedsLine_eq, Bool.and_eq_true] at h
    have hdrop (s : State) : SparesLines (goneLine ws) s (dropLine s tile e.1) := fun hs => ⟨hs, fun _ _ => rfl⟩
    refine SparesLines.trans ?_ (hdrop _)
    split
    · split
      · exact sparesLines_writeBackData s tile _ h.2
      · exact .refl _ s
    · exact .refl _ s
  · exact .refl _ s

theorem keepsParts_shedHostLines (ws : SMap Window) (s : State) (tile : Nat) : KeepsParts s (shedHostLines s ws tile) := by
  rw [shedHostLines_eq]
  exact foldl_related .refl (fun _ _ _ => .trans) (keepsParts_shedLine ws tile) _ s
theorem sparesLines_shedHostLines (ws : SMap Window) (s : State) (tile : Nat) : SparesLines (goneLine ws) s (shedHostLines s ws tile) := by
  rw [shedHostLines_eq]
  exact foldl_related (.refl _) (fun _ _ _ => .trans) (sparesLines_shedLine ws tile) _ s

theorem shedLine_drops {ws : SMap Window} {e : Nat × Line} (h : shedsLine ws e.2 = true) (tile : Nat) (s : State) :
    ∀ x ∈ (tileAt (shedLine ws tile s e) tile).lines, x.1 ≠ e.1 := by
  rw [shedLine, if_pos h, dropLine, tileAt_modTile_same]
  intro x hx
  simpa using (List.mem_filter.1 hx).2
/-- Every line to be shed has left the stash once the lines have been gone through. -/
theorem foldl_shedLine_drops (ws : SMap Window) (tile : Nat) (ls : List (Nat × Line)) (s : State) {e : Nat × Line} (he : e ∈ ls)
    (h : shedsLine ws e.2 = true) : ∀ x ∈ (tileAt (ls.foldl (shedLine ws tile) s) tile).lines, x.1 ≠ e.1 := by
  induction ls generalizing s with
  | nil => exact absurd he List.not_mem_nil
  | cons l ls ih =>
    rcases List.mem_cons.1 he with rfl | he
    · have hkeep := foldl_related .refl (fun _ _ _ => .trans) (keepsParts_shedLine ws tile) ls (shedLine ws tile s e)
      exact fun x hx => shedLine_drops h tile s x (hkeep.lines tile hx)
    · exact ih _ he
theorem shedHostLines_keeps_none (ws : SMap Window) (s : State) (tile : Nat) :
    ∀ x ∈ (tileAt (shedHostLines s ws tile) tile).lines, shedsLine ws x.2 = false := by
  intro x hx
  have hmem := (keepsParts_shedHostLines ws s tile).lines tile hx
  rw [shedHostLines_eq] at hx
  exact Bool.eq_false_iff.2 fun h => foldl_shedLine_drops ws tile _ s hmem h x hx rfl

/-- R367: the tiles of a partition shed their lines. -/
def shedTiles (ws : SMap Window) (tiles : List Nat) (s : State) : State := tiles.foldl (fun s t => shedHostLines s ws t) s
theorem keepsParts_shedTiles (ws : SMap Window) (tiles : List Nat) (s : State) : KeepsParts s (shedTiles ws tiles s) :=
  foldl_related .refl (fun _ _ _ => .trans) (keepsParts_shedHostLines ws) tiles s
theorem sparesLines_shedTiles (ws : SMap Window) (tiles : List Nat) (s : State) : SparesLines (goneLine ws) s (shedTiles ws tiles s) :=
  foldl_related (.refl _) (fun _ _ _ => .trans) (sparesLines_shedHostLines ws) tiles s
theorem shedTiles_keeps_none (ws : SMap Window) (tiles : List Nat) (s : State) {tile : Nat} (ht : tile ∈ tiles) :
    ∀ x ∈ (tileAt (shedTiles ws tiles s) tile).lines, shedsLine ws x.2 = false := by
  induction tiles generalizing s with
  | nil => exact absurd ht List.not_mem_nil
  | cons k ks ih =>
    rcases List.mem_cons.1 ht with rfl | ht
    · exact fun x hx => shedHostLines_keeps_none ws s tile x ((keepsParts_shedTiles ws ks (shedHostLines s ws tile)).lines tile hx)
    · exact ih _ ht

/-- R219, R367: the one dirty line of the one tile is written back to its home. -/
theorem memByte_shedTiles_dirty {ws : SMap Window} {tile v n i : Nat} {l : Line} {m : Mapping} (hs : s.serrs = []) (hu : s.hostUp = true)
    (hl : (tileAt s tile).lines = [(v, l)]) (hm : mapAt (tileAt s tile) (v * 128) = some (n, m)) (hd : l.st = .D ∨ l.st = .B)
    (hg : goneLine ws l.home = true) (hi : i < 128) :
    memByte (shedTiles ws [tile] s) (l.home * 128 + i) = stashByte s tile (stashOff m (v * 128) + i) := by
  have hshed : shedsLine ws l = true := by
    rw [shedsLine_eq, hg]
    rcases hd with h | h <;> rw [h] <;> rfl
  have hback : shedTiles ws [tile] s = dropLine (writeBackData s tile (stashOff m (v * 128)) l.home) tile v := by
    show shedHostLines s ws tile = _
    rw [shedHostLines_eq, hl]
    show shedLine ws tile s (v, l) = _
    rw [shedLine, if_pos hshed, backLine, if_pos hd, hm]
  have hdrop (u : State) (a : Nat) : memByte (dropLine u tile v) a = memByte u a := rfl
  rw [hback, hdrop, writeBackData_sound hs, memByte_putHomeAs, hu, if_neg (by simp), memByte_putBytes, stashBytes, smGetList_length,
    if_pos (by omega), Nat.add_sub_cancel_left, smGetList_getD 0 _ hi]
  rfl

/-! ## The lines of the cores -/

/-- R367: a core gives up lines. -/
def Agent.shed (gone : Nat → Bool) (a : Agent) : Agent :=
  { a with l2 := a.l2.filter fun e => !gone e.1, icode := a.icode.filter fun e => !gone e.1 }
def shedCores (gone : Nat → Bool) (cores : List Nat) (s : State) : State := cores.foldl (fun s k => modAgent s k (Agent.shed gone)) s
def shedCode (gone : Nat → Bool) (k : Nat) (s : State) : State := { s with ilines := s.ilines.filter fun i => !(i.part == k && gone i.home) }
theorem shedCoreLines_eq (s : State) (k : Nat) (p : Part) (ws : SMap Window) :
    shedCoreLines s k p ws = shedCode (goneLine ws) k (shedCores (goneLine ws) p.conf.cores s) := rfl

/-- Lines may leave the cores' L2, and tiles, partitions and memory are the same. -/
structure KeepsMem (s t : State) : Prop where
  l2 : ∀ c, (agentAt t c).l2 ⊆ (agentAt s c).l2
  tiles : t.tiles = s.tiles
  parts : t.parts = s.parts
  mem : t.mem = s.mem
theorem KeepsMem.refl (s : State) : KeepsMem s s := ⟨fun _ => List.Subset.refl _, rfl, rfl, rfl⟩
theorem KeepsMem.trans (h : KeepsMem s t) (g : KeepsMem t u) : KeepsMem s u :=
  ⟨fun c => List.Subset.trans (g.l2 c) (h.l2 c), g.tiles.trans h.tiles, g.parts.trans h.parts, g.mem.trans h.mem⟩
theorem keepsMem_shedCore (gone : Nat → Bool) (s : State) (k : Nat) : KeepsMem s (modAgent s k (Agent.shed gone)) := by
  refine ⟨fun c => ?_, rfl, rfl, rfl⟩
  rw [agentAt_modAgent]
  split
  · next h =>
    rw [h]
    exact List.filter_subset_self ..
  · exact List.Subset.refl _
theorem keepsMem_shedCores (gone : Nat → Bool) (cores : List Nat) (s : State) : KeepsMem s (shedCores gone cores s) :=
  foldl_related .refl (fun _ _ _ => .trans) (keepsMem_shedCore gone) cores s
theorem shedCores_keeps_none (gone : Nat → Bool) (cores : List Nat) (s : State) {c : Nat} (hc : c ∈ cores) :
    ∀ e ∈ (agentAt (shedCores gone cores s) c).l2, gone e.1 = false := by
  induction cores generalizing s with
  | nil => exact absurd hc List.not_mem_nil
  | cons k ks ih =>
    rcases List.mem_cons.1 hc with rfl | hc
    · intro e he
      have hfirst := (keepsMem_shedCores gone ks (modAgent s c (Agent.shed gone))).l2 c he
      rw [agentAt_modAgent_same] at hfirst
      simpa using (List.mem_filter.1 hfirst).2
    · exact ih _ hc

end Sys2Proof.Machine
end

section
/-! PROOF. O52: the host windows, and the requests from outside together (R367). -/
namespace Sys2Proof.Machine
open Sys2Proof.Safety

variable {s : State} {k w base size : Nat} {rd wr : Bool}

def Part.withWindows (ws : SMap Window) (p : Part) : Part := { p with windows := ws }
/-- R367: the partition's tiles and cores have shed the lines that no window of a list holds, and the windows are those of the list. -/
def windowSet (s : State) (k : Nat) (p : Part) (ws : SMap Window) : State :=
  modPart (shedCoreLines (shedTiles ws p.conf.tiles s) k p ws) k (Part.withWindows ws)

section
variable (hw : w < 16) (hk : k < 8) (hb : base % 4096 = 0) (hz : size % 4096 = 0) (hboot : booted s 6 = true)
include hw hk hb hz hboot

theorem windowWrite_admitted : ¬(16 ≤ w ∨ 8 ≤ k ∨ base % 4096 ≠ 0 ∨ size % 4096 ≠ 0 ∨ (!booted s 6) = true) := by
  simp only [hb, hz, hboot, ne_eq, not_true_eq_false, Bool.not_true, Bool.false_eq_true, or_self, or_false]
  omega
theorem exec_hostWindowWrite_present {p : Part} (hp : partAt s k = some p) : exec (.hostWindowWrite k w base size rd wr) s =
    .next (windowSet s k p (smSet Window.closed p.windows w (windowReg base size rd wr))) := by
  refine congrArg Host.Outcome.next ((if_neg (windowWrite_admitted hw hk hb hz hboot)).trans ?_)
  rw [hp]
  rfl
theorem exec_hostWindowWrite_absent (hp : partAt s k = none) : exec (.hostWindowWrite k w base size rd wr) s = .next { s with
    preWindows := smSet [] s.preWindows k (smSet Window.closed (smGet [] s.preWindows k) w (windowReg base size rd wr)) } := by
  refine congrArg Host.Outcome.next ((if_neg (windowWrite_admitted hw hk hb hz hboot)).trans ?_)
  rw [hp]

end

theorem windowReg_eq (base size : Nat) (rd wr : Bool) :
    windowReg base size rd wr = if size = 0 ∨ (rd = false ∧ wr = false) then ⟨0, 0, false, false⟩ else ⟨base, size, rd, wr⟩ := by
  simp [windowReg, Window.closed]

/-! ## The state after the windows are set -/

/-- Up to the windows, the partition is as its tiles have left it, and so are tiles, agents and memory. -/
theorem windowSet_eq {p : Part} (hp : partAt s k = some p) (ws : SMap Window) : ∃ q : Part, q.conf = p.conf ∧ q.st = p.st ∧
    windowSet s k p ws = setPart (shedCode (goneLine ws) k (shedCores (goneLine ws) p.conf.cores (shedTiles ws p.conf.tiles s))) k
      (q.withWindows ws) := by
  have hcores := keepsMem_shedCores (goneLine ws) p.conf.cores (shedTiles ws p.conf.tiles s)
  have hsetup := (keepsParts_shedTiles ws p.conf.tiles s).setup k
  rw [hp] at hsetup
  obtain ⟨q, hq, heq⟩ := Option.map_eq_some_iff.1 hsetup
  obtain ⟨hconf, hst⟩ := Prod.mk.inj heq
  refine ⟨q, hconf, hst, ?_⟩
  have hpart : partAt (shedCode (goneLine ws) k (shedCores (goneLine ws) p.conf.cores (shedTiles ws p.conf.tiles s))) k = some q := by
    have hparts : partAt (shedCores (goneLine ws) p.conf.cores (shedTiles ws p.conf.tiles s)) k = some q := by
      rw [partAt, hcores.parts]
      exact hq
    exact hparts
  rw [windowSet, shedCoreLines_eq, modPart_present hpart]

theorem tileAt_windowSet (s : State) (k : Nat) {p : Part} (hp : partAt s k = some p) (ws : SMap Window) (n : Nat) :
    tileAt (windowSet s k p ws) n = tileAt (shedTiles ws p.conf.tiles s) n := by
  obtain ⟨q, _, _, h⟩ := windowSet_eq hp ws
  rw [h]
  exact congrArg (smGet {} · n) (keepsMem_shedCores (goneLine ws) p.conf.cores (shedTiles ws p.conf.tiles s)).tiles
theorem memByte_windowSet (s : State) (k : Nat) {p : Part} (hp : partAt s k = some p) (ws : SMap Window) (a : Nat) :
    memByte (windowSet s k p ws) a = memByte (shedTiles ws p.conf.tiles s) a := by
  obtain ⟨q, _, _, h⟩ := windowSet_eq hp ws
  rw [h]
  exact congrArg (smGet 0 · a) (keepsMem_shedCores (goneLine ws) p.conf.cores (shedTiles ws p.conf.tiles s)).mem
theorem agentAt_windowSet (s : State) (k : Nat) {p : Part} (hp : partAt s k = some p) (ws : SMap Window) (c : Nat) :
    agentAt (windowSet s k p ws) c = agentAt (shedCores (goneLine ws) p.conf.cores (shedTiles ws p.conf.tiles s)) c := by
  obtain ⟨q, _, _, h⟩ := windowSet_eq hp ws
  rw [h]
  rfl
theorem ilines_windowSet {p : Part} (hp : partAt s k = some p) (ws : SMap Window) :
    ∀ i ∈ (windowSet s k p ws).ilines, i.part = k → goneLine ws i.home = false := by
  obtain ⟨q, _, _, h⟩ := windowSet_eq hp ws
  rw [h]
  intro i hi hpart
  have hkept := (List.mem_filter.1 hi).2
  rw [hpart] at hkept
  simpa using hkept

/-- R367: a host window that is set sheds the lines of the range removed, and writes back those that are dirty. -/
theorem window_sheds {p : Part} (hp : partAt s k = some p) (ws : SMap Window) : ∃ q,
    partAt (windowSet s k p ws) k = some q ∧ q.conf = p.conf ∧ q.st = p.st ∧ q.windows = ws ∧
    (∀ tile ∈ p.conf.tiles, ∀ v l, smFind (tileAt (windowSet s k p ws) tile).lines v = some l → l.st ≠ .F → goneLine q.windows l.home = false) ∧
    (∀ c ∈ p.conf.cores, ∀ e ∈ (agentAt (windowSet s k p ws) c).l2, goneLine q.windows e.1 = false) ∧
    (∀ i ∈ (windowSet s k p ws).ilines, i.part = k → goneLine q.windows i.home = false) ∧
    (s.serrs = [] → ∀ a, goneLine q.windows (a / 128) = false → memByte (windowSet s k p ws) a = memByte s a) ∧
    (s.serrs = [] → s.hostUp = true → ∀ tile v l n m, p.conf.tiles = [tile] → (tileAt s tile).lines = [(v, l)] →
      mapAt (tileAt s tile) (v * 128) = some (n, m) → l.st = .D ∨ l.st = .B → goneLine q.windows l.home = true →
      ∀ i, i < 128 → memByte (windowSet s k p ws) (l.home * 128 + i) = stashByte s tile (stashOff m (v * 128) + i)) := by
  obtain ⟨q, hconf, hst, heq⟩ := windowSet_eq hp ws
  refine ⟨q.withWindows ws, by rw [heq, partAt_setPart_same], hconf, hst, rfl, fun tile ht v l hl hF => ?_, fun c hc e he => ?_,
    ilines_windowSet hp ws, fun hs a ha => ?_, fun hs hu tile v l n m ht hl hm hd hg i hi => ?_⟩
  · rw [tileAt_windowSet s k hp] at hl
    have hnone := shedTiles_keeps_none ws p.conf.tiles s ht _ (smFind_mem hl)
    rw [shedsLine_eq] at hnone
    show goneLine ws l.home = false
    simpa [hF] using hnone
  · rw [agentAt_windowSet s k hp] at he
    exact shedCores_keeps_none _ _ _ hc e he
  · rw [memByte_windowSet s k hp]
    exact (sparesLines_shedTiles ws p.conf.tiles s hs).2 a ha
  · rw [memByte_windowSet s k hp, ht]
    exact memByte_shedTiles_dirty hs hu hl hm hd hg hi

/-! ## The obligation -/

/-- Settles O52: part by part, the requests over Learo, the host's and the devices' accesses, the windows, and the agent cores. -/
theorem requestEvents : Obligations.RequestEvents := by
  refine ⟨fun s n c a hc hs hd => ?_, fun s t sp q off len data hs hsp hq => ?_,
    fun s addr n data k p pas hp hu he hs hc hsc hpas hd hok hq hrq => ?_, fun s r hu hq => ?_,
    fun s k w base size rd wr win hw hk hb hz hboot hwin => ?_, fun s k pnum num p w hd hp hpart => ?_, coreByte_eq⟩
  · subst hc
    exact learo_context hs hd a
  · obtain ⟨hfreeze, hthaw⟩ := learoFreeze_queue hs hsp hq
    obtain ⟨hrdq, hstop, hbusy⟩ := learo_queue hs hsp hq
    obtain ⟨hrd, hwr⟩ := learo_stash hs off len data
    exact ⟨hfreeze, hthaw, hrdq, hstop, hbusy, hrd, hwr⟩
  · exact outside_access hp hu he hs hc hsc hpas hd hok hq hrq
  · exact host_waits_or_refuses hu hq
  · have hreg : windowReg base size rd wr = win := (windowReg_eq base size rd wr).trans hwin.symm
    refine ⟨fun p hp => ?_, fun hp => ?_⟩
    · obtain ⟨q, hq, hconf, hst, hwindows, hrest⟩ := window_sheds hp (smSet Window.closed p.windows w win)
      have hexec := exec_hostWindowWrite_present (rd := rd) (wr := wr) hw hk hb hz hboot hp
      rw [hreg] at hexec
      exact ⟨_, q, hexec, hq, hconf, hst, hwindows, hrest⟩
    · have hexec := exec_hostWindowWrite_absent (rd := rd) (wr := wr) hw hk hb hz hboot hp
      rw [hreg] at hexec
      exact hexec
  · obtain ⟨hadmits, hrefuses, hfault, hhost, hcore⟩ := registers_written hd hp hpart num w
    exact ⟨hadmits, hrefuses, hfault, hhost, hcore, fun u va rd n hu hwait hva => core_load hd hp hpart rd n hu hwait hva⟩

end Sys2Proof.Machine
end

section
/-! PROOF. What becomes of an operation alone in its bundle: that it runs, stays held, stops with a fault, or is nullified (R40, R44, R53 to R63);
and what one of the M slot does not meet there (R59, R60). -/
namespace Sys2Proof.Machine
open Sys2Proof.Safety

/-- R40, R42, R44, R66: an operation alone in its bundle is run: it is legal, its guard reads 1, its level and its claim are there, its
sources read the words `args`, and its channel has room. -/
structure LoneRuns (s : State) (w : Word) (op : Op) (args : List Word) (pops : List Nat) : Prop where
  ready : Ready s
  legal : slotLegal w = true
  coded : opField w ≠ 0xFF
  guard : guardOf (me s) w = true
  level : op.service = true → (me s).svc = true
  seat : op.control = true → localOf s.cur = 0
  claim : op.claim = true → (me s).hasClaim = true
  reads : Reads s op.srcs args pops
  room : pushReady s op

section
variable {s t : State} {w : Word} {op : Op} {args : List Word} {pops : List Nat} {e : Eff} {f : FaultInfo}

/-- Those of a memory format, none of which need the service level or a control context. -/
theorem LoneRuns.of_MEMF {g : MEMF} {c : BitVec 8} (hr : Ready s) (hl : slotLegal (g.pack c) = true) (hf : c ≠ 0xFF)
    (hg : Enabled s g.gp g.gn) (hs : op.service = false) (hk : op.control = false) (hc : op.claim = true → (me s).hasClaim = true)
    (ha : Reads s op.srcs args pops) (hp : pushReady s op) : LoneRuns s (g.pack c) op args pops :=
  ⟨hr, hl, by rwa [opField_MEMF_pack], by simpa [Enabled] using hg, by simp [hs], by simp [hk], hc, ha, hp⟩
theorem LoneRuns.of_RRR {g : RRR} {c : BitVec 8} (hr : Ready s) (hl : slotLegal (g.pack c) = true) (hf : c ≠ 0xFF)
    (hg : Enabled s g.gp g.gn) (hs : op.service = false) (hk : op.control = false) (hc : op.claim = false)
    (ha : Reads s op.srcs args pops) (hp : pushReady s op) : LoneRuns s (g.pack c) op args pops :=
  ⟨hr, hl, by rwa [opField_RRR_pack], by simpa [Enabled] using hg, by simp [hs], by simp [hk], by simp [hc], ha, hp⟩
theorem LoneRuns.of_ENGF {g : ENGF} {c : BitVec 8} (hr : Ready s) (hl : slotLegal (g.pack c) = true) (hf : c ≠ 0xFF)
    (hg : Enabled s g.gp g.gn) (hs : op.service = false) (hk : op.control = false) (hc : op.claim = false)
    (ha : Reads s op.srcs args pops) (hp : pushReady s op) : LoneRuns s (g.pack c) op args pops :=
  ⟨hr, hl, by rwa [opField_ENGF_pack], by simpa [Enabled] using hg, by simp [hs], by simp [hk], by simp [hc], ha, hp⟩

theorem LoneRuns.passes (h : LoneRuns s w op args pops) (hrun : op.run (loneView s w args) s = .ok t e) (hz : e.last = none) :
    issueOne w op s = .next (lonePass s t w pops e) :=
  lone_ok h.ready h.legal h.coded h.guard h.level h.seat h.claim h.reads h.room hrun hz
/-- R111: STOP is set already. -/
theorem LoneRuns.passes_stopped {b : Bool} (h : LoneRuns s w op args pops) (hrun : op.run (loneView s w args) s = .ok t { stop := b }) :
    issueOne w op s = .next (lonePass s t w pops {}) :=
  (h.passes hrun rfl).trans (congrArg _ (lonePass_stop s t w pops {} b))
theorem LoneRuns.faults (h : LoneRuns s w op args pops) (hrun : op.run (loneView s w args) s = .fault f) :
    issueOne w op s = .next (loneFault s w f) :=
  lone_fault h.ready h.legal h.coded h.guard h.level h.seat h.claim h.reads h.room hrun
theorem LoneRuns.parks {why : Why} {wt : Wait} {req : State → State} (h : LoneRuns s w op args pops)
    (hrun : op.run (loneView s w args) s = .hold why wt req) : issueOne w op s = .next (lonePark s (req s) w why wt) :=
  lone_hold h.ready h.legal h.coded h.guard h.level h.seat h.claim h.reads h.room hrun

/-- R252: an operation that stays holds its bundle, its context in rotation. -/
theorem LoneRuns.stays {req : State → State} (h : LoneRuns s w op args pops) (hrun : op.run (loneView s w args) s = .stay req) :
    issueOne w op s = .next (modCtx (req s) s.cur fun c => { c with held := some (Bundle.single (me s).pc w) }) := by
  have hres := loneRes_run (w := w) h.guard h.level h.seat h.claim h.reads h.room
  rw [hrun] at hres
  rw [issueOne_eq h.ready h.legal h.coded (by rw [hres]; nofun), hres]
  rfl

/-- R63, R205: an operation that stops keeps what it has done, and takes its fault. -/
theorem LoneRuns.stops {done : State → State} (h : LoneRuns s w op args pops) (hrun : op.run (loneView s w args) s = .stop done f) :
    issueOne w op s = .next (takeFault (done s) s.cur (opField w).toNat (homeSlot (opField w)).num f (me s).pc) := by
  have hres := loneRes_run (w := w) h.guard h.level h.seat h.claim h.reads h.room
  rw [hrun, loneRes, if_pos (executes_of_guard (o := ⟨_, w, op⟩) h.guard)] at hres
  obtain ⟨hi, hpend⟩ := h.ready
  have hg := h.guard
  have hh := single_hdrOk (me s).pc w
  have hff : ¬opField w = 255#8 := h.coded
  have hself : clashes ⟨homeSlot (opField w), w, op⟩ [⟨homeSlot (opField w), w, op⟩] = false := by simp [clashes]
  simp only [me] at hpend hh hres hg
  have ht : tryBundle s s.cur (Bundle.single (ctxOf s s.cur).pc w) [⟨homeSlot (opField w), w, op⟩] =
      (.stop done f, ⟨homeSlot (opField w), w, op⟩) := by
    unfold tryBundle
    rw [readView_settled hpend]
    simp [runOps, home_admits, h.legal, hff, hself, mates_lone, executes_of_guard (o := ⟨homeSlot (opField w), w, op⟩) hg, hres, OpRes.ofRes]
  unfold issueOne needLive runBundle
  simp only [hi, if_true, landDue_settled hpend, landLoose_settled hpend, landThose_settled hpend, ite_self, hpend, bne_self_eq_false,
    Bool.and_false, hh, single_dict, Bool.not_true, Bool.false_eq_true, and_false, if_false, ht]
  rfl

/-- R40: an operation whose guard reads 0 does what it does when nullified. -/
theorem lone_nullified (hr : Ready s) (hl : slotLegal w = true) (hf : opField w ≠ 0xFF)
    (hg : guardOf (me s) w = false) (hx : op.progress = false) (hn : op.null (loneView s w (op.srcs.map (readS (me s)))) s = .ok t e)
    (hz : e.last = none) : issueOne w op s = .next (lonePass s t w [] e) := by
  have hres : loneRes s w op = .ok ⟨t, [(homeSlot (opField w), e)], [], [], decide (homeSlot (opField w) = .s0) && (e.jump.isSome || e.taken)⟩ := by
    unfold loneRes
    rw [if_neg (by simp [executes_of_not_guard (o := ⟨homeSlot (opField w), w, op⟩) hg (by simp [hx])]), hn]
    simp [OpRes.ofRes]
  rw [issueOne_eq hr hl hf (by rw [hres]; nofun), hres]
  simp only [loneNext, List.findSome?_cons, hz, List.findSome?_nil]
  rfl

/-! ## The words read (R44) -/

theorem readArgs_length {c : Ctx} {srcs : List (BitVec 9)} {pops pops' : List Nat} {acc args : List Word} {k : Nat}
    (h : readArgs c pops srcs acc = (.ok (args, pops'), k)) : args.length = acc.length + srcs.length := by
  induction srcs generalizing pops acc with
  | nil =>
    simp only [readArgs, Prod.mk.injEq, Except.ok.injEq] at h
    simp [← h.1.1]
  | cons f fs ih =>
    unfold readArgs at h
    dsimp only at h
    split at h
    · split at h
      · simp [ih h]; omega
      · simp at h
    · simp [ih h]; omega
/-- As many words are read as there are sources: beside the last of one source none, of two sources one. -/
theorem reads_length {srcs : List (BitVec 9)} (h : Reads s srcs args pops) : args.length = srcs.length := by
  simpa using readArgs_length h
theorem no_other_source {b : BitVec 9} {base : Word} (h : Reads s [b] (args ++ [base]) pops) : args = [] :=
  List.eq_nil_of_length_eq_zero (by simpa using reads_length h)
theorem one_other_source {b d : BitVec 9} {base : Word} (h : Reads s [d, b] (args ++ [base]) pops) : ∃ a, args = [a] :=
  List.length_eq_one_iff.1 (by simpa using reads_length h)

/-! ## What is read at issue (R53) -/

@[simp] theorem loneView_n : (loneView s w args).n = s.cur := rfl
@[simp] theorem loneView_c : (loneView s w args).c = me s := rfl
@[simp] theorem loneView_arg_zero (x : Word) (xs : List Word) : (loneView s w (x :: xs)).arg 0 = x := rfl
@[simp] theorem loneView_arg_one (x y : Word) (xs : List Word) : (loneView s w (x :: y :: xs)).arg 1 = y := rfl
@[simp] theorem loneView_arg_two (x y z : Word) (xs : List Word) : (loneView s w (x :: y :: z :: xs)).arg 2 = z := rfl
@[simp] theorem loneView_answered : (loneView s w args).answered = (me s).answered := rfl

/-! ## What an M operation does not meet alone in its bundle (R59, R60) -/

/-- R60: no command of an engine beside it takes what it overwrites, -/
theorem wroteAt_lone (t : State) (locs : List Loc) : wroteAt (loneView s w args) t locs = [] := by
  unfold wroteAt
  rw [if_neg]
  rintro ⟨hm, hx⟩
  simp only [loneView] at hm
  simp [loneView, Bundle.single, hm] at hx
/-- writes what it reads, -/
theorem mateRead_lone (t : State) (ea : Nat) (locs : List Loc) (form : MateForm) : mateRead (loneView s w args) t ea locs form = none := by
  simp [mateRead, mated, loneView]
theorem readMate_lone (u : State) (ea : Nat) (locs : List Loc) : readMate (loneView s w args) u ea locs = readLocs u locs := if_pos rfl
theorem tookMate_lone (u : State) (n : Nat) : tookMate (loneView s w args) u n = u := if_pos rfl
/-- or makes it wait with MA. -/
theorem maHeld_lone (t : State) (rs : List (Nat × Nat)) : maHeld t (loneView s w args) rs = false := by
  simp [maHeld, loneView]
theorem maWaits_lone (t : State) (ea n : Nat) : maWaits t (loneView s w args) ea n = false := by
  simp [maWaits, loneView]

end
end Sys2Proof.Machine
end

section
/-! PROOF. O18, O19, O20 and the first part of O23: the loads, stores and atomics (R206 to R214, R235 to R237), each an access and what is
done with the places of its bytes. -/
namespace Sys2Proof.Machine
open Sys2Proof.Safety

/-! ## An operation and its access -/

/-- R206 to R209: an operation accesses n bytes at ea when it runs, once its `.sc` window is open (R182), and goes on with `k`. -/
def AccessesBy (op : Op) (v : View) (s : State) (order : BitVec 3) (sys : Bool) (need : Need) (nc : Bool) (ea n : Nat)
    (k : State → List Loc → Res) : Prop :=
  op.run v s = if scHeld s v.n order then .stay id else withPlaces true sys v s need nc ea n k

/-- What is done with the places of an access leaves every other byte of memory as it was. -/
def WritesOnly (k : State → List Loc → Res) : Prop :=
  ∀ s locs t e, k s locs = .ok t e → ∀ a, Loc.mem a ∉ locs → memByte t a = memByte s a

/-- R208, R209, R182: what becomes of an access that is not performed: it stays held for its window, it is held for the home, or it
faults, and then only a write lost on its way (R205, R417) may have changed its own bytes. -/
def AccessEnds (s : State) (w : Word) (o : Host.Outcome State Fault Refusal) (order : BitVec 3) (r : Req6) (sys : Bool) (ea n : Nat) : Prop :=
  (scHeld s s.cur order = true → o = .next (modCtx s s.cur fun c => { c with held := some (Bundle.single (me s).pc w) })) ∧
  (scHeld s s.cur order = false →
    (∀ t hs, access s r ea n = .hold t hs →
      o = .next (lonePark s (setWants t s.cur hs) w .fault (.home (touchedBy s (loneView s w []) ea n)))) ∧
    (∀ x, access s r ea n = .fault x →
      ∃ m p, o = .next (loneFault { s with mem := m, pub := p } w x) ∧
        (maybeDone r sys x = false → m = s.mem ∧ p = s.pub) ∧
        (∀ a, (∀ locs, lostPlaces s r ea n = some locs → Loc.mem a ∉ locs) → memByte { s with mem := m } a = memByte s a)))

section
variable {s t : State} {w : Word} {op : Op} {args : List Word} {pops : List Nat} {order : BitVec 3} {sys nc : Bool} {need : Need}
  {ea n : Nat} {k : State → List Loc → Res}

theorem withPlaces_lone (s : State) : withPlaces true sys (loneView s w args) s need nc ea n k =
    match access s (homeReq s need nc true) ea n with
    | .ok t locs => k t locs
    | .hold _ _ => .hold .fault (.home (touchedBy s (loneView s w args) ea n)) fun s0 =>
        match access s0 (homeReq s need nc true) ea n with
        | .hold t hs => setWants t s.cur hs
        | _ => s0
    | .fault x =>
      if maybeDone (homeReq s need nc true) sys x && Config.lost s.freeCount then
        match (lostPlaces s (homeReq s need nc true) ea n).map (k s) with
        | some (.ok t _) => .stop (fun s0 => { s0 with mem := t.mem, pub := t.pub }) x
        | _ => .fault x
      else .fault x := by
  unfold withPlaces
  rw [maWaits_lone]
  rfl

/-- R205, R209: a fault of the access is the operation's, before anything is stored or after a write whose loss is left open. -/
theorem withPlaces_fault {x : FaultInfo} (hk : WritesOnly k) (h : access s (homeReq s need nc true) ea n = .fault x) :
    withPlaces true sys (loneView s w args) s need nc ea n k = .fault x ∨
    ∃ locs t, withPlaces true sys (loneView s w args) s need nc ea n k = .stop (fun s0 => { s0 with mem := t.mem, pub := t.pub }) x ∧
      maybeDone (homeReq s need nc true) sys x = true ∧ lostPlaces s (homeReq s need nc true) ea n = some locs ∧
      ∀ a, Loc.mem a ∉ locs → memByte t a = memByte s a := by
  rw [withPlaces_lone, h]
  dsimp only
  split
  · next hd =>
    cases hl : lostPlaces s (homeReq s need nc true) ea n with
    | none => exact .inl rfl
    | some locs =>
      cases hkl : k s locs with
      | ok t e => exact .inr ⟨locs, t, by simp [hkl], (Bool.and_eq_true_iff.1 hd).1, rfl, hk s locs t e hkl⟩
      | _ => exact .inl (by simp [hkl])
  · exact .inl rfl

theorem access_ends (hr : LoneRuns s w op args pops) (hrun : AccessesBy op (loneView s w args) s order sys need nc ea n k)
    (hk : WritesOnly k) : AccessEnds s w (issueOne w op s) order (homeReq s need nc true) sys ea n := by
  refine ⟨fun hsc => hr.stays (req := id) (hrun.trans (if_pos hsc)), fun hsc => ?_⟩
  have hplaces := hrun.trans (if_neg (Bool.eq_false_iff.1 hsc))
  refine ⟨fun t hs hacc => ?_, fun x hacc => ?_⟩
  · rw [withPlaces_lone, hacc] at hplaces
    refine (hr.parks hplaces).trans ?_
    rw [hacc]
    rfl
  · rcases withPlaces_fault (w := w) (args := args) (sys := sys) hk hacc with hf | ⟨locs, t, hf, hmay, hlost, hother⟩
    · exact ⟨s.mem, s.pub, hr.faults (hplaces.trans hf), fun _ => ⟨rfl, rfl⟩, fun a _ => rfl⟩
    · have hstop := hr.stops (hplaces.trans hf)
      refine ⟨t.mem, t.pub, hstop, fun hno => ?_, fun a ha => hother a (ha locs hlost)⟩
      rw [hmay] at hno
      cases hno

/-- R206 to R208: an access that is performed in its window goes on with the places of its bytes. -/
theorem access_performed {locs : List Loc} {e : Eff} {u : State} (hr : LoneRuns s w op args pops)
    (hrun : AccessesBy op (loneView s w args) s order sys need nc ea n k) (hsc : scHeld s s.cur order = false)
    (hp : Placed s true need nc ea n t locs) (hk : k t locs = .ok u e) (hz : e.last = none) :
    issueOne w op s = .next (lonePass s u w pops e) :=
  hr.passes ((hrun.trans (if_neg (Bool.eq_false_iff.1 hsc))).trans ((withPlaces_ok hp).trans hk)) hz

/-! ## What an operation leaves in memory -/

theorem memByte_announceIf (s : State) (n : Nat) (order : BitVec 3) (a : Nat) : memByte (announceIf s n order) a = memByte s a := by
  unfold announceIf
  split <;> rfl
/-- R212: a byte of memory that is none of the places stored to reads as before. -/
theorem memByte_storeLocs_other (s : State) {locs : List Loc} (bs : List Byte) {a : Nat} (h : Loc.mem a ∉ locs) :
    memByte (storeLocs s locs bs) a = memByte s a := by
  refine readLoc_storeLocs_other locs s bs (.mem a) fun l hl heq => h ?_
  cases l with
  | mem b =>
    obtain rfl : a = b := congrArg Prod.snd heq
    exact hl
  | stash => exact absurd (congrArg Prod.fst heq) nofun

/-! ## Loads and stores (R212) -/

variable {f : MEMF} {c : BitVec 8} {base a : Word} {size : Nat} {sg : Bool}

theorem LoneRuns.of_load (hr : Ready s) (hl : slotLegal (f.pack c) = true) (hf : c ≠ 0xFF) (hg : Enabled s f.gp f.gn)
    (ha : Reads s [f.base] args pops) (hd : Room s f.data) : LoneRuns s (f.pack c) (loadOp f size sg) args pops :=
  .of_MEMF hr hl hf hg rfl rfl nofun ha (pushReady_of_room rfl hd)
theorem LoneRuns.of_store (hr : Ready s) (hl : slotLegal (f.pack c) = true) (hf : c ≠ 0xFF) (hg : Enabled s f.gp f.gn)
    (ha : Reads s [f.data, f.base] args pops) : LoneRuns s (f.pack c) (storeOp f size) args pops :=
  .of_MEMF hr hl hf hg rfl rfl nofun ha (pushReady_of_none rfl)

theorem load_performed {locs : List Loc} (hr : LoneRuns s w (loadOp f size sg) [base] pops) (hsc : scHeld s s.cur f.order = false)
    (hp : Placed s true .load (f.policy == 3) (address f base) size t locs) :
    issueOne w (loadOp f size sg) s = .next (lonePass s (announceIf t s.cur f.order) w pops
      (landS (me s) f.data (extLoad sg size (readLocs t locs)) 3)) := by
  refine (access_performed hr rfl hsc hp rfl rfl).trans ?_
  rw [mateRead_lone]
  exact congrArg _ (lonePass_stop s _ w pops (landS (me s) f.data (extLoad sg size (readLocs t locs)) 3) _)

theorem store_performed {locs : List Loc} (hr : LoneRuns s w (storeOp f size) [a, base] pops) (hsc : scHeld s s.cur f.order = false)
    (hp : Placed s true .store (f.policy == 3) (address f base) size t locs) :
    issueOne w (storeOp f size) s = .next (lonePass s (announceIf (storeLocs t locs (leBytes size a.toNat)) s.cur f.order) w pops {}) := by
  refine (access_performed hr rfl hsc hp rfl rfl).trans ?_
  rw [wroteAt_lone]
  exact congrArg _ (lonePass_heldStop ..)

theorem load_ends (hr : LoneRuns s w (loadOp f size sg) (args ++ [base]) pops) :
    AccessEnds s w (issueOne w (loadOp f size sg) s) f.order (homeReq s .load (f.policy == 3) true) false (address f base) size := by
  obtain rfl := no_other_source hr.reads
  refine access_ends hr rfl ?_
  rintro s locs t e h a -
  cases h
  exact memByte_announceIf ..

theorem store_ends (hr : LoneRuns s w (storeOp f size) (args ++ [base]) pops) :
    AccessEnds s w (issueOne w (storeOp f size) s) f.order (homeReq s .store (f.policy == 3) true) false (address f base) size := by
  obtain ⟨b, rfl⟩ := one_other_source hr.reads
  refine access_ends hr rfl ?_
  rintro s locs t e h a ha
  cases h
  exact (memByte_announceIf ..).trans (memByte_storeLocs_other _ _ ha)

/-! ## Vector loads and stores (R214) -/

theorem ofNat_truncI (x : Int) : BitVec.ofNat 32 (truncI x 32) = BitVec.ofInt 32 x := by
  apply BitVec.eq_of_toNat_eq
  simp only [truncI, BitVec.toNat_ofNat, BitVec.toNat_ofInt]
  omega
/-- R214: the lanes of a vector load: each the sign-extended bytes of its element. -/
theorem vloadLanes_eq (k n : Nat) (bs : List Byte) :
    vloadLanes k n bs = (List.range n).map fun l => BitVec.ofInt 32 (sext (leNat ((bs.drop (k * l)).take k)) (8 * k)) :=
  List.map_congr_left fun _ _ => ofNat_truncI _

theorem LoneRuns.of_vload (hr : Ready s) (hl : slotLegal (f.pack c) = true) (hf : c ≠ 0xFF) (hg : Enabled s f.gp f.gn)
    (hc : (me s).hasClaim = true) (ha : Reads s [f.base] args pops) : LoneRuns s (f.pack c) (vloadOp f size) args pops :=
  .of_MEMF hr hl hf hg rfl rfl (fun _ => hc) ha (pushReady_of_none (pushOf_dstV rfl))
theorem LoneRuns.of_vstore (hr : Ready s) (hl : slotLegal (f.pack c) = true) (hf : c ≠ 0xFF) (hg : Enabled s f.gp f.gn)
    (hc : (me s).hasClaim = true) (ha : Reads s [f.base] args pops) : LoneRuns s (f.pack c) (vstoreOp f size) args pops :=
  .of_MEMF hr hl hf hg rfl rfl (fun _ => hc) ha (pushReady_of_none rfl)

theorem vload_performed {locs : List Loc} (hr : LoneRuns s w (vloadOp f size) [base] pops) (hsc : scHeld s s.cur f.order = false)
    (hp : Placed s true .load (f.policy == 3) (address f base) (size * (me s).lanes) t locs) :
    issueOne w (vloadOp f size) s = .next (lonePass s (announceIf t s.cur f.order) w pops
      (landV (me s) f.data ((List.range (me s).lanes).map fun l =>
        BitVec.ofInt 32 (sext (leNat (((readLocs t locs).drop (size * l)).take size)) (8 * size))) 4)) := by
  refine (access_performed hr rfl hsc hp rfl rfl).trans ?_
  rw [mateRead_lone, vloadLanes_eq]
  exact congrArg _ (lonePass_stop s _ w pops (landV (me s) f.data _ 4) _)

theorem vstore_performed {locs : List Loc} (hr : LoneRuns s w (vstoreOp f size) [base] pops) (hsc : scHeld s s.cur f.order = false)
    (hp : Placed s true .store (f.policy == 3) (address f base) (size * (me s).lanes) t locs) :
    issueOne w (vstoreOp f size) s = .next (lonePass s (announceIf (storeLocs t locs ((List.range (me s).lanes).flatMap fun l =>
      leBytes size (getV (me s) (physV (me s) f.data.toNat) l).toNat)) s.cur f.order) w pops {}) := by
  refine (access_performed hr rfl hsc hp rfl rfl).trans ?_
  rw [wroteAt_lone]
  exact congrArg _ (lonePass_heldStop ..)

theorem vload_ends (hr : LoneRuns s w (vloadOp f size) (args ++ [base]) pops) :
    AccessEnds s w (issueOne w (vloadOp f size) s) f.order (homeReq s .load (f.policy == 3) true) false (address f base)
      (size * (me s).lanes) := by
  obtain rfl := no_other_source hr.reads
  refine access_ends hr rfl ?_
  rintro s locs t e h a -
  cases h
  exact memByte_announceIf ..

theorem vstore_ends (hr : LoneRuns s w (vstoreOp f size) (args ++ [base]) pops) :
    AccessEnds s w (issueOne w (vstoreOp f size) s) f.order (homeReq s .store (f.policy == 3) true) false (address f base)
      (size * (me s).lanes) := by
  obtain rfl := no_other_source hr.reads
  refine access_ends hr rfl ?_
  rintro s locs t e h a ha
  cases h
  exact (memByte_announceIf ..).trans (memByte_storeLocs_other _ _ ha)

/-! ## Atomics (R235, R236) -/

/-- R235: the bytes that an atomic accesses. -/
def amoSize (f : MEMF) (o : AmoOp) : Nat := if f.policy = 1 ∨ o = .addF32 then 4 else 8
/-- R236: whether a 4-byte old value is returned sign-extended. -/
def amoSigned (o : AmoOp) : Bool :=
  match o with
  | .minZ | .maxZ | .addF32 => false
  | _ => true

theorem amoSize_int {o : AmoOp} (h : o ≠ .addF32) : amoSize f o = if f.policy = 1 then 4 else 8 := by simp [amoSize, h]
theorem amoSize_addF32 : amoSize f .addF32 = 4 := by simp [amoSize]
theorem amoResult_eq (o : AmoOp) (n old : Nat) : amoResult o n old = if n = 8 ∨ amoSigned o = false then word old else wordI (sext old 32) := by
  unfold amoResult
  by_cases h : n = 8
  · simp [h]
  · cases o <;> simp [h, amoSigned]

variable {o : AmoOp}

theorem LoneRuns.of_amo (hr : Ready s) (hl : slotLegal (f.pack c) = true) (hf : c ≠ 0xFF) (hg : Enabled s f.gp f.gn)
    (ha : Reads s [f.base] args pops) (hd : Room s f.data) : LoneRuns s (f.pack c) (amoOpOf f o) args pops :=
  .of_MEMF hr hl hf hg rfl rfl nofun ha (pushReady_of_room rfl hd)

/-- R236: what an atomic stores. -/
def amoStores (t : State) (locs : List Loc) (n : Nat) (new : Option Nat) : State :=
  match new with
  | some x => storeLocs t locs (leBytes n x)
  | none => t

/-- R236: what an atomic does with the places of its bytes, of operands x and y. -/
def amoCont (f : MEMF) (o : AmoOp) (v : View) (t : State) (locs : List Loc) : Res :=
  if amoHostRefused o f.scope.toNat locs then .fault ⟨0x33, word (eaOf f (v.arg 0)), 0, none, []⟩
  else
    let n := amoSize f o
    let old := leNat (readLocs t locs)
    let x := (readX v.c f.data.toNat).toNat % 2 ^ (8 * n)
    let y := (readX v.c (f.data.toNat + 1)).toNat % 2 ^ (8 * n)
    .ok (announceIf (amoStores t locs n (amoNew o (8 * n) old x y)) v.n f.order)
      { heldStop v (landS v.c f.data (amoResult o n old) 4) with
        wrote := wroteAt v t locs, mate := mateRead v t (eaOf f (v.arg 0)) locs (.amo o n x y) }

theorem amo_accesses (v : View) (h : eaOf f (v.arg 0) % amoSize f o = 0) :
    AccessesBy (amoOpOf f o) v s f.order (f.scope == 5) .amo (2 ≤ f.scope.toNat) (eaOf f (v.arg 0)) (amoSize f o) (amoCont f o v) :=
  if_neg (not_not.2 h)

theorem amo_misaligned (hr : LoneRuns s w (amoOpOf f o) [base] pops) (h : address f base % amoSize f o ≠ 0) :
    issueOne w (amoOpOf f o) s = .next (loneFault s w ⟨0x15, word (address f base), 0, none, []⟩) :=
  hr.faults (if_pos h)

theorem amo_performed {locs : List Loc} (hr : LoneRuns s w (amoOpOf f o) [base] pops) (hsc : scHeld s s.cur f.order = false)
    (hal : address f base % amoSize f o = 0) (hp : Placed s true .amo (2 ≤ f.scope.toNat) (address f base) (amoSize f o) t locs)
    (hh : amoHostRefused o f.scope.toNat locs = false) :
    let n := amoSize f o
    issueOne w (amoOpOf f o) s = .next (lonePass s
      (announceIf (amoStores t locs n (amoNew o (8 * n) (leNat (readLocs t locs)) ((readX (me s) f.data.toNat).toNat % 2 ^ (8 * n))
        ((readX (me s) (f.data.toNat + 1)).toNat % 2 ^ (8 * n)))) s.cur f.order) w pops
      (landS (me s) f.data (amoResult o n (leNat (readLocs t locs))) 4)) := by
  refine (access_performed hr (amo_accesses _ hal) hsc hp (if_neg (Bool.eq_false_iff.1 hh)) rfl).trans ?_
  rw [mateRead_lone, wroteAt_lone]
  exact congrArg _ (lonePass_stop s _ w pops (landS (me s) f.data _ 4) _)

theorem amo_ends (hr : LoneRuns s w (amoOpOf f o) (args ++ [base]) pops) (hn : amoSize f o = size) (hal : address f base % size = 0) :
    AccessEnds s w (issueOne w (amoOpOf f o) s) f.order (homeReq s .amo (2 ≤ f.scope.toNat) true) (f.scope == 5) (address f base) size := by
  subst hn
  obtain rfl := no_other_source hr.reads
  refine access_ends hr (amo_accesses _ hal) ?_
  intro s locs t e h a ha
  unfold amoCont at h
  split at h
  · cases h
  · cases h
    refine (memByte_announceIf ..).trans ?_
    unfold amoStores
    split
    · exact memByte_storeLocs_other _ _ ha
    · rfl

end
end Sys2Proof.Machine
end

section
/-! PROOF. O18, O19, O20: the loads, the stores and the atomics that are performed. -/
namespace Sys2Proof.MemoryOps
open Sys2Proof.Machine Sys2Proof.Safety

/-- Settles O18: each load and store passes with its access, the load with the bytes extended, the store with its low bytes. -/
theorem loadStoreResults : Obligations.LoadStoreResults := by
  refine ⟨fun s t f base pops locs hr hg ha hd hsc => ?_, fun s t f a base pops locs hr hg ha hsc => ?_⟩
  · simp only [List.forall_mem_cons]
    exact
      ⟨fun hw hp => load_performed (.of_load hr (Laws.Legal.ldS8 f _ rfl hw) (by decide) hg ha hd) hsc hp,
       fun hw hp => load_performed (.of_load hr (Laws.Legal.ldZ8 f _ rfl hw) (by decide) hg ha hd) hsc hp,
       fun hw hp => load_performed (.of_load hr (Laws.Legal.ldS16 f _ rfl hw) (by decide) hg ha hd) hsc hp,
       fun hw hp => load_performed (.of_load hr (Laws.Legal.ldZ16 f _ rfl hw) (by decide) hg ha hd) hsc hp,
       fun hw hp => load_performed (.of_load hr (Laws.Legal.ldS32 f _ rfl hw) (by decide) hg ha hd) hsc hp,
       fun hw hp => load_performed (.of_load hr (Laws.Legal.ldZ32 f _ rfl hw) (by decide) hg ha hd) hsc hp,
       fun hw hp => load_performed (.of_load hr (Laws.Legal.ldS64 f _ rfl hw) (by decide) hg ha hd) hsc hp,
       List.forall_mem_nil _⟩
  · simp only [List.forall_mem_cons]
    exact
      ⟨fun hw hp => store_performed (.of_store hr (Laws.Legal.stS8 f _ rfl hw) (by decide) hg ha) hsc hp,
       fun hw hp => store_performed (.of_store hr (Laws.Legal.stS16 f _ rfl hw) (by decide) hg ha) hsc hp,
       fun hw hp => store_performed (.of_store hr (Laws.Legal.stS32 f _ rfl hw) (by decide) hg ha) hsc hp,
       fun hw hp => store_performed (.of_store hr (Laws.Legal.stS64 f _ rfl hw) (by decide) hg ha) hsc hp,
       List.forall_mem_nil _⟩

/-- Settles O19: each vector load and store passes with its access of VL elements. -/
theorem vectorMemoryResults : Obligations.VectorMemoryResults := by
  intro s t f base pops locs hr hg hc ha hsc
  simp only [List.forall_mem_cons]
  exact
    ⟨⟨fun hw hp => vload_performed (.of_vload hr (Laws.Legal.vldS32 f _ rfl hw) (by decide) hg hc ha) hsc hp,
      fun hw hp => vload_performed (.of_vload hr (Laws.Legal.vldS16 f _ rfl hw) (by decide) hg hc ha) hsc hp,
      List.forall_mem_nil _⟩,
     fun hw hp => vstore_performed (.of_vstore hr (Laws.Legal.vstS32 f _ rfl hw) (by decide) hg hc ha) hsc hp,
     fun hw hp => vstore_performed (.of_vstore hr (Laws.Legal.vstS16 f _ rfl hw) (by decide) hg hc ha) hsc hp,
     List.forall_mem_nil _⟩

/-- R235, R236: what the statement says of one atomic, by its operation. -/
theorem amo_results {s t : State} {f : MEMF} {base : Word} {pops : List Nat} {locs : List Loc} {w : Word} (o : AmoOp)
    (g : Nat → Nat → Nat → Nat → Option Nat) (hr : LoneRuns s w (amoOpOf f o) [base] pops) (hsc : scHeld s s.cur f.order = false)
    (hg : ∀ n old x y, amoNew o n old x y = g n old x y) :
    let n := amoSize f o
    let x := (readX (me s) f.data.toNat).toNat % 2 ^ (8 * n)
    let y := (readX (me s) (f.data.toNat + 1)).toNat % 2 ^ (8 * n)
    let old := leNat (readLocs t locs)
    (address f base % n ≠ 0 → issueOne w (amoOpOf f o) s = .next (loneFault s w ⟨0x15, word (address f base), 0, none, []⟩)) ∧
    (address f base % n = 0 → Placed s true .amo (2 ≤ f.scope.toNat) (address f base) n t locs →
      amoHostRefused o f.scope.toNat locs = false →
      issueOne w (amoOpOf f o) s = .next (lonePass s
        (announceIf (match g (8 * n) old x y with | some new => storeLocs t locs (leBytes n new) | none => t) s.cur f.order) w pops
        (landS (me s) f.data (if n = 8 ∨ amoSigned o = false then word old else wordI (sext old 32)) 4))) := by
  refine ⟨amo_misaligned hr, fun hal hp hh => (amo_performed hr hsc hal hp hh).trans ?_⟩
  rw [hg, amoResult_eq]
  rfl

/-- Settles O20: each atomic by its operation; the minima and maxima are those of the rule. -/
theorem atomicResults : Obligations.AtomicResults := by
  intro s t f base pops locs hr hg ha hd hsc
  repeat rw [List.forall_mem_cons]
  exact
    ⟨fun hw => amo_results .add (amoNew .add) (.of_amo hr (Laws.Legal.amoAdd f _ rfl hw) (by decide) hg ha hd) hsc fun _ _ _ _ => rfl,
     fun hw => amo_results .and (amoNew .and) (.of_amo hr (Laws.Legal.amoAnd f _ rfl hw) (by decide) hg ha hd) hsc fun _ _ _ _ => rfl,
     fun hw => amo_results .or (amoNew .or) (.of_amo hr (Laws.Legal.amoOr f _ rfl hw) (by decide) hg ha hd) hsc fun _ _ _ _ => rfl,
     fun hw => amo_results .xor (amoNew .xor) (.of_amo hr (Laws.Legal.amoXor f _ rfl hw) (by decide) hg ha hd) hsc fun _ _ _ _ => rfl,
     fun hw => amo_results .minS (amoNew .minS) (.of_amo hr (Laws.Legal.amoMinS f _ rfl hw) (by decide) hg ha hd) hsc fun _ _ _ _ => rfl,
     fun hw => amo_results .minZ (fun _ old x _ => some (min old x)) (.of_amo hr (Laws.Legal.amoMinZ f _ rfl hw) (by decide) hg ha hd) hsc
       fun _ old x _ => congrArg some ((min_comm old x).trans (min_def_lt x old)).symm,
     fun hw => amo_results .maxS (amoNew .maxS) (.of_amo hr (Laws.Legal.amoMaxS f _ rfl hw) (by decide) hg ha hd) hsc fun _ _ _ _ => rfl,
     fun hw => amo_results .maxZ (fun _ old x _ => some (max old x)) (.of_amo hr (Laws.Legal.amoMaxZ f _ rfl hw) (by decide) hg ha hd) hsc
       fun _ old x _ => congrArg some (max_def_lt old x).symm,
     fun hw => amo_results .swap (amoNew .swap) (.of_amo hr (Laws.Legal.amoSwap f _ rfl hw) (by decide) hg ha hd) hsc fun _ _ _ _ => rfl,
     fun hw => amo_results .cas (amoNew .cas) (.of_amo hr (Laws.Legal.amoCas f _ rfl hw) (by decide) hg ha hd) hsc fun _ _ _ _ => rfl,
     fun hw => amo_results .addF32 (amoNew .addF32) (.of_amo hr (Laws.Legal.amoAddF32 f _ rfl hw) (by decide) hg ha hd) hsc fun _ _ _ _ => rfl,
     List.forall_mem_nil _⟩

end Sys2Proof.MemoryOps
end

section
/-! PROOF. O23: accesses that are held or that fault, of a bundle and of a copy (R208, R209, R226, R230). -/
namespace Sys2Proof.Machine
open Sys2Proof.Safety

/-- R208, R209: what the statement says of one load, store or atomic. -/
theorem AccessEnds.at {s : State} {w : Word} {o : Host.Outcome State Fault Refusal} {order : BitVec 3} {r : Req6} {sys : Bool} {ea n : Nat}
    (h : AccessEnds s w o order r sys ea n) (t : State) (x : FaultInfo) :
    (scHeld s s.cur order = true → o = .next (modCtx s s.cur fun c => { c with held := some (Bundle.single (me s).pc w) })) ∧
    (scHeld s s.cur order = false →
      (∀ hs, access s r ea n = .hold t hs →
        o = .next (lonePark s (setWants t s.cur hs) w .fault (.home (touchedBy s (loneView s w []) ea n)))) ∧
      (access s r ea n = .fault x →
        ∃ m p, o = .next (loneFault { s with mem := m, pub := p } w x) ∧
          (maybeDone r sys x = false → m = s.mem ∧ p = s.pub) ∧
          (∀ a, (∀ locs, lostPlaces s r ea n = some locs → Loc.mem a ∉ locs) → memByte { s with mem := m } a = memByte s a))) :=
  ⟨h.1, fun hsc => ⟨(h.2 hsc).1 t, (h.2 hsc).2 x⟩⟩

/-! ## The home side of a copy (R226, R230) -/

section
variable {s : State} {sp ch : Nat} {c : Cmd} {rest : List Cmd}

theorem queueAt_copy (s : State) (sp ch : Nat) : queueAt s sp (3 + ch) = (copyChanAt s sp ch).q := by
  rw [Nat.add_comm]
  rfl

/-- R228: what the head command of a running channel makes of its next byte. -/
def copyByte (s : State) (sp ch : Nat) (c : Cmd) : AccRes :=
  let e := engOf s c
  withSource s e c c.done fun _ va src =>
    match src with
    | .ok s locs =>
      readChecked s va locs fun s b =>
        match destPlace s e c c.done with
        | .ok s' dst =>
          match putCopyByte s' c c.done (c.a.toNat + c.done) dst (destByte s' c dst (sourceByte s c locs b)) with
          | .ok s'' dst' => .ok (advanceCopy s'' sp ch c dst' (readLocs s' dst)) []
          | r => r
        | r => r
    | r => r

theorem copyDeliver_running (hrun : (queueAt s sp (3 + ch)).running = true) (hfz : (queueAt s sp (3 + ch)).frozen = false)
    (hcmds : (queueAt s sp (3 + ch)).cmds = c :: rest) (hn : c.nullified = false) (hlt : c.done < c.total) :
    copyDeliver s sp ch =
      match copyByte s sp ch c with
      | .ok s _ => setWants s (queueKey sp (3 + ch)) []
      | .hold s hs => setWants s (queueKey sp (3 + ch)) hs
      | .fault f => stopQueue (setWants (copyLost s (engOf s c) c f) (queueKey sp (3 + ch)) []) sp (3 + ch) f := by
  rw [queueAt_copy] at hrun hfz hcmds
  unfold copyDeliver
  simp only [hrun, hcmds, hn, hfz, Nat.not_le.2 hlt, Bool.false_eq_true, or_self, if_false, Bool.false_and]
  rfl

theorem exec_copyDeliver (s : State) (sp ch : Nat) :
    exec (.copyDeliver sp ch) s = .next (seenBy s (copyDeliver s sp ch) sp (3 + ch)) := rfl

/-- R205: only a write to another device can be lost on its way. -/
theorem copyLost_none {e : Eng} {f : FaultInfo} (h : c.op ≠ 0xB4 ∨ f.code ≠ 0x31) : copyLost s e c f = s :=
  if_neg fun ⟨ho, hc, _⟩ => h.elim (fun k => k ho) (fun k => k hc)

variable {r : AccRes}

/-- R226: cp.get reads memory: where its home does not serve the byte, nothing else is done. -/
theorem copyByte_get (hop : c.op = 0xB3)
    (h : homePlace s (engOf s c) false (c.done == 0) (c.b.toNat + c.done) = r) (hr : ∀ t locs, r ≠ .ok t locs) : copyByte s sp ch c = r := by
  simp only [copyByte, withSource, hop, h]
/-- R226: cp.put writes memory: its byte of the stash is read before the home is asked. -/
theorem copyByte_put (hop : c.op = 0xB4) {u : State} {locs : List Loc}
    (hsrc : stashPlaces s (engOf s c) false [] (c.b.toNat + c.done) 1 = .ok u locs) (herr : locError u locs false = none)
    (h : homePlace (correct u locs) (engOf s c) true (c.done == 0) (c.a.toNat + c.done) = r) (hr : ∀ t locs, r ≠ .ok t locs) : copyByte s sp ch c = r := by
  simp only [copyByte, withSource, hop, hsrc, readChecked, herr, destPlace, h]

end

end Sys2Proof.Machine

namespace Sys2Proof.MemoryOps
open Sys2Proof.Machine Sys2Proof.Safety

/-- Settles O23: each operation by what becomes of its access; a copy by what its source or its destination answers. -/
theorem accessHeld : Obligations.AccessHeld := by
  refine ⟨fun s t f base args pops x hr hg => ?_, fun s sp ch c rest e key hrun hfz hcmds hn hlt he hkey => ?_⟩
  · simp only [List.forall_mem_cons]
    exact
      ⟨fun hw ha hd _ _ => (load_ends (.of_load hr (Laws.Legal.ldS8 f _ rfl hw) (by decide) hg ha (hd nofun))).at t x,
       fun hw ha hd _ _ => (load_ends (.of_load hr (Laws.Legal.ldZ8 f _ rfl hw) (by decide) hg ha (hd nofun))).at t x,
       fun hw ha hd _ _ => (load_ends (.of_load hr (Laws.Legal.ldS16 f _ rfl hw) (by decide) hg ha (hd nofun))).at t x,
       fun hw ha hd _ _ => (load_ends (.of_load hr (Laws.Legal.ldZ16 f _ rfl hw) (by decide) hg ha (hd nofun))).at t x,
       fun hw ha hd _ _ => (load_ends (.of_load hr (Laws.Legal.ldS32 f _ rfl hw) (by decide) hg ha (hd nofun))).at t x,
       fun hw ha hd _ _ => (load_ends (.of_load hr (Laws.Legal.ldZ32 f _ rfl hw) (by decide) hg ha (hd nofun))).at t x,
       fun hw ha hd _ _ => (load_ends (.of_load hr (Laws.Legal.ldS64 f _ rfl hw) (by decide) hg ha (hd nofun))).at t x,
       fun hw ha _ _ _ => (store_ends (.of_store hr (Laws.Legal.stS8 f _ rfl hw) (by decide) hg ha)).at t x,
       fun hw ha _ _ _ => (store_ends (.of_store hr (Laws.Legal.stS16 f _ rfl hw) (by decide) hg ha)).at t x,
       fun hw ha _ _ _ => (store_ends (.of_store hr (Laws.Legal.stS32 f _ rfl hw) (by decide) hg ha)).at t x,
       fun hw ha _ _ _ => (store_ends (.of_store hr (Laws.Legal.stS64 f _ rfl hw) (by decide) hg ha)).at t x,
       fun hw ha _ hc _ => (vload_ends (.of_vload hr (Laws.Legal.vldS32 f _ rfl hw) (by decide) hg (hc (by decide) (by decide)) ha)).at t x,
       fun hw ha _ hc _ => (vstore_ends (.of_vstore hr (Laws.Legal.vstS32 f _ rfl hw) (by decide) hg (hc (by decide) (by decide)) ha)).at t x,
       fun hw ha _ hc _ => (vload_ends (.of_vload hr (Laws.Legal.vldS16 f _ rfl hw) (by decide) hg (hc (by decide) (by decide)) ha)).at t x,
       fun hw ha _ hc _ => (vstore_ends (.of_vstore hr (Laws.Legal.vstS16 f _ rfl hw) (by decide) hg (hc (by decide) (by decide)) ha)).at t x,
       fun hw ha hd _ hal => (amo_ends (.of_amo hr (Laws.Legal.amoAdd f _ rfl hw) (by decide) hg ha (hd nofun)) (amoSize_int (by decide)) (hal trivial)).at t x,
       fun hw ha hd _ hal => (amo_ends (.of_amo hr (Laws.Legal.amoAnd f _ rfl hw) (by decide) hg ha (hd nofun)) (amoSize_int (by decide)) (hal trivial)).at t x,
       fun hw ha hd _ hal => (amo_ends (.of_amo hr (Laws.Legal.amoOr f _ rfl hw) (by decide) hg ha (hd nofun)) (amoSize_int (by decide)) (hal trivial)).at t x,
       fun hw ha hd _ hal => (amo_ends (.of_amo hr (Laws.Legal.amoXor f _ rfl hw) (by decide) hg ha (hd nofun)) (amoSize_int (by decide)) (hal trivial)).at t x,
       fun hw ha hd _ hal => (amo_ends (.of_amo hr (Laws.Legal.amoMinS f _ rfl hw) (by decide) hg ha (hd nofun)) (amoSize_int (by decide)) (hal trivial)).at t x,
       fun hw ha hd _ hal => (amo_ends (.of_amo hr (Laws.Legal.amoMinZ f _ rfl hw) (by decide) hg ha (hd nofun)) (amoSize_int (by decide)) (hal trivial)).at t x,
       fun hw ha hd _ hal => (amo_ends (.of_amo hr (Laws.Legal.amoMaxS f _ rfl hw) (by decide) hg ha (hd nofun)) (amoSize_int (by decide)) (hal trivial)).at t x,
       fun hw ha hd _ hal => (amo_ends (.of_amo hr (Laws.Legal.amoMaxZ f _ rfl hw) (by decide) hg ha (hd nofun)) (amoSize_int (by decide)) (hal trivial)).at t x,
       fun hw ha hd _ hal => (amo_ends (.of_amo hr (Laws.Legal.amoSwap f _ rfl hw) (by decide) hg ha (hd nofun)) (amoSize_int (by decide)) (hal trivial)).at t x,
       fun hw ha hd _ hal => (amo_ends (.of_amo hr (Laws.Legal.amoCas f _ rfl hw) (by decide) hg ha (hd nofun)) (amoSize_int (by decide)) (hal trivial)).at t x,
       fun hw ha hd _ hal => (amo_ends (.of_amo hr (Laws.Legal.amoAddF32 f _ rfl hw) (by decide) hg ha (hd nofun)) amoSize_addF32 (hal trivial)).at t x,
       List.forall_mem_nil _⟩

  · subst he hkey
    have hdel := copyDeliver_running hrun hfz hcmds hn hlt
    have hheld {t : State} {hs : List Nat} (h : copyByte s sp ch c = .hold t hs) :
        exec (.copyDeliver sp ch) s = .next (seenBy s (setWants t (queueKey sp (3 + ch)) hs) sp (3 + ch)) := by
      rw [exec_copyDeliver, hdel, h]
    have hstop {x : FaultInfo} (h : copyByte s sp ch c = .fault x) (hk : c.op ≠ 0xB4 ∨ x.code ≠ 0x31) :
        exec (.copyDeliver sp ch) s = .next (seenBy s (stopQueue (setWants s (queueKey sp (3 + ch)) []) sp (3 + ch) x) sp (3 + ch)) := by
      rw [exec_copyDeliver, hdel, h]
      dsimp only
      rw [copyLost_none hk]
    refine ⟨fun hop => ⟨fun t hs h => hheld (copyByte_get hop h (by simp)), fun x h => hstop (copyByte_get hop h (by simp)) (.inl ?_)⟩,
      fun hop u locs hsrc herr => ⟨fun t hs h => hheld (copyByte_put hop hsrc herr h (by simp)),
        fun x h hx => hstop (copyByte_put hop hsrc herr h (by simp)) (.inr hx)⟩⟩
    rw [hop]
    decide

end Sys2Proof.MemoryOps
end

section
/-! PROOF. O24: fences, prefetches and tokens (R223, R238, R240 to R242). -/
namespace Sys2Proof.Machine
open Sys2Proof.Safety

section
variable {s : State} {f : MEMF} {w : Word} {base : Word} {pops : List Nat}

theorem LoneRuns.of_fence (hr : Ready s) (hg : Enabled s f.gp f.gn) (hw : WellFormed (.fence f) = true) :
    LoneRuns s (f.pack 0xC5) (opFence f) [] [] :=
  .of_MEMF hr (Laws.Legal.fence f _ rfl hw) (by decide) hg rfl rfl nofun rfl (pushReady_of_none rfl)
theorem LoneRuns.of_pref (hr : Ready s) (hg : Enabled s f.gp f.gn) (ha : Reads s [f.base] [base] pops)
    (hw : WellFormed (.pref f) = true) : LoneRuns s (f.pack 0xCD) (opPref f) [base] pops :=
  .of_MEMF hr (Laws.Legal.pref f _ rfl hw) (by decide) hg rfl rfl nofun ha (pushReady_of_none rfl)
theorem LoneRuns.of_tokWait {f : ENGF} (hr : Ready s) (hg : Enabled s f.gp f.gn) (hw : WellFormed (.tokWait f) = true) :
    LoneRuns s (f.pack 0xC8) (opTokWait f) [] [] :=
  .of_ENGF hr (Laws.Legal.tokWait f _ rfl hw) (by decide) hg rfl rfl rfl rfl (pushReady_of_none rfl)

/-! ## Tokens (R241) -/

theorem tokWait_none {f : ENGF} (h : boundCmds (me s) (toksOf f).cons = []) :
    (opTokWait f).run (loneView s w []) s = .ok s { stop := true } := by
  simp only [opTokWait, loneView_n, me] at h ⊢
  rw [h]
theorem tokWait_some {f : ENGF} {ids : List Nat} (h : boundCmds (me s) (toksOf f).cons = ids) (hne : ids ≠ []) :
    (opTokWait f).run (loneView s w []) s = .hold .token (.tokens ids) id := by
  subst h
  simp only [opTokWait, loneView_n, me] at hne ⊢

/-! ## Prefetches (R223) -/

/-- R223: a prefetch asks for a line: its address lies in a backed mapping, the line is invalid, and its translation is known and admits
the fill. -/
structure Prefetches (s : State) (ea : Nat) : Prop where
  serves : mapsServe s (tileOf s.cur) (me s).asid.toNat = true
  backed : ∃ k m, mapAt (tileAt s (tileOf s.cur)) ea = some (k, m) ∧ m.mode = 0
  invalid : smFind (tileAt s (tileOf s.cur)).lines (lineOf ea) = none
  canonical : canonical ea = true
  known : ∃ p en lvl ta, partAt s (partOfCtx s s.cur) = some p ∧ lookup s p (me s).asid.toNat ea .fillR = .leaf en lvl ta

theorem pref_asks (h : Prefetches s (address f base)) :
    (opPref f).run (loneView s w [base]) s = .ok (requestLine s (tileOf s.cur) (lineOf (address f base)) false) {} := by
  obtain ⟨hserve, ⟨k, m, hmap, hmode⟩, hline, hcan, p, en, lvl, ta, hpart, hleaf⟩ := h
  have hea : eaOf f base = address f base := rfl
  simp [opPref, hea, hmap, hpart, hserve, hmode, hline, hcan, hleaf, maHeld_lone]

theorem pref_idle (h : ¬Prefetches s (address f base)) : (opPref f).run (loneView s w [base]) s = .ok s {} := by
  have hea : eaOf f base = address f base := rfl
  simp only [opPref, loneView_n, loneView_c, loneView_arg_zero, hea, maHeld_lone, Bool.false_eq_true, if_false]
  split
  · next hmap hpart =>
    split
    · next hcond =>
      simp only [Bool.and_eq_true, beq_iff_eq, Option.isNone_iff_eq_none] at hcond
      obtain ⟨⟨⟨hserve, hmode⟩, hline⟩, hcan⟩ := hcond
      split
      · next hleaf => exact absurd ⟨hserve, ⟨_, _, hmap, hmode⟩, hline, hcan, _, _, _, _, hpart, hleaf⟩ h
      · rfl
    · rfl
  · rfl
end

end Sys2Proof.Machine

namespace Sys2Proof.MemoryOps
open Sys2Proof.Machine Sys2Proof.Safety

/-- Settles O24: each operation by the result that it comes to. -/
theorem fenceTokenResults : Obligations.FenceTokenResults := by
  refine fun s hr => ⟨fun f hg => ⟨fun hw hsc => ?_, fun hw hsc => ?_, fun base pops ha hw => ⟨fun h => ?_, fun h => ?_⟩⟩,
    fun f hg => ⟨fun hw => ?_, fun hw => ?_⟩, fun f hg hw => ⟨fun hb => ?_, fun ids hb hne => ?_⟩⟩
  · exact (LoneRuns.of_fence hr hg hw).stays (req := id) (if_pos hsc)
  · exact (LoneRuns.of_fence hr hg hw).passes_stopped (if_neg (Bool.eq_false_iff.1 hsc))
  · obtain ⟨k, m, p, en, lvl, ta, hserve, hmap, hmode, hline, hcan, hpart, hleaf⟩ := h
    exact (LoneRuns.of_pref hr hg ha hw).passes
      (pref_asks ⟨hserve, ⟨k, m, hmap, hmode⟩, hline, hcan, p, en, lvl, ta, hpart, hleaf⟩) rfl
  · refine (LoneRuns.of_pref hr hg ha hw).passes (pref_idle ?_) rfl
    rintro ⟨hserve, ⟨k, m, hmap, hmode⟩, hline, hcan, p, en, lvl, ta, hpart, hleaf⟩
    rcases h with h | h | ⟨k', m', h, hmode'⟩ | h | h | h
    · simp [hserve] at h
    · simp [hmap] at h
    · rw [hmap] at h
      cases h
      exact hmode' hmode
    · simp [hline] at h
    · simp [hcan] at h
    · exact h p hpart en lvl ta hleaf
  · exact LoneRuns.passes (op := opIfence f) (.of_RRR hr (Laws.Legal.ifence f _ rfl hw) (by decide) hg rfl rfl rfl rfl (pushReady_of_none rfl)) rfl rfl
  · obtain ⟨hd, -⟩ := ok_fields hw
    exact pred_passes hr (Laws.Legal.tokTest f _ rfl hw) (by simp) (by simpa [Enabled] using hg) rfl hd
      (by rw [beq_eq_decide]; rfl)
  · exact (LoneRuns.of_tokWait hr hg hw).passes_stopped (tokWait_none hb)
  · exact (LoneRuns.of_tokWait hr hg hw).parks (req := id) (tokWait_some hb hne)

end Sys2Proof.MemoryOps
end

section
/-! PROOF. O28: copy commands at issue (R16, R224 to R227). -/
namespace Sys2Proof.Machine
open Sys2Proof.Safety

section
variable {s : State} {f : ENGF} {c : BitVec 8}

theorem LoneRuns.of_copy (hr : Ready s) (hl : slotLegal (f.pack c) = true) (hc : c ≠ 0xFF) (hg : Enabled s f.gp f.gn) :
    LoneRuns s (f.pack c) (copyOp c f) [] [] :=
  .of_ENGF hr hl hc hg rfl rfl rfl rfl (pushReady_of_none rfl)

/-- R16, R224 to R227: a copy command by its checks and its guard. -/
theorem copy_issues (hr : Ready s) (hl : slotLegal (f.pack c) = true) (hc : c ≠ 0xFF) :
    let a := readX (me s) f.a.toNat
    let b := readX (me s) f.b.toNat
    let d := readX (me s) f.c.toNat
    let aux := readX (me s) (f.c.toNat + 1)
    let v := loneView s (f.pack c) []
    (Enabled s f.gp f.gn → copyArgBad c.toNat a d aux = true →
      issueOne (f.pack c) (copyOp c f) s = .next (loneFault s (f.pack c) ⟨0x18, 0, 0, none, []⟩)) ∧
    (∀ x, Enabled s f.gp f.gn → copyArgBad c.toNat a d aux = false →
      (copyEnds c.toNat a b).find? (fun x => !canonical x) = some x →
      issueOne (f.pack c) (copyOp c f) s = .next (loneFault s (f.pack c) ⟨0x10, word x, 0, none, []⟩)) ∧
    (Enabled s f.gp f.gn → copyArgBad c.toNat a d aux = false → (∀ x ∈ copyEnds c.toNat a b, canonical x = true) →
      hasRoom s s.cur (3 + f.md.toNat) = true →
      issueOne (f.pack c) (copyOp c f) s = .next (lonePass s
        (enqueue s v (3 + f.md.toNat) (f.pack c) a b d aux false ⟨f.prod.toNat, [f.c1.toNat, f.c2.toNat, f.c3.toNat]⟩) (f.pack c) [] {})) ∧
    (Disabled s f.gp f.gn → hasRoom s s.cur (3 + f.md.toNat) = true →
      issueOne (f.pack c) (copyOp c f) s = .next (lonePass s
        (enqueue s v (3 + f.md.toNat) (f.pack c) 0 0 0 0 true ⟨f.prod.toNat, [f.c1.toNat, f.c2.toNat, f.c3.toNat]⟩) (f.pack c) [] {})) := by
  refine ⟨fun hg hbad => ?_, fun x hg hok hx => ?_, fun hg hok hcan hroom => ?_, fun hg hroom => ?_⟩
  · exact (LoneRuns.of_copy hr hl hc hg).faults (if_pos hbad)
  · refine (LoneRuns.of_copy hr hl hc hg).faults ((if_neg (Bool.eq_false_iff.1 hok)).trans ?_)
    simp only [loneView_c, hx]
    rfl
  · refine (LoneRuns.of_copy hr hl hc hg).passes ((if_neg (Bool.eq_false_iff.1 hok)).trans ?_) rfl
    have hfind : (copyEnds c.toNat (readX (me s) f.a.toNat) (readX (me s) f.b.toNat)).find? (fun x => !canonical x) = none :=
      List.find?_eq_none.2 fun x hx => by simp [hcan x hx]
    simp only [loneView_c, loneView_n, hfind, maHeld_lone, hroom, Bool.false_eq_true, if_false, if_true]
    rfl
  · exact lone_nullified hr hl (by rwa [opField_ENGF_pack]) (by simpa [Disabled] using hg) rfl (if_pos hroom) rfl

end

end Sys2Proof.Machine

namespace Sys2Proof.MemoryOps
open Sys2Proof.Machine Sys2Proof.Safety

/-- Settles O28: the four commands are one operation, of their opcode. -/
theorem copyCommandsQueue : Obligations.CopyCommandsQueue := by
  intro s f hr
  simp only [List.forall_mem_cons]
  exact ⟨fun hw => copy_issues hr (Laws.Legal.cpGet f _ rfl hw) (by decide), fun hw => copy_issues hr (Laws.Legal.cpPut f _ rfl hw) (by decide),
    fun hw => copy_issues hr (Laws.Legal.cpRput f _ rfl hw) (by decide), fun hw => copy_issues hr (Laws.Legal.cpGth f _ rfl hw) (by decide),
    List.forall_mem_nil _⟩

end Sys2Proof.MemoryOps
end

section
/-! PROOF. O26: the stash mapping operations (R215 to R222). -/
namespace Sys2Proof.Machine
open Sys2Proof.Safety

/-! ## Free entries (R215) -/

/-- The entry numbers that are not in use. -/
def freeNumbers (t : Tile) : List Nat := (List.range 64).filter fun n => (smFind t.maps n).isNone

theorem mem_freeNumbers {t : Tile} {n : Nat} : n ∈ freeNumbers t ↔ n < 64 ∧ smFind t.maps n = none := by
  simp [freeNumbers]
theorem freeEntry_eq (t : Tile) (k : Nat) : freeEntry t k =
    if (freeNumbers t).head? = some t.maps.length then some t.maps.length
    else if freeNumbers t = [] then none else (freeNumbers t)[Config.freeNat k % (freeNumbers t).length]? := rfl

theorem freeEntry_full {t : Tile} (h : ∀ k, k < 64 → (smFind t.maps k).isSome) (k : Nat) : freeEntry t k = none := by
  have hnil : freeNumbers t = [] := List.filter_eq_nil_iff.2 fun n hn => by
    simpa [Option.isSome_iff_ne_none] using h n (List.mem_range.1 hn)
  simp [freeEntry_eq, hnil]

/-- The lowest number not in use is the first of them. -/
theorem head_freeNumbers {t : Tile} {j : Nat} (hlt : j < 64) (hbelow : ∀ i, i < j → (smFind t.maps i).isSome) (hj : smFind t.maps j = none) :
    (freeNumbers t).head? = some j := by
  rw [freeNumbers, List.head?_filter, List.find?_range_eq_some]
  refine ⟨by simp [hj], List.mem_range.2 hlt, fun i hi => ?_⟩
  obtain ⟨m, hm⟩ := Option.isSome_iff_exists.1 (hbelow i hi)
  simp [hm]

theorem freeEntry_free {t : Tile} (h : ∃ k, k < 64 ∧ smFind t.maps k = none) (c : Nat) :
    ∃ k, freeEntry t c = some k ∧ k < 64 ∧ smFind t.maps k = none ∧
      ∀ j, t.maps.length = j → (∀ i, i < j → (smFind t.maps i).isSome) → smFind t.maps j = none → k = j := by
  obtain ⟨k, hk, hfree⟩ := h
  have hmem : k ∈ freeNumbers t := mem_freeNumbers.2 ⟨hk, hfree⟩
  rw [freeEntry_eq]
  by_cases hhead : (freeNumbers t).head? = some t.maps.length
  · rw [if_pos hhead]
    obtain ⟨hlt, hnone⟩ := mem_freeNumbers.1 (List.mem_of_head? hhead)
    exact ⟨_, rfl, hlt, hnone, fun j hj _ _ => hj⟩
  · have hlen : Config.freeNat c % (freeNumbers t).length < (freeNumbers t).length := Nat.mod_lt _ (List.length_pos_of_mem hmem)
    rw [if_neg hhead, if_neg (List.ne_nil_of_mem hmem), List.getElem?_eq_getElem hlen]
    obtain ⟨hlt, hnone⟩ := mem_freeNumbers.1 (List.getElem_mem hlen)
    refine ⟨_, rfl, hlt, hnone, fun j hj hbelow hjnone => absurd ?_ hhead⟩
    subst hj
    refine head_freeNumbers (Nat.lt_of_not_le fun hge => ?_) hbelow hjnone
    have hsome := hbelow k (by omega)
    simp [hfree] at hsome

/-! ## What the operations come to -/

section
variable {s : State} {f : RRR} {w : Word} {a b : Word}

/-- R215, R216: a mapping that raises nothing is entered under the number that the tile has free, if it has one. -/
theorem smMap_full (hbad : mapBad (tileAt s (tileOf s.cur)) b (mapOf a.toNat b) = false)
    (hcan : canonFault (mapOf a.toNat b).base (mapOf a.toNat b).len = none)
    (hk : freeEntry (tileAt s (tileOf s.cur)) s.freeCount = none) :
    (opSmMap f).run (loneView s w [a, b]) s = .ok s (landS (me s) f.d (BitVec.allOnes 64) 2) := by
  refine (if_neg (Bool.eq_false_iff.1 hbad)).trans ?_
  simp only [loneView_n, loneView_c, loneView_arg_zero, loneView_arg_one, hcan, hk]
theorem smMap_enters {k : Nat} (hbad : mapBad (tileAt s (tileOf s.cur)) b (mapOf a.toNat b) = false)
    (hcan : canonFault (mapOf a.toNat b).base (mapOf a.toNat b).len = none)
    (hk : freeEntry (tileAt s (tileOf s.cur)) s.freeCount = some k) :
    (opSmMap f).run (loneView s w [a, b]) s = .ok { s with freeCount := s.freeCount + 1 }
      { landS (me s) f.d (word k) 2 with late := some fun u => enterMap u (tileOf s.cur) k (mapOf a.toNat b) } := by
  refine (if_neg (Bool.eq_false_iff.1 hbad)).trans ?_
  simp only [loneView_n, loneView_c, loneView_arg_zero, loneView_arg_one, hcan, hk]

/-- R222: a mapping that no command uses, its lines clean, is removed. -/
theorem smUnmap_run {m : Mapping} (hn : a.toNat < 64) (hm : smFind (tileAt s (tileOf s.cur)).maps a.toNat = some m)
    (hbusy : mapBusy s (tileOf s.cur) m = false) (hD : anyLine s (tileOf s.cur) .D (if m.mode = 2 then [] else mapLines m) = false)
    (hB : anyLine s (tileOf s.cur) .B (if m.mode = 2 then [] else mapLines m) = false) :
    (opSmUnmap f).run (loneView s w [a]) s = .ok
      (modTile (dropPins (returnLines s (tileOf s.cur) (if m.mode = 2 then [] else mapLines m)) (tileOf s.cur) m.base m.len) (tileOf s.cur)
        fun t => { t with maps := smDel t.maps a.toNat }) (heldStop (loneView s w [a]) {}) := by
  simp only [opSmUnmap, loneView_n, loneView_arg_zero, hn, if_true, hm, maHeld_lone, hbusy, hD, hB,
    Bool.false_eq_true, and_false, if_false]

/-- R220: the checks of a pin are of the context and its operands. -/
theorem pinFault_congr {v v' : View} (hn : v.n = v'.n) (hc : v.c = v'.c) (ha : v.args = v'.args) : pinFault s v = pinFault s v' := by
  unfold pinFault View.arg
  rw [hn, hc, ha]

/-- R220: a range whose lines are held is pinned. -/
theorem smPin_run {p : Part} (hfault : pinFault s (loneView s w [a, b]) = none) (hp : partAt s (partOfCtx s s.cur) = some p)
    (hlt : (me s).pins.length < 8)
    (hheld : ∀ l ∈ touchedLines (tileAt s (tileOf s.cur)) a.toNat b.toNat, lineHeld s (tileAt s (tileOf s.cur)) l.1 false = true) :
    (opSmPin f).run (loneView s w [a, b]) s = .ok (setCtx s s.cur { me s with pins := (me s).pins ++ [(a.toNat, b.toNat)] })
      (heldStop (loneView s w [a, b]) {}) := by
  simp only [opSmPin, loneView_n, loneView_c, loneView_arg_zero, loneView_arg_one, hfault, hp,
    Nat.not_le.2 hlt, if_false, maHeld_lone, Bool.false_eq_true, List.all_eq_true.2 hheld, if_true]
  rfl
theorem smUnpin_run (hfault : pinFault s (loneView s w [a, b]) = none) (hmem : (a.toNat, b.toNat) ∈ (me s).pins) :
    (opSmUnpin f).run (loneView s w [a, b]) s =
      .ok (setCtx s s.cur { me s with pins := (me s).pins.erase (a.toNat, b.toNat) }) {} := by
  simp only [opSmUnpin, loneView_n, loneView_c, loneView_arg_zero, loneView_arg_one, hfault,
    List.contains_iff_mem.2 hmem, if_true]
  rfl

/-- R221: a flush of lines that are neither dirty nor being written back passes. -/
theorem smFlush_run (hle : b.toNat ≤ 2 ^ 22)
    (hD : anyLine s (tileOf s.cur) .D ((touchedLines (tileAt s (tileOf s.cur)) a.toNat b.toNat).map (·.1)) = false)
    (hB : anyLine s (tileOf s.cur) .B ((touchedLines (tileAt s (tileOf s.cur)) a.toNat b.toNat).map (·.1)) = false) :
    (opSmFlush f).run (loneView s w [a, b]) s = .ok s (heldStop (loneView s w [a, b]) {}) := by
  have hnone (st : LineSt) (p : Prop) [Decidable p] (ls : List Nat) (h : anyLine s (tileOf s.cur) st ls = false) :
      anyLine s (tileOf s.cur) st (if p then ls else []) = false := by
    split
    · exact h
    · rfl
  refine (if_neg (Nat.not_lt.2 hle)).trans ((if_neg ?_).trans ((if_neg ?_).trans (if_neg ?_)))
  · exact Bool.eq_false_iff.1 (maHeld_lone ..)
  · exact fun h => Bool.eq_false_iff.1 (hnone .D _ _ hD) h.2
  · exact Bool.eq_false_iff.1 (hnone .B _ _ hB)

theorem room_of_x {d : BitVec 9} (h : Cls.has .x d = true) : Room s d := by
  simp only [Cls.has, decide_eq_true_eq] at h
  exact fun h96 => absurd h96 (by omega)

end

end Sys2Proof.Machine

namespace Sys2Proof.MemoryOps
open Sys2Proof.Machine Sys2Proof.Safety

/-- Settles O26: each operation by what it comes to. -/
theorem mappingResults : Obligations.MappingResults := by
  rintro s f tile T hr hg rfl rfl
  refine ⟨fun a b pops m ha hw hm hbad hcan => ?_, fun a pops m ha hw hn hm hbusy hD hB => ?_, fun a b pops p ha hfault hp =>
    ⟨fun hw hlt hheld => ?_, fun hw hmem => ?_⟩, fun a b pops ls ha hw hle hls hD hB => ?_⟩
  · subst hm
    obtain ⟨hd, -⟩ := ok_fields hw
    have hruns : LoneRuns s (f.pack 0xAF) (opSmMap f) [a, b] pops :=
      .of_RRR hr (Laws.Legal.smMap f _ rfl hw) (by decide) hg rfl rfl rfl ha (pushReady_of_room rfl (room_of_x hd))
    refine ⟨fun hfull => hruns.passes (smMap_full hbad hcan (freeEntry_full hfull _)) rfl, fun hfree => ?_⟩
    obtain ⟨k, hk, hlt, hnone, hlow⟩ := freeEntry_free hfree s.freeCount
    have hpass := hruns.passes (smMap_enters hbad hcan hk) rfl
    exact ⟨k, { s with freeCount := s.freeCount + 1 }, hlt, hnone, hlow, hpass, rfl⟩
  · have hruns : LoneRuns s (f.pack 0xB0) (opSmUnmap f) [a] pops :=
      .of_RRR hr (Laws.Legal.smUnmap f _ rfl hw) (by decide) hg rfl rfl rfl ha (pushReady_of_none rfl)
    exact hruns.passes_stopped (smUnmap_run hn hm hbusy hD hB)
  · have hruns : LoneRuns s (f.pack 0xB1) (opSmPin f) [a, b] pops :=
      .of_RRR hr (Laws.Legal.smPin f _ rfl hw) (by decide) hg rfl rfl rfl ha (pushReady_of_none rfl)
    exact hruns.passes_stopped (smPin_run hfault hp hlt hheld)
  · have hruns : LoneRuns s (f.pack 0xB2) (opSmUnpin f) [a, b] pops :=
      .of_RRR hr (Laws.Legal.smUnpin f _ rfl hw) (by decide) hg rfl rfl rfl ha (pushReady_of_none rfl)
    have hadmits : pinFault s (loneView s (f.pack 0xB2) [a, b]) = none := by
      rw [← hfault]
      exact pinFault_congr rfl rfl rfl
    exact hruns.passes (smUnpin_run hadmits hmem) rfl
  · subst hls
    have hruns : LoneRuns s (f.pack 0xCF) (opSmFlush f) [a, b] pops :=
      .of_RRR hr (Laws.Legal.smFlush f _ rfl hw) (by decide) hg rfl rfl rfl ha (pushReady_of_none rfl)
    exact hruns.passes_stopped (smFlush_run hle hD hB)

end Sys2Proof.MemoryOps
end

section
/-! PROOF. O27: the barrier operations (R231 to R234). -/
namespace Sys2Proof.Machine
open Sys2Proof.Safety

/-! ## Arrivals (R233) -/

/-- R233: the check of a barrier: it becomes complete when every arrival and every byte has come. -/
theorem check_eq (b : Bar) : b.check =
    ({ b with done := b.done || (!b.done && decide (b.arr = b.exp ∧ b.pend = 0)) }, !b.done && decide (b.arr = b.exp ∧ b.pend = 0)) := by
  have hcond : (!b.done && b.arr == b.exp && b.pend == 0) = (!b.done && decide (b.arr = b.exp ∧ b.pend = 0)) := by
    rw [Bool.decide_and, Bool.and_assoc]
    rfl
  unfold Bar.check
  rw [hcond]
  cases h : !b.done && decide (b.arr = b.exp ∧ b.pend = 0) with
  | true => simp
  | false => simp

/-- R233: an arrival that announces k bytes: it counts, or sets OVR, and adds its bytes, up to the largest count. -/
theorem arrive_eq (x : Bar) (k : Nat) :
    let arr : Nat := if x.arr = x.exp then x.arr else x.arr + 1
    let pend : Nat := min (x.pend + k) (2 ^ 40 - 1)
    let complete : Bool := !x.done && decide (arr = x.exp ∧ pend = 0)
    x.arrive k = ({ x with arr := arr, pend := pend, done := x.done || complete
                           ovr := x.ovr || decide (x.arr = x.exp) || decide (2 ^ 40 - 1 < x.pend + k) }, complete) := by
  have hcount : x.arrive k = Bar.check { x with
      arr := if x.arr = x.exp then x.arr else x.arr + 1
      pend := min (x.pend + k) (2 ^ 40 - 1)
      ovr := x.ovr || decide (x.arr = x.exp) || decide (2 ^ 40 - 1 < x.pend + k) } := by
    have hpend : (if 2 ^ 40 - 1 < x.pend + k then 2 ^ 40 - 1 else x.pend + k) = min (x.pend + k) (2 ^ 40 - 1) := by
      split <;> omega
    rw [← hpend]
    unfold Bar.arrive
    by_cases harr : x.arr = x.exp <;> by_cases hover : 2 ^ 40 - 1 < x.pend + k <;> simp only [harr, hover, if_true, if_false,
      decide_true, decide_false, Bool.or_true, Bool.or_false]
  exact hcount.trans (check_eq _)

/-- R231, R232: the 16 bytes of a barrier as it is initialised. -/
theorem pack_fresh (e p : Nat) : (⟨e, 0, false, false, true, p, false⟩ : Bar).pack = e + 2 ^ 34 + p * 2 ^ 64 := by
  simp [Bar.pack, Bar.low]

/-! ## What the operations come to -/

section
variable {s t : State} {f : RRR} {w : Word} {a b c : Word} {args : List Word} {pops : List Nat} {need : Need} {locs : List Loc} {x : Bar}

/-- R231: an instruction on an aligned barrier of a mapping, no reserved bit of which is 1, goes on with its fields. -/
theorem withBarrier_ok {k : State → List Loc → Bar → Res} (hal : a.toNat % 64 = 0)
    (hmap : unmapped s (tileOf s.cur) (me s).asid.toNat a.toNat 16 = none) (hp : Placed s false need false a.toNat 16 t locs)
    (hx : x = Bar.unpack (leNat (readLocs t locs))) (hbad : x.bad = false) :
    withBarrier (loneView s w args) s a need k = k t locs x := by
  unfold withBarrier
  rw [if_neg (not_not.2 hal)]
  simp only [loneView_n, loneView_c, hmap]
  refine (withPlaces_ok hp).trans ?_
  rw [readMate_lone, tookMate_lone, ← hx]
  exact if_neg (Bool.eq_false_iff.1 hbad)

section
variable (hal : a.toNat % 64 = 0) (hmap : unmapped s (tileOf s.cur) (me s).asid.toNat a.toNat 16 = none)
include hal hmap

/-- R232: bar.init writes the six fields. -/
theorem barInit_run (hexp : 0 < b.toNat) (hexp' : b.toNat < 2 ^ 16) (hpend : c.toNat < 2 ^ 40)
    (hp : Placed s false .amo false a.toNat 16 t locs) (hbad : (Bar.unpack (leNat (readLocs t locs))).bad = false) :
    (opBarInit f).run (loneView s w [a, b, c]) s =
      .ok (storeLocs t locs (leBytes 16 (b.toNat + 2 ^ 34 + c.toNat * 2 ^ 64))) { stop := true } := by
  refine (if_neg ?_).trans ((withBarrier_ok hal hmap hp rfl hbad).trans ?_)
  · change ¬(b.toNat = 0 ∨ 2 ^ 16 ≤ b.toNat ∨ 2 ^ 40 ≤ c.toNat)
    omega
  · rw [wroteAt_lone, ← pack_fresh]
    rfl

/-- R233: bar.arr writes the fields that the arrival leaves, releases the waiters of a barrier that becomes complete, and returns the low
dword. -/
theorem barArr_run (hlt : b.toNat < 2 ^ 40) (hp : Placed s false .amo false a.toNat 16 t locs)
    (hx : x = Bar.unpack (leNat (readLocs t locs))) (hbad : x.bad = false) (hinit : x.init = true) :
    (opBarArr f).run (loneView s w [a, b]) s =
      .ok (putBarrier t (tileOf s.cur) locs (x.arrive b.toNat))
        (heldStop (loneView s w [a, b]) (landS (me s) f.d (word (x.arrive b.toNat).1.low) 4)) := by
  refine (if_neg (Nat.not_le.2 hlt)).trans ((withBarrier_ok hal hmap hp hx hbad).trans ?_)
  rw [wroteAt_lone, hinit]
  rfl

/-- R234: bar.test returns the low dword, and so does bar.wait of a complete barrier. -/
theorem barTest_run (hp : Placed s false .load false a.toNat 16 t locs) (hx : x = Bar.unpack (leNat (readLocs t locs))) (hbad : x.bad = false) :
    (opBarTest f).run (loneView s w [a]) s = .ok t (heldStop (loneView s w [a]) (landS (me s) f.d (word x.low) 3)) :=
  withBarrier_ok (k := fun u _ y => .ok u (heldStop (loneView s w [a]) (landS (me s) f.d (word y.low) 3))) hal hmap hp hx hbad
theorem barWait_run (hp : Placed s false .load false a.toNat 16 t locs) (hx : x = Bar.unpack (leNat (readLocs t locs))) (hbad : x.bad = false)
    (hrel : releasedLow (me s).answered = none) (hinit : x.init = true) (hdone : x.done = true) :
    (opBarWait f).run (loneView s w [a]) s = .ok t { landS (me s) f.d (word x.low) 1 with stop := true } := by
  simp only [opBarWait, loneView_answered, hrel]
  refine (withBarrier_ok hal hmap hp hx hbad).trans ?_
  rw [hinit, hdone]
  rfl

end

end

end Sys2Proof.Machine

namespace Sys2Proof.MemoryOps
open Sys2Proof.Machine Sys2Proof.Safety

/-- Settles O27: each operation by what it comes to; an arrival is that of the rule. -/
theorem barrierResults : Obligations.BarrierResults := by
  intro s t f a locs hr hg hal hmap
  refine ⟨fun b c pops ha hw hexp hexp' hpend hp hbad => ?_, fun b pops x ha hw hd hlt hp hx hbad hinit => ?_,
    fun pops x ha hd hp hx hbad => ⟨fun hw => ?_, fun hw hrel hinit hdone => ?_⟩⟩
  · have hruns : LoneRuns s (f.pack 0xB7) (opBarInit f) [a, b, c] pops :=
      .of_RRR hr (Laws.Legal.barInit f _ rfl hw) (by decide) hg rfl rfl rfl ha (pushReady_of_none rfl)
    exact hruns.passes_stopped (barInit_run hal hmap hexp hexp' hpend hp hbad)
  · have hruns : LoneRuns s (f.pack 0xB8) (opBarArr f) [a, b] pops :=
      .of_RRR hr (Laws.Legal.barArr f _ rfl hw) (by decide) hg rfl rfl rfl ha (pushReady_of_room rfl hd)
    refine (hruns.passes (barArr_run hal hmap hlt hp hx hbad hinit) rfl).trans (congrArg _ ?_)
    rw [lonePass_heldStop, arrive_eq]
    rfl
  · have hruns : LoneRuns s (f.pack 0xCE) (opBarTest f) [a] pops :=
      .of_RRR hr (Laws.Legal.barTest f _ rfl hw) (by decide) hg rfl rfl rfl ha (pushReady_of_room rfl hd)
    exact (hruns.passes (barTest_run hal hmap hp hx hbad) rfl).trans (congrArg _ (lonePass_heldStop ..))
  · have hruns : LoneRuns s (f.pack 0xB9) (opBarWait f) [a] pops :=
      .of_RRR hr (Laws.Legal.barWait f _ rfl hw) (by decide) hg rfl rfl rfl ha (pushReady_of_room rfl hd)
    exact (hruns.passes (barWait_run hal hmap hp hx hbad hrel hinit hdone) rfl).trans (congrArg _ (lonePass_stop ..))

end Sys2Proof.MemoryOps
end

section
/-! PROOF. O29: KV loads and appends (R243, R244, R336, R337). -/
namespace Sys2Proof.Machine
open Sys2Proof.Safety

section
variable {s s1 t u : State} {f : RRR} {w : Word} {a kva c : Word} {args : List Word} {pops : List Nat} {need : Need} {locs acc : List Loc}
  {p : Part} {g : KvPage} {n : Nat} {e : Eff}

/-! ## Rows of the stash and the walk (R208, R337) -/

theorem withPlaces_row {ea : Nat} {k : State → List Loc → Res} (h : access t (homeReq s need false false) ea n = .ok u locs) :
    withPlaces false false (loneView s w args) t need false ea n k = k u locs := by
  unfold withPlaces
  rw [maWaits_lone]
  change (match access t (homeReq s need false false) ea n with | .ok s locs => k s locs | .hold _ _ => _ | .fault f => _) = _
  rw [h]

/-- R208: rows whose accesses are all performed go on with the places of all their bytes. -/
theorem withStashRows_ok {k : State → List Loc → Res} (rows : List Nat) (t : State) (acc locs : List Loc)
    (h : placeRows s need n t rows = some (u, locs)) :
    withStashRows (loneView s w args) t need n rows acc k = k u (acc ++ locs) := by
  induction rows generalizing t acc locs with
  | nil =>
    cases h
    simp [withStashRows]
  | cons ea eas ih =>
    unfold placeRows at h
    split at h
    · next t' l hacc =>
      obtain ⟨⟨u', rest⟩, hrest, heq⟩ := Option.map_eq_some_iff.1 h
      cases heq
      rw [withStashRows, withPlaces_row hacc, ih _ _ _ hrest, List.append_assoc]
    · cases h

/-- R337: an operation whose walk the walker has answered goes on with the page. -/
theorem withKv_ok {x : KvWant} {k : State → Part → KvPage → Res} (hkv : (me s).answered.contains .kv = true)
    (hp : partAt s (partOfCtx s s.cur) = some p) (hwalk : kvWalk s p (partOfCtx s s.cur) kva.toNat x = .ok (s1, g))
    (hk : k { s1 with freeCount := s1.freeCount + 2 } p g = .ok t e) :
    withKv (loneView s w args) s kva.toNat x k = .ok t e := by
  unfold withKv
  simp only [loneView_n, loneView_answered, hkv, hp, hwalk, hk, Bool.not_true, Bool.false_eq_true, if_false]

/-! ## Loads and appends (R243, R244) -/

/-- R243: the bytes of rows of values, rounded to a row type. -/
def kvRowBytes (ty : Nat) (rows : List (List FV)) : List Byte :=
  rows.flatMap fun r => bytesOf ty (r.map fun x => match fmtOf ty with | some fm => rne fm x | none => 0) []
/-- R244: the quotients of a row by the scales of its groups. -/
def kvQuotients (scales : List Nat) (xs : List FV) : List Byte := xs.zipIdx.map fun e => kvEncode (scales.getD (e.2 / 64) 0) e.1
/-- R336: the places of a row of a payload. -/
def kvRowLocs (x dh : Nat) : List Loc := (List.range dh).map fun i => .mem (x + i)

section
variable (hkv : (me s).answered.contains .kv = true) (hp : partAt s (partOfCtx s s.cur) = some p)
include hkv hp

/-- R243: a load of KV rows. -/
theorem kvLd_run {vside : Bool} {rows : List Nat} {s2 s3 : State} {vals : List (List FV)} {npos : Nat}
    (hnpos : npos = bits c.toNat 9 0 + 1) (hn : n = kvDh c.toNat * (elemBits f.ty.toNat / 8))
    (hrows : rows = (List.range npos).map fun i => byteVa a.toNat (i * bits c.toNat 47 32 * 64))
    (hbad : kvLdBad f.ty.toNat a.toNat c.toNat = false) (hmap : rowsUnmapped s (loneView s w [a, kva, c]) n rows = none)
    (hwalk : kvWalk s p (partOfCtx s s.cur) kva.toNat ⟨kvDh c.toNat, npos, false⟩ = .ok (s1, g))
    (hu : u = { s1 with freeCount := s1.freeCount + 2 })
    (hbusy : kvBusy u (g.addr vside (kvPosOf kva.toNat)) (npos * kvDh c.toNat) false = [])
    (hvals : kvRows u p (partOfCtx u s.cur) s.cur g vside ((List.range npos).map (kva.toNat + ·)) [] = .ok (s2, vals))
    (hplace : placeRows s .store n s2 rows = some (s3, locs)) :
    (kvLdOp vside f).run (loneView s w [a, kva, c]) s =
      .ok (storeLocs s3 locs (kvRowBytes f.ty.toNat vals)) (heldStop (loneView s w [a, kva, c]) {}) := by
  subst hnpos hn hrows hu
  refine (if_neg (Bool.eq_false_iff.1 hbad)).trans ?_
  simp only [loneView_arg_zero, loneView_arg_one, loneView_arg_two, hmap]
  refine withKv_ok hkv hp hwalk ?_
  simp only [loneView_n, hbusy, ne_eq, not_true_eq_false, if_false, hvals]
  refine (withStashRows_ok _ _ _ _ hplace).trans ?_
  rw [wroteAt_lone]
  rfl

/-- R244: an append of one position. -/
theorem kvApp_run {s3 : State} (hn : n = kvDh c.toNat * (elemBits f.ty.toNat / 8)) (hc : c.toNat = bits c.toNat 13 12 * 2 ^ 12)
    (hal : a.toNat % 64 = 0) (hmap : rowsUnmapped s (loneView s w [a, kva, c]) (2 * n) [a.toNat] = none)
    (hwalk : kvWalk s p (partOfCtx s s.cur) kva.toNat ⟨kvDh c.toNat, 1, true⟩ = .ok (s1, g))
    (hu : u = { s1 with freeCount := s1.freeCount + 2 }) {ka va : Nat} (hka : ka = g.addr false (kvPosOf kva.toNat))
    (hva : va = g.addr true (kvPosOf kva.toNat)) (hkf : payloadFault u p (partOfCtx u s.cur) ka (kvDh c.toNat) = none)
    (hvf : payloadFault u p (partOfCtx u s.cur) va (kvDh c.toNat) = none) (hkb : kvBusy u ka (kvDh c.toNat) true = [])
    (hvb : kvBusy u va (kvDh c.toNat) true = []) (hplace : placeRows s .load (2 * n) u [a.toNat] = some (s3, locs)) {vals : List FV}
    (hvals : vals = (elemsOf f.ty.toNat (readLocs s3 locs)).map (elemVal f.ty.toNat)) :
    (opKvApp f).run (loneView s w [a, kva, c]) s = .ok
      (storeLocs (storeLocs s3 (kvRowLocs ka (kvDh c.toNat)) (kvQuotients g.ks (vals.take (kvDh c.toNat))))
        (kvRowLocs va (kvDh c.toNat)) (kvQuotients g.vs (vals.drop (kvDh c.toNat)))) (heldStop (loneView s w [a, kva, c]) {}) := by
  subst hn hu hka hva hvals
  refine (if_neg ?_).trans ?_
  · exact fun h => h.elim (fun h => h hc) (fun h => h hal)
  simp only [loneView_arg_zero, loneView_arg_one, loneView_arg_two, hmap]
  refine withKv_ok hkv hp hwalk ?_
  simp only [loneView_n, hkf, hvf, hkb, hvb, Option.orElse_none, List.append_nil, ne_eq, not_true_eq_false, if_false]
  refine (withStashRows_ok _ _ _ _ hplace).trans ?_
  simp only [readMate_lone, tookMate_lone, List.nil_append]
  rfl

end

end

end Sys2Proof.Machine

namespace Sys2Proof.MemoryOps
open Sys2Proof.Machine Sys2Proof.Safety

/-- R243: the fields of a descriptor of KV rows. -/
theorem kvFields (c : Nat) : bits c 9 0 = c % 2 ^ 10 ∧ bits c 13 12 = c / 2 ^ 12 % 4 ∧ bits c 47 32 = c / 2 ^ 32 % 2 ^ 16 :=
  ⟨by rw [bits, pow_zero, Nat.div_one], rfl, rfl⟩

/-- Settles O29: the two loads are one operation, by the side of the row; the append stores both sides. -/
theorem kvResults : Obligations.KvResults := by
  intro s s1 f a kva c pops p g hr hg ha hkv hp
  obtain ⟨hpos, hdim, hstride⟩ := kvFields c.toNat
  have hload (vside : Bool) (op : BitVec 8) (hl : slotLegal (f.pack op) = true) (hop : op ≠ 0xFF) :
      LoneRuns s (f.pack op) (kvLdOp vside f) [a, kva, c] pops :=
    .of_RRR hr hl hop hg rfl rfl rfl ha (pushReady_of_none rfl)
  have hrows (npos : Nat) : (List.range npos).map (fun i => byteVa a.toNat (i * (c.toNat / 2 ^ 32 % 2 ^ 16 * 64))) =
      (List.range npos).map fun i => byteVa a.toNat (i * bits c.toNat 47 32 * 64) := by
    simp only [hstride, Nat.mul_assoc]
  refine ⟨?_, fun s3 locs hw hc hal hmap hwalk hkf hvf hkb hvb hplace => ?_⟩
  · simp only [List.forall_mem_cons]
    refine ⟨fun npos rows s2 s3 vals locs hw hn hrow hbad hmap hwalk hbusy hvals hplace => ?_,
      fun npos rows s2 s3 vals locs hw hn hrow hbad hmap hwalk hbusy hvals hplace => ?_, List.forall_mem_nil _⟩
    · exact (hload false 0xCA (Laws.Legal.kvLdk f _ rfl hw) (by decide)).passes_stopped
        (kvLd_run hkv hp (by rw [hn, hpos]) rfl (by rw [hrow, hrows]) hbad hmap hwalk rfl hbusy hvals hplace)
    · exact (hload true 0xCB (Laws.Legal.kvLdv f _ rfl hw) (by decide)).passes_stopped
        (kvLd_run hkv hp (by rw [hn, hpos]) rfl (by rw [hrow, hrows]) hbad hmap hwalk rfl hbusy hvals hplace)
  · have hruns : LoneRuns s (f.pack 0xCC) (opKvApp f) [a, kva, c] pops :=
      .of_RRR hr (Laws.Legal.kvApp f _ rfl hw) (by decide) hg rfl rfl rfl ha (pushReady_of_none rfl)
    exact hruns.passes_stopped (kvApp_run hkv hp rfl (by rw [hdim]; exact hc) hal hmap hwalk rfl rfl rfl hkf hvf hkb hvb hplace rfl)

end Sys2Proof.MemoryOps
end

section
/-! PROOF. O25: `cpub` (R196, R197, R239). -/
namespace Sys2Proof.Machine
open Sys2Proof.Safety

/-! ## A write-back changes no context (R219, R373, R406, R412) -/

theorem putBytes_ctxs (bs : List Byte) (s : State) (a : Nat) : (putBytes s a bs).ctxs = s.ctxs := by
  induction bs generalizing s a with
  | nil => rfl
  | cons b bs ih => exact ih _ _
theorem putHomeAs_ctxs (back : Bool) (s : State) (pnum pa : Nat) (bs : List Byte) : (putHomeAs back s pnum pa bs).ctxs = s.ctxs := by
  unfold putHomeAs
  split
  · rfl
  · cases back <;> exact putBytes_ctxs bs s pa
theorem modPart_ctxs (s : State) (k : Nat) (f : Part → Part) : (modPart s k f).ctxs = s.ctxs := by
  unfold modPart
  split <;> rfl
theorem devWrite_ctxs (s : State) (w : DevWrite) : (devWrite s w).ctxs = s.ctxs := by
  unfold devWrite
  split
  · unfold devPut putHome
    rw [putHomeAs_ctxs]
    split
    · exact modPart_ctxs ..
    · rfl
  · rfl
theorem mirror_ctxs (s : State) (part : Nat) (p : Part) (cls : Nat) (i0 i1 : Word) : (mirror s part p cls i0 i1).ctxs = s.ctxs := by
  simp only [mirror]
  split
  · rfl
  · exact devWrite_ctxs ..
theorem post_ctxs (s : State) (part cls : Nat) (i0 i1 : Word) : (post s part cls i0 i1).ctxs = s.ctxs := by
  have hmirror (t : State) (c : Prop) [Decidable c] (p : Part) : (if c then mirror t part p cls i0 i1 else t).ctxs = t.ctxs := by
    split
    · exact mirror_ctxs ..
    · rfl
  have hmsi (t : State) (c : Prop) [Decidable c] (p : Part) : (if c then sendMsi t part cls p else t).ctxs = t.ctxs := by
    split <;> rfl
  unfold post
  split
  · rfl
  · exact (hmirror ..).trans (hmsi ..)
theorem addLoss_ctxs (s : State) (pnum pline : Nat) : (addLoss s pnum pline).ctxs = s.ctxs := by
  unfold addLoss
  split
  · rfl
  · split
    · rfl
    · split
      · rfl
      · exact post_ctxs ..
theorem writeBackData_ctxs (s : State) (tile off pline : Nat) : (writeBackData s tile off pline).ctxs = s.ctxs := by
  unfold writeBackData
  dsimp only
  split
  · exact putHomeAs_ctxs ..
  · exact addLoss_ctxs ..
theorem writeBackHomes_ctxs (s : State) (tile : Nat) (homes : List Nat) : (writeBackHomes s tile homes).ctxs = s.ctxs := by
  refine foldl_related (R := fun s t => t.ctxs = s.ctxs) (fun _ => rfl) (fun _ _ _ h g => g.trans h) (fun u e => ?_) _ s
  split
  · split
    · dsimp only
      split <;> exact writeBackData_ctxs ..
    · rfl
  · rfl

/-! ## Publish bits (R196) -/

theorem publishLines_pub {pas : List Nat} {pa : Nat} (h : pa ∈ pas) (t : State) : smGet false (publishLines t pas).pub (pa / 128) = true := by
  have hkeep : ∀ (l : List Nat) (m : SMap Bool), smGet false m (pa / 128) = true →
      smGet false (l.foldl (fun m a => smSet false m (a / 128) true) m) (pa / 128) = true := by
    intro l
    induction l with
    | nil => exact fun _ h => h
    | cons a l ih => exact fun m hm => ih _ (by rw [smGet_smSet]; split <;> simp [hm])
  have hset : ∀ (l : List Nat) (m : SMap Bool), pa ∈ l →
      smGet false (l.foldl (fun m a => smSet false m (a / 128) true) m) (pa / 128) = true := by
    intro l
    induction l with
    | nil => exact fun _ h => absurd h List.not_mem_nil
    | cons a l ih =>
      intro m hm
      rcases List.mem_cons.1 hm with rfl | hm
      · exact hkeep l _ (smGet_smSet_same ..)
      · exact ih _ hm
  exact hset pas t.pub h

/-! ## What the operation comes to (R239) -/

section
variable {s : State} {f : MEMF} {w : Word} {a base : Word} {pops : List Nat} {p : Part} {pas : List Nat}

theorem LoneRuns.of_cpub (hr : Ready s) (hg : Enabled s f.gp f.gn) (ha : Reads s [f.data, f.base] [a, base] pops)
    (hw : WellFormed (.cpub f) = true) : LoneRuns s (f.pack 0xC6) (opCpub f) [a, base] pops :=
  .of_MEMF hr (Laws.Legal.cpub f _ rfl hw) (by decide) hg rfl rfl nofun ha (pushReady_of_none rfl)

theorem cpub_empty : (opCpub f).run (loneView s w [0, base]) s = .ok s { stop := true } := rfl
theorem cpub_long (h : 2 ^ 24 < a.toNat) : (opCpub f).run (loneView s w [a, base]) s = .fault ⟨0x18, 0, 0, none, []⟩ := if_pos h

/-- R239: the range is neither empty nor too long. -/
theorem cpub_asks (hne : a ≠ 0) (hle : a.toNat ≤ 2 ^ 24) (hans : (me s).answered.contains .home = false) :
    (opCpub f).run (loneView s w [a, base]) s = .hold .fault (.home []) id := by
  have h0 : a.toNat ≠ 0 := fun h => hne (BitVec.eq_of_toNat_eq h)
  refine (if_neg (Nat.not_lt.2 hle)).trans ((if_neg h0).trans (if_pos ?_))
  rw [loneView_answered, hans]
  rfl

section
variable {t : State} (hne : a ≠ 0) (hle : a.toNat ≤ 2 ^ 24) (hans : (me s).answered.contains .home = true)
  (hp : partAt s (partOfCtx s s.cur) = some p)
  (hpas : publishable s p (partOfCtx s s.cur) (me s).asid.toNat (lineStarts (address f base) a.toNat) = .ok pas)
  (ht : t = writeBackHomes s (tileOf s.cur) (pas.map (· / 128)))
include hne hle hans hp hpas ht

/-- R197, R239: once the home has answered, the tile's dirty lines of the range are written back and the range is published; -/
theorem cpub_publishes (hclean : (pas.map (· / 128)).filter (lineDirty t) = []) :
    (opCpub f).run (loneView s w [a, base]) s = .ok (publishLines t pas) { stop := true } := by
  have h0 : a.toNat ≠ 0 := fun h => hne (BitVec.eq_of_toNat_eq h)
  have hea : eaOf f ((loneView s w [a, base]).arg 1) = address f base := rfl
  subst ht
  refine (if_neg (Nat.not_lt.2 hle)).trans ((if_neg h0).trans ((if_neg (by rw [loneView_answered, hans]; simp)).trans ?_))
  simp only [loneView_n, loneView_c, loneView_arg_zero, hea, hp, hpas, maHeld_lone, hclean, Bool.false_eq_true, if_false]
/-- but while another tile's stash holds stores to a line of it, it waits. -/
theorem cpub_waits {h : Nat} {hs : List Nat} (hdirty : (pas.map (· / 128)).filter (lineDirty t) = h :: hs) :
    (opCpub f).run (loneView s w [a, base]) s = .hold .fault (.home []) fun u =>
      setWants (writeBackHomes u (tileOf s.cur) (pas.map (· / 128))) s.cur (h :: hs) := by
  have h0 : a.toNat ≠ 0 := fun h => hne (BitVec.eq_of_toNat_eq h)
  have hea : eaOf f ((loneView s w [a, base]).arg 1) = address f base := rfl
  subst ht
  refine (if_neg (Nat.not_lt.2 hle)).trans ((if_neg h0).trans ((if_neg (by rw [loneView_answered, hans]; simp)).trans ?_))
  simp only [loneView_n, loneView_c, loneView_arg_zero, hea, hp, hpas, maHeld_lone, hdirty, Bool.false_eq_true, if_false]

end

end

end Sys2Proof.Machine

namespace Sys2Proof.MemoryOps
open Sys2Proof.Machine Sys2Proof.Safety

/-- Settles O25: the length and the home's answer decide, and then whether a line of the range is dirty elsewhere. -/
theorem publishResults : Obligations.PublishResults := by
  intro s f a base pops hr hg ha hw
  have hruns := LoneRuns.of_cpub hr hg ha hw
  refine ⟨fun h0 => ?_, fun hlong => hruns.faults (cpub_long hlong), fun hne hle hans => hruns.parks (req := id) (cpub_asks hne hle hans),
    fun p pas t hne hle hans hp hpas ht => ⟨fun hclean => ⟨?_, fun pa hpa => publishLines_pub hpa t, ?_⟩, fun hdirty => ?_⟩⟩
  · subst h0
    exact hruns.passes_stopped cpub_empty
  · have hnil : (pas.map (· / 128)).filter (lineDirty t) = [] := List.filter_eq_nil_iff.2 fun h hh => by
      obtain ⟨pa, hpa, rfl⟩ := List.mem_map.1 hh
      simp [hclean pa hpa]
    exact hruns.passes_stopped (cpub_publishes hne hle hans hp hpas ht hnil)
  · rw [ht]
    exact writeBackHomes_ctxs ..
  · obtain ⟨pa, hpa, hd⟩ := hdirty
    have hmem : pa / 128 ∈ (pas.map (· / 128)).filter (lineDirty t) := List.mem_filter.2 ⟨List.mem_map.2 ⟨pa, hpa, rfl⟩, hd⟩
    obtain ⟨h, hs, hl⟩ := List.exists_cons_of_ne_nil (List.ne_nil_of_mem hmem)
    have hpark := hruns.parks (cpub_waits hne hle hans hp hpas ht hl)
    rw [← ht] at hpark
    refine ⟨h :: hs, List.cons_ne_nil _ _, fun x hx => ?_, hpark⟩
    rw [← hl] at hx
    exact (List.mem_filter.1 hx).2

end Sys2Proof.MemoryOps
end

section
/-! PROOF. O22: an access to a scratch mapping (R207, R208, R211). -/
namespace Sys2Proof.Machine
open Sys2Proof.Safety

/-! ## The mapping (R207, R215) -/

/-- The first of a list that satisfies a test is the first of those that satisfy another as well, when it does. -/
theorem find?_filter_of_find? {α : Type} {l : List α} {p q : α → Bool} {x : α} (h : l.find? q = some x) (hp : p x = true) :
    (l.filter p).find? q = some x := by
  rw [List.find?_filter]
  obtain ⟨hq, as, bs, hl, has⟩ := List.find?_eq_some_iff_append.1 h
  exact List.find?_eq_some_iff_append.2 ⟨by simp [hp, hq], as, bs, hl, fun a ha => by
    have hna := has a ha
    simp only [Bool.not_eq_true'] at hna
    simp [hna]⟩

/-- R215: an access in flight sees a mapping entered before it began. -/
theorem mapAt_tileView {s : State} {tile va k : Nat} {m : Mapping} {maps : Option Nat} (h : mapAt (tileAt s tile) va = some (k, m))
    (hborn : ∀ b, maps = some b → m.born < b) : mapAt (tileView s tile maps) va = some (k, m) := by
  cases maps with
  | none => exact h
  | some b => exact find?_filter_of_find? h (decide_eq_true (hborn b rfl))

/-- R398: a context with no watchpoint meets none. -/
theorem watchHit_none {c : Ctx} (h : c.watch = []) (ea n : Nat) (rd wr : Bool) : watchHit c ea n rd wr = none := by
  unfold watchHit
  rw [h]
  exact ite_self none

/-- R16: an access that ends at 2^57 or below is canonical. -/
theorem canonFault_low {ea n : Nat} (hn : 0 < n) (h : ea + n ≤ 2 ^ 57) : canonFault ea n = none := by
  have hc : canonical ea = true := by simp [canonical]; omega
  unfold canonFault
  rw [if_neg (by simp [hc]), if_neg (by omega), if_neg (by omega)]

/-- A range of virtual addresses that lies in a scratch mapping of a tile. -/
structure InScratch (t : Tile) (m : Mapping) (ea n : Nat) : Prop where
  scratch : m.mode = 2
  pos : 0 < n
  low : ea + n ≤ 2 ^ 57
  mapped : ∃ k, ∀ va, ea ≤ va → va < ea + n → mapAt t va = some (k, m)

section
variable {s : State} {t : Tile} {tile ea n : Nat} {m : Mapping}

theorem byteVa_eq {i : Nat} (h : ea + i < 2 ^ 64) : byteVa ea i = ea + i := Nat.mod_eq_of_lt h

theorem InScratch.at (h : InScratch t m ea n) {i : Nat} (hi : i < n) : byteVa ea i = ea + i ∧ ∃ k, mapAt t (byteVa ea i) = some (k, m) := by
  obtain ⟨k, hk⟩ := h.mapped
  have hlow := h.low
  have hva : byteVa ea i = ea + i := byteVa_eq (by omega)
  exact ⟨hva, k, by rw [hva]; exact hk _ (by omega) (by omega)⟩

/-- R217: scratch has no lines; -/
theorem InScratch.touchedLines (h : InScratch t m ea n) : Machine.touchedLines t ea n = [] := by
  obtain ⟨k, hk⟩ := h.mapped
  have hpos := h.pos
  refine List.filterMap_eq_nil_iff.2 fun i hi => ?_
  have hlast := List.mem_range.1 hi
  simp only [lineOf] at hlast ⊢
  have hin : ea ≤ Nat.max ea ((ea / 128 + i) * 128) ∧ Nat.max ea ((ea / 128 + i) * 128) < ea + n :=
    ⟨Nat.le_max_left .., Nat.max_lt.2 ⟨by omega, by omega⟩⟩
  rw [hk _ hin.1 hin.2]
  exact if_pos h.scratch
/-- R208: it is always hit, -/
theorem InScratch.stashHit (h : InScratch t m ea n) (s : State) (wr : Bool) : Machine.stashHit s t ea n wr = true := by
  refine List.all_eq_true.2 fun i hi => ?_
  obtain ⟨-, k, hk⟩ := h.at (List.mem_range.1 hi)
  simp [hk, h.scratch]
/-- R211: at the mapping's stash offset. -/
theorem InScratch.stashLocs (h : InScratch t m ea n) (s : State) (tile : Nat) :
    ((List.range n).map (byteVa ea)).filterMap (stashLoc s tile t) =
      (List.range n).map fun i => Loc.stash tile (m.stoff + (ea + i - m.base)) none := by
  rw [List.filterMap_map, ← List.filterMap_eq_map]
  refine List.filterMap_congr fun i hi => ?_
  obtain ⟨hva, k, hk⟩ := h.at (List.mem_range.1 hi)
  rw [hva] at hk
  simp only [Function.comp_apply, stashLoc, hva, hk, h.scratch, if_true, stashOff]

/-- R208, R211: an access to scratch changes nothing, and its places are those of the mapping's stash offset. -/
theorem access_scratch {r : Req6} (h : InScratch (tileView s (tileOf r.ctx) r.maps) m ea n) (hserve : mapsServe s (tileOf r.ctx) r.asid = true)
    (hw : (ctxOf s r.ctx).watch = []) (he : s.errs = []) (hs : s.serrs = []) (hc : s.cerrs = []) (hsc : s.scerrs = []) :
    access s r ea n = .ok s ((List.range n).map fun i => Loc.stash (tileOf r.ctx) (m.stoff + (ea + i - m.base)) none) := by
  unfold access
  simp only [hserve, canonFault_low h.pos h.low, if_true, watchHit_none hw, ite_self, h.touchedLines, h.stashHit, h.stashLocs, locError_none he hs,
    correct_none hc hsc, List.foldl_nil, beq_self_eq_true, Bool.or_true, Bool.and_true, Bool.true_and]

end

/-! ## The bytes (R211) -/

/-- Bytes written to the stash leave every context as it was. -/
theorem writeLocs_stash_ctxs {α : Type} (tile : Nat) (g : α → Nat) (is : List α) (s : State) (bs : List Byte) :
    (writeLocs s (is.map fun i => Loc.stash tile (g i) none) bs).ctxs = s.ctxs := by
  induction is generalizing s bs with
  | nil => rfl
  | cons i is ih =>
    cases bs with
    | nil => rfl
    | cons b bs => exact ih (putStash s tile (g i) b) bs

section
variable {tile n : Nat} {g : Nat → Nat} (s : State) {bs : List Byte}

theorem stashByte_storeLocs_stash (hg : Function.Injective g) (hl : bs.length = n) {i : Nat} (hi : i < n) :
    stashByte (storeLocs s ((List.range n).map fun i => Loc.stash tile (g i) none) bs) tile (g i) = bs.getD i 0 := by
  have hnodup : (((List.range n).map fun i => Loc.stash tile (g i) none).map Loc.cell).Nodup := by
    rw [List.map_map]
    exact List.nodup_range.map fun _ _ h => hg (congrArg Prod.snd h)
  have hread := congrArg (·.getD i 0) (readLocs_storeLocs _ s bs hnodup (by simp [hl]))
  simp only [readLocs, List.map_map] at hread
  rw [← hread]
  simp [List.getD_eq_getElem?_getD, hi, readLoc]
theorem stashByte_storeLocs_other {t o : Nat} (h : t ≠ tile ∨ ∀ i < n, o ≠ g i) :
    stashByte (storeLocs s ((List.range n).map fun i => Loc.stash tile (g i) none) bs) t o = stashByte s t o := by
  refine readLoc_storeLocs_other _ s bs (.stash t o none) fun l hl heq => ?_
  obtain ⟨i, hi, rfl⟩ := List.mem_map.1 hl
  have htile : t = tile := Option.some.inj (congrArg Prod.fst heq)
  have hoff : o = g i := congrArg Prod.snd heq
  exact h.elim (· htile) (· i (List.mem_range.1 hi) hoff)
theorem storeLocs_stash_ctxs :
    (storeLocs s ((List.range n).map fun i => Loc.stash tile (g i) none) bs).ctxs = s.ctxs := by
  obtain ⟨_, _, _, _, hclear⟩ := clearWordErrs_eq (writeLocs s ((List.range n).map fun i => Loc.stash tile (g i) none) bs)
    ((List.range n).map fun i => Loc.stash tile (g i) none)
  rw [storeLocs, hclear]
  exact writeLocs_stash_ctxs tile g _ s bs

end

end Sys2Proof.Machine

namespace Sys2Proof.MemoryOps
open Sys2Proof.Machine Sys2Proof.Safety

/-- Settles O22: each byte of the access lies in the scratch mapping, so the access is hit, and a store writes the bytes of those
places, which are different, alone. -/
theorem scratchAccess : Obligations.ScratchAccess := by
  intro s r ea n k m hn hlow hserve hmode hbase hend hmap hborn hw he hs hc hsc
  have hin : InScratch (tileView s (tileOf r.ctx) r.maps) m ea n :=
    ⟨hmode, hn, hlow, k, fun va h1 h2 => mapAt_tileView (hmap va (by omega) (by omega)) hborn⟩
  have hinj : Function.Injective fun i => m.stoff + (ea + i - m.base) := fun i j h => by
    dsimp only at h
    omega
  exact ⟨access_scratch hin hserve hw he hs hc hsc, fun bs hl =>
    ⟨fun i hi => stashByte_storeLocs_stash s hinj hl hi, fun t o h => stashByte_storeLocs_other s h,
      fun a => memByte_storeLocs_other s bs (by simp), storeLocs_stash_ctxs s⟩⟩

end Sys2Proof.MemoryOps
end

section
/-! PROOF. What an operation meets of an access in a state that it has reached, and which scalar destinations have room (R44, R207, R271). -/
namespace Sys2Proof.Machine
open Sys2Proof.Safety

section
variable {s t u : State} {w : Word} {args : List Word} {pops : List Nat} {op : Op} {e : Eff}

theorem LoneRuns.of_RRI {g : RRI} {c : BitVec 8} (hr : Ready s) (hl : slotLegal (g.pack c) = true) (hf : c ≠ 0xFF)
    (hg : Enabled s g.gp g.gn) (hs : op.service = false) (hk : op.control = false) (hc : op.claim = true → (me s).hasClaim = true)
    (ha : Reads s op.srcs args pops) (hp : pushReady s op) : LoneRuns s (g.pack c) op args pops :=
  ⟨hr, hl, by rwa [opField_RRI_pack], by simpa [Enabled] using hg, by simp [hs], by simp [hk], hc, ha, hp⟩

/-- R111, R208: STOP is set already, so it makes no difference that the bundle had been held. -/
theorem LoneRuns.passes_held (h : LoneRuns s w op args pops)
    (hrun : op.run (loneView s w args) s = .ok t (heldStop (loneView s w args) e)) (hz : e.last = none) :
    issueOne w op s = .next (lonePass s t w pops e) :=
  (h.passes hrun hz).trans (congrArg _ (lonePass_heldStop ..))

variable {need : Need} {nc : Bool} {ea n : Nat} {locs : List Loc} {k : State → List Loc → Res}

/-- R207: an access that is performed, in whatever state the operation has reached. -/
theorem withPlaces_reached (h : access t (homeReq s need nc false) ea n = .ok u locs) :
    withPlaces false false (loneView s w args) t need nc ea n k = k u locs := by
  unfold withPlaces
  rw [maWaits_lone]
  change (match access t (homeReq s need nc false) ea n with | .ok s locs => k s locs | .hold _ _ => _ | .fault f => _) = _
  rw [h]

/-- R271: the same for bytes that must lie in stash mappings. -/
theorem withMapped_reached (hm : unmapped t (tileOf s.cur) (me s).asid.toNat ea n = none)
    (h : access t (homeReq s need false false) ea n = .ok u locs) :
    withMapped (loneView s w args) t need ea n k = k u locs := by
  simp only [withMapped, loneView_n, loneView_c, hm, withPlaces_reached h]

end

end Sys2Proof.Machine
end

section
/-! PROOF. O38: `launch`, `sdisp.tbl` and `sdisp` (R269, R315 to R317). -/
namespace Sys2Proof.Machine
open Sys2Proof.Safety

/-! ## Words of 32 bits in a dword (R2) -/

theorem leNat_take_add (a b : Nat) (l : List Byte) :
    leNat (l.take (a + b)) = leNat (l.take a) + 256 ^ a * leNat ((l.drop a).take b) := by
  induction a generalizing l with
  | zero => simp [leNat]
  | succ a ih =>
    cases l with
    | nil => simp [leNat]
    | cons x l =>
      rw [Nat.succ_add]
      simp only [List.take_succ_cons, List.drop_succ_cons, leNat, ih]
      rw [Nat.pow_succ]
      ring

theorem leNat_take_lt (a : Nat) (l : List Byte) : leNat (l.take a) < 256 ^ a := by
  induction a generalizing l with
  | zero => simp [leNat]
  | succ a ih =>
    cases l with
    | nil => simp [leNat]
    | cons x l =>
      have hx := x.isLt
      have hl := ih l
      simp only [List.take_succ_cons, leNat, Nat.pow_succ]
      omega

/-- R269: a dword of an entry holds two bounds. -/
theorem dwordAt_words (e : List Byte) (i : Nat) :
    bits (dwordAt e i) 31 0 = leNat ((e.drop (8 * i)).take 4) ∧ bits (dwordAt e i) 63 32 = leNat ((e.drop (8 * i + 4)).take 4) := by
  have hsum := leNat_take_add 4 4 (e.drop (8 * i))
  have hlo := leNat_take_lt 4 (e.drop (8 * i))
  have hhi := leNat_take_lt 4 ((e.drop (8 * i)).drop 4)
  rw [List.drop_drop] at hsum hhi
  unfold bits dwordAt
  rw [hsum]
  omega

/-- R269: an entry admits the extents that lie within its four bounds. -/
theorem bucketFits_iff (shape : Nat → Nat) (e : List Byte) :
    bucketFits shape e = true ↔ ∀ i, i < 4 → shape i ≤ leNat ((e.drop (4 * i)).take 4) := by
  obtain ⟨h0, h1⟩ := dwordAt_words e 0
  obtain ⟨h2, h3⟩ := dwordAt_words e 1
  simp only [bucketFits, h0, h1, h2, h3, Bool.and_eq_true, decide_eq_true_eq]
  refine ⟨fun ⟨⟨⟨a, b⟩, c⟩, d⟩ i hi => ?_, fun h => ⟨⟨⟨h 0 (by omega), h 1 (by omega)⟩, h 2 (by omega)⟩, h 3 (by omega)⟩⟩
  interval_cases i
  · exact a
  · exact b
  · exact c
  · exact d

/-! ## Rows of a table (R208, R269) -/

section
variable {s t u : State} {n ea : Nat} {eas : List Nat} {es : List (List Byte)}

/-- Rows that are read begin with the first, the others read in the state that its access leaves. -/
theorem readRows_cons (h : readRows s n t (ea :: eas) = some (u, es)) : ∃ t' l rest,
    unmapped t (tileOf s.cur) (me s).asid.toNat ea n = none ∧ access t (homeReq s .load false false) ea n = .ok t' l ∧
    readRows s n t' eas = some (u, rest) ∧ es = readLocs t' l :: rest := by
  unfold readRows at h
  split at h
  · cases h
  · next hm =>
    split at h
    · next t' l hacc =>
      obtain ⟨⟨u', rest⟩, hrest, heq⟩ := Option.map_eq_some_iff.1 h
      cases heq
      exact ⟨t', l, rest, by simpa using hm, hacc, hrest, rfl⟩
    · cases h

theorem readRows_length (h : readRows s n t eas = some (u, es)) : es.length = eas.length := by
  induction eas generalizing t es with
  | nil =>
    cases h
    rfl
  | cons ea eas ih =>
    obtain ⟨t', l, rest, -, -, hrest, rfl⟩ := readRows_cons h
    rw [List.length_cons, List.length_cons, ih hrest]

end

/-- R269: the addresses of n entries of the table at a, from entry j on. -/
def bucketRows (a j n : Nat) : List Nat := (List.range' j n).map fun i => a + 8 + 32 * i

theorem bucketRows_succ (a j n : Nat) : bucketRows a j (n + 1) = (a + 8 + 32 * j) :: bucketRows a (j + 1) n := by
  simp [bucketRows, List.range'_succ]
theorem bucketRows_zero (a n : Nat) : bucketRows a 0 n = (List.range n).map fun j => a + 8 + 32 * j := by
  rw [bucketRows, List.range_eq_range']

section
variable {s t u : State} {w : Word} {a : Nat} {all : Bool} {shape : Nat → Nat} {k : State → Option (List Byte) → Res}

/-- R270: the whole table is read when all of it is to be, or when no entry admits the extents. -/
theorem findBucket_whole {n j : Nat} {got : Option (List Byte)} {es : List (List Byte)}
    (h : readRows s 32 t (bucketRows a j n) = some (u, es)) (hgo : all = true ∨ got = none ∧ ∀ e ∈ es, bucketFits shape e = false) :
    findBucket (loneView s w []) a all shape n j got t k = k u (got.or (es.find? (bucketFits shape))) := by
  induction n generalizing j got t es with
  | zero =>
    cases h
    simp [findBucket]
  | succ n ih =>
    rw [bucketRows_succ] at h
    obtain ⟨t', l, rest, hm, hacc, hrest, rfl⟩ := readRows_cons h
    rw [findBucket, withMapped_reached hm hacc]
    rcases hgo with rfl | ⟨rfl, hno⟩
    · simp only [Bool.not_true, Bool.and_false, Bool.false_eq_true, if_false]
      rw [ih hrest (.inl rfl)]
      cases got <;> cases hf : bucketFits shape (readLocs t' l) <;> simp [hf]
    · have hf : bucketFits shape (readLocs t' l) = false := hno _ (List.mem_cons_self ..)
      simp only [hf, Bool.false_eq_true, if_false, Option.isSome_none, Bool.false_and]
      rw [ih hrest (.inr ⟨rfl, fun e he => hno e (List.mem_cons_of_mem _ he)⟩)]
      simp [hf]

/-- R269: outside a sealed launch the table is read up to the first entry that admits the extents. -/
theorem findBucket_first {n j : Nat} {e : List Byte} {es : List (List Byte)} (hn : es.length < n)
    (h : readRows s 32 t (bucketRows a j (es.length + 1)) = some (u, es ++ [e])) (hno : ∀ e ∈ es, bucketFits shape e = false)
    (he : bucketFits shape e = true) : findBucket (loneView s w []) a false shape n j none t k = k u (some e) := by
  induction es generalizing n j t with
  | nil =>
    obtain ⟨n, rfl⟩ := Nat.exists_eq_succ_of_ne_zero (Nat.ne_of_gt hn)
    rw [bucketRows_succ] at h
    obtain ⟨t', l, rest, hm, hacc, hrest, heq⟩ := readRows_cons h
    cases hrest
    obtain rfl : e = readLocs _ l := by simpa using heq
    rw [findBucket, withMapped_reached hm hacc]
    simp [he]
  | cons x es ih =>
    obtain ⟨n, rfl⟩ := Nat.exists_eq_succ_of_ne_zero (Nat.ne_zero_of_lt hn)
    rw [bucketRows_succ] at h
    obtain ⟨t', l, rest, hm, hacc, hrest, heq⟩ := readRows_cons h
    obtain ⟨rfl, rfl⟩ := List.cons.inj heq
    rw [findBucket, withMapped_reached hm hacc]
    simp only [hno _ (List.mem_cons_self ..), Bool.false_eq_true, if_false, Option.isSome_none, Bool.false_and]
    exact ih (Nat.lt_of_succ_lt_succ hn) hrest fun e he => hno e (List.mem_cons_of_mem _ he)

/-- R269, R270: the first entry that admits the extents is found, the table being read up to it, or all of it. -/
theorem findBucket_found {nb j : Nat} {es : List (List Byte)} (hj : j < nb) (hno : ∀ i, i < j → bucketFits shape (es.getD i []) = false)
    (hfit : bucketFits shape (es.getD j []) = true)
    (h : readRows s 32 t (bucketRows a 0 (if all then nb else j + 1)) = some (u, es)) :
    findBucket (loneView s w []) a all shape nb 0 none t k = k u (some (es.getD j [])) := by
  have hlen : es.length = if all then nb else j + 1 := by simpa [bucketRows] using readRows_length h
  have hjl : j < es.length := by rw [hlen]; split <;> omega
  have hget (i : Nat) (hi : i < es.length) : es.getD i [] = es[i] := List.getD_eq_getElem _ _ hi
  rw [hget j hjl] at hfit ⊢
  cases all with
  | true =>
    rw [if_pos rfl] at h
    rw [findBucket_whole h (.inl rfl), Option.none_or]
    congr 1
    refine List.find?_eq_some_iff_getElem.2 ⟨hfit, j, hjl, rfl, fun i hi => ?_⟩
    rw [← hget i (hi.trans hjl), hno i hi]
    rfl
  | false =>
    rw [if_neg Bool.false_ne_true] at h hlen
    have hsplit : es = es.take j ++ [es[j]] := by
      rw [← List.take_succ_eq_append_getElem hjl, ← hlen, List.take_length]
    have hj' : (es.take j).length = j := by rw [List.length_take]; omega
    rw [hsplit] at h
    refine findBucket_first (by rwa [hj']) (by rwa [hj']) (fun e he => ?_) hfit
    obtain ⟨i, hi, rfl⟩ := List.mem_take_iff_getElem.1 he
    rw [← hget i (by omega)]
    exact hno i (by omega)

end

/-! ## What the operations come to -/

section
variable {s t u : State} {w : Word} {a : Word} {pops : List Nat} {locs : List Loc} {p : Part}

/-- R315: a launch record enters stream D when it has room. -/
theorem launch_run {f : RRR} (hal : a.toNat % 64 = 0) (hpl : Placed s false .load false a.toNat 128 t locs)
    (hp : partAt t (partOfCtx t s.cur) = some p) : (opLaunch f).run (loneView s w [a]) s =
      if 64 ≤ p.streamD.length then .ok t (heldStop (loneView s w [a]) (landS (me s) f.d 1 1))
      else .ok (setPart t (partOfCtx t s.cur) { p with streamD := p.streamD ++ [.launch (recWords (readLocs t locs))] })
        (heldStop (loneView s w [a]) (landS (me s) f.d 0 1)) := by
  simp only [opLaunch, loneView_arg_zero, loneView_n, loneView_c, hal, withPlaces_ok hpl, pushD, hp, ne_eq, not_true_eq_false, if_false]
  by_cases h : 64 ≤ p.streamD.length
  · simp only [if_pos h, Res.parkOn]
  · simp only [if_neg h, Res.parkOn]

/-- R316: the address of a table with no reserved bit set is latched. -/
theorem sdispTbl_run {f : RRR} {t0 : State} {h : List Loc} {nb : Nat} (hal : a.toNat % 8 = 0)
    (hm : unmapped s (tileOf s.cur) (me s).asid.toNat a.toNat 8 = none) (hpl : Placed s false .load false a.toNat 8 t0 h)
    (hnb : nb = leNat (readLocs t0 h)) (hlo : 1 ≤ nb) (hhi : nb ≤ 256)
    (hm' : unmapped t0 (tileOf s.cur) (me s).asid.toNat (a.toNat + 8) (32 * nb) = none)
    (hacc : access t0 (homeReq s .load false false) (a.toNat + 8) (32 * nb) = .ok t locs)
    (hres : ∀ e ∈ chunks 32 nb (readLocs t locs), leNat ((e.drop 24).take 8) / 2 ^ 16 = 0) :
    (opSdispTbl f).run (loneView s w [a]) s = .ok (modCtx t s.cur fun c => { c with tbl := smIns c.tbl (f.md.toNat % 4) a })
      (heldStop (loneView s w [a]) {}) := by
  have hgood : (chunks 32 nb (readLocs t locs)).any bucketBad = false := List.any_eq_false.2 fun e he => by
    have hzero : bits (dwordAt e 3) 63 16 = 0 := congrArg (· % 2 ^ 48) (hres e he)
    simp [bucketBad, hzero]
  have hcount : ¬(nb = 0 ∨ 256 < nb) := by omega
  subst hnb
  simp only [opSdispTbl, loneView_arg_zero, loneView_n, hal, withMapped_reached hm hpl, hcount, withMapped_reached hm' hacc, hgood,
    bits_kind, ne_eq, not_true_eq_false, Bool.false_eq_true, if_false, Res.parkOn]

/-- R317: the dispatch goes on with the entry that is found. -/
theorem sdisp_run {f : RRI} {t0 : State} {h : List Loc} {e : Option (List Byte)}
    (ha : smFind (me s).tbl (f.imm.toNat % 4) = some a) (hm : unmapped s (tileOf s.cur) (me s).asid.toNat a.toNat 8 = none)
    (hpl : Placed s false .load false a.toNat 8 t0 h)
    (hfind : ∀ k, findBucket (loneView s w []) a.toNat (isSealed t0 s.cur) (fun i => (smGet 0 (me s).shape i).toNat)
      (leNat (readLocs t0 h) % 2 ^ 9) 0 none t0 k = k u e) :
    (opSdisp f).run (loneView s w []) s = .ok u (heldStop (loneView s w []) (match e with
      | some e => { landS (me s) f.d (word (dwordAt e 3 % 2 ^ 16)) 1 with jump := some (word (dwordAt e 2)) }
      | none => landS (me s) f.d (BitVec.allOnes 64) 1)) := by
  have ha' : smFind (ctxOf s s.cur).tbl (bits f.imm.toNat 1 0) = some a := by rw [bits_kind]; exact ha
  have hlow (x : Nat) : bits x 8 0 = x % 2 ^ 9 ∧ bits x 15 0 = x % 2 ^ 16 := by simp [bits]
  simp only [opSdisp, loneView_n, loneView_c, ha', withMapped_reached hm hpl, (hlow _).1, hfind]
  cases e with
  | none => rfl
  | some e => simp only [(hlow _).2, Res.parkOn]

/-- R269: the entry found is the first one whose four bounds are not below the extents. -/
theorem sdisp_finds {t0 : State} {nb j : Nat} {shape : Nat → Nat} {es : List (List Byte)} (hj : j < nb)
    (hno : ∀ i, i < j → ¬∀ m, m < 4 → shape m ≤ leNat (((es.getD i []).drop (4 * m)).take 4))
    (hfit : ∀ m, m < 4 → shape m ≤ leNat (((es.getD j []).drop (4 * m)).take 4)) {all : Bool}
    (h : readRows s 32 t0 ((List.range (if all then nb else j + 1)).map fun j => a.toNat + 8 + 32 * j) = some (u, es))
    (k : State → Option (List Byte) → Res) :
    findBucket (loneView s w []) a.toNat all shape nb 0 none t0 k = k u (some (es.getD j [])) :=
  findBucket_found hj (fun i hi => by simpa [← bucketFits_iff] using hno i hi) ((bucketFits_iff ..).2 hfit) (by rwa [bucketRows_zero])
/-- R269: no entry is found when each has a bound below its extent. -/
theorem sdisp_misses {t0 : State} {nb : Nat} {shape : Nat → Nat} {es : List (List Byte)}
    (hno : ∀ i, i < nb → ¬∀ m, m < 4 → shape m ≤ leNat (((es.getD i []).drop (4 * m)).take 4)) {all : Bool}
    (h : readRows s 32 t0 ((List.range nb).map fun j => a.toNat + 8 + 32 * j) = some (u, es)) (k : State → Option (List Byte) → Res) :
    findBucket (loneView s w []) a.toNat all shape nb 0 none t0 k = k u none := by
  have hnone : ∀ e ∈ es, bucketFits shape e = false := fun e he => by
    obtain ⟨i, hi, rfl⟩ := List.mem_iff_getElem.1 he
    have hlen : es.length = nb := by simpa using readRows_length h
    have hbad := hno i (hlen ▸ hi)
    rw [List.getD_eq_getElem _ _ hi, ← bucketFits_iff] at hbad
    simpa using hbad
  rw [← bucketRows_zero] at h
  rw [findBucket_whole h (.inr ⟨rfl, hnone⟩), Option.none_or, List.find?_eq_none.2 fun e he => by simp [hnone e he]]

end

end Sys2Proof.Machine

namespace Sys2Proof.Scheduling
open Sys2Proof.Machine Sys2Proof.Safety

/-- Settles O38: `launch` by the room in stream D, `sdisp` by the entry that is found. -/
theorem launchResults : Obligations.LaunchResults := by
  refine fun s hr => ⟨fun f a pops hg ha => ⟨fun t locs p hw hd hal hpl hp => ?_, fun t0 h t locs nb hw hal hm hpl hnb hlo hhi hm' hacc hres => ?_⟩,
    fun f hg hd hw => ?_⟩
  · have hruns : LoneRuns s (f.pack 0xEB) (opLaunch f) [a] pops :=
      .of_RRR hr (Laws.Legal.launch f _ rfl hw) (by decide) hg rfl rfl rfl ha (pushReady_of_room rfl hd)
    have hrun := launch_run (w := f.pack 0xEB) (f := f) hal hpl hp
    exact ⟨fun hlt => hruns.passes_held (hrun.trans (if_neg (Nat.not_le.2 hlt))) rfl, fun hge => hruns.passes_held (hrun.trans (if_pos hge)) rfl⟩
  · have hruns : LoneRuns s (f.pack 0xED) (opSdispTbl f) [a] pops :=
      .of_RRR hr (Laws.Legal.sdispTbl f _ rfl hw) (by decide) hg rfl rfl rfl ha (pushReady_of_none rfl)
    exact hruns.passes_held (sdispTbl_run hal hm hpl hnb hlo hhi hm' hacc hres) rfl
  · have hruns : LoneRuns s (f.pack 0xEC) (opSdisp f) [] [] :=
      .of_RRI hr (Laws.Legal.sdisp f _ rfl hw) (by decide) hg rfl rfl nofun rfl (pushReady_of_room rfl hd)
    refine ⟨fun hnone => hruns.faults ?_, fun a t0 h nb t es ha hm hpl hnb => ⟨fun j hj hno hfit hrows => ?_, fun hno hrows => ?_⟩⟩
    · simp only [opSdisp, loneView_n, bits_kind]
      rw [show smFind (ctxOf s s.cur).tbl (f.imm.toNat % 4) = none from hnone]
      rfl
    · subst hnb
      exact hruns.passes_held (sdisp_run ha hm hpl (sdisp_finds hj hno hfit hrows)) rfl
    · subst hnb
      exact hruns.passes_held (sdisp_run ha hm hpl (sdisp_misses hno hrows)) rfl

end Sys2Proof.Scheduling
end

section
/-! PROOF. An access changes no context (R207 to R219, R333, R405). -/
namespace Sys2Proof.Machine

/-- Work that changes no context, done in a row, changes none. -/
theorem foldl_ctxs {α : Type} {f : State → α → State} (hf : ∀ s a, (f s a).ctxs = s.ctxs) (as : List α) (s : State) :
    (as.foldl f s).ctxs = s.ctxs :=
  foldl_related (R := fun s t => t.ctxs = s.ctxs) (fun _ => rfl) (fun _ _ _ h g => g.trans h) hf as s

/-! ## Corrected errors and counters (R333, R405) -/

theorem correctAt_ctxs (s : State) (a : Nat) : (correctAt s a).ctxs = s.ctxs := by
  unfold correctAt
  split
  · split
    · exact modPart_ctxs ..
    · rfl
  · rfl
theorem correctStash_ctxs (s : State) (tile off : Nat) : (correctStash s tile off).ctxs = s.ctxs := by
  unfold correctStash
  dsimp only
  split
  · split
    · exact modPart_ctxs ..
    · rfl
  · rfl
theorem correct_ctxs (s : State) (ls : List Loc) : (correct s ls).ctxs = s.ctxs := by
  unfold correct
  split
  · rfl
  · refine foldl_ctxs (fun s l => ?_) ls s
    cases l with
    | mem a => exact correctAt_ctxs ..
    | stash t o h => exact correctStash_ctxs ..
theorem noteRange_ctxs (s : State) (p : Part) (asid : Nat) (need : Need) (quad : Nat) (sealed : Bool) (vas : List Nat) :
    (noteRange s p asid need quad sealed vas).ctxs = s.ctxs := by
  refine foldl_ctxs (fun s e => ?_) _ s
  split
  · exact correct_ctxs ..
  · rfl

/-! ## Lines (R217 to R219) -/

theorem touchLine_ctxs (s : State) (tile vline : Nat) (wr : Bool) : (touchLine s tile vline wr).ctxs = s.ctxs := by
  unfold touchLine
  split <;> rfl
theorem fillData_ctxs (s : State) (tile off pline mode : Nat) : (fillData s tile off pline mode).ctxs = s.ctxs := by
  unfold fillData
  dsimp only
  split
  · rfl
  · exact (correctAt_ctxs ..).trans (correctAt_ctxs ..)
theorem ncDrop_ctxs (s : State) (tile : Nat) (ls : List (Nat × Mapping)) : (ncDrop s tile ls).ctxs = s.ctxs := by
  refine foldl_ctxs (fun s e => ?_) ls s
  split
  · refine Eq.trans (b := (if _ then _ else _ : State).ctxs) rfl ?_
    split
    · exact writeBackData_ctxs ..
    · rfl
  · rfl

section
variable {s t : State} {p : Part} {q : Acq} {locs : List Loc}

theorem acquireLine_ctxs {vline : Nat} {m : Mapping} (h : acquireLine s p q vline m = .ok t locs) : t.ctxs = s.ctxs := by
  unfold acquireLine at h
  dsimp only at h
  split at h
  · cases h
  · split at h
    · cases h
    · split at h
      · cases h
      · split at h
        · cases h
        · cases h
          refine (correct_ctxs ..).trans ?_
          split
          · rfl
          · exact fillData_ctxs ..
        · cases h

theorem acquireLines_ctxs {ls : List (Nat × Mapping)} (h : acquireLines s p q ls = .ok t locs) : t.ctxs = s.ctxs := by
  induction ls generalizing s with
  | nil =>
    cases h
    rfl
  | cons l ls ih =>
    unfold acquireLines at h
    split at h
    · exact (ih h).trans (touchLine_ctxs ..)
    · split at h
      · cases h
      · split at h
        · next hline => exact (ih h).trans (acquireLine_ctxs hline)
        · next hline => exact absurd h (hline _ _)

/-- R207: an access that is performed leaves every context as it was. -/
theorem access_ctxs {r : Req6} {ea n : Nat} (h : access s r ea n = .ok t locs) : t.ctxs = s.ctxs := by
  unfold access at h
  dsimp only at h
  generalize (if mapsServe s (tileOf r.ctx) r.asid && n != 0 then touchedLines (tileView s (tileOf r.ctx) r.maps) ea n else []) =
    touched at h
  split at h
  · cases h
  · split at h
    · cases h
    · split at h
      · split at h
        · cases h
        · cases h
          exact (correct_ctxs ..).trans (foldl_ctxs (fun s e => touchLine_ctxs ..) _ _)
      · split at h
        · cases h
        · split at h
          · cases h
          · split at h
            · cases h
            · split at h
              · cases h
              · split at h
                · cases h
                · split at h
                  · next hacq =>
                    split at h
                    · cases h
                    · cases h
                      exact (noteRange_ctxs ..).trans ((correct_ctxs ..).trans ((acquireLines_ctxs hacq).trans (ncDrop_ctxs ..)))
                  · next hacq => exact absurd h (hacq _ _)

end

theorem writeLocs_ctxs (ls : List Loc) (s : State) (bs : List Byte) : (writeLocs s ls bs).ctxs = s.ctxs := by
  induction ls generalizing s bs with
  | nil => rfl
  | cons l ls ih =>
    cases bs with
    | nil => rfl
    | cons b bs =>
      refine (ih _ _).trans ?_
      cases l with
      | mem a => rfl
      | stash t o h => cases h <;> rfl
theorem storeLocs_ctxs (s : State) (ls : List Loc) (bs : List Byte) : (storeLocs s ls bs).ctxs = s.ctxs := by
  obtain ⟨_, _, _, _, hclear⟩ := clearWordErrs_eq (writeLocs s ls bs) ls
  rw [storeLocs, hclear]
  exact writeLocs_ctxs ..

end Sys2Proof.Machine
end
section
/-! PROOF. What a context does after its bundle, and the context of a bundle that leaves no result (R54, R57, R111). -/
namespace Sys2Proof.Machine
open Sys2Proof.Safety

/-- R54: the results of every context in flight stay as they are. -/
def SamePend (s t : State) : Prop := ∀ n, (ctxOf t n).pend = (ctxOf s n).pend

theorem SamePend.refl (s : State) : SamePend s s := fun _ => rfl
theorem SamePend.trans {s t u : State} (h : SamePend s t) (g : SamePend t u) : SamePend s u := fun n => (g n).trans (h n)
theorem SamePend.of_ctxs {s t : State} (h : t.ctxs = s.ctxs) : SamePend s t := fun n => by unfold ctxOf; rw [h]
theorem SamePend.setCtx {s : State} {n : Nat} {c : Ctx} (h : c.pend = (ctxOf s n).pend) : SamePend s (setCtx s n c) := fun k => by
  rw [ctxOf_setCtx]
  split
  · next hk => rw [h, hk]
  · rfl

theorem wake_pend (c : Ctx) : (wake c).pend = c.pend := by
  obtain ⟨_, _, _, _, h⟩ := wake_eq c
  rw [h]
theorem wakeWhere_pend (s : State) (test : Nat → Ctx → Bool) : SamePend s (wakeWhere s test) := by
  refine foldl_related SamePend.refl (fun _ _ _ => SamePend.trans) (fun s n => ?_) _ s
  split
  · exact SamePend.setCtx (wake_pend _)
  · exact SamePend.refl s
theorem popChannels_pend (s : State) (n : Nat) (chs : List Nat) : SamePend s (popChannels s n chs) := by
  induction chs generalizing s with
  | nil => exact SamePend.refl s
  | cons ch chs ih =>
    unfold popChannels
    refine (SamePend.trans (SamePend.setCtx ?_) (SamePend.setCtx ?_)).trans (ih _)
    · rfl
    · dsimp only
      split
      · exact wake_pend _
      · rfl

/-- R57, R61: a context whose bundle of one operation at an address has passed without a branch. -/
def Ctx.passed (c : Ctx) (pc : Word) : Ctx :=
  { c with pc := pc + 12, fetching := false, held := none, answered := [], attnRun := false, stopWait := false }

section
variable {s t : State} {w : Word} {pops : List Nat}

/-- What a context does after its bundle follows what the bundle leaves. -/
theorem lonePass_after (e : Eff) (he : e.after = none) (taken : Bool) (g : State → State) :
    lonePass s t w pops { e with taken := taken, after := some g } = g (lonePass s t w pops e) := by
  unfold lonePass passBundle
  simp only [single_stop, Bool.true_or, if_true, List.foldl_cons, List.foldl_nil, applyAfter, he]
  rfl

/-- R57: a bundle that leaves no result, its context's earlier ones landed. -/
theorem lonePass_empty (h : (ctxOf t s.cur).pend = []) :
    lonePass s t w pops {} = modCtx (popChannels t s.cur pops) s.cur fun c => c.passed (me s).pc := by
  have hpop : (ctxOf (popChannels t s.cur pops) s.cur).pend = [] := (popChannels_pend t s.cur pops s.cur).trans h
  have hpass : (ctxOf (modCtx (popChannels t s.cur pops) s.cur fun c => c.passed (me s).pc) s.cur).pend = [] := by
    rw [ctxOf_modCtx_same]
    exact hpop
  unfold lonePass passBundle
  simp only [single_stop, Bool.true_or, if_true, List.foldl_cons, List.foldl_nil, applyAfter, applyLate, queueEff, and_self]
  refine (?_ : _ = stopCtx (modCtx (popChannels t s.cur pops) s.cur fun c => c.passed (me s).pc) s.cur).trans ?_
  · rfl
  · rw [stopCtx, landLoose_settled hpass, if_pos hpass]

theorem lonePass_empty_pend (h : (ctxOf t s.cur).pend = []) : (ctxOf (lonePass s t w pops {}) s.cur).pend = [] := by
  rw [lonePass_empty h, ctxOf_modCtx_same]
  exact (popChannels_pend t s.cur pops s.cur).trans h

end

end Sys2Proof.Machine
end

section
/-! PROOF. O37: tasks, their counters and their deques (R264, R270, R287 to R292). -/
namespace Sys2Proof.Machine
open Sys2Proof.Safety

section
variable {s t u x : State} {w : Word} {args : List Word} {pops : List Nat} {e : Eff} {a b c cnt : Word} {locs : List Loc} {l : Launch}
  {rs : List Range}

/-! ## The counter and the room of a deque (R264, R287) -/

/-- R287: a counter at the places of an access, changed by an amount. -/
def counted (t : State) (locs : List Loc) (delta : Nat) : State :=
  storeLocs t locs (leBytes 8 ((leNat (readLocs t locs) + delta) % 2 ^ 64))

theorem withCounter_ok {delta : Nat} {k : State → Res} (h : access t (homeReq s .amo true false) a.toNat 8 = .ok u locs) :
    withCounter (loneView s w args) t a delta k = k (counted u locs delta) := withPlaces_reached h

/-- R264: from u room has been made at the top of a spindle's hardware deque, by moving its bottom entry to memory when it is full. -/
def RoomMade (s : State) (sp : Nat) (u x : State) (l : Launch) : Prop :=
  ((spinAt u sp).deque.length < 32 ∧ x = u) ∨
  ∃ last y locs, (spinAt u sp).deque.length = 32 ∧ (spinAt u sp).deque.getLast? = some last ∧
    access u (homeReq s .store true false) (dequeAddr l (spinAt u sp) sp (spinAt u sp).memCount) 32 = .ok y locs ∧
    x = modSpin (storeLocs y locs (taskBytes last)) sp fun p => { p with deque := p.deque.dropLast, memCount := p.memCount + 1 }

theorem withRoom_ok {sp : Nat} {k : State → Res} (h : RoomMade s sp u x l) : withRoom (loneView s w args) u l sp k = k x := by
  unfold withRoom
  dsimp only
  rcases h with ⟨hlt, rfl⟩ | ⟨last, y, locs, hfull, hlast, hacc, rfl⟩
  · split
    · rw [if_pos hlt]
    · rfl
  · simp only [hlast, hfull, lt_irrefl, if_false]
    exact withPlaces_reached hacc

/-! ## `fork` and `fork.r` (R288, R289) -/

section
variable {f : RRR} (hl : launchOf t s.cur = some l)
include hl

/-- R288, R289: FULL. -/
theorem forkWith_full (h : dequesFull l (spinAt t (spindleOf s.cur)) = true ∨ 256 < (tileAt t (tileOf s.cur)).ranges.length + rs.length) :
    forkWith (loneView s w args) t f cnt rs = .ok t (heldStop (loneView s w args) (landS (me s) f.d 1 1)) := by
  simp only [forkWith, loneView_n, loneView_c, hl, h, if_true]

/-- R287 to R289: the counter goes up, room is made, and the task is pushed. -/
theorem forkWith_pushes (hfull : dequesFull l (spinAt t (spindleOf s.cur)) = false)
    (hranges : (tileAt t (tileOf s.cur)).ranges.length + rs.length ≤ 256)
    (hacc : access t (homeReq s .amo true false) cnt.toNat 8 = .ok u locs) (hroom : RoomMade s (spindleOf s.cur) (counted u locs 1) x l) :
    forkWith (loneView s w [a, b, c]) t f cnt rs =
      .ok (pushTask x s.cur a b cnt rs) (heldStop (loneView s w [a, b, c]) (landS (me s) f.d 0 1)) := by
  simp only [forkWith, loneView_n, loneView_c, hl, hfull, Nat.not_lt.2 hranges, Bool.false_eq_true, or_self, if_false,
    withCounter_ok hacc, withRoom_ok hroom]
  rfl

end

section
variable {f : RRR}

theorem fork_sealed (h : isSealed s s.cur = true) : (opFork f).run (loneView s w args) s = .fault ⟨0x1A, 0, 0, none, []⟩ := if_pos h
theorem forkR_sealed (h : isSealed s s.cur = true) : (opForkR f).run (loneView s w args) s = .fault ⟨0x1A, 0, 0, none, []⟩ := if_pos h

section
variable (hs : isSealed s s.cur = false) (ha : a ≠ 0)
include hs ha

/-- R288: `fork` with a good counter's address. -/
theorem fork_run (hal : c.toNat % 8 = 0) : (opFork f).run (loneView s w [a, b, c]) s =
    (forkWith (loneView s w [a, b, c]) s f c []).parkOn .token := by
  simp only [opFork, loneView_n, loneView_arg_zero, loneView_arg_two, hs, ha, hal, Bool.false_eq_true, ne_eq, not_true_eq_false, or_self,
    if_false]

/-- R289: `fork.r` with a good block. -/
theorem forkR_run {t0 t1 : State} {h bs : List Loc} {nr : Nat} (hal : c.toNat % 16 = 0)
    (hm : unmapped s (tileOf s.cur) (me s).asid.toNat c.toNat 16 = none) (hpl : Placed s false .load false c.toNat 16 t0 h)
    (hnr : nr = leNat ((readLocs t0 h).drop 8)) (hlo : 1 ≤ nr) (hhi : nr ≤ 4) (hcnt : cnt = word (leNat ((readLocs t0 h).take 8)))
    (hcal : cnt.toNat % 8 = 0) (hm' : unmapped t0 (tileOf s.cur) (me s).asid.toNat (c.toNat + 16) (16 * nr) = none)
    (hacc : access t0 (homeReq s .load false false) (c.toNat + 16) (16 * nr) = .ok t1 bs)
    (hrs : allSome ((chunks 16 nr (readLocs t1 bs)).map rangeOf) = some rs) :
    (opForkR f).run (loneView s w [a, b, c]) s = (forkWith (loneView s w [a, b, c]) t1 f cnt rs).parkOn .token := by
  have hgood : ¬(nr = 0 ∨ 4 < nr ∨ cnt.toNat % 8 ≠ 0) := by omega
  subst hnr hcnt
  simp only [opForkR, loneView_n, loneView_arg_zero, loneView_arg_two, hs, ha, hal, withMapped_reached hm hpl, hgood,
    withMapped_reached hm' hacc, hrs, Bool.false_eq_true, ne_eq, not_true_eq_false, or_self, if_false]

end

end

/-! ## The pushed task (R264, R287) -/

theorem wakeWhere_units (s : State) (test : Nat → Ctx → Bool) :
    (∀ k, spinAt (wakeWhere s test) k = spinAt s k) ∧ ∀ k, tileAt (wakeWhere s test) k = tileAt s k := by
  refine foldl_related (R := fun s t => (∀ k, spinAt t k = spinAt s k) ∧ ∀ k, tileAt t k = tileAt s k) (fun _ => ⟨fun _ => rfl, fun _ => rfl⟩)
    (fun _ _ _ h g => ⟨fun k => (g.1 k).trans (h.1 k), fun k => (g.2 k).trans (h.2 k)⟩) (fun s n => ?_) _ s
  split <;> exact ⟨fun _ => rfl, fun _ => rfl⟩

theorem pushTask_units (u : State) (n : Nat) (e g k : Word) (rs : List Range) :
    (spinAt (pushTask u n e g k rs) (spindleOf n)).deque =
      ⟨e, g, k, word ((tileAt u (tileOf n)).fnum + tileOf n * 2 ^ 32 + if rs = [] then 0 else 2 ^ 40)⟩ :: (spinAt u (spindleOf n)).deque ∧
    (tileAt (pushTask u n e g k rs) (tileOf n)).fnum = ((tileAt u (tileOf n)).fnum + 1) % 2 ^ 32 ∧
    (tileAt (pushTask u n e g k rs) (tileOf n)).ranges =
      (tileAt u (tileOf n)).ranges ++ rs.map fun r => { r with fnum := (tileAt u (tileOf n)).fnum } := by
  unfold pushTask wakeJoiners
  rw [(wakeWhere_units ..).1, (wakeWhere_units ..).2]
  have htag : (if (!rs.isEmpty) = true then 2 ^ 40 else 0) = if rs = [] then 0 else 2 ^ 40 := by cases rs <;> rfl
  simp only [spinAt_modSpin_same, spinAt_modTile, tileAt_modSpin, tileAt_modTile_same, taskTag, htag, and_self]

/-! ## `join`, `jtest` and `tend` (R290 to R292) -/

section
variable {f : RRR} (hal : a.toNat % 8 = 0)
include hal

theorem jtest_run (hpl : Placed s false .load true a.toNat 8 t locs) : (opJtest f).run (loneView s w [a]) s =
    .ok t (heldStop (loneView s w [a]) (landS (me s) f.d (word (leNat (readLocs t locs))) 1)) := by
  simp only [opJtest, loneView_arg_zero, loneView_c, hal, withPlaces_ok hpl, ne_eq, not_true_eq_false, if_false, Res.parkOn]

theorem join_zero (hpl : Placed s false .load true a.toNat 8 t locs) (h : leNat (readLocs t locs) = 0) :
    (opJoin f).run (loneView s w [a]) s = .ok t (heldStop (loneView s w [a]) {}) := by
  simp only [opJoin, loneView_arg_zero, hal, withPlaces_ok hpl, h, ne_eq, not_true_eq_false, if_false, if_true, Res.parkOn]

/-- R291: a counter above zero lets the context look for a task. -/
theorem join_looks (hpl : Placed s false .load true a.toNat 8 t locs) (h : leNat (readLocs t locs) ≠ 0) :
    (opJoin f).run (loneView s w [a]) s = (match findTask t s.cur ((me s).answered.contains .home) with
      | .none => .hold .join (.counter a) id
      | .hold hs => .hold .join (.home []) fun s' => setWants s' s.cur hs
      | .fault x => .fault x
      | .found sp pl k => .ok (modCtx (removeTask t s.cur sp pl) s.cur fun c => { c with taskn := k.tag })
        { writes := [.x 1 k.arg, .x 2 k.cnt, .x 3 (ctxOf t s.cur).taskn, .x 4 (me s).pc], jump := some k.entry, stop := true }) := by
  simp only [opJoin, loneView_arg_zero, loneView_n, loneView_answered, hal, withPlaces_ok hpl, h, ne_eq, not_true_eq_false, if_false]
  cases findTask t s.cur ((me s).answered.contains .home) <;> rfl

/-- R292: the state after the counter has gone down, the ranges are freed and the task name is restored. -/
def taskEnded (s t : State) (locs : List Loc) (b : Word) : State :=
  modCtx (freeRanges (counted t locs (2 ^ 64 - 1)) (tileOf s.cur) (me s).taskn) s.cur fun c => { c with taskn := b }

theorem tend_run (hpl : Placed s false .amo true a.toNat 8 t locs) (ht : (me s).taskn ≠ BitVec.allOnes 64) :
    (opTend f).run (loneView s w [a, b, c]) s =
      if c = 0 then .ok (wakeJoiners (taskEnded s t locs b))
        { taken := true, after := some fun u => applyReclaim (modCtx (landEvery u s.cur) s.cur goIdle) s.cur }
      else .ok (wakeJoiners (taskEnded s t locs b)) (heldStop (loneView s w [a, b, c]) { jump := some c }) := by
  have htag : (ctxOf s s.cur).taskn ≠ BitVec.allOnes 64 := ht
  simp only [opTend, loneView_n, loneView_arg_zero, loneView_arg_one, loneView_arg_two, htag, hal, withCounter_ok hpl, ne_eq, not_true_eq_false,
    or_self, if_false]
  by_cases hc : c = 0
  · simp only [hc, if_true]
    rfl
  · simp only [hc, if_false]
    rfl

end

theorem freeRanges_ctxs (s : State) (tile : Nat) (tag : Word) : (freeRanges s tile tag).ctxs = s.ctxs := by
  unfold freeRanges
  split <;> rfl

/-- R54: no result of the context is in flight when its task has ended. -/
theorem taskEnded_pend (hr : Ready s) (hpl : Placed s false .amo true a.toNat 8 t locs) :
    (ctxOf (wakeJoiners (taskEnded s t locs b)) s.cur).pend = [] := by
  have hctxs : (freeRanges (counted t locs (2 ^ 64 - 1)) (tileOf s.cur) (me s).taskn).ctxs = s.ctxs :=
    (freeRanges_ctxs ..).trans ((storeLocs_ctxs ..).trans (access_ctxs hpl))
  have hended : SamePend s (taskEnded s t locs b) := (SamePend.of_ctxs hctxs).trans (SamePend.setCtx rfl)
  exact ((hended.trans (wakeWhere_pend _ _)) s.cur).trans hr.settled

/-- R292: a context that has ended its task and has no continuation is idle after its bundle. -/
theorem lonePass_idle (h : (ctxOf t s.cur).pend = []) : lonePass s t w pops
      { taken := true, after := some fun u => applyReclaim (modCtx (landEvery u s.cur) s.cur goIdle) s.cur } =
    applyReclaim (modCtx (lonePass s t w pops {}) s.cur goIdle) s.cur := by
  refine (lonePass_after {} rfl true _).trans ?_
  rw [landEvery_settled (lonePass_empty_pend h)]

end

end Sys2Proof.Machine

namespace Sys2Proof.Scheduling
open Sys2Proof.Machine Sys2Proof.Safety

/-- Settles O37: each operation by what it comes to; both forks are one operation once the counter and the ranges are read. -/
theorem taskResults : Obligations.TaskResults := by
  intro s f a b c pops hr hg
  have hfork (ha : Reads s [f.a, f.b, f.c] [a, b, c] pops) (hd : Room s f.d) (hw : WellFormed (.fork f) = true) :
      LoneRuns s (f.pack 0xD6) (opFork f) [a, b, c] pops :=
    .of_RRR hr (Laws.Legal.fork f _ rfl hw) (by decide) hg rfl rfl rfl ha (pushReady_of_room rfl hd)
  have hforkR (ha : Reads s [f.a, f.b, f.c] [a, b, c] pops) (hd : Room s f.d) (hw : WellFormed (.forkR f) = true) :
      LoneRuns s (f.pack 0xD7) (opForkR f) [a, b, c] pops :=
    .of_RRR hr (Laws.Legal.forkR f _ rfl hw) (by decide) hg rfl rfl rfl ha (pushReady_of_room rfl hd)
  have htend (ha : Reads s [f.a, f.b, f.c] [a, b, c] pops) (hw : WellFormed (.tend f) = true) :
      LoneRuns s (f.pack 0xEE) (opTend f) [a, b, c] pops :=
    .of_RRR hr (Laws.Legal.tend f _ rfl hw) (by decide) hg rfl rfl rfl ha (pushReady_of_none rfl)
  refine ⟨fun ha hd hs => ⟨fun hw => (hfork ha hd hw).faults (fork_sealed hs), fun hw => (hforkR ha hd hw).faults (forkR_sealed hs)⟩,
    fun ha hd hs hne => ⟨fun hw hal l hl => ?_, ?_⟩, pushTask_units, fun t locs ha hal hpl => ⟨fun hw hd => ?_, fun hw => ?_⟩,
    fun t locs u ha hal hw ht hpl hu => ?_, fun hw ha ht => (htend ha hw).faults (if_pos (.inl ht))⟩
  · have hrun := fork_run (f := f) (w := f.pack 0xD6) (b := b) hs hne hal
    refine ⟨fun h => (hfork ha hd hw).passes_held ?_ rfl, fun hfull hranges t locs v hacc hroom => (hfork ha hd hw).passes_held ?_ rfl⟩
    · rw [hrun, forkWith_full hl (by simpa using h)]
      rfl
    · rw [hrun, forkWith_pushes hl hfull (by simpa using hranges) hacc hroom]
      rfl
  · intro hw hal t0 h nr t1 bs rs cnt l hm hpl hnr hlo hhi hcnt hcal hm' hacc hrs hl
    have hrun := forkR_run (f := f) (w := f.pack 0xD7) (b := b) hs hne hal hm hpl hnr hlo hhi hcnt hcal hm' hacc hrs
    refine ⟨fun h => (hforkR ha hd hw).passes_held ?_ rfl, fun hfull hranges t locs v hacc hroom => (hforkR ha hd hw).passes_held ?_ rfl⟩
    · rw [hrun, forkWith_full hl h]
      rfl
    · rw [hrun, forkWith_pushes hl hfull hranges hacc hroom]
      rfl
  · have hruns : LoneRuns s (f.pack 0xD9) (opJtest f) [a] pops :=
      .of_RRR hr (Laws.Legal.jtest f _ rfl hw) (by decide) hg rfl rfl rfl ha (pushReady_of_room rfl hd)
    exact hruns.passes_held (jtest_run hal hpl) rfl
  · have hruns : LoneRuns s (f.pack 0xD8) (opJoin f) [a] pops :=
      .of_RRR hr (Laws.Legal.join f _ rfl hw) (by decide) hg rfl rfl rfl ha (pushReady_of_none rfl)
    refine ⟨fun h0 => hruns.passes_held (join_zero hal hpl h0) rfl, fun h0 => ?_⟩
    have hlooks := join_looks (f := f) (w := f.pack 0xD8) hal hpl h0
    refine ⟨fun h => hruns.parks (req := id) ?_, fun hs h => hruns.parks (req := fun u => setWants u s.cur hs) ?_, fun sp pl k h => ?_⟩
    · rw [hlooks, h]
    · rw [hlooks, h]
    · rw [h] at hlooks
      exact (hruns.passes hlooks rfl).trans (congrArg _ (lonePass_stop s _ _ _
        { writes := [.x 1 k.arg, .x 2 k.cnt, .x 3 (ctxOf t s.cur).taskn, .x 4 (me s).pc], jump := some k.entry } true))
  · subst hu
    have hrun := tend_run (f := f) (w := f.pack 0xEE) (b := b) (c := c) hal hpl ht
    refine ⟨fun hc => (htend ha hw).passes_held (hrun.trans (if_neg hc)) rfl, fun hc => ?_⟩
    exact ((htend ha hw).passes (hrun.trans (if_pos hc)) rfl).trans (congrArg _ (lonePass_idle (taskEnded_pend hr hpl)))

end Sys2Proof.Scheduling
end

section
/-! PROOF. O36: vector claims (R257, R258, R283 to R286). -/
namespace Sys2Proof.Machine
open Sys2Proof.Safety

/-! ## A context set twice -/

section
variable {α : Type}

theorem smIns_smIns (m : SMap α) (n : Nat) (a b : α) : smIns (smIns m n a) n b = smIns m n b := by
  induction m with
  | nil => simp [smIns]
  | cons e m ih =>
    obtain ⟨k, x⟩ := e
    by_cases hlt : n < k
    · simp [smIns, hlt]
    · by_cases heq : n = k
      · simp [smIns, heq]
      · simp [smIns, hlt, heq, ih]
theorem smDel_smIns (m : SMap α) (n : Nat) (a : α) : smDel (smIns m n a) n = smDel m n := by
  induction m with
  | nil => simp [smIns, smDel]
  | cons e m ih =>
    obtain ⟨k, x⟩ := e
    unfold smDel at ih ⊢
    by_cases hlt : n < k
    · simp [smIns, hlt]
    · by_cases heq : n = k
      · simp [smIns, heq]
      · simp [smIns, hlt, heq, List.filter_cons, ih]

/-- A key whose value a partial function does not see may be written without a change of what is seen. -/
theorem filterMap_smIns {β : Type} {g : Nat × α → Option β} {m : SMap α} {n : Nat} {a : α} (ha : g (n, a) = none)
    (hm : ∀ b, smFind m n = some b → g (n, b) = none) : (smIns m n a).filterMap g = m.filterMap g := by
  induction m with
  | nil => simp [smIns, ha]
  | cons e m ih =>
    obtain ⟨k, x⟩ := e
    by_cases hlt : n < k
    · simp [smIns, hlt, ha]
    · by_cases heq : n = k
      · subst heq
        simp [smIns, ha, hm x (by simp [smFind])]
      · have hrest := ih fun b hb => hm b (by simpa [smFind, heq] using hb)
        simp [smIns, hlt, heq, List.filterMap_cons, hrest]

end

section
variable {s t : State} {n : Nat} {c d : Ctx} {k : Claim}

/-- R252: a context that is in rotation or in service is not one that was never started. -/
theorem ne_empty_of_phase (h : c.phase ≠ .free) : c ≠ Ctx.empty := by
  rintro rfl
  exact h rfl
theorem setCtx_setCtx (hc : c.phase ≠ .free) (d : Ctx) : setCtx (setCtx s n c) n d = setCtx s n d := by
  have hctxs : smSet Ctx.empty (smSet Ctx.empty s.ctxs n c) n d = smSet Ctx.empty s.ctxs n d := by
    simp only [smSet, ne_empty_of_phase hc, if_false, smDel_smIns, smIns_smIns]
  unfold setCtx
  dsimp only
  rw [hctxs]
theorem modCtx_setCtx (hc : c.phase ≠ .free) (f : Ctx → Ctx) : modCtx (setCtx s n c) n f = setCtx s n (f c) := by
  rw [modCtx, ctxOf_setCtx_same, setCtx_setCtx hc]

/-! ## The claims of a tile (R257) -/

/-- A claim of the tile is that of the context set, or was there before. -/
theorem mem_tileClaims_setCtx {tile : Nat} {e : Nat × Claim} (h : e ∈ tileClaims (setCtx s n c) tile) :
    c.claim = some e.2 ∨ e ∈ tileClaims s tile := by
  obtain ⟨x, hx, he⟩ := List.mem_filterMap.1 h
  have hmem : x = (n, c) ∨ x ∈ s.ctxs := by
    change x ∈ smSet Ctx.empty s.ctxs n c at hx
    unfold smSet at hx
    split at hx
    · exact .inr (List.mem_of_mem_filter hx)
    · exact mem_smIns hx
  rcases hmem with rfl | hold
  · refine .inl ?_
    split at he
    · split at he
      · next k hk =>
        cases he
        exact hk
      · cases he
    · cases he
  · exact .inr (List.mem_filterMap.2 ⟨x, hold, he⟩)

/-- A context that has no claim may be set to one in use that has none. -/
theorem tileClaims_setCtx_none (hc : c.phase ≠ .free) (hold : (ctxOf s n).claim = none) (hnew : c.claim = none) (tile : Nat) :
    tileClaims (setCtx s n c) tile = tileClaims s tile := by
  have hctxs : (setCtx s n c).ctxs = smIns s.ctxs n c := if_neg (ne_empty_of_phase hc)
  unfold tileClaims
  rw [hctxs]
  refine filterMap_smIns (by simp [hnew]) fun b hb => ?_
  have hb' : b.claim = none := by simpa [ctxOf, smGet, hb] using hold
  simp [hb']

theorem tileOf_of_mem {tile : Nat} {e : Nat × Claim} (h : e ∈ tileClaims s tile) : tileOf e.1 = tile := by
  obtain ⟨x, -, he⟩ := List.mem_filterMap.1 h
  split at he
  · next ht =>
    split at he
    · cases he
      exact ht
    · cases he
  · cases he

/-! ## Claims settle (R258, R259) -/

/-- No claim of a tile waits. -/
def NoneWaits (s : State) (tile : Nat) : Prop := ∀ e ∈ tileClaims s tile, e.2.phase ≠ .waiting

theorem claimWaits_none (h : NoneWaits s (tileOf n)) : claimWaits s n = false :=
  List.any_eq_false.2 fun e he => by simp [h e he]
theorem lanesNeeded_none {tile : Nat} (h : NoneWaits s tile) : lanesNeeded s tile = 0 := by
  have hzero : ((tileClaims s tile).map fun e => if e.2.phase = .waiting then e.2.floor - e.2.lanes else 0).sum = 0 :=
    List.sum_eq_zero fun x hx => by
      obtain ⟨e, he, rfl⟩ := List.mem_map.1 hx
      exact if_neg (h e he)
  rw [lanesNeeded, hzero, Nat.zero_sub]
theorem oldestWaiter_none {tile : Nat} (h : NoneWaits s tile) : oldestWaiter s tile = none := by
  have hnil : (tileClaims s tile).filter (fun e => e.2.phase == .waiting) = [] :=
    List.filter_eq_nil_iff.2 fun e he => by simp [h e he]
  rw [oldestWaiter, hnil]
  rfl

/-- R259: nobody is asked for lanes that nobody waits for. -/
theorem reclaimFrom_none (h : NoneWaits s (tileOf n)) : reclaimFrom s n = s := by
  unfold reclaimFrom
  dsimp only
  split
  · rw [if_neg (by simp [lanesNeeded_none h])]
  · rfl
theorem settleClaims_none {tile : Nat} (h : NoneWaits s tile) : settleClaims s tile = s := by
  have hfold : ∀ es : List (Nat × Claim), (∀ e ∈ es, tileOf e.1 = tile) → es.foldl (fun s e => reclaimFrom s e.1) s = s := by
    intro es hes
    induction es with
    | nil => rfl
    | cons e es ih =>
      rw [List.foldl_cons, reclaimFrom_none (by rw [hes e (List.mem_cons_self ..)]; exact h)]
      exact ih fun e he => hes e (List.mem_cons_of_mem _ he)
  rw [settleClaims, hfold _ fun e he => tileOf_of_mem he, claimReady, oldestWaiter_none h]

theorem applyReclaim_idle (h : ∀ k, (ctxOf s n).claim = some k → k.reclaim = false) : applyReclaim s n = s := by
  unfold applyReclaim
  dsimp only
  split
  · next k hk => rw [if_neg (by simp [h k hk])]
  · rfl

/-- What is left of a context when claims settle: the context that acts, and the context itself. -/
structure Stays (n : Nat) (s t : State) : Prop where
  cur : t.cur = s.cur
  ctx : ctxOf t n = ctxOf s n

theorem Stays.refl (n : Nat) (s : State) : Stays n s s := ⟨rfl, rfl⟩
theorem Stays.trans {u : State} (h : Stays n s t) (g : Stays n t u) : Stays n s u := ⟨g.cur.trans h.cur, g.ctx.trans h.ctx⟩

theorem claimReady_stays (s : State) (tile : Nat) : Stays n s (claimReady s tile) := by
  unfold claimReady
  split
  · split <;> exact ⟨rfl, rfl⟩
  · exact Stays.refl ..
theorem applyReclaim_stays {m : Nat} (h : n ≠ m) : Stays n s (applyReclaim s m) := by
  unfold applyReclaim
  dsimp only
  split
  · split
    · exact Stays.trans (t := setCtx s m _) ⟨rfl, ctxOf_setCtx_other s h _⟩ (claimReady_stays _ _)
    · exact Stays.refl ..
  · exact Stays.refl ..

/-- R259: only a claim that is held is asked back. -/
theorem reclaimFrom_stays (h : ∀ k, (ctxOf s n).claim = some k → k.phase ≠ .held) (m : Nat) : Stays n s (reclaimFrom s m) := by
  unfold reclaimFrom
  dsimp only
  split
  case h_1 k hk =>
    split
    case isTrue hheld =>
      have hne : n ≠ m := by
        rintro rfl
        exact h k hk hheld.1
      have hset : Stays n s (setCtx s m { ctxOf s m with claim := some { k with reclaim := true } }) := ⟨rfl, ctxOf_setCtx_other _ hne _⟩
      split
      · exact hset
      · exact hset.trans (applyReclaim_stays hne)
    case isFalse => exact Stays.refl ..
  case h_2 => exact Stays.refl ..
theorem settleClaims_stays (h : ∀ k, (ctxOf s n).claim = some k → k.phase ≠ .held) (tile : Nat) : Stays n s (settleClaims s tile) := by
  refine Stays.trans ?_ (claimReady_stays _ tile)
  generalize tileClaims s tile = es
  induction es generalizing s with
  | nil => exact Stays.refl ..
  | cons e es ih =>
    have hfirst := reclaimFrom_stays h e.1
    exact hfirst.trans (ih (by rw [hfirst.ctx]; exact h))

/-- R81, R258: what a change of its lanes leaves of a context. -/
theorem shrinkTo_keeps (c : Ctx) (lanes : Nat) :
    (shrinkTo c lanes).phase = c.phase ∧ (shrinkTo c lanes).pc = c.pc ∧ (shrinkTo c lanes).x = c.x := by
  cases h : c.claim <;> simp [shrinkTo, h]
theorem setLanes_keeps (c : Ctx) (k : Claim) (lanes : Nat) :
    (setLanes c k lanes).phase = c.phase ∧ (setLanes c k lanes).pc = c.pc ∧ (setLanes c k lanes).x = c.x := by
  unfold setLanes
  dsimp only
  by_cases hfew : lanes < k.filled
  · rw [if_pos hfew, if_neg (Nat.ne_zero_of_lt hfew)]
    exact shrinkTo_keeps c lanes
  · rw [if_neg hfew]
    split <;> exact ⟨rfl, rfl, rfl⟩
theorem getX_setLanes (c : Ctx) (k : Claim) (lanes r : Nat) : getX (setLanes c k lanes) r = getX c r := by
  rw [getX, getX, (setLanes_keeps c k lanes).2.2]

end

/-! ## A scalar result of a bundle (R42, R54, R57) -/

/-- R57: of a context whose bundle has left a word for a physical x register: where it goes on, its claim, and the register. -/
structure Ctx.HasLanded (c c' : Ctx) (r : Nat) (v : Word) : Prop where
  phase : c'.phase = c.phase
  claim : c'.claim = c.claim
  pc : c'.pc = c.pc + 12
  x : getX c' r = if r = 0 then 0 else v

section
variable {s : State} {w : Word} {d : BitVec 9} {v : Word}

theorem ready_phase_ne (hr : Ready s) : (me s).phase ≠ .free := by
  intro h
  have hi := hr.issues
  simp [issues, mayIssue, show (ctxOf s s.cur).phase = .free from h] at hi

/-- R54: the result of an operation that leaves a word for a physical x register. -/
def Ctx.wordPending (c : Ctx) (slot : Slot) (r : Nat) (v : Word) : Pending :=
  ⟨c.turn + 1, slot.num, nextSeq c, [.x r v], some (.scalar v), 0, 0, 32, false, none⟩
/-- R54, R57: the context whose result is queued, the one whose bundle has passed too, and the one where it has landed. -/
def Ctx.queued (c : Ctx) (slot : Slot) (r : Nat) (v : Word) : Ctx := { c with seq := nextSeq c, pend := [c.wordPending slot r v] }
def Ctx.delivered (c : Ctx) (slot : Slot) (r : Nat) (v : Word) : Ctx := { (c.queued slot r v).passed c.pc with pend := [] }
def Ctx.landing (c : Ctx) (p : Pending) (r : Nat) (v : Word) : Ctx :=
  { putQ (putX c r v) p with
    fflags := (putQ (putX c r v) p).fflags ||| p.ff.setWidth 64, satf := (putQ (putX c r v) p).satf ||| p.sf.setWidth 64 }
def Ctx.landed (c : Ctx) (slot : Slot) (r : Nat) (v : Word) : Ctx := (c.delivered slot r v).landing (c.wordPending slot r v) r v

theorem putQ_keeps (c : Ctx) (p : Pending) : (putQ c p).phase = c.phase ∧ (putQ c p).claim = c.claim ∧ (putQ c p).pc = c.pc ∧
    (putQ c p).x = c.x ∧ (putQ c p).pend = c.pend := by
  unfold putQ
  split
  · exact ⟨rfl, rfl, rfl, rfl, rfl⟩
  · split <;> exact ⟨rfl, rfl, rfl, rfl, rfl⟩
theorem putX_keeps (c : Ctx) (r : Nat) (v : Word) : (putX c r v).phase = c.phase ∧ (putX c r v).claim = c.claim ∧
    (putX c r v).pc = c.pc ∧ (putX c r v).pend = c.pend := by
  unfold putX
  split <;> exact ⟨rfl, rfl, rfl, rfl⟩

theorem landed_has (c : Ctx) (slot : Slot) (r : Nat) (v : Word) : c.HasLanded (c.landed slot r v) r v := by
  obtain ⟨hphase, hclaim, hpc, -⟩ := putX_keeps (c.delivered slot r v) r v
  obtain ⟨hphase', hclaim', hpc', hx', -⟩ := putQ_keeps (putX (c.delivered slot r v) r v) (c.wordPending slot r v)
  refine ⟨hphase'.trans hphase, hclaim'.trans hclaim, hpc'.trans hpc, ?_⟩
  by_cases h : r = 0
  · simp [getX, h]
  · rw [if_neg h, getX, if_neg h]
    refine (congrArg (smGet 0 · r) hx').trans ?_
    simp [putX, h]
theorem landed_pend (c : Ctx) (slot : Slot) (r : Nat) (v : Word) : (c.landed slot r v).pend = [] := by
  obtain ⟨-, -, -, hpend⟩ := putX_keeps (c.delivered slot r v) r v
  obtain ⟨-, -, -, -, hpend'⟩ := putQ_keeps (putX (c.delivered slot r v) r v) (c.wordPending slot r v)
  exact hpend'.trans hpend

/-- R54: a word for an x register, alone among the results in flight, lands at once. -/
theorem landLoose_word {c : Ctx} {n r : Nat} {p : Pending} (hc : c.phase ≠ .free) (hpend : c.pend = [p]) (hex : p.exact = false)
    (hw : p.writes = [.x r v]) : landLoose (setCtx s n c) n = landOne (setCtx s n { c with pend := [] }) n p := by
  have hsplit : splitExact [] [p] = ([p], []) := by simp [splitExact, hex, Pending.pushes, hw]
  unfold landLoose
  rw [ctxOf_setCtx_same, hpend]
  simp only [hsplit, modCtx_setCtx hc, landList]

theorem landOne_word {c : Ctx} {n r : Nat} {p : Pending} (hc : c.phase ≠ .free) (hw : p.writes = [.x r v]) :
    landOne (setCtx s n c) n p = setCtx s n (c.landing p r v) := by
  obtain ⟨hphase, -⟩ := putX_keeps c r v
  have hland : landWrites (setCtx s n c) n [.x r v] = setCtx s n (putX c r v) := by
    refine Eq.trans ?_ (modCtx_setCtx hc fun c => putX c r v)
    rfl
  rw [landOne, hw, hland, modCtx_setCtx (by rwa [hphase])]
  rfl

theorem landLoose_queued {c : Ctx} {n r : Nat} {slot : Slot} (hc : c.phase ≠ .free) :
    landLoose (setCtx s n ((c.queued slot r v).passed c.pc)) n = setCtx s n (c.landed slot r v) := by
  have hq : ((c.queued slot r v).passed c.pc).phase ≠ .free := hc
  have hd : (c.delivered slot r v).phase ≠ .free := hc
  have hp : ((c.queued slot r v).passed c.pc).pend = [c.wordPending slot r v] := rfl
  rw [landLoose_word hq hp rfl rfl]
  exact landOne_word hd rfl

/-- R42, R57: a bundle that leaves a word for an x register, its context's earlier results landed. -/
theorem lonePass_lands (hr : Ready s) (hd : d.toNat < 64) : lonePass s s w [] (landS (me s) d v 1) =
    setCtx s s.cur ((me s).landed (homeSlot (opField w)) (physX (me s) d.toNat) v) := by
  have hlive := ready_phase_ne hr
  have hqueue : queueEff s s.cur (homeSlot (opField w), landS (me s) d v 1) =
      setCtx s s.cur ((me s).queued (homeSlot (opField w)) (physX (me s) d.toNat) v) := by
    have hnone : (ctxOf s s.cur).pend = [] := hr.settled
    simp only [queueEff, landS, hd, if_true, List.cons_ne_nil, false_and, if_false, modCtx, hnone, List.nil_append]
    rfl
  generalize hslot : homeSlot (opField w) = slot at hqueue ⊢
  generalize physX (me s) d.toNat = r at hqueue ⊢
  have hpass : lonePass s s w [] (landS (me s) d v 1) =
      stopCtx (modCtx (setCtx s s.cur ((me s).queued slot r v)) s.cur fun c => c.passed (me s).pc) s.cur := by
    rw [← hqueue]
    unfold lonePass passBundle
    simp only [single_stop, Bool.true_or, if_true, List.foldl_cons, List.foldl_nil, hslot]
    rfl
  rw [hpass, modCtx_setCtx (c := (me s).queued slot r v) hlive, stopCtx, landLoose_queued hlive, ctxOf_setCtx_same, if_pos (landed_pend ..)]

end

/-! ## The four operations (R283 to R286) -/

theorem claimFloor_eq (f : RRI) : claimFloor f = f.imm.toNat % 2 ^ 7 := by simp [claimFloor, bits]
theorem claimCeil_eq (f : RRI) : claimCeil f = f.imm.toNat / 2 ^ 8 % 2 ^ 7 := by simp [claimCeil, bits]

section
variable {s : State} {w : Word} {n lo hi : Nat} {c : Ctx} {k : Claim} {f : RRI}

/-- R283: whether a `vclaim` is refused, by the live claims of the tile and their floors. -/
theorem claimRefused_iff : claimRefused s n lo = true ↔ 16 ≤ (tileClaims s (tileOf n)).length ∨
    128 < (((tileClaims s (tileOf n)).filter fun e => e.1 != n).map fun e => e.2.floor).sum + lo := by
  simp [claimRefused]

/-- R258: the first claim of a context, when no other claim of its tile waits. -/
theorem takeClaim_first (hc : c.phase ≠ .free) (hold : (ctxOf s n).claim = none) (hnew : c.claim = none) (hnone : NoneWaits s (tileOf n)) :
    takeClaim (setCtx s n c) n lo hi =
      setCtx s n (setLanes c ⟨.held, lo, hi, 0, false, 0, 0⟩ (Nat.min hi (freeLanes s (tileOf n) / 8 * 8))) := by
  have hsame := tileClaims_setCtx_none hc hold hnew (tileOf n)
  have hlanes : grownLanes (setCtx s n c) n ⟨.held, lo, hi, 0, false, 0, 0⟩ = Nat.min hi (freeLanes s (tileOf n) / 8 * 8) := by
    simp [grownLanes, freeLanes, hsame]
  have hsettled (d : Ctx) (hd : ∀ k, d.claim = some k → k.phase = .held) : settleClaims (setCtx s n d) (tileOf n) = setCtx s n d := by
    refine settleClaims_none fun e he => ?_
    rcases mem_tileClaims_setCtx he with hk | hk
    · simp [hd _ hk]
    · exact hnone e hk
  simp only [takeClaim, ctxOf_setCtx_same, newClaim, hnew, Nat.not_lt_zero, lt_irrefl, false_and, if_false, hlanes]
  rw [setCtx_setCtx hc, applyReclaim_idle, hsettled]
  · rintro k ⟨⟩
    rfl
  · rw [ctxOf_setCtx_same]
    rintro k ⟨⟩
    rfl

/-- R258: a context that waits for a claim keeps everything else. -/
theorem enterWaiting_stays (s : State) (n : Nat) (k : Claim) : (enterWaiting n k s).cur = s.cur ∧
    ctxOf (enterWaiting n k s) n = { ctxOf s n with claim := some { k with phase := .waiting, age := s.claimAge } } := by
  generalize hc : ({ ctxOf s n with claim := some { k with phase := .waiting, age := s.claimAge } } : Ctx) = c
  have heq : enterWaiting n k s = settleClaims (setCtx { s with claimAge := s.claimAge + 1 } n c) (tileOf n) := by
    rw [← hc]
    rfl
  obtain ⟨hcur, hctx⟩ := settleClaims_stays (s := setCtx { s with claimAge := s.claimAge + 1 } n c) (n := n) (by
    rw [ctxOf_setCtx_same, ← hc]
    rintro _ ⟨⟩
    nofun) (tileOf n)
  rw [heq]
  exact ⟨hcur, hctx.trans (ctxOf_setCtx_same ..)⟩

/-- R252, R258: a context parks on its claim. -/
theorem lonePark_claim (hr : Ready s) (hk : k.reclaim = false) :
    (me (lonePark s (enterWaiting s.cur k s) w .token .claim)).phase = .parked ∧
    (me (lonePark s (enterWaiting s.cur k s) w .token .claim)).why = .token ∧
    (me (lonePark s (enterWaiting s.cur k s) w .token .claim)).wait = .claim ∧
    (me (lonePark s (enterWaiting s.cur k s) w .token .claim)).claim = some { k with phase := .waiting, age := s.claimAge } := by
  obtain ⟨hcur, hctx⟩ := enterWaiting_stays s s.cur k
  have hpend : (ctxOf (enterWaiting s.cur k s) s.cur).pend = [] := by
    rw [hctx]
    exact hr.settled
  simp only [lonePark, parkHeld, landEvery_settled hpend]
  rw [applyReclaim_idle]
  · simp only [me, modCtx, setCtx_cur, hcur, ctxOf_setCtx_same, hctx, park, and_self]
  · rw [ctxOf_modCtx_same, hctx]
    rintro _ ⟨⟩
    exact hk

theorem vclaim_run (hs : isSealed s s.cur = false ∨ claimFloor f = claimCeil f) (ha : (me s).answered = []) :
    (opVclaim f).run (loneView s w []) s =
      if claimRefused s s.cur (claimFloor f) then .ok s (landS (me s) f.d 1 1)
      else if mustWait s s.cur (newClaim (me s) (claimFloor f) (claimCeil f)) then
        .hold .token .claim (enterWaiting s.cur (newClaim (me s) (claimFloor f) (claimCeil f)))
      else .ok s { landS (me s) f.d 0 1 with after := some fun u => takeClaim u s.cur (claimFloor f) (claimCeil f) } := by
  have hopen : ¬(isSealed s s.cur = true ∧ claimFloor f ≠ claimCeil f) := by
    rintro ⟨h, hne⟩
    rcases hs with hs | hs
    · simp [hs] at h
    · exact hne hs
  simp only [opVclaim, loneView_n, loneView_c, loneView_answered, ha, List.contains_nil, Bool.false_eq_true, if_false]
  rw [if_neg hopen]
  rfl

theorem mustWait_first (hold : (me s).claim = none) (hlo : lo ≤ freeLanes s (tileOf s.cur)) :
    mustWait s s.cur (newClaim (me s) lo hi) = false := by
  simp [mustWait, newClaim, hold, hlo]
theorem mustWait_short (hold : (me s).claim = none) (hlo : freeLanes s (tileOf s.cur) < lo) :
    mustWait s s.cur (newClaim (me s) lo hi) = true := by
  simp [mustWait, newClaim, hold, hlo]

/-- R284: the lanes that `vgrow` leaves a holder that may grow. -/
theorem vgrowLanes_grows (hk : (me s).claim = some k) (hre : k.reclaim = false) (hs : isSealed s s.cur = false)
    (hnone : NoneWaits s (tileOf s.cur)) : vgrowLanes s s.cur = grownLanes s s.cur k := by
  have hk' : (ctxOf s s.cur).claim = some k := hk
  simp [vgrowLanes, hk', hre, hs, claimWaits_none hnone]

/-- R259, R284: the claim of a context that holds one and need give up no lanes gets its new number. -/
def growTo (n lanes : Nat) (s : State) : State :=
  match (ctxOf s n).claim with
  | some k => if k.reclaim then applyReclaim s n else setCtx s n (setLanes (ctxOf s n) k lanes)
  | none => s

theorem growTo_holder {lanes : Nat} (hc : c.phase ≠ .free) (hk : c.claim = some k) (hre : k.reclaim = false) :
    growTo n lanes (setCtx s n c) = setCtx s n (setLanes c k lanes) := by
  simp [growTo, hk, hre, setCtx_setCtx hc]
theorem vgrow_run {lanes : Nat} (h : vgrowLanes s s.cur = lanes) : (opVgrow f).run (loneView s w []) s =
    .ok s { landS (me s) f.d (word lanes) 1 with after := some (growTo s.cur lanes) } := by
  subst h
  rfl
theorem setLanes_claim (hheld : k.phase = .held) (c : Ctx) (lanes : Nat) :
    (setLanes c k lanes).claim = some { k with lanes := lanes, kept := 0 } := by
  simp [setLanes, ← hheld]

/-- R57: a bundle that leaves a word for an x register, and then what its context does after it. -/
theorem lonePass_lands_after {d : BitVec 9} {v : Word} (hr : Ready s) (hd : d.toNat < 64) (g : State → State) :
    lonePass s s w [] { landS (me s) d v 1 with after := some g } =
      g (setCtx s s.cur ((me s).landed (homeSlot (opField w)) (physX (me s) d.toNat) v)) := by
  rw [← lonePass_lands hr hd]
  exact lonePass_after (landS (me s) d v 1) rfl false g

/-- R285: what the end of a claim leaves of its context. -/
theorem releaseClaim_ctx (s : State) (n : Nat) : (releaseClaim s n).cur = s.cur ∧ (ctxOf (releaseClaim s n) n).claim = none ∧
    (ctxOf (releaseClaim s n) n).pc = (ctxOf s n).pc ∧ (ctxOf (releaseClaim s n) n).x = (ctxOf s n).x ∧
    ((ctxOf s n).claim ≠ none → (ctxOf (releaseClaim s n) n).v = []) := by
  unfold releaseClaim
  split
  · obtain ⟨hcur, hctx⟩ := settleClaims_stays (s := modCtx s n fun c =>
      { c with claim := none, v := [], m := [], lfsr := [], sa := [], saA := ⟨0, []⟩, saB := ⟨0, []⟩
               pend := c.pend.map (Pending.clip 0) }) (n := n) (by simp) (tileOf n)
    rw [hcur, hctx, ctxOf_modCtx_same]
    exact ⟨rfl, rfl, rfl, rfl, fun _ => rfl⟩
  · next h =>
    have hnone : (ctxOf s n).claim = none := by simpa using h
    exact ⟨rfl, hnone, rfl, rfl, fun h => absurd hnone h⟩

end

end Sys2Proof.Machine

namespace Sys2Proof.Scheduling
open Sys2Proof.Machine Sys2Proof.Safety

/-- Settles O36: a result that lands at once is followed by what becomes of the claim, which asks nothing of any other context while none
of the tile waits; a context that waits itself is not asked for lanes. -/
theorem claimResults : Obligations.ClaimResults := by
  intro s hr live others free
  have hlive := ready_phase_ne hr
  have hreads : Reads s [] [] [] := rfl
  refine ⟨fun f lo hi hg hw hlo hhi hd ha => ?_, fun f hg hclaim hd hw k hk hheld hre hs hnone => ?_, fun f hg => ⟨fun hw => ?_, fun hd hw => ?_⟩⟩
  · rw [← claimFloor_eq] at hlo
    rw [← claimCeil_eq] at hhi
    subst hlo hhi
    have hroom : Room s f.d := fun h => absurd h (by omega)
    have hruns : LoneRuns s (f.pack 0xD3) (opVclaim f) [] [] :=
      .of_RRI hr (Laws.Legal.vclaim f _ rfl hw) (by decide) hg rfl rfl nofun hreads (pushReady_of_room rfl hroom)
    refine ⟨fun hs hne => hruns.faults (if_pos ⟨hs, hne⟩), fun hs hfull => hruns.passes ?_ rfl,
      fun hs hfew hfloors hold => ⟨fun hfree hnone => ?_, fun hfree => ?_⟩⟩
    · rw [vclaim_run hs ha, if_pos (claimRefused_iff.2 hfull)]
    all_goals
      have hadmit : ¬claimRefused s s.cur (claimFloor f) = true := by
        rw [claimRefused_iff, not_or, not_le, not_lt]
        exact ⟨hfew, hfloors⟩
      have hrun := (vclaim_run (w := f.pack 0xD3) hs ha).trans (if_neg hadmit)
    · rw [mustWait_first hold hfree] at hrun
      have hland := landed_has (me s) (homeSlot (opField (f.pack 0xD3))) (physX (me s) f.d.toNat) 0
      have hstate := lonePass_lands_after (w := f.pack 0xD3) (v := 0) hr hd fun u => takeClaim u s.cur (claimFloor f) (claimCeil f)
      generalize (me s).landed _ _ _ = c at hland hstate
      obtain ⟨hphase, hclaim, hpc, hx⟩ := hland
      rw [takeClaim_first (by rwa [hphase]) hold (hclaim.trans hold) hnone] at hstate
      refine ⟨_, (hruns.passes hrun rfl).trans (congrArg _ hstate), ?_⟩
      obtain ⟨hphase', hpc', -⟩ := setLanes_keeps c ⟨.held, claimFloor f, claimCeil f, 0, false, 0, 0⟩
        (Nat.min (claimCeil f) (freeLanes s (tileOf s.cur) / 8 * 8))
      simp only [me, setCtx_cur, ctxOf_setCtx_same, getX_setLanes, hphase', hpc']
      exact ⟨rfl, hphase, hpc, hx.trans (ite_self 0), fun m hm => ctxOf_setCtx_other _ hm _⟩
    · have hk : newClaim (me s) (claimFloor f) (claimCeil f) = ⟨.held, claimFloor f, claimCeil f, 0, false, 0, 0⟩ := by
        simp [newClaim, hold]
      rw [mustWait_short hold hfree, hk] at hrun
      refine ⟨_, hruns.parks hrun, ?_⟩
      obtain ⟨hphase, hwhy, hwait, hclaim⟩ := lonePark_claim (w := f.pack 0xD3) (k := ⟨.held, claimFloor f, claimCeil f, 0, false, 0, 0⟩) hr rfl
      exact ⟨hphase, hwhy, hwait, _, hclaim, rfl, rfl, rfl, rfl⟩
  · have hroom : Room s f.d := fun h => absurd h (by omega)
    have hruns : LoneRuns s (f.pack 0xD5) (opVgrow f) [] [] :=
      .of_RRI hr (Laws.Legal.vgrow f _ rfl hw) (by decide) hg rfl rfl (fun _ => hclaim) hreads (pushReady_of_room rfl hroom)
    have hland := landed_has (me s) (homeSlot (opField (f.pack 0xD5))) (physX (me s) f.d.toNat) (word (vgrowLanes s s.cur))
    have hstate := lonePass_lands_after (w := f.pack 0xD5) (v := word (vgrowLanes s s.cur)) hr hd (growTo s.cur (vgrowLanes s s.cur))
    rw [vgrowLanes_grows hk hre hs hnone] at hland hstate
    generalize (me s).landed _ _ _ = c at hland hstate
    obtain ⟨hphase, hclaim, hpc, hx⟩ := hland
    rw [growTo_holder (by rwa [hphase]) (hclaim.trans hk) hre] at hstate
    refine ⟨_, (hruns.passes (vgrow_run (vgrowLanes_grows hk hre hs hnone)) rfl).trans (congrArg _ hstate), ?_⟩
    simp only [me, setCtx_cur, ctxOf_setCtx_same, getX_setLanes]
    exact ⟨setLanes_claim hheld .., hx, fun m hm => ctxOf_setCtx_other _ hm _⟩
  · have hruns : LoneRuns s (f.pack 0xD4) (opVrel f) [] [] :=
      .of_RRR hr (Laws.Legal.vrel f _ rfl hw) (by decide) hg rfl rfl rfl hreads nofun
    have hstate : lonePass s s (f.pack 0xD4) [] { after := some fun u => releaseClaim u s.cur } =
        releaseClaim (modCtx s s.cur fun c => c.passed (me s).pc) s.cur :=
      (lonePass_after {} rfl false _).trans (congrArg (releaseClaim · s.cur) (lonePass_empty hr.settled))
    obtain ⟨hcur, hclaim, hpc, hx, hv⟩ := releaseClaim_ctx (modCtx s s.cur fun c => c.passed (me s).pc) s.cur
    rw [ctxOf_modCtx_same] at hpc hx hv
    refine ⟨_, (hruns.passes rfl rfl).trans (congrArg _ hstate), ?_⟩
    have hcur' : (releaseClaim (modCtx s s.cur fun c => c.passed (me s).pc) s.cur).cur = s.cur := hcur
    rw [me, hcur']
    refine ⟨hclaim, hpc, fun n => ?_, fun hsome r l => ?_⟩
    · rw [getX, hx]
      rfl
    · rw [getV, hv hsome]
      exact ite_self 0
  · have hruns : LoneRuns s (f.pack 0xEF) (opVstat f) [] [] :=
      .of_RRR hr (Laws.Legal.vstat f _ rfl hw) (by decide) hg rfl rfl rfl hreads (pushReady_of_room rfl hd)
    exact hruns.passes rfl rfl

end Sys2Proof.Scheduling
end

section
/-! PROOF. Headstock's streams: slots that are written and accepted, and the commands at the head of a stream (R246, R422 to R424). -/
namespace Sys2Proof.Machine
open Sys2Proof.Safety

section
variable {s : State} {k i : Nat} {p : Part} {slot : List Word}

theorem running_iff : running s k = some p ↔ partAt s k = some p ∧ p.st = .running := by
  simp [running, Option.filter_eq_some_iff]

/-- R432: the boot has come as far as the partitions. -/
theorem booted_of {n : Nat} (h : n ≤ s.boot.step) (hr : s.boot.recovery = false) : booted s n = true := by
  simp [booted, h, hr]

/-! ## Slots (R422, R424) -/

/-- R423: what is noted of a PUBLISH is no part of a partition. -/
theorem pubMark_keeps (s : State) (k : Nat) (st : Stream) (slot : List Word) :
    (∀ n, partAt (pubMark s k st slot) n = partAt s n) ∧ (pubMark s k st slot).agenda = s.agenda := by
  unfold pubMark
  split <;> exact ⟨fun _ => rfl, rfl⟩

theorem acceptH_other (h : running s k = some p) (hslot : slot = slotDwords p.fp 1024 i) (hne : slot.getD 7 0 ≠ p.fpnext) :
    acceptH s k i = setPart s k { p with fpHeld := p.fpHeld.erase i } := by
  subst hslot
  rw [acceptH, h]
  exact if_pos hne
theorem acceptH_enters (h : running s k = some p) (hslot : slot = slotDwords p.fp 1024 i) (heq : slot.getD 7 0 = p.fpnext)
    (hroom : p.linkPhase = .up ∧ p.streamH.length < 64) : acceptH s k i =
      { pubMark (setPart s k { p with streamH := p.streamH ++ [.cmd slot], fpnext := p.fpnext + 1, fpHeld := [] }) k .H slot with
        agenda := .ev (.faceplateAccept k) :: s.agenda } := by
  subst hslot
  rw [acceptH, h]
  exact (if_neg (not_not.2 heq)).trans (if_pos hroom.symm)
theorem acceptH_waits (h : running s k = some p) (hslot : slot = slotDwords p.fp 1024 i) (heq : slot.getD 7 0 = p.fpnext)
    (hfull : ¬(p.linkPhase = .up ∧ p.streamH.length < 64)) : acceptH s k i = setPart s k { p with fpHeld := putId i p.fpHeld } := by
  subst hslot
  rw [acceptH, h]
  exact (if_neg (not_not.2 heq)).trans (if_neg fun hroom => hfull hroom.symm)

theorem acceptA_other (h : running s k = some p) (hslot : slot = slotDwords p.ap 512 i) (hne : slot.getD 7 0 ≠ p.apnext) :
    acceptA s k i = setPart s k { p with apHeld := p.apHeld.erase i } := by
  subst hslot
  rw [acceptA, h]
  exact if_pos hne
theorem acceptA_enters (h : running s k = some p) (hslot : slot = slotDwords p.ap 512 i) (heq : slot.getD 7 0 = p.apnext)
    (hroom : p.streamA.length < 64) :
    partAt (acceptA s k i) k = some { p with streamA := p.streamA ++ [.cmd slot], apnext := p.apnext + 1, apHeld := [] } := by
  subst hslot
  rw [acceptA, h]
  refine (congrArg (partAt · k) ((if_neg (not_not.2 heq)).trans (if_pos hroom))).trans ?_
  exact ((pubMark_keeps ..).1 k).trans (partAt_setPart_same ..)
theorem acceptA_waits (h : running s k = some p) (hslot : slot = slotDwords p.ap 512 i) (heq : slot.getD 7 0 = p.apnext)
    (hfull : 64 ≤ p.streamA.length) : acceptA s k i = setPart s k { p with apHeld := putId i p.apHeld } := by
  subst hslot
  rw [acceptA, h]
  exact (if_neg (not_not.2 heq)).trans (if_neg (Nat.not_lt.2 hfull))

/-- R424: one slot of stream A is examined, and the next one where APNEXT has changed. -/
theorem acceptAllA_stops {m : Nat} {t : State} {q : Part} (hp : partAt s k = some p) (ht : acceptA s k i = t) (hq : partAt t k = some q)
    (hsame : p.apnext = q.apnext) : acceptAllA (m + 1) s k i = t := by
  subst ht
  simp only [acceptAllA, hp, hq, hsame, if_true]
theorem acceptAllA_goesOn {m : Nat} {q : Part} (hp : partAt s k = some p) (hq : partAt (acceptA s k i) k = some q)
    (hnext : p.apnext ≠ q.apnext) : acceptAllA (m + 1) s k i = acceptAllA m (acceptA s k i) k (q.apnext.toNat % 512) := by
  simp only [acceptAllA, hp, hq, hnext, if_false]

/-- R422, R432: a write within the Faceplate of a device that has come as far as its partitions. -/
theorem execFaceplateSlotWrite_eq {off : Nat} (v : Word) (hk : k < 8) (hstep : 6 ≤ s.boot.step) (hrec : s.boot.recovery = false)
    (hoff : off < 2 ^ 16) (hal : off % 8 = 0) : execFaceplateSlotWrite k off v s = .next (match partAt s k with
      | none => { s with preFp := smSet [] s.preFp k (smSetList 0 (smGet [] s.preFp k) off (leBytes 8 v.toNat)) }
      | some p => acceptH (setPart s k { p with fp := smSetList 0 p.fp off (leBytes 8 v.toNat) }) k (off / 64)) := by
  refine congrArg Host.Outcome.next (if_neg ?_)
  rw [booted_of hstep hrec]
  simp only [Bool.not_true, Bool.false_eq_true, or_false]
  omega
theorem execStreamASlotWrite_eq {core off : Nat} (v : Word) (hrun : running s k = some p) (hcore : partOfCore s core = some k)
    (hdead : (agentAt s core).dead = false) (hlo : 2 ^ 15 ≤ off) (hhi : off < 2 ^ 16) (hal : off % 8 = 0) : execStreamASlotWrite core off v s =
      .next (acceptAllA 65 (setPart s k { p with ap := smSetList 0 p.ap (off - 2 ^ 15) (leBytes 8 v.toNat) }) k ((off - 2 ^ 15) / 64)) := by
  have hin : ¬(off < 0x8000 ∨ 0x10000 ≤ off ∨ off % 8 ≠ 0) := by omega
  refine congrArg Host.Outcome.next ?_
  simp only [hdead, hcore, Option.bind_some, hrun, Option.map_some, Bool.false_eq_true, if_false]
  exact if_neg hin

/-! ## Commands (R423) -/

variable {st : Stream} {rest : List StreamRec} {opc : Nat → Bool} {f : Part → List Word → State}

theorem headCmd_cmd (h : running s k = some p) (hst : p.stream st = .cmd slot :: rest) (hlink : st = .H → p.linkPhase = .up) :
    headCmd s k st = some (p, slot) := by
  rw [headCmd, h]
  dsimp only
  rw [if_neg (fun hh => hh.2 (hlink hh.1)), hst]

section
variable {o : Nat} (hh : headCmd s k st = some (p, slot)) (hslot : (slot.getD 0 0).toNat = o)
include hh hslot

/-- R423: a command whose acceptance record a lease holds up waits. -/
theorem takeCmd_waits {l : Nat} {ls : List Nat} (ho : opc o = true) (hl : leasedLines s (caddrOf s slot) 16 true = l :: ls) :
    takeCmd s k st opc f = setWants s (hsKey k st) (l :: ls) := by
  subst hslot
  simp only [takeCmd, hh, ho, hl, if_true]

variable (hl : leasedLines s (caddrOf s slot) 16 true = []) (hok : cmdOk slot = true)
include hl hok

theorem takeCmd_done (ho : opc o = true) : takeCmd s k st opc f = f p slot := by
  subst hslot
  simp only [takeCmd, hh, ho, hl, hok, if_true]

theorem takeNop_done (h0 : o = 0) : takeNop s k st = doneCmd s k p st slot 0 [] :=
  takeCmd_done hh hslot hl hok (by simp [h0])
theorem takeLaunch_done {r : List Word} (h1 : o = 1) (hlease : leasedLines s (slot.getD 1 0).toNat 128 false = [])
    (hr : readRecord s p k (slot.getD 1 0).toNat = some r) : takeLaunch s k st =
      correctLines (doneCmd s k p st slot 0 [.launch r]) [(slot.getD 1 0).toNat / 128, ((slot.getD 1 0).toNat + 127) / 128] := by
  refine (takeCmd_done hh hslot hl hok (by simp [h1])).trans ?_
  simp only [hlease, hr]
theorem takeMark_done (h2 : o = 2) (hend : ∀ e ∈ s.launches, e.2.part = k → e.2.stream ≠ st) :
    takeMark s k st = doneCmd s k p st slot 0 [] := by
  have hopen : openLaunches s k st = false := List.any_eq_false.2 fun e he => by simpa using hend e he
  refine (takeCmd_done hh hslot hl hok (by simp [h2])).trans ?_
  simp only [hopen, Bool.false_eq_true, if_false]
theorem takePublish_done {a n : Nat} {p2 : Part} (h3 : o = 3) (ha : a = (slot.getD 1 0).toNat) (hn : n = (slot.getD 2 0).toNat)
    (hlast : ownsPa s p (a + n - 1) = true) (hlines : ∀ l ∈ physLines a n, ownsPa s p (128 * l) = true)
    (hp : partAt (s.tiles.foldl (fun s t => writeBackHomes s t.1 (physLines a n)) s) k = some p2) :
    takePublish s k st = doneCmd (publishLines (s.tiles.foldl (fun s t => writeBackHomes s t.1 (physLines a n)) s)
      ((pubLines (s.tiles.foldl (fun s t => writeBackHomes s t.1 (physLines a n)) s) k st (slot.getD 7 0).toNat a n).map (128 * ·)))
      k p2 st slot 0 [] := by
  subst ha hn
  have howns : (ownsPa s p ((slot.getD 1 0).toNat + (slot.getD 2 0).toNat - 1) &&
      (physLines (slot.getD 1 0).toNat (slot.getD 2 0).toNat).all fun l => ownsPa s p (128 * l)) = true := by
    rw [hlast, Bool.true_and]
    exact List.all_eq_true.2 hlines
  refine (takeCmd_done hh hslot hl hok (by simp [h3])).trans ?_
  rw [if_pos howns]
  simp only [hp]

end

theorem pubLines_eq (s : State) (k : Nat) (st : Stream) (seq a n : Nat) : pubLines s k st seq a n = (physLines a n).filter fun l =>
    !((s.publishing.find? fun m => m.part == k && m.stream == st && m.seq == seq).any fun m => m.stored.contains l) := by
  unfold pubLines
  split
  · next m hm => simp [hm]
  · next hm => simp [hm]

end

end Sys2Proof.Machine
end

section
/-! PROOF. What a launch finds when it starts (R248 to R250). -/
namespace Sys2Proof.Machine
open Sys2Proof.Safety

/-! ## Properties that a fold keeps or establishes -/

section
variable {α : Type} {f : State → α → State} {P I : State → Prop}

theorem foldl_keeps {as : List α} (hf : ∀ s, ∀ a ∈ as, P s → P (f s a)) {s : State} (h : P s) : P (as.foldl f s) := by
  induction as generalizing s with
  | nil => exact h
  | cons a as ih => exact ih (fun s b hb => hf s b (List.mem_cons_of_mem _ hb)) (hf s a (List.mem_cons_self ..) h)

/-- One step of a fold establishes P, the others keep it, where all keep I. -/
theorem foldl_establishes {a : α} {as : List α} (ha : a ∈ as) (hI : ∀ s, ∀ b ∈ as, I s → I (f s b)) (hnew : ∀ s, I s → P (f s a))
    (hkeep : ∀ s, ∀ b ∈ as, I s → P s → P (f s b)) {s : State} (h : I s) : P (as.foldl f s) := by
  induction as generalizing s with
  | nil => cases ha
  | cons b as ih =>
    have hI' : ∀ s, ∀ c ∈ as, I s → I (f s c) := fun s c hc => hI s c (List.mem_cons_of_mem _ hc)
    have hkeep' : ∀ s, ∀ c ∈ as, I s → P s → P (f s c) := fun s c hc => hkeep s c (List.mem_cons_of_mem _ hc)
    have hIb := hI s b (List.mem_cons_self ..) h
    rcases List.mem_cons.1 ha with rfl | ha
    · exact (foldl_keeps (P := fun t => I t ∧ P t) (fun t c hc ht => ⟨hI' t c hc ht.1, hkeep' t c hc ht.1 ht.2⟩) ⟨hIb, hnew s h⟩).2
    · exact ih ha hI' hkeep' hIb

end

section
variable {s : State} {n m tile : Nat} {pc arg : Word} {l : Launch} {r : List Word} {im : Image4}

/-! ## A context that starts (R252) -/

theorem startCtx_control (hl : launchOf s n = some l) (hn : localOf n = 0) :
    startCtx s n pc arg = setCtx s n (startedCtx (ctxOf s n) l pc arg) := by
  simp [startCtx, hl, hn]

/-- What the start of contexts and spindles leaves of a state: tiles, launches, memory. -/
structure StartKeeps (s t : State) : Prop where
  tiles : t.tiles = s.tiles
  launches : t.launches = s.launches
  mem : t.mem = s.mem

theorem StartKeeps.refl (s : State) : StartKeeps s s := ⟨rfl, rfl, rfl⟩
theorem StartKeeps.trans {t u : State} (h : StartKeeps s t) (g : StartKeeps t u) : StartKeeps s u :=
  ⟨g.tiles.trans h.tiles, g.launches.trans h.launches, g.mem.trans h.mem⟩
theorem startCtx_keeps (s : State) (n : Nat) (pc arg : Word) : StartKeeps s (startCtx s n pc arg) := by
  unfold startCtx
  split <;> exact ⟨rfl, rfl, rfl⟩

theorem StartKeeps.launchOf {t : State} (h : StartKeeps s t) (n : Nat) : launchOf t n = launchOf s n := by
  unfold Machine.launchOf tileAt
  rw [h.tiles, h.launches]

/-- R252: a context as a launch starts it. -/
def StartedAs (n : Nat) (l : Launch) (pc arg : Word) (s : State) : Prop := ∃ old, ctxOf s n = startedCtx old l pc arg

/-- The start of a control context starts it, and leaves a started one started. -/
theorem startCtx_started (hl : launchOf s n = some l) (hn : localOf n = 0) : StartedAs n l pc arg (startCtx s n pc arg) :=
  ⟨ctxOf s n, by rw [startCtx_control hl hn, ctxOf_setCtx_same]⟩
theorem StartedAs.startCtx (h : StartedAs n l pc arg s) (hl : launchOf s m = some l) (hm : localOf m = 0) :
    StartedAs n l pc arg (startCtx s m pc arg) := by
  by_cases hnm : n = m
  · subst hnm
    exact startCtx_started hl hm
  · obtain ⟨old, hold⟩ := h
    exact ⟨old, by rw [startCtx_control hl hm, ctxOf_setCtx_other s hnm, hold]⟩

/-! ## A spindle and a tile that a launch takes (R250) -/

/-- R250 step 7: one spindle of a tile, its control context started if the record selects it. -/
def startSpindle (r : List Word) (im : Image4) (tile : Nat) (s : State) (i : Nat) : State :=
  let s := modSpin s (8 * tile + i) launchSpindle
  if bit (recMask r) i then startCtx s (16 * (8 * tile + i)) im.entry (r.getD 1 0) else s
/-- R250 steps 6 and 7: one tile of a launch. -/
def startTile (num : Nat) (r : List Word) (im : Image4) (s : State) (tile : Nat) : State :=
  (List.range 8).foldl (startSpindle r im tile) (modTile s tile fun x => launchTile x num tile r im)
/-- R250: the launch is entered before its tiles are set. -/
def launched (pnum : Nat) (st : Stream) (r : List Word) (im : Image4) : Launch :=
  ⟨pnum, st, r, recTiles r, im.entry, im.handlers, im.dict.length, false⟩

theorem startLaunch_eq (s : State) (pnum : Nat) (st : Stream) (r : List Word) (im : Image4) : startLaunch s pnum st r im =
    (recTiles r).foldl (startTile s.launchNext r im)
      { s with launchNext := s.launchNext + 1, launches := smIns s.launches s.launchNext (launched pnum st r im) } := rfl

theorem startSpindle_keeps (r : List Word) (im : Image4) (tile : Nat) (s : State) (i : Nat) : StartKeeps s (startSpindle r im tile s i) := by
  have hspin : StartKeeps s (modSpin s (8 * tile + i) launchSpindle) := ⟨rfl, rfl, rfl⟩
  unfold startSpindle
  dsimp only
  split
  · exact hspin.trans (startCtx_keeps ..)
  · exact hspin
theorem startSpindles_keep (r : List Word) (im : Image4) (tile : Nat) (is : List Nat) (s : State) :
    StartKeeps s (is.foldl (startSpindle r im tile) s) :=
  foldl_related StartKeeps.refl (fun _ _ _ => StartKeeps.trans) (startSpindle_keeps r im tile) is s

/-- R14: the control context of a spindle of a tile. -/
theorem seat_of {i : Nat} (tile : Nat) (hi : i < 8) : tileOf (16 * (8 * tile + i)) = tile ∧ localOf (16 * (8 * tile + i)) = 0 := by
  unfold tileOf localOf
  omega

variable {i num : Nat}

theorem startSpindle_started (hb : bit (recMask r) i = true) (hl : launchOf s (16 * (8 * tile + i)) = some l)
    (hn : localOf (16 * (8 * tile + i)) = 0) :
    StartedAs (16 * (8 * tile + i)) l im.entry (r.getD 1 0) (startSpindle r im tile s i) := by
  unfold startSpindle
  dsimp only
  rw [if_pos hb]
  exact startCtx_started (s := modSpin s (8 * tile + i) launchSpindle) hl hn
theorem StartedAs.startSpindle (h : StartedAs n l im.entry (r.getD 1 0) s) (hl : launchOf s (16 * (8 * tile + i)) = some l)
    (hn : localOf (16 * (8 * tile + i)) = 0) : StartedAs n l im.entry (r.getD 1 0) (startSpindle r im tile s i) := by
  have hspin : StartedAs n l im.entry (r.getD 1 0) (modSpin s (8 * tile + i) launchSpindle) := h
  unfold Machine.startSpindle
  dsimp only
  split
  · exact hspin.startCtx hl hn
  · exact hspin

/-- R250: in a tile that a launch has taken, all its contexts are of that launch. -/
theorem launchOf_launchTile (hl : smFind s.launches num = some l) (hn : tileOf n = tile) :
    launchOf (modTile s tile fun x => launchTile x num tile r im) n = some l := by
  unfold launchOf
  rw [hn, tileAt_modTile_same]
  exact hl

theorem startTile_started (hl : smFind s.launches num = some l) (hi : i < 8) (hb : bit (recMask r) i = true) :
    StartedAs (16 * (8 * tile + i)) l im.entry (r.getD 1 0) (startTile num r im s tile) := by
  refine foldl_establishes (I := fun t => ∀ m, tileOf m = tile → launchOf t m = some l) (List.mem_range.2 hi) ?_ ?_ ?_
    fun m hm => launchOf_launchTile hl hm
  · intro t j _ ht m hm
    rw [(startSpindle_keeps ..).launchOf, ht m hm]
  · intro t ht
    obtain ⟨htile, hlocal⟩ := seat_of tile hi
    exact startSpindle_started hb (ht _ htile) hlocal
  · intro t j hj ht hstarted
    obtain ⟨htile, hlocal⟩ := seat_of tile (List.mem_range.1 hj)
    exact hstarted.startSpindle (ht _ htile) hlocal
theorem StartedAs.startTile (h : StartedAs n l im.entry (r.getD 1 0) s) (hl : smFind s.launches num = some l) :
    StartedAs n l im.entry (r.getD 1 0) (startTile num r im s tile) := by
  refine (foldl_keeps (P := fun t => (∀ m, tileOf m = tile → launchOf t m = some l) ∧ StartedAs n l im.entry (r.getD 1 0) t)
    (fun t j hj ⟨ht, hstarted⟩ => ⟨fun m hm => ?_, ?_⟩) ⟨fun m hm => launchOf_launchTile hl hm, h⟩).2
  · rw [(startSpindle_keeps ..).launchOf, ht m hm]
  · obtain ⟨htile, hlocal⟩ := seat_of tile (List.mem_range.1 hj)
    exact hstarted.startSpindle (ht _ htile) hlocal

/-- R250 step 6: a tile with nothing of an earlier launch. -/
def TileTaken (num tile : Nat) (im : Image4) (s : State) : Prop :=
  (tileAt s tile).launch = some num ∧ (tileAt s tile).maps = [] ∧ (tileAt s tile).acc = [] ∧ (tileAt s tile).dsize = im.dict.length

theorem tileAt_startTile (num : Nat) (r : List Word) (im : Image4) (s : State) (tile k : Nat) :
    tileAt (startTile num r im s tile) k = if k = tile then launchTile (tileAt s tile) num tile r im else tileAt s k := by
  unfold startTile
  rw [tileAt, (startSpindles_keep ..).tiles]
  exact tileAt_modTile ..
theorem startTile_taken (s : State) : TileTaken num tile im (startTile num r im s tile) := by
  unfold TileTaken
  rw [tileAt_startTile, if_pos rfl]
  exact ⟨rfl, rfl, rfl, rfl⟩
theorem TileTaken.startTile (h : TileTaken num m im s) : TileTaken num m im (startTile num r im s tile) := by
  by_cases hm : m = tile
  · subst hm
    exact startTile_taken s
  · unfold TileTaken
    rw [tileAt_startTile, if_neg hm]
    exact h
theorem startTile_keeps (num : Nat) (r : List Word) (im : Image4) (s : State) (tile : Nat) :
    (startTile num r im s tile).launches = s.launches ∧ (startTile num r im s tile).mem = s.mem := by
  obtain ⟨-, hlaunches, hmem⟩ := startSpindles_keep r im tile (List.range 8) (modTile s tile fun x => launchTile x num tile r im)
  exact ⟨hlaunches, hmem⟩

/-! ## The start of a launch (R250) -/

variable {pnum : Nat} {st : Stream}

theorem startLaunch_mem (s : State) (pnum : Nat) (st : Stream) (r : List Word) (im : Image4) : (startLaunch s pnum st r im).mem = s.mem := by
  rw [startLaunch_eq]
  refine foldl_keeps (P := fun t => t.mem = s.mem) (fun t b _ ht => ?_) rfl
  exact (startTile_keeps s.launchNext r im t b).2.trans ht
theorem startLaunch_taken (ht : tile ∈ recTiles r) : TileTaken s.launchNext tile im (startLaunch s pnum st r im) := by
  rw [startLaunch_eq]
  exact foldl_establishes (I := fun _ => True) ht (fun _ _ _ _ => trivial) (fun t _ => startTile_taken t)
    (fun t b _ _ htaken => htaken.startTile) trivial
theorem startLaunch_started (ht : tile ∈ recTiles r) (hi : i < 8) (hb : bit (recMask r) i = true) :
    StartedAs (16 * (8 * tile + i)) (launched pnum st r im) im.entry (r.getD 1 0) (startLaunch s pnum st r im) := by
  rw [startLaunch_eq]
  exact foldl_establishes (I := fun t => smFind t.launches s.launchNext = some (launched pnum st r im)) ht
    (fun t b _ hl => (congrArg (smFind · s.launchNext) (startTile_keeps s.launchNext r im t b).1).trans hl) (fun t hl => startTile_started hl hi hb)
    (fun t b _ hl hstarted => hstarted.startTile hl) (smFind_smIns_same ..)

theorem StartedAs.reads (h : StartedAs n l pc arg s) :
    (ctxOf s n).phase = .live ∧ (ctxOf s n).pc = codeTarget pc ∧ getX (ctxOf s n) 1 = arg ∧ (ctxOf s n).p = 0 := by
  obtain ⟨old, hold⟩ := h
  rw [hold]
  exact ⟨rfl, rfl, smGet_smSet_same 0 [] 1 arg, rfl⟩

/-! ## The launch record at the head of a stream (R250) -/

variable {k : Nat} {p : Part} {rest : List StreamRec}

/-- R251: a launch that fails leaves the stream once its completion record is written. -/
def failed (t : State) (k : Nat) (st : Stream) (rest : List StreamRec) : State :=
  modPart (setWants t (hsKey k st) []) k fun x => setStream x st rest

/-- R251: a launch that fails in a state t waits for the lines of its completion record. -/
def failWith (s t : State) (k : Nat) (st : Stream) (rest : List StreamRec) (r : List Word) (d0 : Nat) : State :=
  match complete t k r d0 with
  | .ok u => failed u k st rest
  | .error hs => setWants s (hsKey k st) hs

theorem failWith_ok {t u : State} {d0 : Nat} (h : complete t k r d0 = .ok u) : failWith s t k st rest r d0 = failed u k st rest := by
  rw [failWith, h]

section
variable (hrun : running s k = some p) (hst : p.stream st = .launch r :: rest) (hlink : st = .H → p.linkPhase = .up)
include hrun hst hlink

theorem launchStart_bad (hbad : badRecord r = true) : launchStart s k st = failWith s s k st rest r 1 := by
  unfold launchStart
  simp only [hrun, hst, hbad]
  exact if_neg fun h => h.2 (hlink h.1)
theorem launchStart_tiles (hbad : badRecord r = false) (hok : tilesOk s p r = false) :
    launchStart s k st = failWith s s k st rest r 2 := by
  unfold launchStart
  simp only [hrun, hst, hbad, hok]
  exact if_neg fun h => h.2 (hlink h.1)
/-- R250 step 3: with its tiles free, a launch does what its image says. -/
theorem launchStart_image (hbad : badRecord r = false) (hok : tilesOk s p r = true) (hfree : ∀ t ∈ recTiles r, (tileAt s t).launch = none) :
    launchStart s k st = match readImage s p k r with
      | .wait hs => setWants s (hsKey k st) hs
      | .fail d0 => failWith s (imageRead s p k r) k st rest r d0
      | .ok im => startLaunch (failed (imageRead s p k r) k st rest) k st r im := by
  have hnone : ((recTiles r).any fun t => (tileAt s t).launch.isSome) = false :=
    List.any_eq_false.2 fun t ht => by simp [hfree t ht]
  unfold launchStart
  simp only [hrun, hst, hbad, hok, hnone]
  exact if_neg fun h => h.2 (hlink h.1)

end

/-! ## The end of a launch (R251) -/

theorem launchEnd_done {u : State} (hl : smFind s.launches num = some l) (hover : launchOver s l = true) (hseal : l.sealed = false)
    (hc : complete (l.tiles.foldl dropLines s) l.part l.recd (if l.killed then 6 else 0) = .ok u) :
    launchEnd s num = { l.tiles.foldl freeTile (setWants u (hsKey l.part l.stream) []) with launches := smDel u.launches num } := by
  have hword : complWord (if l.killed then 6 else 0) 0 0 = if l.killed then 6 else 0 := by simp [complWord]
  simp only [launchEnd, hl, hover, hseal, hword, hc, Bool.not_true, Bool.false_eq_true, if_false]

end

end Sys2Proof.Machine
end

section
/-! PROOF. Partitions: configured, cleared, reset and removed (R346, R369). -/
namespace Sys2Proof.Machine
open Sys2Proof.Safety

section
variable {α : Type}

/-- A map whose keys are filtered. -/
theorem smFind_filter_key (q : Nat → Bool) (m : SMap α) (n : Nat) :
    smFind (m.filter fun e => q e.1) n = if q n then smFind m n else none := by
  induction m with
  | nil => simp
  | cons e m ih =>
    obtain ⟨j, x⟩ := e
    by_cases hn : n = j
    · subst hn
      cases hq : q n <;> simp [smFind, hq, ih]
    · cases hq : q j <;> simp [smFind, hq, hn, ih]
theorem smGet_filter_key (d : α) (q : Nat → Bool) (m : SMap α) (n : Nat) :
    smGet d (m.filter fun e => q e.1) n = if q n then smGet d m n else d := by
  unfold smGet
  rw [smFind_filter_key]
  split <;> rfl

end

section
variable {s : State} {k n : Nat} {p : Part} {c : PartConf}

theorem measExtend_keeps (s : State) (i : Nat) (d : List Byte) :
    (measExtend s i d).parts = s.parts ∧ (measExtend s i d).mem = s.mem := ⟨rfl, rfl⟩
theorem measureConf_keeps (s : State) (k : Nat) (c : PartConf) :
    (measureConf s k c).parts = s.parts ∧ (measureConf s k c).mem = s.mem := by
  simp only [measureConf, measExtend_keeps, and_self]

/-- R346, R432: a partition as its configuration makes it, with what the host has opened and written already. -/
def configuring (s : State) (k : Nat) (c : PartConf) : Part :=
  { st := .configuring, conf := c, windows := smGet [] s.preWindows k, fp := smGet [] s.preFp k }

theorem configure_accepts (hb : booted s 6 = true) (hk : k < 8) (hp : partAt s k = none) (hc : confOk s c = true) :
    partAt (configure s k c) k = some (configuring s k c) ∧ (configure s k c).mem = s.mem := by
  have heq : configure s k c = measureConf (setPart { s with preWindows := smDel s.preWindows k, preFp := smDel s.preFp k } k
      (configuring s k c)) k c := if_pos ⟨hb, hk, hp, hc⟩
  obtain ⟨hparts, hmem⟩ := measureConf_keeps
    (setPart { s with preWindows := smDel s.preWindows k, preFp := smDel s.preFp k } k (configuring s k c)) k c
  rw [heq, partAt, hparts, hmem]
  exact ⟨partAt_setPart_same .., rfl⟩
theorem configure_refuses (hc : confOk s c = false) : configure s k c = reply s .refused :=
  if_neg fun h => by simp [hc] at h

/-! ## Clearing -/

/-- R346: a tile that has been cleared. -/
def TileCleared (tile : Nat) (s : State) : Prop :=
  (∀ n, n / 128 = tile → ctxOf s n = Ctx.empty) ∧ (tileAt s tile).stash = [] ∧ (tileAt s tile).acc = []

theorem ctxOf_clearTile (s : State) (tile n : Nat) : ctxOf (clearTile s tile) n = if tileOf n = tile then Ctx.empty else ctxOf s n := by
  refine (smGet_filter_key Ctx.empty (fun n => tileOf n != tile) s.ctxs n).trans ?_
  by_cases h : tileOf n = tile <;> simp [h, ctxOf]
theorem tileAt_clearTile (s : State) (tile m : Nat) :
    tileAt (clearTile s tile) m = if m = tile then { svc := serviceStore s, dead := (tileAt s tile).dead } else tileAt s m :=
  tileAt_setTile ..

theorem clearTile_cleared (s : State) (tile : Nat) : TileCleared tile (clearTile s tile) := by
  refine ⟨fun n hn => ?_, ?_⟩
  · rw [ctxOf_clearTile, if_pos (show tileOf n = tile from hn)]
  · rw [tileAt_clearTile, if_pos rfl]
    exact ⟨rfl, rfl⟩
theorem TileCleared.clearTile {tile : Nat} (h : TileCleared tile s) (b : Nat) : TileCleared tile (clearTile s b) := by
  by_cases hb : tile = b
  · subst hb
    exact clearTile_cleared s tile
  · obtain ⟨hctxs, hstore⟩ := h
    refine ⟨fun n hn => ?_, ?_⟩
    · rw [ctxOf_clearTile, if_neg (by unfold tileOf; omega), hctxs n hn]
    · rw [tileAt_clearTile, if_neg hb]
      exact hstore

/-- R346: a slice that has been cleared. -/
def SliceCleared (sl : Nat) (s : State) : Prop := (sliceAt s sl).tcache = [] ∧ (sliceAt s sl).monitors = []

theorem clearSlice_cleared (s : State) (sl : Nat) : SliceCleared sl (clearSlice s sl) := by
  unfold SliceCleared clearSlice
  rw [sliceAt_setSlice_same]
  exact ⟨rfl, rfl⟩
theorem SliceCleared.clearSlice {sl : Nat} (h : SliceCleared sl s) (b : Nat) : SliceCleared sl (clearSlice s b) := by
  by_cases hb : sl = b
  · subst hb
    exact clearSlice_cleared s sl
  · unfold SliceCleared Machine.clearSlice
    rw [sliceAt_setSlice_other s hb]
    exact h

/-- R346: the parts of a clearing, in order: tiles, slices, memory, the owners of channels, agent cores. -/
def clearUnits (s : State) (c : PartConf) : State := c.slices.foldl clearSlice (c.tiles.foldl clearTile s)
def ownChannels (k : Nat) (s : State) (chs : List Nat) : State :=
  chs.foldl (fun s ch => { s with chanOwner := smSet 0 s.chanOwner ch (k + 1) }) s
def zeroedIf (b : Bool) (s : State) (chs : List Nat) : State := if b then zeroChannels s chs else s

theorem clearDone_eq (hp : partAt s k = some p) (hst : p.st ≠ .running) : clearDone s k =
    setPart (p.conf.cores.foldl startCore (ownChannels k
      (zeroedIf (p.st == .configuring) (clearUnits s p.conf) (newChannels (clearUnits s p.conf) k p.conf)) (confChannels p.conf)))
      k { p with st := .running, asids := [] } := by
  unfold clearDone
  rw [hp]
  dsimp only
  rw [if_neg hst]
  cases p.st <;> rfl

/-- What the clearing of tiles and slices leaves: the device's number, the owners of its channels. -/
structure ClearKeeps (s t : State) : Prop where
  dom : t.dom = s.dom
  chanOwner : t.chanOwner = s.chanOwner

theorem clearUnits_keeps (s : State) (c : PartConf) : ClearKeeps s (clearUnits s c) := by
  have htrans (s t u : State) (h : ClearKeeps s t) (g : ClearKeeps t u) : ClearKeeps s u :=
    ⟨g.dom.trans h.dom, g.chanOwner.trans h.chanOwner⟩
  exact htrans _ _ _ (foldl_related (f := clearTile) (fun _ => ⟨rfl, rfl⟩) htrans (fun _ _ => ⟨rfl, rfl⟩) c.tiles s)
    (foldl_related (f := clearSlice) (fun _ => ⟨rfl, rfl⟩) htrans (fun _ _ => ⟨rfl, rfl⟩) c.slices _)

/-- What the zeroing of memory, the owners of channels and the start of agent cores leave: contexts, tiles, slices. -/
structure UnitsStay (s t : State) : Prop where
  ctxs : t.ctxs = s.ctxs
  tiles : t.tiles = s.tiles
  slices : t.slices = s.slices

theorem UnitsStay.refl (s : State) : UnitsStay s s := ⟨rfl, rfl, rfl⟩
theorem UnitsStay.trans {t u : State} (h : UnitsStay s t) (g : UnitsStay t u) : UnitsStay s u :=
  ⟨g.ctxs.trans h.ctxs, g.tiles.trans h.tiles, g.slices.trans h.slices⟩

theorem ownChannels_keeps (k : Nat) (s : State) (chs : List Nat) : UnitsStay s (ownChannels k s chs) ∧ (ownChannels k s chs).mem = s.mem :=
  foldl_keeps (f := fun s ch => { s with chanOwner := smSet 0 s.chanOwner ch (k + 1) })
    (P := fun t => UnitsStay s t ∧ t.mem = s.mem) (fun _ _ _ h => ⟨h.1.trans ⟨rfl, rfl, rfl⟩, h.2⟩) ⟨UnitsStay.refl s, rfl⟩
theorem startCores_keep (s : State) (ks : List Nat) : UnitsStay s (ks.foldl startCore s) ∧ (ks.foldl startCore s).mem = s.mem :=
  foldl_keeps (f := startCore) (P := fun t => UnitsStay s t ∧ t.mem = s.mem) (fun _ _ _ h => ⟨h.1.trans ⟨rfl, rfl, rfl⟩, h.2⟩) ⟨UnitsStay.refl s, rfl⟩
theorem zeroedIf_stay (b : Bool) (s : State) (chs : List Nat) : UnitsStay s (zeroedIf b s chs) := by
  cases b <;> exact ⟨rfl, rfl, rfl⟩

theorem clearUnits_tile {tile : Nat} (ht : tile ∈ c.tiles) : TileCleared tile (clearUnits s c) :=
  foldl_keeps (f := clearSlice) (P := TileCleared tile) (fun _ _ _ h => h)
    (foldl_establishes (I := fun _ => True) ht (fun _ _ _ _ => trivial) (fun t _ => clearTile_cleared t tile)
      (fun _ b _ _ h => h.clearTile b) trivial)
theorem clearUnits_slice {sl : Nat} (hsl : sl ∈ c.slices) : SliceCleared sl (clearUnits s c) :=
  foldl_establishes (I := fun _ => True) hsl (fun _ _ _ _ => trivial) (fun t _ => clearSlice_cleared t sl)
    (fun _ b _ _ h => h.clearSlice b) trivial

theorem UnitsStay.tile {t : State} {tile : Nat} (h : UnitsStay s t) (hs : TileCleared tile s) : TileCleared tile t := by
  unfold TileCleared ctxOf tileAt at *
  rw [h.ctxs, h.tiles]
  exact hs
theorem UnitsStay.slice {t : State} {sl : Nat} (h : UnitsStay s t) (hs : SliceCleared sl s) : SliceCleared sl t := by
  unfold SliceCleared sliceAt at *
  rw [h.slices]
  exact hs

/-- R346, R404: a byte of a channel that is zeroed reads 0. -/
theorem memByte_zeroChannels (s : State) (chs : List Nat) {a : Nat} (h : onChannels s chs a = true) : memByte (zeroChannels s chs) a = 0 := by
  refine (smGet_filter_key 0 (fun a => !onChannels s chs a) s.mem a).trans (if_neg ?_)
  simp [h]
theorem ClearKeeps.onChannels {t : State} (h : ClearKeeps s t) (chs : List Nat) (a : Nat) : onChannels t chs a = onChannels s chs a := by
  unfold Machine.onChannels
  rw [h.dom]
theorem ClearKeeps.newChannels {t : State} (h : ClearKeeps s t) (k : Nat) (c : PartConf) : newChannels t k c = newChannels s k c := by
  unfold Machine.newChannels
  rw [h.chanOwner]

/-- R346: a partition that has been cleared runs. -/
theorem clearDone_clears (hp : partAt s k = some p) (hst : p.st ≠ .running) :
    partAt (clearDone s k) k = some { p with st := .running, asids := [] } ∧
    UnitsStay (clearUnits s p.conf) (clearDone s k) ∧
    (∀ a, p.st = .configuring → onChannels s (newChannels s k p.conf) a = true → memByte (clearDone s k) a = 0) := by
  rw [clearDone_eq hp hst]
  generalize hz : zeroedIf (p.st == .configuring) (clearUnits s p.conf) (newChannels (clearUnits s p.conf) k p.conf) = z
  obtain ⟨hstayOwn, hmemOwn⟩ := ownChannels_keeps k z (confChannels p.conf)
  obtain ⟨hstay, hmem⟩ := startCores_keep (ownChannels k z (confChannels p.conf)) p.conf.cores
  have hzero : UnitsStay (clearUnits s p.conf) z := hz ▸ zeroedIf_stay ..
  refine ⟨partAt_setPart_same .., (hzero.trans (hstayOwn.trans hstay)).trans ⟨rfl, rfl, rfl⟩, fun a hconf ha => ?_⟩
  have hkeeps := clearUnits_keeps s p.conf
  have hbyte : memByte z a = 0 := by
    rw [← hz, hconf, hkeeps.newChannels]
    exact memByte_zeroChannels _ _ ((hkeeps.onChannels ..).trans ha)
  exact (congrArg (smGet 0 · a) (hmem.trans hmemOwn)).trans hbyte

/-! ## Reset and removal -/

/-- R346: a partition whose work has been ended. -/
def workEnded (s : State) (p : Part) : Part :=
  { p with asids := p.asids.map fun e => (e.1, { e.2 with st := .retiring, since := s.time })
           streamH := [], streamA := [], streamD := [], fpHeld := [], apHeld := [], loss := [], tools := [] }

theorem partAt_modPart_same (s : State) (k : Nat) (f : Part → Part) : partAt (modPart s k f) k = (partAt s k).map f := by
  unfold modPart
  cases h : partAt s k with
  | none => exact h
  | some x => exact partAt_setPart_same ..
theorem endWork_idle (hp : partAt s k = some p) (hl : s.launches = []) (hf : s.futs = []) :
    partAt (endWork s k) k = some (workEnded s p) := by
  unfold endWork freeChuck
  simp only [hl, hf, List.filter_nil, List.foldl_nil]
  exact (partAt_modPart_same ..).trans (congrArg (Option.map _) hp)
theorem resetPart_idle (hp : partAt s k = some p) (hst : p.st = .running) (hl : s.launches = []) (hf : s.futs = []) :
    partAt (resetPart s k) k = some { workEnded s p with st := .resetting } := by
  rw [resetPart, running_iff.2 ⟨hp, hst⟩]
  dsimp only
  rw [partAt_modPart_same, endWork_idle hp hl hf]
  rfl
theorem workEnded_retires {a : Nat} {d : Asid} (h : smFind (workEnded s p).asids a = some d) : d.st = .retiring := by
  have hmap := (smFind_map_values (fun e : Asid => ({ e with st := .retiring, since := s.time } : Asid)) p.asids a).symm.trans h
  obtain ⟨e, -, rfl⟩ := Option.map_eq_some_iff.1 hmap
  rfl
theorem removePart_absent (hp : partAt s k = some p) (hst : p.st = .running) : partAt (removePart s k) k = none := by
  rw [removePart, running_iff.2 ⟨hp, hst⟩]
  exact smFind_smDel_same ..

end

end Sys2Proof.Machine
end

section
/-! PROOF. O50: streams, launches and partitions (R246, R247, R250, R251, R346, R369, R422 to R424). -/
namespace Sys2Proof.Scheduling
open Sys2Proof.Machine Sys2Proof.Safety

/-- Settles O50: each event by what its head record and the state of its partition make it do; what a launch and a clearing set is kept by
what they do after it. -/
theorem headstockEvents : Obligations.HeadstockEvents := by
  refine ⟨fun s k p hrun => ?_, fun u k n st r im ht hn hb => ?_,
    fun s u num l hl hover hseal hc => congrArg Host.Outcome.next (launchEnd_done hl hover hseal hc),
    fun s k c hk hstep hrec => ⟨fun hp hc => ?_, fun off v hp hoff hal => ?_, fun hc => congrArg Host.Outcome.next (configure_refuses hc)⟩,
    fun s k p hp => ⟨fun hst => ?_, fun hst => ⟨fun hl hf => ?_, ?_⟩, fun d hst hlen => congrArg Host.Outcome.next ?_⟩⟩
  · obtain ⟨hp, hst⟩ := running_iff.1 hrun
    refine ⟨fun off v hk hstep hrec hoff hal => ?_, fun hheld => congrArg Host.Outcome.next ?_,
      fun i slot hslot => ⟨acceptH_other hrun hslot, fun heq hroom => ?_, acceptH_waits hrun hslot⟩,
      fun core off v => execStreamASlotWrite_eq v hrun,
      fun m i slot hslot => ⟨fun hne => ?_, fun heq hroom => ?_, fun heq hfull => ?_⟩,
      fun st slot rest opc hhead hlink hlease hok hopc => ?_, pubLines_eq s k,
      fun st slot rest opc h hs hhead hlink hopc hle hlease i hi hio => ?_, fun st r rest hhead hlink => ?_⟩
    · refine (execFaceplateSlotWrite_eq v hk hstep hrec hoff hal).trans ?_
      rw [hp]
    · simp only [examineH, hp, hheld, List.foldl_cons, List.foldl_nil]
    · rw [acceptH_enters hrun hslot heq hroom]
      exact ⟨((pubMark_keeps ..).1 k).trans (partAt_setPart_same ..), rfl⟩
    · exact acceptAllA_stops hp (acceptA_other hrun hslot hne) (partAt_setPart_same ..) rfl
    · have hq := acceptA_enters hrun hslot heq hroom
      exact ⟨hq, acceptAllA_goesOn hp hq (by simp)⟩
    · exact acceptAllA_stops hp (acceptA_waits hrun hslot heq hfull) (partAt_setPart_same ..) rfl
    · have hcmd := headCmd_cmd hrun hhead hlink
      refine ⟨fun h => congrArg Host.Outcome.next (takeNop_done hcmd hopc.symm hlease hok h),
        fun r h hrec hread => congrArg Host.Outcome.next (takeLaunch_done hcmd hopc.symm hlease hok h hrec hread),
        fun h hend => congrArg Host.Outcome.next (takeMark_done hcmd hopc.symm hlease hok h hend),
        fun a n h ha hn hlast hlines u p2 hu hp2 => congrArg Host.Outcome.next ?_⟩
      subst hu
      exact takePublish_done hcmd hopc.symm hlease hok h ha hn hlast hlines hp2
    · have hcmd := headCmd_cmd hrun hhead hlink
      have hslot := hopc.symm.trans hio
      simp only [List.mem_cons, List.not_mem_nil, or_false] at hi
      rcases hi with rfl | rfl | rfl | rfl
      all_goals exact congrArg Host.Outcome.next (takeCmd_waits hcmd hslot rfl hlease)
    · refine ⟨fun hbad t hc => ?_, fun hbad hok t hc => ?_, fun im hbad hok hfree him => ?_, fun d0 t hbad hok hfree him hc => ?_,
        fun hs hbad hok hfree him => ?_⟩
      · exact congrArg Host.Outcome.next ((launchStart_bad hrun hhead hlink hbad).trans (failWith_ok hc))
      · exact congrArg Host.Outcome.next ((launchStart_tiles hrun hhead hlink hbad hok).trans (failWith_ok hc))
      all_goals
        have hstart := launchStart_image hrun hhead hlink hbad hok hfree
        rw [him] at hstart
      · exact congrArg Host.Outcome.next hstart
      · exact congrArg Host.Outcome.next (hstart.trans (failWith_ok hc))
      · exact congrArg Host.Outcome.next hstart
  · obtain ⟨hlaunch, hmaps, hacc, hdsize⟩ := startLaunch_taken (s := u) (pnum := k) (st := st) (im := im) ht
    have hseat : n = 16 * (8 * (n / 128) + n / 16 % 8) := by omega
    have hstarted := startLaunch_started (s := u) (pnum := k) (st := st) (im := im) ht (Nat.mod_lt _ (by decide)) ((bit_eq_testBit ..).trans hb)
    rw [← hseat] at hstarted
    obtain ⟨hphase, hpc, hx, hpred⟩ := hstarted.reads
    exact ⟨hphase, hpc, hx, hpred, hlaunch, hmaps, hacc, hdsize, fun a => congrArg (smGet 0 · a) (startLaunch_mem ..)⟩
  · obtain ⟨hpart, hmem⟩ := configure_accepts (booted_of hstep hrec) hk hp hc
    exact ⟨_, rfl, hpart, hmem⟩
  · refine (execFaceplateSlotWrite_eq v hk hstep hrec hoff hal).trans ?_
    rw [hp]
  · obtain ⟨hpart, hstay, hzero⟩ := clearDone_clears hp hst
    exact ⟨_, rfl, hpart, fun tile ht => hstay.tile (clearUnits_tile ht), fun sl hsl => hstay.slice (clearUnits_slice hsl), hzero⟩
  · exact ⟨_, _, rfl, resetPart_idle hp hst hl hf, rfl, rfl, rfl, fun a d => workEnded_retires⟩
  · exact ⟨_, rfl, removePart_absent hp hst⟩
  · rw [if_pos ⟨by rw [running_iff.2 ⟨hp, hst⟩]; rfl, hlen⟩]
    rfl

end Sys2Proof.Scheduling
end
